-- ==== Sys2Proof/Word.lean ====
section
/-! DEFINITION. The words of the XQ-700: a byte and the FP32 bit pattern, with the bead distance of R44. -/

namespace Sys2Proof

/-- A byte of a capsule, a register or a memory (R9). -/
abbrev Byte := BitVec 8

/-- The bits of an FP32 value (R122). -/
abbrev F32 := BitVec 32

/-- The number of beads after a publication or a delete at which its leftovers are freed (R44, R46, R47). -/
abbrev graceBeads : Nat := 4096

end Sys2Proof
end

