-- ==== Sys2Proof/Syntax.lean ====
section
/-! DEFINITION. The commands of the block: one constructor of `Instr` for each row of the table of operations and
events, with its operands. What a row leaves to the world outside the sequencer (a sensor's reading, an engine's outcome,
the order in which parts arrive) is an operand. -/

namespace Sys2Proof

/-- A capsule as the command queue holds it after its acknowledgement: where it arrived, and the header of R266 less
its opcode, which the row names. `area` is the parameter area, byte 24 in its lowest 8 bits. -/
structure Capsule where
  port : Nat
  conn : Nat
  flags : BitVec 8
  rsv : BitVec 16
  queue : BitVec 15
  tag : BitVec 5
  coll : BitVec 12
  deadline : BitVec 12
  k : BitVec 17
  rsvHi : BitVec 3
  len : BitVec 32
  cookie : BitVec 64
  area : BitVec 320
  body : List Byte
  deriving DecidableEq, Repr

/-- A CONNECT datagram: the address it was sent to, where it came from, and its type body (R243, R288). -/
structure ConnectDg where
  port : Nat
  dst : BitVec 128
  src : BitVec 128
  srcPort : Nat
  admin : Bool
  altValid : Bool
  altAddr : BitVec 128
  altPort : Nat
  deriving DecidableEq, Repr

/-- A DATA segment from the host, and where it came from (R244, R288). -/
structure DataDg where
  port : Nat
  src : BitVec 128
  srcPort : Nat
  conn : Nat
  first : Bool
  last : Bool
  seq : BitVec 32
  ackSeq : BitVec 32
  body : List Byte
  deriving DecidableEq, Repr

/-- What an Ethernet frame carries (R237, R240, R241); a priority PAUSE names its class and how long it holds (R242). -/
inductive FrameKind where
  | arp | neighbour | echo
  | ptp (offsetNs : Int) (fabricNs : Nat)
  | udp (v4 : Bool) (sumOk sumZero : Bool) (dstPort : Nat) (src : BitVec 128) (srcPort : Nat) (body : List Byte)
  | pause (mgmt : Bool) (ns : Nat)
  | otherIp | nonIp
  deriving DecidableEq, Repr

/-- A received Ethernet frame: its size and what the checks of R237, R238, R240 and R242 look at: its 802.1Q tag, its
destination MAC address, its IP packet's length (0 without IP) and destination, or the address that an ARP or a neighbour
request asks for. -/
structure Frame where
  port : Nat
  bytes : Nat
  fcsOk : Bool
  tag : Option (BitVec 16)
  mac : BitVec 48
  ipLen : Nat
  fragment : Bool
  dst : BitVec 128
  kind : FrameKind
  deriving DecidableEq, Repr

/-- The access a source carries into a capture (R342): access code, address and master of FCOL_CAPTURE. -/
structure Access where
  access : BitVec 3
  addr : BitVec 64
  master : BitVec 16
  deriving DecidableEq, Repr

/-- A sensor of R366. -/
inductive Sensor where
  | facet (f : Nat)
  | die (d : Nat)
  | hub
  | flash (c : Nat)
  deriving DecidableEq, Repr

/-- A unit that BLOCK_RESET or a fence names (R345, R346). -/
inductive UnitName where
  | facet (f : Nat)
  | scanner (b : Nat)
  | dieClasp (d : Nat)
  | dieCtrl (d : Nat)
  | moduleClasp
  | core (isA : Bool)
  | flash (c : Nat)
  | prong (c : Nat)
  | hbm (ch : Nat)
  | link (l : Nat)
  | port (p : Nat)
  | nothing
  deriving DecidableEq, Repr

/-- How a piece ends (R226, R231). -/
inductive PieceResult where
  | ok
  | uncorrectable
  deriving DecidableEq, Repr

/-- How a flash read leaves its recovery ladder (R206): the steps it took and whether it was recovered. -/
structure LadderEnd where
  retries : Nat
  soft : Bool
  rebuilt : Bool
  recovered : Bool
  deriving DecidableEq, Repr

/-- Element formats of the memory-side adders (R182). -/
inductive MsaFmt where
  | int32 | int64 | fp32 | bf16
  deriving DecidableEq, Repr

/-- The failed or repaired element a notice names (R303). -/
inductive Elem where
  | link (addr : BitVec 20) (l : Nat)
  | module (addr : BitVec 20)
  deriving DecidableEq, Repr

structure Notice where
  origin : BitVec 20
  num : BitVec 16
  elem : Elem
  effBead : Nat
  deriving DecidableEq, Repr

/-- The message header of R300, less TYPE and LENGTH, which the row and its body give. -/
structure MsgHdr where
  dest : BitVec 24
  src : BitVec 24
  detours : BitVec 2
  waypoints : BitVec 2
  wpOn : Bool
  revDim : BitVec 3
  waypoint : BitVec 20
  bead : Nat                    -- the sender's bead number (R104)
  bundle : Nat                  -- admission bead that a QUERY or BUNDLE message names, beside the header (log entry 108)
  qroot : BitVec 20
  qserial : BitVec 32
  tree : BitVec 12
  deriving DecidableEq, Repr

/-- An entry of a result list in the form of R96. -/
structure ListEntry where
  itemId : BitVec 64
  dist : F32
  slot : Nat
  module : BitVec 20
  epoch : BitVec 16
  notReranked : Bool
  bridged : Bool
  side : Bool
  payMissing : Bool
  deriving DecidableEq, Repr

/-- A missed record of R116. -/
structure MissedRec where
  module : BitVec 20
  segment : BitVec 16
  cause : BitVec 4
  whole : Bool
  deriving DecidableEq, Repr

/-- A shard record of R311. -/
structure ShardRec where
  shard : BitVec 32
  module : BitVec 20
  i : Nat
  s : Nat
  missed : List MissedRec
  deriving DecidableEq, Repr

/-- The LIST body of R311. -/
structure ListBody where
  entries : List ListEntry
  cutTies : Nat
  missed : List MissedRec
  dedup : Nat
  inRadius : Nat
  foldI : Nat
  foldS : Nat
  shards : List ShardRec
  members : List (BitVec 20 × BitVec 4)
  selectCut : Bool
  overflow : Bool
  deriving DecidableEq, Repr

/-- A received IDENT message (R297, R298). `sig` and `cert` are checked by the locket. -/
structure IdentMsg where
  deviceId : BitVec 128
  pubKey : BitVec 512
  cert : List Byte
  addr : BitVec 20
  link : Nat
  periodUs : Nat
  fabricId : BitVec 64
  nonce : BitVec 128
  partner : BitVec 20
  sig : BitVec 512
  deriving DecidableEq, Repr

/-- The instructions of the test access port (R355). -/
inductive ScanInstr where
  | bypass | idcode | samplePreload | extest | extestPulse | extestTrain | wrapper
  deriving DecidableEq, Repr

/-- An access on the FRU memory's I2C pair (R396). -/
inductive FruOp where
  | read (addr : Nat)
  | write (addr : Nat) (v : Byte)
  deriving DecidableEq, Repr

/-- A clasp stage that starts its merge (the table of clasp stages, ch. 04). -/
inductive ClaspStage where
  | die (d : Nat)
  | module
  | fabric
  deriving DecidableEq, Repr

/-- The commands, in the order of the table. -/
inductive Instr where
  | search (c : Capsule)
  | searchRange (c : Capsule)
  | readItem (c : Capsule)
  | insert (c : Capsule)
  | delete (c : Capsule)
  | upsert (c : Capsule)
  | flush (c : Capsule)
  | filterPut (c : Capsule)
  | filterDrop (c : Capsule)
  | learnStart (c : Capsule)
  | learnStop (c : Capsule)
  | epochPromote (c : Capsule)
  | mergeHint (c : Capsule)
  | identify (c : Capsule)
  | collectionCreate (c : Capsule)
  | collectionDelete (c : Capsule)
  | collectionAttach (c : Capsule)
  | collectionDetach (c : Capsule)
  | queueCreate (c : Capsule)
  | queueDelete (c : Capsule)
  | settingLoad (c : Capsule)
  | firmwareLoad (c : Capsule)
  | attest (c : Capsule)
  | powerState (c : Capsule)
  | keyLoad (c : Capsule)
  | mgmtRead (c : Capsule)
  | mgmtWrite (c : Capsule)
  | eventArm (c : Capsule)
  | commandReady (queue tag : Nat)
  | writeCommit (queue tag : Nat) (slot : Nat) (ord : List Nat)
  | flushComplete (queue tag : Nat)
  | collectionWorkEnd (coll : Nat)
  | connect (d : ConnectDg)
  | data (d : DataDg)
  | ack (port conn : Nat) (ackSeq : BitVec 32)
  | close (port conn : Nat)
  | closeTakesEffect (conn : Nat)
  | replyRetransmit (conn : Nat)
  | queue0Rebind (conn : Nat)
  | ethernetFrame (f : Frame)
  | ptpMessage (port : Nat) (offsetNs : Int) (fabricNs : Nat)
  | hostPortDown (port : Nat)
  | hostPortUp (port : Nat)
  | osfpCageOvercurrent (port : Nat)
  | hostifRateWrite (port : Nat) (rate : BitVec 2)
  | hostifAddressWrite (port : Nat) (off : Nat) (v : BitVec 64)
  | hostifLoopback (port : Nat)
  | beadEdge (pkgMw : Nat) (ord : List Nat)
  | admissionGap
  | cutPoint
  | multicastWindowClose (tree : Nat)
  | ppsInEdge (offsetNs : Int) (widthNs : Nat)
  | holdover
  | linkTimeExchange (link : Nat) (offsetNs : Int) (fabricNs : Nat)
  | bringUpInterval
  | pwrEnRise
  | powerGood (mv : Nat)
  | pwrEnFall
  | resetNLow (widthNs : Nat)
  | resetNRelease
  | inputStepFall (mv : Nat)
  | inputStepRise (mv : Nat)
  | overvoltage (mv : Nat)
  | railDroop (rail : Nat) (droopPermille : Nat)
  | holdupFlushComplete
  | holdupMeasurement (t100us : Nat)
  | moduleReset
  | pllUnlock (refLost : Bool)
  | preparationEnd
  | entryProperComplete
  | exitComplete
  | hbmStackTempRise (stack : Nat) (t16 : Int)
  | hbmStackTempFall (stack : Nat) (t16 : Int)
  | thermalCrossing (s : Sensor) (t16 : Int)
  | hardwareTrip (die : Nat)
  | sourceLatch (col : Nat) (mask : BitVec 64) (acc : Access) (unit : UnitName)
  | collectorSelf (col : Nat) (reactionState : Bool)
  | blockResetComplete (unit : UnitName) (pass : Bool)
  | coreWatchdogExpiry (a b : Bool)
  | coreReady (isA : Bool)
  | coreStop (isA : Bool)
  | snap (space : Nat)
  | clear (space : Nat) (off : Nat) (all : Bool)
  | fcolStatusClear (col : Nat) (mask : BitVec 64)
  | fcolForce (col : Nat) (mask : BitVec 64)
  | settingSpareHold (hold : BitVec 4)
  | facetFence (f : Nat)
  | facetBist (f : Nat)
  | facetBistDone (f : Nat) (pass : Bool)
  | facetRelease (f : Nat)
  | nearmemMbist (b : Nat)
  | nearmemMbistDone (b : Nat) (pass : Bool)
  | nearmemReturn (b : Nat)
  | hbmChRetrain (ch : Nat)
  | hbmRetrainStart (ch : Nat)
  | hbmRetrainEnd (ch : Nat) (pass : Bool)
  | hbmRetrainTimeout (ch : Nat)
  | pinnedCopyRestore (coll page : Nat)
  | pageRefill (coll page : Nat)
  | hbmMbist (ch : Nat)
  | hbmMbistDone (ch : Nat) (pass : Bool)
  | hbmReturn (ch : Nat)
  | flashChRetrain (c : Nat)
  | flashIfRetrainStart (c : Nat)
  | flashIfRetrainEnd (c : Nat) (pass : Bool)
  | flashIfRetrainTimeout (c : Nat)
  | flashScrub (c : Nat)
  | flashBypass (c : Nat)
  | flashReturn (c : Nat) (rate : BitVec 2)
  | flashProngTest (c : Nat)
  | prongTestDone (c : Nat) (pass : Bool)
  | wearLevelling (c : Nat)
  | readDisturbRefresh (c block : Nat)
  | retentionScrub (c block : Nat) (weak : List Nat)
  | freeBlockCollection (c : Nat)
  | relocationComplete (unit : Nat) (chan block : Nat)
  | unitDrain (coll page : Nat) (chan block : Nat)
  | recoveryLadderEnd (c coll page : Nat) (r : LadderEnd)
  | nop (sid : Nat)
  | seta (sid : Nat) (x : BitVec 3) (imm : BitVec 48)
  | adda (sid : Nat) (x y : BitVec 3) (imm : BitVec 48)
  | sets (sid : Nat) (x : BitVec 3) (imm : BitVec 48)
  | loop (sid : Nat) (x : BitVec 3) (imm : BitVec 48)
  | endl (sid : Nat) (x : BitVec 3)
  | read (sid : Nat) (x : BitVec 3) (f : BitVec 4) (imm : BitVec 48)
  | gather (sid : Nat) (x y : BitVec 3) (f : BitVec 4) (imm : BitVec 48)
  | skipmap (sid : Nat) (y : BitVec 3) (imm : BitVec 48)
  | tag (sid : Nat) (f : BitVec 4) (imm : BitVec 48)
  | bead (sid : Nat) (imm : BitVec 48)
  | write (sid : Nat) (x : BitVec 3)
  | msaop (sid : Nat) (x : BitVec 3) (f : BitVec 4)
  | halt (sid : Nat)
  | msaAdd (ch : Nat) (addr : Nat) (fmt : MsaFmt) (v : BitVec 64)
  | msaMin (ch : Nat) (addr : Nat) (fmt : MsaFmt) (v : BitVec 64)
  | msaMax (ch : Nat) (addr : Nat) (fmt : MsaFmt) (v : BitVec 64)
  | pieceComplete (sid slot : Nat) (r : PieceResult)
  | prongScreen (sid slot : Nat)
  | prongGate (sid slot : Nat)
  | prongPass (sid slot : Nat)
  | slotTake (sid : Nat) (scale : Option (List Byte)) (ord : List Nat)
  | slotFinish (sid : Nat)
  | compaction (qid : Nat)
  | halfScaleRepeat (qid : Nat) (ord : List Nat)
  | repeatedPass (qid : Nat)
  | claspMergeStart (qid : Nat) (st : ClaspStage) (ties : List Nat)
  | searchReply (qid : Nat)
  | readItemReply (queue tag : Nat) (uncorrectable : Bool)
  | mergeBuildComplete (coll : Nat) (aborted : Bool) (ord : List Nat)
  | signatureBuildComplete (coll : Nat) (aborted : Bool) (ord : List Nat)
  | microBatchStart (run : Nat)
  | optimiserUpdate (run : Nat) (aborted : Bool) (sid : Nat)
  | driftWindowEnd
  | learnDriftWindowWrite (v : BitVec 64)
  | learnDriftLimitWrite (v : BitVec 64)
  | learnSatClearOne (queue : Nat)
  | learnSatClearTensor (queue : Nat)
  | partialSettingFence
  | partialSettingRelease
  | linkTrainingComplete (l : Nat) (peer : Option (BitVec 128))
  | ident (l : Nat) (m : IdentMsg)
  | discoveryTimeout
  | linkDown (l : Nat)
  | linkRetrainTimer (l : Nat)
  | retry (l : Nat) (seq : BitVec 16)
  | flitError (l : Nat) (uncorrectable : Bool)
  | faultNotice (l : Nat) (n : Notice)
  | repairNotice (l : Nat) (n : Notice)
  | mgmtAccess (l : Nat) (h : MsgHdr) (body : List Byte)
  | query (l : Nat) (h : MsgHdr) (range : Bool) (c : Capsule)
  | bundleEnd (l : Nat) (h : MsgHdr)
  | bundleAck (l : Nat) (h : MsgHdr)
  | bundleDrop (l : Nat) (h : MsgHdr)
  | list (l : Nat) (h : MsgHdr) (b : ListBody)
  | gatherReq (l : Nat) (h : MsgHdr) (slots : List Nat)
  | gatherRows (l : Nat) (h : MsgHdr) (rows : List (Nat × List Byte))
  | fabricLinkRetrain (l : Nat)
  | fabricLoopback (l : Nat)
  | fabricSetDown (l : Nat)
  | revokeSlot
  | advanceLifecycle
  | debugOpen
  | setDebugLock
  | hubHotClear
  | boundaryScanInstruction (i : ScanInstr)
  | fruAccess (op : FruOp)
  | osfpModuleInserted (port : Nat) (supported : Bool)
  | osfpModuleRemoved (port : Nat)
  | installationComplete (coll page : Nat)
  | credit (l : Nat) (ackSeq : BitVec 16) (cls buf : BitVec 2) (n : BitVec 12)
  deriving DecidableEq, Repr

end Sys2Proof
end

