-- ==== Sys2Proof/Decode.lean ====
section
/-! DEFINITION. Words of the table: no row of the table gives bits (its commands are capsules, datagrams, register
writes and events), so no word spells a command. -/

namespace Sys2Proof

/-- The command a word spells by the table's bits: none, since the table gives none. -/
def decodeTableWord (_nbits _w : Nat) : Option Instr := none

end Sys2Proof
end

