-- ==== Sys2Proof/Config.lean ====
section
/-! DEFINITION. What the spec leaves open and the named standards it does not give: constants with no body, so that
nothing can be proved about their values. Log entries 4, 8 and 9. -/

namespace Sys2Proof.Config

/-- SM3 (R316, R369): a named standard, not given in the spec. DESIGN CHOICE, log entry 4. -/
opaque sm3 : List Byte → BitVec 256

/-- SM4 of one block under a 128-bit key (R219, R220). DESIGN CHOICE, log entry 4. -/
opaque sm4 : BitVec 128 → BitVec 128 → BitVec 128

/-- SM2 signature verification of a message under a public key (R369). DESIGN CHOICE, log entry 4. -/
opaque sm2Verify : BitVec 512 → List Byte → BitVec 512 → Bool

/-- SM2 signature by the identity key (R379). DESIGN CHOICE, log entry 4. -/
opaque sm2Sign : BitVec 256 → List Byte → BitVec 512

/-- The SM2 public key of a private key, and the order of the curve (R376). DESIGN CHOICE, log entry 4. -/
opaque sm2Public : BitVec 256 → BitVec 512
opaque sm2Order : Nat

/-- Whether an identity certificate binds a key and a DEVICE_ID under a root key of the given digest (R377).
DESIGN CHOICE, log entry 4. -/
opaque certValid : List Byte → BitVec 512 → BitVec 128 → BitVec 256 → Bool

/-- The identity certificate that the FRU memory holds for a DEVICE_ID and a key (R377). DESIGN CHOICE, log entry 4. -/
opaque identityCert : BitVec 128 → BitVec 512 → List Byte

/-- The label of the identity key in MANUFACTURE (R376): the spec gives those of PRODUCTION and SERVICE. Log entry 15. -/
opaque manufactureLabel : Nat

/-- The digest of the boot ROM (R378). -/
opaque bootRomDigest : BitVec 256

/-- Random words: LOCKET_NONCE and link nonces (R297, R372). -/
opaque random256 : Nat → BitVec 256

/-- First sequence numbers of a connection (R244): the spec gives no value. -/
opaque firstSeq : Nat → BitVec 32

/-- A choice the spec leaves open, drawn by a counter (log entry 8). -/
opaque freeBool : Nat → Bool
opaque freeNat : Nat → Nat
opaque freeF32 : Nat → F32

/-- Which of the FP32 values within 2 ulp an exponential takes (R139), and the logarithm of the loss (R155). Log entry 9. -/
opaque expStep : F32 → Nat
opaque log32 : F32 → F32

/-- z of a row whose elements are all −∞ (R139): the spec gives no value. Log entry 117. -/
opaque emptyRow : F32

/-- The gradients that pass back through a layer normalisation (R161), from the row, its gains and the gradient of its
output: to the row, and to the gains. Log entry 9. -/
opaque normGrad : List F32 → List (BitVec 16) → List F32 → List F32
opaque normGainGrad : List F32 → List (BitVec 16) → List F32 → List F32

/-- How many selection rounds of a bead remain beside a reserved share, of a limit (R158, R188). Log entry 118. -/
opaque roundsBeside : Nat → Nat → Nat

/-- One element of a layer normalisation (R143, R161), from the row's mean and variance, its gain and its value: the
spec names the normalisation and does not write its formula. DESIGN CHOICE, log entry 9. -/
opaque normElem : F32 → F32 → BitVec 16 → F32 → F32

/-- An order in which terms arrive, for sums that no command's operand orders (R131, R141; log entry 17). -/
opaque freeOrd : Nat → List Nat

/-- FRU memory as made (R396, R404): label data, the certificate, and which addresses are write-protected. -/
opaque fruByte : Nat → Byte
opaque fruProtected : Nat → Bool

/-- The master that a capture names for a source without an access: the spec gives none, and 0xFFFF is FORCE's alone
(FCOL_CAPTURE; log entry 12). -/
opaque unitMaster : Nat → Nat → Nat

/-- The library program a launch descriptor names for a stage (ch. 10): the spec gives no assignment. -/
opaque programFor : Nat → Nat

/-- The operation and element format that the F field of MSAOP names (R223): the spec gives no encoding. -/
opaque msaopCode : BitVec 4 → Nat

/-- The HBM frame that holds a scratch page of a task: the tier manager takes any free one (R181). -/
opaque scratchFrame : Nat → Nat → Nat

/-- PAYLOAD_OFF of an entry whose row is not in the payload section, by query and item id: the spec gives no value (R96,
R98; log entry 88). -/
opaque omittedOff : Nat → BitVec 64 → BitVec 32

/-- An element of a full vector that another module holds, by module address, slot and position (R154, log entry 63). -/
opaque remoteElem : Nat → Nat → Nat → F32

/-- The rated erase count of the NAND packages, that FLASH_CH_WEAR reports (R202): each module's own. Log entry 114. -/
opaque ratedErase : BitVec 16

/-- The channels that hold the other units of the parity stripe of a unit, by collection and page (R200): open, log entry
114. -/
opaque stripeMates : Nat → Nat → List Nat

end Sys2Proof.Config
end

