-- ==== Sys2Proof/Machine/Num.lean ====
section
/-! DEFINITION. Arithmetic of chapter 06: exact values, the formats of R122, rounding to nearest even (R121, R123),
the compensated path (R129, R407), the reductions of R138 and R139, and the FP32 comparisons of R81. -/

namespace Sys2Proof.Machine

/-- A value before it is narrowed: a signed dyadic number `(-1)^neg * m * 2^e` (with signed zeros), an infinity or a
NaN. Products and partial sums are exact here (R126). -/
inductive Num where
  | fin (neg : Bool) (m : Nat) (e : Int)
  | inf (neg : Bool)
  | nan
  deriving DecidableEq, Repr

/-- How a format treats values beyond its range (the table of R123). -/
inductive Beyond where
  | toInf      -- FP32, BF16, FP16: an infinity
  | saturate   -- FP8: the largest finite value with its sign
  deriving DecidableEq, Repr

/-- A floating format of R122: significand bits (hidden bit included), exponent of the smallest subnormal step,
largest finite value as `maxM * 2^maxE`. -/
structure Fmt where
  prec : Nat
  emin : Int
  maxM : Nat
  maxE : Int
  beyond : Beyond
  deriving DecidableEq, Repr

def Fmt.fp32 : Fmt := ⟨24, -149, 0xFFFFFF, 104, .toInf⟩
def Fmt.bf16 : Fmt := ⟨8, -133, 0xFF, 120, .toInf⟩
def Fmt.fp16 : Fmt := ⟨11, -24, 0x7FF, 5, .toInf⟩
def Fmt.e5m2 : Fmt := ⟨3, -16, 7, 13, .saturate⟩
/-- E4M3 has no infinity and one NaN code, so its largest finite value is 448 = 7 · 2^6 (R122). -/
def Fmt.e4m3 : Fmt := ⟨4, -9, 7, 6, .saturate⟩

namespace Num

def zero : Num := .fin false 0 0
def one : Num := .fin false 1 0

def isFinite : Num → Bool
  | .fin _ _ _ => true
  | _ => false

def isNan : Num → Bool
  | .nan => true
  | _ => false

def isZero : Num → Bool
  | .fin _ m _ => m == 0
  | _ => false

def isNeg : Num → Bool
  | .fin n m _ => n && m != 0
  | .inf n => n
  | .nan => false

def neg : Num → Num
  | .fin n m e => .fin (!n) m e
  | .inf n => .inf (!n)
  | .nan => .nan

def abs : Num → Num
  | .fin _ m e => .fin false m e
  | .inf _ => .inf false
  | .nan => .nan

def ofNat (n : Nat) : Num := .fin false n 0

def ofInt (i : Int) : Num := .fin (decide (i < 0)) i.natAbs 0

/-- `2^k` as an exact value. -/
def pow2 (k : Int) : Num := .fin false 1 k

/-- The mantissa of a value when its exponent is lowered to `e0`. -/
def scaleTo (m : Nat) (e e0 : Int) : Nat := m <<< (e - e0).toNat

/-- The exact sum; an exact zero from unequal signs is +0, and NaN follows R122. -/
def add : Num → Num → Num
  | .nan, _ => .nan
  | _, .nan => .nan
  | .inf a, .inf b => if a = b then .inf a else .nan
  | .inf a, _ => .inf a
  | _, .inf b => .inf b
  | .fin na ma ea, .fin nb mb eb =>
    let e0 := min ea eb
    let a := scaleTo ma ea e0
    let b := scaleTo mb eb e0
    if na = nb then .fin na (a + b) e0
    else if b < a then .fin na (a - b) e0
    else if a < b then .fin nb (b - a) e0
    else .fin false 0 e0

def sub (x y : Num) : Num := add x (neg y)

/-- The exact product (R126). -/
def mul : Num → Num → Num
  | .nan, _ => .nan
  | _, .nan => .nan
  | .inf a, .inf b => .inf (xor a b)
  | .inf a, .fin nb mb _ => if mb = 0 then .nan else .inf (xor a nb)
  | .fin na ma _, .inf b => if ma = 0 then .nan else .inf (xor na b)
  | .fin na ma ea, .fin nb mb eb => .fin (xor na nb) (ma * mb) (ea + eb)

/-- The quotient with 72 extra bits and a sticky last bit, so that one rounding to any format of R122 is the correct
rounding of the exact quotient. -/
def div : Num → Num → Num
  | .nan, _ => .nan
  | _, .nan => .nan
  | .inf _, .inf _ => .nan
  | .inf a, .fin nb _ _ => .inf (xor a nb)
  | .fin na _ _, .inf b => .fin (xor na b) 0 0
  | .fin na ma ea, .fin nb mb eb =>
    if mb = 0 then (if ma = 0 then .nan else .inf (xor na nb))
    else
      let k := 72 + Nat.log2 mb
      let n := ma <<< k
      let q := n / mb
      let sticky := if n % mb = 0 then 0 else 1
      .fin (xor na nb) (2 * q + sticky) (ea - eb - k - 1)

/-- The integer square root, bit by bit from bit `b - 1` down. -/
def isqrtFrom : Nat → Nat → Nat → Nat
  | 0, r, _ => r
  | b + 1, r, n =>
    let r' := r + 2 ^ b
    isqrtFrom b (if r' * r' ≤ n then r' else r) n

/-- The square root with at least 36 significant bits and a sticky last bit. -/
def sqrt : Num → Num
  | .nan => .nan
  | .inf true => .nan
  | .inf false => .inf false
  | .fin n m e =>
    if m = 0 then .fin n 0 e
    else if n then .nan
    else
      let odd := e % 2 != 0
      let m1 := if odd then 2 * m else m
      let e1 := if odd then e - 1 else e
      let m2 := m1 <<< 72
      let r := isqrtFrom (Nat.log2 m2 / 2 + 1) 0 m2
      let sticky := if r * r = m2 then 0 else 1
      .fin false (2 * r + sticky) (e1 / 2 - 36 - 1)

/-- `m * 2^e` as a multiple of `2^t`, rounded to nearest, ties to even (R121). -/
def roundMant (m : Nat) (e t : Int) : Nat :=
  if t ≤ e then m <<< (e - t).toNat
  else
    let k := (t - e).toNat
    let q := m >>> k
    let r := m - (q <<< k)
    let half := 1 <<< (k - 1)
    if half < r || (r == half && q % 2 == 1) then q + 1 else q

/-- Exact comparison of magnitudes. -/
def magLe (ma : Nat) (ea : Int) (mb : Nat) (eb : Int) : Bool :=
  let e0 := min ea eb
  scaleTo ma ea e0 ≤ scaleTo mb eb e0

/-- Narrow to a floating format: one rounding by R121, and R123 beyond its range. -/
def narrow (f : Fmt) : Num → Num
  | .nan => .nan
  | .inf n => match f.beyond with
    | .toInf => .inf n
    | .saturate => .fin n f.maxM f.maxE
  | .fin n m e =>
    if m = 0 then .fin n 0 0
    else
      let t := max (e + (Nat.log2 m + 1 : Nat) - f.prec) f.emin
      let q := roundMant m e t
      if magLe q t f.maxM f.maxE then .fin n q t
      else match f.beyond with
        | .toInf => .inf n
        | .saturate => .fin n f.maxM f.maxE

/-- `fl()` of chapter 06: one rounding to FP32. -/
def fl (x : Num) : Num := narrow .fp32 x

/-- The order of two values as numbers; false where one is NaN. −0 compares equal to +0 (R81). -/
def lt : Num → Num → Bool
  | .nan, _ => false
  | _, .nan => false
  | .inf a, .inf b => a && !b
  | .inf a, _ => a
  | _, .inf b => !b
  | .fin na ma ea, .fin nb mb eb =>
    let e0 := min ea eb
    let a : Int := if na then -(scaleTo ma ea e0 : Nat) else (scaleTo ma ea e0 : Nat)
    let b : Int := if nb then -(scaleTo mb eb e0 : Nat) else (scaleTo mb eb e0 : Nat)
    decide (a < b)

def le (x y : Num) : Bool := !x.isNan && !y.isNan && !lt y x

def eqv (x y : Num) : Bool := le x y && le y x

/-- The larger of two values, NaN where one is NaN. -/
def maxN (x y : Num) : Num := if x.isNan || y.isNan then .nan else if lt x y then y else x
def minN (x y : Num) : Num := if x.isNan || y.isNan then .nan else if lt y x then y else x

/-- Narrow to an integer format of the given range: nearest, ties to even, clamped; NaN gives 0 (R123). -/
def toIntClamp (lo hi : Int) : Num → Int
  | .nan => 0
  | .inf n => if n then lo else hi
  | .fin n m e =>
    let q : Int := roundMant m e 0
    let v := if n then -q else q
    max lo (min hi v)

/-- Whether narrowing to that range clips the value (R145); a NaN counts as clipped (R123). -/
def clipsInt (lo hi : Int) : Num → Bool
  | .nan => true
  | .inf _ => true
  | .fin n m e =>
    let q : Int := roundMant m e 0
    let v := if n then -q else q
    v < lo || hi < v

/-- Whether narrowing to an FP8 format saturates the value. -/
def clipsFmt (f : Fmt) : Num → Bool
  | .nan => false
  | .inf _ => true
  | .fin _ m e =>
    if m = 0 then false
    else
      let t := max (e + (Nat.log2 m + 1 : Nat) - f.prec) f.emin
      !magLe (roundMant m e t) t f.maxM f.maxE

end Num

/-- Decode an IEEE-style bit pattern of `eb` exponent bits and `fb` fraction bits. -/
def decodeIeee (eb fb : Nat) (bias : Int) (w : Nat) : Num :=
  let neg := (w >>> (eb + fb)) % 2 == 1
  let ex := (w >>> fb) % 2 ^ eb
  let fr := w % 2 ^ fb
  if ex = 2 ^ eb - 1 then (if fr = 0 then .inf neg else .nan)
  else if ex = 0 then .fin neg fr (1 - bias - fb)
  else .fin neg (2 ^ fb + fr) ((ex : Int) - bias - fb)

/-- Encode a value already narrowed to the format. The one NaN pattern produced is the quiet one. -/
def encodeIeee (eb fb : Nat) (bias : Int) : Num → Nat
  | .nan => (2 ^ eb - 1) * 2 ^ fb + 2 ^ (fb - 1)
  | .inf n => (if n then 2 ^ (eb + fb) else 0) + (2 ^ eb - 1) * 2 ^ fb
  | .fin n m e =>
    let s := if n then 2 ^ (eb + fb) else 0
    if m = 0 then s
    else
      -- bring the mantissa to fb + 1 bits, or to the subnormal step
      let t := max (e + (Nat.log2 m : Nat) - fb) (1 - bias - fb)
      let q := Num.roundMant m e t
      if q < 2 ^ fb then s + q
      else s + ((t + bias + fb).toNat * 2 ^ fb) + (q - 2 ^ fb)

def Num.ofF32 (w : F32) : Num := decodeIeee 8 23 127 w.toNat
def Num.ofBf16 (w : BitVec 16) : Num := decodeIeee 8 7 127 w.toNat
def Num.ofF16 (w : BitVec 16) : Num := decodeIeee 5 10 15 w.toNat
def Num.ofE5m2 (w : Byte) : Num := decodeIeee 5 2 15 w.toNat

/-- E4M3: no infinities, and S.1111.111 is the NaN (R122, R123). -/
def Num.ofE4m3 (w : Byte) : Num :=
  let v := w.toNat
  let neg := v / 128 == 1
  let ex := (v / 8) % 16
  let fr := v % 8
  if ex = 15 ∧ fr = 7 then .nan
  else if ex = 0 then .fin neg fr (-9)
  else .fin neg (8 + fr) ((ex : Int) - 10)

def Num.toF32 (x : Num) : F32 := BitVec.ofNat 32 (encodeIeee 8 23 127 (Num.narrow .fp32 x))
def Num.toBf16 (x : Num) : BitVec 16 := BitVec.ofNat 16 (encodeIeee 8 7 127 (Num.narrow .bf16 x))
def Num.toF16 (x : Num) : BitVec 16 := BitVec.ofNat 16 (encodeIeee 5 10 15 (Num.narrow .fp16 x))
def Num.toE5m2 (x : Num) : Byte := BitVec.ofNat 8 (encodeIeee 5 2 15 (Num.narrow .e5m2 x))

def Num.toE4m3 (x : Num) : Byte :=
  match Num.narrow .e4m3 x with
  | .nan => 0x7F
  | .inf n => if n then 0xFE else 0x7E
  | .fin n m e =>
    let s := if n then 128 else 0
    if m = 0 then BitVec.ofNat 8 s
    else
      let t := max (e + (Nat.log2 m : Nat) - 3) (-9)
      let q := Num.roundMant m e t
      if q < 8 then BitVec.ofNat 8 (s + q)
      else BitVec.ofNat 8 (s + (t + 10).toNat * 8 + (q - 8))

/-- An INT8 value as a number. -/
def Num.ofInt8 (w : Byte) : Num := Num.ofInt w.toInt

/-! ## The compensated path -/

/-- One accumulator lane: the running FP32 sum and its error term. -/
structure Pair where
  s : Num
  e : Num
  deriving DecidableEq, Repr

def Pair.zero : Pair := ⟨.zero, .zero⟩

/-- `add(s, e, x)` of chapter 06, with R407 where the sum is not finite. -/
def Pair.add (p : Pair) (x : Num) : Pair :=
  let t := Num.fl (Num.add p.s x)
  if t.isFinite then
    let z := Num.fl (Num.sub t p.s)
    let a := Num.fl (Num.sub p.s (Num.fl (Num.sub t z)))
    let b := Num.fl (Num.sub x z)
    ⟨t, Num.fl (Num.add p.e (Num.fl (Num.add a b)))⟩
  else ⟨t, p.e⟩

/-- The combine step of R131: the incoming sum by add(), the incoming error term into the error term. -/
def Pair.combine (p q : Pair) : Pair :=
  let r := p.add q.s
  if r.s.isFinite then ⟨r.s, Num.fl (Num.add r.e q.e)⟩ else r

/-- The result before its last narrowing: fl(s + e), or s where the sum is not finite (R407). -/
def Pair.result (p : Pair) : Num := if p.s.isFinite then Num.fl (Num.add p.s p.e) else p.s

/-- The exact s + e, to be rounded once to the output format. -/
def Pair.exact (p : Pair) : Num := if p.s.isFinite then Num.add p.s p.e else p.s

/-- A list of terms taken in the given order. -/
def Pair.sum (xs : List Num) : Pair := xs.foldl Pair.add Pair.zero

def Pair.neg (p : Pair) : Pair := ⟨p.s.neg, p.e.neg⟩

/-- Multiply both parts by a power of two, which is exact. -/
def Pair.scale2 (p : Pair) (k : Int) : Pair := ⟨Num.mul p.s (.pow2 k), Num.mul p.e (.pow2 k)⟩

/-- De-quantisation of a group's pair: each part multiplied once by the product of the two scales (R133). -/
def Pair.scaleOnce (p : Pair) (sc : Num) : Pair := ⟨Num.fl (Num.mul p.s sc), Num.fl (Num.mul p.e sc)⟩

/-- Take the elements of `xs` in the order the index list names: each index, modulo what is left, picks the next one.
Every order of the parts is the order of some index list, so a free `ord` is a free order of arrival (R131, R141). -/
def reorder {α : Type} : List Nat → List α → List α
  | _, [] => []
  | [], xs => xs
  | i :: is, x :: xs =>
    let n := (x :: xs).length
    let k := i % n
    match (x :: xs)[k]? with
    | some y => y :: reorder is ((x :: xs).eraseIdx k)
    | none => x :: xs

/-- A list cut into pieces of `n`. -/
def chunksN {α : Type} : Nat → Nat → List α → List (List α)
  | 0, _, _ => []
  | _, _, [] => []
  | f + 1, n, xs => xs.take n :: chunksN f n (xs.drop n)

def chunks {α : Type} (n : Nat) (xs : List α) : List (List α) := chunksN xs.length n xs

/-- A reduction split into contiguous parts (R131): the head of `ord` is the length of a part (0: one part), the rest the
order in which terms meet inside a part and in which the parts arrive at the combine step. -/
def splitFold {α β : Type} (part : List α → β) (join : β → β → β) (z : β) (ord : List Nat) (xs : List α) : β :=
  match ord with
  | [] => part xs
  | k :: r =>
    let ps := if k = 0 then [xs] else chunks k xs
    ((reorder r ps).map fun ys => part (reorder r ys)).foldl join z

/-- A compensated sum, whole or split as `ord` says; each part gives a pair, and the pairs are combined (R131). -/
def sumOrd (ord : List Nat) (xs : List Num) : Pair := splitFold Pair.sum Pair.combine Pair.zero ord xs

/-! ## Reductions of R138 and R139 -/

/-- Σ x², each square exact, on the compensated path (R138). -/
def sumSquares (ord : List Nat) (xs : List Num) : Pair := sumOrd ord (xs.map fun x => Num.mul x x)

/-- Count, mean and m2 of the one-pass form, mean and m2 with error terms (R138). -/
structure Welford where
  n : Nat
  mean : Pair
  m2 : Pair
  deriving DecidableEq, Repr

def Welford.zero : Welford := ⟨0, .zero, .zero⟩

def Welford.step (w : Welford) (x : Num) : Welford :=
  let n := w.n + 1
  let d := Num.fl (Num.sub x w.mean.result)
  let mean := w.mean.add (Num.fl (Num.div d (.ofNat n)))
  let d2 := Num.fl (Num.sub x mean.result)
  ⟨n, mean, w.m2.add (Num.mul d d2)⟩

def Welford.combine (a b : Welford) : Welford :=
  if a.n = 0 then b else if b.n = 0 then a else
  let n := a.n + b.n
  let d := Num.fl (Num.sub b.mean.result a.mean.result)
  let mean := a.mean.add (Num.fl (Num.div (Num.fl (Num.mul d (.ofNat b.n))) (.ofNat n)))
  let q := Num.fl (Num.div (Num.fl (Num.mul (Num.fl (Num.mul d d)) (.ofNat (a.n * b.n)))) (.ofNat n))
  ⟨n, mean, (a.m2.combine b.m2).add q⟩

/-- Mean and population variance; a count of 0 gives 0 and 0, and a negative variance gives +0 (R138). -/
def Welford.result (w : Welford) : Num × Num :=
  if w.n = 0 then (.zero, .zero)
  else
    let v := Num.fl (Num.div w.m2.exact (.ofNat w.n))
    (w.mean.result, if v.isNeg then .zero else v)

/-- Count, mean and m2 of a row, its lanes and parts combined in the order of arrival. -/
def welford (ord : List Nat) (xs : List Num) : Welford :=
  splitFold (fun ys => ys.foldl Welford.step .zero) Welford.combine .zero ord xs

/-- Row maximum and Σ exp(x − m) of R139, online. `ex` is the FP32 exponential, whose last bits the spec leaves open. -/
structure RowSum where
  m : Num
  z : Pair
  deriving DecidableEq, Repr

def RowSum.init : RowSum := ⟨.inf true, .zero⟩

def RowSum.step (ex : Num → Num) (r : RowSum) (x : Num) : RowSum :=
  if x.isNan || r.m.isNan then ⟨.nan, ⟨.nan, .zero⟩⟩
  else if Num.lt r.m x then
    let f := match r.m with
      | .inf true => .zero
      | m => ex (Num.fl (Num.sub m x))
    let z := r.z.scaleOnce f
    ⟨x, z.add (match x with | .inf false => .nan | _ => .one)⟩
  else ⟨r.m, r.z.add (match r.m with
      | .inf true => .zero
      | m => ex (Num.fl (Num.sub x m)))⟩

def RowSum.combine (ex : Num → Num) (a b : RowSum) : RowSum :=
  if a.m.isNan || b.m.isNan then ⟨.nan, ⟨.nan, .zero⟩⟩
  else
    let m := Num.maxN a.m b.m
    let f (r : RowSum) : Pair := match r.m with
      | .inf true => .zero
      | rm => r.z.scaleOnce (ex (Num.fl (Num.sub rm m)))
    ⟨m, (f a).combine (f b)⟩

/-- The maximum and the sum of a row, which may be split over several tiles (R139). -/
def rowSum (ex : Num → Num) (ord : List Nat) (xs : List Num) : RowSum :=
  splitFold (fun ys => ys.foldl (RowSum.step ex) RowSum.init) (RowSum.combine ex) RowSum.init ord xs

/-- The sum z of a row. A row of −∞ alone has no stated z: it is `open_`. DESIGN CHOICE, log entry 117. -/
def RowSum.sum (open_ : Num) (r : RowSum) : Num :=
  match r.m with
  | .inf true => open_
  | _ => r.z.result

/-! ## The exponential of R139 -/

/-- Bits after the point of the fixed-point exponential. -/
def expBits : Nat := 320

/-- Σ (−v)^k ÷ k! from term `t` on, in fixed point. -/
def expTerms (v : Nat) : Nat → Nat → Nat → Bool → Int → Int
  | 0, _, _, _, acc => acc
  | n + 1, k, t, minus, acc =>
    expTerms v n (k + 1) ((t * v >>> expBits) / k) (!minus) (if minus then acc - t else acc + t)

def squareN : Nat → Nat → Nat
  | 0, y => y
  | n + 1, y => squareN n (y * y >>> expBits)

/-- exp(−m · 2^e) to far more bits than FP32 holds: zero below 2^−300. -/
def expNeg (m : Nat) (e : Int) : Num :=
  let u := Num.scaleTo m (e + expBits) 0
  if 256 <<< expBits ≤ u then .zero
  else .fin false (squareN 8 (expTerms (u >>> 8) 80 1 (1 <<< expBits) false 0).toNat) (-(expBits : Int))

/-- The FP32 values within 2 ulp of a positive value: `off` (0 to 4) picks one of them. -/
def nearF32 (off : Nat) (y : Num) : Num :=
  match y with
  | .fin _ m e =>
    let t := max (e + (Nat.log2 m : Nat) - 23) (-149)
    let q : Nat := if e < t then m >>> (t - e).toNat else m <<< (e - t).toNat
    let exact := decide (t ≤ e) || (q <<< (t - e).toNat) == m
    let q' : Int := max ((q : Int) + off - 2) (if exact then (q : Int) - 2 else q - 1)
    Num.fl (.fin false q'.toNat t)
  | x => x

/-- exp(x) within 2 ulp of the exact value (R139); `off` picks which of those values it is. -/
def expNear (off : Nat) : Num → Num
  | .nan => .nan
  | .inf n => if n then .zero else .inf false
  | .fin n m e => nearF32 off (if n || m == 0 then expNeg m e else Num.div .one (expNeg m e))

end Sys2Proof.Machine
end

