-- ==== Sys2Proof/Machine/Types.lean ====
section
/-! DEFINITION. The data the module's subsystems hold: tables, counters, collections, queries, streams, settings,
fabric and learning records. Plain data only. -/

namespace Sys2Proof.Machine

/-- A table: key and value pairs, keys strictly rising. -/
abbrev Tab (α : Type) := List (Nat × α)

/-- An addressed memory: listed bytes, addresses strictly rising, none equal to what an unlisted address reads as. -/
abbrev Memory := List (Nat × Byte)

/-- An event counter of R350: 48-bit value and sticky SAT. -/
structure EvCounter where
  val : Nat
  sat : Bool
  deriving DecidableEq, Repr

/-! ## Commands in the queues -/

/-- A reference to a command: opcode, queue, tag and what its reply copies (R267). -/
structure CmdRef where
  op : BitVec 8
  queue : Nat
  tag : Nat
  conn : Nat
  coll : Nat
  flags : BitVec 8
  cookie : BitVec 64
  deriving DecidableEq, Repr

/-- Where a command stands between its acknowledgement and its reply. -/
inductive CmdStage where
  | held                        -- waiting for readiness (R254 to R257, R260)
  | running                     -- decided, its work under way
  | admitted (bead : Nat)       -- a write admitted, not yet committed (R48)
  | flushing (below : Nat)      -- a FLUSH waiting for the records numbered below (R212)
  deriving DecidableEq, Repr

structure Cmd where
  ref : CmdRef
  cap : Capsule
  arr : Nat                     -- arrival order
  stage : CmdStage
  resv : Nat                    -- write-buffer bytes reserved (R410)
  deriving DecidableEq, Repr

/-- A command queue of R251. -/
structure Queue where
  conn : Option Nat
  orphaned : Bool
  tags : BitVec 32
  deriving DecidableEq, Repr

/-- A commit or an admitted read of the current bead in one queue, for R53 and R256. -/
structure QMark where
  queue : Nat
  coll : Nat
  ids : List (BitVec 64)        -- item ids it names; empty for a search
  bead : Nat
  write : Bool
  deriving DecidableEq, Repr

/-- An object open in a queue (R278). -/
structure OpenObj where
  queue : Nat
  op : BitVec 8
  coll : Nat
  target : Nat                  -- filter id, or GROUP of a setting
  total : Nat
  bytes : List Byte
  final : Option Nat            -- tag of its final part, once that is admitted and waits for its commit
  deriving DecidableEq, Repr

/-- The body of a fabric message (R300). -/
inductive MsgBody where
  | fault (n : Notice)
  | repair (n : Notice)
  | mgmt (bytes : List Byte)
  | query (range : Bool) (c : Capsule)
  | bundleEnd
  | bundleAck
  | bundleDrop
  | list (b : ListBody)
  | gatherReq (slots : List Nat)
  | gatherRows (rows : List (Nat × List Byte))
  deriving DecidableEq, Repr

/-- What the module sends, in the order it sends it. -/
inductive Out where
  | accept (port conn : Nat) (hostSeq moduleSeq : BitVec 32)
  | nakConnect (port : Nat) (reason : Nat)
  | ack (conn : Nat) (ackSeq : BitVec 32)
  | nak (conn : Nat) (seq : BitVec 32) (reason : Nat)
  | reply (ref : CmdRef) (status : BitVec 16) (area : BitVec 320) (body : List Byte)
  | resend (conn : Nat) (seq : BitVec 32)
  | event (conn : Nat) (bytes : List Byte)
  | close (conn : Nat)
  | arpReply (port : Nat)
  | neighbourReply (port : Nat)
  | echoReply (port : Nat)
  | msg (link : Nat) (h : MsgHdr) (b : MsgBody)
  | flit (link : Nat) (seq : BitVec 16) (cls buf : Nat)
  | retryFlit (link : Nat) (expected : BitVec 16)
  | linkNonce (link : Nat) (nonce : BitVec 128)
  | identMsg (link : Nat) (m : IdentMsg)
  | scan (idcode : BitVec 32)
  | fru (v : Byte)
  | poweredDown
  deriving DecidableEq, Repr

/-! ## Events -/

structure EventRec where
  seq : BitVec 32
  code : BitVec 16
  lost : Nat
  time : Nat
  args : List Byte
  waiting : List Nat            -- armed connections that have not acknowledged it
  delivered : Bool              -- at least one connection was armed for its group
  deriving DecidableEq, Repr

/-! ## Transport -/

/-- One DATA segment that the module sends, with its FIRST, LAST and EVENT bits (R288). -/
structure Seg where
  flags : Nat
  body : List Byte
  deriving DecidableEq, Repr

/-- A reply or an event in the transmit store (R248), with the segments that are not acknowledged. -/
structure Kept where
  first : BitVec 32
  count : Nat
  bytes : Nat
  failures : Nat
  event : Option (BitVec 32)
  segs : List Seg
  deriving DecidableEq, Repr

/-- A UDP datagram that the module sends (R240): its body begins with the Reune header. -/
structure SentUdp where
  src : BitVec 128
  dst : BitVec 128
  srcPort : Nat
  dstPort : Nat
  checksum : BitVec 16
  body : List Byte
  deriving DecidableEq, Repr

inductive SentKind where
  | arp | neighbour | echo
  | udp (d : SentUdp)
  deriving DecidableEq, Repr

/-- A frame that leaves a port (R237, R238, R242): its 802.1Q tag, and Don't Fragment of an IPv4 packet. -/
structure Sent where
  port : Nat
  tag : Option (BitVec 16)
  dontFragment : Bool
  kind : SentKind
  deriving DecidableEq, Repr

structure Conn where
  admin : Bool
  port : Nat                    -- port of the last valid datagram (R250)
  openPort : Nat                -- port on which it was opened
  addr : BitVec 128
  udp : Nat
  home : BitVec 128 × Nat       -- the address on the port it was opened on
  alt : Option (BitVec 128 × Nat)
  rxNext : BitVec 32
  txNext : BitVec 32
  asm : Option (List Byte)      -- bytes of the capsule under assembly
  open_ : Nat                   -- capsules received and not yet replied to
  closing : Bool
  failed : Bool
  closed : Bool                 -- CLOSE has taken effect; the id frees at the next edge
  armed : BitVec 32
  store : List Kept
  deriving DecidableEq, Repr

structure Port where
  rate : BitVec 2
  pfc : Bool
  maxIp : BitVec 14
  vlanId : BitVec 12
  vlanEn : Bool
  pcpMgmt : BitVec 3
  pcpData : BitVec 3
  state : Nat                   -- 0 DOWN, 1 UP, 2 UNSUPPORTED, 3 cage empty, 4 LOOPBACK
  ipv4 : BitVec 64
  ipv6 : BitVec 128
  ipv6ctl : BitVec 64
  useRate : BitVec 2            -- what the port runs with, taken up at an edge (R238, R239)
  usePcp : BitVec 6             -- PCP_DATA and PCP_MGMT
  useVlan : BitVec 13           -- VLAN_EN and VLAN_ID
  useIpv4 : BitVec 64
  useIpv6 : BitVec 128
  useIpv6ctl : BitVec 64
  pcs : Bool
  linkLocal : BitVec 128
  mac : BitVec 48
  rxMgmt : Nat
  rxData : Nat
  deriving DecidableEq, Repr

/-! ## Setting -/

structure GroupRec where
  id : Nat
  quads : BitVec 16
  probe : Nat
  rounds : Nat
  learn : Bool
  learnGroup : Nat
  deriving DecidableEq, Repr

structure FacetGrouping where
  hold : BitVec 4
  map : List Nat
  groups : List GroupRec
  deriving DecidableEq, Repr

structure MemoryCarve where
  nearCache : List Nat
  hbmScratch : Nat
  hbmAll : Nat
  hbmNear : Nat
  marginAll : Nat
  marginNear : List Nat
  prefetch : Nat
  ringMib : Nat
  ceLimit : Nat
  ceWindow : Nat
  disturb : Nat
  ifErr : Nat
  deriving DecidableEq, Repr

structure FormatRec where
  group : Nat
  wformats : BitVec 2
  gCode : Nat
  gGrad : Nat
  maxSketch : Nat
  maxSub : Nat
  maxLog2 : Nat
  deriving DecidableEq, Repr

structure QRange where
  first : Nat
  last : Nat
  limit : Nat
  deriving DecidableEq, Repr

structure TreeRec where
  id : Nat
  fan : List Nat
  mcClose : Nat
  mcBytes : Nat
  members : List (BitVec 20 × BitVec 32)
  deriving DecidableEq, Repr

structure FabricSec where
  addr : BitVec 20
  len : List Nat
  express : List (Option (BitVec 20))
  fecLimit : Nat
  fecWindow : Nat
  fabricId : BitVec 64
  expected : List (BitVec 128)
  trees : List TreeRec
  deriving DecidableEq, Repr

structure Reaction where
  level : Nat
  index : Nat
  source : Nat
  actions : BitVec 8
  coreA : Bool
  deriving DecidableEq, Repr

structure Program where
  count : Nat
  slots : Nat
  slotSize : Nat
  consumer : Nat
  params : Nat
  id : Nat
  words : List (BitVec 64)
  deriving DecidableEq, Repr

/-- A full setting with every section, defaults filled in (R314 to R328). -/
structure Setting where
  serial : BitVec 64
  grouping : FacetGrouping
  carve : MemoryCarve
  driftW : Nat
  driftD : Nat
  formats : List FormatRec
  queues : List QRange
  arithDiv : Nat
  nearDiv : Nat
  periodUs : Nat
  source : Nat
  sourceArg : Nat
  fabric : FabricSec
  reactions : List Reaction
  shed : List (Nat × Nat)       -- (FALL_MV, RISE_MV) of steps 1 to 5
  programs : List Program
  prongVersion : Nat
  deriving DecidableEq, Repr

/-- Steps of a partial setting (R334). -/
inductive PartialStep where
  | waitEdge      -- checked; e0 is the next edge
  | drain         -- after e0: admission of the pipeline's queries closed
  | fenced        -- group fenced and loaded
  | loaded        -- its release is ordered: it takes place at the next edge (R23)
  deriving DecidableEq, Repr

structure PartialRun where
  ref : CmdRef
  group : GroupRec
  map : List Nat
  digest : BitVec 256
  step : PartialStep
  e0 : Nat
  deriving DecidableEq, Repr

/-! ## Faults -/

structure Collector where
  status : BitVec 64
  mode : Bool                   -- FCOL_MODE: true is DETAIL
  armedMode : Bool              -- the mode taken when the capture was armed (R342)
  source : BitVec 6
  valid : Bool
  overflow : Bool
  access : BitVec 3
  master : BitVec 16
  capAddr : BitVec 64
  capTime : BitVec 64
  pins : BitVec 64              -- sources whose pin is still held (R408)
  defaultsOnly : Bool           -- R348
  deriving DecidableEq, Repr

structure Facet where
  fenced : Bool
  reason : Nat                  -- REASON codes of SETTING_MAP
  safe : Bool
  bistPass : Bool
  bistRun : Bool
  blockRun : Bool               -- the BIST that runs is the self-test of a block reset (R346)
  release : Bool                -- released at the next edge
  byDie : Bool                  -- fenced by a block reset of its die (R346)
  temp : Int
  hot : Bool                    -- not fallen below 95 °C since it reached 105 °C (R408)
  dbgAddr : BitVec 24
  deriving DecidableEq, Repr

structure Bank where
  state : Nat                   -- 0 online, 1 fenced, 2 MBIST
  mbistPass : Bool
  ret : Bool                    -- RETURN written: release at the next edge
  deriving DecidableEq, Repr

/-- An adder request waiting for a retraining channel (R182, R190). `op`: 0 ADD, 1 MIN, 2 MAX. -/
structure MsaReq where
  op : Nat
  addr : Nat
  fmt : MsaFmt
  v : BitVec 64
  task : Option Nat             -- the task that sent it
  deriving DecidableEq, Repr

/-- A request to a channel's scratch pages that a retrain queues: an adder request, or bytes to write (R190). -/
inductive HbmWait where
  | msa (r : MsaReq)
  | write (addr : Nat) (bytes : List Byte) (task : Option Nat)
  deriving DecidableEq, Repr

/-- The task that sent it. -/
def HbmWait.task : HbmWait → Option Nat
  | .msa r => r.task
  | .write _ _ t => t

structure HbmChan where
  state : Nat                   -- 0 online, 1 retraining, 2 mapped out, 3 MBIST
  mbistPass : Bool
  ret : Bool
  queued : List HbmWait         -- requests queued by a retrain, oldest first
  deriving DecidableEq, Repr

structure HbmStack where
  temp : Int
  heat : Nat                    -- thermal steps taken: 0, 1 at 85 °C, 2 at 95 °C (R189)
  fenced : Bool                 -- fenced at 105 °C
  deriving DecidableEq, Repr

/-- A batch group in a prong's signature store: its task, and for each epoch and query the sketch, the threshold and the
position in the query mask (R196). -/
structure SigGroup where
  tid : Nat
  sigs : List (Nat × Nat × Nat × Nat × Nat)   -- (epoch, query, sketch, threshold, mask position)
  deriving DecidableEq, Repr

structure FlashCh where
  state : Nat                   -- 0 ONLINE, 1 IF_RETRAIN, 2 SCRUB, 3 BYPASS
  rate : BitVec 2
  prongFenced : Bool
  prongTest : Bool
  prongClear : Bool             -- cleared at the next edge
  ret : Bool                    -- ONLINE again at the next edge (R23)
  store : List SigGroup         -- the signature store of the channel's prong (R196)
  hot80 : Bool
  hot85 : Bool
  wearLevel : Nat               -- 0, 80 or 95: the last flash.wear raised
  deriving DecidableEq, Repr

/-- Registers of the units that a power state stops, as they stood at its entry (R386). -/
structure Frozen where
  facets : List Facet
  banks : Tab Bank
  hbmStacks : List HbmStack
  hbmChans : Tab HbmChan
  flashChans : List FlashCh
  deriving DecidableEq, Repr

/-- A NAND block of one channel (R202). -/
structure Block where
  chan : Nat
  num : Nat
  erase : Nat
  reads : Nat
  full : Bool                   -- holds programmed units
  seen : Bool                   -- read by the scrub under way (R208)
  collecting : Bool             -- erased once its last valid unit has moved (R202)
  deriving DecidableEq, Repr

/-- The map entry of a mapping unit (R199), keyed by collection and page. -/
structure Unit64 where
  coll : Nat
  page : Nat
  chan : Nat
  block : Nat
  lost : Bool
  moving : Bool                 -- a relocation of it is under way
  worn : Bool                   -- that relocation is a wear move, to a worn block
  thin : Option Nat             -- stripe class: the bypassed channel it was written without (R205)
  bad : List Nat                -- stripe class: channels whose fragment went down the whole ladder (R206)
  deriving DecidableEq, Repr

/-- What a write record holds (R209, R410). -/
inductive RecKind where
  | sideEntry (slot : Nat)
  | vector (slot : Nat)
  | row (slot : Nat)
  | delete (slot : Nat)
  | pinned
  | merged                      -- publication of a merge
  | filterPut (id : Nat)        -- publication of a bitmap
  | filterDrop (id : Nat)
  deriving DecidableEq, Repr

structure WriteRec where
  seq : Nat                     -- its number in commit order
  coll : Nat
  off : Nat
  len : Nat
  stamp : Nat
  kind : RecKind
  occ : Nat                     -- bytes occupied in the buffer
  host : Bool                   -- a host write (not the module's own share)
  drained : List Nat            -- pages already programmed
  deriving DecidableEq, Repr

/-! ## Collections -/

/-- Parameters fixed at creation (R31, R283). -/
structure CollParams where
  sketchBits : Nat
  subcodes : Nat
  log2Buckets : Nat
  metric : Nat
  vecFormat : Nat
  vecDims : Nat
  maxRow : Nat
  bridges : Nat
  filterSlots : Nat
  sideCap : Nat
  slotCap : Nat
  rdShare : Nat
  near : Bool
  nearDie : Nat
  stripe : Bool
  encrypted : Bool
  deriving DecidableEq, Repr

/-- The attach record of R284. -/
structure AttachRec where
  shard : BitVec 32
  tree : Nat
  pipeline : Nat
  hbmPlaced : Nat
  nearPlaced : Nat
  scanNear : Nat
  scanHbm : Nat
  scanFlash : Nat
  deriving DecidableEq, Repr

/-- An encoder of an epoch (R143, R286). -/
structure Encoder where
  inputDim : Nat
  layers : Nat
  wformat : Nat
  group : Nat
  out : List Nat
  trunk : List Byte
  actScale : List (BitVec 16)
  weights : List (List Byte)          -- L rows of d_e codes
  wScale : List (List (BitVec 16))
  books : List (List (List (BitVec 16)))
  sigs : List Nat
  actOff : List Nat                   -- degenerate activation groups: layer · 2^16 + position (R152)
  wOff : List (Nat × Nat × Nat)       -- degenerate weight groups: layer, row, position
  deriving DecidableEq, Repr

structure Epoch where
  num : Nat
  enc : Encoder
  pub : Nat
  deriving DecidableEq, Repr

/-- The codes of an item in one container (side list or segment). -/
structure Entry where
  slot : Nat
  epoch : Nat
  sketch : Nat
  code : List Byte
  bridges : List Nat
  deriving DecidableEq, Repr

structure Item where
  id : BitVec 64
  stamp : Nat
  vector : Option (List Byte)
  row : List Byte
  deriving DecidableEq, Repr

structure SideEntry where
  ent : Entry
  taken : Bool                  -- taken by the running merge
  merged : Option Nat           -- publication bead of the merge that took it
  deriving DecidableEq, Repr

structure Segment where
  num : Nat
  epoch : Nat
  pub : Nat
  replaced : Option Nat         -- publication bead of the merge that replaced it
  lists : List (Nat × List Entry)
  sketchPage : Nat
  codePage : Nat
  headBytes : Nat
  deriving DecidableEq, Repr

structure FilterVer where
  id : Nat
  put : Nat                     -- commit bead of its FILTER_PUT
  drop : Option Nat             -- commit bead of the FILTER_DROP or of the PUT that replaced it
  replaced : Bool
  bits : Nat
  deriving DecidableEq, Repr

structure Merge where
  trigger : Nat
  epoch : Nat
  segs : List Nat               -- older-epoch segments folded in (R166)
  items : List Entry            -- the re-encoded or copied entries, once built
  built : Bool
  headBytes : Nat
  deriving DecidableEq, Repr

/-- A page kind of R168, in layout order. -/
inductive PageKind where
  | directory | heads | tombstones | filters | sketches | codes | vectors | rows | sideLog
  deriving DecidableEq, Repr

/-- A shallow place of a page. -/
inductive Loc where
  | near (bank : Nat)
  | hbm (ch : Nat)
  deriving DecidableEq, Repr

structure Page where
  num : Nat
  kind : PageKind
  seg : Nat
  locs : List Loc               -- resolved shallow copies
  incoming : Option Loc         -- a copy that resolves at the next edge (R171)
  refilling : Bool
  hotLost : Bool                -- refilling because its stack was fenced for heat
  copyLost : Bool               -- a second copy of a pinned page to restore (R191)
  lostAt : Nat                  -- bead in which a copy was lost; it is made again from the next edge on (R191)
  evictAt : Option Nat
  lastUse : Nat
  deriving DecidableEq, Repr

/-- A promotion under way (R164). -/
structure Promotion where
  ref : CmdRef
  enc : Encoder
  run : Nat
  admission : Nat
  built : Bool
  deriving DecidableEq, Repr

structure Coll where
  attached : Bool
  params : CollParams
  slotBase : Nat
  att : AttachRec
  keyCheck : BitVec 32
  items : Tab Item
  side : List SideEntry
  sideLost : List (Nat × Nat)         -- (copy, page) of the side list's pages that one of its two copies lacks (R42, R179)
  rewrites : List (Nat × Nat × Option Nat) -- (publication bead, target, new target) of bridges until p + 4,096 (R37)
  segs : List Segment
  nextSeg : Nat
  tombs : List Nat
  recent : List (Nat × Nat)           -- (slot, delete stamp)
  clearing : List (Nat × Nat)         -- (slot, bead at whose edge its bit clears and the slot is free)
  filters : List FilterVer
  epochs : List Epoch                 -- oldest first; at most two
  merge : Option Merge
  promo : Option Promotion
  pages : List Page
  work : Option (CmdRef × Bool)       -- a DETACH (false) or DELETE (true) whose work has not ended
  thenDelete : Option CmdRef          -- a DELETE decided while the work of a DETACH was open
  relHeads : Nat                      -- head bytes released in this bead, seen as free from the next (R24)
  detachBead : Nat
  withdrawn : Bool
  wantMerge : Bool                    -- MERGE_HINT waits for nothing; kept for the head reservation of R409
  creditNear : Nat
  creditHbm : Nat
  creditFlash : Nat
  resident : Nat                      -- resident tier reported to this bead's admissions (R172)
  admittedInBead : Nat                -- queries admitted in this bead (q.position of R187)
  hbmPlacedNow : Nat                  -- MiB still placed after R192
  deriving DecidableEq, Repr

/-! ## Queries -/

/-- A scored entry (R81, R96). -/
structure Scored where
  dist : F32
  itemId : BitVec 64
  slot : Nat
  epoch : Nat
  seg : Nat
  module : BitVec 20
  notReranked : Bool
  bridged : Bool
  side : Bool
  payMissing : Bool
  deriving DecidableEq, Repr

structure EpochCodes where
  epoch : Nat
  sketch : Nat
  tables : List (List (BitVec 16))
  aborted : Bool
  deriving DecidableEq, Repr

/-- One intended segment of a query; number 65,535 is the side list (R112, R116). -/
structure SegState where
  seg : Nat
  tier : Nat                    -- deepest tier of its pages at admission
  toScreen : List Nat           -- slots of probed entries not yet screened
  toScore : List Nat            -- survivors whose codes are awaited from flash
  held : List Nat               -- survivors whose codes are in, until the score stage of the schedule (R77)
  toRerank : List Nat           -- best-R slots whose vectors are awaited
  coded : Bool                  -- its code reads have been launched
  dropped : Bool                -- left out by the schedule at admission: never read (R110)
  again : Bool                  -- what is left to screen is read again from flash at the next edge (R118)
  missed : Option (Nat × Nat)   -- (bead, cause) that arose first (R117)
  deriving DecidableEq, Repr

/-- The part of a query held in one facet's selection unit (R82) or candidate records (R84). -/
structure Part where
  facet : Nat
  list : List Scored
  records : List Scored
  cut : List F32                -- distances of entries cut
  served : List Nat             -- segments of which it took blocks (R22)
  deriving DecidableEq, Repr

/-- A fast-ADC block that overflowed and waits for its repeat (R136). -/
structure Repeat where
  facet : Nat
  seg : Nat
  entries : List Entry
  halvings : Nat
  deriving DecidableEq, Repr

/-- How far a query is through its stages (R54, R77). -/
inductive QStage where
  | admitted                    -- waiting for its launch
  | scanning                    -- screen and score; ends when the score list is formed
  | bridging                    -- bridge targets being fetched
  | fetching                    -- the best R wait for the edge that launches their reads
  | reranking                   -- full vectors being fetched and scored
  | ready                       -- every input of the final selection is in; its bead is awaited (R77)
  | clasping                    -- the module's list is formed; the lists of its children are awaited
  | selecting                   -- the final list is formed; payload rows wait for the next edge
  | gathering                   -- payload rows being gathered
  | done                        -- ready for its reply
  deriving DecidableEq, Repr

structure QParams where
  range : Bool
  k : Nat
  probe : Nat
  thr : Nat
  bw : Nat
  rr : Nat
  radius : F32
  fast : Bool
  payload : Bool
  log : Bool
  fOr : Bool
  fids : List Nat
  emb : List F32                -- raw embedding as FP32 values; empty when none
  pre : Bool                    -- host-supplied codes
  deriving DecidableEq, Repr

structure Query where
  qid : Nat
  ref : CmdRef
  local_ : Bool                 -- the root of the query is this module
  coll : Nat
  snap : Nat
  deadline : Nat                -- local deadline bead
  start : Nat                   -- bead its schedule counts from (R310)
  late : Bool                   -- received after its admission bead (R310)
  p : QParams
  deny : List Nat
  codes : List EpochCodes
  tier : Nat                    -- schedule tier
  gatherBeads : Nat             -- beads the payload gather adds; 0 without one
  dropGather : Bool
  dropBridge : Bool
  dropRerank : Bool
  stage : QStage
  segs : List SegState
  parts : List Part
  dies : List Part              -- lists of the die clasps
  runThr : Option Scored        -- running threshold (R85)
  emitted : List Scored         -- entries of the passes completed (R84)
  exhausted : Bool              -- every pass has completed
  since : Nat                   -- bead at whose edge the stage it is in was launched (R76)
  takeOver : List Nat           -- quads whose reservation takes over the share of a facet that is out (R18)
  reps : List Repeat
  final : List Scored           -- the module's list so far
  finalCut : List F32           -- distances of entries cut that can tie with its last
  merged : Bool                 -- the module's list is formed and no longer changes
  dedup : Nat
  inRadius : Nat                -- entries found within the radius, duplicates included
  overflow : Bool
  bridgeTargets : List (Nat × Nat)    -- (slot, 1 once its read is launched) still to fetch
  fetched : List Nat            -- slots of the best R whose vectors are in, until the second rerank bead (R76)
  rows : List (Nat × BitVec 20 × List Byte)   -- rows gathered: slot, module, bytes
  toGather : List (Nat × BitVec 20)
  selectCut : Bool
  tieUnknown : Bool             -- the tie count was cut (R86)
  tree : Nat                    -- 0: no tree
  fan : List Nat
  members : List (BitVec 20 × BitVec 32)   -- live members at admission, the root first (R306)
  pos : Nat                     -- this module's position among them
  oldFaults : List Elem         -- applied fault set at admission (R305)
  root : BitVec 20
  serial : BitVec 32
  lists : List (BitVec 20 × Nat × ListBody)   -- sender, its bead, its list (R104, R109)
  folded : Option ListBody      -- the list of its subtree, once the fabric stage has merged
  candBytes : Nat
  gatherBytes : Nat
  deriving DecidableEq, Repr

/-- A READ_ITEM under way (R272, R273). -/
structure ReadItem where
  ref : CmdRef
  coll : Nat
  slot : Nat
  snap : Nat
  deadline : Nat
  want : BitVec 4
  ready : Nat                   -- earliest reply bead
  deriving DecidableEq, Repr

/-! ## Streams -/

/-- A survivor record: slot, epoch, and the queries of the group it passes for, each with its Hamming distance (R69). -/
structure Survivor where
  slot : Nat
  epoch : Nat
  hits : List (Nat × Nat)
  deriving DecidableEq, Repr

/-- The screen mask of one entry: a bit for each bitmap version the batch names (id, commit bead of its PUT), the tombstone
bit, the recent-delete stamp, and the queries whose deny sets hold the slot (R67). -/
structure MaskEntry where
  slot : Nat
  bits : List (Nat × Nat × Bool)
  tomb : Bool
  recent : Option Nat
  deny : List Nat
  deriving DecidableEq, Repr

/-- What a piece brought into its slot. `covered` lists the entries it screened or carried. -/
inductive SlotData where
  | none
  | survivors (covered : List Nat) (surv : List Survivor)
  | raw (covered : List Nat)
  | entries (covered : List Nat)
  | bytes (bs : List Byte)
  deriving DecidableEq, Repr

/-- Slot states of R226. -/
inductive SlotSt where
  | free | issued | full | taken | void
  deriving DecidableEq, Repr

structure Slot where
  st : SlotSt
  seq : BitVec 16
  off : Nat
  len : Nat
  mode : Nat                    -- 0 PASS, 1 SCREEN, 2 GATE
  raw : Bool
  tier : Nat                    -- tier resolved at issue
  chan : Nat                    -- HBM channel, flash channel or bank
  outstanding : Bool            -- a request into it has not completed
  atDevice : Bool
  bead : Nat                    -- consuming bead of its piece (R184)
  data : SlotData
  ord : List Nat                -- order of the terms of what its consumer forms from it (R131)
  deriving DecidableEq, Repr

structure Piece where
  off : Nat
  len : Nat
  mode : Nat
  bead : Nat                    -- consuming bead
  deriving DecidableEq, Repr

structure Stream where
  sid : Nat
  tid : Nat
  die : Nat
  consumer : Nat                -- CONSUMER code of R222
  facet : Nat                   -- logical facet fed, where one is
  coll : Option Nat             -- none: a scratch stream
  words : List (BitVec 64)
  pc : Nat
  a : List (BitVec 48)
  s : List (BitVec 48)
  c : List (BitVec 24)
  loops : List (Nat × Nat)      -- (counter, instruction after the LOOP)
  seq : BitVec 16
  launch : Nat
  bead : Nat
  skipLeft : Nat
  skipAt : Nat                  -- bitmap address
  skipJ : Nat                   -- next request number
  pair : Option Nat
  input : Option Nat            -- the stream whose ring is its input ring
  ext : List (Nat × Nat)        -- its launch descriptor's list: (offset, length), or slots
  extAt : Nat                   -- address of that list
  slotBytes : Nat
  ring : List Slot
  head : Nat
  tail : Nat
  waiting : List Piece
  halted : Bool
  stopped : Bool
  deriving DecidableEq, Repr

/-- What a task works for (ch. 10, R230). -/
inductive TaskKind where
  | sketch | code | bridge | vector | row
  | encode (epoch : Nat)
  | writeEncode (queue tag : Nat)
  | merge
  | microBatch (run mb : Nat)
  | update (run : Nat)
  | promote
  | other
  deriving DecidableEq, Repr

structure Task where
  tid : Nat
  kind : TaskKind
  coll : Nat
  seg : Nat
  qids : List Nat
  feeds : Option Nat            -- the task that consumes its output
  groups : List (Nat × List Nat) -- the queries that share each probed bucket in this task (R78)
  masks : List MaskEntry        -- screen masks of its entries, as its launch built them (R67)
  dealt : Nat                   -- code blocks dealt so far (R18)
  aborted : Bool
  cancelled : Bool
  out : List Nat                -- HBM channels that were out when its scratch pages were placed (R181)
  deriving DecidableEq, Repr

/-! ## Fabric -/

structure Flit where
  seq : BitVec 16
  cls : Nat
  buf : Nat
  som : Bool
  eom : Bool
  deriving DecidableEq, Repr

structure Link where
  state : Nat                   -- codes of FABRIC_LINK_STATE
  cause : Nat
  farAddr : BitVec 20
  farLink : BitVec 4
  nonce : BitVec 128
  txSeq : BitVec 16
  rxSeq : BitVec 16             -- number of the next flit expected
  awaitRetry : Bool             -- a RETRY was sent and the expected flit has not come
  retries : Nat                 -- replays of the oldest flit
  replay : List Flit
  waitq : List Flit
  credit : List Nat             -- 3 classes × (adaptive, escape 1, escape 2)
  activate : Bool               -- ACTIVE at the next edge
  turn : Nat                    -- the class whose flit went last, MGMT apart
  out : Bool                    -- it has been DOWN and has not become ACTIVE since (R408)
  stay : Bool                   -- DOWN after a LOOPBACK, until RETRAIN
  retrain : Bool                -- its training or discovery is that of a RETRAIN
  deriving DecidableEq, Repr

structure HeldNotice where
  n : Notice
  repair : Bool
  deriving DecidableEq, Repr

/-- A bundle that this module's replay buffer keeps for its children (R307, R309). -/
structure Bundle where
  tree : Nat
  root : BitVec 20
  bead : Nat
  closed : Bool
  kept : Bool                   -- in the replay buffer
  bytes : Nat
  queries : List (MsgHdr × Bool × Capsule)
  unacked : List (BitVec 20)
  deriving DecidableEq, Repr

structure Branch where
  tree : Nat
  root : BitVec 20
  child : BitVec 20
  demoted : Bool
  dropped : List Nat            -- beads of the bundles dropped for it
  deriving DecidableEq, Repr

/-! ## Learning -/

/-- The pairs of a micro-batch and the order of its sums; the weights and the FP32 copy it ran its forward pass under, and
the facet group that runs it: 0 the pipeline's, 1 the learning group (R160, R162). -/
structure MbInput where
  pairs : List (List F32 × List F32)
  ord : List Nat
  enc : Encoder
  copyW : List (List F32)
  group : Nat
  deriving DecidableEq, Repr

/-- One tensor of a training copy with its optimiser moments, whose scales stand for groups of 128 (R142, R157). -/
structure Trained where
  w : List F32
  m8 : List Byte
  r8 : List Byte
  mScale : List (BitVec 16)
  rScale : List (BitVec 16)
  deriving DecidableEq, Repr

inductive MbStage where
  | forward | inputGrads | weightGrads
  deriving DecidableEq, Repr

structure MicroBatch where
  num : Nat
  version : Nat
  stage : MbStage
  input : MbInput
  deriving DecidableEq, Repr

/-- What an optimiser update publishes at the next edge: the new version and the copy it was quantised from (R157). -/
structure Update where
  enc : Encoder
  copy : List Trained
  deriving DecidableEq, Repr

structure RunParams where
  source : Nat
  n : Nat
  u : Nat
  share : Nat
  tau : F32
  lambda : F32
  rate : F32
  beta1 : F32
  beta2 : F32
  eps : F32
  deriving DecidableEq, Repr

structure Run where
  id : Nat
  coll : Nat
  p : RunParams
  enc : Encoder                 -- the newest version, quantised
  prevEnc : Encoder
  newest : Nat
  previous : Nat
  copy : List Trained           -- the training copy, tensor by tensor
  fresh : Bool                  -- activation scales still to be taken from the first micro-batch (R146)
  pairs : List (List F32 × List F32)
  mbs : List MicroBatch
  nextMb : Nat
  accumulated : Nat             -- micro-batches accumulated since the last update
  acc : List (List F32)         -- the update accumulator, tensor by tensor; what it lacks is zero (R160)
  pending : Option Update       -- a version to publish at the next edge
  active : Bool
  held : Bool
  stopAtEdge : Option Nat       -- cause of learn.stopped
  stopCause : Nat               -- the cause it was stopped with; 0 while it runs (R159)
  loss : F32
  lossVersion : Nat
  deriving DecidableEq, Repr

/-- Window counts of one group position of a tensor (R150 to R152). -/
structure Window where
  coll : Nat
  run : Bool
  epoch : Nat
  tensor : Nat
  pos : Nat
  clipped : Nat
  encoded : Nat
  nonZero : Bool
  absmax : F32
  doneClipped : Nat
  doneEncoded : Nat
  deriving DecidableEq, Repr

end Sys2Proof.Machine
end

