-- ==== Sys2Proof/Machine/State.lean ====
section
/-! DEFINITION. The state of one XQ-700 module, one structure per owning subsystem (R15), the reasons a command can
stop, and the state after reset: a module on its standby supply with PWR_EN low. -/

namespace Sys2Proof.Machine

/-- Why the block stops. -/
inductive Fault where
  /-- Raised by no command: the spec describes no stop of the module that a command causes and that has no effect.
  Safe. -/
  | stuck
  deriving DecidableEq, Repr

/-- Why a command has no meaning here. -/
inductive Refusal where
  /-- Raised by an arm of `exec` whose row has not been given its meaning. Safe. -/
  | notModelled (mnemonic : String)
  deriving DecidableEq, Repr

/-- Bead time base (R101 to R105; TIMEBASE). -/
structure TimeBase where
  held : Bool
  holdover : Bool
  skew : Bool
  now : Nat
  periodUs : Nat
  source : Nat
  sourceArg : Nat
  started : Bool
  cut : Bool
  gap : Bool
  srcOffset : Int
  nbrMax : Nat
  nbrNow : Nat
  ppsBad : Nat
  ppsSynced : Bool
  slew : Int
  intervals : Nat
  deriving DecidableEq, Repr

/-- Where the module stands in R336 and R397 to R400. -/
inductive Phase where
  | off        -- standby: PWR_EN low
  | starting   -- PWR_EN high, power good not reached
  | inReset    -- power good with RESET_N low: step 1
  | up         -- step 2 complete
  | failed     -- the fuse check failed (R337)
  | flushing   -- only the flush and the ports' shutdown run (R217, step 5)
  deriving DecidableEq, Repr

/-- Supply, shedding, power states and pins (chapters 11, 16, 19; POWER). -/
structure Power where
  phase : Phase
  pwrEn : Bool
  resetN : Bool
  powerGood : Bool
  inputMv : Nat
  below : List Bool
  rails : List Nat
  effective : Nat
  edgeStep : Nat
  overvolt : Bool
  pkgMw : Nat
  pkgPaused : Bool
  hubTemp : Int
  hubHot : Bool
  pstate : BitVec 2
  target : BitVec 2
  preparing : Bool
  entering : Bool
  exiting : Bool
  frozen : Option Frozen        -- set in P1 to P3
  prepBead : Nat
  psCmd : Option CmdRef
  flushing : Bool
  downAfter : Bool
  resetAfter : Bool
  shutdownRecord : Bool
  holdup : Nat
  holdupLow : Bool
  errTrip : Bool
  errBoot : Bool
  errReset : Bool
  thermHold : List Sensor
  pllLocked : Bool
  resetDue : Bool
  deriving DecidableEq, Repr

/-- Management cores (R352) and the interrupts delivered to them (R344). -/
structure Cores where
  aIn : Bool
  bIn : Bool
  aReady : Bool
  bReady : Bool
  irqs : List (Bool × Nat × Nat × Bool)   -- core A?, collector, source, NMI?
  deriving DecidableEq, Repr

/-- Fuse fields of R367. -/
structure Fuses where
  root0 : BitVec 256
  root1 : BitVec 256
  revoked : BitVec 2
  lifecycle : BitVec 4
  debugLock : BitVec 2
  part : BitVec 4
  maxFabricLog2 : BitVec 5
  seed : BitVec 256
  deriving DecidableEq, Repr

/-- The locket (chapter 17; LOCKET, IDENT). -/
structure Locket where
  fuses : Fuses
  copy : Fuses
  lifecycle : BitVec 4
  debugOpened : Bool
  nonce : BitVec 256
  token : List (BitVec 64)
  tokenResult : BitVec 4
  tokenAction : BitVec 4
  meas : List (BitVec 256)
  deviceId : BitVec 128
  idKey : Option (BitVec 256)
  keys : Tab (BitVec 256)
  certOk : Bool
  deriving DecidableEq, Repr

/-- Host ports, Reune connections, management addresses (chapter 11; HOSTIF). -/
structure HostIf where
  ports : List Port
  mgmt : List (BitVec 128 × Bool)
  conns : Tab Conn
  storeUsed : Nat
  sent : List Sent              -- frames that left the ports, newest first
  orphan0 : Bool
  next0 : Option Nat            -- the ADMIN connection that queue 0 goes to once its tags are free (R251)
  deriving DecidableEq, Repr

/-- Command queues and admission (chapter 11; QUEUE). -/
structure Queues where
  queues : Tab Queue
  cmds : List Cmd
  marks : List QMark
  admitted : List Nat           -- queues of the commands admitted in this bead (R323)
  objects : List OpenObj
  arrivals : Nat
  selQueue : Tab (BitVec 64)
  selTier : Tab (BitVec 64)
  selLearn : Tab (BitVec 64)
  selSat : Tab (BitVec 64)
  deriving DecidableEq, Repr

/-- The event log (R263 to R265). -/
structure Events where
  log : List EventRec
  nextSeq : BitVec 32
  lost : Nat
  deriving DecidableEq, Repr

/-- Event counters by register address, with their snapshots (R350, R387). -/
structure Counters where
  counts : Tab EvCounter
  snaps : Tab EvCounter
  sat : Tab EvCounter           -- saturation counters (R150), keyed by Ops.satKey
  satSnap : Tab EvCounter
  lossSnap : List (F32 × Nat)
  deriving DecidableEq, Repr

/-- The loaded setting, its overrides and the boot state (chapter 14; SETTING, IDENT). -/
structure Loader where
  setting : Option Setting
  digest : BitVec 256
  partialCnt : Nat
  applying : Bool
  firmware : Bool
  fwVersion : BitVec 32
  fwDigest : BitVec 256
  map : List Nat
  groups : List GroupRec
  hold : BitVec 4
  holdNext : Option (BitVec 4)
  pending : List (Nat × Nat)    -- (logical, physical) substitutions decided for the next edge
  part : Option PartialRun
  discovering : Bool
  discovered : Bool
  staging : Nat                 -- bytes staged in HBM
  deriving DecidableEq, Repr

/-- Near memory (chapter 08; NEARMEM). Banks not listed are online. -/
structure NearMem where
  banks : Tab Bank
  dbgAddr : BitVec 36
  bytes : Memory
  deriving DecidableEq, Repr

/-- HBM (chapter 08; HBM). Channels not listed are online; `scratch` is keyed by Ops.scratchAddr. -/
structure Hbm where
  hbmStacks : List HbmStack
  chans : Tab HbmChan
  scratch : Memory
  deriving DecidableEq, Repr

/-- Flash, translation layer and write buffer (chapter 09; FLASH). -/
structure Flash where
  chans : List FlashCh
  blocks : List Block
  units : List Unit64
  fresh : List Unit64               -- programmed, and switched by the journal record that is still to be written (R213)
  journal : List (List (Nat × Nat × Nat × Nat))  -- complete journal records: the units each switches (collection, page, channel, block)
  mapAt : List Nat                  -- HBM stacks of the two copies of the map (R199)
  mapLost : List Nat                -- copies to be rebuilt from the other
  unclean : Bool
  mapReady : Bool
  wbuf : List WriteRec
  after : List WriteRec             -- records that left the buffer ahead of an earlier one of their collection (R214)
  nextRec : Nat
  reserved : Nat
  rated : BitVec 16
  deriving DecidableEq, Repr

/-- Amounts taken of the tier manager's pools, and what becomes free at the next edge (R24, R185). -/
structure Pools where
  relFlash : Nat
  relSlots : List (Nat × Nat)
  relHbm : List (Nat × Nat × Nat)   -- (set, pinned and placed MiB, 0)
  relNear : List (List Nat × Nat)   -- (near set, MiB of cache)
  relScratch : List (Nat × Nat × Nat) -- (die, sketch column frames, record column frames)
  relScan : List AttachRec          -- scan budgets given back
  relRd : Nat
  relCand : Nat
  relGather : Nat
  relLearn : Nat
  relBuf : Nat                      -- write-buffer bytes of host writes
  rings : List (Nat × Nat)          -- ring bytes reserved: (pipeline + 1, or 0 for hub SRAM; bytes)
  sel : List (Nat × Nat)            -- (pipeline, partition) of each query of the coming launch
  cand : Nat
  gather : Nat
  learn : Nat
  deriving DecidableEq, Repr

/-- Stream engines (chapter 10). -/
structure Streams where
  streams : List Stream
  tasks : List Task
  nextSid : Nat
  nextTid : Nat
  deriving DecidableEq, Repr

/-- Queries and reads under way, and the merge windows of their trees. -/
structure Search where
  queries : List Query
  reads : List ReadItem
  nextQid : Nat
  serial : BitVec 32
  claspOut : Bool               -- the module clasp is in a block reset (R346)
  claspRet : Bool               -- it is released at the next edge (R23)
  logged : List (Nat × List F32 × List F32)   -- logged pairs of this bead's replies (R154)
  deriving DecidableEq, Repr

/-- Fabric router (chapter 13; FABRIC). -/
structure Fabric where
  addr : BitVec 20
  assigned : Bool
  len : List Nat
  links : List Link
  faults : List Elem
  changes : List (Nat × Elem × Bool)   -- changes of the applied fault set: bead, element, and whether it was repaired
  notices : List HeldNotice
  seen : List (BitVec 20 × BitVec 16 × Bool)
  noticeNum : BitVec 16
  bundles : List Bundle
  branches : List Branch
  closed : List Nat             -- trees whose multicast window is closed in this bead
  shardCounts : List (Nat × BitVec 32 × Nat)   -- intended segments that a collection's shard last reported to this root
  inbox : List (List Byte)      -- MGMT_ACCESS messages for the management complex
  dropped : List (Nat × BitVec 20)   -- (bead, root) of bundles dropped for this member
  early : List (MsgHdr × MsgBody)    -- query messages of a bead that has not begun here (R104)
  asleep : List (MsgHdr × Bool × Capsule × Nat)   -- queries held until P0, with the bead of their receipt (R261)
  deriving DecidableEq, Repr

/-- Encoder and learning unit (chapter 07; LEARN). -/
structure Learn where
  runs : List Run
  nextRun : Nat
  driftW : Nat
  driftD : Nat
  nextW : Option Nat
  nextD : Option Nat
  windowStart : Nat
  windows : List Window
  views : Tab (Nat × Nat × Nat) -- epoch state and run registers as of the last edge (R392)
  deriving DecidableEq, Repr

/-- Boundary scan and the FRU memory (R355, R396). -/
structure Board where
  scan : ScanInstr
  fru : Tab Byte                -- bytes written since manufacture
  deriving DecidableEq, Repr

/-- The whole module. -/
structure State where
  pending : List Instr
  out : List Out
  free : Nat
  time : TimeBase
  power : Power
  cores : Cores
  locket : Locket
  host : HostIf
  queues : Queues
  events : Events
  counters : Counters
  loader : Loader
  facets : List Facet           -- 68 physical facets
  facetRam : Memory             -- facet scratch, address facet * 2^24 + byte
  collectors : List Collector   -- 0 to 67 facets, 68 to 71 dies, 72 module
  near : NearMem
  hbm : Hbm
  flash : Flash
  colls : Tab Coll
  pools : Pools
  streams : Streams
  search : Search
  fabric : Fabric
  learn : Learn
  board : Board
  deriving DecidableEq, Repr

/-- A port before power: HOSTIF reset values (chapter 18), the cage as it stands empty. -/
def Port.reset : Port :=
  { rate := 0, pfc := false, maxIp := 1500, vlanId := 0, vlanEn := false, pcpMgmt := 6, pcpData := 3, state := 0,
    ipv4 := 0, ipv6 := 0, ipv6ctl := 0, useRate := 0, usePcp := 0x1E, useVlan := 0, useIpv4 := 0, useIpv6 := 0, useIpv6ctl := 0, pcs := false,
    linkLocal := 0, mac := 0, rxMgmt := 0, rxData := 0 }

/-- A collector after reset: facets run FIRST, dies and the module DETAIL (R342). -/
def Collector.reset (detail : Bool) : Collector :=
  { status := 0, mode := detail, armedMode := detail, source := 0, valid := false, overflow := false, access := 0,
    master := 0, capAddr := 0, capTime := 0, pins := 0, defaultsOnly := false }

def Facet.reset : Facet :=
  { fenced := false, reason := 0, safe := false, bistPass := false, bistRun := false, blockRun := false, release := false,
    byDie := false, temp := 0, hot := false, dbgAddr := 0 }

def Bank.reset : Bank := { state := 0, mbistPass := false, ret := false }
def HbmChan.reset : HbmChan := { state := 0, mbistPass := false, ret := false, queued := [] }

def FlashCh.reset : FlashCh :=
  { state := 0, rate := 3, prongFenced := false, prongTest := false, prongClear := false, ret := false, store := [],
    hot80 := false, hot85 := false, wearLevel := 0 }

def Link.reset : Link :=
  { state := 0, cause := 0, farAddr := 0, farLink := 0, nonce := 0, txSeq := 0, rxSeq := 0, awaitRetry := false,
    retries := 0, replay := [], waitq := [], credit := [192, 32, 32, 1472, 32, 32, 1984, 32, 32], activate := false, turn := 0,
    out := false, stay := false, retrain := false }

def TimeBase.reset : TimeBase :=
  { held := false, holdover := false, skew := false, now := 0, periodUs := 20, source := 0, sourceArg := 0,
    started := false, cut := false, gap := false, srcOffset := 0, nbrMax := 0, nbrNow := 0, ppsBad := 0,
    ppsSynced := false, slew := 0, intervals := 0 }

def Power.reset : Power :=
  { phase := .off, pwrEn := false, resetN := true, powerGood := false, inputMv := 0,
    below := [false, false, false, false, false], rails := List.replicate 9 0, effective := 0, edgeStep := 0,
    overvolt := false, pkgMw := 0, pkgPaused := false, hubTemp := 0, hubHot := false, pstate := 0, target := 0,
    preparing := false, entering := false, exiting := false, frozen := none, prepBead := 0, psCmd := none, flushing := false,
    downAfter := false, resetAfter := false, shutdownRecord := true, holdup := 0, holdupLow := false, errTrip := false,
    errBoot := false, errReset := false, thermHold := [], pllLocked := false, resetDue := false }

def Cores.reset : Cores := { aIn := true, bIn := true, aReady := false, bReady := false, irqs := [] }

/-- The fuses of a shipped XQ-700-64T in PRODUCTION. DESIGN CHOICE, log entry 5: fuse contents are each module's own. -/
def Fuses.reset : Fuses :=
  { root0 := 1, root1 := 2, revoked := 0, lifecycle := 1, debugLock := 0, part := 0, maxFabricLog2 := 20, seed := 0 }

def Locket.reset : Locket :=
  { fuses := Fuses.reset, copy := Fuses.reset, lifecycle := 1, debugOpened := false, nonce := 0,
    token := List.replicate 24 0, tokenResult := 0, tokenAction := 0, meas := List.replicate 8 0, deviceId := 0,
    idKey := none, keys := [], certOk := true }

def HostIf.reset : HostIf :=
  { ports := [Port.reset, Port.reset, { Port.reset with rate := 3, useRate := 3 }], mgmt := List.replicate 16 (0, false), conns := [],
    storeUsed := 0, sent := [], orphan0 := false, next0 := none }

def Queues.reset : Queues :=
  { queues := [], cmds := [], marks := [], admitted := [], objects := [], arrivals := 0, selQueue := [], selTier := [],
    selLearn := [], selSat := [] }

def Events.reset : Events := { log := [], nextSeq := 0, lost := 0 }

def Counters.reset : Counters := { counts := [], snaps := [], sat := [], satSnap := [], lossSnap := [] }

def Loader.reset : Loader :=
  { setting := none, digest := 0, partialCnt := 0, applying := false, firmware := false, fwVersion := 0, fwDigest := 0,
    map := List.replicate 64 0xFF, groups := [], hold := 0, holdNext := none, pending := [], part := none,
    discovering := false, discovered := false, staging := 0 }

def NearMem.reset : NearMem := { banks := [], dbgAddr := 0, bytes := [] }
def Hbm.reset : Hbm := { hbmStacks := List.replicate 8 ⟨0, 0, false⟩, chans := [], scratch := [] }

def Flash.reset : Flash :=
  { chans := List.replicate 64 FlashCh.reset, blocks := [], units := [], fresh := [], journal := [], mapAt := [0, 4], mapLost := [], unclean := false,
    mapReady := false, wbuf := [], after := [], nextRec := 0, reserved := 0, rated := 0 }

def Pools.reset : Pools :=
  { relFlash := 0, relSlots := [], relHbm := [], relNear := [], relScratch := [], relScan := [], relRd := 0,
    relCand := 0, relGather := 0, relLearn := 0, relBuf := 0, rings := [], sel := [], cand := 0, gather := 0, learn := 0 }

def Streams.reset : Streams := { streams := [], tasks := [], nextSid := 0, nextTid := 0 }
def Search.reset : Search := { queries := [], reads := [], nextQid := 0, serial := 0, claspOut := false, claspRet := false, logged := [] }

def Fabric.reset : Fabric :=
  { addr := 0, assigned := false, len := [1, 1, 1, 1, 1], links := List.replicate 12 Link.reset, faults := [], changes := [],
    notices := [], seen := [], noticeNum := 0, bundles := [], branches := [], closed := [], shardCounts := [], inbox := [],
    dropped := [], early := [], asleep := [] }

def Learn.reset : Learn :=
  { runs := [], nextRun := 1, driftW := 4096, driftD := 64, nextW := none, nextD := none, windowStart := 0, windows := [],
    views := [] }

def Board.reset : Board := { scan := .bypass, fru := [] }

def collectorsReset : List Collector :=
  List.replicate 68 (Collector.reset false) ++ List.replicate 5 (Collector.reset true)

/-- The module on its standby supply, no power cycle begun: every register at its reset value of chapter 18. -/
def State.reset : State :=
  { pending := [], out := [], free := 0, time := TimeBase.reset, power := Power.reset, cores := Cores.reset,
    locket := Locket.reset, host := HostIf.reset, queues := Queues.reset, events := Events.reset,
    counters := Counters.reset, loader := Loader.reset, facets := List.replicate 68 Facet.reset, facetRam := [],
    collectors := collectorsReset, near := NearMem.reset, hbm := Hbm.reset, flash := Flash.reset, colls := [],
    pools := Pools.reset, streams := Streams.reset, search := Search.reset, fabric := Fabric.reset,
    learn := Learn.reset, board := Board.reset }

end Sys2Proof.Machine
end

