-- ==== Sys2Proof/Machine/Tab.lean ====
section
/-! DEFINITION. Operations on tables, lists by index and addressed memories. Each table and memory keeps its keys
strictly rising; a memory lists no byte equal to what an unlisted address reads as (0, log entry 6). -/

namespace Sys2Proof.Machine

/-- The value at a key. -/
def Tab.get {α : Type} : Tab α → Nat → Option α
  | [], _ => none
  | (k, v) :: r, x => if x = k then some v else Tab.get r x

/-- Insert or replace, keeping the keys rising. -/
def Tab.put {α : Type} : Tab α → Nat → α → Tab α
  | [], x, w => [(x, w)]
  | (k, v) :: r, x, w =>
    if x < k then (x, w) :: (k, v) :: r
    else if x = k then (x, w) :: r
    else (k, v) :: Tab.put r x w

def Tab.del {α : Type} : Tab α → Nat → Tab α
  | [], _ => []
  | (k, v) :: r, x => if x = k then r else (k, v) :: Tab.del r x

def Tab.getD {α : Type} (t : Tab α) (k : Nat) (d : α) : α := (Tab.get t k).getD d

/-- Change the value at a key where there is one. -/
def Tab.upd {α : Type} (t : Tab α) (k : Nat) (f : α → α) : Tab α :=
  match Tab.get t k with
  | some v => Tab.put t k (f v)
  | none => t

def Tab.mapVals {α : Type} (t : Tab α) (f : α → α) : Tab α := t.map fun (k, v) => (k, f v)

/-- The lowest key below `n` that the table does not hold, from `i` on. -/
def Tab.freeFrom {α : Type} (t : Tab α) : Nat → Nat → Option Nat
  | 0, _ => none
  | n + 1, i => match Tab.get t i with
    | none => some i
    | some _ => Tab.freeFrom t n (i + 1)

/-- Keys strictly rising, all at or above `lo`. -/
def Tab.risingFrom {α : Type} : Nat → Tab α → Bool
  | _, [] => true
  | lo, (k, _) :: r => decide (lo ≤ k) && Tab.risingFrom (k + 1) r

def Tab.wf {α : Type} (t : Tab α) : Bool := Tab.risingFrom 0 t

/-- Change the element at an index where there is one. -/
def updAt {α : Type} : List α → Nat → (α → α) → List α
  | [], _, _ => []
  | x :: xs, 0, f => f x :: xs
  | x :: xs, n + 1, f => x :: updAt xs n f

/-! ## Sorting -/

/-- Put an element before the first one that is not before it. -/
def insertBy {α : Type} (le : α → α → Bool) (a : α) : List α → List α
  | [] => [a]
  | b :: r => if le a b then a :: b :: r else b :: insertBy le a r

/-- A list in the order of `le`; elements that tie keep their order. -/
def sortBy {α : Type} (le : α → α → Bool) : List α → List α
  | [] => []
  | a :: r => insertBy le a (sortBy le r)

def sortNat : List Nat → List Nat := sortBy fun a b => decide (a ≤ b)

/-! ## Addressed memory -/

/-- What a byte that nothing has written reads as. DESIGN CHOICE, log entry 6. -/
def Memory.blank : Byte := 0

/-- The byte at an address. -/
def Memory.read : Memory → Nat → Byte
  | [], _ => Memory.blank
  | (a, v) :: r, x => if x = a then v else if x < a then Memory.blank else Memory.read r x

/-- Write one byte, keeping the canonical form: a byte equal to `blank` is not listed. -/
def Memory.write : Memory → Nat → Byte → Memory
  | [], x, w => if w = Memory.blank then [] else [(x, w)]
  | (a, v) :: r, x, w =>
    if x < a then (if w = Memory.blank then (a, v) :: r else (x, w) :: (a, v) :: r)
    else if x = a then (if w = Memory.blank then r else (x, w) :: r)
    else (a, v) :: Memory.write r x w

/-- Canonical form from an address on. -/
def Memory.wfFrom : Nat → Memory → Bool
  | _, [] => true
  | lo, (a, v) :: r => decide (lo ≤ a) && decide (v ≠ Memory.blank) && Memory.wfFrom (a + 1) r

/-- The canonical form: addresses strictly rising, no listed byte equal to `blank`. -/
def Memory.wf (m : Memory) : Bool := Memory.wfFrom 0 m

/-- `n` bytes from an address up. -/
def Memory.readBytes (m : Memory) (a : Nat) : Nat → List Byte
  | 0 => []
  | n + 1 => Memory.read m a :: Memory.readBytes m (a + 1) n

/-- Bytes written from an address up. -/
def Memory.writeBytes (m : Memory) (a : Nat) : List Byte → Memory
  | [] => m
  | b :: bs => Memory.writeBytes (Memory.write m a b) (a + 1) bs

/-- Drop every byte of an address range. -/
def Memory.dropRange (m : Memory) (lo hi : Nat) : Memory := m.filter fun (a, _) => a < lo || hi ≤ a

end Sys2Proof.Machine
end

