-- ==== Sys2Proof/Machine/Bytes.lean ====
section
/-! DEFINITION. Bytes and bit fields: little-endian fields of capsules and module memory (R8, R9), byte strings of
digests and keys, and the padding of reply payloads. -/

namespace Sys2Proof.Machine

/-- The little-endian value of a byte list (R9). -/
def leNat : List Byte → Nat
  | [] => 0
  | b :: bs => b.toNat + 256 * leNat bs

/-- `n` little-endian bytes of a value. -/
def leBytes : Nat → Nat → List Byte
  | 0, _ => []
  | n + 1, v => BitVec.ofNat 8 v :: leBytes n (v / 256)

/-- The big-endian value of a byte string. -/
def beNat (bs : List Byte) : Nat := leNat bs.reverse

def beBytes (n v : Nat) : List Byte := (leBytes n v).reverse

/-- `n` bytes of a list from an offset; missing bytes are not supplied. -/
def sliceB (bs : List Byte) (off n : Nat) : List Byte := (bs.drop off).take n

/-- The little-endian field of `n` bytes at an offset. -/
def fieldB (bs : List Byte) (off n : Nat) : Nat := leNat (sliceB bs off n)

/-- Bits [hi:lo] of a value (R8). -/
def bitsOf (v hi lo : Nat) : Nat := (v / 2 ^ lo) % 2 ^ (hi + 1 - lo)

def bitOf (v i : Nat) : Bool := (v / 2 ^ i) % 2 == 1

/-- Zero padding up to the next multiple of 8 bytes. -/
def pad8 (bs : List Byte) : List Byte := bs ++ List.replicate ((8 - bs.length % 8) % 8) 0

/-- The field of `n` bytes at byte `b` (24 to 63) of a capsule's parameter area (R266). -/
def areaField (a : BitVec 320) (b n : Nat) : Nat := (a.toNat / 2 ^ (8 * (b - 24))) % 2 ^ (8 * n)

/-- A parameter area holding `v` in the `n` bytes at byte `b`. -/
def areaPut (a : BitVec 320) (b n v : Nat) : BitVec 320 :=
  a ||| BitVec.ofNat 320 ((v % 2 ^ (8 * n)) * 2 ^ (8 * (b - 24)))

/-- Whether every byte of the parameter area outside the listed (byte, count) fields is zero (R10, R266). -/
def areaOnly (a : BitVec 320) (fields : List (Nat × Nat)) : Bool :=
  let mask := fields.foldl (fun m (b, n) => m ||| ((2 ^ (8 * n) - 1) * 2 ^ (8 * (b - 24)))) 0
  (a.toNat &&& (2 ^ 320 - 1 - mask)) == 0

/-- popcount (scope chapter, pseudocode). -/
def popcountN : Nat → Nat → Nat
  | 0, _ => 0
  | f + 1, v => v % 2 + popcountN f (v / 2)

/-- Hamming distance of two codes of `l` bits (R125). -/
def hamming (l a b : Nat) : Nat := popcountN l (Nat.xor a b)

/-- ⌈a ÷ b⌉. -/
def ceilDiv (a b : Nat) : Nat := (a + b - 1) / b

/-- FP32, BF16 and 16-bit values of a byte list. -/
def f32sOf (bs : List Byte) : List F32 := (chunks 4 bs).map fun c => BitVec.ofNat 32 (leNat c)
def w16sOf (bs : List Byte) : List (BitVec 16) := (chunks 2 bs).map fun c => BitVec.ofNat 16 (leNat c)

def w16Bytes (w : BitVec 16) : List Byte := leBytes 2 w.toNat

end Sys2Proof.Machine
end

