-- ==== Sys2Proof/Machine/Wire.lean ====
section
/-! DEFINITION. What leaves the ports: Reune datagrams (R240, R244, R267, R288) in UDP with its checksum, in frames with
Don't Fragment and the 802.1Q tag (R237, R238, R242). Which address of a port a datagram comes from is log entry 121. -/

namespace Sys2Proof.Machine

def getConn (s : State) (c : Nat) : Option Conn := s.host.conns.get c
def setConn (s : State) (c : Nat) (v : Conn) : State := { s with host := { s.host with conns := s.host.conns.put c v } }
def updConn (s : State) (c : Nat) (f : Conn → Conn) : State := { s with host := { s.host with conns := s.host.conns.upd c f } }
def getPort (s : State) (p : Nat) : Port := s.host.ports.getD p Port.reset
def updPort (s : State) (p : Nat) (f : Port → Port) : State := { s with host := { s.host with ports := updAt s.host.ports p f } }

/-! ## Addresses -/

/-- An IPv4-mapped address (R288). -/
def isV4 (a : BitVec 128) : Bool := a.toNat / 2 ^ 32 == 0xFFFF

/-- The IPv4-mapped form of an address of 32 bits. -/
def mapV4 (a : Nat) : BitVec 128 := BitVec.ofNat 128 (0xFFFF * 2 ^ 32 + a % 2 ^ 32)

/-- The addresses at which a port answers: its link-local address, and the written ones in use (R238). -/
def Port.answersAt (p : Port) (a : BitVec 128) : Bool :=
  a == p.linkLocal || (p.useIpv6ctl.getLsbD 63 && a == p.useIpv6) || (p.useIpv4.getLsbD 63 && a == mapV4 p.useIpv4.toNat)

/-- The address of a port that a datagram to `dst` comes from. -/
def Port.sourceFor (p : Port) (dst : BitVec 128) : BitVec 128 :=
  if isV4 dst then mapV4 p.useIpv4.toNat
  else if dst.toNat / 2 ^ 64 == 0xFE80000000000000 || !p.useIpv6ctl.getLsbD 63 then p.linkLocal
  else p.useIpv6

/-! ## The UDP checksum -/

def sumWords : List Byte → Nat
  | [] => 0
  | [a] => a.toNat * 256
  | a :: b :: r => a.toNat * 256 + b.toNat + sumWords r

/-- The ones' complement sum of 16-bit words, folded. -/
def foldSum (n : Nat) : Nat :=
  let f (x : Nat) : Nat := x % 65536 + x / 65536
  f (f (f (f n)))

/-- The UDP checksum over the pseudo header, the header and the body; a computed zero is sent as ones. -/
def udpChecksum (src dst : BitVec 128) (sp dp : Nat) (body : List Byte) : BitVec 16 :=
  let len := 8 + body.length
  let addr (a : BitVec 128) : List Byte := if isV4 a then beBytes 4 a.toNat else beBytes 16 a.toNat
  let bs := addr src ++ addr dst ++ beBytes 4 len ++ [0, 17] ++ beBytes 2 sp ++ beBytes 2 dp ++ beBytes 2 len ++ [0, 0] ++ body
  let x := 65535 - foldSum (sumWords bs)
  BitVec.ofNat 16 (if x = 0 then 65535 else x)

/-! ## Frames -/

/-- The 802.1Q tag of a class's frames: VLAN_ID in use and the class's priority code point (R242). -/
def Port.tagOf (p : Port) (mgmt : Bool) : Option (BitVec 16) :=
  if p.useVlan.getLsbD 12 then
    let pcp := if mgmt then bitsOf p.usePcp.toNat 2 0 else bitsOf p.usePcp.toNat 5 3
    some (BitVec.ofNat 16 (pcp * 2 ^ 13 + p.useVlan.toNat % 2 ^ 12))
  else none

/-- A frame leaves a port. -/
def sendFrame (s : State) (port : Nat) (mgmt : Bool) (k : SentKind) : State :=
  let df := match k with | .udp d => isV4 d.dst | _ => false
  { s with host := { s.host with sent := ⟨port, (getPort s port).tagOf mgmt, df, k⟩ :: s.host.sent } }

/-- UDP port of Reune datagrams at the module (R240). -/
def reunePort : Nat := 46200

/-- A UDP datagram leaves a port, with its checksum (R240). -/
def sendUdp (s : State) (port : Nat) (mgmt : Bool) (dst : BitVec 128) (dp : Nat) (body : List Byte) : State :=
  let src := (getPort s port).sourceFor dst
  sendFrame s port mgmt (.udp ⟨src, dst, reunePort, dp, udpChecksum src dst reunePort dp body, body⟩)

/-! ## Reune datagrams (R288) -/

/-- The Reune header. -/
def reuneHeader (conn type flags seq ack window : Nat) : List Byte :=
  leBytes 2 conn ++ [BitVec.ofNat 8 type, BitVec.ofNat 8 flags] ++ leBytes 4 seq ++ leBytes 4 ack ++
    leBytes 4 (min window (2 ^ 32 - 1))

/-- Receive buffer of each class: 512 KiB of a host port's 8 MiB for the management class, and 2 MiB of the management
port (R242). What a bead received has left the buffer by its end. DESIGN CHOICE, log entry 29. -/
def rxLimit (port : Nat) (admin : Bool) : Nat :=
  if port = 2 then 2 * 2 ^ 20 else if admin then 2 ^ 19 else 8 * 2 ^ 20 - 2 ^ 19

def rxUsed (p : Port) (admin : Bool) : Nat := if admin then p.rxMgmt else p.rxData

def addRx (p : Port) (admin : Bool) (n : Nat) : Port :=
  if admin then { p with rxMgmt := p.rxMgmt + n } else { p with rxData := p.rxData + n }

/-- A datagram of a connection: to its address, on its port, acknowledging what arrived in order. -/
def sendDatagram (s : State) (id : Nat) (c : Conn) (mgmt : Bool) (type flags seq : Nat) (body : List Byte) : State :=
  let window := rxLimit c.port c.admin - rxUsed (getPort s c.port) c.admin
  sendUdp s c.port mgmt c.addr c.udp (reuneHeader id type flags seq (c.rxNext - 1).toNat window ++ body)

/-- A datagram that belongs to no connection. -/
def sendLoose (s : State) (port conn : Nat) (mgmt : Bool) (dst : BitVec 128) (dp type : Nat) (body : List Byte) : State :=
  sendUdp s port mgmt dst dp (reuneHeader conn type 0 0 0 (rxLimit port mgmt - rxUsed (getPort s port) mgmt) ++ body)

/-- The body of a NAK. -/
def nakBody (seq : BitVec 32) (reason : Nat) : List Byte := leBytes 4 seq.toNat ++ [BitVec.ofNat 8 reason]

/-- Bytes one segment carries on a connection (R237, R288). -/
def segBytes (s : State) (c : Conn) : Nat := (getPort s c.port).maxIp.toNat - (if isV4 c.addr then 20 else 40) - 24

/-- The segments of a capsule, at least one, with FIRST on the first, LAST on the last, and `extra` on each (R244). -/
def segsOf (n extra : Nat) (bs : List Byte) : List Seg :=
  let cs := match chunks (max 1 n) bs with | [] => [[]] | xs => xs
  (cs.zipIdx).map fun (c, i) => ⟨(if i = 0 then 1 else 0) + (if i + 1 = cs.length then 2 else 0) + extra, c⟩

/-- Consecutive DATA datagrams of a connection. -/
def sendSegs (s : State) (id : Nat) (c : Conn) (mgmt : Bool) (first : BitVec 32) (segs : List Seg) : State :=
  (segs.zipIdx).foldl (fun t (x, i) => sendDatagram t id c mgmt 3 x.flags (first + BitVec.ofNat 32 i).toNat x.body) s

/-- The bytes of a reply capsule (R267). -/
def replyBytes (r : CmdRef) (st : BitVec 16) (area : BitVec 320) (body : List Byte) : List Byte :=
  [r.op, r.flags] ++ leBytes 2 st.toNat ++ leBytes 4 (r.queue + r.tag * 2 ^ 15 + r.coll * 2 ^ 20) ++ leBytes 4 0 ++
    leBytes 4 body.length ++ leBytes 8 r.cookie.toNat ++ leBytes 40 area.toNat ++ body

end Sys2Proof.Machine
end

