-- ==== Sys2Proof/Machine/Ops.lean ====
section
/-! DEFINITION. Operations every subsystem shares: bead numbers, free values, event counters and events, the transmit
store and replies, ERR_N, and the marks a query carries for missed segments. -/

namespace Sys2Proof.Machine

/-! ## Changing one subsystem (R15) -/

def State.modTime (s : State) (f : TimeBase → TimeBase) : State := { s with time := f s.time }
def State.modPower (s : State) (f : Power → Power) : State := { s with power := f s.power }
def State.modCores (s : State) (f : Cores → Cores) : State := { s with cores := f s.cores }
def State.modLocket (s : State) (f : Locket → Locket) : State := { s with locket := f s.locket }
def State.modHost (s : State) (f : HostIf → HostIf) : State := { s with host := f s.host }
def State.modQueues (s : State) (f : Queues → Queues) : State := { s with queues := f s.queues }
def State.modLoader (s : State) (f : Loader → Loader) : State := { s with loader := f s.loader }
def State.modNear (s : State) (f : NearMem → NearMem) : State := { s with near := f s.near }
def State.modHbm (s : State) (f : Hbm → Hbm) : State := { s with hbm := f s.hbm }
def State.modFlash (s : State) (f : Flash → Flash) : State := { s with flash := f s.flash }
def State.modPools (s : State) (f : Pools → Pools) : State := { s with pools := f s.pools }
def State.modStreams (s : State) (f : Streams → Streams) : State := { s with streams := f s.streams }
def State.modSearch (s : State) (f : Search → Search) : State := { s with search := f s.search }
def State.modFabric (s : State) (f : Fabric → Fabric) : State := { s with fabric := f s.fabric }
def State.modLearn (s : State) (f : Learn → Learn) : State := { s with learn := f s.learn }

/-! ## Time -/

/-- The bead period in ns (R101). -/
def periodNs (s : State) : Nat := s.time.periodUs * 1000

/-- The bead in progress: bead b begins at fabric time b times the period (R101). -/
def beadNow (s : State) : Nat := s.time.now / periodNs s

/-- Whether the module runs: step 2 of power-up is complete (R336). -/
def isUp (s : State) : Bool := s.power.phase == .up

/-- What a step does on an empty queue: 1 ns of fabric time passes, never past a moment that has a row of its own in
this bead: the cut point, the start of the admission gap and the edge. DESIGN CHOICE, log entry 1. -/
def idleTick (s : State) : State :=
  let t := s.time.now % periodNs s
  let room := periodNs s - t
  let stop := room ≤ 1 || (!s.time.cut && room ≤ 2000) || (!s.time.gap && room ≤ 1000)
  if s.time.held && !stop then { s with time := { s.time with now := s.time.now + 1 } } else s

/-! ## Free values -/

/-- Draw a free Boolean: the spec leaves the choice open (log entry 8). -/
def drawBool (s : State) : Bool × State := (Config.freeBool s.free, { s with free := s.free + 1 })
def drawNat (s : State) : Nat × State := (Config.freeNat s.free, { s with free := s.free + 1 })
def drawOrd (s : State) : List Nat × State := (Config.freeOrd s.free, { s with free := s.free + 1 })
def drawF32 (s : State) : F32 × State := (Config.freeF32 s.free, { s with free := s.free + 1 })

/-! ## Register addresses (chapter 18) -/

def facetBase (f : Nat) : Nat := if f < 64 then 0x100000 + 0x4000 * f else 0x240000 + 0x4000 * (f - 64)

/-- Base of a collector's space: facet 0 to 67, die 68 to 71, module 72 (R381). -/
def fcolBase (c : Nat) : Nat := if c < 68 then facetBase c + 0x3000 else 0x50000 + 0x1000 * (c - 68)

def portBase (p : Nat) : Nat := 0x60000 + 0x1000 * p
def linkBase (l : Nat) : Nat := 0x80000 + 0x100 * l
def stackBase (k : Nat) : Nat := 0xA0000 + 0x1000 * k
def flashBase (c : Nat) : Nat := 0xC0000 + 0x400 * c

def adcHalfCnt (f : Nat) : Nat := facetBase f + 0x110
def adcFp16Cnt (f : Nat) : Nat := facetBase f + 0x118
def repeatCnt (c : Nat) : Nat := fcolBase c + 0x40
def oversizeCnt (p : Nat) : Nat := portBase p + 0x100
def fragCnt (p : Nat) : Nat := portBase p + 0x108
def rxErrCnt (p : Nat) : Nat := portBase p + 0x110
def mgmtPauseCnt (p : Nat) : Nat := portBase p + 0x118
def dupCnt : Nat := 0x63010
def txUnheldCnt : Nat := 0x63018
def connFailCnt : Nat := 0x63020
def failoverCnt : Nat := 0x63028
def eventDropCnt : Nat := 0x63030
def queueAdmitCnt : Nat := 0x70110
def queueRefuseCnt (c : Nat) : Nat := 0x70118 + 8 * (c - 1)
def fecCorrCnt (l : Nat) : Nat := linkBase l + 0x10
def fecUncorrCnt (l : Nat) : Nat := linkBase l + 0x18
def flitRetryCnt (l : Nat) : Nat := linkBase l + 0x20
def routeDropCnt : Nat := 0x81018
def detourCnt : Nat := 0x81020
def lateNoticeCnt : Nat := 0x81028
def replayFullCnt : Nat := 0x81030
def demoteCnt : Nat := 0x81038
def branchDropCnt : Nat := 0x81040
def hbmRetrainCnt (k : Nat) : Nat := stackBase k + 0x800
def msaOvfCnt (k : Nat) : Nat := stackBase k + 0x808
def hbmCeCnt (k : Nat) : Nat := stackBase k + 0x810
def hbmUeCnt (k : Nat) : Nat := stackBase k + 0x818
def nearCeCnt : Nat := 0xB4010
def nearUeCnt : Nat := 0xB4018
def flashRetryCnt (c : Nat) : Nat := flashBase c + 0x100
def flashSoftCnt (c : Nat) : Nat := flashBase c + 0x108
def flashRebuildCnt (c : Nat) : Nat := flashBase c + 0x110
def flashUncorrCnt (c : Nat) : Nat := flashBase c + 0x118
def dedupCnt : Nat := 0x200010
def nanDropCnt : Nat := 0x200018
def compactCnt : Nat := 0x200020
def selectCutCnt : Nat := 0x200028
def payloadMissCnt : Nat := 0x200030
def bridgeMissCnt : Nat := 0x200038
def rerankMissCnt : Nat := 0x200040
def streamAbortCnt : Nat := 0x220010
def voidSlotCnt : Nat := 0x220018
def withdrawnCnt : Nat := 0x220020
def staleMbCnt : Nat := 0x210110
def mbAbortCnt : Nat := 0x210118
def mbDropCnt : Nat := 0x210120
def updateAbortCnt : Nat := 0x210128
def pairDropCnt : Nat := 0x210130
def degenerateCnt : Nat := 0x210138
def versionCnt : Nat := 0x210140
def partialCnt : Nat := 0x230010
def deadlineMissCnt : Nat := 0x230018

/-! ## Sending (R244, R245, R248, R258) -/

def emit (s : State) (o : Out) : State := { s with out := o :: s.out }

/-- The transmit store: 1 GiB (R248). -/
def storeSize : Nat := 2 ^ 30

/-- Send one reply or event of a class in numbered datagrams and keep it until it is acknowledged; without room a reply is
sent once, unheld. Answers whether it was kept. -/
def keepSent (s : State) (id : Nat) (c : Conn) (mgmt : Bool) (bs : List Byte) (ev : Option (BitVec 32)) : Bool × State :=
  let segs := segsOf (segBytes s c) (if ev.isSome then 4 else 0) bs
  let c1 := { c with txNext := c.txNext + BitVec.ofNat 32 segs.length }
  let s0 := sendSegs s id c mgmt c.txNext segs
  if s.host.storeUsed + bs.length ≤ storeSize then
    let k : Kept := { first := c.txNext, count := segs.length, bytes := bs.length, failures := 0, event := ev, segs := segs }
    let s1 := setConn s0 id { c1 with store := c.store ++ [k] }
    (true, { s1 with host := { s1.host with storeUsed := s.host.storeUsed + bs.length } })
  else (false, setConn s0 id c1)

/-! ## Events (R263 to R265, R289) -/

def eventBytes (seq : BitVec 32) (code : BitVec 16) (lost time : Nat) (args : List Byte) : List Byte :=
  leBytes 4 seq.toNat ++ leBytes 2 code.toNat ++ leBytes 2 (min lost 65535) ++ leBytes 8 time ++
    (args ++ List.replicate (32 - args.length) 0)

/-- The group of an event (R289). -/
def eventGroup (code : BitVec 16) : Nat := code.toNat / 256

def armedFor (c : Conn) (code : BitVec 16) : Bool := !c.failed && !c.closed && bitOf c.armed.toNat (eventGroup code)

/-- Connections armed for the group of a code. -/
def armedConns (s : State) (code : BitVec 16) : List Nat :=
  (s.host.conns.filter fun (_, c) => armedFor c code).map Prod.fst

/-- Send one event record to one connection; the Power group goes in the management class (R265). -/
def deliverTo (bs : List Byte) (seq : BitVec 32) (s : State) (id : Nat) : State :=
  match getConn s id with
  | none => s
  | some c => emit (keepSent s id c (c.admin || fieldB bs 5 1 == 5) bs (some seq)).2 (.event id bs)

def maxEvents : Nat := 512

/-- Raise an event: into the log, and to every armed connection; dropped where the log is full (R264). A dropped event
takes no sequence number. DESIGN CHOICE, log entry 10. -/
def logEvent (s : State) (code : BitVec 16) (args : List Byte) : Bool × State :=
  if s.events.log.length < maxEvents then
    let dest := armedConns s code
    let lost := if dest.isEmpty then 0 else s.events.lost
    let r : EventRec := ⟨s.events.nextSeq, code, lost, s.time.now, args, dest, !dest.isEmpty⟩
    let left := if dest.isEmpty then s.events.lost else 0
    let s1 := { s with events := { log := s.events.log ++ [r], nextSeq := s.events.nextSeq + 1, lost := left } }
    (true, dest.foldl (deliverTo (eventBytes r.seq code lost r.time args) r.seq) s1)
  else (false, { s with events := { s.events with lost := min 65535 (s.events.lost + 1) } })

/-! ## Counters (R350) -/

def counterMax : Nat := 2 ^ 48 - 1

/-- Count `n` events; answers whether the counter saturates now. -/
def countUp (c : EvCounter) (n : Nat) : Bool × EvCounter :=
  let v := min counterMax (c.val + n)
  (v == counterMax && c.val != counterMax, { val := v, sat := c.sat || v == counterMax })

def counterAt (s : State) (a : Nat) : EvCounter := s.counters.counts.getD a ⟨0, false⟩

def setCounter (s : State) (a : Nat) (c : EvCounter) : State :=
  { s with counters := { s.counters with counts := s.counters.counts.put a c } }

/-- Count without the event of a saturation, for the counter of dropped events itself. -/
def bumpQuiet (s : State) (a n : Nat) : Bool × State :=
  let (sat, c) := countUp (counterAt s a) n
  (sat, setCounter s a c)

/-- Raise an event, counting it in EVENT_DROP_CNT where it is dropped. -/
def raiseEvent (s : State) (code : BitVec 16) (args : List Byte) : State :=
  let (ok, s1) := logEvent s code args
  if ok then s1
  else (bumpQuiet s1 eventDropCnt 1).2

/-- STEP of HBM_TEMP: 3 while the stack is fenced for heat, otherwise its thermal step (R189). -/
def HbmStack.step (x : HbmStack) : Nat := if x.fenced then 3 else x.heat

/-- Count `n` events at a counter's register address; the event that saturates it raises counter.sat (R350). -/
def bumpN (s : State) (a n : Nat) : State :=
  if n = 0 then s
  else
    let (sat, s1) := bumpQuiet s a n
    if sat then raiseEvent s1 0x0101 (leBytes 4 a) else s1

def bump (s : State) (a : Nat) : State := bumpN s a 1

/-- The saturation counters' key: collection, run flag, epoch, tensor, position (LEARN_SAT_SELECT, R391). -/
def satKey (coll : Nat) (run : Bool) (epoch tensor pos : Nat) : Nat :=
  (((coll * 2 + (if run then 1 else 0)) * 65536 + epoch) * 256 + tensor) * 65536 + pos

/-! ## Commands and replies (R251, R253, R267) -/

def sameCmd (q t : Nat) (c : Cmd) : Bool := c.ref.queue == q && c.ref.tag == t
def findCmd (s : State) (q t : Nat) : Option Cmd := s.queues.cmds.find? (sameCmd q t)

def setCmds (s : State) (f : List Cmd → List Cmd) : State := { s with queues := { s.queues with cmds := f s.queues.cmds } }

def updCmd (s : State) (q t : Nat) (f : Cmd → Cmd) : State :=
  setCmds s fun cs => cs.map fun c => if sameCmd q t c then f c else c

/-- The class of a status (R290). -/
def statusClass (st : BitVec 16) : Nat := st.toNat / 256

/-- Hand a reply to the transport: sent and kept on a live connection, discarded on a failed or closed one. -/
def transmit (s : State) (r : CmdRef) (st : BitVec 16) (area : BitVec 320) (body : List Byte) : State :=
  match getConn s r.conn with
  | none => s
  | some c =>
    if c.failed || c.closed then s
    else
      let (kept, s1) := keepSent s r.conn c c.admin (replyBytes r st area body) none
      let s2 := emit s1 (.reply r st area body)
      if kept then s2 else bump s2 txUnheldCnt

/-- Free a tag of a queue (R251). -/
def freeTag (s : State) (q t : Nat) : State :=
  let f (u : Queue) : Queue := { u with tags := u.tags &&& ~~~(BitVec.ofNat 32 (2 ^ t)) }
  { s with queues := { s.queues with queues := s.queues.queues.upd q f } }

def closeOne (s : State) (conn : Nat) : State := updConn s conn fun c => { c with open_ := c.open_ - 1 }

/-- Count an admission and remember its queue for ADMIT_LIMIT (R105, R323). -/
def countAdmit (s : State) (q : Nat) : State :=
  (bump s queueAdmitCnt).modQueues fun u => { u with admitted := q :: u.admitted }

/-- Count a reply: a refusal by its class, and a command answered at its decision as admitted (log entry 90). -/
def countReply (s : State) (c : Cmd) (st : BitVec 16) : State :=
  if statusClass st != 0 then bump s (queueRefuseCnt (statusClass st))
  else if c.stage == .held then countAdmit s c.ref.queue
  else s

/-- Send the reply of a command that holds a tag, and free its tag. -/
def answer (s : State) (q t : Nat) (st : BitVec 16) (area : BitVec 320) (body : List Byte) : State :=
  match findCmd s q t with
  | none => s
  | some c =>
    let s1 := closeOne (transmit (countReply s c st) c.ref st area body) c.ref.conn
    let s2 := freeTag s1 q t
    { s2 with
      queues := { s2.queues with cmds := s2.queues.cmds.filter fun x => !sameCmd q t x }
      flash := { s2.flash with reserved := s2.flash.reserved - c.resv }
      pools := { s2.pools with relBuf := s2.pools.relBuf + c.resv } }

def ok (s : State) (q t : Nat) (area : BitVec 320) : State := answer s q t 0 area []
def refuse (s : State) (q t : Nat) (st : BitVec 16) : State := answer s q t st 0 []

/-! ## Collections -/

def getColl (s : State) (c : Nat) : Option Coll := s.colls.get c
def setColl (s : State) (c : Nat) (v : Coll) : State := { s with colls := s.colls.put c v }
def updColl (s : State) (c : Nat) (f : Coll → Coll) : State := { s with colls := s.colls.upd c f }

/-- Change every collection, by its id. -/
def mapColls (s : State) (f : Nat → Coll → Coll) : State := { s with colls := s.colls.map fun (k, v) => (k, f k v) }

/-! ## Missed segments (R117, R119) -/

/-- Mark a segment missed: the cause that arose first stands, the lowest code among those of one bead. -/
def SegState.miss (bead cause : Nat) (g : SegState) : SegState :=
  match g.missed with
  | none => { g with missed := some (bead, cause) }
  | some (b, c) => if b = bead then { g with missed := some (b, min c cause) } else g

/-- Mark the segments of a query that satisfy `p`. A list already formed is not changed (R108, R120). -/
def Query.missIf (q : Query) (bead cause : Nat) (p : SegState → Bool) : Query :=
  if q.merged then q else { q with segs := q.segs.map fun g => if p g then g.miss bead cause else g }

def updQuery (s : State) (id : Nat) (f : Query → Query) : State :=
  { s with search := { s.search with queries := s.search.queries.map fun q => if q.qid = id then f q else q } }

def mapQueries (s : State) (f : Query → Query) : State :=
  { s with search := { s.search with queries := s.search.queries.map f } }

def findQuery (s : State) (id : Nat) : Option Query := s.search.queries.find? fun q => q.qid == id

/-- Take slots off what a segment still has to screen and to score. -/
def SegState.without (xs : List Nat) (g : SegState) : SegState :=
  { g with toScreen := g.toScreen.filter fun x => !xs.contains x, toScore := g.toScore.filter fun x => !xs.contains x }

/-- Work a segment still has open. -/
def SegState.unfinished (g : SegState) : Bool :=
  !g.toScreen.isEmpty || !g.toScore.isEmpty || !g.held.isEmpty || !g.toRerank.isEmpty

/-- Searched: nothing open and nothing missed (R112). -/
def SegState.searched (g : SegState) : Bool := !g.unfinished && g.missed.isNone

/-! ## Facets and groups -/

def getFacet (s : State) (f : Nat) : Facet := s.facets.getD f Facet.reset
def updFacet (s : State) (f : Nat) (g : Facet → Facet) : State := { s with facets := updAt s.facets f g }

/-- The physical facet of a logical one (R318); 0xFF where unassigned. -/
def physOf (s : State) (l : Nat) : Nat := s.loader.map.getD l 0xFF

/-- The logical facet mapped to a physical one; 0xFF where none is. -/
def logicalOf (s : State) (f : Nat) : Nat :=
  match (List.range 64).find? fun l => physOf s l == f with
  | some l => l
  | none => 0xFF

/-- The quad 0 to 15 of a logical facet (R319). -/
def quadOf (l : Nat) : Nat := l / 16 * 4 + l % 16 / 4

def groupOf (s : State) (g : Nat) : Option GroupRec := s.loader.groups.find? fun r => r.id == g
def hasQuad (r : GroupRec) (q : Nat) : Bool := bitOf r.quads.toNat q

/-- A logical facet that receives launches: mapped, not fenced, not waiting for its release (R22, R23). -/
def launchable (s : State) (l : Nat) : Bool :=
  let p := physOf s l
  p != 0xFF && !(getFacet s p).fenced && !(getFacet s p).release

/-- The logical facets of a pipeline, in order. -/
def facetsOf (s : State) (g : Nat) : List Nat :=
  match groupOf s g with
  | none => []
  | some r => (List.range 64).filter fun l => hasQuad r (quadOf l)

/-- The quads of a pipeline. -/
def quadsOf (s : State) (g : Nat) : List Nat :=
  match groupOf s g with
  | none => []
  | some r => (List.range 16).filter (hasQuad r)

/-- The logical facets of a quad, lowest number first. -/
def quadFacets (q : Nat) : List Nat := (List.range 4).map (4 * q + ·)

/-- The physical facet that takes code block `j` of a batch: quads in turn (log entry 99), within a quad its four facets in
turn. The share of a facet that is out goes to the others of its quad in turn where the quad's reservation allows;
that of an unassigned facet to none (R18, R19). -/
def facetForBlock (s : State) (quads takeOver : List Nat) (j : Nat) : Option Nat :=
  if quads.isEmpty then none
  else
    let q := quads.getD (j % quads.length) 0
    let i := j / quads.length
    let l := 4 * q + i % 4
    if launchable s l then some (physOf s l)
    else if physOf s l == 0xFF || !takeOver.contains q then none
    else
      let mates := (quadFacets q).filter (launchable s)
      (mates[i / 4 % max 1 mates.length]?).map (physOf s)

/-! ## Measurement registers (R378) -/

/-- M := SM3(M || d) in register i. -/
def extendMeas (s : State) (i : Nat) (d : BitVec 256) : State :=
  let f (m : BitVec 256) : BitVec 256 := Config.sm3 (beBytes 32 m.toNat ++ beBytes 32 d.toNat)
  { s with locket := { s.locket with meas := updAt s.locket.meas i f } }

/-- The digest of an object as a byte string, most significant byte first in the number. -/
def digestBytes (d : BitVec 256) : List Byte := beBytes 32 d.toNat

end Sys2Proof.Machine
end

