-- ==== Sys2Proof/Machine/Encode.lean ====
section
/-! DEFINITION. Encoding and distances: embeddings (R56, R405), projection and sketch (R57, R143, R144), nearest centroid
and bucket (R60, R143), distance tables (R58, R59), ADC scores (R71, R134 to R136) and rerank (R137). `ord` names the free
split of a reduction and the order in which its terms and parts arrive (R131, R141), log entry 17. -/

namespace Sys2Proof.Machine

/-! ## Embeddings -/

/-- Bytes of one element of an embedding format: 0 FP32, 1 BF16, 2 INT8 (R269). -/
def embSize : Nat → Nat
  | 0 => 4
  | 1 => 2
  | _ => 1

def embNums (fmt : Nat) (bs : List Byte) : List Num :=
  match fmt with
  | 0 => (f32sOf bs).map Num.ofF32
  | 1 => (w16sOf bs).map Num.ofBf16
  | _ => bs.map Num.ofInt8

def finiteAll (xs : List Num) : Bool := xs.all Num.isFinite

/-- Exponent of the leading bit of a non-zero value. -/
def leadExp : Num → Int
  | .fin _ m e => e + (Nat.log2 m : Nat)
  | _ => 0

/-- Unit length in FP32 (R405): none when every element is zero. -/
def normalise (ord : List Nat) (xs : List Num) : Option (List Num) :=
  match (xs.filter fun x => !x.isZero).map leadExp with
  | [] => none
  | e :: es =>
    let top := es.foldl max e
    let ys := xs.map fun x => Num.mul x (.pow2 (-top))
    let norm := Num.fl (Num.sqrt (sumSquares ord ys).result)
    some (ys.map fun y => Num.fl (Num.div y norm))

/-- The embedding as the encoder takes it: normalised for the cosine metric (2). -/
def prepared (metric : Nat) (ord : List Nat) (xs : List Num) : Option (List Num) :=
  if metric = 2 then normalise ord xs else some xs

def bf16Of (x : Num) : Num := Num.ofBf16 (Num.toBf16 x)

/-! ## Encoder -/

def groupLen (g : Nat) : Nat := 32 * 2 ^ g

/-- A weight code: INT4 in two's complement, or FP8 E4M3 (R122, R286). -/
def weightNum (wformat : Nat) (b : Byte) : Num :=
  if wformat = 0 then Num.ofInt (toInt4 b) else Num.ofE4m3 b
where
  toInt4 (b : Byte) : Int := let v := b.toNat % 16; if v < 8 then v else (v : Int) - 16

/-- The layer number of the projection in tensor numbers and degenerate flags (LEARN_SAT_SELECT). -/
def projLayer : Nat := 3

/-- Whether an activation group is flagged degenerate (R152). -/
def actFlagged (enc : Encoder) (layer pos : Nat) : Bool := enc.actOff.contains (layer * 65536 + pos)

/-- Activations of a layer narrowed to FP8 E4M3 under their group scales (R142, R144); a degenerate group encodes to 0
(R152). -/
def actCodes (enc : Encoder) (layer : Nat) (act : List (BitVec 16)) (xs : List Num) : List (List Num × Num) :=
  (((chunks (groupLen enc.group) xs).zip act).zipIdx).map fun ((ys, sc), p) =>
    let s := Num.ofBf16 sc
    let off := actFlagged enc layer p
    (ys.map fun x => if off then .zero else Num.ofE4m3 (Num.toE4m3 (Num.fl (Num.div x s))), s)

/-- One output of a linear layer: each group's exact products on the compensated path, scaled once, then combined
(R133). -/
def linear1 (enc : Encoder) (ord : List Nat) (acts : List (List Num × Num)) (row : List Byte) (sc : List (BitVec 16)) : Num :=
  let ws := chunks (groupLen enc.group) row
  let parts := ((acts.zip ws).zip sc).map fun (((xs, sa), cs), sw) =>
    let ps := (xs.zip cs).map fun (x, c) => Num.mul x (weightNum enc.wformat c)
    (sumOrd ord ps).scaleOnce (Num.mul sa (Num.ofBf16 sw))
  ((reorder ord parts).foldl Pair.combine Pair.zero).result

/-- A sized array padded to 8 bytes: its bytes and what follows. -/
def takePad (n : Nat) (bs : List Byte) : List Byte × List Byte := (bs.take n, bs.drop (ceilDiv n 8 * 8))

/-- Codes of a weight array: INT4 packed two to a byte, low nibble first; FP8 one a byte. -/
def weightCodes (wformat : Nat) (bs : List Byte) : List Byte :=
  if wformat = 0 then (bs.map fun (b : Byte) => [b &&& 0x0F, b.ushiftRight 4]).flatten else bs

def weightBytes (wformat n : Nat) : Nat := if wformat = 0 then ceilDiv n 2 else n

/-- The layers' dimension pairs. -/
def layerDims : Nat → List Nat → List (Nat × Nat)
  | _, [] => []
  | i, o :: os => (i, o) :: layerDims o os

/-- A linear layer of an image: the projection has no gains. -/
structure Layer where
  inDim : Nat
  act : List (BitVec 16)
  rows : List (List Byte)
  sc : List (List (BitVec 16))
  gain : List (BitVec 16)
  deriving DecidableEq, Repr

/-- The layers of a trunk section (R286). -/
def splitLayers (wf g : Nat) : List (Nat × Nat) → List Byte → List Layer
  | [], _ => []
  | (i, o) :: r, bs =>
    let n := ceilDiv i (groupLen g)
    let (a, b1) := takePad (2 * n) bs
    let (w, b2) := takePad (weightBytes wf (i * o)) b1
    let (sc, b3) := takePad (2 * o * n) b2
    let (ga, b4) := takePad (2 * o) b3
    ⟨i, w16sOf a, (chunks i (weightCodes wf w)).take o, chunks n (w16sOf sc), w16sOf ga⟩ :: splitLayers wf g r b4

/-- The trunk layers with their layer numbers. -/
def trunkLayers (enc : Encoder) : List (Nat × Layer) :=
  ((splitLayers enc.wformat enc.group (layerDims enc.inputDim enc.out) enc.trunk).zipIdx).map fun (l, i) => (i, l)

/-- Layer normalisation with a learned gain and no bias: mean and variance of the row in one pass (R138, R143, R161). -/
def layerNorm (ord : List Nat) (gain : List (BitVec 16)) (ys : List Num) : List Num :=
  let (mean, var) := (welford ord ys).result
  (ys.zip gain).map fun (y, g) => Num.ofF32 (Config.normElem mean.toF32 var.toF32 g y.toF32)

/-- The outputs of a linear layer for one input. -/
def linearRow (enc : Encoder) (ord : List Nat) (no : Nat) (l : Layer) (xs : List Num) : List Num :=
  let acts := actCodes enc no l.act xs
  (l.rows.zip l.sc).map fun (row, sc) => linear1 enc ord acts row sc

/-- What one trunk layer makes of its input: the linear layer, then its normalisation. -/
def runLayer (enc : Encoder) (ord : List Nat) (no : Nat) (l : Layer) (xs : List Num) : List Num :=
  layerNorm ord l.gain (linearRow enc ord no l xs)

/-- The input of each trunk layer, and the output of the last. -/
def runTrunk (enc : Encoder) (ord : List Nat) : List (Nat × Layer) → List Num → List (Nat × Layer × List Num) × List Num
  | [], xs => ([], xs)
  | (no, l) :: r, xs =>
    let (t, e) := runTrunk enc ord r (runLayer enc ord no l xs)
    ((no, l, xs) :: t, e)

/-- The encoded vector e: the trunk's output, or the input without a trunk (R143). -/
def encVec (enc : Encoder) (ord : List Nat) (xs : List Num) : List Num := (runTrunk enc ord (trunkLayers enc) xs).2

/-- Dimension of the encoded vector. -/
def encDim (enc : Encoder) : Nat := (enc.out.getLast?).getD enc.inputDim

/-- The hash projection as a layer: it has no gains. -/
def projection (enc : Encoder) : Layer := ⟨encDim enc, enc.actScale, enc.weights, enc.wScale, []⟩

/-- The projected values of an encoded vector. -/
def projected (enc : Encoder) (ord : List Nat) (e : List Num) : List Num := linearRow enc ord projLayer (projection enc) e

/-- The signs of projected values: bit j is 1 exactly when value j is greater than zero (R57). -/
def signBits (ys : List Num) : Nat := ((ys.map (Num.lt .zero)).zipIdx).foldl (fun n (b, j) => if b then n + 2 ^ j else n) 0

/-- The sketch of an encoded vector (R57). -/
def sketchOf (enc : Encoder) (ord : List Nat) (e : List Num) : Nat := signBits (projected enc ord e)

def dotPair (ord : List Nat) (q c : List Num) : Pair := sumOrd ord ((q.zip c).map fun (a, b) => Num.mul a b)

/-- ‖q‖² + ‖c‖² − 2 q·c combined by R131, as R58 and R137 form it; the three pairs arrive in the order that `ord` names,
log entry 17. -/
def l2Pair (ord : List Nat) (q c : List Num) : Pair :=
  (reorder ord.tail [sumSquares ord q, sumSquares ord c, ((dotPair ord q c).scale2 1).neg]).foldl Pair.combine Pair.zero

/-- The value before narrowing; below zero it is +0. -/
def l2Num (ord : List Nat) (q c : List Num) : Num :=
  let x := (l2Pair ord q c).exact
  if x.isNeg then .zero else x

/-- The lowest index of a smallest value. -/
def argminNum : List Num → Nat
  | [] => 0
  | x :: xs => (((x :: xs).zipIdx).foldl (fun (b : Num × Nat) (y, i) => if Num.lt y b.1 then (y, i) else b) (x, 0)).2

def centroid (ws : List (BitVec 16)) : List Num := ws.map Num.ofBf16

/-- The sub-vectors of e rounded to BF16, with their codebooks. -/
def subVecs (enc : Encoder) (e : List Num) : List (List Num × List (List (BitVec 16))) :=
  let n := match enc.books with | b :: _ => (b.headD []).length | [] => 0
  (chunks n (e.map bf16Of)).zip (enc.books.map fun b => b)

/-- The PQ code: the nearest centroid of each sub-vector (R143). -/
def pqCode (enc : Encoder) (ord : List Nat) (e : List Num) : List Byte :=
  (subVecs enc e).map fun (q, book) => BitVec.ofNat 8 (argminNum (book.map fun c => Num.fl (l2Num ord q (centroid c))))

/-- The bucket of a sketch: the nearest signature, lowest number first (R60). -/
def bucketOf (enc : Encoder) (l sketch : Nat) : Nat :=
  ((enc.sigs.zipIdx).foldl (fun (b : Nat × Nat) (g, i) =>
    let d := hamming l g sketch
    if d < b.1 then (d, i) else b) (l + 1, 0)).2

/-! ## Distance tables -/

/-- FP16 with infinities and overflow held at ±65,504 (R58). -/
def tableEntry (x : Num) : BitVec 16 :=
  match x with
  | .nan => Num.toF16 .nan
  | _ =>
    let w := Num.toF16 x
    if w = 0x7C00 then 0x7BFF else if w = 0xFC00 then 0xFBFF else w

def clampF16 (w : BitVec 16) : BitVec 16 := if w = 0x7C00 then 0x7BFF else if w = 0xFC00 then 0xFBFF else w

/-- The distance table set of a query under an epoch: M sub-tables of 256 entries (R58). -/
def tablesOf (enc : Encoder) (metric : Nat) (ord : List Nat) (e : List Num) : List (List (BitVec 16)) :=
  (subVecs enc e).map fun (q, book) => book.map fun c =>
    if metric = 0 then tableEntry (l2Num ord q (centroid c))
    else tableEntry (dotPair ord q (centroid c)).neg.exact

/-- A host-supplied table set in order [m][c] (R59, R270). -/
def hostTables (m : Nat) (bs : List Byte) : List (List (BitVec 16)) := ((chunks 256 (w16sOf bs)).take m).map fun t => t.map clampF16

/-! ## ADC scores -/

/-- The score with FP16 tables (R134). -/
def scoreF16 (metric : Nat) (ord : List Nat) (t : List (List (BitVec 16))) (code : List Byte) : F32 :=
  let xs := (t.zip code).map fun (sub, c) => Num.ofF16 (sub.getD c.toNat 0)
  Num.toF32 (sumOrd ord (if metric = 2 then xs ++ [.one] else xs)).result

/-- A UINT8 table set of R135: step, base, and per sub-table its shift and entries. -/
structure FastSet where
  step : Num
  base : Num
  subs : List (Nat × List Nat)
  deriving DecidableEq, Repr

def ratio (n d : Nat) (x : Num) : Num := Num.fl (Num.div (Num.mul x (.ofNat n)) (.ofNat d))

/-- Insert into an ascending list. -/
def insertNum (x : Num) : List Num → List Num
  | [] => [x]
  | y :: ys => if Num.lt y x then y :: insertNum x ys else x :: y :: ys

/-- R135 at `half` doublings of the step (R136). A NaN among the entries of a host-supplied table makes the step, the base
and every fast distance of the set NaN: R135 states no minimum over it. DESIGN CHOICE, log entry 115. -/
def fastSet (metric : Nat) (ord : List Nat) (half : Nat) (t : List (List (BitVec 16))) : FastSet :=
  let subs := t.map fun sub => sub.map Num.ofF16
  let mins := subs.map fun sub => sub.foldl Num.minN (sub.headD .zero)
  let ranges := (subs.zip mins).map fun (sub, lo) => Num.fl (Num.sub (sub.foldl Num.maxN (sub.headD .zero)) lo)
  let top := ranges.foldl Num.maxN .zero
  let med := (ranges.foldl (fun l x => insertNum x l) []).getD (ranges.length / 2 - 1) .zero
  let s0 := if top.isZero then .one else Num.maxN (ratio 1 255 med) (ratio 1 4080 top)
  let s := Num.mul s0 (.pow2 half)
  let shift (r : Num) : Nat :=
    ((List.range 5).find? fun (e : Nat) => Num.le r (Num.mul (Num.fl (Num.mul s (.ofNat 255))) (.pow2 (e : Int)))).getD 4
  let quant (lo : Num) (e : Nat) (x : Num) : Nat :=
    (Num.toIntClamp 0 255 (Num.fl (Num.div (Num.fl (Num.sub x lo)) (Num.mul s (.pow2 e))))).toNat
  let one := if metric = 2 then [Num.one] else []
  { step := s, base := (sumOrd ord (mins ++ one)).result
    subs := ((subs.zip mins).zip ranges).map fun ((sub, lo), r) => let e := shift r; (e, sub.map (quant lo e)) }

/-- The accumulator of a code. -/
def fastAcc (f : FastSet) (code : List Byte) : Nat :=
  ((f.subs.zip code).map fun ((e, us), c) => us.getD c.toNat 0 * 2 ^ e).foldl (· + ·) 0

def fastOverflows (f : FastSet) (code : List Byte) : Bool := 65535 < fastAcc f code

/-- The fast distance fl(base + s × acc). -/
def scoreFast (f : FastSet) (code : List Byte) : F32 := Num.toF32 (Num.add f.base (Num.mul f.step (.ofNat (fastAcc f code))))

/-! ## Rerank -/

/-- A stored full vector as BF16 values: INT8 (1) or BF16 (2). -/
def storedNums (vecFormat : Nat) (bs : List Byte) : List Num :=
  if vecFormat = 1 then bs.map Num.ofInt8 else (w16sOf bs).map Num.ofBf16

/-- The exact distance of R71 for a prepared query and a stored vector (R137). -/
def rerankDist (metric : Nat) (ord : List Nat) (q x : List Num) : F32 :=
  let q := q.map bf16Of
  if metric = 0 then Num.toF32 (l2Num ord q x)
  else if metric = 1 then Num.toF32 (dotPair ord q x).neg.exact
  else
    let xx := (sumSquares ord x).result
    if xx.isZero then Num.toF32 .one
    else
      let qq := (sumSquares ord q).result
      let den := Num.fl (Num.mul (Num.fl (Num.sqrt qq)) (Num.fl (Num.sqrt xx)))
      Num.toF32 (Num.sub .one (Num.fl (Num.div (dotPair ord q x).result den)))

/-! ## Stored vectors (R275, R405) -/

/-- The bytes of a full vector in its stored format, INT8 (1) or BF16 (2), each value narrowed by R121 and R123. -/
def vectorBytes (vecFormat : Nat) (xs : List Num) : List Byte :=
  if vecFormat = 1 then xs.map fun x => BitVec.ofInt 8 (Num.toIntClamp (-128) 127 x)
  else (xs.map fun x => w16Bytes (Num.toBf16 x)).flatten

/-- The full vector stored for a raw embedding (R275): under the cosine metric of unit length (R405), which in INT8 is
narrowed back to INT8, log entry 18. -/
def storeRaw (metric vecFormat : Nat) (ord : List Nat) (xs : List Num) : List Byte :=
  vectorBytes vecFormat ((prepared metric ord xs).getD xs)

/-- The full vector stored for WITH_VECTOR: of unit length under the cosine metric, where an all-zero one stays as given
(R405). -/
def storeGiven (metric vecFormat : Nat) (ord : List Nat) (bs : List Byte) : List Byte :=
  if metric = 2 then ((normalise ord (storedNums vecFormat bs)).map (vectorBytes vecFormat)).getD bs else bs

/-- Codes of an item under an epoch. -/
def encodeItem (ep : Epoch) (ord : List Nat) (xs : List Num) : Nat × List Byte :=
  let e := encVec ep.enc ord xs
  (sketchOf ep.enc ord e, pqCode ep.enc ord e)

end Sys2Proof.Machine
end

