-- ==== Sys2Proof/Machine/Tasks.lean ====
section
/-! DEFINITION. Stream tasks: cancellation and abort (R229 to R235), what an abort does to the work of the task
(R149, R230), and the release of ring slots as the tail passes them (R226, R227). -/

namespace Sys2Proof.Machine

def getStream (s : State) (sid : Nat) : Option Stream := s.streams.streams.find? fun x => x.sid == sid

def updStream (s : State) (sid : Nat) (f : Stream → Stream) : State :=
  s.modStreams fun r => { r with streams := r.streams.map fun x => if x.sid = sid then f x else x }

def getTask (s : State) (tid : Nat) : Option Task := s.streams.tasks.find? fun x => x.tid == tid

def updTask (s : State) (tid : Nat) (f : Task → Task) : State :=
  s.modStreams fun r => { r with tasks := r.tasks.map fun x => if x.tid = tid then f x else x }

/-- The state of a free slot. -/
def Slot.freed (x : Slot) : Slot := { x with st := .free, data := .none, outstanding := false, atDevice := false }

/-- A slot of a cancelled ring: voided unless free, taken or void already; a request not yet at its device is
withdrawn (R232). -/
def Slot.cancel (x : Slot) : Slot :=
  match x.st with
  | .issued => { x with st := .void, outstanding := x.atDevice, data := .none }
  | .full => { x with st := .void, data := .none }
  | _ => x

/-- Whether cancelling the slot counts in VOID_SLOT_CNT (R234). -/
def Slot.voidCounts (x : Slot) : Bool :=
  match x.st with
  | .issued => x.atDevice
  | .full => true
  | _ => false

/-- Whether cancelling the slot withdraws a request (R232). -/
def Slot.withdrawCounts (x : Slot) : Bool := x.st == .issued && !x.atDevice

/-- The tail passes VOID slots with nothing outstanding, in ring order. -/
def passVoidN : Nat → Stream → Stream
  | 0, r => r
  | n + 1, r =>
    if r.tail < r.head then
      let i := r.tail % r.ring.length
      match r.ring[i]? with
      | some x =>
        if x.st == .void && !x.outstanding then
          passVoidN n { r with ring := updAt r.ring i Slot.freed, tail := r.tail + 1 }
        else r
      | none => r
    else r

def passVoid (r : Stream) : Stream := passVoidN r.ring.length r

/-- Ring bytes a stream still holds: its whole ring while it may issue, then one slot less as the tail passes each
(R227). -/
def Stream.ringHeld (r : Stream) : Nat :=
  r.slotBytes * (if (r.halted || r.stopped) && r.waiting.isEmpty then r.head - r.tail else r.ring.length)

/-- A stream that has nothing left to do. -/
def Stream.isOver (r : Stream) : Bool := (r.halted || r.stopped) && r.waiting.isEmpty && r.head == r.tail

/-- Drop streams that are over, and tasks whose streams are all over. -/
def reap (s : State) : State :=
  let live := s.streams.streams.filter fun r => !r.isOver
  let keep (t : Task) : Bool :=
    live.any (fun r => r.tid == t.tid) || !s.streams.streams.any (fun r => r.tid == t.tid)
  s.modStreams fun r => { r with streams := live, tasks := r.tasks.filter keep }

/-- Let every tail pass (R227). -/
def settleRings (s : State) : State :=
  reap (s.modStreams fun r => { r with streams := r.streams.map passVoid })

def Stream.stop (r : Stream) : Stream :=
  { r with stopped := true, waiting := [], ring := r.ring.map Slot.cancel }

/-- Stop the streams that satisfy `p`, as a cancellation does (R232, R234). -/
def stopStreams (s : State) (p : Stream → Bool) : State :=
  let hit := s.streams.streams.filter fun r => p r && !r.stopped
  let slots := (hit.map fun r => r.ring).flatten
  let s1 := s.modStreams fun t => { t with streams := t.streams.map fun r => if p r && !r.stopped then r.stop else r }
  let s2 := bumpN s1 voidSlotCnt (slots.countP Slot.voidCounts)
  settleRings (bumpN s2 withdrawnCnt (slots.countP Slot.withdrawCounts))

/-- Cancel the tasks that satisfy `p` (R232). -/
def cancelTasks (s : State) (p : Task → Bool) : State :=
  let ids := (s.streams.tasks.filter p).map Task.tid
  let s1 := s.modStreams fun t => { t with tasks := t.tasks.map fun x => if p x then { x with cancelled := true } else x }
  stopStreams s1 fun r => ids.contains r.tid

/-- A merge that stops keeps nothing: its entries are unmerged again (R43), and its head bytes are free from the next bead
(R24, R409). -/
def stopMerge (c : Coll) : Coll :=
  let heads := match c.merge with | some m => 2 * 65536 * ceilDiv m.headBytes 65536 | none => 0
  { c with merge := none, relHeads := c.relHeads + heads, side := c.side.map fun e => if e.merged.isNone then { e with taken := false } else e }

def epochOfSeg (c : Coll) (seg : Nat) : Option Nat := (c.segs.find? fun g => g.num == seg).map Segment.epoch

/-- Beads that the stages after the score list add (R77). -/
def bridgeBeads (q : Query) : Nat := if q.p.bw = 0 || q.dropBridge then 0 else if q.tier = 2 then 2 else 1
def rerankBeads (q : Query) : Nat := if q.p.rr = 0 || q.dropRerank then 0 else 2

/-- Beads that the stages after scoring need, the final one included (R77). -/
def stageBeads (q : Query) : Nat := 1 + bridgeBeads q + rerankBeads q + q.gatherBeads

/-- The last bead in which the query still screens and scores (R54). -/
def scanLast (q : Query) : Nat := q.deadline - stageBeads q

/-- The schedule of a query still allows a flash read for a task before its cut point: a page of its lists before the last
bead that screens and scores, a vector in the first rerank bead, a row before the deadline bead (R118, R179, R193, log entry
96). -/
def mayReread (s : State) (t : Task) (q : Query) : Bool :=
  let b := beadNow s
  match t.kind with
  | .vector => decide (b ≤ q.since) && !s.time.cut
  | .row | .bridge => decide (b < q.deadline)
  | _ => decide (b < scanLast q)

/-- Whether an intended segment of a query carries codes of an epoch (R149). -/
def segHasEpoch (c : Coll) (e : Nat) (g : SegState) : Bool :=
  if g.seg = 65535 then c.side.any fun x => x.ent.epoch == e
  else epochOfSeg c g.seg == some e

/-- The query loses its codes of one epoch, for the cause given (R149). -/
def loseEpoch (s : State) (e cause : Nat) (q : Query) : Query :=
  match getColl s q.coll with
  | none => q
  | some c =>
    let q1 := q.missIf (beadNow s) cause (segHasEpoch c e)
    { q1 with codes := q1.codes.map fun k => if k.epoch = e then { k with aborted := true } else k }

def updRun (s : State) (id : Nat) (f : Run → Run) : State :=
  s.modLearn fun l => { l with runs := l.runs.map fun r => if r.id = id then f r else r }

/-- What becomes of the work of an aborted task (R149, R230). `cause`: STREAM_ABORT, or FENCED_FACET where its facet was
fenced (R22). -/
def ownerAborted (cause : Nat) (s : State) (t : Task) : State :=
  let b := beadNow s
  let mine (q : Query) : Bool := t.qids.contains q.qid
  match t.kind with
  | .sketch | .code =>
    let slots := t.masks.map MaskEntry.slot
    let hit (g : SegState) : Bool := g.seg == t.seg
    mapQueries s fun q => if mine q then
      let q1 := q.missIf b cause hit
      { q1 with segs := q1.segs.map fun g => if hit g then g.without slots else g } else q
  | .vector => mapQueries s fun q => if mine q then q.missIf b cause (fun g => !g.toRerank.isEmpty) else q
  | .bridge | .row | .other => s
  | .encode e => mapQueries s fun q => if mine q then loseEpoch s e cause q else q
  | .writeEncode q g => refuse s q g 0x0301
  | .merge => updColl s t.coll stopMerge
  | .microBatch run mb =>
    bump (updRun s run fun r => { r with mbs := r.mbs.filter fun m => m.num != mb }) mbAbortCnt
  | .update run => bump (updRun s run fun r => { r with accumulated := 0, acc := [], pending := none }) updateAbortCnt
  | .promote =>
    match getColl s t.coll with
    | some c =>
      match c.promo with
      | some p => updColl (refuse s p.ref.queue p.ref.tag 0x0301) t.coll fun c => { c with promo := none }
      | none => s
    | none => s

/-- What a task loses whose reads a map-out discards (R118, R191, R232): entries unscreened and unscored, bridge targets, vectors
and rows. After a fence for heat a query that has the time reads its lists again from flash at the next edge. -/
def readsLost (hot : Bool) (s : State) (t : Task) : State :=
  let b := beadNow s
  let cause := if hot then 3 else 4
  let mine (q : Query) : Bool := t.qids.contains q.qid
  match t.kind with
  | .sketch | .code =>
    let slots := t.masks.map MaskEntry.slot
    let hit (g : SegState) : Bool := g.seg == t.seg && (g.toScreen ++ g.toScore).any slots.contains
    mapQueries s fun q =>
      if !mine q then q
      else if hot && mayReread s t q then { q with segs := q.segs.map fun g => if hit g then { g with again := true } else g }
      else
        let q1 := q.missIf b cause hit
        { q1 with segs := q1.segs.map fun g => if hit g then g.without slots else g }
  | .bridge =>
    let lost (q : Query) : List (Nat × Nat) := if mine q then q.bridgeTargets.filter fun x => x.2 == 1 else []
    let n := (s.search.queries.map fun q => (lost q).length).foldl (· + ·) 0
    bumpN (mapQueries s fun q => { q with bridgeTargets := q.bridgeTargets.filter fun x => !(lost q).contains x }) bridgeMissCnt n
  | .vector =>
    let n := ((s.search.queries.filter mine).map fun q => ((q.segs.map SegState.toRerank).flatten).length).foldl (· + ·) 0
    bumpN (mapQueries s fun q =>
      if mine q then
        let q1 := q.missIf b cause fun g => !g.toRerank.isEmpty
        { q1 with segs := q1.segs.map fun g => { g with toRerank := [] } }
      else q) rerankMissCnt n
  | .row => mapQueries s fun q => if mine q then { q with toGather := q.toGather.filter fun x => x.2 != s.fabric.addr } else q
  | _ => ownerAborted cause s t

/-- Abort a task: its streams stop, STREAM_ABORT_CNT counts it, its owner's work has the outcome of R149 and R230, and
the tasks that consume its output are cancelled (R229, R232). The source is raised by the caller. -/
def abortTask (s : State) (tid : Nat) : State :=
  match getTask s tid with
  | none => s
  | some t =>
    if t.aborted then s
    else
      let s1 := updTask s tid fun x => { x with aborted := true }
      let s2 := ownerAborted 6 (bump s1 streamAbortCnt) t
      let s3 := stopStreams s2 fun r => r.tid == tid
      match t.feeds with
      | some n => cancelTasks s3 fun x => x.tid == n
      | none => s3

end Sys2Proof.Machine
end

