-- ==== Sys2Proof/Machine/Tier.lean ====
section
/-! DEFINITION. The tier manager: region sizes of a collection range, capacities and reservations (R168, R176 to R187,
R200, R409), resident tiers (R172), and what a map-out does to pages and reservations (R191, R192). -/

namespace Sys2Proof.Machine

def mib : Nat := 2 ^ 20
def pageSize : Nat := 65536
def pagesFor (bytes : Nat) : Nat := ceilDiv bytes pageSize

/-! ## Shapes of a collection -/

def CollParams.buckets (p : CollParams) : Nat := 2 ^ p.log2Buckets
def CollParams.sketchBytes (p : CollParams) : Nat := p.sketchBits / 8

/-- Bytes of one code-list entry: PQ code and bridge slots. DESIGN CHOICE, log entry 11. -/
def CollParams.codeBytes (p : CollParams) : Nat := p.subcodes + 8 * p.bridges

/-- Bytes of one full vector (R410). -/
def CollParams.vecBytes (p : CollParams) : Nat :=
  if p.vecFormat = 1 then p.vecDims else if p.vecFormat = 2 then 2 * p.vecDims else 0

/-- Bytes from one full vector to the next: a power of two, as GATHER with 32-bit entries needs (R223). DESIGN CHOICE, log
entry 11. -/
def CollParams.vecStride (p : CollParams) : Nat :=
  (List.range 14).foldl (fun n i => if n < p.vecBytes then 2 ^ (i + 1) else n) (if p.vecBytes = 0 then 0 else 1)

/-- Record bytes of a side-list entry: M + 24 + 8 × bridges, to a multiple of 8 (R178). -/
def CollParams.recordBytes (p : CollParams) : Nat := ceilDiv (p.subcodes + 24 + 8 * p.bridges) 8 * 8

def CollParams.sideEntryBytes (p : CollParams) : Nat := p.sketchBytes + p.recordBytes

/-- Pages of the heads of one segment: 32 bytes for each bucket (R409). -/
def CollParams.headPages (p : CollParams) : Nat := pagesFor (32 * p.buckets)

def CollParams.bitmapPages (p : CollParams) : Nat := pagesFor (p.slotCap / 8)

/-- Segments whose heads and part-filled list pages creation reserves flash for. DESIGN CHOICE, log entry 11. -/
def CollParams.segRoom (p : CollParams) : Nat := 2 * (ceilDiv p.slotCap (2 ^ 24) + 1)

/-- Pages reserved for one region of the range (R168, R201). The sizes are a DESIGN CHOICE, log entry 11. -/
def CollParams.regionPages (p : CollParams) : PageKind → Nat
  | .directory => pagesFor (2 * p.buckets * p.sketchBytes)
  | .heads => p.segRoom * p.headPages
  | .tombstones => p.bitmapPages
  | .filters => p.filterSlots * p.bitmapPages
  | .sketches => 2 * pagesFor (p.slotCap * p.sketchBytes) + p.segRoom
  | .codes => 2 * pagesFor (p.slotCap * p.codeBytes) + p.segRoom
  | .vectors => pagesFor (p.slotCap * p.vecStride)
  | .rows => pagesFor (p.slotCap * p.maxRow)
  | .sideLog => pagesFor (p.sideCap * p.sideEntryBytes)

def kinds : List PageKind :=
  [.directory, .heads, .tombstones, .filters, .sketches, .codes, .vectors, .rows, .sideLog]

def sumN (xs : List Nat) : Nat := xs.foldl (· + ·) 0

/-- Segments of a collection at most (R38). -/
def maxSegs : Nat := 65535

/-- Page numbers laid out for a region: heads and lists have numbers for every segment a collection can hold (R38), of
which only those of its segments are backed. DESIGN CHOICE, log entry 11. -/
def CollParams.regionSpan (p : CollParams) : PageKind → Nat
  | .heads => maxSegs * p.headPages
  | .sketches => 4 * pagesFor (p.slotCap * p.sketchBytes) + maxSegs
  | .codes => 4 * pagesFor (p.slotCap * p.codeBytes) + maxSegs
  | k => p.regionPages k

/-- First page of a region: the regions follow one another in the order of R168. -/
def CollParams.regionBase (p : CollParams) (k : PageKind) : Nat :=
  sumN ((kinds.takeWhile (· != k)).map p.regionSpan)

/-- The kind of a page of the range, by the region it lies in. -/
def CollParams.kindOf (p : CollParams) (page : Nat) : Option PageKind :=
  kinds.find? fun k => p.regionBase k ≤ page && page < p.regionBase k + p.regionSpan k

/-- Flash pages reserved at creation; each filter slot has room to stage a replacement (R283). -/
def CollParams.flashPages (p : CollParams) : Nat := sumN (kinds.map p.regionPages) + p.regionPages .filters

/-- Flash bytes reserved: a stripe-class page is charged 70,144 bytes (R201). -/
def CollParams.flashBytes (p : CollParams) : Nat :=
  let lead := p.regionPages .directory + p.regionPages .heads
  p.flashPages * pageSize + (if p.stripe then lead * (70144 - pageSize) else 0)

/-- Head pages of every published segment (R409). -/
def Coll.headPages (c : Coll) : Nat := sumN (c.segs.map fun g => pagesFor g.headBytes)

/-- Pinned bytes, both copies, with the heads released in this bead (R24, R409). -/
def Coll.pinnedBytes (c : Coll) : Nat :=
  let p := c.params
  let merge := match c.merge with | some m => m.headBytes | none => 0
  2 * (pageSize * (p.regionPages .directory + p.regionPages .tombstones + p.regionPages .filters + c.headPages)
    + pageSize * pagesFor merge) + c.relHeads

def Coll.pinnedMib (c : Coll) : Nat := ceilDiv c.pinnedBytes mib

/-- Scratchpad frames of one copy of the side list: its sketch column in whole frames of each of the 256 banks of a bank group,
and its record column on the same die (R178). -/
def CollParams.sketchFrames (p : CollParams) : Nat := 256 * ceilDiv (p.sideCap * p.sketchBytes) (256 * pageSize)
def CollParams.recordFrames (p : CollParams) : Nat := pagesFor (p.sideCap * p.recordBytes)

/-- Bytes of near scratchpad for the side list, both copies (R178). -/
def CollParams.sideBytes (p : CollParams) : Nat := 2 * pageSize * (p.sketchFrames + p.recordFrames)

/-! ## Capacities -/

/-- A collection whose reservations stand: attached, or with a detach or delete whose work has not ended (R185). -/
def Coll.holds (c : Coll) : Bool := c.attached || (c.work.isSome && !c.pages.isEmpty)

def carveOf (s : State) : MemoryCarve :=
  match s.loader.setting with
  | some t => t.carve
  | none => ⟨[], 0, 0, 0, 0, [0, 0, 0, 0], 4, 4, 1024, 1000000, 100000, 256⟩

def getChan (s : State) (ch : Nat) : HbmChan := s.hbm.chans.getD ch HbmChan.reset
def setChan (s : State) (ch : Nat) (v : HbmChan) : State := s.modHbm fun h => { h with chans := h.chans.put ch v }
def updChan (s : State) (ch : Nat) (f : HbmChan → HbmChan) : State := setChan s ch (f (getChan s ch))

/-- A channel that is out: mapped out, or under MBIST (R191, R353). -/
def chanOut (s : State) (ch : Nat) : Bool := let c := getChan s ch; c.state == 2 || c.state == 3

/-- HBM sets: 0 is ALL, 1 + d is NEAR(d) (R180). -/
def CollParams.hbmSet (p : CollParams) : Nat := if p.near then 1 + p.nearDie else 0

def setChans (k : Nat) : List Nat := if k = 0 then List.range 256 else (List.range 64).map (64 * (k - 1) + ·)

/-- Capacity of a set in MiB: the region's frames on all channels less max(margin, mapped out) (R186). -/
def setCapacity (s : State) (k : Nat) : Nat :=
  let c := carveOf s
  let per := if k = 0 then c.hbmAll else c.hbmNear
  let margin := if k = 0 then c.marginAll else c.marginNear.getD (k - 1) 0
  let out := (setChans k).countP (chanOut s)
  ((setChans k).length - max margin out) * per / 16

/-- MiB reserved of a set by the attached collections. -/
def setReserved (s : State) (k : Nat) : Nat :=
  sumN (s.colls.map fun (_, c) =>
    if c.holds && c.params.hbmSet == k then c.pinnedMib + c.hbmPlacedNow else 0)

def relHbmOf (s : State) (k : Nat) : Nat := sumN (s.pools.relHbm.map fun (j, m, _) => if j = k then m else 0)

/-- Reservable MiB left in a set; what was released in this bead is not yet seen (R24). -/
def setFree (s : State) (k : Nat) : Nat := setCapacity s k - setReserved s k - relHbmOf s k

/-- Bank groups of the dies that hold a pipeline (R177). -/
def nearSet (s : State) (pipeline : Nat) : List Nat :=
  match groupOf s pipeline with
  | none => []
  | some r => (List.range 8).filter fun g => (List.range 4).any fun q => hasQuad r (4 * (g / 2) + q)

/-- The lowest die of a pipeline: its side lists lie there, and their mirrors on the next die (R178, log entry 104). -/
def sideDie (s : State) (pipeline : Nat) : Nat := (nearSet s pipeline).headD 0 / 2

/-- The two dies that hold the side lists of a pipeline. -/
def sideDies (s : State) (pipeline : Nat) : List Nat := [sideDie s pipeline, (sideDie s pipeline + 1) % 4]

/-- Near-memory cache of the module in MiB (R176). -/
def cacheCapacity (s : State) : Nat := sumN ((carveOf s).nearCache.map (· * 256)) / 16

/-- MiB of cache placed and left, over the whole module. -/
def cacheFree (s : State) : Nat :=
  cacheCapacity s - sumN (s.colls.map fun (_, c) => if c.holds then c.att.nearPlaced else 0) - sumN (s.pools.relNear.map Prod.snd)

/-- Frames of a bank group that placed bytes of a near set take: near_bank spreads consecutive pages over its banks (R177). -/
def nearShare (set : List Nat) (mibs g : Nat) : Nat := if set.contains g then ceilDiv (16 * mibs) set.length else 0

/-- Cache frames of a bank group in use. -/
def groupUsed (s : State) (g : Nat) : Nat :=
  sumN (s.colls.map fun (_, c) => if c.holds then nearShare (nearSet s c.att.pipeline) c.att.nearPlaced g else 0) +
    sumN (s.pools.relNear.map fun r => nearShare r.1 r.2 g)

/-- The placed bytes of a collection fit the cache of its own near set (R185). -/
def cacheFits (s : State) (c : Coll) : Bool :=
  let set := nearSet s c.att.pipeline
  set.all fun g => groupUsed s g + nearShare set c.att.nearPlaced g ≤ 256 * (carveOf s).nearCache.getD g 0

/-- Scratchpad frames of a bank group: 196 a bank less cache (R176). -/
def padFrames (s : State) (g : Nat) : Nat := 256 * (196 - (carveOf s).nearCache.getD g 196)

/-- Scratchpad frames of a die in use: by sketch columns, and by sketch and record columns. -/
def padUsed (s : State) (d : Nat) : Nat × Nat :=
  let hold := s.colls.filter fun (_, c) => c.holds && (sideDies s c.att.pipeline).contains d
  let rel := s.pools.relScratch.filter fun r => r.1 == d
  let sk := sumN (hold.map fun (_, c) => c.params.sketchFrames) + sumN (rel.map fun r => r.2.1)
  (sk, sk + sumN (hold.map fun (_, c) => c.params.recordFrames) + sumN (rel.map fun r => r.2.2))

/-- The side list of a collection fits its two dies: the sketch column one bank group, the records any frames (R178, R185). -/
def padFits (s : State) (c : Coll) : Bool :=
  let p := c.params
  (sideDies s c.att.pipeline).all fun d =>
    let (sk, all) := padUsed s d
    sk + p.sketchFrames ≤ padFrames s (2 * d) && all + p.sketchFrames + p.recordFrames ≤ padFrames s (2 * d) + padFrames s (2 * d + 1)

/-- Entries of the recent-delete table (R31). -/
def rdCapacity : Nat := 16777216

def rdFree (s : State) : Nat :=
  rdCapacity - sumN (s.colls.map fun (_, c) => if c.holds || !c.recent.isEmpty then c.params.rdShare else 0)
    - s.pools.relRd

/-- Mapping units of reservable flash: 54 TiB, doubled on XQ-700-128T, less 1/64 for each bypass (R200, R208). -/
def flashCapacity (s : State) : Nat :=
  let part := if s.locket.copy.part = 0 then 54 else 108
  let base := part * 2 ^ 24
  if s.loader.firmware then base / 64 * (64 - s.flash.chans.countP fun c => c.state == 3) else 0

def flashReserved (s : State) : Nat := sumN (s.colls.map fun (_, c) => ceilDiv c.params.flashBytes pageSize)
def flashFree (s : State) : Nat := flashCapacity s - flashReserved s - s.pools.relFlash

/-- Reservable scan bytes per bead at the three depths (R186, R194). -/
def scanCapacity (s : State) : Nat × Nat × Nat :=
  let t := s.time.periodUs
  let rate (c : FlashCh) : Nat :=
    if c.state = 3 then 0 else match c.rate.toNat with | 0 => 38400 | 1 => 25600 | 2 => 12800 | _ => 0
  (1098000000 * t / 20, 288000000 * t / 20, sumN (s.flash.chans.map rate) * t / 20)

/-- Scan bytes per bead reserved at one depth; what was released in this bead is not yet seen (R24). -/
def scanReserved (s : State) (f : AttachRec → Nat) : Nat :=
  sumN (s.colls.map fun (_, c) => if c.holds then f c.att else 0) + sumN (s.pools.relScan.map f)

/-- HBM scratch for buffers: the scratch frames of live channels less the two map copies and the transmit store (R199,
R248). -/
def hbmScratchCapacity (s : State) : Nat :=
  let live := (List.range 256).countP fun c => !chanOut s c
  let fixed := (if s.locket.copy.part = 0 then 6912 else 13824) * mib + storeSize
  live * (carveOf s).hbmScratch * pageSize - fixed

def hbmScratchFree (s : State) : Nat :=
  hbmScratchCapacity s - s.pools.cand - s.pools.gather - s.pools.learn - s.loader.staging - s.pools.relCand
    - s.pools.relGather - s.pools.relLearn

/-! ## Where pages are -/

/-- The tier of a page: 0 near memory, 1 HBM, 2 flash; refilling and announced evictions count as flash (R172). -/
def Page.tier (p : Page) : Nat :=
  if p.refilling || p.evictAt.isSome then 2
  else match p.locs with
    | .near _ :: _ => 0
    | .hbm _ :: _ => 1
    | [] => 2

def Loc.isHbm : Loc → Bool
  | .hbm _ => true
  | .near _ => false

/-- A page with a copy in HBM, or one on its way there, that no eviction takes. -/
def Page.onHbm (p : Page) : Bool := p.evictAt.isNone && (p.locs ++ p.incoming.toList).any Loc.isHbm
def Page.onNear (p : Page) : Bool := p.evictAt.isNone && (p.locs ++ p.incoming.toList).any fun l => !l.isHbm

def PageKind.isList : PageKind → Bool
  | .sketches | .codes => true
  | _ => false

def PageKind.pinned : PageKind → Bool
  | .directory | .heads | .tombstones | .filters => true
  | _ => false

/-- The resident tier of a collection: the deepest tier of its published segments' sketch and code pages (R172). -/
def residentTier (c : Coll) : Nat := (c.pages.filter fun p => p.kind.isList).foldl (fun t p => max t p.tier) 0

def findPage (c : Coll) (n : Nat) : Option Page := c.pages.find? fun p => p.num == n

def updPage (c : Coll) (n : Nat) (f : Page → Page) : Coll :=
  { c with pages := c.pages.map fun p => if p.num = n then f p else p }

/-- Frames of a region in use on a channel. -/
def framesOn (s : State) (k ch : Nat) : Nat :=
  sumN (s.colls.map fun (_, c) =>
    if c.params.hbmSet = k then c.pages.countP fun p => p.locs.contains (.hbm ch) || p.incoming == some (.hbm ch) else 0)

/-- The walk of R181 from position `i`, trying every channel of the set once. -/
def hbmWalk (s : State) (k : Nat) (avoid : Option Nat) : Nat → Nat → Option Nat
  | 0, _ => none
  | n + 1, i =>
    let list := setChans k
    let ch := list.getD (i % list.length) 0
    let per := if k = 0 then (carveOf s).hbmAll else (carveOf s).hbmNear
    let bad := chanOut s ch || per ≤ framesOn s k ch || avoid == some (ch / 32)
    if bad then hbmWalk s k avoid n (i + 33) else some ch

/-- hbm_channel(coll, page, copy) of R181. `avoid` is the stack of copy 0. -/
def hbmChannel (s : State) (k coll page copy : Nat) (avoid : Option Nat) : Option Nat :=
  let n := (setChans k).length
  hbmWalk s k avoid n (page + 29 * coll + copy * (n / 2))

/-- The bank group of a copy of a side list (R70, R178). -/
def sideGroup (s : State) (pipeline copy : Nat) : Nat := 2 * ((sideDie s pipeline + copy) % 4)

def bankOk (s : State) (b : Nat) : Bool := (s.near.banks.getD b Bank.reset).state == 0

/-- Banks of the mirrored side list are named from here up in a slot. -/
def sideMark : Nat := 4096

/-- The bank that holds a page of one copy of a side list. -/
def sideBank (s : State) (c : Coll) (copy page : Nat) : Nat :=
  256 * sideGroup s c.att.pipeline copy + (page - c.params.regionBase .sideLog) % 256

/-- The bank that serves a page of a side list: a copy lies page by page over the 256 banks of its group, the scanners read
alternate pages from the two copies, and either serves a page that the other lacks (R70, R179). -/
def sideServer (s : State) (c : Coll) (page : Nat) : Option Nat :=
  let good (copy : Nat) : Bool := !c.sideLost.contains (copy, page) && bankOk s (sideBank s c copy page)
  let first := (page - c.params.regionBase .sideLog) % 2
  if good first then some (sideBank s c first page)
  else if good (1 - first) then some (sideBank s c (1 - first) page) else none

/-- Cache frames of a bank in use. -/
def bankUsed (s : State) (b : Nat) : Nat :=
  sumN (s.colls.map fun (_, c) => c.pages.countP fun p => p.locs.contains (.near b) || p.incoming == some (.near b))

/-- near_bank(coll, page) of R177. -/
def nearHome (s : State) (coll : Nat) (c : Coll) (page : Nat) : Option Nat :=
  let groups := nearSet s c.att.pipeline
  let b := (page + 61 * coll) % (256 * groups.length)
  if groups.isEmpty then none else some (256 * groups.getD (b / 256) 0 + b % 256)

/-- The bank of a page, where it is in service and has a free cache frame. -/
def nearBank (s : State) (coll : Nat) (c : Coll) (page : Nat) : Option Nat :=
  (nearHome s coll c page).filter fun b => bankOk s b && bankUsed s b < (carveOf s).nearCache.getD (b / 256) 0

/-- The two shallow copies of a pinned page, on channels of different stacks (R170, R181). -/
def pinnedLocs (s : State) (coll : Nat) (c : Coll) (page : Nat) : List Loc :=
  let k := c.params.hbmSet
  match hbmChannel s k coll page 0 none with
  | none => []
  | some a => match hbmChannel s k coll page 1 (some (a / 32)) with
    | none => [.hbm a]
    | some b => [.hbm a, .hbm b]

/-- The tier the placed reservation assigns to a page (R174, R175): near-memory cache, then HBM, while the reservation
has room; `none` leaves it on flash. -/
def placeLoc (s : State) (coll : Nat) (c : Coll) (page : Nat) : Option Loc :=
  let nearUsed := c.pages.countP fun p => p.kind.isList && p.onNear
  let hbmUsed := c.pages.countP fun p => p.kind.isList && p.onHbm
  let near := if nearUsed < 16 * c.att.nearPlaced then nearBank s coll c page else none
  match near with
  | some b => some (.near b)
  | none => if hbmUsed < 16 * c.hbmPlacedNow then (hbmChannel s c.params.hbmSet coll page 0 none).map Loc.hbm else none

/-- Cached pages, the page with the oldest last-use bead first, among equal beads the lowest number (R175). -/
def cachedPages (c : Coll) : List Page :=
  sortBy (fun a b => a.lastUse < b.lastUse || (a.lastUse == b.lastUse && a.num ≤ b.num))
    (c.pages.filter fun p => !p.kind.isList && !p.kind.pinned && p.evictAt.isNone && !p.locs.isEmpty)

/-- Unpinned pages of a tier, list pages and cached ones: they share the placed reservation (R175). -/
def usedOf (hbm : Bool) (c : Coll) : Nat := c.pages.countP fun p => !p.kind.pinned && if hbm then p.onHbm else p.onNear

def placedOf (hbm : Bool) (c : Coll) : Nat := 16 * if hbm then c.hbmPlacedNow else c.att.nearPlaced

/-- Evict the oldest cached pages of a tier until its share holds the rest. -/
def trimCache (hbm : Bool) (c : Coll) : Coll :=
  let own := (cachedPages c).filter fun p => if hbm then p.onHbm else p.onNear
  let drop := (own.take (usedOf hbm c - placedOf hbm c)).map Page.num
  { c with pages := c.pages.map fun p => if drop.contains p.num then { p with locs := [] } else p }

/-! ## Pages of a segment -/

def Segment.entries (g : Segment) : List Entry := (g.lists.map Prod.snd).flatten
def Segment.count (g : Segment) : Nat := g.entries.length

def sketchPages (p : CollParams) (n : Nat) : Nat := pagesFor (n * p.sketchBytes)
def codePages (p : CollParams) (n : Nat) : Nat := pagesFor (n * p.codeBytes)

/-- First page of the heads of a segment. -/
def headPage (p : CollParams) (num : Nat) : Nat := p.regionBase .heads + num * p.headPages

/-- Pages of a segment: its heads, sketch lists and code lists. -/
def segPages (p : CollParams) (g : Segment) : List (Nat × PageKind) :=
  (List.range p.headPages).map (fun i => (headPage p g.num + i, PageKind.heads)) ++
  (List.range (sketchPages p g.count)).map (fun i => (g.sketchPage + i, PageKind.sketches)) ++
  (List.range (codePages p g.count)).map (fun i => (g.codePage + i, PageKind.codes))

/-! ## Mapping units (R199, R202) -/

/-- A block takes a program: it holds units, and a free one starts its read count (R202). -/
def useBlock (chan num : Nat) (bs : List Block) : List Block :=
  let same (b : Block) : Bool := b.chan == chan && b.num == num
  if bs.any same then bs.map fun b => if same b && !b.full then { b with full := true, reads := 0, collecting := false } else b
  else bs ++ [⟨chan, num, 0, 0, true, false, false⟩]

/-- A read of a unit counts for its block (R202). -/
def countBlockRead (s : State) (coll page : Nat) : State :=
  match s.flash.units.find? fun u => u.coll == coll && u.page == page with
  | some u => s.modFlash fun f => { f with
      blocks := f.blocks.map fun b => if b.chan = u.chan && b.num = u.block then { b with reads := b.reads + 1 } else b }
  | none => s

/-- A page of the stripe class (R201, R204). -/
def stripePage (s : State) (coll page : Nat) : Bool :=
  match getColl s coll with
  | some c => c.params.stripe && (match c.params.kindOf page with | some .directory | some .heads => true | _ => false)
  | none => false

/-- stripe_channel of R204. -/
def stripeChannel (coll page i : Nat) : Nat := (16 * page + 7 * coll + i) % 64

def stripeGroup (coll page : Nat) : List Nat := (List.range 16).map (stripeChannel coll page)

/-- A flash channel in BYPASS (R208). -/
def bypassed (s : State) (c : Nat) : Bool := (s.flash.chans.getD c FlashCh.reset).state == 3

/-- The channel a stripe-class page is written without (R205). -/
def thinOf (s : State) (coll page : Nat) : Option Nat :=
  if stripePage s coll page then (stripeGroup coll page).find? (bypassed s) else none

/-- The map entry of a unit switches to a new place (R199). -/
def putUnit (u : Unit64) (us : List Unit64) : List Unit64 :=
  let same (x : Unit64) : Bool := x.coll == u.coll && x.page == u.page
  if us.any same then us.map fun x => if same x then u else x else us ++ [u]

/-- A unit as a program leaves it. -/
def newUnit (s : State) (coll page chan block : Nat) : Unit64 :=
  ⟨coll, page, chan, block, false, false, false, thinOf s coll page, []⟩

/-- One journal record is written: the map entries of some units switch together (R199, R213). -/
def switchUnits (us : List Unit64) (f : Flash) : Flash :=
  { f with units := us.foldl (fun m u => putUnit u m) f.units
           journal := f.journal ++ [us.map fun u => (u.coll, u.page, u.chan, u.block)] }

/-- A unit is programmed at a place, and the journal record of its switch is written. -/
def programUnit (s : State) (coll page chan block : Nat) : State :=
  s.modFlash fun f => switchUnits [newUnit s coll page chan block] { f with blocks := useBlock chan block f.blocks }

/-- Program a unit at a place of the translation layer's own choice, on a channel in service: staged extents (R215) and
the flush (R216). -/
def placeFree (coll : Nat) (s : State) (page : Nat) : State :=
  let (n, s1) := drawNat s
  let live := (List.range 64).filter fun c => (s.flash.chans.getD c FlashCh.reset).state != 3
  programUnit s1 coll page (live.getD (n % max 1 live.length) 0) (n / 64)

/-- Range pages that some bytes touch. -/
def pagesOf (off len : Nat) : List Nat :=
  let a := off / pageSize
  (List.range ((off + len - 1) / pageSize + 1 - a)).map (· + a)

/-- Range pages a record touches. -/
def WriteRec.pages (r : WriteRec) : List Nat := pagesOf r.off r.len

/-- Whether the records leave no byte of a range unwritten: a sweep over their ranges by offset. -/
def covers (off len : Nat) (rs : List WriteRec) : Bool :=
  let sorted := sortBy (fun a b => a.off ≤ b.off) rs
  let top := sorted.foldl (fun t r => if r.off ≤ t then max t (r.off + r.len) else t) off
  decide (off + len ≤ top)

def coversPage (page : Nat) (rs : List WriteRec) : Bool := covers (page * pageSize) pageSize rs

/-- Records in the buffer that touch a mapping unit: reads of their bytes are served from it (R210). -/
def bufferedRecs (s : State) (coll page : Nat) : List WriteRec :=
  s.flash.wbuf.filter fun r => r.coll == coll && r.pages.contains page

/-- Records that wait for the program of a mapping unit. -/
def pendingRecs (s : State) (coll page : Nat) : List WriteRec :=
  s.flash.wbuf.filter fun r => r.coll == coll && r.pages.contains page && !r.drained.contains page

/-! ## Service order (R184, R203, R205) -/

/-- Stage order of the reads of a search; the rest of the work comes behind. DESIGN CHOICE, log entry 113. -/
def TaskKind.rank : TaskKind → Nat
  | .encode _ | .writeEncode _ _ => 0
  | .sketch => 1
  | .code => 2
  | .bridge => 3
  | .vector => 4
  | .row => 5
  | _ => 6

/-- What places a read in the queue of its channel: stripe-class reads first, then consuming bead, stage, admission of the
query and page number. -/
def readKey (s : State) (r : Stream) (t : Task) (x : Slot) : List Nat :=
  let page := x.off / pageSize
  [if stripePage s (r.coll.getD 0) page then 0 else 1, x.bead, t.kind.rank, t.qids.foldl min (t.qids.headD 0), page]

def keyBefore : List Nat → List Nat → Bool
  | a :: as, b :: bs => a < b || (a == b && keyBefore as bs)
  | _, _ => false

/-- Reads that wait in the controller of an HBM or flash channel, with their keys. -/
def queuedReads (s : State) (tier chan : Nat) : List (List Nat) :=
  (s.streams.streams.map fun r => match getTask s r.tid with
    | some t => (r.ring.filter fun x => x.st == .issued && !x.atDevice && x.tier == tier && x.chan == chan).map (readKey s r t)
    | none => []).flatten

/-- A read is served now: it is at its device, or none before it waits for the same channel. -/
def served (s : State) (r : Stream) (t : Task) (x : Slot) : Bool :=
  x.atDevice || !(queuedReads s x.tier x.chan).any fun k => keyBefore k (readKey s r t x)

/-- No query read waits for a flash channel, so other work may go on (R184, R203). -/
def channelFree (s : State) (chan : Nat) : Bool := (queuedReads s 2 chan).isEmpty

/-! ## Detach (R30) -/

/-- A detach or a delete is decided: from now on the collection's commands are refused; its work ends later. -/
def beginDetach (s : State) (id : Nat) (work : Option (CmdRef × Bool)) : State :=
  updColl s id fun c => { c with attached := false, work := work, detachBead := beadNow s }

/-- What a detach gives back: pinned and placed bytes, the side list's scratchpad, the scan budgets, and the recent-delete share once it is
empty; admission sees it from the next bead (R24, R185). -/
def releaseTiers (s : State) (c : Coll) : State :=
  s.modPools fun p => { p with
    relHbm := p.relHbm ++ [(c.params.hbmSet, c.pinnedMib + c.hbmPlacedNow, 0)]
    relNear := p.relNear ++ [(nearSet s c.att.pipeline, c.att.nearPlaced)]
    relScratch := p.relScratch ++ (sideDies s c.att.pipeline).map fun d => (d, c.params.sketchFrames, c.params.recordFrames)
    relScan := p.relScan ++ [c.att]
    relRd := p.relRd + (if c.recent.isEmpty then c.params.rdShare else 0) }

/-! ## Map-out (R191, R192) -/

/-- Drop the shallow copy of a page at a location, in bead `b`. -/
def Page.loseLoc (l : Loc) (hot : Bool) (b : Nat) (p : Page) : Page :=
  if !p.locs.contains l && p.incoming != some l then p
  else
    let q := { p with locs := p.locs.filter (· != l), incoming := if p.incoming == some l then none else p.incoming, lostAt := b }
    if p.kind.pinned then { q with copyLost := true }
    else { q with refilling := p.refilling || p.kind.isList, hotLost := hot && p.kind.isList }

/-- Drop every shallow copy on some channels; cached vectors and rows are not refilled. -/
def dropChans (s : State) (chs : List Nat) (hot : Bool) : State :=
  let b := beadNow s
  mapColls s fun _ c => { c with pages := chs.foldl (fun ps ch => ps.map (Page.loseLoc (.hbm ch) hot b)) c.pages }

/-- The walk of R181 over the scratch regions, past the channels of `out`. -/
def scratchWalk (out : List Nat) : Nat → Nat → Nat
  | 0, i => i % 256
  | n + 1, i => if out.contains (i % 256) then scratchWalk out n (i + 33) else i % 256

/-- Channel of a task's scratch page: its number takes the place of the collection's (R181). -/
def scratchChan (out : List Nat) (task page : Nat) : Nat := scratchWalk out 256 (page + 29 * task)

/-- Scratch pages a task owns: candidate and gather buffers of its queries, the learning reservation of its run. -/
def ownedPages (s : State) (t : Task) : Nat :=
  match t.kind with
  | .microBatch _ _ | .update _ | .promote => pagesFor s.pools.learn
  | _ => pagesFor (sumN (t.qids.filterMap fun id => (findQuery s id).map fun q => q.candBytes + q.gatherBytes))

/-- Of `n` scratch pages of a task, those on a channel: pages of equal number modulo 256 lie on one. -/
def scratchOn (t : Task) (n ch : Nat) : Nat :=
  sumN ((List.range (min n 256)).map fun p => if scratchChan t.out t.tid p = ch then (n - p + 255) / 256 else 0)

/-- Channels that give no scratch frame now: out, or with every frame of their scratch region taken (R181). A task's pages are
placed at its launch. DESIGN CHOICE, log entry 45. -/
def scratchFull (s : State) : List Nat :=
  let per := (carveOf s).hbmScratch
  let tasks := (s.streams.tasks.map fun t => (t, ownedPages s t)).filter fun x => x.2 != 0
  (List.range 256).filter fun ch => chanOut s ch || !tasks.isEmpty && decide (per ≤ sumN (tasks.map fun x => scratchOn x.1 x.2 ch))

/-- Tasks with adder requests queued on some channels, or whose scratch pages lie on them (R191). -/
def scratchTasks (s : State) (chs : List Nat) : List Nat :=
  let asked := (chs.map fun ch => (getChan s ch).queued.filterMap HbmWait.task).flatten
  (s.streams.tasks.filter fun t => !t.aborted &&
    (asked.contains t.tid || chs.any fun ch => scratchOn t (ownedPages s t) ch != 0)).map Task.tid

/-- Change every slot that satisfies `p`. -/
def mapSlots (s : State) (p : Stream → Slot → Bool) (f : Stream → Slot → Slot) : State :=
  s.modStreams fun x => { x with streams := x.streams.map fun r => { r with ring := r.ring.map fun y => if p r y then f r y else y } }

/-- Slots that satisfy `p`. -/
def slotsWith (s : State) (p : Slot → Bool) : List Slot := (s.streams.streams.map fun r => r.ring.filter p).flatten

/-- A slot whose access is discarded. -/
def Slot.lose (x : Slot) : Slot := if x.st == .issued then { x with st := .void, outstanding := false, data := .none } else { x with outstanding := false }

/-- Accesses queued and in flight to some HBM channels are discarded: their slots become VOID, the requests of VOID ones are
over, and the tasks that waited for them are cancelled (R191, R232 to R234). -/
def discardReads (s : State) (chs : List Nat) (hot : Bool) : State :=
  let on (x : Slot) : Bool := x.tier == 1 && chs.contains x.chan && (x.st == .issued || x.st == .void)
  let hit (r : Stream) : Bool := r.ring.any fun x => on x && x.st == .issued
  let ids := ((s.streams.streams.filter hit).map Stream.tid).eraseDups
  let xs := slotsWith s on
  let s1 := mapSlots s (fun _ x => on x) fun _ x => x.lose
  let s2 := bumpN (bumpN s1 voidSlotCnt (xs.countP Slot.voidCounts)) withdrawnCnt (xs.countP Slot.withdrawCounts)
  cancelTasks ((ids.filterMap (getTask s2)).foldl (readsLost hot) s2) fun t => ids.contains t.tid

/-- A withdrawn page: its copy goes at the next edge, or four beads after the announcement at that edge where this deepens
the resident tier (R171, R173). -/
def Page.withdraw (b : Nat) (deepens : Bool) (p : Page) : Page :=
  { p with incoming := none, evictAt := some (b + if deepens then 5 else 1) }

/-- Withdraw placed bytes of a collection down to `keep` MiB of HBM; the pages beyond stay on flash. -/
def withdrawColl (s : State) (id keep : Nat) : State :=
  match getColl s id with
  | none => s
  | some c =>
    let placed := (c.pages.filter fun p => p.kind.isList && p.onHbm).map Page.num
    let drop := (sortNat placed).reverse.take (placed.length - 16 * keep)
    let pages := c.pages.map fun p => if drop.contains p.num then p.withdraw (beadNow s) (residentTier c < 2) else p
    let s1 := setColl s id { c with hbmPlacedNow := keep, withdrawn := true, pages := pages }
    raiseEvent s1 0x0303 (leBytes 2 id ++ [0, 0] ++ leBytes 4 (c.hbmPlacedNow - keep))

/-- Withdraw placed bytes from the highest id down until a set's reservations fit; where the pinned bytes alone do not
fit, the module detaches the collection with the highest id (R192). -/
def withdrawSet (s : State) (k : Nat) : State :=
  let ids := ((s.colls.filter fun (_, c) => c.attached && c.params.hbmSet == k).map Prod.fst).reverse
  let s1 := ids.foldl (fun t id =>
    let excess := setReserved t k - setCapacity t k
    match getColl t id with
    | some c => if excess = 0 || c.hbmPlacedNow = 0 then t else withdrawColl t id (c.hbmPlacedNow - excess)
    | none => t) s
  ids.foldl (fun t id =>
    if setReserved t k ≤ setCapacity t k then t
    else
      let mibs := match getColl t id with | some c => c.pinnedMib | none => 0
      let t1 := match getColl t id with | some c => releaseTiers t c | none => t
      raiseEvent (beginDetach t1 id none) 0x0303 (leBytes 2 id ++ [1, 0] ++ leBytes 4 mibs)) s1

/-- Map channels out together: their accesses are discarded, their pages resolve elsewhere, a map copy there is lost, placed bytes may be withdrawn
(R189, R191, R192, R199). `fault`: by a fault or a failed retrain, which clears MBIST_PASS (R346). The sources are raised by the caller. -/
def mapOutCore (s : State) (chs : List Nat) (fault hot : Bool) : State :=
  let hit := scratchTasks s chs
  let s1 := chs.foldl (fun t ch => updChan t ch fun c =>
    { c with state := 2, queued := [], ret := false, mbistPass := c.mbistPass && !fault }) s
  let s2 := discardReads (hit.foldl abortTask s1) chs hot
  let s2 := s2.modFlash fun f => { f with
    mapLost := (f.mapLost ++ (List.range 2).filter fun i => chs.any fun ch => ch / 32 == f.mapAt.getD i 8).eraseDups }
  let s3 := s2.modHbm fun h => { h with scratch := chs.foldl (fun m ch => m.dropRange (ch * 2 ^ 31) ((ch + 1) * 2 ^ 31)) h.scratch }
  let sets := (0 :: chs.map fun ch => 1 + ch / 64).eraseDups
  sets.foldl withdrawSet (settleRings (dropChans s3 chs hot))

/-- Dies whose streams an abort of the tasks on some channels faults, each once (R229): the die of each aborted task's first
stream. -/
def faultDies (s : State) (chs : List Nat) : List Nat :=
  ((scratchTasks s chs).filterMap fun t => (s.streams.streams.find? fun r => r.tid == t).map Stream.die).eraseDups

/-- A channel returns to its sets at a bead edge (R353). -/
def chanReturn (s : State) (ch : Nat) : State := updChan s ch fun c => { c with state := 0, ret := false }

end Sys2Proof.Machine
end

