-- ==== Sys2Proof/Machine/Image.lean ====
section
/-! DEFINITION. Encoder images (R286): layout, shape checks of R143, and the format record of a pipeline (R322). -/

namespace Sys2Proof.Machine

def scaleOk (w : BitVec 16) : Bool := w != 0 && w.toNat < 0x7F80

/-- Bytes of one trunk layer from `i` to `o` dimensions. -/
def layerBytes (wf g i o : Nat) : Nat :=
  let n := ceilDiv i (groupLen g)
  ceilDiv (2 * n) 8 * 8 + ceilDiv (weightBytes wf (i * o)) 8 * 8 + ceilDiv (2 * o * n) 8 * 8 + ceilDiv (2 * o) 8 * 8

/-- Whether every scale of a trunk layer is positive and finite. -/
def layerScalesOk (wf g i o : Nat) (bs : List Byte) : Bool :=
  let n := ceilDiv i (groupLen g)
  let (a, r1) := takePad (2 * n) bs
  let (_, r2) := takePad (weightBytes wf (i * o)) r1
  let (w, _) := takePad (2 * o * n) r2
  (w16sOf a).all scaleOk && (w16sOf w).all scaleOk

def trunkOk (wf g : Nat) : List (Nat × Nat) → List Byte → Bool
  | [], _ => true
  | (i, o) :: r, bs => layerScalesOk wf g i o bs && trunkOk wf g r (bs.drop (layerBytes wf g i o))

/-- The header of an image. -/
structure ImageHead where
  dim : Nat
  layers : Nat
  wf : Nat
  g : Nat
  out : List Nat
  deriving DecidableEq, Repr

def imageHead (bs : List Byte) : ImageHead :=
  ⟨fieldB bs 0 2, fieldB bs 2 1, fieldB bs 3 1, fieldB bs 4 1, [fieldB bs 8 2, fieldB bs 10 2, fieldB bs 12 2]⟩

def ImageHead.used (h : ImageHead) : List Nat := h.out.take h.layers
def ImageHead.de (h : ImageHead) : Nat := (h.used.getLast?).getD h.dim

/-- The shape rules of R143 and R286. -/
def ImageHead.shapeOk (h : ImageHead) (m : Nat) : Bool :=
  h.layers ≤ 3 && h.wf ≤ 1 && h.g ≤ 2 && h.dim != 0 && h.used.all (fun o => 64 ≤ o && o ≤ 4096 && o % 64 == 0) &&
    h.de % m == 0 && 2 ≤ h.de / m && h.de / m ≤ 128

def headRestZero (bs : List Byte) (h : ImageHead) : Bool :=
  (sliceB bs 5 3 ++ sliceB bs 14 18).all (· == 0) && (h.out.drop h.layers).all (· == 0)

def trunkBytes (h : ImageHead) : Nat := ((layerDims h.dim h.used).map fun (i, o) => layerBytes h.wf h.g i o).foldl (· + ·) 0

/-- Bytes of the image. -/
def imageBytes (p : CollParams) (h : ImageHead) (sigs : Bool) : Nat :=
  let l := p.sketchBits
  let n := ceilDiv h.de (groupLen h.g)
  32 + trunkBytes h + ceilDiv (2 * n) 8 * 8 + ceilDiv (weightBytes h.wf (l * h.de)) 8 * 8 + ceilDiv (2 * l * n) 8 * 8
    + ceilDiv (2 * 256 * h.de) 8 * 8 + (if sigs then 2 ^ p.log2Buckets * l / 8 else 0)

/-- Parse an image; the status of the first failure, or the encoder and the bytes after it. `dim` is the input dimension
the collection has. -/
def parseImage (p : CollParams) (dim : Option Nat) (sigs : Bool) (bs : List Byte) : Except (BitVec 16) (Encoder × List Byte) :=
  let h := imageHead bs
  if bs.length < 32 then .error 0x0106
  else if !headRestZero bs h then .error 0x0102
  else match firstFail h with
  | some st => .error st
  | none =>
    if bs.length < imageBytes p h sigs then .error 0x0106
    else
      let n := ceilDiv h.de (groupLen h.g)
      let b0 := bs.drop 32
      let trunk := b0.take (trunkBytes h)
      let (a, b1) := takePad (2 * n) (b0.drop (trunkBytes h))
      let (w, b2) := takePad (weightBytes h.wf (p.sketchBits * h.de)) b1
      let (sc, b3) := takePad (2 * p.sketchBits * n) b2
      let (bk, b4) := takePad (2 * 256 * h.de) b3
      let (sg, b5) := if sigs then (b4.take (p.buckets * p.sketchBytes), b4.drop (p.buckets * p.sketchBytes)) else ([], b4)
      if !trunkOk h.wf h.g (layerDims h.dim h.used) trunk || !(w16sOf a).all scaleOk || !(w16sOf sc).all scaleOk then
        .error 0x0108
      else
        let sub := h.de / p.subcodes
        .ok ({ inputDim := h.dim, layers := h.layers, wformat := h.wf, group := h.g, out := h.used, trunk := trunk
               actScale := w16sOf a, weights := (chunks h.de (weightCodes h.wf w)).take p.sketchBits
               wScale := chunks n (w16sOf sc), books := chunks 256 (chunks sub (w16sOf bk))
               sigs := (chunks p.sketchBytes sg).map leNat, actOff := [], wOff := [] }, b5)
where
  firstFail (h : ImageHead) : Option (BitVec 16) :=
    match dim with
    | some d => if h.dim != d then some 0x010A else if h.shapeOk p.subcodes then none else some 0x0108
    | none => if h.shapeOk p.subcodes then none else some 0x0108

/-- The format record of a pipeline. -/
def formatOf (s : State) (pipeline : Nat) : Option FormatRec :=
  match s.loader.setting with
  | some t => t.formats.find? fun f => f.group == pipeline
  | none => none

/-- The checks of R322 on a collection's sizes. -/
def sizesAllowed (f : FormatRec) (p : CollParams) : Bool :=
  p.sketchBits ≤ 64 * f.maxSketch && p.subcodes ≤ 8 * f.maxSub && p.log2Buckets ≤ f.maxLog2

/-- The checks of R322 on an encoder image. -/
def encoderAllowed (f : FormatRec) (e : Encoder) : Bool := f.wformats.getLsbD e.wformat && e.group == f.gCode

/-- The collection's input dimension (R56). -/
def inputDim (c : Coll) : Nat :=
  if c.params.vecFormat != 0 then c.params.vecDims
  else match c.epochs with | e :: _ => e.enc.inputDim | [] => 0

end Sys2Proof.Machine
end

