-- ==== Sys2Proof/Machine/Drift.lean ====
section
/-! DEFINITION. Saturation counters and windows (R145, R150): every encode under a live epoch or a learning run adds its
clipped values, and its values encoded, at each group position of each layer's input activations. -/

namespace Sys2Proof.Machine

/-- What one encode adds at one group position. -/
structure PosCount where
  tensor : Nat
  pos : Nat
  clipped : Nat
  encoded : Nat
  nonZero : Bool
  absmax : Num
  deriving DecidableEq, Repr

/-- Tensor numbers of LEARN_SAT_SELECT: layer and kind (0 weights, 1 input activations, 2 weight gradients, 3 activation
gradients, 4 and 5 optimiser moments). -/
def tensorNo (layer kind : Nat) : Nat := layer * 16 + kind

/-- The tensors a count belongs to: a live epoch of a collection, or the collection's learning run. -/
structure CountOf where
  coll : Nat
  run : Bool
  epoch : Nat
  deriving DecidableEq, Repr

def Window.at_ (k : CountOf) (c : PosCount) (w : Window) : Bool :=
  w.coll == k.coll && w.run == k.run && w.epoch == k.epoch && w.tensor == c.tensor && w.pos == c.pos

def Window.add (c : PosCount) (w : Window) : Window :=
  { w with clipped := w.clipped + c.clipped, encoded := w.encoded + c.encoded, nonZero := w.nonZero || c.nonZero
           absmax := Num.toF32 (Num.maxN (Num.ofF32 w.absmax) c.absmax) }

def newWindow (k : CountOf) (c : PosCount) : Window :=
  ⟨k.coll, k.run, k.epoch, c.tensor, c.pos, 0, 0, false, 0, 0, 0⟩

/-- Add to the window of a position, opening it where there is none. -/
def addWindow (s : State) (k : CountOf) (c : PosCount) : State :=
  s.modLearn fun l =>
    if l.windows.any (Window.at_ k c) then
      { l with windows := l.windows.map fun w => if w.at_ k c then w.add c else w }
    else { l with windows := l.windows ++ [(newWindow k c).add c] }

/-- LEARN_SAT_CNT, the register that a saturated saturation counter is read through. -/
def satCntReg : Nat := 0x210038

/-- Add to the saturation counter of a position; one that saturates raises counter.sat (R150, R350). -/
def addSat (s : State) (k : CountOf) (c : PosCount) : State :=
  if c.clipped = 0 then s
  else
    let key := satKey k.coll k.run k.epoch c.tensor c.pos
    let (full, v) := countUp (s.counters.sat.getD key ⟨0, false⟩) c.clipped
    let s1 := { s with counters := { s.counters with sat := s.counters.sat.put key v } }
    if full then raiseEvent s1 0x0101 (leBytes 4 satCntReg) else s1

def countAt (k : CountOf) (s : State) (c : PosCount) : State := addSat (addWindow s k c) k c

/-- Clipped values of one activation group: by saturation, or any non-zero value while the group is degenerate. -/
def actClipped (off : Bool) (sc : BitVec 16) (xs : List Num) : Nat :=
  if off then xs.countP fun x => !x.isZero
  else xs.countP fun x => Num.clipsFmt .e4m3 (Num.fl (Num.div x (Num.ofBf16 sc)))

def absmaxOf (xs : List Num) : Num := xs.foldl (fun m x => Num.maxN m x.abs) .zero

/-- Counts of a layer's input activations. -/
def layerCounts (enc : Encoder) (layer : Nat) (act : List (BitVec 16)) (xs : List Num) : List PosCount :=
  (((chunks (groupLen enc.group) xs).zip act).zipIdx).map fun ((ys, sc), p) =>
    ⟨tensorNo layer 1, p, actClipped (actFlagged enc layer p) sc ys, ys.length, ys.any fun x => !x.isZero, absmaxOf ys⟩

/-- Count one encode of an embedding under an encoder: the inputs of every trunk layer and of the projection. -/
def countEncode (s : State) (k : CountOf) (enc : Encoder) (ord : List Nat) (xs : List Num) : State :=
  let (trunk, e) := runTrunk enc ord (trunkLayers enc) xs
  ((trunk.map fun (no, l, ys) => layerCounts enc no l.act ys).flatten ++ layerCounts enc projLayer enc.actScale e).foldl
    (countAt k) s

/-- Count one encode under a live epoch of a collection. -/
def countEpoch (s : State) (coll : Nat) (ep : Epoch) (ord : List Nat) (xs : List Num) : State :=
  countEncode s ⟨coll, false, ep.num⟩ ep.enc ord xs

/-- Counters and windows of tensors that exist no longer leave. -/
def dropCounts (s : State) (p : CountOf → Bool) : State :=
  let keyOf (k : Nat) : CountOf :=
    let a := k / 65536 / 256
    ⟨a / 65536 / 2, a / 65536 % 2 == 1, a % 65536⟩
  let s1 := s.modLearn fun l => { l with windows := l.windows.filter fun w => !p ⟨w.coll, w.run, w.epoch⟩ }
  { s1 with counters := { s1.counters with sat := s1.counters.sat.filter fun (k, _) => !p (keyOf k) } }

end Sys2Proof.Machine
end

