-- ==== Sys2Proof/Machine/Flags.lean ====
section
/-! DEFINITION. What a capsule header may hold for each opcode: flags, reserved fields, queue kind, and the commands
accepted before the setting (R10, R252, R266 to R268, R274 to R287). -/

namespace Sys2Proof.Machine

/-- FLAGS bits a command assigns (R268). -/
def flagsOf (op : BitVec 8) : BitVec 8 :=
  match op.toNat with
  | 0x01 => 0x1F
  | 0x02 => 0x17
  | 0x10 | 0x12 => 0x21
  | 0x20 | 0x88 | 0x89 => 0x40
  | _ => 0

/-- Parameter-area fields (byte, count) a command defines (R269 to R287). -/
def areaOf (op : BitVec 8) : List (Nat × Nat) :=
  match op.toNat with
  | 0x01 => [(24, 8), (36, 13)]
  | 0x02 => [(24, 25)]
  | 0x03 => [(24, 9)]
  | 0x10 | 0x12 => [(24, 14)]
  | 0x11 => [(24, 8)]
  | 0x20 | 0x88 => [(24, 18)]
  | 0x21 => [(24, 2)]
  | 0x30 => [(24, 7), (32, 28)]
  | 0x31 => [(24, 4)]
  | 0x32 => [(24, 8)]
  | 0x85 => [(24, 4)]
  | 0x86 => [(24, 2)]
  | 0x89 => [(24, 16)]
  | 0x8A | 0x8B => [(24, 1)]
  | 0x8D | 0x8E => [(24, 6)]
  | 0x8F => [(24, 4)]
  | _ => []

/-- Opcodes of the opcode table (R267). -/
def opAssigned (op : BitVec 8) : Bool :=
  [0x01, 0x02, 0x03, 0x10, 0x11, 0x12, 0x13, 0x20, 0x21, 0x30, 0x31, 0x32, 0x40, 0x80, 0x81, 0x82, 0x83, 0x84, 0x85,
   0x86, 0x88, 0x89, 0x8A, 0x8B, 0x8C, 0x8D, 0x8E, 0x8F].contains op

/-- Commands that name a collection; for the others the field is zero (R266, R267). -/
def namesColl (op : BitVec 8) : Bool :=
  [0x01, 0x02, 0x03, 0x10, 0x11, 0x12, 0x13, 0x20, 0x21, 0x30, 0x31, 0x32, 0x40, 0x81, 0x82, 0x83, 0x84, 0x8C].contains op

def isSearchOp (op : BitVec 8) : Bool := op == 0x01 || op == 0x02
def isReadOp (op : BitVec 8) : Bool := isSearchOp op || op == 0x03
def isAdminOp (op : BitVec 8) : Bool := 0x80 ≤ op.toNat

/-- Fields that must be zero for what else the capsule holds: filter ids beyond FILTER_CNT and the format of an embedding not
carried (R269), WANT[7:4] (R272), what the kind of codes or the mode leaves out (R275, R280), and the reserved bytes of the
create block, the attach record and the header of the image that follows (R283, R284, R286). -/
def fieldsZero (op : BitVec 8) (c : Capsule) : Bool :=
  let pre := c.flags.getLsbD 0
  let z (i n : Nat) : Bool := areaField c.area i n == 0
  let head (at_ : Nat) : Bool := (sliceB c.body (at_ + 5) 3 ++ sliceB c.body (at_ + 14) 18).all (· == 0)
  match op.toNat with
  | 0x01 | 0x02 =>
    ((List.range 4).all fun i => i < areaField c.area 44 1 || z (36 + 2 * i) 2) && (!pre || !z 30 2 || z 45 1)
  | 0x03 => areaField c.area 32 1 ≤ 15
  | 0x10 | 0x12 => if pre then z 34 1 else z 32 2
  | 0x30 => if z 24 1 then z 31 1 && z 56 4 else areaField c.area 24 1 != 1 || z 25 5 && z 31 25
  | 0x81 => (sliceB c.body 27 37).all (· == 0) && fieldB c.body 26 1 ≤ 3 && (sliceB c.body 92 4).all (· == 0) && head 96
  | 0x83 => (sliceB c.body 28 4).all (· == 0)
  | _ => true

/-- Reserved fields, flags and undefined parameter bytes are zero (R10, R266, R268). -/
def reservedOk (op : BitVec 8) (c : Capsule) : Bool :=
  c.rsv == 0 && c.rsvHi == 0 && (c.flags &&& ~~~(flagsOf op)) == 0 && (namesColl op || c.coll == 0) &&
    (isReadOp op || c.deadline == 0) && (isSearchOp op || c.k == 0) && areaOnly c.area (areaOf op) &&
    !(c.flags.getLsbD 5 && !c.flags.getLsbD 0) && fieldsZero op c

/-- Commands allowed before a setting is loaded (check 6 of R252). -/
def beforeSetting (op : BitVec 8) : Bool := [0x80, 0x89, 0x8A, 0x8B, 0x8D, 0x8E, 0x8F].contains op

/-- FLAGS bits by name (R268). -/
def preEncoded (f : BitVec 8) : Bool := f.getLsbD 0
def fastAdc (f : BitVec 8) : Bool := f.getLsbD 1
def wantPayload (f : BitVec 8) : Bool := f.getLsbD 2
def wantLog (f : BitVec 8) : Bool := f.getLsbD 3
def filterOr (f : BitVec 8) : Bool := f.getLsbD 4
def withVector (f : BitVec 8) : Bool := f.getLsbD 5
def isFinal (f : BitVec 8) : Bool := f.getLsbD 6

end Sys2Proof.Machine
end

