-- ==== Sys2Proof/Machine/Msa.lean ====
section
/-! DEFINITION. Memory-side adders (R182) on HBM scratch: one element, applied once and whole. -/

namespace Sys2Proof.Machine

/-- Address of a byte of a channel's scratch. -/
def scratchAddr (ch addr : Nat) : Nat := ch * 2 ^ 31 + addr % 2 ^ 31

def msaBytes : MsaFmt → Nat
  | .int32 | .fp32 => 4
  | .int64 => 8
  | .bf16 => 2

def toSigned (n v : Nat) : Int := if v < 2 ^ (n - 1) then v else (v : Int) - 2 ^ n

/-- Two's complement sum of n bits, and whether it wrapped. -/
def addWrap (n a b : Nat) : Nat × Bool :=
  let x := toSigned n (a % 2 ^ n) + toSigned n (b % 2 ^ n)
  ((a + b) % 2 ^ n, decide (x < -2 ^ (n - 1)) || decide (2 ^ (n - 1) ≤ x))

/-- The smaller or larger of destination and operand; a NaN gives NaN, and equal values keep the destination. -/
def pickNum (max : Bool) (d v : Num) (dBits vBits nan : Nat) : Nat :=
  if d.isNan || v.isNan then nan
  else if max then (if Num.lt d v then vBits else dBits)
  else (if Num.lt v d then vBits else dBits)

/-- One adder operation (0 ADD, 1 MIN, 2 MAX) on element bits; answers the new bits and whether an ADD wrapped. -/
def msaElem (op : Nat) (fmt : MsaFmt) (d v : Nat) : Nat × Bool :=
  match fmt with
  | .int32 | .int64 =>
    let n := 8 * msaBytes fmt
    let dv := d % 2 ^ n
    let vv := v % 2 ^ n
    if op = 0 then addWrap n dv vv
    else
      let lt := decide (toSigned n dv < toSigned n vv)
      let gt := decide (toSigned n vv < toSigned n dv)
      (if op = 1 then (if gt then vv else dv) else (if lt then vv else dv), false)
  | .fp32 =>
    let dn := Num.ofF32 (BitVec.ofNat 32 d)
    let vn := Num.ofF32 (BitVec.ofNat 32 v)
    if op = 0 then ((Num.toF32 (Num.add dn vn)).toNat, false)
    else (pickNum (op == 2) dn vn (d % 2 ^ 32) (v % 2 ^ 32) 0x7FC00000, false)
  | .bf16 =>
    let dn := Num.ofBf16 (BitVec.ofNat 16 d)
    let vn := Num.ofBf16 (BitVec.ofNat 16 v)
    if op = 0 then ((Num.toBf16 (Num.add dn vn)).toNat, false)
    else (pickNum (op == 2) dn vn (d % 2 ^ 16) (v % 2 ^ 16) 0x7FC0, false)

/-- Apply one adder request to a channel's scratch; a wrap counts in MSA_OVF_CNT of its stack (R182). -/
def msaApply (s : State) (ch : Nat) (r : MsaReq) : State :=
  let a := scratchAddr ch r.addr
  let n := msaBytes r.fmt
  let d := leNat (s.hbm.scratch.readBytes a n)
  let (x, wrap) := msaElem r.op r.fmt d r.v.toNat
  let s1 := s.modHbm fun h => { h with scratch := h.scratch.writeBytes a (leBytes n x) }
  if wrap then bump s1 (msaOvfCnt (ch / 32)) else s1

/-- A request queued by a retrain is carried out (R190). -/
def waitApply (s : State) (ch : Nat) : HbmWait → State
  | .msa r => msaApply s ch r
  | .write a bs _ => s.modHbm fun h => { h with scratch := h.scratch.writeBytes (scratchAddr ch a) bs }

end Sys2Proof.Machine
end

