-- ==== Sys2Proof/Machine/Conns.lean ====
section
/-! DEFINITION. Connections that fail, close or move (R243, R249, R250), the acknowledgement of what the module sent
(R248, R264), and the objects sent in parts (R278). -/

namespace Sys2Proof.Machine

/-- Take a connection off the waiting list of the events that satisfy `p`; an event every armed connection has
acknowledged leaves the log (R264). -/
def ackEvents (s : State) (conn : Nat) (p : EventRec → Bool) : State :=
  let f (e : EventRec) : EventRec := if p e then { e with waiting := e.waiting.filter (· != conn) } else e
  let log := (s.events.log.map f).filter fun e => !(e.delivered && e.waiting.isEmpty)
  { s with events := { s.events with log := log } }

def storeBytes (ks : List Kept) : Nat := (ks.map Kept.bytes).foldl (· + ·) 0

/-- Discard the open objects of a queue that satisfy `p`, and free their staging (R278). -/
def dropObjects (s : State) (p : OpenObj → Bool) : State :=
  let gone := s.queues.objects.filter p
  let bytes := (gone.map fun o => if o.op = 0x20 then 0 else o.bytes.length).foldl (· + ·) 0
  (s.modQueues fun u => { u with objects := u.objects.filter fun o => !p o }).modLoader
    fun l => { l with staging := l.staging - bytes }

/-- Queues bound to a connection. -/
def queuesOf (s : State) (conn : Nat) : List Nat :=
  (s.queues.queues.filter fun (_, q) => q.conn == some conn).map Prod.fst

/-- Orphan every queue of a connection; replies of its commands are discarded when they are formed (R249). -/
def orphan (s : State) (conn : Nat) : State :=
  let qs := queuesOf s conn
  let f (q : Queue) : Queue := if q.conn = some conn then { q with conn := none, orphaned := true } else q
  let g (c : Cmd) : Cmd := if c.ref.conn = conn then { c with ref := { c.ref with conn := 8192 } } else c
  let s1 := s.modQueues fun u => { u with queues := u.queues.mapVals f, cmds := u.cmds.map g }
  let s2 := if qs.contains 0 then s1.modHost fun h => { h with orphan0 := true } else s1
  let s3 := if s.host.next0 = some conn then s2.modHost fun h => { h with next0 := none } else s2
  dropObjects s3 fun o => qs.contains o.queue && o.final.isNone

/-- A connection fails: R249. Its id is free from the next edge. -/
def failConn (s : State) (id cause : Nat) : State :=
  match getConn s id with
  | none => s
  | some c =>
    if c.failed || c.closed then s
    else
      let s1 := setConn s id { c with failed := true, armed := 0, store := [] }
      let s2 := s1.modHost fun h => { h with storeUsed := h.storeUsed - storeBytes c.store }
      let s3 := ackEvents (orphan s2 id) id fun _ => true
      bump (raiseEvent s3 0x0602 (leBytes 2 id ++ [BitVec.ofNat 8 cause])) connFailCnt

/-- Resend what is kept of a reply or an event from its first datagram not acknowledged (R248). -/
def resendKept (id : Nat) (c : Conn) (s : State) (k : Kept) : State :=
  emit (sendSegs s id c c.admin k.first k.segs) (.resend id k.first)

/-- Resend everything kept of a connection. -/
def resendAll (s : State) (id : Nat) (c : Conn) : State := c.store.foldl (resendKept id c) s

/-- Move a connection to its alternate address on the other host port (R250). -/
def moveConn (s : State) (id : Nat) (a : BitVec 128) (u : Nat) : State :=
  match getConn s id with
  | none => s
  | some c =>
    let c1 := { c with port := 1 - c.port, addr := a, udp := u }
    bump (resendAll (setConn s id c1) id c1) failoverCnt

/-- Connections in use whose last datagram arrived on a port. -/
def connsOn (s : State) (p : Nat) : List (Nat × Conn) :=
  s.host.conns.filter fun (_, c) => c.port == p && !c.failed && !c.closed

/-- A host port is declared down: its connections move or fail (R250). The source is raised by the caller. -/
def portDownCore (s : State) (p : Nat) : State :=
  let hit := connsOn s p
  let moved := hit.countP fun (_, c) => c.alt.isSome
  let s1 := updPort s p fun r => { r with state := 0, pcs := false, rxMgmt := 0, rxData := 0 }
  let s2 := hit.foldl (fun t (id, c) => match c.alt with
    | some (a, u) => moveConn t id a u
    | none => failConn t id 3) s1
  if moved = 0 then s2 else raiseEvent s2 0x0601 ([BitVec.ofNat 8 p, 0, 0, 0] ++ leBytes 4 moved)

/-- A sequence number at or before another, modulo 2^32 (R244, R247). -/
def seqLe (a b : BitVec 32) : Bool := (b - a).toNat < 2 ^ 31

/-- Acknowledge everything a connection was sent up to a sequence number (R245, R248). -/
def ackUpTo (s : State) (id : Nat) (seq : BitVec 32) : State :=
  match getConn s id with
  | none => s
  | some c =>
    let doneK (k : Kept) : Bool := seqLe (k.first + BitVec.ofNat 32 (k.count - 1)) seq
    let gone := c.store.filter doneK
    let evs := gone.filterMap Kept.event
    -- a reply acknowledged in part is resent from its first datagram not acknowledged (R248)
    let cutK (k : Kept) : Kept :=
      if seqLe k.first seq then
        let n := (seq + 1 - k.first).toNat
        { k with first := seq + 1, count := k.count - n, segs := k.segs.drop n }
      else k
    let s1 := setConn s id { c with store := (c.store.filter fun k => !doneK k).map cutK }
    let s2 := s1.modHost fun h => { h with storeUsed := h.storeUsed - storeBytes gone }
    ackEvents s2 id fun e => evs.contains e.seq

end Sys2Proof.Machine
end

