-- ==== Sys2Proof/Machine/Links.lean ====
section
/-! DEFINITION. Pency links: flits, credits and the replay buffer (R293 to R295), the torus (R291, R292), routing
(R301, R302), notices (R303, R304) and what going DOWN does to a link (R296). -/

namespace Sys2Proof.Machine

def getLink (s : State) (l : Nat) : Link := s.fabric.links.getD l Link.reset
def updLink (s : State) (l : Nat) (f : Link → Link) : State := s.modFabric fun r => { r with links := updAt r.links l f }

/-- State codes of FABRIC_LINK_STATE. -/
def linkDisabled : Nat := 0
def linkTraining : Nat := 1
def linkIdent : Nat := 2
def linkActive : Nat := 3
def linkMismatch : Nat := 4
def linkIsDown : Nat := 5
def linkLoop : Nat := 6

def linkUp (s : State) (l : Nat) : Bool := (getLink s l).state == linkActive

/-- A RETRAIN is in progress: the link trains and is rediscovered (R12, R297). -/
def Link.retraining (k : Link) : Bool := k.retrain && (k.state == linkTraining || k.state == linkIdent)

/-! ## Flits and credits -/

/-- Index of a credit: class (0 to 2) and buffer (0 to 2). -/
def creditIx (cls buf : Nat) : Nat := 3 * cls + buf

def maxReplay : Nat := 512

/-- A flit may go: its buffer has a credit and the replay buffer has room (R294, R295). -/
def Link.canSend (k : Link) (cls buf : Nat) : Bool :=
  0 < k.credit.getD (creditIx cls buf) 0 && k.replay.length < maxReplay

/-- Send one flit now. -/
def sendFlit (s : State) (l : Nat) (f : Flit) : State :=
  let k := getLink s l
  let g := { f with seq := k.txSeq }
  let k1 : Link :=
    { k with txSeq := k.txSeq + 1, replay := k.replay ++ [g], credit := updAt k.credit (creditIx f.cls f.buf) (· - 1)
             turn := if f.cls = 0 then k.turn else f.cls }
  emit (updLink s l fun _ => k1) (.flit l k.txSeq f.cls f.buf)

/-- Offer one flit: sent when it may go and nothing of its class waits, else queued. -/
def offerFlit (l : Nat) (s : State) (f : Flit) : State :=
  let k := getLink s l
  if k.canSend f.cls f.buf && !(k.waitq.any fun x => x.cls == f.cls) then sendFlit s l f
  else updLink s l fun k => { k with waitq := k.waitq ++ [f] }

/-- The waiting flit that goes next: of MGMT, else of the class whose turn it is, else the first that may go (R294). -/
def nextFlit (k : Link) : Option Flit :=
  let ok := k.waitq.filter fun f => k.canSend f.cls f.buf
  match ok.find? fun f => f.cls == 0 with
  | some f => some f
  | none => match ok.find? fun f => f.cls != k.turn with
    | some f => some f
    | none => ok.head?

/-- Send waiting flits that may go (R294). -/
def drainWaitN (l : Nat) : Nat → State → State
  | 0, s => s
  | n + 1, s =>
    match nextFlit (getLink s l) with
    | none => s
    | some f => drainWaitN l n (sendFlit (updLink s l fun k => { k with waitq := k.waitq.erase f }) l f)

def drainWait (l : Nat) (s : State) : State := drainWaitN l (getLink s l).waitq.length s

/-- The flits of a message of some bytes: 240 bytes each (R293). -/
def flitsOf (cls buf bytes : Nat) : List Flit :=
  let n := max 1 (ceilDiv bytes 240)
  (List.range n).map fun i => ⟨0, cls, buf, i == 0, i + 1 == n⟩

def MsgBody.cls : MsgBody → Nat
  | .fault _ | .repair _ | .mgmt _ => 0
  | .query _ _ | .bundleEnd | .bundleAck | .bundleDrop => 1
  | .list _ | .gatherReq _ | .gatherRows _ => 2

/-- Bytes of a message, header included (R300, R311). -/
def MsgBody.bytes : MsgBody → Nat
  | .fault _ | .repair _ => 48
  | .mgmt b => 32 + b.length
  | .query _ c => 96 + c.body.length
  | .bundleEnd | .bundleAck | .bundleDrop => 32
  | .list b =>
    64 + 32 * b.entries.length + 8 * b.missed.length + 4 * b.members.length
      + (b.shards.map fun r => 16 + 8 * r.missed.length).foldl (· + ·) 0
  | .gatherReq sl => 32 + 8 * sl.length
  | .gatherRows rs => 32 + (rs.map fun (_, r) => 16 + r.length).foldl (· + ·) 0

/-- Send a message on a link, in a buffer. -/
def sendOn (s : State) (l buf : Nat) (h : MsgHdr) (b : MsgBody) : State :=
  (flitsOf b.cls buf b.bytes).foldl (offerFlit l) (emit s (.msg l h b))

/-! ## The torus -/

/-- Coordinate d of an address (R292). -/
def coord (a d : Nat) : Nat := a / 16 ^ d % 16
def lenOf (s : State) (d : Nat) : Nat := s.fabric.len.getD d 1
def setCoord (a d v : Nat) : Nat := a - coord a d * 16 ^ d + v * 16 ^ d

/-- One step in a dimension, plus or minus, modulo its length. -/
def stepDim (s : State) (a d : Nat) (plus : Bool) : Nat :=
  let n := lenOf s d
  setCoord a d ((coord a d + (if plus then 1 else n - 1)) % n)

def expressOf (s : State) (i : Nat) : Option (BitVec 20) :=
  match s.loader.setting with
  | some t => t.fabric.express.getD i none
  | none => none

/-- The far end that the links table gives for a link of this module. -/
def farEnd (s : State) (l : Nat) : Option Nat :=
  if l < 10 then (if lenOf s (l / 2) = 1 then none else some (stepDim s s.fabric.addr.toNat (l / 2) (l % 2 == 0)))
  else (expressOf s (l - 10)).map BitVec.toNat

/-- A link that is not disabled (R291). -/
def linkEnabled (s : State) (l : Nat) : Bool := (farEnd s l).isSome

def dirPlus (s : State) (h t d rev : Nat) : Bool :=
  let n := lenOf s d
  let delta := (coord t d + n - coord h d) % n
  xor (decide (delta ≤ n / 2)) (rev == d)

/-- The lowest dimension in which two addresses differ. -/
def firstDim (h t : Nat) : Option Nat := (List.range 5).find? fun d => coord h d != coord t d

/-- dim_order_link of R301. -/
def dimOrderLink (s : State) (h t rev : Nat) : Option Nat :=
  (firstDim h t).map fun d => 2 * d + (if dirPlus s h t d rev then 0 else 1)

/-- The number of a torus link at its far end (R298). -/
def revLink (l : Nat) : Nat := if l % 2 = 0 then l + 1 else l - 1

/-- Whether the applied fault set names a torus link leaving a module, by either of its ends, or the module at its far
end. -/
def faulty (s : State) (h l far : Nat) : Bool :=
  s.fabric.faults.any fun e => match e with
    | .link a k => (a.toNat == h && k == l) || (a.toNat == far && k == revLink l)
    | .module a => a.toNat == far

/-- Whether the dimension-ordered path passes the applied fault set (R301). -/
def blockedN (s : State) (rev : Nat) : Nat → Nat → Nat → Bool
  | 0, _, _ => false
  | n + 1, h, t =>
    match firstDim h t with
    | none => false
    | some d =>
      let plus := dirPlus s h t d rev
      let far := stepDim s h d plus
      faulty s h (2 * d + if plus then 0 else 1) far || blockedN s (if firstDim far t = some d then rev else 7) n far t

def blocked (s : State) (h t rev : Nat) : Bool := blockedN s rev 80 h t

/-- The torus distance between two addresses. -/
def torusDist (s : State) (a b : Nat) : Nat :=
  ((List.range 5).map fun d =>
    let n := lenOf s d
    let x := (coord b d + n - coord a d) % n
    min x (n - x)).foldl (· + ·) 0

/-- The first link of the dimension-ordered path carries traffic. A module routes around its own link that is down before a
notice of it is applied (R304): such a candidate is passed over. -/
def firstUp (s : State) (here t rev : Nat) : Bool :=
  match dimOrderLink s here t rev with
  | some l => linkUp s l
  | none => true

/-- choose_waypoint of R302: the header with its waypoint set, or none. -/
def chooseWaypoint (s : State) (here t : Nat) (m : MsgHdr) : Option MsgHdr :=
  let m1 := { m with wpOn := true, waypoints := m.waypoints + 1 }
  match firstDim here t with
  | none => none
  | some d =>
    if !blocked s here t d && firstUp s here t d then some { m1 with revDim := BitVec.ofNat 3 d, waypoint := BitVec.ofNat 20 t }
    else
      let rev := m.revDim.toNat
      let steps := ((List.range 5).filter fun e => 1 < lenOf s e).map fun e => [(e, stepDim s here e true), (e, stepDim s here e false)]
      let notFailed (w : Nat) : Bool := !s.fabric.faults.contains (.module (BitVec.ofNat 20 w))
      let passes (x : Nat × Nat) : Bool :=
        !blocked s here x.2 rev && firstUp s here x.2 rev && !blocked s x.2 t (if x.1 = rev then rev else 7) && notFailed x.2
      match steps.flatten.find? passes with
      | some x => some { m1 with waypoint := BitVec.ofNat 20 x.2 }
      | none =>
        let ex := [10, 11].filterMap fun l => if linkUp s l then (expressOf s (l - 10)).map BitVec.toNat else none
        (ex.find? fun w => !blocked s w t 7).map fun w => { m1 with waypoint := BitVec.ofNat 20 w }

/-- The minimal links towards t, lowest first (R301). -/
def minimalLinks (s : State) (here t : Nat) : List Nat :=
  (List.range 12).filter fun l => linkUp s l &&
    match farEnd s l with
    | some f => if l < 10 then torusDist s f t + 1 == torusDist s here t else torusDist s f t < torusDist s here t
    | none => false

/-- The escape buffer on a dimension-ordered hop: buffer 2 from the hop that crosses the dateline of the dimension to
the end of that dimension (R301). `src` is where the message started. -/
def escapeBuf (s : State) (src here d : Nat) (plus : Bool) : Nat :=
  let c := coord here d
  let a := coord src d
  if plus then (if c + 1 == lenOf s d || c < a then 2 else 1)
  else (if c == 0 || a < c then 2 else 1)

def adaptiveOk (s : State) (l cls : Nat) : Bool := 0 < (getLink s l).credit.getD (creditIx cls 0) 0

/-- Send a message from here towards t once waypoints are settled (the second half of next_hop, R301). -/
def forwardTo (s : State) (here t : Nat) (m0 : MsgHdr) (b : MsgBody) : State :=
  match firstDim here t with
  | none => s
  | some d =>
    let m := if m0.revDim.toNat = d then m0 else { m0 with revDim := 7 }
    let src := m.src.toNat % 2 ^ 20
    let plus := dirPlus s here t d m.revDim.toNat
    let l := 2 * d + (if plus then 0 else 1)
    let near := (expressOf s 0).map BitVec.toNat == some t && linkUp s 10
    let far := (expressOf s 1).map BitVec.toNat == some t && linkUp s 11
    if m.wpOn && near then sendOn s 10 0 { m with revDim := 7 } b
    else if m.wpOn && far then sendOn s 11 0 { m with revDim := 7 } b
    else if adaptiveOk s l b.cls then sendOn s l 0 m b
    else match (minimalLinks s here t).find? fun k => adaptiveOk s k b.cls with
      | some k =>
        if m.detours.toNat < 2 then
          sendOn s k 0 { m with detours := m.detours + 1, revDim := if k / 2 = m.revDim.toNat then m.revDim else 7 } b
        else sendOn s l (escapeBuf s src here d plus) m b
      | none => sendOn s l (escapeBuf s src here d plus) m b

/-- next_hop of R301 for a message that this module sends on: a waypoint reached is dropped, a blocked or down path
takes one of at most two waypoints, and otherwise the message is dropped and counted. -/
def nextHop (s : State) (m0 : MsgHdr) (b : MsgBody) : State :=
  let here := s.fabric.addr.toNat
  let m := if m0.wpOn && m0.waypoint.toNat == here then { m0 with wpOn := false } else m0
  let dest := m.dest.toNat % 2 ^ 20
  let t := if m.wpOn then m.waypoint.toNat else dest
  let rev := m.revDim.toNat
  let down := match dimOrderLink s here t rev with
    | some l => !linkUp s l
    | none => false
  if blocked s here t rev || down then
    match (if m.waypoints.toNat = 2 then none else chooseWaypoint s here t m) with
    | none => bump s routeDropCnt
    | some m1 => forwardTo (bump s detourCnt) here m1.waypoint.toNat m1 b
  else forwardTo s here t m b

/-- A header of a message of this module: endpoint `ep` of `dest`. -/
def mkHdr (s : State) (dest ep srcEp bead : Nat) : MsgHdr :=
  { dest := BitVec.ofNat 24 (ep * 2 ^ 20 + dest), src := BitVec.ofNat 24 (srcEp * 2 ^ 20 + s.fabric.addr.toNat),
    detours := 0, waypoints := 0, wpOn := false, revDim := 7, waypoint := 0, bead := bead, bundle := 0, qroot := 0, qserial := 0,
    tree := 0 }

/-! ## Notices -/

def noticeBody (repair : Bool) (n : Notice) : MsgBody := if repair then .repair n else .fault n

/-- Send a notice on every ACTIVE link but the one it came on (R303). -/
def flood (s : State) (n : Notice) (repair : Bool) (from_ : Option Nat) : State :=
  let links := (List.range 12).filter fun l => linkUp s l && some l != from_
  let h := { mkHdr s 0 15 0 (beadNow s) with src := BitVec.ofNat 24 n.origin.toNat }
  links.foldl (fun t l => sendOn t l 0 h (noticeBody repair n)) s

/-- Originate a notice: flooded, and held for its effective bead here as well (R303, R304). -/
def originate (s : State) (e : Elem) (repair : Bool) : State :=
  let n : Notice := ⟨s.fabric.addr, s.fabric.noticeNum, e, beadNow s + 2⟩
  let s1 := s.modFabric fun r => { r with noticeNum := r.noticeNum + 1, notices := r.notices ++ [⟨n, repair⟩] }
  let s2 := s1.modFabric fun r => { r with seen := r.seen ++ [(n.origin, n.num, repair)] }
  flood s2 n repair none

/-! ## Links going down -/

/-- A link as it stands without traffic, its credits whole again. -/
def Link.quiet (k : Link) (st cause : Nat) : Link :=
  { Link.reset with state := st, cause := cause, farAddr := k.farAddr, farLink := k.farLink
                    out := st != linkDisabled && (k.out || st == linkIsDown) }

/-- Whether every link to a neighbour is down. -/
def neighbourLost (s : State) (far : Nat) : Bool :=
  (List.range 12).all fun l => farEnd s l != some far || (getLink s l).state == linkIsDown

/-- The applied fault set names an element, or a fault notice that waits for its bead does. -/
def knownFault (s : State) (e : Elem) : Bool :=
  s.fabric.faults.contains e || s.fabric.notices.any fun h => h.n.elem == e && !h.repair

/-- Flood a fault notice, unless the element is known as failed already. -/
def reportFault (s : State) (e : Elem) : State := if knownFault s e then s else originate s e false

/-- A link goes DOWN: its replay buffer is lost and a notice is flooded, and another for a neighbour that no link reaches
any more (R296, R303). The source is raised by the caller. -/
def linkDownCore (s : State) (l : Nat) : State :=
  let s1 := updLink s l fun k => k.quiet linkIsDown 0
  let s2 := reportFault s1 (.link s.fabric.addr l)
  match farEnd s l with
  | some far => if neighbourLost s1 far then reportFault s2 (.module (BitVec.ofNat 20 far)) else s2
  | none => s2

end Sys2Proof.Machine
end

