-- ==== Sys2Proof/Machine/Faults.lean ====
section
/-! DEFINITION. Fault collectors (R339 to R349, R408): latch, capture, propagation, reactions, fences and ERR_N. -/

namespace Sys2Proof.Machine

/-! ## Reactions (the tables of chapter 15, R343) -/

def actInterrupt : Nat := 1
def actNmi : Nat := 2
def actFence : Nat := 4
def actBlockReset : Nat := 8
def actModuleReset : Nat := 16
def actErrN : Nat := 32

/-- Level of a collector: 0 facet, 1 die, 2 module. -/
def levelOf (col : Nat) : Nat := if col < 68 then 0 else if col < 72 then 1 else 2

/-- Sources a collector has (its table); the others are reserved. -/
def sourceCount (col : Nat) : Nat := match levelOf col with | 0 => 11 | 1 => 26 | _ => 29

/-- Summary sources: facets at a die, dies at the module (R339). -/
def isSummary (col src : Nat) : Bool := match levelOf col with | 0 => false | 1 => src < 17 | _ => src < 4

/-- Default ACTIONS of a source. -/
def defaultActions (level src : Nat) : Nat :=
  match level with
  | 0 => if src = 0 || src = 10 || 10 < src then 0 else if src = 6 then 1 else 5
  | 1 => match src with
    | 17 | 19 | 22 | 24 => 1
    | 20 => 5
    | 21 | 23 => 9
    | _ => 0
  | _ => match src with
    | 5 | 6 | 8 | 9 | 11 | 12 | 13 | 14 | 15 | 20 | 25 | 27 => 1
    | 7 | 10 => 33
    | 16 | 17 | 18 | 19 | 26 => 9
    | 21 | 22 | 23 | 24 => 48
    | _ => 0

/-- The core of a default interrupt: core A for the sources of core B, core B otherwise. Core B for the rest is
DEDUCED, log entry 12. -/
def defaultCoreA (level src : Nat) : Bool := level == 2 && (src == 17 || src == 19)

def getCol (s : State) (c : Nat) : Collector := s.collectors.getD c (Collector.reset false)
def updCol (s : State) (c : Nat) (f : Collector → Collector) : State := { s with collectors := updAt s.collectors c f }

def colIndex (col : Nat) : Nat := if col < 68 then col else if col < 72 then col - 68 else 0

def reactionsIn (s : State) : List Reaction := match s.loader.setting with | some t => t.reactions | none => []

/-- Actions and core in force for a source of a collector (R343, R348). -/
def actionsOf (s : State) (col src : Nat) : Nat × Bool :=
  let lv := levelOf col
  let dflt := (defaultActions lv src, defaultCoreA lv src)
  if (getCol s col).defaultsOnly then dflt
  else
    let rs := (reactionsIn s).filter fun r => r.level == lv && r.source == src
    match rs.find? fun r => r.index == colIndex col with
    | some r => (r.actions.toNat, r.coreA)
    | none => match rs.find? fun r => r.index == 127 with
      | some r => (r.actions.toNat, r.coreA)
      | none => dflt

def hasAct (a bit : Nat) : Bool := a / bit % 2 == 1

/-- A setting is loaded: reactions follow the table again (R348). -/
def freshReactions (s : State) : State :=
  { s with collectors := s.collectors.map fun c => { c with defaultsOnly := false } }

/-- Sources set in a collector. -/
def setSources (c : Collector) : List Nat := (List.range 64).filter fun i => c.status.getLsbD i

/-- ERR_N is asserted: by a set source with ERR_N among its reactions (R349), from PWR_EN to step 2 (R397), through a
module reset (R344), by the hardware trip (R366) or by a failed fuse check (R337). -/
def errN (s : State) : Bool :=
  s.power.errTrip || s.power.errBoot || s.power.errReset ||
    (List.range 73).any fun c => (setSources (getCol s c)).any fun i => hasAct (actionsOf s c i).1 actErrN

/-- THERM_N is asserted while any level that asserts it is in force (R366). -/
def thermN (s : State) : Bool := !s.power.thermHold.isEmpty

/-! ## Pins (R408) -/

/-- Applied faults a module holds at most (R304). -/
def maxFaults : Nat := 256

/-- An offset above which TIME_SKEW is raised, in ns (R103). -/
def skewLimit : Nat := 500

/-- The condition of a condition source (R408). -/
def condNow (s : State) (col src : Nat) : Bool :=
  match levelOf col, src with
  | 0, 8 => (getFacet s col).hot
  | 1, 24 => s.power.thermHold.contains (.die (col - 68))
  | 2, 10 => s.power.holdupLow
  | 2, 12 => (List.range 12).any fun l => (getLink s l).state == linkMismatch
  | 2, 13 => decide (maxFaults ≤ s.fabric.faults.length)
  | 2, 14 => decide (skewLimit < s.time.nbrNow) || decide (skewLimit < s.time.nbrMax)
  | _, _ => false

/-- Whether the source holds its pin: while its unit is out, or while its condition lasts, which a raise by the force
register alone does not bring about (R341, R408). -/
def holdsPin (s : State) (col src : Nat) : Bool :=
  let a := (actionsOf s col src).1
  hasAct a actFence || hasAct a actBlockReset || condNow s col src ||
    match levelOf col with
    | 0 => src == 10
    | 2 => [6, 7, 9, 11, 15].contains src
    | _ => false

def bit64 (n : Nat) : BitVec 64 := BitVec.ofNat 64 (2 ^ n)

/-- Pins fall. -/
def dropPins (s : State) (col : Nat) (mask : BitVec 64) : State :=
  updCol s col fun c => { c with pins := c.pins &&& ~~~mask }

/-- Pins that software sees as still held: a summary follows the status word below it (R339). -/
def pinsNow (s : State) (col : Nat) : BitVec 64 :=
  let c := getCol s col
  let below (i : Nat) : Bool :=
    if levelOf col = 1 then (getCol s (17 * (col - 68) + i)).status != 0 else (getCol s (68 + i)).status != 0
  (List.range 64).foldl (fun m i =>
    if isSummary col i && below i then m ||| bit64 i else m) c.pins

/-! ## Fences (R22, R345) -/

/-- Tasks of encoding, learning, merging and promotion that run on a logical facet. -/
def facetTasks (s : State) (l : Nat) : List Task :=
  let on (t : Task) : Bool := s.streams.streams.any fun r => r.tid == t.tid && r.facet == l && decide (r.consumer ≤ 1 || r.consumer = 5)
  s.streams.tasks.filter fun t => on t && !t.aborted && !t.cancelled && match t.kind with
    | .encode _ | .writeEncode _ _ | .merge | .microBatch _ _ | .update _ | .promote => true
    | _ => false

/-- Work of a facet is lost: its part of every list goes, the segments it took blocks of are missed with cause FENCED_FACET
(R22, R118), and the tasks that run on it stop; their work has the outcome of an abort (log entry 101). -/
def facetLost (s : State) (f : Nat) : State :=
  let l := logicalOf s f
  let b := beadNow s
  if l = 0xFF then s
  else
    let s1 := mapQueries s fun q =>
      let mine := q.parts.filter fun p => p.facet == f
      let reps := (q.reps.filter fun r => r.facet == f).map Repeat.seg
      let segs := reps ++ (mine.map Part.served).flatten
      if q.merged || (mine.isEmpty && reps.isEmpty) then q
      else
        let q1 := q.missIf b 2 fun g => segs.contains g.seg
        { q1 with parts := q1.parts.filter fun p => p.facet != f, reps := q1.reps.filter fun r => r.facet != f }
    let ts := facetTasks s1 l
    cancelTasks (ts.foldl (ownerAborted 2) s1) fun t => ts.any fun x => x.tid == t.tid

/-- Fence a physical facet for a reason of SETTING_MAP: 1 fault, 2 SHED, 3 service, 4 safe state, 5 partial setting,
6 BIST at load. A fault, the safe state and a failed test clear BIST_PASS (R346) and may start a substitution; a spare
that fails leaves its logical facet unassigned (R335). -/
def fenceFacet (s : State) (f reason : Nat) : State :=
  let isFault (r : Nat) : Bool := r == 1 || r == 4 || r == 6
  let fault := isFault reason
  let was := (getFacet s f).fenced
  let known := was && isFault (getFacet s f).reason
  let l := logicalOf s f
  let s1 := if was then s else facetLost s f
  let s2 := updFacet s1 f fun x =>
    { x with fenced := true, release := false, reason := if was && !fault then x.reason else reason,
             bistPass := x.bistPass && !fault }
  if !fault || known || l = 0xFF then s2
  else if f % 17 = 16 then s2.modLoader fun r => { r with map := updAt r.map l fun _ => 0xFF }
  else s2.modLoader fun r => { r with pending := r.pending ++ [(l, f)] }

/-- A page whose copy lies in a fenced bank resolves to HBM or flash at the next edge; a copy on its way there is dropped
(R171, R345). -/
def Page.leaveBank (b now : Nat) (p : Page) : Page :=
  if p.locs.contains (.near b) then { p with incoming := none, evictAt := some (now + 1) }
  else if p.incoming == some (.near b) then { p with incoming := none } else p

def getBank (s : State) (b : Nat) : Bank := s.near.banks.getD b Bank.reset
def setBank (s : State) (b : Nat) (v : Bank) : State := s.modNear fun n => { n with banks := n.banks.put b v }

/-- Pages of a side list that a bank holds, with the copy. -/
def sidePagesIn (s : State) (c : Coll) (b : Nat) : List (Nat × Nat) :=
  let base := c.params.regionBase .sideLog
  let all := (List.range (c.params.regionPages .sideLog)).map (base + ·)
  ([0, 1].map fun copy => if b / 256 = sideGroup s c.att.pipeline copy then (all.filter fun n => sideBank s c copy n = b).map fun n => (copy, n) else []).flatten

/-- Fence a bank and its scanner: its copies are dropped, mirrored data is served from its mirror, and reads under way to it
are void (R234, R345). -/
def fenceBank (s : State) (b : Nat) : State :=
  let now := beadNow s
  let s1 := setBank s b { getBank s b with state := 1, mbistPass := false, ret := false }
  let s2 := mapColls s1 fun _ c => { c with
    pages := c.pages.map (Page.leaveBank b now)
    sideLost := if c.attached then (c.sideLost ++ sidePagesIn s c b).eraseDups else c.sideLost }
  let mirror (r : Stream) (x : Slot) : Option Nat :=
    if x.chan = b then none else (r.coll.bind (getColl s2)).bind fun c => sideServer s2 c (x.off / pageSize)
  let on (x : Slot) : Bool := x.tier == 0 && (x.chan == b || x.chan == sideMark + b) && x.st == .issued
  let lost := sumN (s2.streams.streams.map fun r => r.ring.countP fun x => on x && (mirror r x).isNone)
  settleRings (bumpN (mapSlots s2 (fun _ x => on x) fun r x => match mirror r x with
    | some m => { x with chan := sideMark + m }
    | none => x.lose) voidSlotCnt lost)

/-- Fence the facets of a die for a block reset of its clasp or controller (R346). -/
def fenceDie (s : State) (d : Nat) : State :=
  (List.range 17).foldl (fun t i =>
    let f := 17 * d + i
    if (getFacet t f).fenced then t else updFacet (fenceFacet t f 1) f fun x => { x with byDie := true }) s

def getFlashCh (s : State) (c : Nat) : FlashCh := s.flash.chans.getD c FlashCh.reset
def updFlashCh (s : State) (c : Nat) (f : FlashCh → FlashCh) : State := s.modFlash fun r => { r with chans := updAt r.chans c f }

/-- BYPASS a flash channel: its own reads end; units on it are read by rebuild (R208). -/
def bypassCore (s : State) (c : Nat) : State := updFlashCh s c fun x => { x with state := 3, ret := false }

def coreOut (s : State) (isA : Bool) : State :=
  s.modCores fun c => if isA then { c with aIn := false, aReady := false } else { c with bIn := false, bReady := false }

/-- What FENCE takes out (R345); `raise` raises a source of the module collector or a die collector. -/
def fenceUnit (raise : State → Nat → Nat → State) (s : State) : UnitName → State
  | .facet f => fenceFacet s f 1
  | .scanner b => if (getBank s b).state = 0 then fenceBank s b else s
  | .dieClasp d | .dieCtrl d => fenceDie s d
  | .moduleClasp => s.modSearch fun r => { r with claspOut := true, claspRet := false }
  | .core a => coreOut s a
  | .flash c => bypassCore s c
  | .prong c => updFlashCh s c fun x => { x with prongFenced := true }
  | .hbm ch =>
    if chanOut s ch then s
    else
      let dies := faultDies s [ch]
      let s1 := raise (mapOutCore s [ch] true false) 72 6
      dies.foldl (fun t d => if d = 4 then raise t 72 25 else raise t (68 + d) 17) s1
  | .link l => if (getLink s l).state = linkIsDown then s else raise (linkDownCore s l) 72 11
  | .port p => if (getPort s p).pcs then raise (portDownCore s p) 72 15 else s
  | .nothing => s

/-- The unit that raised a source: fixed by the source where the table names it, and the operand's otherwise. -/
def unitOf (col src : Nat) (u : UnitName) : UnitName :=
  if col < 68 then .facet col
  else if col < 72 then
    match src with
    | 21 => .dieClasp (col - 68)
    | 23 => .dieCtrl (col - 68)
    | _ => u
  else match src with
    | 16 | 18 => .core true
    | 17 | 19 => .core false
    | 26 => .moduleClasp
    | _ => u

/-- Deliver an interrupt or NMI; one for a core that is out goes to the other (R344). -/
def interrupt (s : State) (toA : Bool) (col src : Nat) (nmi : Bool) : State :=
  let a := if toA then s.cores.aIn else !s.cores.bIn
  s.modCores fun c => { c with irqs := c.irqs ++ [(a, col, src, nmi)] }

/-- BLOCK_RESET: the unit is fenced, reset and put under its self-test (R346). -/
def startBlockReset (s : State) : UnitName → State
  | .facet f => updFacet s f fun x => { x with bistRun := true, blockRun := true }
  | _ => s

/-! ## Latch (R339, R342) -/

/-- The capture of a source that carries no access: address zero, access type none (R342). -/
def noAccess (col src : Nat) : Access := ⟨0, 0, BitVec.ofNat 16 (Config.unitMaster col src % 65535)⟩

/-- The status word, the repeat count and the first-error capture when the pins of `mask` rise. -/
def Collector.latch (c : Collector) (mask : BitVec 64) (acc : Access) (time : Nat) : Collector :=
  let new := mask &&& ~~~c.status
  if new = 0 then c
  else if c.status = 0 then
    let first := ((List.range 64).find? fun i => new.getLsbD i).getD 0
    let many := (new &&& ~~~(bit64 first)) != 0
    let d := c.armedMode
    let c1 : Collector := { c with status := c.status ||| new, source := BitVec.ofNat 6 first, valid := true, overflow := many }
    { c1 with access := if d then acc.access else 0, master := if d then acc.master else 0,
              capAddr := if d then acc.addr else 0, capTime := if d then BitVec.ofNat 64 time else 0 }
  else { c with status := c.status ||| new, overflow := true }

/-- Raise sources in a collector: latch, capture, propagate upward, then react in the order of R344. The fuel bounds
the chain of consequences: a fence that maps out a channel raises one more source. -/
def raiseN : Nat → State → Nat → BitVec 64 → Access → UnitName → State
  | 0, s, _, _, _, _ => s
  | n + 1, s, col, mask0, acc, u =>
    let mask := mask0 &&& BitVec.ofNat 64 (2 ^ sourceCount col - 1)
    let c := getCol s col
    let srcs := (List.range 64).filter fun i => mask.getLsbD i
    let new := srcs.filter fun i => !c.status.getLsbD i
    let s1 := bumpN s (repeatCnt col) (srcs.length - new.length)
    let held := srcs.foldl (fun m i => if holdsPin s col i then m ||| bit64 i else m) (0 : BitVec 64)
    let s2 := updCol s1 col fun k => { k.latch mask acc s.time.now with pins := k.pins ||| held }
    -- summary sources of the levels above
    let s3 :=
      if c.status != 0 || new.isEmpty then s2
      else if col < 68 then raiseN n s2 (68 + col / 17) (bit64 (col % 17)) (noAccess (68 + col / 17) (col % 17)) .nothing
      else if col < 72 then raiseN n s2 72 (bit64 (col - 68)) (noAccess 72 (col - 68)) .nothing
      else s2
    let acts := new.map fun i => (i, actionsOf s col i)
    let reset := acts.filter fun (_, a, _) => hasAct a actModuleReset
    if !reset.isEmpty then
      let err := reset.any fun (_, a, _) => hasAct a actErrN
      s3.modPower fun p => { p with resetDue := true, errReset := p.errReset || err }
    else
      let raise (t : State) (k i : Nat) : State := raiseN n t k (bit64 i) (noAccess k i) .nothing
      let s4 := acts.foldl (fun t (i, a, _) =>
        let t1 := if hasAct a actFence || hasAct a actBlockReset then fenceUnit raise t (unitOf col i u) else t
        if hasAct a actBlockReset then startBlockReset t1 (unitOf col i u) else t1) s3
      acts.foldl (fun t (i, a, k) =>
        let t1 := if hasAct a actInterrupt then interrupt t k col i false else t
        if hasAct a actNmi then interrupt t1 k col i true else t1) s4

def raiseMask (s : State) (col : Nat) (mask : BitVec 64) (acc : Access) (u : UnitName) : State := raiseN 6 s col mask acc u

/-- Raise one source without an access. -/
def raiseSrc (s : State) (col src : Nat) (u : UnitName) : State := raiseMask s col (bit64 src) (noAccess col src) u

/-- STREAM_SKEW of a stream: the task that owns both streams is aborted; its facet's collector has the source (R149, R229). -/
def streamSkew (s : State) (r : Stream) : State :=
  let f := physOf s r.facet
  raiseSrc (abortTask s r.tid) (if f < 68 then f else 0) 6 (.facet f)

/-- STREAM_SKEW of the stream `sid` of the first such task (R149); where that is no stream of it, the task is aborted without
a source. -/
def skewOf (s : State) (p : Task → Bool) (sid : Nat) : State :=
  match s.streams.tasks.find? fun t => p t && !t.aborted with
  | none => s
  | some t => match s.streams.streams.find? fun r => r.tid == t.tid && r.sid == sid with
    | some r => streamSkew s r
    | none => abortTask s t.tid

/-- Raise a condition source: while its condition lasts its pin stays high and does not rise again (R408). -/
def raiseCond (s : State) (col src : Nat) (u : UnitName) : State :=
  if (getCol s col).pins.getLsbD src then s else raiseSrc s col src u

/-- Raise one source with the access that failed. -/
def raiseAcc (s : State) (col src : Nat) (acc : Access) (u : UnitName) : State := raiseMask s col (bit64 src) acc u

/-! ## Clearing (R349) -/

/-- When a status word becomes zero its collector arms the capture anew: VALID and OVERFLOW fall, and what the capture
held stands until the next latch, but for what reads 0 in FIRST mode (R342, R349, log entry 25). -/
def rearm (c : Collector) : Collector :=
  if c.status = 0 then
    let d := c.mode
    { c with valid := false, overflow := false, armedMode := d, access := if d then c.access else 0,
             master := if d then c.master else 0, capAddr := if d then c.capAddr else 0, capTime := if d then c.capTime else 0 }
  else c

/-- Write 1 to status bits: a bit clears only when its cause is gone; summary sources are read-only. -/
def clearStatus (s : State) (col : Nat) (mask : BitVec 64) : State :=
  let pins := pinsNow s col
  let summ := (List.range 64).foldl (fun m i => if isSummary col i then m ||| bit64 i else m) (0 : BitVec 64)
  let drop := mask &&& ~~~pins &&& ~~~summ
  let s1 := updCol s col fun c => rearm { c with status := c.status &&& ~~~drop }
  let up (t : State) (k i : Nat) : State := updCol t k fun c => rearm { c with status := c.status &&& ~~~(bit64 i) }
  if (getCol s1 col).status != 0 then s1
  else if col < 68 then
    let k := 68 + col / 17
    let s2 := up s1 k (col % 17)
    if (getCol s2 k).status = 0 then up s2 72 (k - 68) else s2
  else if col < 72 then up s1 72 (col - 68)
  else s1

/-! ## Functional responses with a source (R340) -/

/-- Streams faulted by a map-out raise STREAM_FAULT in the collector of their die (R229). -/
def raiseStreamFaults (s : State) (dies : List Nat) : State :=
  dies.foldl (fun t d => if d = 4 then raiseSrc t 72 25 .nothing else raiseSrc t (68 + d) 17 .nothing) s

/-- A stream fault: the task is aborted and STREAM_FAULT raised in the collector of the stream's die (R229). -/
def streamFault (s : State) (sid : Nat) : State :=
  match getStream s sid with
  | none => s
  | some r => raiseStreamFaults (abortTask s r.tid) [r.die]

/-- A channel is mapped out (R191). -/
def mapOut (s : State) (ch : Nat) (fault : Bool) : State :=
  if chanOut s ch then s
  else
    let dies := faultDies s [ch]
    raiseStreamFaults (raiseSrc (mapOutCore s [ch] fault false) 72 6 (.hbm ch)) dies

def linkDown (s : State) (l : Nat) : State := raiseSrc (linkDownCore s l) 72 11 (.link l)
def portDown (s : State) (p : Nat) : State := raiseSrc (portDownCore s p) 72 15 (.port p)

end Sys2Proof.Machine
end

