-- ==== Sys2Proof/Machine/Boot.lean ====
section
/-! DEFINITION. Power-up and its losses (R336 to R338, R397 to R400), the flush under hold-up (R216 to R218) and the
shed steps (R359 to R364). -/

namespace Sys2Proof.Machine

/-! ## Locket boot: step 2 of power-up (R336, R367, R376 to R378) -/

/-- Lifecycle codes that are assigned (R367). -/
def lifecycleOk (c : BitVec 4) : Bool := c == 0 || c == 1 || c == 3 || c == 7

/-- The fuse check of step 2 (R367, R377). -/
def fusesOk (k : Locket) : Bool :=
  let f := k.fuses
  lifecycleOk f.lifecycle && f.debugLock != 2 && f.part.toNat ≤ 1 && f.maxFabricLog2.toNat ≤ 20 && f == k.copy &&
    (f.lifecycle == 7 || k.certOk)

def asciiOf (xs : List Nat) : List Byte := xs.map (BitVec.ofNat 8)

def seedHash (f : Fuses) (label : List Nat) : List Byte := digestBytes (Config.sm3 (beBytes 32 f.seed.toNat ++ asciiOf label))

/-- DEVICE_ID: the first 16 bytes of SM3(seed || "XQ-ID"), byte i in bits [8i + 7 : 8i] (R376, R382). -/
def deviceIdOf (f : Fuses) : BitVec 128 := BitVec.ofNat 128 (leNat ((seedHash f [0x58, 0x51, 0x2D, 0x49, 0x44]).take 16))

/-- The identity private key (R376); never derived in SCRAPPED. The label of MANUFACTURE is not given, log entry 15. -/
def identityOf (f : Fuses) : Option (BitVec 256) :=
  if f.lifecycle = 7 then none
  else
    let l := if f.lifecycle = 3 then 0x53 else if f.lifecycle = 0 then Config.manufactureLabel else 0x50
    let h := beNat (seedHash f [0x58, 0x51, 0x2D, 0x49, 0x4B, l])
    some (BitVec.ofNat 256 (h % (Config.sm2Order - 1) + 1))

/-- The MAC address of a port (R376): bit 0 of the first byte clear, bit 1 set. -/
def macOf (f : Fuses) (p : Nat) : BitVec 48 :=
  let h := (seedHash f [0x58, 0x51, 0x2D, 0x4D, 0x41, 0x43]).take 5
  let b0 := ((h.headD 0) &&& 0xFE) ||| 0x02
  BitVec.ofNat 48 (leNat (b0 :: (h.drop 1 ++ [BitVec.ofNat 8 p])))

/-- The link-local address: fe80::/64 and DEVICE_ID bytes 0 to 7 with bit 1 of byte 0 clear (R376). Big-endian number. -/
def linkLocalOf (id : BitVec 128) : BitVec 128 :=
  let bs := leBytes 8 id.toNat
  BitVec.ofNat 128 (0xFE80 * 2 ^ 112 + beNat (((bs.headD 0) &&& 0xFD) :: bs.drop 1))

/-- Step 2: the locket runs from ROM. A failed fuse check asserts ERR_N, keeps the ports down and goes no further. -/
def stepTwo (s : State) : State :=
  let f := s.locket.fuses
  let (n, s1) := drawNat s
  if fusesOk s.locket then
    let id := deviceIdOf f
    let k := { s1.locket with lifecycle := f.lifecycle, debugOpened := false, nonce := Config.random256 n,
                              meas := List.replicate 8 0, deviceId := id, idKey := identityOf f, keys := [] }
    let ports := (s1.host.ports.zipIdx).map fun (p, i) => { p with linkLocal := linkLocalOf id, mac := macOf f i }
    let s2 := { s1 with locket := k, host := { s1.host with ports := ports } }
    let s3 := extendMeas s2 0 Config.bootRomDigest
    s3.modPower fun p => { p with phase := .up, errBoot := false, errTrip := false, errReset := false, pllLocked := true,
                                  resetDue := false, powerGood := true }
  else s1.modPower fun p => { p with phase := .failed, errBoot := true, powerGood := true }

/-! ## What a power cycle or a module reset loses (R338) -/

/-- Records of a collection that a power failure loses: those still in the buffer, and those that left it behind the first of
them, so that what survives is a prefix of the commit order (R214, R218). -/
def lostRecords (f : Flash) (id : Nat) : List WriteRec :=
  let left := f.wbuf.filter fun r => r.coll == id
  match left with
  | [] => []
  | r :: _ => left ++ f.after.filter fun x => x.coll == id && r.seq < x.seq

/-- A collection after the loss of some records: items with a lost record go, deletes are undone, and so are publications
(R213 to R215). -/
def loseRecords (recs : List WriteRec) (c : Coll) : Coll :=
  let dead (x : Nat) : Bool := recs.any fun r => r.kind == .sideEntry x || r.kind == .vector x || r.kind == .row x
  let lostDel (x : Nat) : Bool := recs.any fun r => r.kind == .delete x
  let lostPub (p : Nat) : Bool := recs.any fun r => r.kind == .merged && r.stamp == p
  let lostPut (v : FilterVer) : Bool := recs.any fun r => r.kind == .filterPut v.id && r.stamp == v.put
  let lostEnd (v : FilterVer) (p : Nat) : Bool :=
    recs.any fun r => r.stamp == p && (r.kind == .filterDrop v.id || (v.replaced && r.kind == .filterPut v.id))
  { c with
    items := c.items.filter fun x => !dead x.1
    side := (c.side.filter fun e => !dead e.ent.slot).map fun e =>
      match e.merged with
      | some p => if lostPub p then { e with merged := none, taken := false } else e
      | none => e
    recent := c.recent.filter fun x => !lostDel x.1
    tombs := c.tombs.filter fun x => !lostDel x
    segs := (c.segs.filter fun g => !lostPub g.pub).map fun g => match g.replaced with
      | some p => if lostPub p then { g with replaced := none } else g
      | none => g
    rewrites := c.rewrites.filter fun r => !lostPub r.1
    clearing := c.clearing.filter fun (_, b) => !lostPub (b - graceBeads)
    filters := (c.filters.filter fun v => !lostPut v).map fun v => match v.drop with
      | some p => if lostEnd v p then { v with drop := none, replaced := false } else v
      | none => v }

/-- Pages staged for objects whose publication did not survive: their units are freed (R215). -/
def discardedPages (recs : List WriteRec) (c : Coll) : List Nat :=
  let segs := c.segs.filter fun g => recs.any fun r => r.kind == .merged && r.stamp == g.pub
  let base := c.params.regionBase .filters
  let puts := recs.filterMap fun r => match r.kind with | .filterPut i => some i | _ => none
  (segs.map fun g => (segPages c.params g).map Prod.fst).flatten ++
    (puts.map fun i => (List.range c.params.bitmapPages).map (base + i * c.params.bitmapPages + ·)).flatten

/-- The map after a restart: complete journal records are replayed in order (R218). -/
def replayJournal (f : Flash) : List Unit64 :=
  f.journal.flatten.foldl (fun us x => us.map fun u => if u.coll = x.1 && u.page = x.2.1 then { u with chan := x.2.2.1, block := x.2.2.2 } else u)
    (f.units.map fun u => { u with moving := false, worn := false })

/-- A collection as power-up finds it: detached, with its contents (R29, R338). -/
def Coll.atRest (c : Coll) : Coll :=
  let c1 := stopMerge c
  { c1 with attached := false, promo := none, pages := [], sideLost := [], relHeads := 0, work := none, thenDelete := none, withdrawn := false, wantMerge := false,
            creditNear := 0, creditHbm := 0, creditFlash := 0, resident := 0, admittedInBead := 0, hbmPlacedNow := 0 }

/-- Everything a power cycle or module reset loses. What is on flash, in fuses and in the FRU memory stays; so do the
pins and supply, which belong to the board. -/
def loseVolatile (s : State) : State :=
  let colls := s.colls.map fun (id, c) => (id, (loseRecords (lostRecords s.flash id) c).atRest)
  let gone := (s.colls.map fun (id, c) => (discardedPages (lostRecords s.flash id) c).map fun n => (id, n)).flatten
  let fl := Flash.reset
  let p := s.power
  let pr := Power.reset
  { State.reset with
    pending := s.pending, out := s.out, free := s.free, board := s.board, colls := colls
    locket := { Locket.reset with fuses := s.locket.fuses, copy := s.locket.copy, certOk := s.locket.certOk }
    flash := { fl with blocks := s.flash.blocks
                       units := (replayJournal s.flash).filter fun u => !gone.contains (u.coll, u.page)
                       journal := if p.shutdownRecord then [] else s.flash.journal, rated := s.flash.rated }
    power := { pr with phase := p.phase, pwrEn := p.pwrEn, resetN := p.resetN, powerGood := p.powerGood,
                       inputMv := p.inputMv, below := p.below, rails := p.rails, effective := p.effective,
                       shutdownRecord := p.shutdownRecord, errTrip := p.errTrip, errBoot := p.errBoot,
                       errReset := p.errReset, pllLocked := p.pllLocked, thermHold := p.thermHold } }

/-- The module returns to step 2 (R336), or waits in step 1 while RESET_N is low (R398). -/
def restart (s : State) : State :=
  let s1 := loseVolatile s
  if s1.power.resetN then stepTwo s1 else s1.modPower fun p => { p with phase := .inReset }

/-- The module powers down: PWR_EN high starts a new power-up (R361, R400). -/
def powerDown (s : State) : State :=
  let s1 := emit (loseVolatile s) .poweredDown
  s1.modPower fun p => { p with phase := if p.pwrEn then .starting else .off, powerGood := false, effective := 0,
                                below := [false, false, false, false, false], errBoot := p.pwrEn, overvolt := false,
                                rails := List.replicate 9 0, pllLocked := false }

/-- MODULE_RESET: no flush, so undrained records are lost and no shutdown record is there (R344, R399). -/
def moduleResetNow (s : State) : State :=
  restart (s.modPower fun p => { p with resetDue := false, shutdownRecord := false, errReset := errN s })

/-! ## Flush (R216, R217) -/

def bufferBytes (s : State) : Nat := sumN (s.flash.wbuf.map WriteRec.occ)

/-- Writes admitted and not yet committed. -/
def Cmd.uncommitted (c : Cmd) : Bool := match c.stage with | .admitted _ => true | _ => false

/-- A preparation of a lower power state is abandoned when the flush begins (R262). The reply's status is a
DESIGN CHOICE, log entry 13. -/
def abandonPrep (s : State) : State :=
  if s.power.preparing then
    let s1 := s.modPower fun p => { p with preparing := false, target := p.pstate, psCmd := none }
    match s.power.psCmd with
    | some r => refuse s1 r.queue r.tag 0x0220
    | none => s1
  else s

/-- The flush starts: power.holdup, and POWER_LOSS for every write admitted and not committed (R217). -/
def startFlush (s : State) : State :=
  if s.power.flushing then s
  else
    let s1 := raiseEvent (s.modPower fun p => { p with flushing := true }) 0x0502 (leBytes 8 (bufferBytes s))
    let waiting := s1.queues.cmds.filter Cmd.uncommitted
    let s2 := waiting.foldl (fun t c => refuse t c.ref.queue c.ref.tag 0x0221) s1
    let s3 := cancelTasks s2 fun t => match t.kind with | .writeEncode _ _ => true | _ => false
    abandonPrep s3

/-- Everything but the flush and the ports' shutdown stops; the module powers down after the flush (R217, R359). -/
def stopForFlush (s : State) : State :=
  s.modPower fun p => { p with phase := .flushing, flushing := true, downAfter := true }

/-- A shutdown with its flush (R217, R366, R400). -/
def shutDown (s : State) : State := stopForFlush (startFlush s)

/-- Every record has left the buffer and the journal is written. -/
def drainAll (s : State) : State :=
  let units := ((s.flash.wbuf.map fun r => r.pages.map fun p => (r.coll, p)).flatten).eraseDups
  (units.foldl (fun t (c, p) => placeFree c t p) s).modFlash fun f => { f with wbuf := [] }

/-- The flush completes: the module powers down, resets, or stays up (R217, R361, R399). A shutdown record stands only
where the module stops. DESIGN CHOICE, log entry 14. -/
def flushDone (s : State) : State :=
  let s1 := drainAll s
  if s.power.downAfter then
    powerDown (s1.modPower fun p => { p with flushing := false, downAfter := false, resetAfter := false, shutdownRecord := true })
  else if s.power.resetAfter then
    restart (s1.modPower fun p => { p with flushing := false, resetAfter := false, shutdownRecord := true })
  else s1.modPower fun p => { p with flushing := false }

/-! ## Shed steps (R359 to R364) -/

/-- Thresholds of steps 1 to 5 in mV: the setting's, or the defaults (R362). -/
def shedTable (s : State) : List (Nat × Nat) :=
  match s.loader.setting with
  | some t => t.shed
  | none => [(44000, 45000), (42500, 43500), (41000, 42000), (39500, 40500), (36000, 0)]

/-- The deepest set flag of the input. -/
def inputStep (p : Power) : Nat := (p.below.zipIdx).foldl (fun m (b, i) => if b then i + 1 else m) 0

/-- The deepest of the input step and every rail's step (R364). -/
def deepest (p : Power) : Nat := p.rails.foldl max (inputStep p)

/-- power.shed for a step: direction 0 falling, 1 recovering, 2 overvoltage (R289). -/
def shedEvent (s : State) (step dir : Nat) : State :=
  raiseEvent s 0x0501 ([BitVec.ofNat 8 step, BitVec.ofNat 8 dir] ++ leBytes 2 (min s.power.inputMv 65535))

/-- Steps enter force, each with its own event in falling order; step 4 starts the flush, step 5 the shutdown. -/
def enterSteps (s : State) (target dir : Nat) : State :=
  let old := s.power.effective
  if target ≤ old then s
  else
    let s1 := (List.range (target - old)).foldl (fun t i => shedEvent t (old + 1 + i) dir) s
    let s2 := s1.modPower fun p => { p with effective := target }
    let s3 := if old < 4 && 4 ≤ target then startFlush s2 else s2
    if 5 ≤ target then stopForFlush s3 else s3

/-- A step clears at a bead edge once the input and the rails allow it, the deepest first (R360). -/
def clearSteps (s : State) : State :=
  let old := s.power.effective
  let target := deepest s.power
  if old ≤ target then s
  else
    let s1 := s.modPower fun p => { p with effective := target }
    (List.range (old - target)).foldl (fun t i => shedEvent t (old - i) 1) s1

/-- Droop, in thousandths of nominal, at which each step of a rail is taken (R364). -/
def droopTable : List Nat := [40, 60, 80, 100, 130]

/-- The step of a rail from its droop: a step is taken at its figure and kept until 2 % below it. -/
def railStep (old droop : Nat) : Nat :=
  (droopTable.zipIdx).foldl (fun m (d, i) => if d ≤ droop || (i < old && d ≤ droop + 20) then i + 1 else m) 0

end Sys2Proof.Machine
end

