-- ==== Sys2Proof/Machine/Power.lean ====
section
/-! DEFINITION. Supply, pins, power states and heat (chapters 16 and 19, R259 to R262, R189, R366). -/

namespace Sys2Proof.Machine

abbrev Res := Host.Outcome State Fault Refusal

/-- PWR_EN_RISE: converters start; ERR_N is low until step 2 (R397). During a shutdown it only counts for what follows
the power-down (R400). -/
def execPwrEnRise (s : State) : Res :=
  .next (s.modPower fun p =>
    if p.phase == .off then { p with pwrEn := true, phase := .starting, errBoot := true } else { p with pwrEn := true })

/-- POWER_GOOD: input at 40.0 V or above; step 2 starts when RESET_N is high (R336, R397). A shed step whose rise
threshold lies above the input is in force from here. -/
def execPowerGood (mv : Nat) (s : State) : Res :=
  .next (if s.power.phase == .starting && 40000 ≤ mv then
    let below := (shedTable s).map fun (_, rise) => decide (mv < rise)
    let s1 := s.modPower fun p => { p with powerGood := true, inputMv := mv, below := below, pllLocked := true }
    let s2 := s1.modPower fun p => { p with effective := deepest p }
    if s.power.resetN then stepTwo s2 else s2.modPower fun p => { p with phase := .inReset }
  else s)

/-- PWR_EN_FALL: an orderly shutdown, or plain power-off before step 2 (R400). -/
def execPwrEnFall (s : State) : Res :=
  let s1 := s.modPower fun p => { p with pwrEn := false }
  .next (match s.power.phase with
    | .up => shutDown s1
    | .flushing | .off => s1
    | .starting | .inReset | .failed => powerDown s1)

/-- RESET_N_LOW: at least 1 µs low starts a module reset, after a flush; a flush in progress completes first (R399). -/
def execResetNLow (widthNs : Nat) (s : State) : Res :=
  .next (if widthNs < 1000 then s
  else
    let s1 := s.modPower fun p => { p with resetN := false }
    match s.power.phase with
    | .up => (startFlush s1).modPower fun p => { p with resetAfter := true }
    | .failed => s1.modPower fun p => { p with phase := .inReset }
    | _ => s1)

/-- RESET_N_RELEASE: a module held in step 1 starts step 2 (R398, R399). -/
def execResetNRelease (s : State) : Res :=
  let s1 := s.modPower fun p => { p with resetN := true }
  .next (if s.power.phase == .inReset then stepTwo s1 else s1)

/-- INPUT_STEP_FALL: a sample below one or more fall thresholds (R359). -/
def execInputStepFall (mv : Nat) (s : State) : Res :=
  .next (if isUp s then
    let below := ((shedTable s).zip s.power.below).map fun ((fall, _), b) => b || decide (mv < fall)
    let s1 := s.modPower fun p => { p with inputMv := mv, below := below }
    enterSteps s1 (deepest s1.power) 0
  else s.modPower fun p => { p with inputMv := mv })

/-- INPUT_STEP_RISE: thresholds crossed upward; the steps clear at a bead edge (R360). Step 5 has no rise threshold. -/
def execInputStepRise (mv : Nat) (s : State) : Res :=
  .next (if isUp s then
    let below := ((shedTable s).zip s.power.below).map fun ((_, rise), b) => b && !(rise != 0 && decide (rise ≤ mv))
    s.modPower fun p => { p with inputMv := mv, below := below }
  else s.modPower fun p => { p with inputMv := mv })

/-- OVERVOLTAGE: above 62.0 V the input stage opens; step 5 at once, one event per step not in force (R363). -/
def execOvervoltage (mv : Nat) (s : State) : Res :=
  .next (if isUp s && decide (62000 < mv) then
    enterSteps (s.modPower fun p => { p with inputMv := mv, overvolt := true }) 5 2
  else s)

/-- RAIL_DROOP: a deeper step of a rail raises the source and takes the steps (R364). -/
def execRailDroop (rail droop : Nat) (s : State) : Res :=
  .next (if isUp s then
    let old := s.power.rails.getD rail 0
    let new := railStep old droop
    let s1 := s.modPower fun p => { p with rails := updAt p.rails rail fun _ => new }
    if old < new then
      let s2 := raiseSrc s1 72 27 .nothing
      enterSteps s2 (deepest s2.power) 0
    else s1
  else s)

/-- HOLDUP_FLUSH_COMPLETE (R217). -/
def execHoldupFlushComplete (s : State) : Res := .next (if s.power.flushing then flushDone s else s)

/-- HOLDUP_MEASUREMENT in 0.1 ms: below 40 ms raises HOLDUP_LOW and holds its pin (R216, R408). -/
def execHoldupMeasurement (t : Nat) (s : State) : Res :=
  .next (if isUp s then
    let low := decide (t < 400)
    let s1 := s.modPower fun p => { p with holdup := min t 65535, holdupLow := low }
    if low then (if s.power.holdupLow then s1 else raiseSrc s1 72 10 .nothing) else dropPins s1 72 (bit64 10)
  else s)

/-- MODULE_RESET, 10 µs after a latch whose reactions ask for it (R344). -/
def execModuleReset (s : State) : Res :=
  .next (if isUp s && s.power.resetDue then moduleResetNow s else s)

/-- PLL_UNLOCK: the source reacts by MODULE_RESET; holdover does not cover loss of the reference (R358). -/
def execPllUnlock (refLost : Bool) (s : State) : Res :=
  .next (if isUp s then
    let s1 := s.modPower fun p => { p with pllLocked := false }
    let s2 := if refLost then s1.modTime fun t => { t with held := false } else s1
    raiseSrc s2 72 22 .nothing
  else s)

/-! ## Power states (R259 to R261) -/

/-- Work admitted and still in flight. -/
def workInFlight (s : State) : Bool :=
  !s.search.queries.isEmpty || !s.search.reads.isEmpty ||
    s.queues.cmds.any fun c => c.stage != .held && c.ref.op != 0x8B

/-- PREPARATION_END: the first bead edge with no admitted work in flight and, for P3, an empty buffer. -/
def execPreparationEnd (s : State) : Res :=
  .next (if isUp s && s.power.preparing && decide (s.power.prepBead < beadNow s) && !workInFlight s &&
      (s.power.target != 3 || s.flash.wbuf.isEmpty) then
    s.modPower fun p => { p with preparing := false, entering := true }
  else s)

/-- A command that R260 executes without leaving a state. -/
def staysLow (op : BitVec 8) : Bool := [0x80, 0x8A, 0x8D, 0x8E, 0x8F, 0x8B].contains op

/-- Unit registers as a lower state is entered; units that were stopped before keep what they showed (R386). -/
def freeze (s : State) : Frozen :=
  let now : Frozen := ⟨s.facets, s.near.banks, s.hbm.hbmStacks, s.hbm.chans, s.flash.chans⟩
  match s.power.frozen with
  | none => now
  | some z =>
    if s.power.pstate.toNat < 2 then { now with facets := z.facets, banks := z.banks } else { z with flashChans := now.flashChans }

/-- ENTRY_PROPER_COMPLETE: the target is reached and POWER_STATE replies; a waiting capsule then takes the module back
to P0 (R259, R260). -/
def execEntryProperComplete (s : State) : Res :=
  .next (if isUp s && s.power.entering then
    let wake := !s.fabric.asleep.isEmpty || s.queues.cmds.any fun c => c.stage == .held && !staysLow c.ref.op
    let s1 := s.modPower fun p =>
      { p with entering := false, pstate := p.target, psCmd := none, exiting := wake, frozen := some (freeze s) }
    match s.power.psCmd with
    | some r => ok s1 r.queue r.tag (areaPut (areaPut 0 24 1 s1.power.pstate.toNat) 32 8 (beadNow s))
    | none => s1
  else s)

/-! ## Heat (R189, R366) -/

/-- Steps 1 and 2 of a stack: taken at 85 and 95 °C, cleared below 82 and 92 °C, in 1/16 °C (R189). -/
def heatTaken (old : Nat) (t : Int) : Nat :=
  if 1520 ≤ t || (old = 2 && 1472 ≤ t) then 2
  else if 1360 ≤ t || (1 ≤ old && 1312 ≤ t) then 1
  else 0

def hotArgs (k : Nat) (t : Int) : List Byte := [BitVec.ofNat 8 k, 0] ++ leBytes 2 (t % 65536).toNat

/-- Fence a stack: all its channels are mapped out together (R189, R191). -/
def fenceStack (s : State) (k : Nat) : State :=
  let chans := (List.range 32).map (32 * k + ·)
  let live := chans.filter fun c => !chanOut s c
  let dies := faultDies s live
  let s1 := mapOutCore s live true true
  let s2 := raiseSrc (raiseSrc s1 72 7 (.hbm (32 * k))) 72 6 (.hbm (32 * k))
  raiseStreamFaults s2 dies

def setStack (s : State) (k : Nat) (x : HbmStack) : State :=
  s.modHbm fun h => { h with hbmStacks := updAt h.hbmStacks k fun _ => x }

/-- HBM_STACK_TEMP_RISE: the steps at 85, 95 and 105 °C (R189). -/
def execHbmStackTempRise (k : Nat) (t : Int) (s : State) : Res :=
  .next (if isUp s then
    let old := s.hbm.hbmStacks.getD k ⟨0, 0, false⟩
    let new := heatTaken old.heat t
    let s1 := setStack s k ⟨t, new, old.fenced || decide (1680 ≤ t)⟩
    let s2 := if old.heat < 1 && 1 ≤ new then raiseEvent s1 0x0301 (hotArgs k t) else s1
    let s3 := if old.heat < 2 && 2 ≤ new then raiseEvent s2 0x0302 (hotArgs k t) else s2
    if !old.fenced && 1680 ≤ t then fenceStack s3 k else s3
  else s)

/-- HBM_STACK_TEMP_FALL: a step clears only below its clearing point; a fence only by service (R189). -/
def execHbmStackTempFall (k : Nat) (t : Int) (s : State) : Res :=
  .next (if isUp s then
    let old := s.hbm.hbmStacks.getD k ⟨0, 0, false⟩
    setStack s k ⟨t, min old.heat (heatTaken old.heat t), old.fenced⟩
  else s)

def holdTherm (s : State) (x : Sensor) (on : Bool) : State :=
  s.modPower fun p =>
    let rest := p.thermHold.filter (· != x)
    { p with thermHold := if on then rest ++ [x] else rest }

/-- A level taken at `up` and left below `down`. -/
def hyst (was : Bool) (t up down : Int) : Bool := decide (up ≤ t) || (was && decide (down ≤ t))

/-- A level of a module that is not up: only its end is seen (R366). -/
def coolTherm (s : State) (x : Sensor) (t : Int) : State :=
  match x with
  | .die _ | .hub => if t < 1520 then holdTherm s x false else s
  | .flash _ => if t < 1280 then holdTherm s x false else s
  | .facet _ => s

/-- THERMAL_CROSSING: a sensor's reading crosses one of its levels (R366). -/
def execThermalCrossing (x : Sensor) (t : Int) (s : State) : Res :=
  .next (if isUp s then
    match x with
    | .facet f =>
      let s1 := updFacet s f fun y => { y with temp := t, hot := decide (1680 ≤ t) || (y.hot && decide (1520 ≤ t)) }
      let held := (getCol s f).pins.getLsbD 8
      if 1680 ≤ t then (if held then s1 else raiseSrc s1 f 8 (.facet f))
      else if t < 1520 && (!(getFacet s f).fenced || (getFacet s f).bistPass) then dropPins s1 f (bit64 8) else s1
    | .die d =>
      let was := s.power.thermHold.contains (.die d)
      let on := hyst was t 1600 1520
      let s1 := holdTherm s (.die d) on
      if on && !was then raiseSrc s1 (68 + d) 24 .nothing
      else if !on then dropPins s1 (68 + d) (bit64 24) else s1
    | .hub =>
      let was := s.power.thermHold.contains .hub
      let on := hyst was t 1600 1520
      let s1 := (holdTherm s .hub on).modPower fun p => { p with hubTemp := t, hubHot := p.hubHot || decide (1600 ≤ t) }
      if on && !was then interrupt s1 false 72 63 false else s1
    | .flash c =>
      let k := getFlashCh s c
      let hot80 := hyst k.hot80 t 1280 1200
      let hot85 := hyst k.hot85 t 1360 1280
      holdTherm (updFlashCh s c fun k => { k with hot80 := hot80, hot85 := hot85 }) (.flash c) hot85
  else coolTherm s x t)

/-- HARDWARE_TRIP at 115 °C: steps 4 and 5 run, and ERR_N holds until step 2 (R366). -/
def execHardwareTrip (_die : Nat) (s : State) : Res :=
  .next (if isUp s then shutDown (s.modPower fun p => { p with errTrip := true }) else s)

/-- HUB_HOT_CLEAR: writing 1 to HUB_HOT has no effect at 100 °C or above (POWER_TEMP). -/
def hubHotClear (s : State) : State :=
  s.modPower fun p => if p.hubTemp < 1600 then { p with hubHot := false } else p

def execHubHotClear (s : State) : Res := .next (if isUp s then hubHotClear s else s)

end Sys2Proof.Machine
end

