-- ==== Sys2Proof/Machine/Service.lean ====
section
/-! DEFINITION. Faults and online service (chapter 15, R189 to R191, R208, R353, R390): sources, self-faults, block
resets, cores, counters, and the service actions of facets, banks, channels, prongs and links. -/

namespace Sys2Proof.Machine

/-- Whether the power state stops a kind of unit: 0 facets, scanners and prongs, 1 HBM and near memory, 2 flash (the table
of power states, R386). -/
def unitStops (s : State) (kind : Nat) : Bool := decide (kind < s.power.pstate.toNat)

/-! ## Sources -/

/-- A mask of sources without the summaries, which follow the collectors below (R339). -/
def ownSources (col : Nat) (mask : BitVec 64) : BitVec 64 :=
  (List.range 64).foldl (fun m i => if isSummary col i then m &&& ~~~(bit64 i) else m) mask

def execSourceLatch (col : Nat) (mask : BitVec 64) (acc : Access) (u : UnitName) (s : State) : Res :=
  .next (if isUp s then raiseMask s col (ownSources col mask) acc u else s)

/-- COLLECTOR_SELF: a facet enters its safe state at once (R347); a die or module collector merges the event into its
first error, and a failed reaction state falls back to the defaults (R348). -/
def execCollectorSelf (col : Nat) (reactionState : Bool) (s : State) : Res :=
  .next (if !isUp s then s
  else if col < 68 then
    let s1 := updFacet (fenceFacet s col 4) col fun x => { x with safe := true, reason := 4 }
    raiseSrc s1 col 10 (.facet col)
  else
    let s1 := raiseSrc s col (if col < 72 then 25 else 28) .nothing
    if reactionState then updCol s1 col fun c => { c with defaultsOnly := true } else s1)

def execFcolStatusClear (col : Nat) (mask : BitVec 64) (s : State) : Res :=
  .next (if isUp s then clearStatus s col mask else s)

/-- FCOL_FORCE: raises sources for one cycle, captured with the master FORCE; summary sources are ignored (R341). -/
def forceSources (s : State) (col : Nat) (mask : BitVec 64) : State :=
  raiseMask s col (ownSources col mask) ⟨0, 0, 0xFFFF⟩ .nothing

def execFcolForce (col : Nat) (mask : BitVec 64) (s : State) : Res :=
  .next (if isUp s then forceSources s col mask else s)

/-! ## Facets -/

def execFacetFence (f : Nat) (s : State) : Res :=
  .next (if isUp s && !unitStops s 0 && !(getFacet s f).fenced then fenceFacet s f 3 else s)

/-- FACET_BIST: fences first when the facet is not fenced (R353). -/
def startFacetBist (s : State) (f : Nat) : State :=
  let s1 := if (getFacet s f).fenced then s else fenceFacet s f 3
  updFacet s1 f fun x => { x with bistRun := true, release := false }

def execFacetBist (f : Nat) (s : State) : Res :=
  .next (if isUp s && !unitStops s 0 && !(getFacet s f).bistRun then startFacetBist s f else s)

/-- A facet's BIST ends: passing, its pins fall before any release, FACET_TEMP only once the junction fell below 95 °C (R349, R408); failing,
BIST_FAIL is raised and BIST_PASS is clear (R346). -/
def facetTested (s : State) (f : Nat) (pass : Bool) : State :=
  if pass then
    let s1 := updFacet s f fun x => { x with bistRun := false, blockRun := false, bistPass := true, safe := false }
    dropPins s1 f (if (getFacet s f).hot then ~~~(bit64 8) else BitVec.allOnes 64)
  else
    let s1 := updFacet s f fun x => { x with bistRun := false, blockRun := false, bistPass := false }
    raiseSrc s1 f 9 (.facet f)

/-- FACET_BIST_DONE: a BIST that service ordered ends; the self-test of a block reset ends by BLOCK_RESET_COMPLETE. -/
def execFacetBistDone (f : Nat) (pass : Bool) (s : State) : Res :=
  .next (if isUp s && (getFacet s f).bistRun && !(getFacet s f).blockRun then facetTested s f pass else s)

/-- Facets that the second shed step idles while it is in force: the mapped ones of odd logical number (R359). -/
def shedIdles (s : State) (f : Nat) : Bool :=
  decide (2 ≤ s.power.effective) && ((getFacet s f).reason == 2 || (logicalOf s f != 0xFF && logicalOf s f % 2 == 1))

/-- FACET_RELEASE: at the next edge, when BIST_PASS is 1; ignored for a facet idled by a shed step in force (R353,
R390). -/
def execFacetRelease (f : Nat) (s : State) : Res :=
  let x := getFacet s f
  .next (if isUp s && !unitStops s 0 && x.fenced && x.bistPass && !x.bistRun && !shedIdles s f then
    updFacet s f fun x => { x with release := true }
  else s)

/-! ## Banks -/

/-- Whether a bank of a die is fenced and has not passed its test. -/
def untestedBank (s : State) (d : Nat) : Bool :=
  s.near.banks.any fun (b, v) => b / 512 == d && v.state != 0 && !v.mbistPass

def bankTested (s : State) (b : Nat) (pass : Bool) : State :=
  let s1 := setBank s b { getBank s b with state := 1, mbistPass := pass }
  if untestedBank s1 (b / 512) then s1 else dropPins s1 (68 + b / 512) (bit64 20)

def execNearmemMbist (b : Nat) (s : State) : Res :=
  .next (if isUp s && !unitStops s 0 && (getBank s b).state != 2 then
    let s1 := if (getBank s b).state = 0 then fenceBank s b else s
    setBank s1 b { getBank s1 b with state := 2, ret := false }
  else s)

def execNearmemMbistDone (b : Nat) (pass : Bool) (s : State) : Res :=
  .next (if isUp s && (getBank s b).state = 2 then bankTested s b pass else s)

def execNearmemReturn (b : Nat) (s : State) : Res :=
  let x := getBank s b
  .next (if isUp s && !unitStops s 0 && x.state = 1 && x.mbistPass then setBank s b { x with ret := true } else s)

/-! ## HBM channels -/

def startRetrain (s : State) (ch : Nat) : State :=
  if (getChan s ch).state = 0 then updChan s ch fun c => { c with state := 1 } else s

/-- HBM_CH_RETRAIN written: no effect on a channel that is mapped out (R190). -/
def execHbmChRetrain (ch : Nat) (s : State) : Res :=
  .next (if isUp s && !unitStops s 1 then startRetrain s ch else s)

/-- The controller starts a retrain of its own (R190). -/
def execHbmRetrainStart (ch : Nat) (s : State) : Res := .next (if isUp s then startRetrain s ch else s)

/-- The retrain passes: queued requests are carried out in arrival order and RETRAIN_CNT counts; or it fails (R190). -/
def execHbmRetrainEnd (ch : Nat) (pass : Bool) (s : State) : Res :=
  .next (if isUp s && (getChan s ch).state = 1 then
    if pass then
      let q := (getChan s ch).queued
      let s1 := updChan s ch fun c => { c with state := 0, queued := [] }
      bump (q.foldl (fun t r => waitApply t ch r) s1) (hbmRetrainCnt (ch / 32))
    else mapOut s ch true
  else s)

/-- 40 µs of stall: the channel is mapped out (R190). -/
def execHbmRetrainTimeout (ch : Nat) (s : State) : Res :=
  .next (if isUp s && (getChan s ch).state = 1 then mapOut s ch true else s)

def stackStep (s : State) (k : Nat) : Nat := (s.hbm.hbmStacks.getD k ⟨0, 0, false⟩).step
def stackTemp (s : State) (k : Nat) : Int := (s.hbm.hbmStacks.getD k ⟨0, 0, false⟩).temp
def stackChans (k : Nat) : List Nat := (List.range 32).map (32 * k + ·)

/-- HBM_MBIST: maps the channel out first when it is online; a stack fenced at 105 °C is tested whole, once it reads
below 95 °C (R189, R353). -/
def execHbmMbist (ch : Nat) (s : State) : Res :=
  let k := ch / 32
  .next (if !isUp s || unitStops s 1 then s
  else if stackStep s k = 3 then
    if stackTemp s k < 1520 then
      (stackChans k).foldl (fun t c => updChan t c fun x => { x with state := 3, ret := false }) s
    else s
  else
    let s1 := if chanOut s ch then s else mapOut s ch false
    updChan s1 ch fun x => { x with state := 3, ret := false })

/-- Sources whose pins a mapped-out channel holds fall once every channel that is out has passed (R408). -/
def dropHbmPins (s : State) : State :=
  let bad := (List.range 256).any fun c => chanOut s c && !(getChan s c).mbistPass
  let hot := (List.range 8).any fun k => stackStep s k == 3 && (stackChans k).any fun c => !(getChan s c).mbistPass
  let s1 := if bad then s else dropPins s 72 (bit64 4 ||| bit64 5 ||| bit64 6)
  if hot then s1 else dropPins s1 72 (bit64 7)

def execHbmMbistDone (ch : Nat) (pass : Bool) (s : State) : Res :=
  .next (if isUp s && (getChan s ch).state = 3 then
    dropHbmPins (updChan s ch fun c => { c with state := 2, mbistPass := pass })
  else s)

/-- HBM_RETURN: rejoins at the next edge when MBIST_PASS is 1; a fenced stack rejoins whole (HBM registers). -/
def execHbmReturn (ch : Nat) (s : State) : Res :=
  let k := ch / 32
  .next (if !isUp s || unitStops s 1 then s
  else if stackStep s k = 3 then
    if (stackChans k).all fun c => (getChan s c).state == 2 && (getChan s c).mbistPass then
      (stackChans k).foldl (fun t c => updChan t c fun x => { x with ret := true }) s
    else s
  else if (getChan s ch).state = 2 && (getChan s ch).mbistPass then updChan s ch fun x => { x with ret := true }
  else s)

/-! ## Copies after a map-out (R191 steps 3 and 4) and installation (R175) -/

/-- A page of a side list that one copy lacks is copied from the other, where its bank is in service (R179, R191). -/
def restoreSide (s : State) (coll page : Nat) (c : Coll) : State :=
  let good (copy : Nat) : Bool := bankOk s (sideBank s c copy page)
  let lack (copy : Nat) : Bool := c.sideLost.contains (copy, page)
  let src := [0, 1].any fun k => good k && !lack k
  if src then setColl s coll { c with sideLost := c.sideLost.filter fun x => x.2 != page || !good x.1 } else s

/-- A second copy of a pinned page is made again; it resolves at the next edge (R171). So is a page of a mirrored side list. -/
def execPinnedCopyRestore (coll page : Nat) (s : State) : Res :=
  .next (match getColl s coll with
  | none => s
  | some c => match findPage c page with
    | none => if isUp s && c.attached then restoreSide s coll page c else s
    | some p =>
      if isUp s && c.attached && p.copyLost && p.incoming.isNone && decide (p.lostAt < beadNow s) then
        let avoid := match p.locs with | .hbm a :: _ => some (a / 32) | _ => none
        match hbmChannel s c.params.hbmSet coll page 1 avoid with
        | some ch => setColl s coll (updPage c page fun p => { p with incoming := some (.hbm ch) })
        | none => s
      else s)

/-- Background reads wait: they are paused by the power policy or on a channel whose package is at 80 °C, and they run behind
every query read of their channel (R184, R203, R365, R366). -/
def refillPaused (s : State) (coll page : Nat) : Bool :=
  s.power.pkgPaused ||
    match s.flash.units.find? fun u => u.coll == coll && u.page == page with
    | some u => (getFlashCh s u.chan).hot80 || !channelFree s u.chan
    | none => false

/-- Refills run after every lost second copy is made, in stage order, collections in ascending id (R191). -/
def nextRefill (s : State) : Option (Nat × Nat) :=
  let lost := s.colls.any fun (_, c) => c.pages.any fun p => p.copyLost
  let want (k : PageKind) (c : Coll) : List Nat :=
    sortNat ((c.pages.filter fun p => p.kind == k && p.refilling && p.incoming.isNone && decide (p.lostAt < beadNow s)).map Page.num)
  let all := (s.colls.map fun (id, c) => ((want .sketches c ++ want .codes c).map fun n => (id, n))).flatten
  if lost then none else all.head?

/-- PAGE_REFILL: the next clean page is read from flash into its place (R191 step 4). -/
def execPageRefill (coll page : Nat) (s : State) : Res :=
  .next (if isUp s && nextRefill s == some (coll, page) && !refillPaused s coll page then
    updColl (countBlockRead s coll page) coll fun c =>
      match placeLoc s coll c page with
      | some l => updPage c page fun p => { p with incoming := some l }
      | none => updPage c page fun p => { p with refilling := false }
  else s)

/-- Where a full vector or payload row page is cached: HBM, and for a row near memory first (R168, R175). -/
def cacheLoc (s : State) (coll : Nat) (c : Coll) (k : PageKind) (page : Nat) : Option Loc :=
  let room (hbm : Bool) : Bool := decide (usedOf hbm c < placedOf hbm c)
  match (if k == .rows && room false then nearBank s coll c page else none) with
  | some b => some (.near b)
  | none => if room true then (hbmChannel s c.params.hbmSet coll page 0 none).map Loc.hbm else none

/-- Pages that an installation may displace, first choice first: cached vectors and rows by last use, and for a sketch list then
code lists (R175). -/
def victims (c : Coll) (k : PageKind) : List Page :=
  let lists := c.pages.filter fun p => p.kind == .codes && p.evictAt.isNone && p.incoming.isNone && !p.locs.isEmpty
  cachedPages c ++ if k == .sketches then sortBy (fun a b => a.lastUse < b.lastUse || (a.lastUse == b.lastUse && a.num ≤ b.num)) lists else []

/-- Where a page goes once another has left its tier: a channel of HBM, or the bank of R177, which vectors do not take. -/
def placeFor (s : State) (coll : Nat) (c : Coll) (k : PageKind) (page : Nat) (v : Page) : Option Loc :=
  if v.onHbm then (hbmChannel s c.params.hbmSet coll page 0 none).map Loc.hbm
  else if k == .vectors then none
  else match nearBank s coll c page with
    | some b => some (.near b)
    | none => v.locs.find? fun l => match l with
      | .near b => bankOk s b && nearHome s coll c page == some b
      | .hbm _ => false

/-- A second read of a whole page completes: the copy resolves at the next edge. A full share gives up its least recently used
page of the same tier (R171, R175). -/
def installPage (s : State) (coll page : Nat) (c : Coll) : State :=
  let b := beadNow s
  let cached (k : PageKind) (l : Loc) : Page := ⟨page, k, 0, [], some l, false, false, false, 0, none, b⟩
  let put (d : Coll) (k : PageKind) (l : Loc) : Coll := match findPage d page with
    | some _ => updPage d page fun p => { p with incoming := some l, lastUse := b }
    | none => { d with pages := d.pages ++ [cached k l] }
  let kind := match findPage c page with
    | some p => if p.kind.isList && p.locs.isEmpty && p.incoming.isNone then some p.kind else none
    | none => (c.params.kindOf page).filter fun k => k == PageKind.vectors || k == PageKind.rows
  match kind with
  | none => s
  | some k => match (if k.isList then placeLoc s coll c page else cacheLoc s coll c k page) with
    | some l => countBlockRead (setColl s coll (put c k l)) coll page
    | none => match (victims c k).findSome? fun v => (placeFor s coll c k page v).map fun l => (v, l) with
      | some (v, l) => countBlockRead (setColl s coll (put (updPage c v.num fun p => { p with evictAt := some (b + 1) }) k l)) coll page
      | none => s

def execInstallationComplete (coll page : Nat) (s : State) : Res :=
  .next (match getColl s coll with
  | none => s
  | some c => if isUp s && c.attached && !refillPaused s coll page then installPage s coll page c else s)

/-! ## Flash channels and prongs -/

def startIfRetrain (s : State) (c : Nat) : State :=
  if (getFlashCh s c).state = 0 then updFlashCh s c fun x => { x with state := 1 } else s

def execFlashChRetrain (c : Nat) (s : State) : Res :=
  .next (if isUp s && !unitStops s 2 then startIfRetrain s c else s)

def execFlashIfRetrainStart (c : Nat) (s : State) : Res := .next (if isUp s then startIfRetrain s c else s)

/-- A retrain passes, or fails into BYPASS (R208). -/
def execFlashIfRetrainEnd (c : Nat) (pass : Bool) (s : State) : Res :=
  .next (if isUp s && (getFlashCh s c).state = 1 then
    if pass then updFlashCh s c fun x => { x with state := 0 } else bypassCore s c
  else s)

/-- 200 µs of stall: a failed retrain (R208). -/
def execFlashIfRetrainTimeout (c : Nat) (s : State) : Res :=
  .next (if isUp s && (getFlashCh s c).state = 1 then bypassCore s c else s)

/-- FLASH_SCRUB: ignored in BYPASS and where the channel is in SCRUB already (R390). -/
def execFlashScrub (c : Nat) (s : State) : Res :=
  .next (if isUp s && !unitStops s 2 && (getFlashCh s c).state = 0 then
    let s1 := updFlashCh s c fun x => { x with state := 2 }
    s1.modFlash fun f => { f with blocks := f.blocks.map fun b => if b.chan = c then { b with seen := false } else b }
  else s)

def execFlashBypass (c : Nat) (s : State) : Res :=
  .next (if isUp s && !unitStops s 2 && (getFlashCh s c).state != 3 then bypassCore s c else s)

/-- FLASH_RETURN: trains, then ONLINE at the trained rate from the next edge; training that fails leaves BYPASS (R23, R194,
R353). -/
def execFlashReturn (c : Nat) (rate : BitVec 2) (s : State) : Res :=
  .next (if isUp s && !unitStops s 2 && (getFlashCh s c).state = 3 && rate != 3 then
    dropPins (updFlashCh s c fun x => { x with ret := true, rate := rate }) 72 (bit64 8)
  else s)

def execFlashProngTest (c : Nat) (s : State) : Res :=
  .next (if isUp s && !unitStops s 0 then updFlashCh s c fun x => { x with prongTest := true } else s)

/-- The prong test passes: the fence clears at the next edge; it fails: the prong is fenced (R331). -/
def prongTested (s : State) (c : Nat) (pass : Bool) : State :=
  if pass then
    let s1 := updFlashCh s c fun x => { x with prongTest := false, prongClear := x.prongFenced }
    if s1.flash.chans.any fun x => x.prongFenced && !x.prongClear then s1 else dropPins s1 72 (bit64 9)
  else
    let s1 := updFlashCh s c fun x => { x with prongTest := false, prongClear := false, prongFenced := true }
    raiseSrc s1 72 9 (.prong c)

def execProngTestDone (c : Nat) (pass : Bool) (s : State) : Res :=
  .next (if isUp s && (getFlashCh s c).prongTest then prongTested s c pass else s)

/-! ## Fabric links -/

/-- FABRIC_LINK_RETRAIN: retrain and rediscover (R297); no effect while one is in progress (R384). -/
def execFabricLinkRetrain (l : Nat) (s : State) : Res :=
  .next (if isUp s && linkEnabled s l && !(getLink s l).retraining then
    let s1 := if linkUp s l then linkDownCore s l else s
    updLink s1 l fun k => { k.quiet linkTraining 0 with retrain := true }
  else s)

/-- FABRIC_LOOPBACK: a test pattern, then DOWN until RETRAIN; the link leaves service first (R353); no effect while one is in
progress (R384). -/
def execFabricLoopback (l : Nat) (s : State) : Res :=
  .next (if isUp s && linkEnabled s l && (getLink s l).state != linkLoop then
    let s1 := if linkUp s l then linkDown s l else s
    updLink s1 l fun k => k.quiet linkLoop 0
  else s)

def execFabricSetDown (l : Nat) (s : State) : Res :=
  .next (if isUp s && linkEnabled s l && (getLink s l).state != linkIsDown then linkDown s l else s)

/-- HOSTIF_LOOPBACK: the port leaves service for a loopback test in the OSFP module (R353). -/
def execHostifLoopback (p : Nat) (s : State) : Res :=
  .next (if isUp s && p < 2 && (getPort s p).state != 4 then
    let s1 := if (getPort s p).pcs then portDown s p else s
    updPort s1 p fun r => { r with state := 4 }
  else s)

/-! ## Management cores (R352) -/

/-- CORE_WATCHDOG_EXPIRY: one watchdog raises its source; both within 10 ms end in MODULE_RESET whatever the table. -/
def execCoreWatchdogExpiry (a b : Bool) (s : State) : Res :=
  .next (if !isUp s then s
  else if a && b then
    let m := bit64 16 ||| bit64 17
    let again := [16, 17].countP fun i => (getCol s 72).status.getLsbD i
    let s1 := updCol (bumpN s (repeatCnt 72) again) 72 fun c => c.latch m (noAccess 72 16) s.time.now
    s1.modPower fun p => { p with resetDue := true, errReset := true }
  else if a then raiseSrc s 72 16 (.core true)
  else if b then raiseSrc s 72 17 (.core false)
  else s)

/-- CORE_READY: a restarted core reports ready; it returns at the next edge, and its pins fall (R352, R408). -/
def execCoreReady (isA : Bool) (s : State) : Res :=
  .next (if isUp s && !(if isA then s.cores.aIn else s.cores.bIn) then
    let s1 := s.modCores fun c => if isA then { c with aReady := true } else { c with bReady := true }
    dropPins s1 72 (if isA then bit64 16 ||| bit64 18 else bit64 17 ||| bit64 19)
  else s)

/-- CORE_STOP: refused while the other core is out (R353). -/
def stopCore (s : State) (isA : Bool) : State :=
  if s.cores.aIn && s.cores.bIn then coreOut s isA else s

def execCoreStop (isA : Bool) (s : State) : Res := .next (if isUp s then stopCore s isA else s)

/-- Cores that reported ready return to their duty: at an edge, or an interval before fabric time (R239, R352). -/
def coresReturn (c : Cores) : Cores :=
  { c with aIn := c.aIn || c.aReady, bIn := c.bIn || c.bReady, aReady := false, bReady := false }

/-! ## Block resets (R346) -/

/-- Facets fenced by a block reset of their die are released at the next edge when it passes. -/
def dieReleased (s : State) (d : Nat) : State :=
  (List.range 17).foldl (fun t i =>
    updFacet t (17 * d + i) fun x => if x.byDie then { x with release := true, byDie := false } else x) s

def dieInReset (s : State) (d : Nat) : Bool := (List.range 17).any fun i => (getFacet s (17 * d + i)).byDie

/-- The source of two that is set, to be raised again by a failed self-test. -/
def setOf (s : State) (col a b : Nat) : Nat := if (getCol s col).status.getLsbD a then a else b

/-- BLOCK_RESET_COMPLETE: a unit that passes its self-test is released at the next edge; one that fails stays fenced and
raises BIST_FAIL, or its source again (R346). -/
def execBlockResetComplete (u : UnitName) (pass : Bool) (s : State) : Res :=
  .next (if !isUp s then s
  else match u with
  | .facet f =>
    if (getFacet s f).blockRun then
      let s1 := facetTested s f pass
      if pass then updFacet s1 f fun x => { x with release := true } else s1
    else s
  | .dieClasp d =>
    if !dieInReset s d then s
    else if pass then dropPins (dieReleased s d) (68 + d) (bit64 21) else raiseSrc s (68 + d) 21 u
  | .dieCtrl d =>
    if !dieInReset s d then s
    else if pass then dropPins (dieReleased s d) (68 + d) (bit64 23) else raiseSrc s (68 + d) 23 u
  | .moduleClasp =>
    if !s.search.claspOut then s
    else if pass then dropPins (s.modSearch fun r => { r with claspRet := true }) 72 (bit64 26) else raiseSrc s 72 26 u
  | .core isA =>
    if (if isA then s.cores.aIn else s.cores.bIn) then s
    else if pass then
      let s1 := s.modCores fun c => if isA then { c with aReady := true } else { c with bReady := true }
      dropPins s1 72 (if isA then bit64 16 ||| bit64 18 else bit64 17 ||| bit64 19)
    else raiseSrc s 72 (if isA then setOf s 72 16 18 else setOf s 72 17 19) u
  | .scanner b =>
    if (getBank s b).state = 0 then s
    else if pass then setBank (bankTested s b true) b { getBank s b with state := 1, mbistPass := true, ret := true }
    else raiseSrc (bankTested s b false) (68 + b / 512) 20 u
  | .hbm ch =>
    if !chanOut s ch then s
    else if pass then dropHbmPins (updChan s ch fun c => { c with state := 2, mbistPass := true, ret := true })
    else raiseSrc s 72 (setOf s 72 5 4) u
  | .flash c =>
    if (getFlashCh s c).state != 3 then s
    else if pass then dropPins (updFlashCh s c fun x => { x with ret := true }) 72 (bit64 8) else raiseSrc s 72 8 u
  | .prong c => if (getFlashCh s c).prongFenced then prongTested s c pass else s
  | .link l =>
    if (getLink s l).state != linkIsDown then s
    else if pass then updLink s l fun k => k.quiet linkTraining 0 else raiseSrc s 72 11 u
  | .port p => if pass then s else raiseSrc s 72 15 (.port p)
  | .nothing => s)

/-! ## Counters (R350, R351, R387) -/

/-- A counter space by the address of its SNAP register: first and last counter address, and the base from which CLEAR
takes its offset (R387). -/
def spaceOf (a : Nat) : Option (Nat × Nat × Nat) :=
  if a = 0x63000 then some (0x60000, 0x63030, 0x60000)
  else if a = 0x70100 then some (0x70110, 0x70138, 0x70000)
  else if a = 0x81008 then some (0x80000, 0x81040, 0x80000)
  else if a = 0xA8000 then some (0xA0000, 0xA7FFF, 0xA0000)
  else if a = 0xB4000 then some (0xB4010, 0xB4018, 0xB0000)
  else if a = 0xD0010 then some (0xC0000, 0xCFFFF, 0xC0000)
  else if a = 0x200000 then some (0x200010, 0x200040, 0x200000)
  else if a = 0x220000 then some (0x220010, 0x220020, 0x220000)
  else if a = 0x210100 then some (0x210110, 0x210140, 0x210100)
  else if a = 0x230000 then some (0x230010, 0x230018, 0x230000)
  else match (List.range 73).find? fun c => a == fcolBase c + 0x30 with
    | some c => some (repeatCnt c, repeatCnt c, fcolBase c)
    | none => ((List.range 68).find? fun f => a == facetBase f + 0x100).map fun f => (adcHalfCnt f, adcFp16Cnt f, facetBase f)

def inRange (lo hi : Nat) (x : Nat × EvCounter) : Bool := lo ≤ x.1 && x.1 ≤ hi

/-- The runs held, in ascending RUN_ID: run slot r is the r-th (COUNTERS_LOSS). -/
def heldRuns (s : State) : List Run := sortBy (fun a b => a.id ≤ b.id) s.learn.runs

/-- SNAP latches every counter of its space on one cycle (R26, R350). -/
def snapSpace (s : State) (a : Nat) : State :=
  match spaceOf a with
  | none => s
  | some (lo, hi, _) =>
    let k := s.counters
    let old := k.snaps.filter fun x => !inRange lo hi x
    let snaps := (k.counts.filter (inRange lo hi)).foldl (fun t x => Tab.put t x.1 x.2) old
    let sats := if a = 0x210100 then k.sat else k.satSnap
    let loss := if a = 0x230000 then (heldRuns s).map fun r => (r.loss, r.lossVersion) else k.lossSnap
    { s with counters := { k with snaps := snaps, satSnap := sats, lossSnap := loss } }

/-- CLEAR sets one counter of a space, or all, to zero with SAT clear (R351). -/
def clearSpace (s : State) (a off : Nat) (all : Bool) : State :=
  match spaceOf a with
  | none => s
  | some (lo, hi, base) =>
    let k := s.counters
    let hit (x : Nat × EvCounter) : Bool := inRange lo hi x && (all || x.1 == base + off)
    let sats := if all && a = 0x210100 then [] else k.sat
    { s with counters := { k with counts := k.counts.filter fun x => !hit x, sat := sats } }

/-- SNAP of the space whose SNAP register is at `space`. -/
def execSnap (space : Nat) (s : State) : Res := .next (if isUp s then snapSpace s space else s)

/-- CLEAR of the space whose SNAP register is at `space`. -/
def execClear (space off : Nat) (all : Bool) (s : State) : Res :=
  .next (if isUp s then clearSpace s space off all else s)

/-- SETTING_SPARE_HOLD: takes effect at the next edge, ahead of any substitution of that edge (R335). -/
def execSettingSpareHold (hold : BitVec 4) (s : State) : Res :=
  .next (if isUp s then s.modLoader fun l => { l with holdNext := some hold } else s)

end Sys2Proof.Machine
end

