-- ==== Sys2Proof/Machine/Locket.lean ====
section
/-! DEFINITION. Locket tokens, verification and the debug lock (chapter 17), boundary scan (R355) and the FRU memory
(R396). -/

namespace Sys2Proof.Machine

/-- The root digest of a key slot. -/
def rootDigest (f : Fuses) (slot : Nat) : BitVec 256 := if slot = 0 then f.root0 else f.root1

/-- Verification of a signed object: 0 passes, 1 signature invalid, 2 key revoked (R369). -/
def verifySigned (s : State) (slot : Nat) (key : List Byte) (msg sig : List Byte) : Nat :=
  let f := s.locket.fuses
  let d := rootDigest f slot
  if 1 < slot || d = 0 || Config.sm3 key != d then 1
  else if f.revoked.getLsbD slot then 2
  else if Config.sm2Verify (BitVec.ofNat 512 (beNat key)) msg (BitVec.ofNat 512 (beNat sig)) then 0
  else 1

/-- The debug lock is open (R374, R375). -/
def debugLockOpen (s : State) : Bool :=
  s.locket.debugOpened || (s.locket.fuses.debugLock == 0 && s.locket.lifecycle == 0)

/-- DEBUG_LOCK 0 to 2 from its fuse code (R367). -/
def debugLockValue (f : Fuses) : Nat := if f.debugLock = 0 then 0 else if f.debugLock = 1 then 1 else 2

/-- Burn fuses: the primary and its redundant copy (R367, R373). -/
def burn (s : State) (f : Fuses → Fuses) : State :=
  s.modLocket fun k => { k with fuses := f k.fuses, copy := f k.copy }

def tokenBytes (s : State) : List Byte := (s.locket.token.map fun w => leBytes 8 w.toNat).flatten

/-- Whether a token's action is permitted (R368, R372). -/
def tokenPermitted (s : State) (action arg slot : Nat) : Bool :=
  let f := s.locket.fuses
  let live := s.locket.lifecycle == 1 || s.locket.lifecycle == 3
  match action with
  | 1 => arg ≤ 1 && arg != slot
  | 2 => arg < 16 && lifecycleOk (BitVec.ofNat 4 arg) && f.lifecycle.toNat < arg
  | 3 => arg == 0 && debugLockValue f == 1 && live
  | 4 => (arg == 1 || arg == 2) && debugLockValue f < arg && live
  | _ => false

/-- The fuses that a permitted token burns (R367, R372). -/
def tokenBurn (action arg : Nat) (f : Fuses) : Fuses :=
  match action with
  | 1 => { f with revoked := f.revoked ||| BitVec.ofNat 2 (2 ^ arg) }
  | 2 => { f with lifecycle := f.lifecycle ||| BitVec.ofNat 4 arg }
  | 4 => { f with debugLock := f.debugLock ||| (if arg = 1 then 1 else 3) }
  | _ => f

/-- Fuses of which only some of the asked bits have burned, chosen by the bits of `m`. -/
def Fuses.partly (old new : Fuses) (m : Nat) : Fuses :=
  { old with revoked := old.revoked ||| (new.revoked &&& BitVec.ofNat 2 m)
             lifecycle := old.lifecycle ||| (new.lifecycle &&& BitVec.ofNat 4 (m / 4))
             debugLock := old.debugLock ||| (new.debugLock &&& BitVec.ofNat 2 (m / 64)) }

/-- Carry a permitted token out (R372, R373, R375). -/
def tokenAct (s : State) (action arg : Nat) : State :=
  if action = 3 then extendMeas (s.modLocket fun k => { k with debugOpened := true }) 0 (Config.sm3 (tokenBytes s))
  else burn s (tokenBurn action arg)

/-- The readback of burned fuses differs: LOCKET_ERR. Which of the bits have burned is free (R373). -/
def burnFails (s : State) (action arg : Nat) : State :=
  let (m, s1) := drawNat s
  raiseSrc (burn s1 fun f => f.partly (tokenBurn action arg f) m) 72 23 .nothing

/-- RESULT of a token (LOCKET_TOKEN_STATUS). A malformed token reads 5. DESIGN CHOICE, log entry 15. -/
def tokenResult (s : State) : Nat :=
  let b := tokenBytes s
  let slot := fieldB b 5 1
  let v := verifySigned s slot (sliceB b 64 64) (b.take 128) (sliceB b 128 64)
  if v = 1 then 2
  else if v = 2 then 3
  else if sliceB b 8 16 != leBytes 16 s.locket.deviceId.toNat || sliceB b 24 32 != leBytes 32 s.locket.nonce.toNat then 4
  else if fieldB b 0 4 != 0x4B544E58 || fieldB b 7 1 != 0 || fieldB b 56 8 != 0 then 5
  else if tokenPermitted s (fieldB b 4 1) (fieldB b 6 1) slot then 1
  else 5

/-- Carry a token out where it is permitted and answer RESULT: whether the readback of a burn differs is free. -/
def tokenDone (s : State) (action arg : Nat) : Nat × State :=
  if tokenResult s != 1 then (tokenResult s, s)
  else if action = 3 then (1, tokenAct s action arg)
  else
    let (bad, s1) := drawBool s
    if bad then (6, burnFails s1 action arg) else (1, tokenAct s1 action arg)

/-- LOCKET_TOKEN_GO: verify and carry out the token in LOCKET_TOKEN; a fresh nonce follows in every case (R372). -/
def tokenGo (s : State) : State :=
  let b := tokenBytes s
  let action := fieldB b 4 1
  let (r, s1) := tokenDone s action (fieldB b 6 1)
  let (n, s2) := drawNat s1
  s2.modLocket fun k => { k with tokenResult := BitVec.ofNat 4 r, tokenAction := BitVec.ofNat 4 action,
                                 nonce := Config.random256 n }

/-- GO with a token of the given action in LOCKET_TOKEN; in SCRAPPED nothing but IDENTIFY is answered (R367). -/
def tokenRow (s : State) (action : Nat) : State :=
  if isUp s && s.locket.lifecycle != 7 && fieldB (tokenBytes s) 4 1 == action then tokenGo s else s

def execRevokeSlot (s : State) : Res := .next (tokenRow s 1)
def execAdvanceLifecycle (s : State) : Res := .next (tokenRow s 2)
def execDebugOpen (s : State) : Res := .next (tokenRow s 3)
def execSetDebugLock (s : State) : Res := .next (tokenRow s 4)

/-! ## Boundary scan and FRU -/

/-- IDENT_IDCODE: bit 0 set, manufacturer 0x4DB, part code 0x7700 + PART, version 1. -/
def idcodeOf (f : Fuses) : BitVec 32 := BitVec.ofNat 32 (1 + 2 * 0x4DB + 4096 * (0x7700 + f.part.toNat) + 2 ^ 28)

/-- The instruction that takes effect: pin drivers act only while RESET_N is held low, wrappers only with the debug lock
open; otherwise BYPASS (R355, R398). -/
def scanEffective (s : State) : ScanInstr → ScanInstr
  | .extest => if s.power.phase == .inReset then .extest else .bypass
  | .extestPulse => if s.power.phase == .inReset then .extestPulse else .bypass
  | .extestTrain => if s.power.phase == .inReset then .extestTrain else .bypass
  | .wrapper => if debugLockOpen s then .wrapper else .bypass
  | i => i

def execBoundaryScanInstruction (i : ScanInstr) (s : State) : Res :=
  let e := scanEffective s i
  let s1 := { s with board := { s.board with scan := e } }
  .next (if e = .idcode then emit s1 (.scan (idcodeOf s.locket.fuses)) else s1)

/-- FRU_ACCESS on the I2C pair: a byte read, or a byte written outside the write-protected area (R396). -/
def execFruAccess (op : FruOp) (s : State) : Res :=
  .next (match op with
  | .read a => emit s (.fru (s.board.fru.getD a (Config.fruByte a)))
  | .write a v =>
    if Config.fruProtected a then s else { s with board := { s.board with fru := s.board.fru.put a v } })

end Sys2Proof.Machine
end

