-- ==== Sys2Proof/Machine/Regs.lean ====
section
/-! DEFINITION. The management register map, read side (chapter 18): which addresses exist, which are debug registers,
and what each register reads. -/

namespace Sys2Proof.Machine

/-- Register j of a value held as bytes (R382). -/
def byteReg (bs : List Byte) (j : Nat) : Nat := fieldB bs (8 * j) 8

/-- A value of at most `n` bits placed at bit `lo`. -/
def fld (v lo : Nat) : Nat := v * 2 ^ lo
def flag (b : Bool) (i : Nat) : Nat := if b then 2 ^ i else 0

/-- An event counter as its snapshot reads (R387). -/
def counterReg (c : EvCounter) : Nat := c.val + flag c.sat 63

/-- Signed values in n bits. -/
def signedN (n : Nat) (v : Int) : Nat := (v % (2 ^ n : Int)).toNat

/-- READY of IDENTIFY (R299, R336). -/
def readyBits (s : State) : Nat :=
  flag s.loader.firmware 0 + flag s.loader.setting.isSome 1 + flag s.time.held 2 + flag s.loader.discovered 3

/-- Queue within QUEUE_PARTITION, or administrative (QUEUE_INFO.PERMITTED). -/
def queuePermitted (s : State) (q : Nat) : Bool :=
  q < 16 || match s.loader.setting with
    | some t => t.queues.any fun r => r.first ≤ q && q ≤ r.last
    | none => false

/-! ## Counters -/

/-- Addresses of event counters. -/
def isCounter (a : Nat) : Bool :=
  let aligned := a % 8 == 0
  let port := 0x60000 ≤ a && a < 0x63000 && 0x100 ≤ a % 0x1000 && a % 0x1000 ≤ 0x118
  let link := 0x80000 ≤ a && a < 0x80C00 && 0x10 ≤ a % 0x100 && a % 0x100 ≤ 0x20
  let stack := 0xA0000 ≤ a && a < 0xA8000 && 0x800 ≤ a % 0x1000 && a % 0x1000 ≤ 0x818
  let flashc := 0xC0000 ≤ a && a < 0xD0000 && 0x100 ≤ a % 0x400 && a % 0x400 ≤ 0x118
  let fcol := (0x50000 ≤ a && a < 0x55000 && a % 0x1000 == 0x40)
  let facet := ((0x100000 ≤ a && a < 0x200000) || (0x240000 ≤ a && a < 0x250000)) &&
    (a % 0x4000 == 0x110 || a % 0x4000 == 0x118 || a % 0x4000 == 0x3040)
  let fixed := (0x63010 ≤ a && a ≤ 0x63030) || (0x70110 ≤ a && a ≤ 0x70138) || (0x81018 ≤ a && a ≤ 0x81040) ||
    a == 0xB4010 || a == 0xB4018 || (0x200010 ≤ a && a ≤ 0x200040) || (0x220010 ≤ a && a ≤ 0x220020) ||
    (0x210110 ≤ a && a ≤ 0x210140) || a == 0x230010 || a == 0x230018
  aligned && (port || link || stack || flashc || fcol || facet || fixed)

/-- SNAP and CLEAR registers: they read 0. -/
def isSnapOrClear (a : Nat) : Bool := (spaceOf a).isSome || (8 ≤ a && (spaceOf (a - 8)).isSome)

/-! ## Blocks -/

def readIdent (s : State) (o : Nat) : Option Nat :=
  let k := s.locket
  let id := leBytes 16 k.deviceId.toNat
  match o with
  | 0x00 => some (k.copy.part.toNat + fld k.lifecycle.toNat 4 + fld 1 8 + fld s.loader.fwVersion.toNat 32)
  | 0x08 => some (idcodeOf k.fuses).toNat
  | 0x10 => some (byteReg id 0)
  | 0x18 => some (byteReg id 1)
  | 0x20 => some (readyBits s + fld s.fabric.addr.toNat 4 + flag s.fabric.assigned 31 + fld s.power.pstate.toNat 32)
  | _ => none

def readLocket (s : State) (o : Nat) : Option Nat :=
  let k := s.locket
  let f := k.fuses
  if o = 0 then
    some (k.lifecycle.toNat + fld (debugLockValue f) 4 + flag k.debugOpened 6 + fld f.revoked.toNat 7 +
      flag (f.root0 == 0) 9 + flag (f.root1 == 0) 10)
  else if 0x40 ≤ o && o ≤ 0x58 then some (byteReg (leBytes 32 k.nonce.toNat) ((o - 0x40) / 8))
  else if 0x100 ≤ o && o ≤ 0x1B8 then some (k.token.getD ((o - 0x100) / 8) 0).toNat
  else if o = 0x1C0 then some 0
  else if o = 0x1C8 then some (k.tokenResult.toNat + fld k.tokenAction.toNat 8)
  else if 0x200 ≤ o && o ≤ 0x2F8 then
    let j := (o - 0x200) / 8
    some (byteReg (digestBytes (k.meas.getD (j / 4) 0)) (j % 4))
  else none

/-- SPARE: bit per die. -/
def spareBits (p : Nat → Bool) : Nat := sumN ((List.range 4).map fun d => flag (p (17 * d + 16)) d)

def readSetting (s : State) (o : Nat) : Option Nat :=
  let l := s.loader
  let serial := match l.setting with | some t => t.serial.toNat | none => 0
  if o = 0 then some (flag l.setting.isSome 0 + flag (l.applying || l.part.isSome) 1 + fld (min l.partialCnt 255) 8)
  else if o = 8 then some serial
  else if 0x10 ≤ o && o ≤ 0x28 then some (byteReg (digestBytes l.digest) ((o - 0x10) / 8))
  else if 0x100 ≤ o && o ≤ 0x2F8 then
    let i := (o - 0x100) / 8
    let p := physOf s i
    let x := getFacet s p
    let g := match l.groups.find? fun r => hasQuad r (quadOf i) with | some r => r.id | none => 0xFFFF
    if p = 0xFF then some (0xFF + fld g 16) else some (p + flag x.fenced 8 + fld x.reason 9 + fld g 16)
  else if o = 0x300 then
    let used := spareBits fun p => logicalOf s p != 0xFF
    let ready := spareBits fun p => logicalOf s p == 0xFF && !(getFacet s p).fenced && (getFacet s p).bistPass
    some (used + fld ready 4 + fld (match l.holdNext with | some h => h.toNat | none => l.hold.toNat) 8)
  else none

def readTime (s : State) (o : Nat) : Option Nat :=
  let t := s.time
  match o with
  | 0x00 => some (t.now % 2 ^ 64)
  | 0x08 => some (beadNow s % 2 ^ 64)
  | 0x10 => some (t.periodUs % 128 + fld (t.source % 4) 8 + fld (t.sourceArg % 16) 10)
  | 0x18 => some (flag t.held 0 + flag t.holdover 1 + flag t.skew 2)
  | 0x20 => some (signedN 32 t.srcOffset + fld (min t.nbrMax 65535) 32)
  | _ => none

def readPower (s : State) (o : Nat) : Option Nat :=
  let p := s.power
  match o with
  | 0x00 => some (p.effective + fld (inputStep p) 3 + fld (min p.inputMv 65535) 16)
  | 0x08 => some (sumN ((p.rails.zipIdx).map fun (v, i) => fld v (3 * i)))
  | 0x10 => some (p.pkgMw % 2 ^ 32)
  | 0x18 => some (signedN 16 p.hubTemp + flag p.hubHot 16)
  | 0x20 => some (p.pstate.toNat + fld p.target.toNat 2 + flag p.preparing 4)
  | 0x28 => some (flag s.cores.aIn 2 + flag s.cores.bIn 3)
  | 0x30 => some (min p.holdup 65535)
  | _ => none

def readCollector (s : State) (c o : Nat) : Option Nat :=
  let k := getCol s c
  match o with
  | 0x00 => some k.status.toNat
  | 0x08 => some 0
  | 0x10 => some (if k.mode then 1 else 0)
  | 0x18 => some (k.source.toNat + flag k.valid 6 + flag k.overflow 7 + fld k.access.toNat 8 + fld k.master.toNat 16)
  | 0x20 => some k.capAddr.toNat
  | 0x28 => some k.capTime.toNat
  | _ => none

def readPort (s : State) (p o : Nat) : Option Nat :=
  let r := getPort s p
  match o with
  | 0x00 => some (r.rate.toNat + flag r.pfc 2 + fld r.maxIp.toNat 3 + fld r.vlanId.toNat 17 + flag r.vlanEn 29 +
      fld r.pcpMgmt.toNat 30 + fld r.pcpData.toNat 33)
  | 0x08 => some r.state
  | 0x10 => some r.ipv4.toNat
  | 0x18 => some (byteReg (beBytes 16 r.ipv6.toNat) 0)
  | 0x20 => some (byteReg (beBytes 16 r.ipv6.toNat) 1)
  | 0x28 => some r.ipv6ctl.toNat
  | 0x30 => some (flag (r.state == 4) 0)
  | _ => none

/-- The module-wide area of HOSTIF: the management address list (R243, R389). -/
def readHostWide (s : State) (o : Nat) : Option Nat :=
  if 0x100 ≤ o && o < 0x280 then
    let (a, v) := s.host.mgmt.getD ((o - 0x100) / 0x18) (0, false)
    match (o - 0x100) % 0x18 with
    | 0 => some (byteReg (beBytes 16 a.toNat) 0)
    | 8 => some (byteReg (beBytes 16 a.toNat) 1)
    | _ => some (flag v 63)
  else none

def readQueue (s : State) (sel o : Nat) : Option Nat :=
  let q := (s.queues.selQueue.getD sel 0).toNat % 32768
  let u := s.queues.queues.get q
  let tags := match u with | some u => u.tags.toNat | none => 0
  match o with
  | 0x00 => some (s.queues.selQueue.getD sel 0).toNat
  | 0x08 =>
    let conn := match u with | some u => u.conn | none => none
    let orph := match u with | some u => u.orphaned | none => false
    some (flag conn.isSome 0 + flag orph 1 + flag (queuePermitted s q) 2 + fld (conn.getD 0) 16 + fld (popcountN 32 tags) 32)
  | 0x10 => some tags
  | _ => none

def readLink (s : State) (l o : Nat) : Option Nat :=
  let k := getLink s l
  match o with
  | 0x00 => some (k.state + fld k.cause 4 + fld k.farAddr.toNat 8 + fld k.farLink.toNat 28)
  | 0x08 => some (flag k.retraining 0 + flag (k.state == linkLoop) 1)
  | _ => none

def readFabricWide (s : State) (o : Nat) : Option Nat :=
  match o with
  | 0x00 => some (s.fabric.addr.toNat + flag s.fabric.assigned 31)
  | 0x48 => some (s.fabric.faults.length % 512)
  | _ => none

def readTier (s : State) (sel o : Nat) : Option Nat :=
  let id := (s.queues.selTier.getD sel 0).toNat % 4096
  if o = 0 then some id
  else if o = 8 then
    match getColl s id with
    | none => some 0
    | some c =>
      let refilling := c.pages.any fun p => p.refilling
      some ((if c.attached then 2 else 1) + fld c.resident 2 + flag refilling 4 + flag c.withdrawn 5 + flag c.params.near 6 +
        fld (c.params.nearDie % 4) 7)
  else if o = 0x10 then
    match getColl s id with
    | none => some 0
    | some c => some (if c.attached then c.pinnedMib % 2 ^ 32 + fld (c.hbmPlacedNow % 2 ^ 32) 32 else 0)
  else if o = 0x100 then some (setFree s 0 % 2 ^ 32)
  else if 0x108 ≤ o && o ≤ 0x120 then some (setFree s (1 + (o - 0x108) / 8) % 2 ^ 32)
  else if o = 0x128 then some (cacheFree s % 2 ^ 32)
  else none

def readStack (s : State) (k o : Nat) : Option Nat :=
  let st := s.hbm.hbmStacks.getD k ⟨0, 0, false⟩
  if o = 0 then some (signedN 16 st.temp + fld st.step 16)
  else if 0x100 ≤ o && o < 0x200 then
    let c := getChan s (32 * k + (o - 0x100) / 8)
    some (c.state + flag c.mbistPass 2)
  else if 0x200 ≤ o && o < 0x300 then
    some (flag (!unitStops s 1 && (getChan s (32 * k + (o - 0x200) / 8)).state == 1) 0)
  else if 0x300 ≤ o && o < 0x400 then
    let c := getChan s (32 * k + (o - 0x300) / 8)
    some (if unitStops s 1 then 0 else flag (c.state == 3) 0 + flag c.ret 1)
  else none

def readNear (s : State) (o : Nat) : Option Nat :=
  if o < 0x4000 then
    let b := getBank s (o / 8)
    some (b.state + (if unitStops s 0 then 0 else flag (b.state == 2) 2 + flag b.ret 3))
  else if o = 0x4100 then some s.near.dbgAddr.toNat
  else if o = 0x4108 then some (leNat (s.near.bytes.readBytes s.near.dbgAddr.toNat 8))
  else none

/-- Mean and largest erase count of a channel's blocks (FLASH_CH_WEAR). -/
def eraseStats (s : State) (c : Nat) : Nat × Nat :=
  let es := (s.flash.blocks.filter fun b => b.chan == c).map Block.erase
  (if es.isEmpty then 0 else sumN es / es.length, es.foldl max 0)

def readFlash (s : State) (c o : Nat) : Option Nat :=
  let k := getFlashCh s c
  match o with
  | 0x000 => some (k.state + fld k.rate.toNat 4 + flag k.prongFenced 8)
  | 0x008 => some (flag (!unitStops s 2 && k.state == 1) 0)
  | 0x010 => some (flag (!unitStops s 2 && k.state == 2) 0 + flag (!unitStops s 0 && k.prongTest) 3)
  | 0x018 =>
    let (mean, top) := eraseStats s c
    some (min mean 65535 + fld s.flash.rated.toNat 16 + fld (min top 65535) 32)
  | _ => none

def readFlashWide (s : State) (o : Nat) : Option Nat :=
  match o with
  | 0x000 => some (flashCapacity s % 2 ^ 32 + fld (flashFree s % 2 ^ 32) 32)
  | 0x008 => some (flag s.flash.unclean 0 + flag s.flash.mapReady 1)
  | _ => none

def readFacet (s : State) (f o : Nat) : Option Nat :=
  let x := getFacet s f
  let l := logicalOf s f
  match o with
  | 0x0000 => some (flag (l != 0xFF) 0 + flag x.fenced 1 + flag x.safe 2 + flag x.bistPass 3 + fld l 8 + fld x.reason 16)
  | 0x0008 => some (if unitStops s 0 then 0 else flag x.bistRun 1 + flag x.release 2)
  | 0x0010 => some (signedN 16 x.temp)
  | 0x2000 => some x.dbgAddr.toNat
  | 0x2008 => some (leNat (s.facetRam.readBytes (f * 2 ^ 24 + x.dbgAddr.toNat) 8))
  | _ => none

/-- The saturation counter a LEARN_SAT_SELECT value names (R391). -/
def satSelKey (w : BitVec 64) : Nat :=
  let v := w.toNat
  satKey (bitsOf v 11 0) (bitOf v 12) (bitsOf v 28 13) (bitsOf v 36 29) (bitsOf v 52 37)

def findWindow (s : State) (w : BitVec 64) : Option Window :=
  let v := w.toNat
  s.learn.windows.find? fun x =>
    x.coll == bitsOf v 11 0 && x.run == bitOf v 12 && (x.run || x.epoch == bitsOf v 28 13) && x.tensor == bitsOf v 36 29 &&
      x.pos == bitsOf v 52 37

def readLearn (s : State) (sel o : Nat) : Option Nat :=
  let coll := (s.queues.selLearn.getD sel 0).toNat % 4096
  let sat := s.queues.selSat.getD sel 0
  let (ep, run, ver) := s.learn.views.getD coll (fld 0xFFFF 16, 0, 0)
  match o with
  | 0x00 => some (match s.learn.nextW with | some w => w | none => s.learn.driftW)
  | 0x08 => some (match s.learn.nextD with | some d => d | none => s.learn.driftD)
  | 0x10 => some coll
  | 0x18 => some ep
  | 0x20 => some run
  | 0x28 => some ver
  | 0x30 => some sat.toNat
  | 0x38 => some (counterReg (s.counters.satSnap.getD (satSelKey sat) ⟨0, false⟩))
  | 0x40 =>
    match findWindow s sat with
    | some w => some (min w.doneClipped (2 ^ 32 - 1) + fld (min w.doneEncoded (2 ^ 32 - 1)) 32)
    | none => some 0
  | 0x48 => some 0
  | _ => none

def readLoss (s : State) (o : Nat) : Option Nat :=
  if 0x100 ≤ o && o ≤ 0x118 then
    match s.counters.lossSnap[(o - 0x100) / 8]? with
    | some (l, v) => some (l.toNat + fld (v % 2 ^ 32) 32)
    | none => some 0
  else none

/-- The physical facet of an address in FACET space, with its offset. -/
def facetAddr (a : Nat) : Option (Nat × Nat) :=
  if 0x100000 ≤ a && a < 0x200000 then some ((a - 0x100000) / 0x4000, a % 0x4000)
  else if 0x240000 ≤ a && a < 0x250000 then some (64 + (a - 0x240000) / 0x4000, a % 0x4000)
  else none

/-- The state whose unit registers are read: units that the power state stops show what they held at its entry (R386). -/
def entryView (s : State) : State :=
  match s.power.frozen with
  | none => s
  | some z =>
    let s1 := if unitStops s 0 then { s.modNear (fun n => { n with banks := z.banks }) with facets := z.facets } else s
    let s2 := if unitStops s 1 then s1.modHbm fun h => { h with hbmStacks := z.hbmStacks, chans := z.hbmChans } else s1
    if unitStops s 2 then s2.modFlash fun f => { f with chans := z.flashChans } else s2

/-- What a register reads for administrative queue `sel`; none where the address is unmapped (R381). -/
def readReg (s : State) (sel a : Nat) : Option Nat :=
  if a % 8 != 0 then none
  else if isCounter a then some (counterReg (s.counters.snaps.getD a ⟨0, false⟩))
  else if isSnapOrClear a then some 0
  else if a < 0x10000 then readIdent s a
  else if a < 0x20000 then readLocket s (a - 0x10000)
  else if a < 0x30000 then readSetting s (a - 0x20000)
  else if a < 0x40000 then readTime s (a - 0x30000)
  else if a < 0x50000 then readPower s (a - 0x40000)
  else if a < 0x55000 then readCollector s (68 + (a - 0x50000) / 0x1000) (a % 0x1000)
  else if 0x60000 ≤ a && a < 0x63000 then readPort s ((a - 0x60000) / 0x1000) (a % 0x1000)
  else if 0x63000 ≤ a && a < 0x64000 then readHostWide s (a - 0x63000)
  else if 0x70000 ≤ a && a < 0x80000 then readQueue s sel (a - 0x70000)
  else if 0x80000 ≤ a && a < 0x80C00 then readLink s ((a - 0x80000) / 0x100) (a % 0x100)
  else if 0x81000 ≤ a && a < 0x82000 then readFabricWide s (a - 0x81000)
  else if 0x90000 ≤ a && a < 0xA0000 then readTier s sel (a - 0x90000)
  else if 0xA0000 ≤ a && a < 0xA8000 then readStack (entryView s) ((a - 0xA0000) / 0x1000) (a % 0x1000)
  else if 0xB0000 ≤ a && a < 0xC0000 then readNear (entryView s) (a - 0xB0000)
  else if 0xC0000 ≤ a && a < 0xD0000 then readFlash (entryView s) ((a - 0xC0000) / 0x400) (a % 0x400)
  else if 0xD0000 ≤ a && a < 0xE0000 then readFlashWide s (a - 0xD0000)
  else if 0x210000 ≤ a && a < 0x220000 then readLearn s sel (a - 0x210000)
  else if 0x230000 ≤ a && a < 0x240000 then readLoss s (a - 0x230000)
  else match facetAddr a with
    | some (f, o) => if 0x3000 ≤ o then readCollector s f (o - 0x3000) else readFacet (entryView s) f o
    | none => none

/-- Debug registers (R385). -/
def isDebugReg (a : Nat) : Bool :=
  a == 0xB4100 || a == 0xB4108 || match facetAddr a with
    | some (_, o) => o == 0x2000 || o == 0x2008
    | none => false

end Sys2Proof.Machine
end

