-- ==== Sys2Proof/Machine/Receive.lean ====
section
/-! DEFINITION. The command queue: the checks on an acknowledged capsule (R252), readiness for decision (R254 to R257,
R105, R259, R260, R308, R323) and the marks an admission or a commit leaves for the rest of its bead (R53, R256). -/

namespace Sys2Proof.Machine

/-- A command that is a write for the ordering rules: of FILTER_PUT only the final part (R279). -/
def isWriteCap (op : BitVec 8) (c : Capsule) : Bool :=
  op == 0x10 || op == 0x11 || op == 0x12 || op == 0x21 || (op == 0x20 && isFinal c.flags)

/-- Item ids a write names: its own, and for an UPSERT each bridge it names (the overlap table). -/
def writeIds (op : BitVec 8) (c : Capsule) : List (BitVec 64) :=
  let own := BitVec.ofNat 64 (areaField c.area 24 8)
  if op = 0x12 then own :: (List.range (areaField c.area 35 1)).map fun i => BitVec.ofNat 64 (fieldB c.body (8 * i) 8)
  else if op = 0x10 || op = 0x11 then [own] else []

/-- Item ids a read names; a search names none and overlaps every write of its collection. -/
def readIds (op : BitVec 8) (c : Capsule) : List (BitVec 64) :=
  if op = 0x03 then [BitVec.ofNat 64 (areaField c.area 24 8)] else []

def idsOverlap (op : BitVec 8) (rd wr : List (BitVec 64)) : Bool := isSearchOp op || rd.any wr.contains

def isWrite (c : Cmd) : Bool := isWriteCap c.ref.op c.cap
def isRead (c : Cmd) : Bool := isReadOp c.ref.op

/-- A read overlaps a write of the same queue. -/
def overlaps (r w : Cmd) : Bool :=
  r.ref.coll == w.ref.coll && idsOverlap r.ref.op (readIds r.ref.op r.cap) (writeIds w.ref.op w.cap)

/-- Earlier commands of the same queue that have not replied. -/
def earlier (s : State) (c : Cmd) : List Cmd := s.queues.cmds.filter fun x => x.ref.queue == c.ref.queue && x.arr < c.arr

/-- Order of a data queue: R255 for reads, R256 for writes, R257 for FLUSH and the rest. -/
def orderReady (s : State) (c : Cmd) : Bool :=
  let es := earlier s c
  let b := beadNow s
  let marks := s.queues.marks.filter fun m => m.queue == c.ref.queue && m.coll == c.ref.coll && m.bead == b
  if isRead c then
    !(es.any fun w => isWrite w && overlaps c w) &&
      !(marks.any fun m => m.write && idsOverlap c.ref.op (readIds c.ref.op c.cap) m.ids)
  else if isWrite c then
    !(es.any fun w => isWrite w && w.ref.coll == c.ref.coll) &&
      !(es.any fun r => isRead r && r.stage == .held && overlaps r c) &&
      !(marks.any fun m => !m.write && (m.ids.isEmpty || m.ids.any (writeIds c.ref.op c.cap).contains))
  else if c.ref.op = 0x13 then !(es.any fun w => isWrite w && w.ref.coll == c.ref.coll)
  else true

/-- SETTING_LOAD, FIRMWARE_LOAD and POWER_STATE: never two at once (R254). -/
def exclusiveOp (op : BitVec 8) : Bool := op == 0x88 || op == 0x89 || op == 0x8B

/-- Order of an administrative queue: one command at a time (R254). -/
def adminReady (s : State) (c : Cmd) : Bool :=
  (earlier s c).isEmpty &&
    !(exclusiveOp c.ref.op && s.queues.cmds.any fun x => exclusiveOp x.ref.op && x.stage == .running)

/-- The ADMIT_LIMIT of the range of a queue is not reached in this bead (R323). -/
def limitReady (s : State) (q : Nat) : Bool :=
  match s.loader.setting with
  | none => true
  | some t => match t.queues.find? fun r => r.first ≤ q && q ≤ r.last with
    | none => true
    | some r => r.limit == 0 || (s.queues.admitted.countP fun x => r.first ≤ x && x ≤ r.last) < r.limit

def treeRec (s : State) (id : Nat) : Option TreeRec :=
  match s.loader.setting with
  | some t => t.fabric.trees.find? fun r => r.id == id
  | none => none

/-- Bytes of this module's own bundle of a tree in this bead (R307, R308). -/
def bundleBytes (s : State) (tree : Nat) : Nat :=
  match s.fabric.bundles.find? fun b => b.tree == tree && b.root == s.fabric.addr && b.bead == beadNow s with
  | some b => b.bytes
  | none => 0

/-- The multicast window of a tree is open (R308). -/
def windowOpen (s : State) (tree : Nat) : Bool :=
  tree == 0 || match treeRec s tree with
    | none => true
    | some r => !s.fabric.closed.contains tree && bundleBytes s tree < 1024 * r.mcBytes

def treeOf (s : State) (coll : Nat) : Nat := match getColl s coll with | some c => c.att.tree | none => 0

/-- The power state lets work be decided: P0, up to the end of the bead in which a preparation began (R259). -/
def decidesNow (s : State) : Bool :=
  let p := s.power
  p.pstate == 0 && !p.entering && !p.exiting && (!p.preparing || beadNow s ≤ p.prepBead)

/-- A command that may be decided: R260 executes some in any state. -/
def powerReady (s : State) (c : Cmd) : Bool := staysLow c.ref.op || decidesNow s

/-- Ready for decision now: every ordering condition met, and not in the admission gap (R105). -/
def cmdReady (s : State) (c : Cmd) : Bool :=
  powerReady s c && !(s.time.held && s.time.gap) &&
    (if c.ref.queue < 16 then adminReady s c
     else orderReady s c && limitReady s c.ref.queue && (!isSearchOp c.ref.op || windowOpen s (treeOf s c.ref.coll)))

/-- A read is admitted: its marks hold later overlapping writes of its queue to the next bead (R256). -/
def markRead (s : State) (c : Cmd) : State :=
  let m : QMark := ⟨c.ref.queue, c.ref.coll, readIds c.ref.op c.cap, beadNow s, false⟩
  s.modQueues fun u => { u with marks := u.marks ++ [m] }

/-- A write commits: later overlapping reads of its queue wait for the next bead (R53, R255). -/
def markWrite (s : State) (c : Cmd) : State :=
  let m : QMark := ⟨c.ref.queue, c.ref.coll, writeIds c.ref.op c.cap, beadNow s, true⟩
  s.modQueues fun u => { u with marks := u.marks ++ [m] }

def refOf (op : BitVec 8) (c : Capsule) : CmdRef :=
  ⟨op, c.queue.toNat, c.tag.toNat, c.conn, c.coll.toNat, c.flags, c.cookie⟩

/-- Refuse a capsule that took no tag (checks 1 to 3 of R252). -/
def refuseRaw (s : State) (r : CmdRef) (st : BitVec 16) : State :=
  closeOne (transmit (bump s (queueRefuseCnt (statusClass st))) r st 0 []) r.conn

/-- The status of checks 1 to 3, before a tag is taken; 0 passes. -/
def headCheck (s : State) (c : Capsule) : BitVec 16 :=
  let q := c.queue.toNat
  if c.port = 2 && 15 < q then 0x0119
  else match s.queues.queues.get q with
    | none => 0x0103
    | some u => if u.conn != some c.conn then 0x0103 else if u.tags.getLsbD c.tag.toNat then 0x0104 else 0

/-- The status of checks 4 to 6, the lifecycle and the payload lengths of R244; 0 passes. What SCRAPPED answers to the
commands other than IDENTIFY is a DESIGN CHOICE, log entry 16. -/
def bodyCheck (s : State) (op : BitVec 8) (c : Capsule) : BitVec 16 :=
  if !opAssigned op then 0x0101
  else if !reservedOk op c then 0x0102
  else if isAdminOp op != decide (c.queue.toNat < 16) then 0x0105
  else if s.loader.setting.isNone && !beforeSetting op && !(op == 0x88 && s.loader.firmware) then 0x0201
  else if s.locket.lifecycle == 7 && op != 0x80 then 0x0406
  else if 67108864 < c.len.toNat then 0x0107
  else if c.len.toNat != c.body.length then 0x0106
  else 0

def takeTag (s : State) (q t : Nat) : State :=
  let f (u : Queue) : Queue := { u with tags := u.tags ||| BitVec.ofNat 32 (2 ^ t) }
  s.modQueues fun r => { r with queues := r.queues.upd q f }

/-- A capsule that the power state keeps waiting takes the module back to P0 (R260). -/
def wakeUp (s : State) (op : BitVec 8) : State :=
  if staysLow op then s
  else s.modPower fun p => if p.pstate != 0 && !p.preparing && !p.entering then { p with exiting := true } else p

/-- An acknowledged capsule reaches its command queue: the checks of R252, then the decision once it is ready, and
until then it is held with its tag. -/
def receive (op : BitVec 8) (c : Capsule) (decide_ : State → Cmd → State) (s : State) : State :=
  match getConn s c.conn with
  | none => s
  | some k =>
    if !isUp s || k.failed || k.closed then s
    else
      let s0 := setConn s c.conn { k with open_ := k.open_ + 1 }
      let r := refOf op c
      let st := headCheck s0 c
      if st != 0 then refuseRaw s0 r st
      else
        let s1 := takeTag s0 r.queue r.tag
        let n := s1.queues.arrivals
        let cmd : Cmd := ⟨r, c, n, .held, 0⟩
        let s2 := s1.modQueues fun u => { u with cmds := u.cmds ++ [cmd], arrivals := n + 1 }
        let st2 := bodyCheck s2 op c
        if st2 != 0 then dropObjects (refuse s2 r.queue r.tag st2) fun o => o.queue == r.queue && o.op == op && o.final.isNone
        else
          let s3 := wakeUp s2 op
          if cmdReady s3 cmd then decide_ s3 cmd else s3

/-- Admit a command that runs on. -/
def running (s : State) (c : Cmd) : State :=
  updCmd (countAdmit s c.ref.queue) c.ref.queue c.ref.tag fun x => { x with stage := .running }

/-- Reply OK to a command. -/
def replyOk (s : State) (c : Cmd) (area : BitVec 320) (body : List Byte) : State := answer s c.ref.queue c.ref.tag 0 area body
def replyRefuse (s : State) (c : Cmd) (st : BitVec 16) : State := refuse s c.ref.queue c.ref.tag st

/-- Refuse with the first status of a list of checks that fails, or carry on. -/
def firstBad : List (Bool × BitVec 16) → Option (BitVec 16)
  | [] => none
  | (bad, st) :: r => if bad then some st else firstBad r

end Sys2Proof.Machine
end

