-- ==== Sys2Proof/Machine/Commit.lean ====
section
/-! DEFINITION. Items, stamps and the write buffer: visibility (R50, R63, R64), write records and their reservation
(R209, R410), and the commit of inserts and deletes (R45, R48, R51, R406). -/

namespace Sys2Proof.Machine

/-! ## Visibility -/

/-- No tombstone: neither in the bitmap nor in the recent-delete table. -/
def noTomb (c : Coll) (slot : Nat) : Bool := !c.tombs.contains slot && !c.recent.any fun (x, _) => x == slot

/-- Visible to snapshot `s` (R50, R63); for a segment entry the insert stamp is earlier than every snapshot that sees
it, so the item's stamp gives the same answer. -/
def visible (c : Coll) (slot s : Nat) : Bool :=
  match c.items.get slot with
  | none => false
  | some it => it.stamp < s && !c.tombs.contains slot && !c.recent.any fun (x, d) => x == slot && d ≤ s

/-- The slot of the item with an id that has no tombstone (R51). -/
def liveSlot (c : Coll) (id : BitVec 64) : Option Nat :=
  (c.items.find? fun (x, it) => it.id == id && noTomb c x).map Prod.fst

/-- The slot of the item with an id visible at a snapshot (R65, R273). -/
def resolveAt (c : Coll) (id : BitVec 64) (s : Nat) : Option Nat :=
  (c.items.find? fun (x, it) => it.id == id && visible c x s).map Prod.fst

/-- A bitmap version in force at a snapshot (R64). -/
def FilterVer.inForce (v : FilterVer) (s : Nat) : Bool :=
  v.put < s && match v.drop with
    | none => true
    | some d => if v.replaced then s ≤ d else s < d

def filterAt (c : Coll) (id s : Nat) : Option FilterVer := c.filters.find? fun v => v.id == id && v.inForce s

/-- Bits of a slot offset in the named bitmaps combined (filter_ok of R63). A bitmap that is no longer in force at the
snapshot reads as all zero. DESIGN CHOICE, log entry 100. -/
def filterOk (c : Coll) (isOr : Bool) (ids : List Nat) (s slot : Nat) : Bool :=
  let bit (i : Nat) : Bool := match filterAt c i s with | some v => bitOf v.bits (slot - c.slotBase) | none => false
  ids.isEmpty || if isOr then ids.any bit else ids.all bit

/-! ## Bridges (R37) -/

/-- Bridges after some rewrites in publication order: a target goes to the new slot of its item, or away. -/
def applyRewrites (rs : List (Nat × Nat × Option Nat)) (xs : List Nat) : List Nat :=
  rs.foldl (fun ys r => ys.filterMap fun x => if x = r.2.1 then r.2.2 else some x) xs

/-- The bridges of an entry that a snapshot follows: the rewrites of every merge published at it or before. -/
def bridgesAt (c : Coll) (snap : Nat) (xs : List Nat) : List Nat := applyRewrites (c.rewrites.filter fun r => r.1 ≤ snap) xs

/-- An entry with the rewrites published at a snapshot or before; pages in place stay as they are, since queries of an earlier
snapshot still read them (R37, R44, R68). -/
def Entry.at (c : Coll) (snap : Nat) (e : Entry) : Entry := { e with bridges := bridgesAt c snap e.bridges }

/-! ## Screen masks (R67) -/

/-- Bitmap versions that a query's filters name at its snapshot. A filter that a FILTER_DROP of the snapshot bead itself
removed after the admission has none: its bits read 0. DESIGN CHOICE, log entry 100. -/
def versionsFor (c : Coll) (q : Query) : List FilterVer := q.p.fids.filterMap fun i => filterAt c i q.snap

/-- The mask of one slot for the queries of a batch. -/
def maskOf (c : Coll) (qs : List Query) (slot : Nat) : MaskEntry :=
  { slot := slot, bits := ((qs.map (versionsFor c)).flatten.eraseDups).map fun v => (v.id, v.put, bitOf v.bits (slot - c.slotBase))
    tomb := c.tombs.contains slot, recent := (c.recent.find? fun x => x.1 == slot).map Prod.snd
    deny := (qs.filter fun q => q.deny.contains slot).map Query.qid }

/-- filter_ok of R63 from a mask: the bit of the version in force at the query's snapshot. -/
def MaskEntry.filterOk (c : Coll) (q : Query) (m : MaskEntry) : Bool :=
  let bit (i : Nat) : Bool := match filterAt c i q.snap with
    | some v => m.bits.any fun x => x.1 == v.id && x.2.1 == v.put && x.2.2
    | none => false
  q.p.fids.isEmpty || if q.p.fOr then q.p.fids.any bit else q.p.fids.all bit

/-- visible(e, s) of R63 from a mask; `stamp` is the insert stamp of a side-list entry, none for a segment entry. -/
def MaskEntry.shows (snap : Nat) (stamp : Option Nat) (m : MaskEntry) : Bool :=
  stamp.all (· < snap) && !m.tomb && m.recent.all (snap < ·)

/-- Epochs that hold a segment or side-list entry at a snapshot (R40). -/
def epochsNeeded (c : Coll) (s : Nat) : List Nat :=
  let inSeg (e : Nat) : Bool := c.segs.any fun g => g.epoch == e && g.pub ≤ s && g.replaced.all (s < ·)
  let inSide (e : Nat) : Bool := c.side.any fun x => x.ent.epoch == e && x.merged.all (s < ·) &&
    match c.items.get x.ent.slot with | some it => decide (it.stamp < s) | none => false
  (c.epochs.filter fun e => e.pub ≤ s && (inSeg e.num || inSide e.num)).map Epoch.num

def epochOf (c : Coll) (e : Nat) : Option Epoch := c.epochs.find? fun x => x.num == e
def newestEpoch (c : Coll) : Option Epoch := c.epochs.getLast?

/-! ## The write buffer -/

def wbufSize : Nat := 2 ^ 31
def ownShare : Nat := 2 ^ 26

/-- Bytes a record of `n` bytes occupies (R410). -/
def recordOcc (n : Nat) : Nat := ceilDiv (32 + n) 32 * 32

/-- Occupied bytes of host writes. -/
def hostOcc (s : State) : Nat := sumN ((s.flash.wbuf.filter WriteRec.host).map WriteRec.occ)

/-- Occupied and reserved bytes of host writes; what was released in this bead is not yet seen (R24). -/
def hostUsed (s : State) : Nat := hostOcc s + s.flash.reserved + s.pools.relBuf

/-- Bytes of a publication record that switches `n` staged extents: 64 KiB at most (R410). -/
def pubBytes (n : Nat) : Nat := min 65536 (64 + 16 * n)

/-- Publication record of one staged extent, and of none. -/
def pubExtent : Nat := recordOcc (pubBytes 1)
def pubBare : Nat := recordOcc (pubBytes 0)

def storesVector (p : CollParams) (f : BitVec 8) : Bool := p.vecFormat != 0 && (!preEncoded f || withVector f)

/-- Buffer bytes admission reserves for a write (R410). -/
def writeResv (p : CollParams) (op : BitVec 8) (c : Capsule) : Nat :=
  let row := areaField c.area 36 2
  let body := recordOcc p.sideEntryBytes + (if storesVector p c.flags then recordOcc p.vecBytes else 0)
    + (if row = 0 then 0 else recordOcc row)
  if op = 0x10 then body
  else if op = 0x12 then body + recordOcc 16
  else if op = 0x11 then recordOcc 16
  else if op = 0x20 then pubExtent
  else pubBare

/-- Whether a reservation fits the host share of the buffer (R410). -/
def fitsBuffer (s : State) (n : Nat) : Bool := hostUsed s + n ≤ wbufSize - ownShare

/-- Reserve buffer bytes for a command. -/
def reserveFor (s : State) (c : Cmd) (n : Nat) : State :=
  (updCmd s c.ref.queue c.ref.tag fun x => { x with resv := n }).modFlash fun f => { f with reserved := f.reserved + n }

/-- A record enters the buffer. -/
def addRec (s : State) (r : WriteRec) : State :=
  s.modFlash fun f => { f with wbuf := f.wbuf ++ [{ r with seq := f.nextRec }], nextRec := f.nextRec + 1 }

def mkRec (coll off len stamp : Nat) (k : RecKind) (host : Bool) : WriteRec :=
  ⟨0, coll, off, len, stamp, k, recordOcc len, host, []⟩

/-- Range offset of a region. -/
def regionOff (p : CollParams) (k : PageKind) : Nat := p.regionBase k * pageSize
def vectorOff (c : Coll) (slot : Nat) : Nat := regionOff c.params .vectors + (slot - c.slotBase) * c.params.vecStride
def rowOff (c : Coll) (slot : Nat) : Nat := regionOff c.params .rows + (slot - c.slotBase) * c.params.maxRow
def sideOff (c : Coll) (i : Nat) : Nat := regionOff c.params .sideLog + i % max 1 c.params.sideCap * c.params.sideEntryBytes

/-! ## Capacity checks and commits (R406, R51) -/

def sideFull (c : Coll) : Bool := c.params.sideCap ≤ c.side.length

/-- The slot an insert takes: the one the row names where it is free, else the lowest free one (R33). -/
def freeSlot (c : Coll) (want : Nat) : Option Nat :=
  let top := c.slotBase + c.params.slotCap
  let ok (x : Nat) : Bool := c.slotBase ≤ x && x < top && (c.items.get x).isNone
  if ok want then some want
  else match Tab.freeFrom c.items (c.items.length + 1) c.slotBase with
    | some x => if ok x then some x else none
    | none => none

def rdFull (c : Coll) : Bool := c.params.rdShare ≤ c.recent.length

/-- The first capacity check that fails (R406): `ins` for an insert, `del` for a delete of an existing item. -/
def capacityCheck (c : Coll) (ins del : Bool) (want : Nat) : Option (BitVec 16) :=
  if ins && sideFull c then some 0x020B
  else if ins && (freeSlot c want).isNone then some 0x020A
  else if del && rdFull c then some 0x020C
  else none

/-- Bridges after R35: ids resolved to slots visible one bead after the commit; unknown, own and repeated ids drop. -/
def resolveBridges (c : Coll) (own : BitVec 64) (b : Nat) (ids : List (BitVec 64)) : List Nat :=
  (((ids.filter (· != own)).eraseDups).filterMap fun i => resolveAt c i (b + 1)).eraseDups

/-- A delete commits: a tombstone in the recent-delete table and a delete record (R45). -/
def commitDelete (s : State) (id slot : Nat) : State :=
  let b := beadNow s
  let s1 := updColl s id fun c => { c with recent := c.recent ++ [(slot, b)] }
  match getColl s1 id with
  | none => s1
  | some c => addRec s1 (mkRec id (sideOff c c.side.length) 16 b (.delete slot) true)

/-- An insert commits: the item, its side-list entry in both copies of the list, and its records (R42, R48, R209). A copy whose
bank is out lacks the page. -/
def commitInsert (s : State) (id : Nat) (item : BitVec 64) (e : Entry) (vec : Option (List Byte)) (row : List Byte) : State :=
  let b := beadNow s
  match getColl s id with
  | none => s
  | some c =>
    let it : Item := ⟨item, b, vec, row⟩
    let pages := pagesOf (sideOff c c.side.length) c.params.sideEntryBytes
    let lost := (pages.map fun n => ([0, 1].filter fun k => !bankOk s (sideBank s c k n)).map fun k => (k, n)).flatten
    let c1 := { c with
      items := c.items.put e.slot it, side := c.side ++ [⟨e, false, none⟩], sideLost := (c.sideLost ++ lost).eraseDups }
    let s1 := addRec (setColl s id c1) (mkRec id (sideOff c c.side.length) c.params.sideEntryBytes b (.sideEntry e.slot) true)
    let s2 := if vec.isSome then addRec s1 (mkRec id (vectorOff c e.slot) c.params.vecBytes b (.vector e.slot) true) else s1
    if row.isEmpty then s2 else addRec s2 (mkRec id (rowOff c e.slot) row.length b (.row e.slot) true)

/-- The write reply parameter area (R276). -/
def writeArea (slot commit epoch bridges deleted : Nat) (old : Option Nat) : BitVec 320 :=
  let a := areaPut (areaPut 0 24 8 slot) 32 8 commit
  areaPut (areaPut (areaPut (areaPut a 40 2 epoch) 42 1 bridges) 43 1 deleted) 48 8 (old.getD 0xFFFFFFFFFFFFFFFF)

/-! ## Collections by state -/

/-- The refusal of a command for a collection that is absent or detached (R29, R30). -/
def collStatus (s : State) (id : Nat) : BitVec 16 :=
  match getColl s id with
  | none => 0x0203
  | some c => if c.attached then 0 else 0x0205

end Sys2Proof.Machine
end

