-- ==== Sys2Proof/Machine/Launch.lean ====
section
/-! DEFINITION. Tasks and their streams at launch (chapter 10): the library program a stage takes, a stream as its launch
descriptor starts it, and the engines' limit of 3,072 streams (R221). -/

namespace Sys2Proof.Machine

/-- Stages for which the sequencer builds launch descriptors. -/
inductive Stage where
  | sideList | screen | flashSketch | flashCode | bridge | vectors | rows | weights | scales | learn | merge | signatures
  deriving DecidableEq, Repr

def Stage.code : Stage → Nat
  | .sideList => 0
  | .screen => 1
  | .flashSketch => 2
  | .flashCode => 3
  | .bridge => 4
  | .vectors => 5
  | .rows => 6
  | .weights => 7
  | .scales => 8
  | .learn => 9
  | .merge => 10
  | .signatures => 11

/-- The library program of a stage: the spec does not assign them (log entry 8). -/
def programOf (s : State) (st : Stage) : Option Program :=
  match s.loader.setting with
  | none => none
  | some t => match t.programs.find? fun p => p.id == Config.programFor st.code with
    | some p => some p
    | none => t.programs.head?

def slotBytesOf (p : Program) : Nat := match p.slotSize with | 0 => 2048 | 1 => 16384 | _ => 65536

def Slot.empty : Slot :=
  { st := .free, seq := 0, off := 0, len := 0, mode := 0, raw := false, tier := 0, chan := 0, outstanding := false,
    atDevice := false, bead := 0, data := .none, ord := [] }

/-- A stream fed to a facet: its ring lies in that facet's area and it runs in that facet's quad (R221). -/
def Stream.onFacet (r : Stream) : Bool := decide (r.consumer ≤ 1)

/-- Streams that the engines of a quad, and those of the hub, run at once (R221). -/
def quadStreams : Nat := 128
def hubStreams : Nat := 1024

/-- The engines that a new stream may run on have room for it. -/
def engineFree (s : State) (consumer facet : Nat) : Bool :=
  if consumer ≤ 1 then
    decide ((s.streams.streams.filter fun r => r.onFacet && quadOf r.facet == quadOf facet).length < quadStreams)
  else decide ((s.streams.streams.filter fun r => !r.onFacet).length < hubStreams)

def maxStreams : Nat := 3072

/-- A stream as its descriptor starts it: parameters in A0 upward, every other register zero (R222). A facet's stream
runs on the facet's die, any other on the hub (R221). A stream whose ring no facet and no clasp empties has that ring as its
input ring; the list of a GATHER lies where the first parameter points. DESIGN CHOICE, log entry 107. -/
def startStream (s : State) (tid : Nat) (st : Stage) (facet : Nat) (coll : Option Nat) (params : List Nat)
    (ext : List (Nat × Nat)) : State :=
  match programOf s st with
  | none => s
  | some p =>
    if maxStreams ≤ s.streams.streams.length || !engineFree s p.consumer facet then s
    else
      let as := (params.take p.params).map (BitVec.ofNat 48)
      let b := beadNow s
      let r : Stream :=
        { sid := s.streams.nextSid, tid := tid, die := if p.consumer ≤ 1 then facet / 16 else 4, consumer := p.consumer
          facet := facet, coll := coll, words := p.words, pc := 0, a := as ++ List.replicate (8 - as.length) 0
          s := List.replicate 8 0, c := List.replicate 4 0, loops := [], seq := 0, launch := b, bead := b, skipLeft := 0
          skipAt := 0, skipJ := 0, pair := none, input := if 3 ≤ p.consumer then some s.streams.nextSid else none
          ext := ext, extAt := params.headD 0, slotBytes := slotBytesOf p
          ring := List.replicate p.slots Slot.empty, head := 0, tail := 0, waiting := [], halted := false, stopped := false }
      s.modStreams fun x => { x with streams := x.streams ++ [r], nextSid := x.nextSid + 1 }

/-- A new task; its id is the one it is given. -/
def addTask (s : State) (k : TaskKind) (coll seg : Nat) (qids : List Nat) (feeds : Option Nat) : Nat × State :=
  let t : Task := ⟨s.streams.nextTid, k, coll, seg, qids, feeds, [], [], 0, false, false, scratchFull s⟩
  (t.tid, s.modStreams fun x => { x with tasks := x.tasks ++ [t], nextTid := x.nextTid + 1 })

/-- The stream that carries what a tensor task produces: the adder stream of a micro-batch addresses its scratch pages. -/
def TaskKind.output : TaskKind → Option (Stage × Bool)
  | .merge => some (.merge, false)
  | .promote => some (.signatures, false)
  | .microBatch _ _ => some (.learn, true)
  | _ => none

/-- A tensor task: its data stream, the scale stream paired with it (R148), and the stream of what it produces. -/
def launchTensor (s : State) (k : TaskKind) (coll facet : Nat) : State :=
  let (tid, s1) := addTask s k coll 0 [] none
  let s2 := startStream (startStream s1 tid .weights facet (some coll) [] []) tid .scales facet (some coll) [] []
  match k.output with
  | some (st, scratch) => startStream s2 tid st facet (if scratch then none else some coll) [] []
  | none => s2

/-- Work that has ended takes its tasks with it. -/
def endTasks (s : State) (p : Task → Bool) : State :=
  let ids := (s.streams.tasks.filter p).map Task.tid
  s.modStreams fun x => { x with
    tasks := x.tasks.filter fun t => !p t
    streams := x.streams.filter fun r => !ids.contains r.tid }

/-- Ring bytes that the streams of a logical facet hold. -/
def ringsOn (s : State) (l : Nat) : Nat :=
  sumN ((s.streams.streams.filter fun r => r.onFacet && r.facet == l).map Stream.ringHeld)

/-- The facet of least load among some, the first among equals. -/
def leastLoaded (load : Nat → Nat) : List Nat → Option Nat
  | [] => none
  | x :: xs => match leastLoaded load xs with
    | none => some x
    | some y => if load x ≤ load y then some x else some y

/-- The facet that the next stream of a pipeline feeds: of those that receive launches, the one whose rings hold least. Which
it is, is open. DESIGN CHOICE, log entry 106. -/
def feedFacet (s : State) (pipeline : Nat) : Nat :=
  (leastLoaded (ringsOn s) ((facetsOf s pipeline).filter (launchable s))).getD 0

end Sys2Proof.Machine
end

