-- ==== Sys2Proof/Machine/Merge.lean ====
section
/-! DEFINITION. Merges (R37, R41, R43, R44, R47, R166, R174, R409) and the signatures of a promoted epoch (R164, R165). -/

namespace Sys2Proof.Machine

/-- Items of one segment at most (R38). -/
def segMax : Nat := 2 ^ 24

def hasVector (c : Coll) (slot : Nat) : Bool := match c.items.get slot with | some it => it.vector.isSome | none => false

/-- Older-epoch segments a merge folds in: ascending number, until the items it re-encodes would pass the limit (R166). -/
def foldIn (c : Coll) (epoch n0 : Nat) : List Nat :=
  let old := sortBy (fun a b => a.num ≤ b.num) (c.segs.filter fun g => g.epoch != epoch && g.replaced.isNone)
  let step (acc : Nat × List Nat × Bool) (g : Segment) : Nat × List Nat × Bool :=
    let n := g.entries.countP fun e => hasVector c e.slot
    if acc.2.2 || segMax < acc.1 + n then (acc.1, acc.2.1, true) else (acc.1 + n, acc.2.1 ++ [g.num], false)
  (old.foldl step (n0, [], false)).2.1

/-- Segments the merge writes: one set under its epoch and one for each older epoch it cannot leave. -/
def mergeSegs (c : Coll) (epoch : Nat) (es : List Entry) : Nat :=
  let mine (e : Entry) : Nat := if e.epoch = epoch || hasVector c e.slot then epoch else e.epoch
  let eps := (es.map mine).eraseDups
  sumN (eps.map fun p => max 1 (ceilDiv (es.countP fun e => mine e == p) segMax))

/-- The entries a merge with trigger `b` takes: committed before the trigger bead (R43). -/
def takeable (c : Coll) (b : Nat) (x : SideEntry) : Bool :=
  x.merged.isNone && match c.items.get x.ent.slot with | some it => it.stamp < b | none => false

def unmerged (c : Coll) : Nat := c.side.countP fun x => !x.taken && x.merged.isNone

/-- The collection with a merge begun in trigger bead `b`. -/
def beginMerge (c : Coll) (b : Nat) : Coll :=
  let e := match newestEpoch c with | some e => e.num | none => 0
  let side := c.side.map fun x => if takeable c b x then { x with taken := true } else x
  let taken := (side.filter fun x => x.taken && x.merged.isNone).map SideEntry.ent
  let re := taken.countP fun x => x.epoch != e && hasVector c x.slot
  let segs := foldIn c e re
  let es := taken ++ ((c.segs.filter fun g => segs.contains g.num).map Segment.entries).flatten
  let heads := mergeSegs c e es * 32 * c.params.buckets
  { c with side := side, wantMerge := false,
           merge := some { trigger := b, epoch := e, segs := segs, items := [], built := false, headBytes := heads } }

/-- Segments whose heads a running merge has reserved. -/
def headSegs (c : Coll) : Nat := match c.merge with | some m => m.headBytes / (32 * c.params.buckets) | none => 0

/-- Start a merge where its heads fit and the collection may hold the segments it writes; otherwise nothing starts (R38,
R409). -/
def startMerge (s : State) (id b : Nat) : Option State :=
  match getColl s id with
  | none => none
  | some c =>
    let d := beginMerge c b
    let s1 := setColl s id d
    let k := c.params.hbmSet
    if maxSegs < c.segs.length + headSegs d || setCapacity s1 k < setReserved s1 k + relHbmOf s1 k then none
    else some (launchTensor s1 .merge id (feedFacet s1 c.att.pipeline))

/-- Re-encode or copy one entry (R41). -/
def mergeEntry (c : Coll) (ep : Epoch) (ord : List Nat) (e : Entry) : Entry :=
  if e.epoch = ep.num then e
  else match c.items.get e.slot with
    | some { vector := some v, .. } =>
      let (sk, code) := encodeItem ep ord (storedNums c.params.vecFormat v)
      { e with epoch := ep.num, sketch := sk, code := code }
    | _ => e

/-- MERGE_BUILD_COMPLETE: the merge has read and re-encoded its entries; it publishes at the next edge (R44). One that
met an uncorrectable read or an abort keeps nothing (R43). -/
def execMergeBuildComplete (coll : Nat) (aborted : Bool) (ord : List Nat) (s : State) : Host.Outcome State Fault Refusal :=
  .next (match getColl s coll with
  | none => s
  | some c => match c.merge with
    | none => s
    | some m =>
      if !isUp s || !c.attached || m.built then s
      else if aborted then endTasks (setColl s coll (stopMerge c)) fun t => t.kind == .merge && t.coll == coll
      else match epochOf c m.epoch with
        | none => s
        | some ep =>
          let taken := (c.side.filter fun x => x.taken && x.merged.isNone).map SideEntry.ent
          let es := taken ++ ((c.segs.filter fun g => m.segs.contains g.num).map Segment.entries).flatten
          let m1 := { m with built := true, items := es.map (mergeEntry c ep ord) }
          let again := (es.filter fun e => e.epoch != ep.num).filterMap fun e => (c.items.get e.slot).bind Item.vector
          let s1 := again.foldl (fun t v =>
            countEpoch t coll ep ord (storedNums c.params.vecFormat v)) s
          endTasks (setColl s1 coll { c with merge := some m1 }) fun t => t.kind == .merge && t.coll == coll)

/-! ## Publication at an edge -/

/-- Bucket lists of some entries, buckets ascending, entries by slot. -/
def bucketLists (enc : Encoder) (l : Nat) (es : List Entry) : List (Nat × List Entry) :=
  let tagged := (sortBy (fun a b => a.slot ≤ b.slot) es).map fun e => (bucketOf enc l e.sketch, e)
  let bs := sortNat (tagged.map Prod.fst).eraseDups
  bs.map fun b => (b, (tagged.filter fun x => x.1 == b).map Prod.snd)

/-- The first free run of `n` pages of a region. -/
def allocPages (base : Nat) (used : List (Nat × Nat)) (n : Nat) : Nat :=
  let cands := base :: used.map fun (p, k) => p + k
  (cands.find? fun x => used.all fun (p, k) => x + n ≤ p || p + k ≤ x).getD base

def newPage (num : Nat) (k : PageKind) (seg : Nat) (locs : List Loc) (b : Nat) : Page :=
  ⟨num, k, seg, locs, none, false, false, false, b, none, b⟩

/-- Place the pages of a new segment: pinned heads twice, list pages by the placed reservation; they were staged to flash
(R170, R174, R215). -/
def placeSegment (s : State) (id b : Nat) (g : Segment) : State :=
  match getColl s id with
  | none => s
  | some c => (segPages c.params g).foldl (fun t (n, k) => match getColl t id with
      | none => t
      | some d =>
        let locs := if k.pinned then pinnedLocs t id d n else (placeLoc t id d n).toList
        placeFree id (setColl t id { d with pages := d.pages ++ [newPage n k g.num locs b] }) n) s

/-- The first number from `n` on that no segment of the collection holds. DESIGN CHOICE, log entry 112: the spec does not say
which number a new segment takes. -/
def freeSegNum (used : List Nat) : Nat → Nat → Nat
  | 0, n => n % maxSegs
  | f + 1, n => if used.contains (n % maxSegs) then freeSegNum used f (n + 1) else n % maxSegs

/-- Add one segment of entries of an epoch. -/
def addSegment (s : State) (id p : Nat) (ep : Epoch) (es : List Entry) : State :=
  match getColl s id with
  | none => s
  | some c =>
    let n := es.length
    let num := freeSegNum (c.segs.map Segment.num) c.segs.length c.nextSeg
    let su := c.segs.map fun g => (g.sketchPage, sketchPages c.params g.count)
    let cu := c.segs.map fun g => (g.codePage, codePages c.params g.count)
    let g : Segment :=
      { num := num, epoch := ep.num, pub := p, replaced := none
        lists := bucketLists ep.enc c.params.sketchBits es
        sketchPage := allocPages (c.params.regionBase .sketches) su (sketchPages c.params n)
        codePage := allocPages (c.params.regionBase .codes) cu (codePages c.params n), headBytes := 32 * c.params.buckets }
    placeSegment (setColl s id { c with segs := c.segs ++ [g], nextSeg := num + 1 }) id p g

/-- What a merge published at bead `p` makes of the bridges to the slots it removed: each goes to the item that has its id
now, or is removed (R37). -/
def rewritesOf (c : Coll) (p : Nat) (removed : List Nat) : List (Nat × Nat × Option Nat) :=
  removed.map fun x => (p, x, (c.items.get x).bind fun it => liveSlot c it.id)


/-- Staged extents of one segment: its heads, its sketch lists and its code lists. DESIGN CHOICE, log entry 11. -/
def stagedPerSeg : Nat := 3

/-- Publish the merge of a collection at the edge of bead `p`: entries and segments that only earlier snapshots search stay
as they are (R37, R44, R47), and list pages left on flash deepen the resident tier from `p` on (R174). The items go into
segments of up to 2^24 in the order of the merge, and bridges of the entries it writes are rewritten in place. DESIGN
CHOICE, log entry 112. -/
def publishMerge (s : State) (id p : Nat) : State :=
  match getColl s id with
  | none => s
  | some c => match c.merge with
    | none => s
    | some m =>
      if !m.built || !c.attached then s
      else
        let kept := m.items.filter fun e => noTomb c e.slot
        let removed := (m.items.filter fun e => !noTomb c e.slot).map Entry.slot
        let c1 := { c with
          merge := none
          side := c.side.map fun x => if x.merged.isNone && x.taken then { x with merged := some p } else x
          segs := c.segs.map fun g => if g.replaced.isNone && m.segs.contains g.num then { g with replaced := some p } else g
          rewrites := c.rewrites ++ rewritesOf c p removed
          clearing := c.clearing ++ removed.map fun x => (x, p + graceBeads) }
        let s1 := setColl s id c1
        let eps := sortNat (kept.map Entry.epoch).eraseDups
        let sets := (eps.map fun e => (chunks segMax ((kept.filter fun x => x.epoch == e).map (Entry.at c1 p))).map fun es => (e, es)).flatten
        let s2 := sets.foldl (fun t (e, es) => match epochOf c e with
          | none => t
          | some ep => addSegment t id p ep es) s1
        let s3 := updColl s2 id fun d => { d with resident := max d.resident (residentTier d) }
        addRec s3 (mkRec id 0 (pubBytes (stagedPerSeg * sets.length)) p .merged false)

/-- What an edge of bead `b` frees (R33, R44, R46, R47): merged entries, replaced segments with their pages, removed slots
with their bits, and replaced bitmaps that no query can still use. -/
def freeAt (b : Nat) (c : Coll) : Coll :=
  let due (p : Option Nat) : Bool := match p with | some p => p + graceBeads ≤ b | none => false
  let dead := (c.segs.filter fun g => due g.replaced).map Segment.num
  let clear := (c.clearing.filter fun (_, x) => x ≤ b).map Prod.fst
  let aged := (c.recent.filter fun (_, d) => d + graceBeads ≤ b).map Prod.fst
  let old := c.rewrites.filter fun r => r.1 + graceBeads ≤ b
  let settle (e : Entry) : Entry := { e with bridges := applyRewrites old e.bridges }
  { c with
    side := (c.side.filter fun x => !due x.merged).map fun x => { x with ent := settle x.ent }
    segs := (c.segs.filter fun g => !due g.replaced).map fun g => { g with lists := g.lists.map fun (k, es) => (k, es.map settle) }
    rewrites := c.rewrites.filter fun r => b < r.1 + graceBeads
    merge := c.merge.map fun m => { m with items := m.items.map settle }
    relHeads := c.relHeads + 2 * pageSize * sumN ((c.segs.filter fun g => due g.replaced).map fun g => pagesFor g.headBytes)
    pages := c.pages.filter fun q => !((q.kind.isList || q.kind == .heads) && dead.contains q.seg)
    tombs := (c.tombs ++ aged).filter fun x => !clear.contains x
    recent := c.recent.filter fun (_, d) => b < d + graceBeads
    clearing := c.clearing.filter fun (_, x) => b < x
    items := c.items.filter fun (x, _) => !clear.contains x
    filters := c.filters.filter fun v => match v.drop with | some d => b < d + graceBeads | none => true }

/-- Words of the tombstone bitmap that this edge changes, ascending: pinned-page changes (R170, R410). -/
def bitmapWords (b : Nat) (c : Coll) : List Nat :=
  let clear := (c.clearing.filter fun (_, x) => x ≤ b).map Prod.fst
  let aged := (c.recent.filter fun (_, d) => d + graceBeads ≤ b).map Prod.fst
  sortNat ((clear ++ aged).map fun x => (x - c.slotBase) / 64).eraseDups

/-- Runs of words that follow one another within one bitmap page: (first word, words). -/
def wordRuns (ws : List Nat) : List (Nat × Nat) :=
  ws.foldl (fun rs w => match rs.getLast? with
    | some (a, n) => if a + n = w && w % 8192 != 0 then rs.dropLast ++ [(a, n + 1)] else rs ++ [(w, 1)]
    | none => [(w, 1)]) []

/-- Free everything due at an edge, writing the bitmap changes through the buffer. -/
def freeAll (s : State) (b : Nat) : State :=
  let recs := (s.colls.map fun (id, c) =>
    (wordRuns (bitmapWords b c)).map fun (a, n) => mkRec id (regionOff c.params .tombstones + 8 * a) (8 * n) b .pinned false).flatten
  let gone := (s.colls.map fun (id, c) =>
    let dead := c.segs.filter fun g => match g.replaced with | some p => decide (p + graceBeads ≤ b) | none => false
    (dead.map fun g => (segPages c.params g).map fun (n, _) => (id, n)).flatten).flatten
  let s1 := s.modFlash fun f => { f with units := f.units.filter fun u => !gone.contains (u.coll, u.page) }
  recs.foldl addRec (mapColls s1 fun _ c => freeAt b c)

/-- The trigger of R43. -/
def mergeDue (c : Coll) : Bool := c.attached && c.merge.isNone && (c.params.sideCap ≤ 2 * unmerged c || c.wantMerge)

/-- Retire an older epoch that nothing carries (R41). -/
def retireEpochs (c : Coll) : Coll :=
  match c.epochs with
  | [old, new_] =>
    if c.segs.any (fun g => g.epoch == old.num) || c.side.any (fun x => x.ent.epoch == old.num) then c
    else { c with epochs := [new_] }
  | _ => c

/-! ## Signatures of a promoted epoch (R165) -/

/-- The bitwise majority of some sketches; a tied bit is 0. -/
def majority (l : Nat) (xs : List Nat) : Nat :=
  (List.range l).foldl (fun n j => if xs.length < 2 * (xs.countP fun x => bitOf x j) then n + 2 ^ j else n) 0

/-- The positive sides of pairs that stand for a sample, as the encoder takes them (R165, R405). -/
def samplePositives (c : Coll) (pairs : List (List F32 × List F32)) (ord : List Nat) : List (List Num) :=
  (pairs.take (64 * c.params.buckets)).map fun (_, pos) =>
    let xs := pos.map Num.ofF32
    (prepared c.params.metric ord xs).getD xs

/-- (bucket under the old epoch, slot, sketch under the new) of every sampled item; a host pair stands by its place. -/
def sampleOf (c : Coll) (old : Epoch) (enc : Encoder) (adm : Nat) (pairs : List (List F32 × List F32)) (ord : List Nat) :
    List (Nat × Nat × Nat) :=
  let l := c.params.sketchBits
  let new_ : Epoch := ⟨0, enc, 0⟩
  if c.params.vecFormat = 0 then
    ((samplePositives c pairs ord).zipIdx).map fun (xs, i) =>
      (bucketOf old.enc l (encodeItem old ord xs).1, i, (encodeItem new_ ord xs).1)
  else
    let ents := (c.segs.filter fun g => g.epoch == old.num && g.replaced.isNone).map fun g => g.lists
    let all := ents.flatten
    let bs := sortNat (all.map Prod.fst).eraseDups
    (bs.map fun b =>
      let es := ((all.filter fun x => x.1 == b).map Prod.snd).flatten
      let ok := sortBy (fun x y => x.slot ≤ y.slot) (es.filter fun e => visible c e.slot adm && hasVector c e.slot)
      (ok.take 64).filterMap fun e => match c.items.get e.slot with
        | some { vector := some v, .. } =>
          some (b, e.slot, (encodeItem new_ ord (storedNums c.params.vecFormat v)).1)
        | _ => none).flatten

/-- The sampled sketch farthest from the signatures assigned so far. -/
def farthest (l : Nat) (samples : List Nat) (assigned : List Nat) : Nat :=
  let dist (x : Nat) : Nat := assigned.foldl (fun m y => min m (hamming l x y)) (l + 1)
  (samples.foldl (fun (b : Option (Nat × Nat)) x => match b with
    | none => some (x, dist x)
    | some (_, d) => if d < dist x then some (x, dist x) else b) none).elim 0 Prod.fst

/-- Signatures of all buckets; with no sample at all the spec gives none, and they are free values. -/
def buildSignatures (l buckets free : Nat) (sample : List (Nat × Nat × Nat)) : List Nat :=
  if sample.isEmpty then (List.range buckets).map fun b => Config.freeNat (free + b) % 2 ^ l
  else
    let sks := (sortBy (fun x y => x.2.1 ≤ y.2.1) sample).map fun x => x.2.2
    let direct := (List.range buckets).map fun b =>
      let xs := (sample.filter fun x => x.1 == b).map fun x => x.2.2
      if xs.isEmpty then none else some (majority l xs)
    (direct.foldl (fun (acc : List Nat × List Nat) o => match o with
      | some v => (acc.1 ++ [v], acc.2)
      | none =>
        let v := farthest l sks acc.2
        (acc.1 ++ [v], acc.2 ++ [v])) ([], direct.filterMap fun o => o)).1

/-- SIGNATURE_BUILD_COMPLETE: the epoch is published at the next edge; a skew abort fails the promotion (R149, R164). -/
def execSignatureBuildComplete (coll : Nat) (aborted : Bool) (ord : List Nat) (s : State) : Host.Outcome State Fault Refusal :=
  .next (match getColl s coll with
  | none => s
  | some c => match c.promo, newestEpoch c with
    | some p, some old =>
      if !isUp s || p.built then s
      else
        let s0 := endTasks s fun t => t.kind == .promote && t.coll == coll
        if aborted then refuse (updColl s0 coll fun c => { c with promo := none }) p.ref.queue p.ref.tag 0x0301
        else
          let pairs := match s.learn.runs.find? fun r => r.id == p.run with | some r => r.pairs | none => []
          let sample := sampleOf c old p.enc p.admission pairs ord
          let sigs := buildSignatures c.params.sketchBits c.params.buckets s.free sample
          let n := if sample.isEmpty then c.params.buckets else 0
          let s1 := { s0 with free := s0.free + n }
          -- the encodes under the old epoch, which is live, are counted (R123, R150)
          let s1 := if c.params.vecFormat = 0 then
            (samplePositives c pairs ord).foldl (fun t xs => countEpoch t coll old ord xs) s1 else s1
          updColl s1 coll fun c => { c with promo := some { p with enc := { p.enc with sigs := sigs }, built := true } }
    | _, _ => s)

/-- Publish a promoted epoch at the edge of bead `b` and reply (R164). -/
def publishEpoch (s : State) (id b : Nat) : State :=
  match getColl s id with
  | none => s
  | some c => match c.promo, newestEpoch c with
    | some p, some old =>
      if !p.built then s
      else
        let n := (old.num + 1) % 65536
        let s1 := setColl s id { c with promo := none, epochs := c.epochs ++ [⟨n, p.enc, b⟩] }
        answer s1 p.ref.queue p.ref.tag 0 (areaPut (areaPut 0 24 2 n) 32 8 b) []
    | _, _ => s

end Sys2Proof.Machine
end

