-- ==== Sys2Proof/Machine/Operands.lean ====
section
/-! DEFINITION. Operand forms of the data commands: embeddings (R56, R269), item bodies (R274, R275), query bodies (R269,
R270) and parts of objects (R278). A parse answers the status of the first check that fails; where the spec gives no
order among a command's own checks, log entry 21. -/

namespace Sys2Proof.Machine

/-- A raw embedding of `dim` elements that fills the bytes given. -/
def parseEmb (metric dim fmt : Nat) (bs : List Byte) : Except (BitVec 16) (List Num) :=
  if 2 < fmt then .error 0x0108
  else if bs.length % embSize fmt != 0 then .error 0x0106
  else if bs.length / embSize fmt != dim then .error 0x010A
  else
    let xs := embNums fmt bs
    if !finiteAll xs || (metric = 2 && xs.all Num.isZero) then .error 0x010B else .ok xs

/-! ## Item bodies -/

/-- The content of an INSERT or UPSERT. `raw` holds the embedding's bytes and format. -/
structure ItemBody where
  id : BitVec 64
  bridges : List (BitVec 64)
  raw : Option (Nat × List Byte)
  epoch : Nat
  sketch : Nat
  code : List Byte
  given : Option (List Byte)
  row : List Byte
  deriving DecidableEq, Repr

def idList (n : Nat) (bs : List Byte) : List (BitVec 64) := (List.range n).map fun i => BitVec.ofNat 64 (fieldB bs (8 * i) 8)

/-- Checks on the parameter area of an INSERT or UPSERT. -/
def itemAreaBad (p : CollParams) (c : Capsule) : Option (BitVec 16) :=
  let pre := preEncoded c.flags
  let fmt := areaField c.area 34 1
  firstBad [
    (areaField c.area 24 8 == 2 ^ 64 - 1, 0x0111),
    (if pre then fmt != 0 else areaField c.area 32 2 != 0, 0x0102),
    (decide (2 < fmt) || decide (p.bridges < areaField c.area 35 1), 0x0108),
    (decide (p.maxRow < areaField c.area 36 2), 0x0113),
    (withVector c.flags && p.vecFormat == 0, 0x0110),
    (!pre && p.vecFormat == 1 && fmt != 2, 0x010C)]

/-- The item body against the collection (R275). -/
def parseItem (k : Coll) (c : Capsule) : Except (BitVec 16) ItemBody :=
  let p := k.params
  match itemAreaBad p c with
  | some st => .error st
  | none =>
    let n := areaField c.area 35 1
    let row := areaField c.area 36 2
    let fmt := areaField c.area 34 1
    let id := BitVec.ofNat 64 (areaField c.area 24 8)
    let rest := c.body.drop (8 * n)
    if c.body.length < 8 * n + row then .error 0x0106
    else
      let mid := rest.take (rest.length - row)
      let last := rest.drop (rest.length - row)
      if preEncoded c.flags then
        let codes := p.sketchBytes + p.subcodes
        let vec := if withVector c.flags then p.vecBytes else 0
        if mid.length != codes + vec then .error 0x0106
        else .ok { id := id, bridges := idList n c.body, raw := none, epoch := areaField c.area 32 2
                   sketch := leNat (mid.take p.sketchBytes), code := sliceB mid p.sketchBytes p.subcodes
                   given := if withVector c.flags then some (mid.drop codes) else none, row := last }
      else
        match parseEmb p.metric (inputDim k) fmt mid with
        | .error st => .error st
        | .ok _ => .ok { id := id, bridges := idList n c.body, raw := some (fmt, mid), epoch := 0, sketch := 0, code := []
                         given := none, row := last }

/-- Codes and stored vector of an item body: encoded under `ep` for a raw embedding (R40, R275, R405). -/
def itemCodes (p : CollParams) (ep : Epoch) (ord : List Nat) (i : ItemBody) : Nat × Nat × List Byte × Option (List Byte) :=
  match i.raw with
  | some (fmt, bs) =>
    let xs := embNums fmt bs
    let (sk, code) := encodeItem ep ord ((prepared p.metric ord xs).getD xs)
    (ep.num, sk, code, if p.vecFormat = 0 then none else some (storeRaw p.metric p.vecFormat ord xs))
  | none => (i.epoch, i.sketch, i.code, i.given.map (storeGiven p.metric p.vecFormat ord))

/-! ## Query bodies -/

def queryParams (range : Bool) (groupProbe : Nat) (c : Capsule) (emb : List F32) : QParams :=
  let probe := areaField c.area 24 2
  { range := range, k := c.k.toNat, probe := if probe = 0 then groupProbe else probe, thr := areaField c.area 26 2
    bw := areaField c.area 28 2, rr := areaField c.area 30 2, radius := BitVec.ofNat 32 (areaField c.area 32 4)
    fast := fastAdc c.flags, payload := wantPayload c.flags, log := wantLog c.flags, fOr := filterOr c.flags
    fids := (List.range (areaField c.area 44 1)).map fun i => areaField c.area (36 + 2 * i) 2, emb := emb, pre := preEncoded c.flags }

/-- Range checks of R55 and R269 on a search. -/
def queryAreaBad (p : CollParams) (groupProbe : Nat) (range : Bool) (c : Capsule) : Option (BitVec 16) :=
  let q := queryParams range groupProbe c []
  let cnt := areaField c.area 44 1
  let blocks := areaField c.area 48 1
  let pre := preEncoded c.flags
  let raw := !pre || 0 < q.rr
  firstBad [
    (decide (groupProbe < areaField c.area 24 2) || decide (256 < areaField c.area 24 2), 0x0108),
    (decide (p.sketchBits < q.thr) || q.k == 0 || decide (65536 < q.k) || decide (256 < q.bw), 0x0108),
    (q.rr != 0 && (decide (q.rr < q.k) || decide (16384 < q.rr)), 0x0108),
    (decide (4 < cnt) || decide (256 < areaField c.area 46 2) || decide (2 < areaField c.area 45 1), 0x0108),
    (range && !(Num.ofF32 q.radius).isFinite, 0x0108),
    (!range && areaField c.area 32 4 != 0, 0x0102),
    ((List.range 4).any fun i => cnt ≤ i && areaField c.area (36 + 2 * i) 2 != 0, 0x0102),
    (!raw && areaField c.area 45 1 != 0, 0x0102),
    (if pre then blocks != 1 && blocks != 2 else blocks != 0, 0x0108),
    (q.rr != 0 && p.vecFormat == 0, 0x0110)]

/-- What a query body carries: deny ids, epoch blocks (epoch, sketch, tables) and the raw embedding. -/
structure QueryBody where
  deny : List (BitVec 64)
  blocks : List EpochCodes
  raw : Option (List Num)
  deriving DecidableEq, Repr

/-- Bytes of one epoch block (R270). -/
def blockBytes (p : CollParams) : Nat := 8 + p.sketchBytes + 512 * p.subcodes

def parseBlock (p : CollParams) (bs : List Byte) : EpochCodes :=
  ⟨fieldB bs 0 2, leNat (sliceB bs 8 p.sketchBytes), hostTables p.subcodes (bs.drop (8 + p.sketchBytes)), false⟩

/-- The query body against its collection (R270); epochs are checked by the caller. -/
def parseQuery (k : Coll) (c : Capsule) : Except (BitVec 16) QueryBody :=
  let p := k.params
  let nd := areaField c.area 46 2
  let nb := areaField c.area 48 1
  let pre := preEncoded c.flags
  let raw := !pre || 0 < areaField c.area 30 2
  let b1 := c.body.drop (8 * nd)
  let blks := (List.range nb).map fun i => sliceB b1 (blockBytes p * i) (blockBytes p)
  let rest := b1.drop (blockBytes p * nb)
  if c.body.length < 8 * nd + blockBytes p * nb then .error 0x0106
  else if blks.any (fun b => (sliceB b 2 6).any (· != 0)) then .error 0x0102
  else
    let es := blks.map (parseBlock p)
    if !(es.map EpochCodes.epoch).Nodup then .error 0x0108
    else if !raw then (if rest.isEmpty then .ok ⟨idList nd c.body, es, none⟩ else .error 0x0106)
    else if pre && rest.isEmpty then .error 0x010F
    else match parseEmb p.metric (inputDim k) (areaField c.area 45 1) rest with
      | .error st => .error st
      | .ok xs => .ok ⟨idList nd c.body, es, some xs⟩

/-! ## Parts of objects (R278) -/

/-- The object of an opcode that is open in a queue. -/
def OpenObj.openIn (q : Nat) (op : BitVec 8) (o : OpenObj) : Bool := o.queue == q && o.op == op && o.final.isNone

/-- The open object after a part, or none where the part breaks the rules of R278. -/
def takePart (s : State) (c : Cmd) (target : Nat) : Option OpenObj :=
  let off := areaField c.cap.area 24 8
  let total := areaField c.cap.area 32 8
  let n := c.cap.body.length
  let fin := !isFinal c.ref.flags || off + n == total
  match s.queues.objects.find? (OpenObj.openIn c.ref.queue c.ref.op) with
  | none => if off = 0 && n ≤ total && fin then some ⟨c.ref.queue, c.ref.op, c.ref.coll, target, total, c.cap.body, none⟩ else none
  | some o =>
    if off = o.bytes.length && total = o.total && target = o.target && o.coll == c.ref.coll && off + n ≤ total && fin then
      some { o with bytes := o.bytes ++ c.cap.body }
    else none

/-- Keep a part staged: SETTING_LOAD and FIRMWARE_LOAD in HBM, FILTER_PUT on flash (R215). -/
def stagePart (s : State) (o : OpenObj) (n : Nat) : State :=
  let s1 := s.modQueues fun u =>
    { u with objects := (u.objects.filter fun x => !x.openIn o.queue o.op) ++ [o] }
  if o.op = 0x20 then s1 else s1.modLoader fun l => { l with staging := l.staging + n }

/-- Refuse a part and discard its open object. -/
def refusePart (s : State) (c : Cmd) (st : BitVec 16) : State :=
  refuse (dropObjects s (OpenObj.openIn c.ref.queue c.ref.op)) c.ref.queue c.ref.tag st

/-- The object is complete: it leaves the staging area. -/
def closeObject (s : State) (c : Cmd) : State := dropObjects s (OpenObj.openIn c.ref.queue c.ref.op)

/-- The object whose final part is an admitted FILTER_PUT: complete, and no longer open to parts of the queue. -/
def finalOf (c : Cmd) (o : OpenObj) : Bool := o.queue == c.ref.queue && o.op == 0x20 && o.final == some c.ref.tag

end Sys2Proof.Machine
end

