-- ==== Sys2Proof/Machine/Admin.lean ====
section
/-! DEFINITION. Administrative commands: IDENTIFY, QUEUE_CREATE, QUEUE_DELETE, ATTEST, POWER_STATE, KEY_LOAD, EVENT_ARM
(R249, R251, R259, R263, R264, R379, R380, R219), and COLLECTION_CREATE and COLLECTION_ATTACH (R29, R31, R185, R283, R284,
R322). -/

namespace Sys2Proof.Machine

/-- A payload of exactly `n` bytes, or LENGTH_MISMATCH. -/
def lenBad (c : Cmd) (n : Nat) : Bool := c.cap.body.length != n

/-! ## IDENTIFY -/

def identifyBody (s : State) : List Byte :=
  let k := s.locket
  let attached := s.colls.countP fun (_, c) => c.attached
  [BitVec.ofNat 8 k.copy.part.toNat, BitVec.ofNat 8 k.lifecycle.toNat, BitVec.ofNat 8 s.power.pstate.toNat,
    BitVec.ofNat 8 (readyBits s)] ++ leBytes 4 s.loader.fwVersion.toNat ++
    leBytes 4 (s.fabric.addr.toNat + flag s.fabric.assigned 31) ++ leBytes 2 s.time.periodUs ++ leBytes 2 attached ++
    leBytes 16 k.deviceId.toNat ++ digestBytes s.loader.digest

def decideIdentify (s : State) (c : Cmd) : State :=
  if lenBad c 0 then replyRefuse s c 0x0106 else replyOk s c 0 (identifyBody s)

def execIdentify (c : Capsule) (s : State) : Res := .next (receive 0x80 c decideIdentify s)

/-! ## Queues -/

/-- QUEUE_CREATE: binds a free queue, or an orphaned one with no tag in use (R249, R251). -/
def decideQueueCreate (s : State) (c : Cmd) : State :=
  let q := areaField c.cap.area 24 2
  let conn := areaField c.cap.area 26 2
  let live := match getConn s conn with | some k => !k.failed && !k.closed && !k.closing | none => false
  let admin := match getConn s conn with | some k => k.admin | none => false
  let u := s.queues.queues.get q
  let busy := match u with | some u => u.conn.isSome || u.tags != 0 | none => false
  match firstBad [(lenBad c 0, 0x0106), (decide (32767 < q) || !live, 0x0108), (!queuePermitted s q, 0x0219),
      (decide (q < 16) && !admin, 0x0408), (busy, 0x0218)] with
  | some st => replyRefuse s c st
  | none =>
    let s1 := s.modQueues fun r => { r with queues := r.queues.put q ⟨some conn, false, 0⟩ }
    let s2 := if q = 0 then s1.modHost fun h => { h with orphan0 := false, next0 := none } else s1
    replyOk s2 c 0 []

def execQueueCreate (c : Capsule) (s : State) : Res := .next (receive 0x85 c decideQueueCreate s)

/-- QUEUE_DELETE. A queue that does not exist is out of range. -/
def decideQueueDelete (s : State) (c : Cmd) : State :=
  let q := areaField c.cap.area 24 2
  match s.queues.queues.get q with
  | none => replyRefuse s c (if lenBad c 0 then 0x0106 else 0x0108)
  | some u => match firstBad [(lenBad c 0, 0x0106), (q == 0, 0x0108), (u.tags != 0, 0x0218)] with
    | some st => replyRefuse s c st
    | none =>
      let s1 := dropObjects s fun o => o.queue == q
      replyOk (s1.modQueues fun r => { r with queues := r.queues.del q }) c 0 []

def execQueueDelete (c : Capsule) (s : State) : Res := .next (receive 0x86 c decideQueueDelete s)

/-! ## ATTEST (R379) -/

def identityPublic (s : State) : List Byte :=
  match s.locket.idKey with | some k => beBytes 64 (Config.sm2Public k).toNat | none => List.replicate 64 0

def quoteBody (s : State) (mask : Nat) (nonce : List Byte) : List Byte :=
  let k := s.locket
  let regs := ((List.range 8).filter (bitOf mask)).map fun i => digestBytes (k.meas.getD i 0)
  leBytes 4 0x54514E58 ++ [1, BitVec.ofNat 8 k.lifecycle.toNat, BitVec.ofNat 8 mask, if debugLockOpen s then 1 else 0] ++
    leBytes 16 k.deviceId.toNat ++ leBytes 8 (if s.time.held then s.time.now else 0) ++ nonce ++
    leBytes 4 s.loader.fwVersion.toNat ++ leBytes 4 0 ++ identityPublic s ++ regs.flatten

/-- ATTEST: a quote signed by the identity key; LIFECYCLE_DENIED in MANUFACTURE and SCRAPPED (R367). -/
def decideAttest (s : State) (c : Cmd) : State :=
  if lenBad c 32 then replyRefuse s c 0x0106
  else if s.locket.lifecycle = 0 then replyRefuse s c 0x0406
  else match s.locket.idKey with
  | none => replyRefuse s c 0x0406
  | some k =>
    let q := quoteBody s (areaField c.cap.area 24 1) c.cap.body
    replyOk s c 0 (q ++ beBytes 64 (Config.sm2Sign k q).toNat)

def execAttest (c : Capsule) (s : State) : Res := .next (receive 0x8A c decideAttest s)

/-! ## POWER_STATE (R259, R260) -/

/-- POWER_STATE: P0 or the current state replies at once, anything else prepares and replies when the state is reached. -/
def decidePowerState (s : State) (c : Cmd) : State :=
  let t := areaField c.cap.area 24 1
  if lenBad c 0 then replyRefuse s c 0x0106
  else if 3 < t then replyRefuse s c 0x0108
  else if t = 0 || t = s.power.pstate.toNat then
    let area := areaPut (areaPut 0 24 1 t) 32 8 (beadNow s)
    let s1 := if t = 0 && s.power.pstate != 0 then s.modPower fun p => { p with exiting := true } else s
    replyOk s1 c area []
  else
    let s1 := running s c
    s1.modPower fun p => { p with target := BitVec.ofNat 2 t, preparing := true, prepBead := beadNow s, psCmd := some c.ref }

def execPowerState (c : Capsule) (s : State) : Res := .next (receive 0x8B c decidePowerState s)

/-! ## KEY_LOAD (R219, R220, R380) -/

def keyHalves (k : BitVec 256) : BitVec 128 × BitVec 128 := (k.extractLsb' 128 128, k.extractLsb' 0 128)

/-- The 32-bit key check: the first 4 bytes of SM4 of a zero block under the first half. -/
def keyCheckOf (k : BitVec 256) : BitVec 32 := BitVec.ofNat 32 (leNat ((beBytes 16 (Config.sm4 (keyHalves k).1 0).toNat).take 4))

def inUse (s : State) (id : Nat) : Bool := match getColl s id with | some c => c.attached || c.work.isSome | none => false

def decideKeyLoad (s : State) (c : Cmd) : State :=
  let k := BitVec.ofNat 256 (beNat c.cap.body)
  match firstBad [(lenBad c 32, 0x0106), (s.locket.lifecycle == 3, 0x0406), (inUse s c.ref.coll, 0x021D), ((keyHalves k).1 == (keyHalves k).2, 0x0403)] with
  | some st => replyRefuse s c st
  | none => replyOk (s.modLocket fun l => { l with keys := l.keys.put c.ref.coll k }) c 0 []

def execKeyLoad (c : Capsule) (s : State) : Res := .next (receive 0x8C c decideKeyLoad s)

/-! ## EVENT_ARM (R263, R264) -/

/-- Give a connection the events of its groups that no connection has been given, in order. -/
def deliverWaiting (s : State) (id : Nat) (mask : Nat) : State :=
  let want (e : EventRec) : Bool := !e.delivered && bitOf mask (eventGroup e.code)
  let es := s.events.log.filter want
  let first := es.head?.map EventRec.seq
  let lost (e : EventRec) : Nat := if some e.seq = first then s.events.lost else e.lost
  let f (e : EventRec) : EventRec := if want e then { e with waiting := [id], delivered := true, lost := lost e } else e
  let s1 := { s with events := { s.events with log := s.events.log.map f, lost := if es.isEmpty then s.events.lost else 0 } }
  es.foldl (fun t e => deliverTo (eventBytes e.seq e.code (lost e) e.time e.args) e.seq t id) s1

def decideEventArm (s : State) (c : Cmd) : State :=
  let mask := areaField c.cap.area 24 4
  let others := s.host.conns.countP fun (i, k) => i != c.ref.conn && k.armed != 0
  match firstBad [(lenBad c 0, 0x0106), (mask != 0 && decide (4 ≤ others), 0x021A)] with
  | some st => replyRefuse s c st
  | none =>
    let s1 := updConn s c.ref.conn fun k => { k with armed := BitVec.ofNat 32 mask }
    let next := s1.events.nextSeq
    replyOk (deliverWaiting s1 c.ref.conn mask) c (areaPut 0 24 4 next.toNat) []

def execEventArm (c : Capsule) (s : State) : Res := .next (receive 0x8F c decideEventArm s)

/-! ## Collections: records and reservations -/

/-- The create block (R283, R31); fields marked "0 = default" take the default. -/
def parseCreate (bs : List Byte) : Except (BitVec 16) CollParams :=
  let dflt (v d : Nat) : Nat := if v = 0 then d else v
  let l := dflt (fieldB bs 0 2) 128
  let m := dflt (fieldB bs 2 1) 32
  let lb := dflt (fieldB bs 3 1) 16
  let fmt := fieldB bs 5 1
  let dims := fieldB bs 6 2
  let side := dflt (fieldB bs 12 4) 16
  let slots := fieldB bs 16 4
  let rd := dflt (fieldB bs 20 4) 16
  let inter := fieldB bs 24 1
  let die := fieldB bs 25 1
  let opt := fieldB bs 26 1
  if !(sliceB bs 27 37).all (· == 0) || 3 < opt then .error 0x0102
  else if 64 ≤ l && l ≤ 1024 && l % 64 = 0 && 8 ≤ m && m ≤ 64 && m % 8 = 0 && 10 ≤ lb && lb ≤ 20 && fieldB bs 4 1 ≤ 2 &&
      fmt ≤ 2 && (if fmt = 0 then dims == 0 else 16 ≤ dims && dims ≤ 4096 && dims % 16 == 0) && fieldB bs 8 2 ≤ 4096 &&
      fieldB bs 10 1 ≤ 8 && fieldB bs 11 1 ≤ 64 && side ≤ 1024 && 1 ≤ slots && slots ≤ 1048576 && rd ≤ 4096 && inter ≤ 1 &&
      die ≤ 3 && (inter = 1 || die = 0) then
    .ok { sketchBits := l, subcodes := m, log2Buckets := lb, metric := fieldB bs 4 1, vecFormat := fmt, vecDims := dims
          maxRow := fieldB bs 8 2, bridges := fieldB bs 10 1, filterSlots := fieldB bs 11 1, sideCap := 65536 * side
          slotCap := 65536 * slots, rdShare := 4096 * rd, near := inter == 1, nearDie := die, stripe := bitOf opt 0
          encrypted := bitOf opt 1 }
  else .error 0x0108

def parseAttach (bs : List Byte) : AttachRec :=
  ⟨BitVec.ofNat 32 (fieldB bs 0 4), fieldB bs 4 2, fieldB bs 6 2, fieldB bs 8 4, fieldB bs 12 4, fieldB bs 16 4, fieldB bs 20 4,
    fieldB bs 24 4⟩

/-- The tree a collection names exists and gives this module the same SHARD_ID (R306). -/
def treeOk (s : State) (a : AttachRec) : Bool :=
  a.tree == 0 || match treeRec s a.tree with
    | none => false
    | some t => t.members.any fun (m, sh) => m == s.fabric.addr && sh == a.shard

/-- A pipeline lies on one die (R180). -/
def onDie (g : GroupRec) (d : Nat) : Bool := (List.range 16).all fun q => !hasQuad g q || q / 4 == d

/-- Checks of an attach record against a collection's parameters (R180, R284, R306, R322). -/
def attachBad (s : State) (p : CollParams) (bs : List Byte) : Option (BitVec 16) :=
  let a := parseAttach bs
  match groupOf s a.pipeline, formatOf s a.pipeline with
  | some g, some f =>
    firstBad [((sliceB bs 28 4).any (· != 0), 0x0102), (g.learn || !treeOk s a || !sizesAllowed f p, 0x0108),
      (p.near && !onDie g p.nearDie, 0x0115)]
  | _, _ => some 0x0108

/-- The tier reservations of an attach fit (R31, R185, R186). `c` holds the collection as it would be attached. -/
def attachFits (s : State) (c : Coll) : Bool :=
  let k := c.params.hbmSet
  let (near, hbm, flash) := scanCapacity s
  c.pinnedMib + c.att.hbmPlaced ≤ setFree s k && cacheFits s c && padFits s c &&
    (!c.recent.isEmpty || c.params.rdShare ≤ rdFree s) && scanReserved s AttachRec.scanNear + c.att.scanNear ≤ near &&
    scanReserved s AttachRec.scanHbm + c.att.scanHbm ≤ hbm && scanReserved s AttachRec.scanFlash + c.att.scanFlash ≤ flash

/-- The first slot of a new range (R31, R63). DESIGN CHOICE, log entry 110: it is the lowest gap of the slot space that holds it,
and without one the spec's TIER_SPACE is answered, also where the free slots of several gaps would suffice. -/
def findSlotBase (s : State) (cap : Nat) : Option Nat :=
  let used := s.colls.map (fun (_, c) => (c.slotBase, c.params.slotCap)) ++ s.pools.relSlots
  let cands := sortNat (0 :: used.map fun (b, n) => b + n)
  cands.find? fun x => x + cap ≤ 2 ^ 36 && used.all fun (b, n) => x + cap ≤ b || b + n ≤ x

/-- Pages the tier manager holds for an attached collection: pinned ones twice, list pages still on flash and to be
refilled within the placed reservation (R170, R175). -/
def attachPages (s : State) (id : Nat) : State :=
  match getColl s id with
  | none => s
  | some c =>
    let p := c.params
    let b := beadNow s
    let span (k : PageKind) : List (Nat × PageKind × Nat) := (List.range (p.regionPages k)).map fun i => (p.regionBase k + i, k, 0)
    let heads := (c.segs.map fun g => (List.range p.headPages).map fun i => (headPage p g.num + i, PageKind.heads, g.num)).flatten
    let lists := (c.segs.map fun g =>
      (List.range (sketchPages p g.count)).map (fun i => (g.sketchPage + i, PageKind.sketches, g.num)) ++
      (List.range (codePages p g.count)).map fun i => (g.codePage + i, PageKind.codes, g.num)).flatten
    let room := c.att.nearPlaced + c.att.hbmPlaced != 0
    let s1 := setColl s id { c with pages := lists.map fun (n, k, g) => { newPage n k g [] b with refilling := room } }
    let s2 := (span .directory ++ heads ++ span .tombstones ++ span .filters).foldl (fun t (n, k, g) =>
      updColl t id fun d => { d with pages := d.pages ++ [newPage n k g (pinnedLocs t id d n) b] }) s1
    updColl s2 id fun d => { d with resident := residentTier d }

/-- A collection as creation leaves it before its pages are placed. -/
def newColl (p : CollParams) (a : AttachRec) (base : Nat) (kc : BitVec 32) (enc : Encoder) : Coll :=
  { attached := true, params := p, slotBase := base, att := a, keyCheck := kc, items := [], side := [], sideLost := [], rewrites := [], segs := [], nextSeg := 0
    tombs := [], recent := [], clearing := [], filters := [], epochs := [⟨0, enc, 0⟩], merge := none, promo := none, pages := []
    work := none, thenDelete := none, relHeads := 0, detachBead := 0, withdrawn := false, wantMerge := false, creditNear := 0, creditHbm := 0, creditFlash := 0
    resident := 0, admittedInBead := 0, hbmPlacedNow := a.hbmPlaced }

/-- COLLECTION_CREATE: nothing is reserved unless everything fits (R31, R186). -/
def decideCreate (s : State) (c : Cmd) : State :=
  let body := c.cap.body
  let id := c.ref.coll
  if (getColl s id).isSome then replyRefuse s c 0x0204
  else if body.length < 96 then replyRefuse s c 0x0106
  else match parseCreate (body.take 64) with
  | .error st => replyRefuse s c st
  | .ok p =>
    let rec_ := sliceB body 64 32
    match attachBad s p rec_ with
    | some st => replyRefuse s c st
    | none =>
      let key := s.locket.keys.get id
      if p.encrypted && key.isNone then replyRefuse s c 0x0401
      else match parseImage p (if p.vecFormat = 0 then none else some p.vecDims) true (body.drop 96) with
      | .error st => replyRefuse s c st
      | .ok (enc, rest) =>
        let a := parseAttach rec_
        let okFmt := match formatOf s a.pipeline with | some f => encoderAllowed f enc | none => false
        if !rest.isEmpty then replyRefuse s c 0x0106
        else if !okFmt then replyRefuse s c 0x0108
        else match findSlotBase s p.slotCap with
        | none => replyRefuse s c 0x020F
        | some base =>
          let kc := match key with | some k => if p.encrypted then keyCheckOf k else 0 | none => 0
          let n := newColl p a base kc enc
          let pages := ceilDiv p.flashBytes pageSize
          if attachFits s n && pages ≤ flashFree s then
            replyOk (attachPages (setColl s id n) id) c (areaPut (areaPut 0 24 8 base) 32 8 p.flashPages) []
          else replyRefuse s c 0x020F

def execCollectionCreate (c : Capsule) (s : State) : Res := .next (receive 0x81 c decideCreate s)

/-- The reply area of COLLECTION_ATTACH (R284). -/
def attachArea (c : Coll) : BitVec 320 :=
  let eps := c.epochs.map Epoch.num
  let a := areaPut (areaPut 0 24 8 c.slotBase) 32 2 (c.segs.countP fun g => g.replaced.isNone)
  areaPut (areaPut (areaPut a 34 2 (eps.getD 0 0xFFFF)) 36 2 (eps.getD 1 0xFFFF)) 40 4 c.side.length

/-- COLLECTION_ATTACH of a detached collection (R29, R220, R284). -/
def decideAttach (s : State) (c : Cmd) : State :=
  let id := c.ref.coll
  match getColl s id with
  | none => replyRefuse s c 0x0203
  | some k =>
    let a := parseAttach c.cap.body
    let key := s.locket.keys.get id
    match firstBad [(k.attached || k.work.isSome, 0x0206), (lenBad c 32, 0x0106)] with
    | some st => replyRefuse s c st
    | none => match attachBad s k.params c.cap.body with
      | some st => replyRefuse s c st
      | none =>
        let okFmt := match formatOf s a.pipeline with | some f => k.epochs.all fun e => encoderAllowed f e.enc | none => false
        let n := { k with att := a, attached := true, sideLost := [], hbmPlacedNow := a.hbmPlaced, withdrawn := false, creditNear := 0,
                          creditHbm := 0, creditFlash := 0, admittedInBead := 0 }
        match firstBad [(!okFmt, 0x0108), (k.params.encrypted && key.isNone, 0x0401),
            (k.params.encrypted && key.map keyCheckOf != some k.keyCheck, 0x0402), (!attachFits s n, 0x020F)] with
        | some st => replyRefuse s c st
        | none =>
          let s1 := attachPages (setColl s id n) id
          replyOk s1 c (attachArea n) []

def execCollectionAttach (c : Capsule) (s : State) : Res := .next (receive 0x83 c decideAttach s)

end Sys2Proof.Machine
end

