-- ==== Sys2Proof/Machine/Train.lean ====
section
/-! DEFINITION. The arithmetic of learning: layers of an encoder, its training copy and its quantisation (R142, R144 to
R147, R152), and the optimiser step (R157). -/

namespace Sys2Proof.Machine

/-! ## Layers -/

def packNibbles : List Byte → List Byte
  | [] => []
  | [a] => [a &&& 0x0F]
  | a :: b :: r => ((a &&& 0x0F) ||| (b <<< 4)) :: packNibbles r

/-- The image bytes of a trunk layer. -/
def layerImage (wf : Nat) (l : Layer) : List Byte :=
  let codes := l.rows.flatten
  pad8 (l.act.map w16Bytes).flatten ++ pad8 (if wf = 0 then packNibbles codes else codes) ++
    pad8 (l.sc.flatten.map w16Bytes).flatten ++ pad8 (l.gain.map w16Bytes).flatten

/-- The trunk layers and the projection, in order, with their layer numbers. -/
def encLayers (enc : Encoder) : List (Nat × Layer) := trunkLayers enc ++ [(projLayer, projection enc)]

/-- The encoder with other layers. -/
def withLayers (enc : Encoder) (ls : List Layer) : Encoder :=
  let e1 := { enc with trunk := ((ls.take enc.layers).map (layerImage enc.wformat)).flatten }
  match ls.getLast? with
  | some p => { e1 with actScale := p.act, weights := p.rows, wScale := p.sc }
  | none => e1

/-! ## Quantisation -/

/-- The smallest positive BF16 value, 2^−133. -/
def leastScale : BitVec 16 := 1

/-- A scale held above zero (R146). -/
def heldScale (x : Num) : BitVec 16 :=
  let w := Num.toBf16 x
  if w = 0 || w.getLsbD 15 then leastScale else w

/-- Largest magnitude of a weight format (R146). -/
def weightQmax (wf : Nat) : Nat := if wf = 0 then 7 else 448

/-- One value narrowed to the weight format, and whether it was clipped. -/
def weightCode (wf : Nat) (x : Num) : Byte × Bool :=
  if wf = 0 then (BitVec.ofInt 8 (Num.toIntClamp (-8) 7 x) &&& 0x0F, Num.clipsInt (-8) 7 x)
  else (Num.toE4m3 x, Num.clipsFmt .e4m3 x)

/-- A quantised weight group: scale, codes, clipped values, and whether it is degenerate (R152). -/
def weightGroup (wf : Nat) (sc : Num) (xs : List Num) : BitVec 16 × List Byte × Nat × Bool :=
  if xs.all Num.isZero then (leastScale, xs.map fun _ => 0, 0, true)
  else
    let s := heldScale sc
    let qs := xs.map fun x => weightCode wf (Num.fl (Num.div x (Num.ofBf16 s)))
    (s, qs.map Prod.fst, qs.countP Prod.snd, false)

/-- What quantising an encoder leaves: the encoder, its counts per tensor and position, its degenerate groups. -/
structure Quantised where
  enc : Encoder
  counts : List PosCount
  deriving DecidableEq, Repr

/-- Quantise one layer from the tensors of its training copy. -/
def quantLayer (wf g no : Nat) (l : Layer) (act w sc gain : List F32) : Layer × List PosCount × List (Nat × Nat × Nat) :=
  let n := ceilDiv l.inDim (groupLen g)
  let rows := ((chunks l.inDim (w.map Num.ofF32)).zip (chunks n (sc.map Num.ofF32))).map fun (xs, ss) =>
    ((chunks (groupLen g) xs).zip ss).map fun (ys, s) => weightGroup wf s ys
  let off := ((rows.zipIdx).map fun (r, i) => (r.zipIdx).filterMap fun (q, p) => if q.2.2.2 then some (no, i, p) else none).flatten
  let counts := (List.range n).map fun p =>
    let col := rows.filterMap fun r => r[p]?
    (⟨tensorNo no 0, p, sumN (col.map fun q => q.2.2.1), sumN (col.map fun q => q.2.1.length), col.any fun q => !q.2.2.2, .zero⟩ : PosCount)
  ({ l with act := act.map fun a => heldScale (Num.ofF32 a), rows := rows.map fun r => (r.map fun q => q.2.1).flatten
            sc := rows.map fun r => r.map Prod.fst, gain := gain.map fun a => Num.toBf16 (Num.ofF32 a) }, counts, off)

/-- The weights of a row, decoded: each group's scale times its codes (R144). -/
def decodedRow (wf g : Nat) (row : List Byte) (sc : List (BitVec 16)) : List Num :=
  (((chunks (groupLen g) row).zip sc).map fun (cs, s) => cs.map fun c => Num.mul (Num.ofBf16 s) (weightNum wf c)).flatten

def decodedRows (wf g : Nat) (l : Layer) : List (List Num) := (l.rows.zip l.sc).map fun (r, sc) => decodedRow wf g r sc

/-- The tensors of a layer in the training copy: activation scales, weights, weight scales, gains. -/
def layerTensors (wf g : Nat) (l : Layer) : List (List F32) :=
  let w := (decodedRows wf g l).flatten.map Num.toF32
  let f (ws : List (BitVec 16)) : List F32 := ws.map fun x => Num.toF32 (Num.ofBf16 x)
  [f l.act, w, f l.sc.flatten, f l.gain]

/-- Every learned parameter of an encoder in FP32: four tensors a layer, then the codebooks (R142). -/
def tensorsOf (enc : Encoder) : List (List F32) :=
  ((encLayers enc).map fun (_, l) => layerTensors enc.wformat enc.group l).flatten ++
    [(enc.books.flatten.flatten).map fun x => Num.toF32 (Num.ofBf16 x)]

def quantLayers (wf g : Nat) : List (Nat × Layer) → List (List F32) → List (Layer × List PosCount × List (Nat × Nat × Nat)) × List (List F32)
  | [], ts => ([], ts)
  | (no, l) :: r, a :: w :: sc :: ga :: ts =>
    let (xs, rest) := quantLayers wf g r ts
    (quantLayer wf g no l a w sc ga :: xs, rest)
  | _ :: _, ts => ([], ts)

/-- Quantise the training copy into the serving formats (R157). -/
def quantise (enc : Encoder) (ts : List (List F32)) : Quantised :=
  let (ls, rest) := quantLayers enc.wformat enc.group (encLayers enc) ts
  let sub := match enc.books with | b :: _ => (b.headD []).length | [] => 0
  let books := match rest with
    | b :: _ => chunks 256 (chunks sub (b.map fun x => Num.toBf16 (Num.ofF32 x)))
    | [] => enc.books
  let e1 := withLayers enc (ls.map Prod.fst)
  ⟨{ e1 with books := books, wOff := (ls.map fun x => x.2.2).flatten }, (ls.map fun x => x.2.1).flatten⟩

/-- The absmax scale of a group: absmax ÷ Qmax rounded to BF16, and 2^−133 where every value is zero (R146, R147, R152). -/
def absmaxScale (qmax : Nat) (xs : List Num) : BitVec 16 :=
  if xs.all Num.isZero then leastScale else heldScale (Num.fl (Num.div (absmaxOf xs) (.ofNat qmax)))

/-- Weight scales taken anew from the weights (R146). -/
def freshWeights (enc : Encoder) : List (List F32) :=
  let g := groupLen enc.group
  let layer (l : Layer) : List (List F32) :=
    match layerTensors enc.wformat enc.group l with
    | [a, w, _, ga] =>
      let sc := ((chunks l.inDim w).map fun r => (chunks g r).map fun xs =>
        Num.toF32 (Num.ofBf16 (absmaxScale (weightQmax enc.wformat) (xs.map Num.ofF32)))).flatten
      [a, w, sc, ga]
    | ts => ts
  ((encLayers enc).map fun x => layer x.2).flatten ++ [(enc.books.flatten.flatten).map fun x => Num.toF32 (Num.ofBf16 x)]

/-- Set the activation scales of every layer: `f` gives them by layer number and position, where it gives one. -/
def setActScales (enc : Encoder) (f : Nat → Nat → Option (BitVec 16)) : Encoder :=
  let ls := (encLayers enc).map fun (no, l) => { l with act := (l.act.zipIdx).map fun (a, p) => (f no p).getD a }
  withLayers enc ls

/-! ## Training copy -/

def blankMoments (w : List F32) : Trained :=
  let z := List.replicate (ceilDiv w.length 128) leastScale
  ⟨w, List.replicate w.length 0, List.replicate w.length 0, z, z⟩

/-- One activation scale of a training copy set anew (R152). -/
def setCopyScale (enc : Encoder) (no pos : Nat) (sc : BitVec 16) (copy : List Trained) : List Trained :=
  let at_ := 4 * ((encLayers enc).map Prod.fst).idxOf no
  (copy.zipIdx).map fun (t, i) => if i = at_ then { t with w := t.w.set pos (Num.toF32 (Num.ofBf16 sc)) } else t

/-- The activation scales of a training copy taken from its encoder, at the first micro-batch (R146). -/
def refreshScales (enc : Encoder) (copy : List Trained) : List Trained :=
  let acts := (encLayers enc).map fun x => x.2.act.map fun a => Num.toF32 (Num.ofBf16 a)
  (copy.zipIdx).map fun (t, i) => if i % 4 = 0 then { t with w := acts.getD (i / 4) t.w } else t

/-- A moment tensor narrowed in groups of 128 (R142, R147): scales, codes, and clipped and encoded values by group. -/
structure Packed where
  scales : List (BitVec 16)
  codes : List Byte
  counts : List PosCount
  deriving DecidableEq, Repr

def packMoments (lo hi : Int) (qmax : Nat) (xs : List Num) : Packed :=
  let gs := ((chunks 128 xs).zipIdx).map fun (ys, p) =>
    let s := absmaxScale qmax ys
    let zs := ys.map fun y => Num.fl (Num.div y (Num.ofBf16 s))
    (s, zs.map fun z => BitVec.ofInt 8 (Num.toIntClamp lo hi z),
      (⟨0, p, zs.countP (Num.clipsInt lo hi), ys.length, ys.any fun y => !y.isZero, absmaxOf ys⟩ : PosCount))
  ⟨gs.map Prod.fst, (gs.map fun x => x.2.1).flatten, gs.map fun x => x.2.2⟩

def unpack (signed : Bool) (qs : List Byte) (ss : List (BitVec 16)) : List Num :=
  (((chunks 128 qs).zip ss).map fun (cs, s) =>
    cs.map fun c => Num.mul (Num.ofBf16 s) (if signed then Num.ofInt8 c else .ofNat c.toNat)).flatten

def mulF (x y : Num) : Num := Num.fl (Num.mul x y)

/-- The optimiser step of one tensor (R157), with the counts of its two moments. `hold`: it holds scales, and one that would
fall to zero or below is held at 2^−133 (R146). -/
def stepTensor (p : RunParams) (hold : Bool) (t : Trained) (g : List Num) : Trained × List PosCount × List PosCount :=
  let b1 := Num.ofF32 p.beta1
  let b2 := Num.ofF32 p.beta2
  let c1 := Num.fl (Num.sub .one b1)
  let c2 := Num.fl (Num.sub .one b2)
  let ms := ((unpack true t.m8 t.mScale).zip g).map fun (m, x) => Num.fl (Num.add (mulF b1 (Num.fl m)) (mulF c1 x))
  let rs := ((unpack false t.r8 t.rScale).zip g).map fun (r, x) =>
    Num.fl (Num.sqrt (Num.fl (Num.add (mulF b2 (mulF (Num.fl r) (Num.fl r))) (mulF c2 (mulF x x)))))
  let ws := ((t.w.map Num.ofF32).zip (ms.zip rs)).map fun (w, m, r) =>
    let d := Num.fl (Num.div (mulF (Num.ofF32 p.rate) m) (Num.fl (Num.add r (Num.ofF32 p.eps))))
    let v := Num.fl (Num.sub w d)
    if hold && Num.le v .zero then .pow2 (-133) else v
  let m := packMoments (-128) 127 127 ms
  let r := packMoments 0 255 255 rs
  (⟨ws.map Num.toF32, m.codes, r.codes, m.scales, r.scales⟩, m.counts, r.counts)

/-- The values of a tensor, with zeros for those that are missing. -/
def padTo (n : Nat) (xs : List Num) : List Num := (List.range n).map fun i => xs.getD i .zero

/-- Add a micro-batch's weight gradients to the accumulator, as the memory-side adders do: one FP32 rounding for each sum
(R132, R160). -/
def accumulate (acc : List (List F32)) (gs : List (List Num)) : List (List F32) :=
  (gs.zipIdx).map fun (g, i) =>
    let a := acc.getD i []
    (g.zipIdx).map fun (x, j) => Num.toF32 (Num.add (Num.ofF32 (a.getD j 0)) x)

/-- Gradients of the elements and scales of degenerate groups are zero before they enter the accumulator (R152). Tensor `k` of
a layer: 0 activation scales, 1 weights, 2 weight scales. -/
def maskGrads (enc : Encoder) (gs : List (List Num)) : List (List Num) :=
  let ls := encLayers enc
  let len := groupLen enc.group
  (gs.zipIdx).map fun (g, i) =>
    match ls[i / 4]? with
    | none => g
    | some (no, l) =>
      let n := ceilDiv l.inDim len
      (g.zipIdx).map fun (x, j) =>
        let off := match i % 4 with
          | 0 => actFlagged enc no j
          | 1 => enc.wOff.contains (no, j / l.inDim, j % l.inDim / len)
          | 2 => enc.wOff.contains (no, j / n, j % n)
          | _ => false
        if off then .zero else x

/-- A list of tensors holds scales at these places: activation and weight scales of each layer. -/
def holdsScales (layers i : Nat) : Bool := i < 4 * layers && (i % 4 == 0 || i % 4 == 2)

/-- The optimiser over a whole copy and the accumulated gradients; the counts are those of the moments of the weight tensors,
the ones that R391 numbers. -/
def stepCopy (p : RunParams) (enc : Encoder) (copy : List Trained) (acc : List (List F32)) : List Trained × List PosCount :=
  let ls := encLayers enc
  let done := (copy.zipIdx).map fun (t, i) =>
    (i, stepTensor p (holdsScales ls.length i) t (padTo t.w.length ((acc.getD i []).map Num.ofF32)))
  let counts := (done.map fun (i, _, mc, rc) =>
    match ls[i / 4]? with
    | some (no, _) =>
      if i % 4 = 1 then
        mc.map (fun c => { c with tensor := tensorNo no 4 }) ++ rc.map fun c => { c with tensor := tensorNo no 5 }
      else []
    | none => []).flatten
  (done.map fun x => x.2.1, counts)

end Sys2Proof.Machine
end

