-- ==== Sys2Proof/Machine/Backward.lean ====
section
/-! DEFINITION. A micro-batch: its loss (R155) and its backward pass: straight-through estimators (R146, R156), gradients
narrowed to FP8 E5M2 (R142, R144, R147) and counted (R145, R150), and what enters the accumulator (R152, R160, R161). The
spec names the derivatives and writes out few of them: how the others are formed and rounded is log entry 36. -/

namespace Sys2Proof.Machine

/-! ## The loss -/

/-- Both sides of a pair under an encoder: the encoder's input, the encoded vector, the projected values, the PQ code and
the reconstruction. -/
structure Side where
  x : List Num
  e : List Num
  ys : List Num
  code : List Byte
  hat : List Num
  deriving DecidableEq, Repr

def Side.sketch (a : Side) : Nat := signBits a.ys

/-- Bit j of a sketch as a sign (R155). -/
def signsOf (ys : List Num) : List Num := ys.map fun y => if Num.lt .zero y then .one else Num.one.neg

def sideOf (enc : Encoder) (metric : Nat) (ord : List Nat) (v : List F32) : Side :=
  let xs := v.map Num.ofF32
  let x := (prepared metric ord xs).getD xs
  let e := encVec enc ord x
  let code := pqCode enc ord e
  ⟨x, e, projected enc ord e, code, ((enc.books.zip code).map fun (b, c) => centroid (b.getD c.toNat [])).flatten⟩

def subF (x y : Num) : Num := Num.fl (Num.sub x y)
def addF (x y : Num) : Num := Num.fl (Num.add x y)
def divF (x y : Num) : Num := Num.fl (Num.div x y)

/-- ‖e − c‖² of a side, over all its sub-vectors. -/
def Side.commit (ord : List Nat) (a : Side) : Num :=
  (sumSquares ord ((a.e.zip a.hat).map fun (x, y) => subF x y)).result

def exNum (x : Num) : Num := expNear (Config.expStep (Num.toF32 x) % 5) x
def logNum (x : Num) : Num := Num.ofF32 (Config.log32 (Num.toF32 x))

/-- The sum z of a row of R139. -/
def RowSum.z_ (r : RowSum) : Num := r.sum (Num.ofF32 Config.emptyRow)

/-- −log softmax of element `i` of a row, formed with the row maximum and sum of R139. -/
def negLogSoftmax (ord : List Nat) (row : List Num) (i : Nat) : Num :=
  let r := rowSum exNum ord row
  subF (addF r.m (logNum r.z_)) (row.getD i .nan)

/-- The soft-maximum of a row. -/
def softRow (ord : List Nat) (row : List Num) : List Num :=
  let r := rowSum exNum ord row
  row.map fun x => divF (exNum (subF x r.m)) r.z_

/-- s[i][j] ÷ τ of R155. -/
def simOf (l : Nat) (tau : Num) (a b : Side) : Num :=
  divF (divF (Num.ofInt ((l : Int) - 2 * hamming l a.sketch b.sketch)) (.ofNat l)) tau

/-- t[i][j] ÷ τ of R155. -/
def teeOf (metric : Nat) (ord : List Nat) (de tau : Num) (a b : Side) : Num :=
  let x := if metric = 0 then (Num.fl (l2Num ord a.e b.hat)).neg else (dotPair ord a.e b.hat).result
  divF (divF x de) tau

/-- What a micro-batch's arithmetic depends on beside its sides. -/
structure LossCtx where
  enc : Encoder
  metric : Nat
  l : Nat
  ord : List Nat
  p : RunParams
  deriving DecidableEq, Repr

def LossCtx.side (k : LossCtx) (v : List F32) : Side := sideOf k.enc k.metric k.ord v
def LossCtx.tau (k : LossCtx) : Num := Num.ofF32 k.p.tau
def LossCtx.dim (k : LossCtx) : Num := .ofNat (encDim k.enc)
def LossCtx.simRow (k : LossCtx) (ps : List Side) (a : Side) : List Num := ps.map (simOf k.l k.tau a)
def LossCtx.teeRow (k : LossCtx) (ps : List Side) (a : Side) : List Num := ps.map (teeOf k.metric k.ord k.dim k.tau a)
def LossCtx.sum (k : LossCtx) (xs : List Num) : Num := (sumOrd k.ord xs).result

/-- The loss of a micro-batch. -/
def lossOf (k : LossCtx) (pairs : List (List F32 × List F32)) : F32 :=
  let as := pairs.map fun x => k.side x.1
  let ps := pairs.map fun x => k.side x.2
  let term (a : Side) (i : Nat) : Num := addF (negLogSoftmax k.ord (k.simRow ps a) i) (negLogSoftmax k.ord (k.teeRow ps a) i)
  let n := pairs.length
  let first := divF (k.sum ((as.zipIdx).map fun (a, i) => term a i)) (.ofNat n)
  let commit := divF (k.sum (ps.map (Side.commit k.ord))) (.ofNat (n * k.enc.books.length))
  Num.toF32 (Num.add first (mulF (Num.ofF32 k.p.lambda) commit))

/-! ## Gradients as they leave a tensor array -/

/-- A row of gradients narrowed to FP8 E5M2 in groups, each under its own absmax scale (R142, R144, R147): the values it
decodes to, and the counts of its groups under a tensor number. -/
def narrowGrad (g tensor : Nat) (xs : List Num) : List Num × List PosCount :=
  let gs := ((chunks g xs).zipIdx).map fun (ys, p) =>
    let s := absmaxScale 57344 ys
    let zs := ys.map fun y => divF y (Num.ofBf16 s)
    (zs.map fun z => Num.mul (Num.ofBf16 s) (Num.ofE5m2 (Num.toE5m2 z)),
      (⟨tensor, p, zs.countP (Num.clipsFmt .e5m2), ys.length, ys.any fun y => !y.isZero, absmaxOf ys⟩ : PosCount))
  ((gs.map Prod.fst).flatten, gs.map Prod.snd)

/-- One value through the straight-through estimator (R146): its code's value `q`, x ÷ s, whether it was clipped, the
gradient of its decoded value. Answers the gradients of x and, before the factor, of the scale. -/
def ste (q z : Num) (clipped : Bool) (up : Num) : Num × Num :=
  if clipped then (.zero, Num.mul up q) else (up, Num.mul up (subF q z))

/-- The estimator over a group of one scale: `code` narrows x ÷ s and says whether it clips. -/
def steGroup (code : Num → Num × Bool) (s : Num) (xs ups : List Num) : List (Num × Num) :=
  (xs.zip ups).map fun (x, up) =>
    let z := divF x s
    let (q, c) := code z
    ste q z c up

/-- 1 ÷ sqrt(G × Qmax), by which a scale's gradient is multiplied (R146). -/
def scaleFactor (g qmax : Nat) : Num := divF .one (Num.fl (Num.sqrt (.ofNat (g * qmax))))

def actCode (z : Num) : Num × Bool := (Num.ofE4m3 (Num.toE4m3 z), Num.clipsFmt .e4m3 z)
def weightCodeNum (wf : Nat) (z : Num) : Num × Bool := let (c, k) := weightCode wf z; (weightNum wf c, k)

def column (rows : List (List Num)) (i : Nat) : List Num := rows.map fun r => r.getD i .zero

/-! ## One linear layer -/

/-- Gradients of one layer: its tensors in the order of the training copy, the gradients of its inputs by row, the counts of
its output gradients (kind 3) and of its weight gradients (kind 2). -/
structure LayerGrads where
  tensors : List (List Num)
  dx : List (List Num)
  actCounts : List PosCount
  wCounts : List PosCount
  deriving DecidableEq, Repr

/-- The backward pass of a linear layer, from its inputs and the gradients of its outputs, row by row. `gG` is the group
length of gradients, `w` the layer's weights in the training copy. -/
def backLinear (enc : Encoder) (ord : List Nat) (gG no : Nat) (l : Layer) (w : List F32) (rows : List (List Num × List Num)) :
    LayerGrads :=
  let g := groupLen enc.group
  let dys := rows.map fun r => narrowGrad gG (tensorNo no 3) r.2
  let dyv := dys.map Prod.fst
  let xv := rows.map fun r => ((actCodes enc no l.act r.1).map fun (cs, s) => cs.map (Num.mul s)).flatten
  let wv := decodedRows enc.wformat enc.group l
  let ups := dyv.map fun d => (List.range l.inDim).map fun i => (dotPair ord d (column wv i)).result
  let acts := (rows.zip ups).map fun (r, up) =>
    (((chunks g r.1).zip (chunks g up)).zip l.act).map fun ((xs, us), s) => steGroup actCode (Num.ofBf16 s) xs us
  let dAct := (List.range l.act.length).map fun p =>
    mulF (sumOrd ord (acts.map fun a => (a.getD p []).map Prod.snd).flatten).result (scaleFactor g 448)
  let dw := (List.range l.rows.length).map fun o =>
    narrowGrad gG (tensorNo no 2) ((List.range l.inDim).map fun i => (dotPair ord (column dyv o) (column xv i)).result)
  let ws := ((chunks l.inDim (w.map Num.ofF32)).zip (l.sc.zip (dw.map Prod.fst))).map fun (xs, ss, us) =>
    (((chunks g xs).zip (chunks g us)).zip ss).map fun ((ys, vs), s) => steGroup (weightCodeNum enc.wformat) (Num.ofBf16 s) ys vs
  let dSc := ws.flatten.map fun q => mulF (sumOrd ord (q.map Prod.snd)).result (scaleFactor g (weightQmax enc.wformat))
  { tensors := [dAct, ws.flatten.flatten.map Prod.fst, dSc, []], dx := acts.map fun a => a.flatten.map Prod.fst
    actCounts := (dys.map Prod.snd).flatten, wCounts := (dw.map Prod.snd).flatten }

/-! ## The trunk -/

/-- Values of an opaque derivative, as many as asked for. -/
def takeF32 (n : Nat) (xs : List F32) : List Num := padTo n (xs.map Num.ofF32)

/-- The backward pass of trunk layers, from the gradients `dE` of the last outputs: each layer with its normalisation in one
kernel (R161). -/
def backTrunk (enc : Encoder) (ord : List Nat) (gG : Nat) (w : Nat → List F32) (dE : List (List Num)) :
    List (Nat × Layer) → List (List Num) → List LayerGrads × List (List Num)
  | [], _ => ([], dE)
  | (no, l) :: r, xs =>
    let ys := xs.map (linearRow enc ord no l)
    let (t, dz) := backTrunk enc ord gG w dE r (ys.map (layerNorm ord l.gain))
    let f32 (v : List Num) : List F32 := v.map Num.toF32
    let dys := (ys.zip dz).map fun (y, d) => takeF32 y.length (Config.normGrad (f32 y) l.gain (f32 d))
    let gains := (ys.zip dz).map fun (y, d) => takeF32 l.gain.length (Config.normGainGrad (f32 y) l.gain (f32 d))
    let b := backLinear enc ord gG no l (w no) (xs.zip dys)
    let dGain := (List.range l.gain.length).map fun i => (sumOrd ord (column gains i)).result
    ({ b with tensors := b.tensors.take 3 ++ [dGain] } :: t, b.dx)

/-! ## The loss backward -/

/-- Gradients of the loss: of the projected values and the encoded vectors of both sides, and of the centroids. -/
structure LossGrads where
  dyA : List (List Num)
  dyP : List (List Num)
  deA : List (List Num)
  deP : List (List Num)
  books : List Num
  deriving DecidableEq, Repr

/-- ∂ loss ÷ ∂ s[i][j] of the similarity rows: (softmax − [i = j]) ÷ (N τ). -/
def LossCtx.rowGrads (k : LossCtx) (n : Nat) (rows : List (List Num)) : List (List Num) :=
  (rows.zipIdx).map fun (row, i) => ((softRow k.ord row).zipIdx).map fun (x, j) =>
    divF (if i = j then subF x .one else x) (mulF (.ofNat n) k.tau)

/-- The gradient through sign(): unchanged where |y| ≤ 1, zero elsewhere (R156). -/
def throughSign (ys ds : List Num) : List Num := (ys.zip ds).map fun (y, d) => if Num.le y.abs .one then d else .zero

/-- What one side's sketch receives from the other sides' signs, weighted by `gs`. -/
def LossCtx.signGrad (k : LossCtx) (gs : List Num) (others : List (List Num)) (ys : List Num) : List Num :=
  throughSign ys ((List.range ys.length).map fun b => divF (k.sum ((gs.zip (column others b)).map fun (g, x) => Num.mul g x)) (.ofNat k.l))

/-- What one vector receives from the others in t: under L2 `c` × (mine − other) of each pair of vectors, else the other
vector itself, weighted by `gs` and divided by d_e. -/
def LossCtx.vecGrad (k : LossCtx) (gs : List Num) (pairs : List (List Num × List Num)) (n : Nat) (c : Int) : List Num :=
  (List.range n).map fun b =>
    divF (k.sum ((gs.zip pairs).map fun (g, x, o) =>
      if k.metric = 0 then Num.mul g (Num.mul (.ofInt c) (subF (x.getD b .zero) (o.getD b .zero))) else Num.mul g (o.getD b .zero))) k.dim

/-- The gradient of the commitment term to e of a positive side: 2 λ (e − c) ÷ (N M). -/
def LossCtx.commitGrad (k : LossCtx) (n : Nat) (a : Side) : List Num :=
  (a.e.zip a.hat).map fun (x, y) =>
    divF (mulF (mulF (.ofNat 2) (Num.ofF32 k.p.lambda)) (subF x y)) (.ofNat (n * k.enc.books.length))

def lossGrads (k : LossCtx) (as ps : List Side) : LossGrads :=
  let n := as.length
  let gs := k.rowGrads n (as.map (k.simRow ps))
  let gt := k.rowGrads n (as.map (k.teeRow ps))
  let sa := as.map fun a => signsOf a.ys
  let sp := ps.map fun b => signsOf b.ys
  let dc := ps.map (k.commitGrad n)
  let d := encDim k.enc
  let sub := match k.enc.books with | b :: _ => (b.headD []).length | [] => 0
  { dyA := (as.zipIdx).map fun (a, i) => k.signGrad (gs.getD i []) sp a.ys
    dyP := (ps.zipIdx).map fun (b, j) => k.signGrad (column gs j) sa b.ys
    deA := (as.zipIdx).map fun (a, i) => k.vecGrad (gt.getD i []) (ps.map fun b => (a.e, b.hat)) d (-2)
    deP := (ps.zipIdx).map fun (b, j) =>
      -- ê passes its gradient to e unchanged (R156)
      ((k.vecGrad (column gt j) (as.map fun a => (b.hat, a.e)) d (-2)).zip (dc.getD j [])).map
        fun (x, y) => addF x y
    books := ((k.enc.books.zipIdx).map fun (book, m) => ((book.zipIdx).map fun (_, c) =>
      let mine := (ps.zip dc).filter fun (b, _) => (b.code.map BitVec.toNat)[m]? == some c
      (List.range sub).map fun x => k.sum (mine.map fun (_, v) => (v.getD (sub * m + x) .zero).neg)).flatten).flatten }

/-! ## The micro-batch backward -/

/-- What the backward pass of a micro-batch forms: the gradients of every tensor of the training copy, those of degenerate
groups zero, and the counts of its activation and weight gradients. -/
structure MbGrads where
  tensors : List (List Num)
  actCounts : List PosCount
  wCounts : List PosCount
  deriving DecidableEq, Repr

def backward (k : LossCtx) (gG : Nat) (copyW : List (List F32)) (pairs : List (List F32 × List F32)) : MbGrads :=
  let as := pairs.map fun x => k.side x.1
  let ps := pairs.map fun x => k.side x.2
  let g := lossGrads k as ps
  let w (i : Nat) : List F32 := copyW.getD (4 * i + 1) []
  let rows := as ++ ps
  let proj := backLinear k.enc k.ord gG projLayer (projection k.enc) (w k.enc.layers)
    ((rows.map Side.e).zip (g.dyA ++ g.dyP))
  let dE := (proj.dx.zip (g.deA ++ g.deP)).map fun (x, y) => (x.zip y).map fun (a, b) => addF a b
  let (trunk, _) := backTrunk k.enc k.ord gG w dE (trunkLayers k.enc) (rows.map Side.x)
  let all := trunk ++ [proj]
  { tensors := maskGrads k.enc ((all.map LayerGrads.tensors).flatten ++ [g.books])
    actCounts := (all.map LayerGrads.actCounts).flatten, wCounts := (all.map LayerGrads.wCounts).flatten }

end Sys2Proof.Machine
end

