-- ==== Sys2Proof/Machine/Write.lean ====
section
/-! DEFINITION. Writes and filters (R29 to R36, R42 to R52, R208 to R212, R274 to R279, R406) and MERGE_HINT. -/

namespace Sys2Proof.Machine

/-- What refuses every new admission: no fabric time (R103), the third shed step (R359). -/
def admitStatus (s : State) : BitVec 16 :=
  if !s.time.held then 0x0202 else if 3 ≤ s.power.effective then 0x0220 else 0

/-- HOLDUP_LOW is set (R216). -/
def holdupSet (s : State) : Bool := (getCol s 72).status.getLsbD 10

/-- A partial setting has closed a pipeline to searches and raw writes (R334 step 1). -/
def pipelineClosed (s : State) (pipeline : Nat) : Bool :=
  match s.loader.part with
  | some p => p.group.id == pipeline && p.step != .waitEdge
  | none => false

/-- Reservations exceed the capacity that a bypass left (R208). -/
def flashShort (s : State) : Bool := flashCapacity s < flashReserved s + s.pools.relFlash

/-- The admission checks of a write on its collection; 0 admits. While a flush runs no write is admitted, even when the third
shed step has cleared (R361). -/
def writeStatus (s : State) (c : Capsule) : BitVec 16 :=
  if admitStatus s != 0 then admitStatus s
  else if s.power.flushing then 0x0220
  else if holdupSet s then 0x021F
  else collStatus s c.coll.toNat

/-- Admit a write: reserve its records and keep it until it commits (R209, R410). -/
def admitWrite (s : State) (c : Cmd) (n : Nat) : State :=
  if fitsBuffer s n then
    let s1 := reserveFor (countAdmit s c.ref.queue) c n
    updCmd s1 c.ref.queue c.ref.tag fun x => { x with stage := .admitted (beadNow s) }
  else replyRefuse s c 0x020D

/-! ## INSERT and UPSERT -/

/-- Decide an INSERT or UPSERT. -/
def decideItem (s : State) (c : Cmd) : State :=
  let st := writeStatus s c.cap
  if st != 0 then replyRefuse s c st
  else match getColl s c.ref.coll with
  | none => s
  | some k =>
    let raw := !preEncoded c.ref.flags
    if raw && pipelineClosed s k.att.pipeline then replyRefuse s c 0x021B
    else match parseItem k c.cap with
    | .error st => replyRefuse s c st
    | .ok _ =>
      if flashShort s then replyRefuse s c 0x020E
      else
        let s1 := admitWrite s c (writeResv k.params c.ref.op c.cap)
        if raw && (findCmd s1 c.ref.queue c.ref.tag).isSome then
          launchTensor s1 (.writeEncode c.ref.queue c.ref.tag) c.ref.coll (feedFacet s1 k.att.pipeline)
        else s1

def execInsert (c : Capsule) (s : State) : Res := .next (receive 0x10 c decideItem s)
def execUpsert (c : Capsule) (s : State) : Res := .next (receive 0x12 c decideItem s)

/-- Apply an INSERT or UPSERT in commit order, its delete record last: existence, epoch, capacity, then the stamp (R40, R51, R52, R406). -/
def applyItem (s : State) (c : Cmd) (k : Coll) (want : Nat) (ord : List Nat) : State :=
  match parseItem k c.cap, newestEpoch k with
  | .ok i, some ep =>
    let old := liveSlot k i.id
    let ups := c.ref.op == 0x12
    if !ups && old.isSome then replyRefuse s c 0x0112
    else if i.raw.isNone && (epochOf k i.epoch).isNone then replyRefuse s c 0x010D
    else match capacityCheck k true (ups && old.isSome) want with
    | some st => replyRefuse s c st
    | none => match freeSlot k want with
      | none => s
      | some slot =>
        let b := beadNow s
        let (e, sk, code, vec) := itemCodes k.params ep ord i
        let s0 := match i.raw with
          | some (fmt, bs) =>
            let xs := embNums fmt bs
            countEpoch s c.ref.coll ep ord ((prepared k.params.metric ord xs).getD xs)
          | none => s
        let gone (k : Coll) : Coll := match old with | some o => { k with recent := k.recent ++ [(o, b)] } | none => k
        let br := resolveBridges (gone k) i.id b i.bridges
        let s1 := commitInsert s0 c.ref.coll i.id ⟨slot, e, sk, code, br⟩ vec i.row
        let s2 := match old with | some o => commitDelete s1 c.ref.coll o | none => s1
        let area := writeArea slot b e br.length (if ups && old.isSome then 1 else 0) (if ups then old else none)
        replyOk (markWrite s2 c) c area []
  | _, _ => replyRefuse s c 0x010D

/-! ## DELETE -/

def decideDelete (s : State) (c : Cmd) : State :=
  let st := writeStatus s c.cap
  if st != 0 then replyRefuse s c st
  else if areaField c.cap.area 24 8 = 2 ^ 64 - 1 then replyRefuse s c 0x0111
  else if !c.cap.body.isEmpty then replyRefuse s c 0x0106
  else match getColl s c.ref.coll with
  | none => s
  | some k => admitWrite s c (writeResv k.params 0x11 c.cap)

def execDelete (c : Capsule) (s : State) : Res := .next (receive 0x11 c decideDelete s)

/-- Apply a DELETE: one that finds no item replies DELETED 0 with its stamp (R45, R51, R276). -/
def applyDelete (s : State) (c : Cmd) (k : Coll) : State :=
  let b := beadNow s
  match liveSlot k (BitVec.ofNat 64 (areaField c.cap.area 24 8)) with
  | none => replyOk (markWrite s c) c (writeArea 0 b 0 0 0 none) []
  | some slot => match capacityCheck k false true 0 with
    | some st => replyRefuse s c st
    | none => replyOk (markWrite (commitDelete s c.ref.coll slot) c) c (writeArea slot b 0 0 1 none) []

/-! ## Filters (R64, R279) -/

/-- Staged object of a filter in another queue (R279). -/
def filterBusy (s : State) (c : Cmd) (fid : Nat) : Bool :=
  s.queues.objects.any fun o => o.op == 0x20 && o.final.isNone && o.queue != c.ref.queue && o.coll == c.ref.coll && o.target == fid

/-- FILTER_PUT: parts that are not final are staged; the final one is a write. -/
def decideFilterPut (s : State) (c : Cmd) : State :=
  let fin := isFinal c.ref.flags
  let st := if fin then writeStatus s c.cap else collStatus s c.ref.coll
  let fid := areaField c.cap.area 40 2
  if st != 0 then refusePart s c st
  else match getColl s c.ref.coll with
  | none => s
  | some k =>
    if k.params.filterSlots ≤ fid || k.params.slotCap / 8 < areaField c.cap.area 32 8 then refusePart s c 0x0108
    else if filterBusy s c fid then refusePart s c 0x021E
    else if flashShort s then refusePart s c 0x020E
    else match takePart s c fid with
    | none => refusePart s c 0x0117
    | some o =>
      if !fin then replyOk (stagePart s o c.cap.body.length) c 0 []
      else if fitsBuffer s pubExtent then admitWrite (stagePart s { o with final := some c.ref.tag } c.cap.body.length) c pubExtent
      else refusePart s c 0x020D

def execFilterPut (c : Capsule) (s : State) : Res := .next (receive 0x20 c decideFilterPut s)

/-- The version in force of a filter id ends at bead `b`. A drop also takes the version that a FILTER_PUT of the same bead
replaced: from the snapshots of that bead on the id has no bitmap (R64). -/
def endFilter (k : Coll) (fid b : Nat) (replaced : Bool) : Coll :=
  { k with filters := k.filters.map fun v =>
      if v.id != fid then v
      else if v.drop.isNone then { v with drop := some b, replaced := replaced }
      else if !replaced && v.drop == some b then { v with replaced := false } else v }

def applyFilterPut (s : State) (c : Cmd) (k : Coll) : State :=
  let b := beadNow s
  match s.queues.objects.find? (finalOf c) with
  | none => replyRefuse s c 0x0117
  | some o =>
    let k1 := endFilter k o.target b true
    let s1 := setColl (dropObjects s (finalOf c)) c.ref.coll { k1 with filters := k1.filters ++ [⟨o.target, b, none, false, leNat o.bytes⟩] }
    let base := k.params.regionBase .filters
    let staged := (List.range k.params.bitmapPages).map (base + o.target * k.params.bitmapPages + ·)
    let s2 := addRec (staged.foldl (placeFree c.ref.coll) s1) (mkRec c.ref.coll (base * pageSize) (pubBytes 1) b (.filterPut o.target) true)
    replyOk (markWrite s2 c) c (writeArea 0 b 0 0 0 none) []

def decideFilterDrop (s : State) (c : Cmd) : State :=
  let st := writeStatus s c.cap
  if st != 0 then replyRefuse s c st
  else if !c.cap.body.isEmpty then replyRefuse s c 0x0106
  else match getColl s c.ref.coll with
  | none => s
  | some k =>
    if k.params.filterSlots ≤ areaField c.cap.area 24 2 then replyRefuse s c 0x0108 else admitWrite s c pubBare

def execFilterDrop (c : Capsule) (s : State) : Res := .next (receive 0x21 c decideFilterDrop s)

def applyFilterDrop (s : State) (c : Cmd) (k : Coll) : State :=
  let b := beadNow s
  let fid := areaField c.cap.area 24 2
  if k.filters.any fun v => v.id == fid && v.drop.isNone then
    let s1 := setColl s c.ref.coll (endFilter k fid b false)
    let s2 := addRec s1 (mkRec c.ref.coll (regionOff k.params .filters) (pubBytes 0) b (.filterDrop fid) true)
    replyOk (markWrite s2 c) c (writeArea 0 b 0 0 0 none) []
  else replyRefuse s c 0x0208

/-! ## WRITE_COMMIT -/

/-- An admitted write is applied; an encode that was its work is over. -/
def applyWrite (s : State) (c : Cmd) (slot : Nat) (ord : List Nat) : State :=
  let s1 := endTasks s fun t => t.kind == .writeEncode c.ref.queue c.ref.tag
  match getColl s1 c.ref.coll with
  | none => replyRefuse (dropObjects s1 (finalOf c)) c 0x0203
  | some k =>
    if c.ref.op = 0x10 || c.ref.op = 0x12 then applyItem s1 c k slot ord
    else if c.ref.op = 0x11 then applyDelete s1 c k
    else if c.ref.op = 0x20 then applyFilterPut s1 c k
    else applyFilterDrop s1 c k

/-- WRITE_COMMIT: of the reservation, what the records do not occupy is released (R410, R24). -/
def commitWrite (s : State) (c : Cmd) (slot : Nat) (ord : List Nat) : State :=
  let s1 := applyWrite s c slot ord
  s1.modPools fun p => { p with relBuf := p.relBuf - (hostOcc s1 - hostOcc s) }

def execWriteCommit (queue tag slot : Nat) (ord : List Nat) (s : State) : Res :=
  .next (match findCmd s queue tag with
  | none => s
  | some c => if isUp s && c.uncommitted then commitWrite s c slot ord else s)

/-! ## FLUSH (R212) -/

/-- Records of a collection numbered below `n` that are still in the buffer. -/
def pendingBelow (s : State) (coll n : Nat) : Bool := s.flash.wbuf.any fun r => r.coll == coll && r.seq < n

def replyFlush (s : State) (c : Cmd) : State := replyOk s c (areaPut 0 32 8 (beadNow s)) []

/-- FLUSH is no write: neither a missing fabric time nor a detached collection refuses it (R29, R103, log entry 87). -/
def decideFlush (s : State) (c : Cmd) : State :=
  if 3 ≤ s.power.effective then replyRefuse s c 0x0220
  else if (getColl s c.ref.coll).isNone then replyRefuse s c 0x0203
  else if !c.cap.body.isEmpty then replyRefuse s c 0x0106
  else
    let n := s.flash.nextRec
    if pendingBelow s c.ref.coll n then
      updCmd (countAdmit s c.ref.queue) c.ref.queue c.ref.tag fun x => { x with stage := .flushing n }
    else replyFlush s c

def execFlush (c : Capsule) (s : State) : Res := .next (receive 0x13 c decideFlush s)

def execFlushComplete (queue tag : Nat) (s : State) : Res :=
  .next (match findCmd s queue tag with
  | none => s
  | some c => match c.stage with
    | .flushing n => if pendingBelow s c.ref.coll n then s else replyFlush s c
    | _ => s)

/-! ## MERGE_HINT (R277) -/

def hintArea (started trigger : Nat) : BitVec 320 := areaPut (areaPut 0 24 1 started) 32 8 trigger

/-- MERGE_HINT, refused with the merges: from the edge after the step was taken (R25, R359). Where the heads do not fit it replies STARTED 0 and the merge is tried at later edges, log entry 22. -/
def decideMergeHint (s : State) (c : Cmd) : State :=
  let st := collStatus s c.ref.coll
  if 1 ≤ s.power.edgeStep then replyRefuse s c 0x0220
  else if st != 0 then replyRefuse s c st
  else if !c.cap.body.isEmpty then replyRefuse s c 0x0106
  else match getColl s c.ref.coll with
  | none => s
  | some k => match k.merge with
    | some m => replyOk s c (hintArea 0 m.trigger) []
    | none => match startMerge s c.ref.coll (beadNow s) with
      | some s1 => replyOk s1 c (hintArea 1 (beadNow s)) []
      | none => replyOk (updColl s c.ref.coll fun k => { k with wantMerge := true }) c (hintArea 0 0) []

def execMergeHint (c : Capsule) (s : State) : Res := .next (receive 0x40 c decideMergeHint s)

end Sys2Proof.Machine
end

