-- ==== Sys2Proof/Machine/Learn.lean ====
section
/-! DEFINITION. Learning runs: LEARN_START, LEARN_STOP, EPOCH_PROMOTE, micro-batches, optimiser updates, versions and the
drift window (R150 to R164, R281, R282). -/

namespace Sys2Proof.Machine

/-! ## Reservations (R185). The sizes are a DESIGN CHOICE, log entry 27. -/

def pairCapacity : Nat := 1048576

/-- Bytes of HBM scratch a run reserves: training copy with moments, pair buffer, activation store. -/
def learnBytes (enc : Encoder) (n u dim : Nat) : Nat :=
  6 * sumN ((tensorsOf enc).map List.length) + 8 * dim * pairCapacity + 4 * n * (u + 1) * (dim + sumN enc.out)

def runBytes (s : State) (r : Run) : Nat :=
  learnBytes r.enc r.p.n r.p.u (match getColl s r.coll with | some c => inputDim c | none => r.enc.inputDim)

def findRun (s : State) (id : Nat) : Option Run := s.learn.runs.find? fun r => r.id == id
def runOf (s : State) (coll : Nat) : Option Run := s.learn.runs.find? fun r => r.coll == coll

/-- A run leaves the module; its reservation is free at the next edge (R24). -/
def dropRun (s : State) (r : Run) : State :=
  let n := runBytes s r
  let s1 := s.modPools fun p => { p with learn := p.learn - n, relLearn := p.relLearn + n }
  let s2 := endTasks s1 fun t => match t.kind with | .microBatch i _ | .update i => i == r.id | _ => false
  dropCounts (s2.modLearn fun l => { l with runs := l.runs.filter fun x => x.id != r.id }) fun k => k.run && k.coll == r.coll

/-! ## LEARN_START -/

/-- A byte field, 0xFF selecting its default (R281). -/
def byteOr (a : BitVec 320) (off dflt : Nat) : Nat := let v := areaField a off 1; if v = 0xFF then dflt else v

/-- An FP32 field, 0xFFFF_FFFF selecting its default. -/
def f32Or (a : BitVec 320) (off : Nat) (dflt : F32) : F32 :=
  let v := areaField a off 4
  if v = 0xFFFFFFFF then dflt else BitVec.ofNat 32 v

/-- The defaults of R153 in FP32: τ 0.05, λ 0.25, rate 2^−10, β1 0.9, β2 0.999, ε 2^−20. -/
def runParams (a : BitVec 320) : RunParams :=
  let dec (n d : Nat) : F32 := Num.toF32 (Num.div (.ofNat n) (.ofNat d))
  { source := byteOr a 25 0, n := 2 ^ byteOr a 26 8, u := byteOr a 27 4, share := byteOr a 28 0, tau := f32Or a 32 (dec 5 100)
    lambda := f32Or a 36 (dec 25 100), rate := f32Or a 40 (Num.toF32 (.pow2 (-10))), beta1 := f32Or a 44 (dec 9 10)
    beta2 := f32Or a 48 (dec 999 1000), eps := f32Or a 52 (Num.toF32 (.pow2 (-20))) }

def betweenF (lo hi : Num) (x : F32) : Bool := let v := Num.ofF32 x; Num.le lo v && Num.le v hi

/-- The ranges of R153. -/
def runRangeBad (a : BitVec 320) (p : RunParams) : Bool :=
  let unit (x : F32) : Bool := let v := Num.ofF32 x; Num.le .zero v && Num.lt v .one
  let log := byteOr a 26 8
  decide (2 < p.source) || decide (log < 4) || decide (10 < log) || p.u == 0 || decide (64 < p.u) || decide (32 < p.share) ||
    decide (1 < byteOr a 29 0) || !betweenF (.pow2 (-10)) .one p.tau || !betweenF .zero .one p.lambda || !unit p.beta1 ||
    !unit p.beta2

/-- The host pairs of a payload: anchor and positive, each an embedding of the collection (R56, R281). Under the cosine metric
a pair with an all-zero side is not taken (R405): those that stand, and how many do not. -/
def parsePairs (k : Coll) (fmt : Nat) (bs : List Byte) : Except (BitVec 16) (List (List F32 × List F32) × Nat) :=
  let one := inputDim k * embSize fmt
  if 2 < fmt then .error 0x0108
  else if bs.length % (2 * one) != 0 then .error 0x0106
  else
    let vs := (chunks one bs).map (embNums fmt)
    if !vs.all finiteAll then .error 0x010B
    else
      let ps := (chunks 2 vs).filterMap fun v => match v with | [a, b] => some (a, b) | _ => none
      let zero (xs : List Num) : Bool := k.params.metric == 2 && xs.all Num.isZero
      let ok := ps.filter fun x => !zero x.1 && !zero x.2
      .ok (ok.map fun x => (x.1.map Num.toF32, x.2.map Num.toF32), ps.length - ok.length)

/-- Pairs enter the buffer while it has room; the rest are counted (R154). Answers the pairs refused. -/
def addPairs (s : State) (run : Nat) (ps : List (List F32 × List F32)) : Nat × State :=
  match findRun s run with
  | none => (0, s)
  | some r =>
    let room := pairCapacity - r.pairs.length
    let lost := ps.length - room
    (lost, bumpN (updRun s run fun r => { r with pairs := r.pairs ++ ps.take room }) pairDropCnt lost)

def learnArea (run taken lost : Nat) : BitVec 320 := areaPut (areaPut (areaPut 0 24 4 run) 32 4 taken) 36 4 lost

/-- The encoder a new run starts from and the pairs' bytes: the newest live epoch, or an image of the same shape (R153). -/
def startEncoder (s : State) (k : Coll) (image : Bool) (body : List Byte) : Except (BitVec 16) (Encoder × List Byte) :=
  match newestEpoch k with
  | none => .error 0x0108
  | some ep =>
    if !image then .ok (ep.enc, body)
    else match parseImage k.params (some (inputDim k)) false body with
      | .error st => .error st
      | .ok (e, rest) =>
        let okFmt := match formatOf s k.att.pipeline with | some f => encoderAllowed f e | none => false
        if e.layers = ep.enc.layers && e.out == ep.enc.out && okFmt then .ok (e, rest) else .error 0x0108

/-- Degenerate weight groups flagged by a quantisation that were not flagged before (DEGENERATE_CNT, R152). -/
def newFlags (old new_ : Encoder) : Nat := new_.wOff.countP fun x => !old.wOff.contains x

/-- A run as LEARN_START makes it: version 1 is the starting weights (R146, R162). -/
def newRun (id coll : Nat) (p : RunParams) (enc : Encoder) (image : Bool) : Run :=
  let e := if image then (quantise { enc with wOff := [] } (freshWeights enc)).enc else enc
  { id := id, coll := coll, p := p, enc := e, prevEnc := e, newest := 1, previous := 0
    copy := (if image then freshWeights enc else tensorsOf enc).map blankMoments, fresh := image, pairs := [], mbs := []
    nextMb := 0, accumulated := 0, acc := [], pending := none, active := true, held := false, stopAtEdge := none, stopCause := 0
    loss := 0, lossVersion := 0 }

/-- LEARN_START, MODE 0. -/
def decideNewRun (s : State) (c : Cmd) (k : Coll) : State :=
  let a := c.cap.area
  let p := runParams a
  let others := s.learn.runs.filter fun r => r.coll != c.ref.coll
  let mine := runOf s c.ref.coll
  let busy := decide (4 ≤ others.length) || match mine with | some r => r.active | none => false
  match firstBad [(areaField a 31 1 != 0 || areaField a 56 8 != 0, 0x0102), (runRangeBad a p, 0x0108), (busy, 0x0215)] with
  | some st => replyRefuse s c st
  | none => match startEncoder s k (byteOr a 29 0 == 1) c.cap.body with
    | .error st => replyRefuse s c st
    | .ok (enc, rest) => match parsePairs k (areaField a 30 1) rest with
      | .error st => replyRefuse s c st
      | .ok (ps, zeros) =>
        let n := learnBytes enc p.n p.u (inputDim k)
        if hbmScratchFree s < n then replyRefuse s c 0x0216
        else
          let s1 := match mine with | some r => dropRun s r | none => s
          let id := s1.learn.nextRun
          let r := newRun id c.ref.coll p enc (byteOr a 29 0 == 1)
          let s2 := s1.modLearn fun l => { l with runs := l.runs ++ [r], nextRun := l.nextRun + 1 }
          let s3 := bumpN (s2.modPools fun x => { x with learn := x.learn + n }) degenerateCnt (newFlags enc r.enc)
          let counts := if byteOr a 29 0 == 1 then (quantise { enc with wOff := [] } (freshWeights enc)).counts else []
          let (lost, s4) := addPairs (counts.foldl (countAt ⟨c.ref.coll, true, 0⟩) (bumpN s3 pairDropCnt zeros)) id ps
          replyOk s4 c (learnArea id (ps.length - lost) lost) []

/-- A run that a shed step stopped resumes at a LEARN_START that names it, once no shed step is in force (R159): its versions,
training copy and pairs are those it was held with. DESIGN CHOICE that it is MODE 1 that names it, log entry 119. -/
def canResume (s : State) (r : Run) : Bool := r.held && r.stopCause == 2 && s.power.effective == 0

/-- LEARN_START, MODE 1: further host pairs for a running run; every field but RUN_ID and EMB_FORMAT is zero. -/
def decideMorePairs (s : State) (c : Cmd) (k : Coll) : State :=
  let a := c.cap.area
  let zero := areaField a 25 5 == 0 && areaField a 31 25 == 0 && areaField a 60 4 == 0
  let id := areaField a 56 4
  let there := match findRun s id with | some r => r.coll == c.ref.coll && (r.active || canResume s r) | none => false
  match firstBad [(!zero, 0x0102), (!there, 0x0209)] with
  | some st => replyRefuse s c st
  | none => match parsePairs k (areaField a 30 1) c.cap.body with
    | .error st => replyRefuse s c st
    | .ok (ps, zeros) =>
      let s0 := updRun s id fun r => { r with active := true, held := false, stopCause := 0 }
      let (lost, s1) := addPairs (bumpN s0 pairDropCnt zeros) id ps
      replyOk s1 c (learnArea id (ps.length - lost) lost) []

def decideLearnStart (s : State) (c : Cmd) : State :=
  let st := collStatus s c.ref.coll
  if st != 0 then replyRefuse s c st
  else match getColl s c.ref.coll with
  | none => s
  | some k =>
    let mode := areaField c.cap.area 24 1
    if 1 < mode then replyRefuse s c 0x0108 else if mode = 0 then decideNewRun s c k else decideMorePairs s c k

def execLearnStart (c : Capsule) (s : State) : Res := .next (receive 0x30 c decideLearnStart s)

/-! ## LEARN_STOP -/

/-- The run a LEARN_STOP or EPOCH_PROMOTE names, of the collection it carries (R282). -/
def namedRun (s : State) (c : Cmd) : Option Run :=
  (findRun s (areaField c.cap.area 24 4)).filter fun r => r.coll == c.ref.coll

/-- LEARN_STOP: the run stops at the next edge (R159). -/
def decideLearnStop (s : State) (c : Cmd) : State :=
  if (getColl s c.ref.coll).isNone then replyRefuse s c 0x0203
  else if lenBad c then replyRefuse s c 0x0106
  else match namedRun s c with
  | none => replyRefuse s c 0x0209
  | some r =>
    let s1 := if r.active then updRun s r.id fun x => { x with stopAtEdge := some (x.stopAtEdge.getD 1) } else s
    replyOk s1 c (areaPut 0 28 4 r.newest) []
where lenBad (c : Cmd) : Bool := !c.cap.body.isEmpty

def execLearnStop (c : Capsule) (s : State) : Res := .next (receive 0x31 c decideLearnStop s)

/-! ## EPOCH_PROMOTE (R164) -/

/-- The held version of a number. -/
def heldVersion (r : Run) (v : Nat) : Option Encoder :=
  if v = r.newest then some r.enc else if v = r.previous && v != 0 then some r.prevEnc else none

def decidePromote (s : State) (c : Cmd) : State :=
  match getColl s c.ref.coll with
  | none => replyRefuse s c 0x0203
  | some k =>
    if !c.cap.body.isEmpty then replyRefuse s c 0x0106
    else match namedRun s c with
    | none => replyRefuse s c 0x0209
    | some r =>
      match heldVersion r (areaField c.cap.area 28 4) with
      | none => replyRefuse s c 0x0116
      | some enc =>
        if 2 ≤ k.epochs.length || k.promo.isSome then replyRefuse s c 0x0217
        else
          let pr : Promotion := ⟨c.ref, enc, r.id, beadNow s, false⟩
          let s1 := updColl (running s c) c.ref.coll fun k => { k with promo := some pr }
          launchTensor s1 .promote c.ref.coll (feedFacet s1 k.att.pipeline)

def execEpochPromote (c : Capsule) (s : State) : Res := .next (receive 0x32 c decidePromote s)

/-! ## Micro-batches (R154 to R163) -/

/-- Learning work may run in this bead: no shed step in the launch descriptor, P0, and under a package pause only in a
reserved share (R158, R159, R259, R365). -/
def learningRuns (s : State) (r : Run) : Bool :=
  s.power.edgeStep == 0 && s.power.pstate == 0 && !s.power.entering && (!s.power.preparing || beadNow s ≤ s.power.prepBead) &&
    (!s.power.pkgPaused || 0 < r.p.share)

def pairSides (ps : List (List F32 × List F32)) : List (List F32) := (ps.map fun x => [x.1, x.2]).flatten

/-- The scale of each group of a layer's input over a micro-batch: absmax ÷ Qmax (R146). -/
def batchScales (enc : Encoder) (l : Layer) (vs : List (List Num)) : List (BitVec 16) :=
  let len := groupLen enc.group
  (List.range l.act.length).map fun p =>
    absmaxScale 448 (vs.map fun v => (v.drop (len * p)).take len).flatten

/-- Activation scales of each trunk layer in turn, each from the outputs of the layer before, and what enters the
projection. -/
def firstTrunk (enc : Encoder) (ord : List Nat) :
    List (Nat × Layer) → List (List Num) → List (Nat × List (BitVec 16)) × List (List Num)
  | [], vs => ([], vs)
  | (no, l) :: r, vs =>
    let act := batchScales enc l vs
    let (t, e) := firstTrunk enc ord r (vs.map (runLayer enc ord no { l with act := act }))
    ((no, act) :: t, e)

/-- Activation scales from the first micro-batch (R146). -/
def firstScales (enc : Encoder) (metric : Nat) (ord : List Nat) (ps : List (List F32 × List F32)) : Encoder :=
  let xs := (pairSides ps).map fun v => let x := v.map Num.ofF32; (prepared metric ord x).getD x
  let (t, es) := firstTrunk enc ord (trunkLayers enc) xs
  let all := t ++ [(projLayer, batchScales enc (projection enc) es)]
  setActScales enc fun no p => (all.find? fun x => x.1 == no).bind fun x => x.2[p]?

/-- The pipeline whose facets run a run's micro-batches of a group: the collection's, or the learning group that it names
(R318). -/
def mbPipeline (s : State) (c : Coll) (group : Nat) : Nat :=
  match groupOf s c.att.pipeline with
  | some g => if group = 0 || g.learnGroup = 0xFFFF then g.id else g.learnGroup
  | none => c.att.pipeline

/-- The arithmetic of a micro-batch of a run. -/
def lossCtx (r : Run) (c : Coll) (x : MbInput) : LossCtx := ⟨x.enc, c.params.metric, c.params.sketchBits, x.ord, r.p⟩

/-- MICRO_BATCH_START: N waiting pairs go through the forward pass under the newest version (R154, R155, R162). Which of the
run's facet groups takes it is drawn. -/
def startMicroBatch (s : State) (r : Run) (c : Coll) : State :=
  let ps := r.pairs.take r.p.n
  let metric := c.params.metric
  let (ord, s00) := drawOrd s
  let (g, s0) := drawNat s00
  let enc := if r.fresh then firstScales r.enc metric ord ps else r.enc
  let copy := if r.fresh then refreshScales enc r.copy else r.copy
  let input : MbInput := ⟨ps, ord, enc, copy.map Trained.w, g % 2⟩
  let loss := lossOf (lossCtx r c input) ps
  let mb : MicroBatch := ⟨r.nextMb, r.newest, .forward, input⟩
  let s1 := updRun s0 r.id fun x =>
    { x with enc := enc, fresh := false, copy := copy
             pairs := x.pairs.drop r.p.n, mbs := x.mbs ++ [mb], nextMb := x.nextMb + 1, loss := loss, lossVersion := r.newest }
  let s2 := (pairSides ps).foldl (fun t v =>
    let x := v.map Num.ofF32
    countEncode t ⟨r.coll, true, 0⟩ enc ord ((prepared metric ord x).getD x)) s1
  launchTensor s2 (.microBatch r.id mb.num) r.coll (feedFacet s2 (mbPipeline s2 c input.group))

def execMicroBatchStart (run : Nat) (s : State) : Res :=
  .next (match findRun s run with
  | none => s
  | some r => match getColl s r.coll with
    | none => s
    | some c =>
      if isUp s && s.time.held && r.active && r.stopAtEdge.isNone && learningRuns s r && r.p.n ≤ r.pairs.length then
        startMicroBatch s r c
      else s)

/-- The task of a run's optimiser update, while it stands. -/
def updateTask (s : State) (run : Nat) : Bool :=
  s.streams.tasks.any fun t => t.kind == .update run && !t.aborted

/-- OPTIMISER_UPDATE: the update task that the accumulation of U micro-batches has launched steps every parameter and quantises
a new version, published at the next edge (R157, R160, R162). `aborted`: its stream `sid` was skewed, so it publishes
nothing (R149). -/
def execOptimiserUpdate (run : Nat) (aborted : Bool) (sid : Nat) (s : State) : Res :=
  .next (match findRun s run with
  | none => s
  | some r =>
    if !isUp s || !r.active || r.stopAtEdge.isSome || r.pending.isSome || !learningRuns s r || !updateTask s run then s
    else if aborted then skewOf s (fun t => t.kind == .update run) sid
    else
      let (copy, mc) := stepCopy r.p r.enc r.copy r.acc
      let q := quantise r.enc (copy.map Trained.w)
      let s1 := updRun s run fun x => { x with pending := some ⟨q.enc, copy⟩, accumulated := 0, acc := [] }
      let s2 := endTasks (bumpN s1 degenerateCnt (newFlags r.enc q.enc)) fun t => t.kind == .update run
      (q.counts ++ mc).foldl (countAt ⟨r.coll, true, 0⟩) s2)

/-! ## At a bead edge -/

/-- Micro-batches of a run are discarded and counted (R159, R334). -/
def dropMicroBatches (s : State) (r : Run) : State :=
  let s1 := bumpN (updRun s r.id fun x => { x with mbs := [] }) mbDropCnt r.mbs.length
  endTasks s1 fun t => match t.kind with | .microBatch i _ => i == r.id | _ => false

/-- A run stops: causes 1 LEARN_STOP, 2 shed step, 3 detach, 4 delete; the last two discard it (R159, R289). -/
def stopRun (s : State) (r : Run) (cause : Nat) : State :=
  let s1 := dropMicroBatches s r
  let s2 := updRun (endTasks s1 fun t => t.kind == .update r.id) r.id fun x =>
    { x with active := false, held := true, stopAtEdge := none, stopCause := cause, pending := none, accumulated := 0, acc := [] }
  let s3 := raiseEvent s2 0x0002 (leBytes 2 r.coll ++ [BitVec.ofNat 8 cause, 0] ++ leBytes 4 r.id ++ leBytes 4 r.newest)
  if 3 ≤ cause then dropRun s3 r else s3

/-- Runs that stop at an edge: by their own stop, a shed step in force, or the end of their collection's attachment. -/
def stopRuns (s : State) : State :=
  s.learn.runs.foldl (fun t r =>
    let gone := match getColl t r.coll with | some c => !c.attached | none => true
    let del := match getColl t r.coll with | some { work := some (_, d), .. } => d | _ => false
    if gone then
      (if r.active then stopRun t r (if del then 4 else 3) else dropRun t r)
    else match r.stopAtEdge with
      | some cause => stopRun t r cause
      | none => if r.active && 1 ≤ t.power.effective then stopRun t r 2 else t) s

/-- The micro-batch that a facet group works on next: the oldest whose input gradients are due, else the oldest forward pass,
else the oldest weight gradients (R160). -/
def nextMb (group : Nat) (mbs : List MicroBatch) : Option MicroBatch :=
  let mine := mbs.filter fun m => m.input.group == group
  match mine.find? fun m => m.stage == .inputGrads with
  | some m => some m
  | none => match mine.find? fun m => m.stage == .forward with
    | some m => some m
    | none => mine.head?

/-- Group length of gradients in the setting's code format section (R144). -/
def gradLen (s : State) (c : Coll) : Nat := groupLen (match formatOf s c.att.pipeline with | some f => f.gGrad | none => 0)

/-- One stage of a micro-batch ends: gradients are counted as they leave the array, and a micro-batch whose weight gradients
are complete enters the accumulator as a whole (R142, R145, R160). -/
def endStage (s : State) (r : Run) (c : Coll) (m : MicroBatch) : State :=
  let g := backward (lossCtx r c m.input) (gradLen s c) m.input.copyW m.input.pairs
  let k : CountOf := ⟨r.coll, true, 0⟩
  let moveTo (st : MbStage) (x : Run) : Run := { x with mbs := x.mbs.map fun y => if y.num = m.num then { y with stage := st } else y }
  match m.stage with
  | .forward => updRun s r.id (moveTo .inputGrads)
  | .inputGrads => g.actCounts.foldl (countAt k) (updRun s r.id (moveTo .weightGrads))
  | .weightGrads =>
    let s1 := updRun s r.id fun x =>
      { x with mbs := x.mbs.filter fun y => y.num != m.num, accumulated := x.accumulated + 1, acc := accumulate x.acc g.tensors }
    g.wCounts.foldl (countAt k) (endTasks s1 fun t => t.kind == .microBatch r.id m.num)

/-- A facet group ends `n` stages of a run's micro-batches, each the first in the order of R160. -/
def runStages (run group : Nat) : Nat → State → State
  | 0, s => s
  | n + 1, s => match findRun s run with
    | none => s
    | some r => match getColl s r.coll, nextMb group r.mbs with
      | some c, some m => runStages run group n (endStage s r c m)
      | _, _ => s

/-- The learning work of a run in a bead: the stages that idle cycles let its facet groups end are drawn (log entry 28); with
U micro-batches accumulated, the optimiser update is launched (R160). -/
def advanceRun (s : State) (r : Run) : State :=
  if !r.active || !learningRuns s r then s
  else
    let (a, s1) := drawNat s
    let (b, s2) := drawNat s1
    let most := 3 * r.mbs.length + 1
    let s3 := runStages r.id 1 (b % most) (runStages r.id 0 (a % most) s2)
    match findRun s3 r.id with
    | none => s3
    | some x =>
      if x.accumulated < x.p.u || x.pending.isSome || updateTask s3 r.id then s3
      else match getColl s3 r.coll with
        | some c => launchTensor s3 (.update r.id) r.coll (feedFacet s3 c.att.pipeline)
        | none => s3

/-- Publish a version: the newest becomes the previous, and micro-batches two versions behind with input gradients
outstanding are stale (R162, R163). -/
def publishVersion (s : State) (r : Run) : State :=
  match r.pending with
  | none => s
  | some u =>
    let stale (m : MicroBatch) : Bool := decide (m.version < r.newest) && m.stage != .weightGrads
    let lost := r.mbs.filter stale
    let s1 := updRun s r.id fun x =>
      { x with prevEnc := x.enc, enc := u.enc, copy := u.copy, previous := x.newest, newest := (x.newest + 1) % 2 ^ 32, pending := none
               mbs := x.mbs.filter fun m => !stale m }
    let s2 := lost.foldl (fun t m => endTasks t fun k => k.kind == .microBatch r.id m.num) s1
    bump (bumpN s2 staleMbCnt lost.length) versionCnt

/-- Pairs logged by the replies of the last bead enter the buffers (R154). -/
def enterLogged (s : State) : State :=
  s.search.logged.foldl (fun t (coll, a, b) => match runOf t coll with
    | some r => if r.active && r.p.source != 0 then (addPairs t r.id [(a, b)]).2 else t
    | none => t) (s.modSearch fun x => { x with logged := [] })

/-- What LEARN_EPOCH_STATE, LEARN_RUN and LEARN_VERSION read for a collection (R392). -/
def learnView (s : State) (id : Nat) (c : Coll) : Nat × Nat × Nat :=
  let newest := match newestEpoch c with | some e => e.num | none => 0
  let ep := match c.epochs with
    | [old, _] =>
      let segs := c.segs.countP fun g => g.epoch == old.num && g.replaced.isNone
      let side := c.side.any fun x => x.ent.epoch == old.num
      newest + old.num * 2 ^ 16 + segs % 65536 * 2 ^ 32 + (if side then 2 ^ 48 else 0)
    | _ => newest + 0xFFFF * 2 ^ 16
  match runOf s id with
  | none => (ep, 0, 0)
  | some r => (ep, r.id + (if r.active then 2 ^ 32 else 0) + (if r.held then 2 ^ 33 else 0), r.newest + r.previous * 2 ^ 32)

/-- Runs whose versions a promotion has taken up: held ones end with it (R159, R185). -/
def endPromoted (coll : Nat) (s : State) : State :=
  match runOf s coll with
  | some r => if r.held then dropRun s r else s
  | none => s

/-- The learning work of an edge after the releases. -/
def learnEdge (s : State) : State :=
  let s1 := stopRuns s
  let s2 := s1.learn.runs.foldl advanceRun s1
  let s3 := s2.learn.runs.foldl publishVersion s2
  enterLogged s3

def refreshViews (s : State) : State :=
  s.modLearn fun l => { l with views := s.colls.map fun (id, c) => (id, learnView s id c) }

/-! ## DRIFT_WINDOW_END (R150 to R152) -/

/-- Positions of one tensor whose clipped share exceeds the limit. -/
def drifted (d : Nat) (ws : List Window) : List Nat :=
  sortNat ((ws.filter fun w => decide (w.encoded * d < w.clipped * 65536)).map Window.pos)

def driftEvent (s : State) (d : Nat) (ws : List Window) : State :=
  match ws.head?, drifted d ws with
  | some w, p :: ps =>
    let id := if w.run then (match runOf s w.coll with | some r => r.id | none => 0) else w.epoch
    raiseEvent s 0x0001 (leBytes 2 w.coll ++ leBytes 2 w.tensor ++ leBytes 4 id ++ leBytes 4 p ++ leBytes 4 (ps.length + 1))
  | _, _ => s

/-- The windows of one tensor, for every tensor that has one. -/
def tensorWindows (ws : List Window) : List (List Window) :=
  let keys := (ws.map fun w => (w.coll, w.run, w.epoch, w.tensor)).eraseDups
  keys.map fun k => ws.filter fun w => (w.coll, w.run, w.epoch, w.tensor) == k

/-- What the end of its window gives an activation group of an encoder (R152): a scale, and whether its flag is set; none
where nothing changes. -/
def settled (enc : Encoder) (w : Window) : Option (BitVec 16 × Bool) :=
  let flagged := enc.actOff.contains (w.tensor / 16 * 65536 + w.pos)
  if w.tensor % 16 != 1 || w.encoded = 0 then none
  else if flagged && w.nonZero then some (absmaxScale 448 [Num.ofF32 w.absmax], false)
  else if !flagged && !w.nonZero then some (leastScale, true)
  else none

/-- Flag or open one activation group of an encoder at the end of its window. -/
def settleGroup (enc : Encoder) (w : Window) : Encoder :=
  let no := w.tensor / 16
  let key := no * 65536 + w.pos
  match settled enc w with
  | none => enc
  | some (sc, flag) =>
    setActScales { enc with actOff := if flag then enc.actOff ++ [key] else enc.actOff.filter (· != key) } fun n p =>
      if n = no && p = w.pos then some sc else none

/-- The training copy holds the scale that the end of the window gives; every other scale stays as the optimiser left it. -/
def settleCopy (enc : Encoder) (w : Window) (copy : List Trained) : List Trained :=
  match settled enc w with
  | none => copy
  | some (sc, _) => setCopyScale enc (w.tensor / 16) w.pos sc copy

/-- Apply the end of a window to the encoder its tensor belongs to; a group flagged anew counts in DEGENERATE_CNT. -/
def settleWindow (s : State) (w : Window) : State :=
  let fresh (e : Encoder) : Nat := match settled e w with | some (_, true) => 1 | _ => 0
  if w.run then
    match runOf s w.coll with
    | none => s
    | some r =>
      bumpN (updRun s r.id fun x =>
        { x with enc := settleGroup x.enc w, prevEnc := settleGroup x.prevEnc w, copy := settleCopy x.enc w x.copy
                 pending := x.pending.map fun u => ⟨settleGroup u.enc w, settleCopy u.enc w u.copy⟩ }) degenerateCnt (fresh r.enc)
  else match getColl s w.coll with
    | none => s
    | some c => match epochOf c w.epoch with
      | none => s
      | some ep =>
        bumpN (updColl s w.coll fun c => { c with epochs := c.epochs.map fun x =>
          if x.num = w.epoch then { x with enc := settleGroup x.enc w } else x }) degenerateCnt (fresh ep.enc)

def Window.restart (w : Window) : Window :=
  { w with clipped := 0, encoded := 0, nonZero := false, absmax := 0, doneClipped := w.clipped, doneEncoded := w.encoded }

/-- DRIFT_WINDOW_END, at the edge that ends W beads: calib.drift at most once per tensor, degenerate groups, and new windows
under the W and D written meanwhile. -/
def execDriftWindowEnd (s : State) : Res :=
  .next (if isUp s && s.time.held && s.learn.windowStart + s.learn.driftW ≤ beadNow s then
    let ws := s.learn.windows
    let s1 := (tensorWindows ws).foldl (fun t x => driftEvent t s.learn.driftD x) s
    let s2 := ws.foldl settleWindow s1
    s2.modLearn fun l =>
      { l with windows := l.windows.map Window.restart, windowStart := beadNow s, driftW := l.nextW.getD l.driftW
               driftD := l.nextD.getD l.driftD, nextW := none, nextD := none }
  else s)

end Sys2Proof.Machine
end

