-- ==== Sys2Proof/Machine/Select.lean ====
section
/-! DEFINITION. Selection and the clasp (R81 to R94): keys, partitions, candidate records, compaction, merges with
deduplication and cut ties, and what follows the score list (R72 to R76). -/

namespace Sys2Proof.Machine

/-! ## Keys (R81) -/

/-- An FP32 distance as an integer in numeric order: -0 and +0 are one value; infinities order outside. -/
def f32Key (w : F32) : Int :=
  let m : Int := ((w.toNat % 2 ^ 31 : Nat) : Int)
  if w.getLsbD 31 then -m else m

def isNanF32 (w : F32) : Bool := 0x7F800000 < w.toNat % 2 ^ 31

/-- -0 is returned as +0. -/
def posZero (w : F32) : F32 := if w = 0x80000000 then 0 else w

def Scored.key (e : Scored) : Int × Nat := (f32Key e.dist, e.itemId.toNat)

def keyLt (a b : Int × Nat) : Bool := decide (a.1 < b.1) || (a.1 == b.1 && decide (a.2 < b.2))

/-- Key order; entries with one item id and one distance stand in order of module, then slot (R87). -/
def Scored.le (a b : Scored) : Bool :=
  keyLt a.key b.key || (a.key == b.key &&
    (decide (a.module.toNat < b.module.toNat) || (a.module == b.module && decide (a.slot ≤ b.slot))))

/-- The first entry of each item id. -/
def firstOfEach : List Scored → List Scored → List Scored
  | seen, [] => seen.reverse
  | seen, e :: es => if seen.any fun x => x.itemId == e.itemId then firstOfEach seen es else firstOfEach (e :: seen) es

/-- Deduplicate: for each item id the entry with the smaller distance, then the lower module, then the lower slot. -/
def dedupe (es : List Scored) : List Scored := firstOfEach [] (sortBy Scored.le es)

/-- Order among equal distances in a returned list is open (R81, R89): entries whose slots `ties` names come first, in its
order. -/
def tieLe (ties : List Nat) (a b : Scored) : Bool :=
  let ra := ties.idxOf a.slot
  let rb := ties.idxOf b.slot
  if f32Key a.dist = f32Key b.dist then decide (ra < rb) || (ra == rb && decide (a.itemId.toNat ≤ b.itemId.toNat))
  else decide (f32Key a.dist < f32Key b.dist)

/-- Distances among `cut` that equal the last distance of a list (R90). -/
def tiesWith (kept : List Scored) (cut : List F32) : List F32 :=
  match kept.getLast? with
  | none => []
  | some e => cut.filter fun d => f32Key d == f32Key e.dist

/-- A stage's output: merged, deduplicated, cut to `n` (R87, R88, R93). -/
structure Merged where
  kept : List Scored
  cut : List F32
  dups : Nat
  deriving DecidableEq, Repr

/-- The output of a stage that forwards its list: in key order (R81, R93). -/
def mergeLists (n : Nat) (lists : List (List Scored)) (cuts : List F32) : Merged :=
  let all := lists.flatten
  let ds := dedupe all
  let kept := ds.take n
  ⟨kept, tiesWith kept (cuts ++ (ds.drop n).map Scored.dist), all.length - ds.length⟩

/-- The output of the final stage: which of the entries with equal distances are returned, and in what order, is open
(R89). -/
def mergeFinal (ties : List Nat) (n : Nat) (lists : List (List Scored)) (cuts : List F32) : Merged :=
  let all := lists.flatten
  let ds := sortBy (tieLe ties) (dedupe all)
  let kept := ds.take n
  ⟨kept, tiesWith kept (cuts ++ (ds.drop n).map Scored.dist), all.length - ds.length⟩

/-! ## Needed lengths -/

/-- The needed length n of a query (ch. 04). -/
def QParams.needed (p : QParams) : Nat := if p.range then max p.k p.rr else max p.k (max p.bw p.rr)

def passLen : Nat := 1024

/-- The query is selected in repeated passes (R84). -/
def QParams.passes (p : QParams) : Bool := passLen < p.needed

/-- The score list holds every scored entry within the radius: SEARCH_RANGE without rerank (R72). -/
def QParams.wholeList (p : QParams) : Bool := p.range && p.rr == 0

/-- Length to which a stage before the final one cuts the score list (R72, R93). -/
def QParams.cutAt (p : QParams) (held : Nat) : Nat := if p.wholeList then max held p.needed else p.needed

def pow2From : Nat → Nat → Nat → Nat
  | 0, x, _ => x
  | f + 1, x, n => if n ≤ x then x else pow2From f (2 * x) n

/-- Partition length: the smallest power of two that is at least max(n, 16) (R82). -/
def partitionLen (n : Nat) : Nat := pow2From 17 16 n

/-- Records the candidate buffer holds (R84). -/
def QParams.capacity (p : QParams) : Nat := 64 * p.needed
def recordBytes : Nat := 24

def Query.records (q : Query) : List Scored := (q.parts.map Part.records).flatten
def Query.cuts (q : Query) : List F32 := (q.parts.map Part.cut).flatten

/-! ## Compaction (R85) -/

/-- Keep in every facet's records only those that satisfy `p`. -/
def Query.keepRecords (q : Query) (keep : List Scored) : Query :=
  { q with parts := q.parts.map fun x => { x with records := x.records.filter keep.contains } }

/-- Compact a full candidate buffer: one record for each item id, and a running threshold where n distinct ids are held.
Answers the query, the duplicates and the distances the threshold cut. -/
def compact (q : Query) : Query × Nat :=
  let all := q.records
  let ds := dedupe all
  let n := q.p.needed
  let dups := all.length - ds.length
  if n ≤ ds.length then
    let kept := ds.take n
    let cutD := (ds.drop n).map Scored.dist
    let q1 := q.keepRecords kept
    let q2 := { q1 with runThr := kept.getLast?, dedup := q.dedup + dups, inRadius := q.inRadius - dups }
    match q2.parts with
    | [] => (q2, dups)
    | x :: xs => ({ q2 with parts := { x with cut := x.cut ++ cutD } :: xs }, dups)
  else ({ q.keepRecords ds with dedup := q.dedup + dups, inRadius := q.inRadius - dups }, dups)

def bufferFull (q : Query) : Bool := q.p.passes && q.stage == .scanning && decide (q.p.capacity ≤ q.records.length)

/-- Compact the buffer of a query and count it. -/
def compactQuery (s : State) (qid : Nat) : State :=
  match findQuery s qid with
  | none => s
  | some q =>
    let (q1, d) := compact q
    bumpN (bump (updQuery s qid fun _ => q1) compactCnt) dedupCnt d

/-! ## Scored entries arriving (R72, R81, R82, R84, R92) -/

/-- Change the part of a facet. -/
def onPart (f : Nat) (g : Part → Part) : List Part → List Part
  | [] => [g ⟨f, [], [], [], []⟩]
  | x :: xs => if x.facet = f then g x :: xs else x :: onPart f g xs

/-- An entry enters a selection partition: one entry for each item id, and the partition's length (R82). The score list of
a range search without rerank is not cut before the final selection (R72, log entry 102). -/
def intoPartition (whole : Bool) (length : Nat) (e : Scored) (x : Part) : Part × Nat :=
  let ds := dedupe (e :: x.list)
  let len := if whole then ds.length else length
  ({ x with list := ds.take len, cut := x.cut ++ (ds.drop len).map Scored.dist }, x.list.length + 1 - ds.length)

/-- Whether a running threshold discards an entry (R85). -/
def aboveThr (q : Query) (e : Scored) : Bool := match q.runThr with | some k => keyLt k.key e.key | none => false

/-- Whether the radius discards it at the ADC output: SEARCH_RANGE without rerank (R92). -/
def outsideRadius (q : Query) (e : Scored) : Bool :=
  q.p.range && q.p.rr == 0 && decide (f32Key q.p.radius < f32Key e.dist)

/-- One scored entry arrives at a facet's selection unit or candidate records. A bridged candidate of a query with repeated
passes comes after its passes and goes into a partition. DESIGN CHOICE, log entry 103. -/
def scoreInto (facet : Nat) (s : State) (qid : Nat) (e0 : Scored) : State :=
  let e := { e0 with dist := posZero e0.dist }
  if isNanF32 e.dist then bump s nanDropCnt
  else
    let s1 := match findQuery s qid with | some q => if bufferFull q then compactQuery s qid else s | none => s
    match findQuery s1 qid with
    | none => s1
    | some q =>
      if outsideRadius q e then s1
      else
        let q1 := { q with inRadius := q.inRadius + (if q.p.range then 1 else 0) }
        let cutIt (x : Part) : Part := { x with cut := x.cut ++ [e.dist] }
        if q.p.passes && q.stage == .scanning then
          if aboveThr q e then updQuery s1 qid fun _ => { q1 with parts := onPart facet cutIt q.parts }
          else updQuery s1 qid fun _ => { q1 with parts := onPart facet (fun x => { x with records := x.records ++ [e] }) q.parts }
        else
          let old : Part := (q.parts.find? fun x => x.facet == facet).getD ⟨facet, [], [], [], []⟩
          let (new, d) := intoPartition q.p.wholeList (partitionLen q.p.needed) e old
          let q2 := { q1 with parts := onPart facet (fun _ => new) q.parts, dedup := q.dedup + d,
                              inRadius := q1.inRadius - (if q.p.range then d else 0) }
          bumpN (updQuery s1 qid fun _ => q2) dedupCnt d

/-! ## When a stage is over (R54, R93) -/

/-- Nothing is left to screen or to score: a segment that is missed may still have survivors under way (R54). -/
def scanOver (q : Query) : Bool :=
  q.reps.isEmpty && q.segs.all fun g => g.toScreen.isEmpty && g.toScore.isEmpty && g.held.isEmpty

def fetchOver (q : Query) : Bool := q.fetched.isEmpty && q.segs.all fun g => g.toRerank.isEmpty

/-! ## After the score list (R72 to R76, R110) -/

/-- The entry of a slot in a segment or the side list that a snapshot sees, with the number of its container. -/
def entryAt (c : Coll) (snap slot : Nat) : Option (Entry × Nat) :=
  let inSide := (c.side.find? fun x => x.ent.slot == slot && x.merged.all (snap < ·)).map fun x => (x.ent, 65535)
  match inSide with
  | some r => some r
  | none => (c.segs.filter fun g => decide (g.pub ≤ snap) && g.replaced.all (snap < ·)).findSome? fun g =>
      (g.lists.findSome? fun (_, es) => es.find? fun e => e.slot == slot).map fun e => (e, g.num)

/-- Targets of the bridge hop: bridges of the best B entries, less repeats and slots already in the list (R73). -/
def bridgeTargetsOf (c : Coll) (q : Query) : List Nat :=
  let best := (sortBy Scored.le q.final).take q.p.bw
  let br := best.map fun e => match entryAt c q.snap e.slot with | some (x, _) => bridgesAt c q.snap x.bridges | none => []
  (br.flatten.eraseDups).filter fun t => !q.final.any fun e => e.slot == t

/-- The segment record number of a scored entry. -/
def Scored.container (e : Scored) : Nat := if e.side then 65535 else e.seg

/-- Beads from the start to the final selection, without optional stages. -/
def finalOffset (tier : Nat) : Nat := match tier with | 0 => 2 | 1 => 3 | _ => 7

/-- Beads from the start to the score stage. -/
def scoreOffset (tier : Nat) : Nat := match tier with | 0 => 1 | 1 => 2 | _ => 6

/-- The earliest bead of the final selection (R77). -/
def finalBead (q : Query) : Nat := q.start + finalOffset q.tier + bridgeBeads q + rerankBeads q

/-- The earliest bead in which the merge that ends the stage of a query may start: the final selection, or the score list
and the bridged list that later stages take up (R76, R77). -/
def mergeBead (q : Query) : Nat :=
  match q.stage with
  | .scanning => if bridgeBeads q + rerankBeads q = 0 then finalBead q else q.start + scoreOffset q.tier
  | .bridging => if rerankBeads q = 0 then finalBead q else q.start + scoreOffset q.tier + bridgeBeads q
  | .reranking => q.since + 1
  | _ => finalBead q

/-- The module's list of up to n entries is formed: radius of a reranked range, and its cut ties (R86, R90 to R92, R94). Only
a single-module query's fold and the root's cut it to k. After a rerank the distances that were cut before it are no
longer comparable. -/
def formList (q : Query) : Query :=
  let reranked := q.p.rr != 0
  let inside := if q.p.range && reranked then q.final.filter fun e => f32Key e.dist ≤ f32Key q.p.radius else q.final
  let inR := if q.p.range then (if reranked then inside.length else q.inRadius) else 0
  let m := mergeLists q.p.needed [inside] q.finalCut
  { q with final := m.kept, finalCut := m.cut, inRadius := inR, overflow := q.p.range && decide (q.p.k < inR)
           parts := [], dies := [], bridgeTargets := [], merged := true, stage := .clasping }

/-- The final selection where its bead has come; otherwise it is awaited (R77). -/
def toFinal (b : Nat) (q : Query) : Query := if finalBead q ≤ b then formList q else { q with stage := .ready }

/-- Slots of the best R whose vectors are stored, by segment. -/
def wantsVector (c : Coll) (e : Scored) : Bool := match c.items.get e.slot with | some it => it.vector.isSome | none => false

/-- After the bridge hop: rerank takes the best R, is dropped, or was not asked for (R75, R76, R110). Where it does not take
place, the entries keep their ADC distances and so do the ties among what the best R left out. -/
def afterBridge (b : Nat) (c : Coll) (q : Query) : Query :=
  if q.p.rr = 0 then toFinal b q
  else
    let sorted := sortBy Scored.le q.final
    let best := sorted.take q.p.rr
    let cut := tiesWith best (q.finalCut ++ (sorted.drop q.p.rr).map Scored.dist)
    let q1 := { q with final := best.map fun e => { e with notReranked := true }, bridgeTargets := [], finalCut := cut }
    if q.dropRerank then
      let segs := best.map Scored.container
      toFinal b (q1.missIf b (if q.late then 9 else 1) fun g => segs.contains g.seg)
    else
      let want := best.filter (wantsVector c)
      if want.isEmpty then toFinal b q1
      else
        { q1 with stage := .fetching, finalCut := [], segs := q1.segs.map fun g =>
            { g with toRerank := (want.filter fun e => e.container == g.seg).map Scored.slot } }

/-- After the score list: the bridge hop where it is asked for, kept and has targets (R73). -/
def afterScore (b : Nat) (c : Coll) (q : Query) : Query :=
  let ts := if q.p.bw = 0 || q.dropBridge then [] else bridgeTargetsOf c q
  if ts.isEmpty then afterBridge b c q
  else { q with stage := .bridging, bridgeTargets := ts.map fun t => (t, 0) }

/-- The stage after the one whose merge has just completed. -/
def nextStage (b : Nat) (c : Coll) (q : Query) : Query :=
  match q.stage with
  | .scanning => afterScore b c q
  | .bridging => afterBridge b c q
  | .reranking | .ready => toFinal b q
  | _ => q

/-! ## Merges inside the module -/

/-- The die clasp merges the lists of its facets (R93). -/
def dieMerge (d : Nat) (q : Query) : Query × Nat :=
  let mine := q.parts.filter fun x => x.facet / 17 == d
  let lists := mine.map fun x => x.list ++ x.records
  let m := mergeLists (q.p.cutAt lists.flatten.length) lists (mine.map Part.cut).flatten
  ({ q with parts := q.parts.filter fun x => x.facet / 17 != d, dies := q.dies ++ [⟨d, m.kept, [], m.cut, []⟩]
            dedup := q.dedup + m.dups, inRadius := q.inRadius - (if q.p.range then m.dups else 0) }, m.dups)

/-- The module clasp merges the die lists and what it merged before. -/
def moduleMerge (q : Query) : Query × Nat :=
  let lists := q.final :: q.dies.map Part.list
  let m := mergeLists (q.p.cutAt lists.flatten.length) lists (q.finalCut ++ (q.dies.map Part.cut).flatten)
  ({ q with dies := [], final := m.kept, finalCut := m.cut, dedup := q.dedup + m.dups
            inRadius := q.inRadius - (if q.p.range then m.dups else 0) }, m.dups)

/-! ## Repeated passes (R84, R86) -/

/-- One pass: the m smallest keys above the bound whose item id has not been emitted. -/
def onePass (q : Query) : Query :=
  let n := q.p.needed
  let m := min (n - q.emitted.length) passLen
  let above (e : Scored) : Bool := match q.emitted.getLast? with | none => true | some k => keyLt k.key e.key
  let fresh (e : Scored) : Bool := !q.emitted.any fun x => x.itemId == e.itemId
  let out := (dedupe (q.records.filter fun e => above e && fresh e)).take m
  let em := q.emitted ++ out
  { q with emitted := em, exhausted := out.isEmpty || decide (n ≤ em.length) }

/-- Duplicates that the passes dropped: the first pass streams every record, and each later copy of an item id is dropped
once (R84, R87; log entry 61). -/
def passDups (q : Query) : Nat := if q.emitted.isEmpty then 0 else q.records.length - (dedupe q.records).length

/-- The list of the passes, with the ties among what they cut: all of them where `counted`, otherwise those that the running
threshold discarded, which were counted before the passes (R86, R90). -/
def endPasses (counted : Bool) (q : Query) : Query × Nat :=
  let d := passDups q
  let left := q.records.filter fun e => !q.emitted.any fun x => x.itemId == e.itemId
  let cut := tiesWith q.emitted (q.cuts ++ if counted then left.map Scored.dist else [])
  ({ q with final := q.emitted, finalCut := cut, parts := [], dedup := q.dedup + d
            inRadius := q.inRadius - (if q.p.range then d else 0) }, d)

end Sys2Proof.Machine
end

