-- ==== Sys2Proof/Machine/Setting.lean ====
section
/-! DEFINITION. The bytes of a setting (R315 to R328): layout, fields, and every range and rule the loader checks
(R317 to R328, R343, R362, R367). A section is exactly as long as its layout, log entry 19. -/

namespace Sys2Proof.Machine

def allZero (bs : List Byte) : Bool := bs.all (· == 0)
def orDefault (v d : Nat) : Nat := if v = 0 then d else v
def between (lo v hi : Nat) : Bool := lo ≤ v && v ≤ hi

/-! ## Header and directory (R315, R316) -/

structure SettingHead where
  kind : Nat
  slot : Nat
  group : Nat
  serial : BitVec 64
  base : BitVec 256
  key : List Byte
  plain : Bool                  -- reserved bytes are zero, and a full setting names no group and no base
  sections : List (Nat × List Byte)
  deriving DecidableEq, Repr

def dirEntry (bs : List Byte) (i : Nat) : List Byte := sliceB bs (128 + 16 * i) 16

/-- Sections ascend without overlap, on 8-byte boundaries, and end before the trailer. -/
def sectionsOk (from_ stop : Nat) : List (Nat × Nat) → Bool
  | [] => true
  | (off, len) :: r => from_ ≤ off && off % 8 == 0 && off + len ≤ stop && sectionsOk (off + len) stop r

/-- Check 1 of R329, and the header where it passes. -/
def parseHead (bs : List Byte) : Option SettingHead :=
  let n := fieldB bs 12 2
  let total := fieldB bs 8 4
  let kind := fieldB bs 6 1
  let ents := (List.range n).map (dirEntry bs)
  let secs := ents.map fun e => (fieldB e 4 4, fieldB e 8 4)
  let types := ents.map fun e => fieldB e 0 2
  let group := fieldB bs 14 2
  if fieldB bs 0 4 = 0x4D4C4E58 && fieldB bs 4 2 = 1 && kind ≤ 1 && total = bs.length && total % 8 = 0 &&
      between 256 total 67108864 && between 1 n 11 &&
      ents.all (fun e => allZero (sliceB e 2 2) && allZero (sliceB e 12 4)) && sectionsOk (128 + 16 * n) (total - 64) secs then
    some { kind := kind, slot := fieldB bs 7 1, group := group, serial := BitVec.ofNat 64 (fieldB bs 16 8)
           base := BitVec.ofNat 256 (beNat (sliceB bs 32 32)), key := sliceB bs 64 64
           plain := allZero (sliceB bs 24 8) && (kind == 1 || (group == 0xFFFF && allZero (sliceB bs 32 32)))
           sections := types.zip (secs.map fun (o, l) => sliceB bs o l) }
  else none

def sectionOf (h : SettingHead) (t : Nat) : Option (List Byte) := (h.sections.find? fun x => x.1 == t).map Prod.snd

/-- The fields of the header and section presence (R315, R317). -/
def presenceOk (h : SettingHead) : Bool :=
  let ts := h.sections.map Prod.fst
  h.plain && ts.Nodup && if h.kind = 1 then ts == [1]
    else ts.all (between 1 · 0x0B) && [1, 2, 3, 4, 6, 7, 0x0A, 0x0B].all ts.contains

/-! ## FACET_GROUPING (R318, R319) -/

def mapEntryOk (l p : Nat) : Bool := p == 0xFF || p == l / 16 * 17 + l % 16 || p == l / 16 * 17 + 16

def parseGroup (bs : List Byte) : Option GroupRec :=
  let id := fieldB bs 0 2
  let kind := fieldB bs 7 1
  let probe := fieldB bs 4 2
  let rounds := fieldB bs 6 1
  if id ≤ 0xFFFE && kind ≤ 1 && (if kind = 0 then between 1 probe 256 else probe == 0) && rounds ≤ 8 &&
      allZero (sliceB bs 10 6) then
    some ⟨id, BitVec.ofNat 16 (fieldB bs 2 2), probe, orDefault rounds 4, kind == 1, fieldB bs 8 2⟩
  else none

def disjointQuads : List GroupRec → Bool
  | [] => true
  | g :: gs => gs.all (fun x => x.quads &&& g.quads == 0) && disjointQuads gs

def parseGrouping (bs : List Byte) : Option FacetGrouping :=
  let n := fieldB bs 0 2
  let map := (sliceB bs 8 64).map BitVec.toNat
  let spares := (List.range 4).all fun d => (map.countP fun p => p == 17 * d + 16) ≤ 1
  match ((List.range n).map fun i => sliceB bs (72 + 16 * i) 16).mapM parseGroup with
  | none => none
  | some gs =>
    if between 1 n 32 && bs.length = 72 + 16 * n && fieldB bs 2 1 < 16 && allZero (sliceB bs 3 5) &&
        (map.zipIdx).all (fun (p, l) => mapEntryOk l p) && spares && (gs.map GroupRec.id).Nodup && disjointQuads gs then
      some ⟨BitVec.ofNat 4 (fieldB bs 2 1), map, gs⟩
    else none

/-- LEARN_GROUP names a group of KIND 1, or none. -/
def learnGroupsOk (gs : List GroupRec) : Bool :=
  gs.all fun g => g.learnGroup == 0xFFFF || gs.any fun x => x.id == g.learnGroup && x.learn

/-! ## MEMORY_CARVE (R320) and CODE_FORMAT (R321) -/

def parseCarve (bs : List Byte) : Option MemoryCarve :=
  let near := (sliceB bs 0 8).map BitVec.toNat
  let margins := (sliceB bs 16 4).map BitVec.toNat
  let pre := orDefault (fieldB bs 20 1) 4
  let ring := orDefault (fieldB bs 21 1) 4
  let scratch := fieldB bs 8 2
  if bs.length = 40 && near.all (· ≤ 196) && 1024 ≤ scratch && scratch + fieldB bs 10 2 + fieldB bs 12 2 = 32768 &&
      fieldB bs 14 1 ≤ 8 && fieldB bs 15 1 = 0 && margins.all (· ≤ 8) && pre ≤ 4 && ring ≤ 8 && fieldB bs 22 2 = 0 then
    some ⟨near, scratch, fieldB bs 10 2, fieldB bs 12 2, fieldB bs 14 1, margins, pre, ring, orDefault (fieldB bs 24 4) 1024,
      orDefault (fieldB bs 28 4) 1000000, orDefault (fieldB bs 32 4) 100000, orDefault (fieldB bs 36 4) 256⟩
  else none

def parseFormat (bs : List Byte) : Option FormatRec :=
  let w := fieldB bs 2 1
  let f : FormatRec := ⟨fieldB bs 0 2, BitVec.ofNat 2 w, fieldB bs 3 1, fieldB bs 4 1, fieldB bs 5 1, fieldB bs 6 1, fieldB bs 7 1⟩
  if between 1 w 3 && f.gCode ≤ 2 && f.gGrad ≤ 2 && between 1 f.maxSketch 16 && between 1 f.maxSub 8 &&
      between 10 f.maxLog2 20 then some f
  else none

/-- (W, D, records): one record for each query pipeline. -/
def parseFormats (gs : List GroupRec) (bs : List Byte) : Option (Nat × Nat × List FormatRec) :=
  let n := fieldB bs 0 2
  let w := orDefault (fieldB bs 4 4) 4096
  let ids := (gs.filter fun g => !g.learn).map GroupRec.id
  match ((List.range n).map fun i => sliceB bs (16 + 8 * i) 8).mapM parseFormat with
  | none => none
  | some fs =>
    let fids := fs.map FormatRec.group
    if bs.length = 16 + 8 * n && allZero (sliceB bs 2 2) && allZero (sliceB bs 10 6) && between 64 w 65536 &&
        fids.Nodup && fids.all ids.contains && ids.all fids.contains then
      some (w, orDefault (fieldB bs 8 2) 64, fs)
    else none

/-! ## QUEUE_PARTITION, CLOCKS, BEAD (R323 to R325) -/

def parseRange (bs : List Byte) : Option QRange :=
  let r : QRange := ⟨fieldB bs 0 2, fieldB bs 2 2, fieldB bs 4 2⟩
  if 16 ≤ r.first && r.first ≤ r.last && r.last ≤ 32767 && fieldB bs 6 2 = 0 then some r else none

def rangesDisjoint : List QRange → Bool
  | [] => true
  | r :: rs => rs.all (fun x => x.last < r.first || r.last < x.first) && rangesDisjoint rs

def parseQueues (bs : List Byte) : Option (List QRange) :=
  let n := fieldB bs 0 2
  match ((List.range n).map fun i => sliceB bs (8 + 8 * i) 8).mapM parseRange with
  | none => none
  | some rs =>
    if between 1 n 256 && bs.length = 8 + 8 * n && allZero (sliceB bs 2 6) && rangesDisjoint rs then some rs else none

/-- (ARITH_DIV, NEAR_DIV). -/
def parseClocks : Option (List Byte) → Option (Nat × Nat)
  | none => some (8, 6)
  | some bs =>
    let a := orDefault (fieldB bs 0 1) 8
    let n := orDefault (fieldB bs 1 1) 6
    if bs.length = 8 && [8, 10, 14].contains a && [6, 8].contains n && allZero (sliceB bs 2 6) then some (a, n) else none

/-- (period in µs, SOURCE, SOURCE_ARG). -/
def parseBead (bs : List Byte) : Option (Nat × Nat × Nat) :=
  let t := orDefault (fieldB bs 0 2) 20
  let src := fieldB bs 2 1
  let arg := fieldB bs 3 1
  let argOk := match src with | 0 => arg ≤ 1 | 1 => arg == 0 | _ => arg ≤ 11
  if bs.length = 8 && between 10 t 100 && src ≤ 2 && argOk && allZero (sliceB bs 4 4) then some (t, src, arg) else none

/-! ## FABRIC (R326, R327, R306, R312) -/

/-- Sizes of the levels of a tree: 1, F0, F0·F1, ... -/
def levelSizes (size : Nat) : List Nat → List Nat
  | [] => [size]
  | f :: fs => size :: levelSizes (size * f) fs

/-- Positions of the subtree of position j among n members: level by level (R306). -/
def childrenOf (fan : List Nat) (n j : Nat) : List Nat :=
  let sizes := levelSizes 1 fan
  let starts := (List.range (sizes.length + 1)).map fun h => sumN (sizes.take h)
  match (List.range fan.length).find? fun h => starts.getD h 0 ≤ j && j < starts.getD (h + 1) 0 with
  | some h =>
    let f := fan.getD h 0
    ((List.range f).map fun i => starts.getD (h + 1) 0 + (j - starts.getD h 0) * f + i).filter (· < n)
  | none => []

def subtreeN (fan : List Nat) (n : Nat) : Nat → Nat → List Nat
  | 0, j => [j]
  | d + 1, j => j :: ((childrenOf fan n j).map (subtreeN fan n d)).flatten

/-- Shards of a stage's subtree that it cannot yet fold. -/
def openShards (shards : List (BitVec 32)) (sub : List Nat) : Nat :=
  let mine := (sub.filterMap fun j => shards[j]?).eraseDups
  mine.countP fun x => (shards.zipIdx).any fun (y, i) => y == x && !sub.contains i

/-- No stage of the tree, whatever its root, needs more than 1,024 open shard records (R312). -/
def shardsFit (fan : List Nat) (shards : List (BitVec 32)) : Bool :=
  let n := shards.length
  (List.range n).all fun r =>
    let rot := shards.drop r ++ shards.take r
    (List.range n).all fun j => openShards rot (subtreeN fan n fan.length j) ≤ 1024

/-- One tree record, and the bytes after it. -/
def parseTree (periodUs : Nat) (bs : List Byte) : Option (TreeRec × List Byte) :=
  let n := fieldB bs 12 4
  let cnt := fieldB bs 2 1
  let fan := (sliceB bs 4 6).map BitVec.toNat
  let used := fan.take cnt
  let close := orDefault (fieldB bs 3 1) 6
  let kib := orDefault (fieldB bs 10 2) 64
  let mem := (List.range n).map fun i => fieldB bs (16 + 8 * i) 8
  let members := mem.map fun v => (BitVec.ofNat 20 v, BitVec.ofNat 32 (v / 2 ^ 20))
  if 16 + 8 * n ≤ bs.length && fieldB bs 0 2 != 0 && between 1 cnt 6 && between 2 close (periodUs / 2) &&
      used.all (1 ≤ ·) && (fan.drop cnt).all (· == 0) && between 4 kib 1024 && mem.all (· < 2 ^ 52) &&
      (members.map Prod.fst).Nodup && n ≤ sumN (levelSizes 1 used) && shardsFit used (members.map Prod.snd) then
    some (⟨fieldB bs 0 2, used, close, kib, members⟩, bs.drop (16 + 8 * n))
  else none

def parseTrees (periodUs : Nat) : Nat → List Byte → Option (List TreeRec × List Byte)
  | 0, bs => some ([], bs)
  | n + 1, bs => match parseTree periodUs bs with
    | none => none
    | some (t, r) => (parseTrees periodUs n r).map fun (ts, e) => (t :: ts, e)

def parseExpress (own v : Nat) : Option (Option (BitVec 20)) :=
  if v / 2 ^ 31 = 1 then
    if v % 2 ^ 31 < 2 ^ 20 && v % 2 ^ 20 != own then some (some (BitVec.ofNat 20 v)) else none
  else if v < 2 ^ 20 then some none else none

def parseFabric (maxLog2 periodUs : Nat) (bs : List Byte) : Option FabricSec :=
  let addr := fieldB bs 0 4
  let len := (sliceB bs 4 5).map BitVec.toNat
  let n := fieldB bs 36 4
  match parseTrees periodUs n (bs.drop 232), parseExpress addr (fieldB bs 12 4), parseExpress addr (fieldB bs 16 4) with
  | some (trees, rest), some e0, some e1 =>
    let prod := len.foldl (· * ·) 1
    if 232 ≤ bs.length && rest.isEmpty && addr < 2 ^ 20 && len.all (between 1 · 16) && allZero (sliceB bs 9 3) && n ≤ 4096 &&
        (List.range 5).all (fun d => coord addr d < len.getD d 1) && prod ≤ 2 ^ maxLog2 &&
        (trees.map fun t => t.id % 4096).Nodup then
      some { addr := BitVec.ofNat 20 addr, len := len, express := [e0, e1], fecLimit := orDefault (fieldB bs 20 4) 16
             fecWindow := orDefault (fieldB bs 24 4) 1000, fabricId := BitVec.ofNat 64 (fieldB bs 28 8)
             expected := (List.range 12).map fun i => BitVec.ofNat 128 (fieldB bs (40 + 16 * i) 16), trees := trees }
    else none
  | _, _, _ => none

/-! ## FAULT_REACTION (R343) and POWER_SHED (R362) -/

/-- Sources whose unit FENCE and BLOCK_RESET can take out (R343, R345, R346); log entry 20. -/
def fenceable (level src : Nat) : Bool :=
  match level with
  | 0 => src ≤ 10
  | 1 => between 18 src 21 || src == 23
  | _ => between 4 src 9 || src == 11 || src == 12 || between 15 src 19 || src == 26

def summaryAt (level src : Nat) : Bool := (level == 1 && src < 17) || (level == 2 && src < 4)
def sourcesAt (level : Nat) : Nat := match level with | 0 => 11 | 1 => 26 | _ => 29
def indexOk (level ix : Nat) : Bool := ix == 127 || (match level with | 0 => ix < 68 | 1 => ix < 4 | _ => ix == 0)

def parseReaction (bs : List Byte) : Option Reaction :=
  let w := fieldB bs 0 2
  let r : Reaction := ⟨w % 4, w / 4 % 128, fieldB bs 2 1, BitVec.ofNat 8 (fieldB bs 3 1), fieldB bs 4 1 == 1⟩
  let a := r.actions.toNat
  let takesOut := hasAct a actFence || hasAct a actBlockReset
  if r.level ≤ 2 && w < 512 && indexOk r.level r.index && r.source < sourcesAt r.level && a < 64 && fieldB bs 4 1 ≤ 1 &&
      allZero (sliceB bs 5 3) && (!takesOut || (fenceable r.level r.source && !summaryAt r.level r.source)) then some r
  else none

def parseReactions : Option (List Byte) → Option (List Reaction)
  | none => some []
  | some bs =>
    let n := fieldB bs 0 4
    match ((List.range (min n bs.length)).map fun i => sliceB bs (4 + 8 * i) 8).mapM parseReaction with
    | none => none
    | some rs =>
      if bs.length = 4 + 8 * n && (rs.map fun r => (r.level, r.index, r.source)).Nodup then some rs else none

def fallLimits : List (Nat × Nat) := [(42500, 47000), (41500, 44000), (40000, 42500), (39500, 41000), (35000, 37000)]

/-- One shed record with its step number. -/
def shedRecOk (bs : List Byte) (i : Nat) : Bool :=
  let fall := fieldB bs 2 2
  let rise := fieldB bs 4 2
  let (lo, hi) := fallLimits.getD i (0, 0)
  fieldB bs 0 1 == i + 1 && fieldB bs 1 1 == 0 && fieldB bs 6 2 == 0 && between lo fall hi &&
    (if i = 4 then rise == 0 else between (fall + 200) rise (fall + 3000))

def parseShed : Option (List Byte) → Option (List (Nat × Nat))
  | none => some [(44000, 45000), (42500, 43500), (41000, 42000), (39500, 40500), (36000, 0)]
  | some bs =>
    let rs := (List.range 5).map fun i => sliceB bs (8 * i) 8
    let falls := rs.map fun r => fieldB r 2 2
    if bs.length = 40 && (rs.zipIdx).all (fun (r, i) => shedRecOk r i) &&
        (falls.zip (falls.drop 1)).all (fun (a, b) => b + 500 ≤ a) then
      some (rs.map fun r => (fieldB r 2 2, fieldB r 4 2))
    else none

/-! ## STREAM_LIBRARY (R222, R223) and PRONG_MICROCODE -/

def insnOp (w : Nat) : Nat := bitsOf w 63 58
def insnX (w : Nat) : Nat := bitsOf w 57 55
def insnImm (w : Nat) : Nat := bitsOf w 47 0
def insnF (w : Nat) : Nat := bitsOf w 51 48

/-- One instruction is assigned, with its operands in range. -/
def insnOk (w : Nat) : Bool :=
  match insnOp w with
  | 0x00 | 0x01 | 0x02 | 0x03 | 0x0A | 0x0B | 0x0C | 0x10 | 0x11 | 0x3F => true
  | 0x04 => insnX w ≤ 3 && 1 ≤ insnImm w % 2 ^ 24
  | 0x05 => insnX w ≤ 3
  | 0x08 => between 1 (insnImm w % 2 ^ 17) 65536 && insnF w % 4 != 3
  | 0x09 => insnF w % 4 != 3 && (bitOf (insnF w) 2 || between 3 (bitsOf (insnImm w) 29 24) 16)
  | _ => false

/-- Loops match and nest at most four deep. -/
def loopsOk : List Nat → List Nat → Bool
  | _, [] => true
  | st, w :: ws =>
    if insnOp w = 0x04 then st.length < 4 && loopsOk (insnX w :: st) ws
    else if insnOp w = 0x05 then
      match st with
      | x :: r => x == insnX w && loopsOk r ws
      | [] => false
    else loopsOk st ws

/-- One program of a list of words, and the words after it. -/
def parseProgram : List Nat → Option (Program × List Nat)
  | [] => none
  | h :: ws =>
    let n := bitsOf h 6 0
    let code := ws.take n
    let p : Program := ⟨n, bitsOf h 10 7 + 1, bitsOf h 12 11, bitsOf h 15 13, bitsOf h 19 16, bitsOf h 35 20, code.map (BitVec.ofNat 64)⟩
    if between 1 n 64 && code.length = n && 3 ≤ p.slots && p.slotSize ≤ 2 && p.consumer ≤ 5 && p.params ≤ 8 &&
        bitsOf h 63 36 = 0 && code.all insnOk && loopsOk [] code then some (p, ws.drop n)
    else none

def parsePrograms : Nat → List Nat → Option (List Program)
  | 0, ws => if ws.isEmpty then some [] else none
  | n + 1, ws => match parseProgram ws with
    | none => none
    | some (p, r) => (parsePrograms n r).map (p :: ·)

def parseLibrary (bs : List Byte) : Option (List Program) :=
  let n := fieldB bs 0 2
  if between 1 n 4096 && allZero (sliceB bs 2 6) && bs.length % 8 = 0 then
    match parsePrograms n ((chunks 8 (bs.drop 8)).map leNat) with
    | some ps => if (ps.map Program.id).Nodup then some ps else none
    | none => none
  else none

/-- VERSION of the prong microcode. -/
def parseMicrocode (bs : List Byte) : Option Nat :=
  let n := fieldB bs 0 4
  if n ≤ 262144 && bs.length = 8 + n then some (fieldB bs 4 4) else none

/-! ## The whole setting -/

/-- Check 5 of R329 for a full setting: every section read, or none where one breaks its rules. -/
def parseSetting (maxLog2 : Nat) (h : SettingHead) : Option Setting := do
  let sec (t : Nat) : List Byte := (sectionOf h t).getD []
  let g ← parseGrouping (sec 1)
  let carve ← parseCarve (sec 2)
  let (w, d, fs) ← parseFormats g.groups (sec 3)
  let qs ← parseQueues (sec 4)
  let (ad, nd) ← parseClocks (sectionOf h 5)
  let (t, src, arg) ← parseBead (sec 6)
  let fab ← parseFabric maxLog2 t (sec 7)
  let rs ← parseReactions (sectionOf h 8)
  let shed ← parseShed (sectionOf h 9)
  let ps ← parseLibrary (sec 0x0A)
  let v ← parseMicrocode (sec 0x0B)
  if learnGroupsOk g.groups then
    some { serial := h.serial, grouping := g, carve := carve, driftW := w, driftD := d, formats := fs, queues := qs,
           arithDiv := ad, nearDiv := nd, periodUs := t, source := src, sourceArg := arg, fabric := fab, reactions := rs,
           shed := shed, programs := ps, prongVersion := v }
  else none

end Sys2Proof.Machine
end

