-- ==== Sys2Proof/Machine/Stream.lean ====
section
/-! DEFINITION. Stream programs (R221 to R227): what each instruction does, how a piece finds its page (R168, R171, R224),
what an uncorrectable read takes (R179, R193, R206, R231), and the memory-side adders (R182). -/

namespace Sys2Proof.Machine

/-! ## Places -/

/-- Where a page is read. -/
inductive Place where
  | near (bank : Nat)
  | side (bank : Nat)
  | hbm (ch : Nat)
  | flash (c : Nat)
  | lost (c : Nat)
  | buffer
  | gone                        -- no copy of a side-list page is left
  | unbacked
  deriving DecidableEq, Repr

/-- The home of a range within one page: its flash unit, or the write buffer while a record of the page waits there (R210). What
lies in a lost unit is read through the buffer only where the records cover it. -/
def homeOf (s : State) (id off len : Nat) : Place :=
  let page := off / pageSize
  let rs := bufferedRecs s id page
  match s.flash.units.find? fun u => u.coll == id && u.page == page with
  | some u =>
    if u.lost then (if covers off len rs then .buffer else .lost u.chan)
    else if rs.isEmpty then .flash u.chan else .buffer
  | none => .buffer

/-- The resolved location of bytes of one page of a collection range (R168, R171). -/
def placeOf (s : State) (id : Nat) (c : Coll) (off len : Nat) : Place :=
  let page := off / pageSize
  match c.params.kindOf page with
  | none => .unbacked
  | some .sideLog => match sideServer s c page with | some b => .side b | none => .gone
  | some k => match findPage c page with
    | some { locs := .near b :: _, .. } => .near b
    | some { locs := .hbm ch :: _, .. } => .hbm ch
    | some _ => homeOf s id off len
    | none => if k.isList || k == .heads then .unbacked else homeOf s id off len

/-- Tier and channel of a slot: 0 near memory, 1 HBM, 2 flash, 3 the write buffer. -/
def Place.tierChan : Place → Nat × Nat
  | .near b => (0, b)
  | .side b => (0, sideMark + b)
  | .hbm ch => (1, ch)
  | .flash c | .lost c => (2, c)
  | .buffer | .gone | .unbacked => (3, 0)

/-- Channel and byte address of a scratch offset of a task (R181). -/
def scratchPlace (s : State) (tid off : Nat) : Nat × Nat :=
  let page := off / pageSize
  let out := match getTask s tid with | some t => t.out | none => []
  (scratchChan out tid page, Config.scratchFrame tid page % 32768 * pageSize + off % pageSize)

/-! ## What a piece carries -/

/-- Of records of `size` bytes that follow one another from `base`, those whose last byte lies in a piece; with `any`,
those that share a byte with it. -/
def spanned (any : Bool) (base size : Nat) (xs : List Nat) (off len : Nat) : List Nat :=
  xs.zipIdx.filterMap fun (x, i) =>
    let a := base + i * size
    let z := a + size
    if (if any then decide (a < off + len) && decide (off < z) else decide (off < z) && decide (z ≤ off + len)) then some x
    else none

/-- Slots of one stride region in a piece; a slot that holds no bytes is in none. -/
def strideSlots (any : Bool) (c : Coll) (base stride : Nat) (size : Nat → Nat) (off len : Nat) : List Nat :=
  if stride = 0 then []
  else
    let i0 := (off - base) / stride
    let i1 := (off + len - base) / stride
    ((List.range (i1 + 1 - i0)).map (· + i0)).filterMap fun i =>
      let a := base + i * stride
      let z := a + size (c.slotBase + i)
      if a < z && (if any then decide (a < off + len) && decide (off < z) else decide (off < z) && decide (z ≤ off + len)) then
        some (c.slotBase + i)
      else none

/-- Bytes of the row a slot holds. -/
def rowBytes (c : Coll) (slot : Nat) : Nat := match c.items.get slot with | some it => it.row.length | none => 0

/-- Slots of the entries, vectors or rows in a piece (R168, R178). -/
def slotsIn (any : Bool) (c : Coll) (off len : Nat) : List Nat :=
  let p := c.params
  let slots (g : Segment) : List Nat := g.entries.map Entry.slot
  match p.kindOf (off / pageSize) with
  | some .sketches => (c.segs.map fun g => spanned any (g.sketchPage * pageSize) p.sketchBytes (slots g) off len).flatten
  | some .codes => (c.segs.map fun g => spanned any (g.codePage * pageSize) p.codeBytes (slots g) off len).flatten
  | some .vectors => strideSlots any c (regionOff p .vectors) p.vecStride (fun _ => p.vecBytes) off len
  | some .rows => strideSlots any c (regionOff p .rows) p.maxRow (rowBytes c) off len
  | some .sideLog => spanned any (regionOff p .sideLog) p.sideEntryBytes (c.side.map fun x => x.ent.slot) off len
  | _ => []

/-! ## The screen test (R63) -/

def Query.codesOf (q : Query) (epoch : Nat) : Option EpochCodes := q.codes.find? fun k => k.epoch == epoch && !k.aborted

/-- pass(q, e) of R63, from the entry's screen mask: the Hamming distance where it passes. `stamp` is the insert stamp of a
side-list entry. -/
def screen (c : Coll) (q : Query) (e : Entry) (m : MaskEntry) (stamp : Option Nat) : Option Nat :=
  match q.codesOf e.epoch with
  | none => none
  | some k =>
    let h := hamming c.params.sketchBits k.sketch e.sketch
    if h ≤ q.p.thr && m.filterOk c q && !m.deny.contains q.qid && m.shows q.snap stamp then some h else none

/-- The entry of a slot in one segment or in the side list. -/
def entryIn (c : Coll) (seg slot : Nat) : Option Entry :=
  if seg = 65535 then (c.side.find? fun x => x.ent.slot == slot).map SideEntry.ent
  else (c.segs.find? fun g => g.num == seg).bind fun g => g.entries.find? fun e => e.slot == slot

/-- The bucket of a segment that lists a slot; the side list has none (R42). -/
def listBucket (c : Coll) (seg slot : Nat) : Option Nat :=
  (c.segs.find? fun g => g.num == seg).bind fun g =>
    (g.lists.find? fun l => l.2.any fun e => e.slot == slot).map Prod.fst

/-- A task screens an entry for the queries grouped on its bucket (R78). -/
def Task.serves (t : Task) (bucket : Option Nat) (qid : Nat) : Bool :=
  match bucket with
  | none => t.qids.contains qid
  | some b => t.groups.any fun g => g.1 == b && g.2.contains qid

/-- Survivor records of some slots: slot, epoch, and the queries of the group it passes for with their distances (R69). -/
def survivors (s : State) (t : Task) (covered : List Nat) : List Survivor :=
  match getColl s t.coll with
  | none => []
  | some c =>
    let qs := t.qids.filterMap (findQuery s)
    covered.filterMap fun x => match entryIn c t.seg x, t.masks.find? fun m => m.slot == x with
      | some e, some m =>
        let stamp := if t.seg = 65535 then (c.items.get x).map Item.stamp else none
        let bucket := if t.seg = 65535 then none else listBucket c t.seg x
        let hits := (qs.filter fun q => t.serves bucket q.qid).filterMap fun q => (screen c q e m stamp).map fun h => (q.qid, h)
        if hits.isEmpty then none else some ⟨x, e.epoch, hits⟩
      | _, _ => none

/-- Gate list of some slots: survivors of any query of the task (R197). -/
def gated (s : State) (t : Task) (covered : List Nat) : List Nat :=
  let open_ := (t.qids.filterMap (findQuery s)).map fun q =>
    ((q.segs.filter fun g => g.seg == t.seg).map SegState.toScore).flatten
  covered.filter fun x => open_.any fun l => l.contains x

/-! ## Reads that fail -/

def dieMaster (die unit : Nat) : BitVec 16 := BitVec.ofNat 16 (die * 2 ^ 13 + unit)

/-- The access captured for a read of a range offset: collection id from bit 48 up, offset below. Log entry 25. -/
def readAccess (unit coll off : Nat) : Access := ⟨1, BitVec.ofNat 64 (coll * 2 ^ 48 + off), dieMaster 4 unit⟩

/-- A query of the task has entries of some slots still open in the task's segment. -/
def needsSlots (t : Task) (lost : List Nat) (q : Query) : Bool :=
  t.qids.contains q.qid && q.segs.any fun g => g.seg == t.seg &&
    (if t.kind == .code then g.toScore else g.toScreen).any lost.contains

/-- A sketch or code piece is lost: the queries that need entries of it miss the segment with the cause given. On flash their
work on it ends; elsewhere what other pieces bring still takes part (R54, R79, R231). -/
def listLost (s : State) (t : Task) (lost : List Nat) (cause : Nat) : State :=
  let b := beadNow s
  let take (g : SegState) : SegState :=
    if g.tier = 2 then { g with toScreen := [], toScore := [] } else g.without lost
  mapQueries s fun q => if needsSlots t lost q then
    let q1 := q.missIf b cause fun g => g.seg == t.seg
    { q1 with segs := q1.segs.map fun g => if g.seg = t.seg then take g else g } else q

/-- The other streams of a task's segment are cancelled once no query of the task has work there (R231). -/
def cancelMates (s : State) (r : Stream) (t : Task) : State :=
  let open_ := (t.qids.filterMap (findQuery s)).any fun q => q.segs.any fun g => g.seg == t.seg && g.missed.isNone
  let mate (x : Task) : Bool := x.tid != t.tid && x.coll == t.coll && x.seg == t.seg && x.qids == t.qids &&
    (x.kind == .sketch || x.kind == .code)
  if open_ then s else stopStreams (cancelTasks s mate) fun x => x.tid == t.tid && x.sid != r.sid

/-- What a piece that cannot be read takes from its owner: R74, R76, R98, R118, R207, R231. -/
def pieceLost (s : State) (r : Stream) (t : Task) (off len cause : Nat) : State :=
  let b := beadNow s
  let lost := match getColl s t.coll with | some c => slotsIn true c off len | none => []
  match t.kind with
  | .sketch | .code => cancelMates (listLost s t lost cause) r t
  | .bridge =>
    let hit (q : Query) : List (Nat × Nat) := if t.qids.contains q.qid then q.bridgeTargets.filter fun x => lost.contains x.1 else []
    let n := sumN (s.search.queries.map fun q => (hit q).length)
    bumpN (mapQueries s fun q => { q with bridgeTargets := q.bridgeTargets.filter fun x => !(hit q).contains x }) bridgeMissCnt n
  | .vector =>
    let open_ (q : Query) : List Nat :=
      if t.qids.contains q.qid then ((q.segs.map SegState.toRerank).flatten).filter lost.contains else []
    let n := sumN (s.search.queries.map fun q => (open_ q).length)
    bumpN (mapQueries s fun q =>
      let q1 := q.missIf b cause fun g => g.toRerank.any (open_ q).contains
      { q1 with segs := q1.segs.map fun g => { g with toRerank := g.toRerank.filter fun x => !(open_ q).contains x } })
      rerankMissCnt n
  | .row =>
    mapQueries s fun q => if t.qids.contains q.qid then
      { q with toGather := q.toGather.filter fun x => !(x.2 == s.fabric.addr && lost.contains x.1) } else q
  | .merge => cancelTasks (updColl s t.coll stopMerge) fun x => x.tid == t.tid
  | _ => s

/-! ## Issue (R224, R225) -/

/-- Prefetch depth in force: 1 at the second shed step (R183, R359). -/
def prefetchDepth (s : State) : Nat := if 2 ≤ s.power.edgeStep then 1 else (carveOf s).prefetch

/-- Put an issued piece into the slot at the head. -/
def issueSlot (s : State) (r : Stream) (p : Piece) (x : Slot) (rest : List Piece) : State :=
  let y := { x with seq := r.seq, off := p.off, len := p.len, mode := p.mode, bead := p.bead }
  updStream s r.sid fun r => { r with ring := updAt r.ring (r.head % max 1 r.ring.length) (fun _ => y), head := r.head + 1,
                                      seq := r.seq + 1, waiting := rest }

/-- A read of a lost unit fails at once (R206). -/
def lostRead (s : State) (c coll off : Nat) : State :=
  raiseAcc (bump s (flashUncorrCnt c)) 72 8 (readAccess (0x200 + c) coll (off / pageSize * pageSize)) .nothing

/-- Queries of a task that a lost piece concerns and whose schedule allows no flash read: they lose it now, the others wait
for the read (R79). -/
def pieceShort (s : State) (r : Stream) (t : Task) (off len cause : Nat) : State :=
  let short := t.qids.filter fun id => match findQuery s id with | some q => !mayReread s t q | none => false
  if short.isEmpty then s else pieceLost s r { t with qids := short } off len cause

/-- Some query of a task can still be served by a flash read. -/
def anyReread (s : State) (t : Task) : Bool :=
  t.qids.any fun id => match findQuery s id with | some q => mayReread s t q | none => false

/-- Why the queries of a task do not read a page of their shallow schedule from flash: it was mapped out after their
admission. The heat of a stack leaves them the flash read that the schedule allows (R118). -/
def unreadCause (s : State) (t : Task) (c : Coll) (page : Nat) : Option (Nat × Bool) :=
  let shallow := t.kind == .sketch && (t.qids.filterMap (findQuery s)).all fun q => q.segs.any fun g => g.seg == t.seg && g.tier != 2
  match findPage c page with
  | some p => if shallow && p.refilling && p.kind.isList then some (if p.hotLost then (3, anyReread s t) else (4, false)) else none
  | none => none

/-- Issue one piece of a stream: resolved now, or a stream fault (R224, R229). Whether a flash request is at its device or
still queued is open, drawn here, and so it is for a request to an HBM controller (R232, log entry 46). -/
def issueOne (s : State) (r : Stream) (t : Task) (p : Piece) (rest : List Piece) : State :=
  let at_ (tier chan : Nat) (dev : Bool) (d : SlotData) (raw : Bool) : Slot :=
    { Slot.empty with st := .issued, raw := raw, tier := tier, chan := chan, outstanding := true, atDevice := dev, data := d }
  let dead (tier chan : Nat) : Slot := { at_ tier chan true .none false with st := .void, outstanding := false }
  if 2 ^ 48 < p.off + p.len then streamFault s r.sid
  else match r.coll with
  | none =>
    if ownedPages s t * pageSize < p.off + p.len then streamFault s r.sid
    else
      let (ch, _) := scratchPlace s r.tid p.off
      let (dev, s1) := drawBool s
      if chanOut s ch then streamFault s r.sid else issueSlot s1 r p (at_ 1 ch dev .none false) rest
  | some id => match getColl s id with
    | none => streamFault s r.sid
    | some c =>
      let pl := placeOf s id c p.off p.len
      let cov := slotsIn false c p.off p.len
      let (tier, chan) := pl.tierChan
      match unreadCause s t c (p.off / pageSize) with
      | some (cause, false) => passRings (pieceLost (issueSlot s r p (dead 1 0) rest) r t p.off p.len cause)
      | other =>
        let s0 := match other with | some (cause, _) => pieceShort s r t p.off p.len cause | none => s
        match pl with
        | .unbacked => streamFault s0 r.sid
        | .lost ch => passRings (pieceLost (lostRead (issueSlot s0 r p (dead 2 ch) rest) ch id p.off) r t p.off p.len 5)
        | .gone => passRings (pieceLost (issueSlot s0 r p (dead 0 sideMark) rest) r t p.off p.len 5)
        | .near b =>
          if bankOk s b then issueSlot s0 r p (at_ tier chan true (.raw cov) false) rest
          else passRings (pieceLost (issueSlot s0 r p (dead 0 b) rest) r t p.off p.len 4)
        | .flash _ | .hbm _ =>
          let (dev, s1) := drawBool s0
          issueSlot s1 r p (at_ tier chan dev (.raw cov) (tier == 1 && p.mode != 0)) rest
        | _ => issueSlot s0 r p (at_ tier chan true (.raw cov) (p.mode != 0 && tier == 3)) rest
where
  passRings (s : State) : State := s.modStreams fun x => { x with streams := x.streams.map passVoid }

/-- The group of a task as a prong's signature store takes it: up to 16 queries for each live epoch, with their sketches,
thresholds and mask positions (R196). -/
def sigGroup (s : State) (t : Task) : SigGroup :=
  let qs := t.qids.filterMap (findQuery s)
  ⟨t.tid, (qs.zipIdx.map fun (q, i) => q.codes.map fun k => (k.epoch, q.qid, k.sketch, q.p.thr, i)).flatten⟩

/-- Prong stores hold the groups of live tasks only. -/
def pruneStores (s : State) : State :=
  let live := s.streams.tasks.map Task.tid
  s.modFlash fun f => { f with chans := f.chans.map fun k => { k with store := k.store.filter fun g => live.contains g.tid } }

/-- A SCREEN read goes to flash once its group is in the store of the prong, which holds 8 at once (R196). None: the store is
full. -/
def loadStore (s : State) (t : Task) (chan : Nat) : Option State :=
  let s1 := pruneStores s
  let k := getFlashCh s1 chan
  if k.store.any fun g => g.tid == t.tid then some s1
  else if k.store.length < 8 then some (updFlashCh s1 chan fun x => { x with store := x.store ++ [sigGroup s1 t] })
  else none

/-- The state in which a piece may be issued: its group loaded where a prong is to screen it; none while the store is full. -/
def prepareIssue (s : State) (r : Stream) (t : Task) (p : Piece) : Option State :=
  match r.coll.bind (getColl s) with
  | none => some s
  | some c => match placeOf s (r.coll.getD 0) c p.off p.len with
    | .flash ch => if p.mode = 1 && !(getFlashCh s ch).prongFenced && !stripePage s (r.coll.getD 0) (p.off / pageSize) then loadStore s t ch else some s
    | _ => some s

/-- Issue what a stream may issue now: in order, while a slot is free and the consuming bead is near enough (R225,
R226). -/
def issueN : Nat → State → Nat → State
  | 0, s, _ => s
  | n + 1, s, sid =>
    match getStream s sid with
    | none => s
    | some r => match getTask s r.tid, r.waiting with
      | some t, p :: rest =>
        if r.stopped || t.aborted || r.ring.length ≤ r.head - r.tail || beadNow s + prefetchDepth s < p.bead then s
        else match prepareIssue s r t p with
          | some s1 => issueN n (issueOne s1 r t p rest) sid
          | none => s
      | _, _ => s

def issueWaiting (s : State) (sid : Nat) : State :=
  match getStream s sid with
  | none => s
  | some r => issueN r.waiting.length s sid

/-- Let every stream issue what it may. -/
def issueAll (s : State) : State := (s.streams.streams.map Stream.sid).foldl issueWaiting s

/-! ## Instructions (R223) -/

/-- The word a stream executes next, where it may execute one: it runs, and nothing waits before it. -/
def nextWord (s : State) (r : Stream) : Option Nat :=
  if isUp s && !r.halted && !r.stopped && r.waiting.isEmpty then (r.words[r.pc]?).map BitVec.toNat else none

def insnY (w : Nat) : Nat := bitsOf w 54 52

/-- Run an instruction of a stream when the word at its place satisfies `p`. -/
def onInsn (s : State) (sid : Nat) (p : Nat → Bool) (f : Stream → State) : State :=
  match getStream s sid with
  | none => s
  | some r => match nextWord s r with
    | some w => if p w then f r else s
    | none => s

def putStream (s : State) (r : Stream) : State := updStream s r.sid fun _ => r

def execNop (sid : Nat) (s : State) : Res :=
  .next (onInsn s sid (fun w => insnOp w == 0) fun r => putStream s { r with pc := r.pc + 1 })

def setA (r : Stream) (x : Nat) (v : BitVec 48) : Stream := { r with a := updAt r.a x fun _ => v }
def regA (r : Stream) (x : Nat) : BitVec 48 := r.a.getD x 0
def regS (r : Stream) (x : Nat) : BitVec 48 := r.s.getD x 0

def execSeta (sid : Nat) (x : BitVec 3) (imm : BitVec 48) (s : State) : Res :=
  .next (onInsn s sid (fun w => insnOp w == 1 && insnX w == x.toNat && insnImm w == imm.toNat) fun r =>
    putStream s { setA r x.toNat imm with pc := r.pc + 1 })

def execAdda (sid : Nat) (x y : BitVec 3) (imm : BitVec 48) (s : State) : Res :=
  .next (onInsn s sid (fun w => insnOp w == 2 && insnX w == x.toNat && insnY w == y.toNat && insnImm w == imm.toNat) fun r =>
    putStream s { setA r x.toNat (regA r y.toNat + imm) with pc := r.pc + 1 })

def execSets (sid : Nat) (x : BitVec 3) (imm : BitVec 48) (s : State) : Res :=
  .next (onInsn s sid (fun w => insnOp w == 3 && insnX w == x.toNat && insnImm w == imm.toNat) fun r =>
    putStream s { r with s := updAt r.s x.toNat (fun _ => imm), pc := r.pc + 1 })

def execLoop (sid : Nat) (x : BitVec 3) (imm : BitVec 48) (s : State) : Res :=
  .next (onInsn s sid (fun w => insnOp w == 4 && insnX w == x.toNat && insnImm w == imm.toNat) fun r =>
    putStream s { r with c := updAt r.c x.toNat (fun _ => imm.setWidth 24), loops := (x.toNat, r.pc + 1) :: r.loops, pc := r.pc + 1 })

/-- ENDL: back to the instruction after the matching LOOP while the counter is above zero. -/
def execEndl (sid : Nat) (x : BitVec 3) (s : State) : Res :=
  .next (onInsn s sid (fun w => insnOp w == 5 && insnX w == x.toNat) fun r =>
    let v := r.c.getD x.toNat 0 - 1
    let r1 := { r with c := updAt r.c x.toNat fun _ => v }
    match r.loops.find? fun l => l.1 == x.toNat with
    | some (_, back) =>
      if v = 0 then putStream s { r1 with loops := r.loops.drop 1, pc := r.pc + 1 } else putStream s { r1 with pc := back }
    | none => putStream s { r1 with pc := r.pc + 1 })

/-- A request cut at page boundaries and at the slot size (R224). -/
def cutN : Nat → Nat → Nat → Nat → List (Nat × Nat)
  | 0, _, _, _ => []
  | f + 1, slot, off, len =>
    if len = 0 then []
    else
      let n := min (min len slot) (pageSize - off % pageSize)
      (off, n) :: cutN f slot (off + n) (len - n)

def piecesOf (r : Stream) (mode off len : Nat) : List Piece :=
  (cutN (len / 2048 + 3) r.slotBytes off len).map fun (o, n) => ⟨o, n, mode, r.bead⟩

/-- A byte of a list of entries that starts at page `first`. -/
def listByte (first size off : Nat) (es : List Entry) (bytes : Entry → List Byte) : Option Byte :=
  if size = 0 || off < first * pageSize then none
  else
    let n := off - first * pageSize
    (es[n / size]?).bind fun e => (bytes e)[n % size]?

/-- The byte at a range offset where it lies in a vector, a row, a sketch list, a code list or a bitmap. -/
def rangeByte (c : Coll) (off : Nat) : Option Byte :=
  let p := c.params
  let item (k : PageKind) (stride : Nat) (f : Item → List Byte) : Option Byte :=
    let n := off - regionOff p k
    if stride = 0 then none else (c.items.get (c.slotBase + n / stride)).bind fun it => (f it)[n % stride]?
  let bits (n : Nat) (f : Nat → Bool) : Byte := BitVec.ofNat 8 ((List.range 8).foldl (fun v i => if f (8 * n + i) then v + 2 ^ i else v) 0)
  match p.kindOf (off / pageSize) with
  | some .tombstones => some (bits (off - regionOff p .tombstones) fun i => c.tombs.contains (c.slotBase + i))
  | some .filters =>
    let per := p.bitmapPages * pageSize
    let n := off - regionOff p .filters
    let v := c.filters.find? fun v => v.id == n / per && v.drop.isNone
    v.map fun v => bits (n % per) (bitOf v.bits)
  | some .vectors => item .vectors p.vecStride fun it => it.vector.getD []
  | some .rows => item .rows p.maxRow Item.row
  | some .sketches => c.segs.findSome? fun g => listByte g.sketchPage p.sketchBytes off g.entries fun e => leBytes p.sketchBytes e.sketch
  | some .codes => c.segs.findSome? fun g => listByte g.codePage p.codeBytes off g.entries fun e =>
      e.code ++ (e.bridges.map fun x => leBytes 8 x).flatten
  | _ => none

/-- Bit j of the bitmap at a range offset; what no content names is open. -/
def bitmapBit (s : State) (r : Stream) (addr j : Nat) : Bool × State :=
  match (r.coll.bind (getColl s)).bind fun c => rangeByte c (addr + j / 8) with
  | some v => (v.getLsbD (j % 8), s)
  | none => drawBool s

/-- READ: the request is cut into pieces; a request that SKIPMAP skips takes no slot and no SEQ (R223, R224). -/
def execRead (sid : Nat) (x : BitVec 3) (f : BitVec 4) (imm : BitVec 48) (s : State) : Res :=
  .next (onInsn s sid (fun w => insnOp w == 8 && insnX w == x.toNat && insnF w == f.toNat && insnImm w == imm.toNat) fun r =>
    let (go, s1) := if r.skipLeft = 0 then (true, s) else bitmapBit s r r.skipAt r.skipJ
    let ps := if go then piecesOf r (f.toNat % 4) (regA r x.toNat).toNat (imm.toNat % 2 ^ 17) else []
    let r1 := setA { r with skipLeft := r.skipLeft - 1, skipJ := r.skipJ + 1 } x.toNat (regA r x.toNat + regS r x.toNat)
    issueWaiting (putStream s1 { r1 with waiting := ps, pc := r.pc + 1 }) sid)

/-- Requests of a GATHER from its descriptor's list, from the entry at A[Y] on: 64-bit entries give offset and length,
32-bit entries an index (R223). Elements beyond the list are not requested. DESIGN CHOICE, log entry 26. -/
def gatherList (r : Stream) (x y : Nat) (wide : Bool) (imm : Nat) : List (Nat × Nat) :=
  let es := (r.ext.drop (((regA r y).toNat - r.extAt) / (if wide then 8 else 4))).take (imm % 2 ^ 24)
  if wide then es
  else es.map fun (i, _) => ((regA r x).toNat + i * 2 ^ bitsOf imm 29 24, 2 ^ bitsOf imm 29 24)

def execGather (sid : Nat) (x y : BitVec 3) (f : BitVec 4) (imm : BitVec 48) (s : State) : Res :=
  .next (onInsn s sid (fun w => insnOp w == 9 && insnX w == x.toNat && insnY w == y.toNat && insnF w == f.toNat && insnImm w == imm.toNat) fun r =>
    let ps := ((gatherList r x.toNat y.toNat f[2] imm.toNat).map fun (o, n) => piecesOf r (f.toNat % 4) o n).flatten
    issueWaiting (putStream s { r with waiting := ps, pc := r.pc + 1 }) sid)

def execSkipmap (sid : Nat) (y : BitVec 3) (imm : BitVec 48) (s : State) : Res :=
  .next (onInsn s sid (fun w => insnOp w == 0x0A && insnY w == y.toNat && insnImm w == imm.toNat) fun r =>
    putStream s { r with skipLeft := imm.toNat % 2 ^ 24, skipAt := (regA r y.toNat).toNat, skipJ := 0, pc := r.pc + 1 })

/-- TAG: SEQ, and with F[0] the pairing with another stream of the task. -/
def execTag (sid : Nat) (f : BitVec 4) (imm : BitVec 48) (s : State) : Res :=
  .next (onInsn s sid (fun w => insnOp w == 0x0B && insnF w == f.toNat && insnImm w == imm.toNat) fun r =>
    putStream s { r with seq := imm.setWidth 16, pair := if f[0] then some (bitsOf imm.toNat 23 16) else r.pair, pc := r.pc + 1 })

def execBead (sid : Nat) (imm : BitVec 48) (s : State) : Res :=
  .next (onInsn s sid (fun w => insnOp w == 0x0C && insnImm w == imm.toNat) fun r =>
    putStream s { r with bead := r.launch + imm.toNat % 2 ^ 12, pc := r.pc + 1 })

/-- The tail slot of a stream's ring, where it is FULL. -/
def tailFull (r : Stream) : Option Slot :=
  if r.tail < r.head then
    match r.ring[r.tail % max 1 r.ring.length]? with
    | some x => if x.st == .full then some x else none
    | none => none
  else none

/-- The tail passes its slot, and then VOID slots behind it (R226, R233). -/
def advanceTail (r : Stream) : Stream :=
  passVoid { r with ring := updAt r.ring (r.tail % max 1 r.ring.length) Slot.freed, tail := r.tail + 1 }

def inputOf (s : State) (r : Stream) : Option Stream := r.input.bind (getStream s)

/-- Bytes that start at a scratch offset, cut at the page boundary. -/
def scratchCuts (s : State) (tid off : Nat) (bs : List Byte) : List ((Nat × Nat) × List Byte) :=
  let n := pageSize - off % pageSize
  let rest := bs.drop n
  (scratchPlace s tid off, bs.take n) :: if rest.isEmpty then [] else [(scratchPlace s tid (off + n), rest)]

/-- A write to a channel's scratch: at once, or queued behind a retrain (R190). -/
def scratchWrite (s : State) (tid ch addr : Nat) (bs : List Byte) : State :=
  if (getChan s ch).state = 1 then updChan s ch fun c => { c with queued := c.queued ++ [.write addr bs (some tid)] }
  else waitApply s ch (.write addr bs (some tid))

/-- Bytes a stream writes at an offset: a scratch stream writes the scratch pages of its task. What lands in a collection range
is held as the entries, vectors and rows of the merge or drain that the stream serves, which the end of that work enters (log
entry 26). -/
def streamWrite (s : State) (r : Stream) (off : Nat) (d : SlotData) : State :=
  match r.coll, d with
  | none, .bytes bs => (scratchCuts s r.tid off bs).foldl (fun t x => scratchWrite t r.tid x.1.1 x.1.2 x.2) s
  | _, _ => s

/-- Whether an offset a stream writes is backed or owned (R229). -/
def writable (s : State) (r : Stream) (off len : Nat) : Bool :=
  match r.coll with
  | some id => match getColl s id with
    | some c => (c.params.kindOf (off / pageSize)).isSome
    | none => false
  | none => match getTask s r.tid with
    | some t => decide (off + len ≤ ownedPages s t * pageSize) && !chanOut s (scratchPlace s r.tid off).1 &&
        !chanOut s (scratchPlace s r.tid (off + len - 1)).1
    | none => false

/-- WRITE: the next FULL slot of the input ring goes to A[X]; the stream waits while there is none. -/
def execWrite (sid : Nat) (x : BitVec 3) (s : State) : Res :=
  .next (onInsn s sid (fun w => insnOp w == 0x10 && insnX w == x.toNat) fun r =>
    match inputOf s r with
    | none => s
    | some i => match tailFull i with
      | none => s
      | some sl =>
        let off := (regA r x.toNat).toNat
        if !writable s r off sl.len then streamFault s sid
        else
          let s1 := putStream (streamWrite s r off sl.data) (advanceTail i)
          issueAll (putStream s1 { setA r x.toNat (regA r x.toNat + regS r x.toNat) with pc := r.pc + 1 }))

/-! ## Memory-side adders (R182, R190) -/

/-- An adder request to HBM channel `ch`, or to near-memory bank group `ch - 256`: applied, queued behind a retrain, or
discarded by a channel that is out. MSA_OVF_CNT stands in the stacks alone, so a wrap in near memory has no counter. -/
def msaRequest (s : State) (ch : Nat) (q : MsaReq) : State :=
  if ch < 256 then
    match (getChan s ch).state with
    | 0 => msaApply s ch q
    | 1 => updChan s ch fun c => { c with queued := c.queued ++ [.msa q] }
    | _ => s
  else
    let a := (ch - 256) * 2 ^ 32 + q.addr % 2 ^ 32
    let n := msaBytes q.fmt
    let (v, _) := msaElem q.op q.fmt (leNat (s.near.bytes.readBytes a n)) q.v.toNat
    s.modNear fun m => { m with bytes := m.bytes.writeBytes a (leBytes n v) }

def execMsaAdd (ch addr : Nat) (fmt : MsaFmt) (v : BitVec 64) (s : State) : Res :=
  .next (if isUp s then msaRequest s ch ⟨0, addr, fmt, v, none⟩ else s)
def execMsaMin (ch addr : Nat) (fmt : MsaFmt) (v : BitVec 64) (s : State) : Res :=
  .next (if isUp s then msaRequest s ch ⟨1, addr, fmt, v, none⟩ else s)
def execMsaMax (ch addr : Nat) (fmt : MsaFmt) (v : BitVec 64) (s : State) : Res :=
  .next (if isUp s then msaRequest s ch ⟨2, addr, fmt, v, none⟩ else s)

/-- Operation and format that F names: the encoding is open. -/
def msaopOf (f : BitVec 4) : Nat × MsaFmt :=
  let n := Config.msaopCode f % 12
  (n % 3, match n / 3 with | 0 => .int32 | 1 => .int64 | 2 => .fp32 | _ => .bf16)

/-- The elements of a slot's bytes go to the adders one by one, at consecutive addresses. -/
def msaBurst (r : Stream) (op : Nat) (fmt : MsaFmt) (off : Nat) (bs : List Byte) (s : State) : State :=
  ((chunks (msaBytes fmt) bs).zipIdx).foldl (fun t (b, i) =>
    let (ch, a) := scratchPlace s r.tid (off + i * msaBytes fmt)
    msaRequest t ch ⟨op, a, fmt, BitVec.ofNat 64 (leNat b), some r.tid⟩) s

/-- An element of a burst goes to a channel that is out, which discards it. -/
def msaLost (s : State) (r : Stream) (fmt : MsaFmt) (off : Nat) (bs : List Byte) : Bool :=
  (List.range (bs.length / msaBytes fmt)).any fun i => chanOut s (scratchPlace s r.tid (off + i * msaBytes fmt)).1

/-- MSAOP: the next slot of the input ring goes to the adders at A[X]; a request to a channel that is out is discarded,
which is a stream fault (R229). -/
def execMsaop (sid : Nat) (x : BitVec 3) (f : BitVec 4) (s : State) : Res :=
  .next (onInsn s sid (fun w => insnOp w == 0x11 && insnX w == x.toNat && insnF w == f.toNat) fun r =>
    match inputOf s r with
    | none => s
    | some i => match tailFull i with
      | none => s
      | some sl =>
        let off := (regA r x.toNat).toNat
        if !writable s r off sl.len then streamFault s sid
        else
          let (op, fmt) := msaopOf f
          let s1 := match sl.data with | .bytes bs => msaBurst r op fmt off bs s | _ => s
          let out := match sl.data with | .bytes bs => msaLost s r fmt off bs | _ => false
          if out then streamFault s1 sid else issueAll (putStream (putStream s1 (advanceTail i)) { r with pc := r.pc + 1 }))

/-- HALT: the end of the stream; its ring goes as the consumer empties it (R227). -/
def execHalt (sid : Nat) (s : State) : Res :=
  .next (onInsn s sid (fun w => insnOp w == 0x3F) fun r => reap (putStream s { r with halted := true, pc := r.pc + 1 }))

/-! ## Pieces (R195 to R198, R226, R233) -/

def slotAt (r : Stream) (i : Nat) : Option Slot := r.ring[i]?
def updSlot (s : State) (sid i : Nat) (f : Slot → Slot) : State := updStream s sid fun r => { r with ring := updAt r.ring i f }

/-- A prong works on a flash piece in a mode; it has not worked on it before. -/
def onProng (s : State) (sid i mode : Nat) (f : Task → Slot → State) : State :=
  match getStream s sid with
  | none => s
  | some r => match slotAt r i, getTask s r.tid with
    | some x, some t =>
      let fenced := (getFlashCh s x.chan).prongFenced
      let fits := if mode = 0 then x.mode == 0 || fenced else x.mode == mode && !fenced
      if isUp s && x.st == .issued && x.tier == 2 && fits && served s r t x && (match x.data with | .raw _ => true | _ => false) then f t x else s
    | _, _ => s

/-- What a raw slot covers. -/
def rawOf : SlotData → List Nat
  | .raw c => c
  | _ => []

/-- PRONG_SCREEN: one survivor record for each passing entry (R195, R69). -/
def execProngScreen (sid slot : Nat) (s : State) : Res :=
  .next (onProng s sid slot 1 fun t x =>
    let cov := rawOf x.data
    updSlot s sid slot fun y => { y with data := .survivors cov (survivors s t cov), atDevice := true })

/-- PRONG_GATE: the entries on the gate list (R197). -/
def execProngGate (sid slot : Nat) (s : State) : Res :=
  .next (onProng s sid slot 2 fun t x =>
    updSlot s sid slot fun y => { y with data := .entries (gated s t (rawOf x.data)), atDevice := true })

/-- PRONG_PASS: unchanged; SCREEN and GATE reads of a fenced prong pass as they are, for the facets (R331). -/
def execProngPass (sid slot : Nat) (s : State) : Res :=
  .next (onProng s sid slot 0 fun t x =>
    let cov := rawOf x.data
    let d : SlotData := if x.mode = 1 then .raw cov else .entries (if x.mode = 2 then gated s t cov else cov)
    updSlot s sid slot fun y => { y with data := d, raw := y.mode == 1, atDevice := true })

/-- Fragments that a read of a stripe-class page lacks for good: on bypassed channels, never written, or unreadable (R205,
R206). -/
def fragsGone (s : State) (coll page : Nat) : Nat :=
  let u := s.flash.units.find? fun u => u.coll == coll && u.page == page
  (stripeGroup coll page).countP fun c => bypassed s c || u.bind Unit64.thin == some c || match u with | some u => u.bad.contains c | none => false

/-- The 31 channels that hold the other units of a unit's parity stripe (R200). -/
def stripePartners (coll page chan : Nat) : List Nat :=
  ((((Config.stripeMates coll page).map (· % 64)) ++ List.range 64).eraseDups.filter (· != chan)).take 31

/-- The device of a slot answers now: not a channel that stalls. A stripe-class page comes from any 15 of its 16
fragments (R205); a unit of a bypassed channel is rebuilt from its 31 stripe partners once the slowest of their reads is in
(R208). -/
def answers (s : State) (r : Stream) (x : Slot) : Bool :=
  let coll := r.coll.getD 0
  let page := x.off / pageSize
  if x.tier = 0 then bankOk s (x.chan % sideMark)
  else if x.tier = 1 then (getChan s x.chan).state == 0
  else if x.tier = 2 then
    if stripePage s coll page then
      (stripeGroup coll page).countP (fun c => (getFlashCh s c).state == 1) + fragsGone s coll page ≤ 1 || 2 ≤ fragsGone s coll page
    else if bypassed s x.chan then
      let ps := stripePartners coll page x.chan
      ps.any (bypassed s) || ps.all fun c => (getFlashCh s c).state != 1 && !(queuedReads s 2 c).any fun k => keyBefore k [1, x.bead]
    else (getFlashCh s x.chan).state != 1
  else true

/-- A stripe-class page with fewer than 15 fragments left, or a unit of a bypassed channel with a partner bypassed too. -/
def unreadable (s : State) (r : Stream) (x : Slot) : Bool :=
  let coll := r.coll.getD 0
  let page := x.off / pageSize
  x.tier == 2 && if stripePage s coll page then decide (2 ≤ fragsGone s coll page)
    else bypassed s x.chan && (stripePartners coll page x.chan).any (bypassed s)

/-- Data of a slot when its piece is complete: a bank scanner has screened it, a prong has worked on it, or scratch
bytes are read. None: a prong has yet to work on it. -/
def arrived (s : State) (r : Stream) (t : Task) (x : Slot) : Option SlotData :=
  match r.coll with
  | none =>
    let (ch, a) := scratchPlace s r.tid x.off
    some (.bytes (s.hbm.scratch.readBytes (scratchAddr ch a) x.len))
  | some _ => match x.data with
    | .raw cov =>
      if x.tier = 2 then (if x.raw then some (.raw cov) else none)
      else if x.tier = 0 && x.mode = 1 then some (.survivors cov (survivors s t cov))
      else if x.mode = 1 then some (.raw cov)
      else some (.entries (if x.mode = 2 then gated s t cov else cov))
    | d => some d

/-- Count and raise an uncorrectable read of a shallow copy or of scratch, and drop the copy (R179, R193). -/
def copyFails (s : State) (r : Stream) (x : Slot) : State :=
  let id := r.coll.getD 0
  let page := x.off / pageSize
  if x.tier = 1 then
    let s1 := updColl s id fun c => updPage c page (Page.loseLoc (.hbm x.chan) false (beadNow s))
    raiseAcc (bump (if r.coll.isNone then s else s1) (hbmUeCnt (x.chan / 32))) 72 5 (readAccess (0x300 + x.chan) id x.off) .nothing
  else
    let bank := x.chan % sideMark
    let s1 := updColl s id fun c =>
      if sideMark ≤ x.chan then
        { c with sideLost := (if sideBank s c 0 page = bank then (0, page) else (1, page)) :: c.sideLost }
      else updPage c page (Page.loseLoc (.near bank) false (beadNow s))
    let d := bank / 512
    raiseAcc (bump s1 nearUeCnt) (68 + d) 19 ⟨1, BitVec.ofNat 64 (id * 2 ^ 48 + x.off), dieMaster d 0⟩ .nothing

/-- The other copy of a mirrored piece: of a side-list page, or of a pinned one (R170, R179, R193). -/
def otherCopy (s : State) (r : Stream) (x : Slot) : Option (Nat × Nat) :=
  match r.coll.bind (getColl s) with
  | none => none
  | some c =>
    let page := x.off / pageSize
    if x.tier = 0 && sideMark ≤ x.chan then (sideServer s c page).map fun b => (0, sideMark + b)
    else match findPage c page with
      | some p => if p.kind.pinned then (p.locs.head?).map (fun l => match l with | .near b => (0, b) | .hbm ch => (1, ch)) else none
      | none => none

/-- A piece that is uncorrectable: a mirrored one comes from its other copy, a clean one again from flash for the queries that
have the time, and otherwise its slot is VOID, its read done for nothing (R179, R193, R231, R234). -/
def pieceFails (s : State) (r : Stream) (t : Task) (i : Nat) (x : Slot) : State :=
  let shallow := decide (x.tier < 2)
  let s1 := if shallow then copyFails s r x else s
  match (if shallow then otherCopy s1 r x else none) with
  | some (tier, chan) => updSlot s1 r.sid i fun y => { y with tier := tier, chan := chan, atDevice := true }
  | none =>
    if shallow && r.coll.isSome && decide (x.chan < sideMark) && anyReread s1 t then
      let s2 := pieceShort s1 r t x.off x.len 5
      match homeOf s2 (r.coll.getD 0) x.off x.len with
      | .flash c => updSlot s2 r.sid i fun y => { y with tier := 2, chan := c, raw := false, atDevice := false }
      | _ => updSlot s2 r.sid i fun y => { y with tier := 3, chan := 0, raw := y.mode != 0 }
    else
      let s2 := bump (updSlot s1 r.sid i fun y => { y with st := .void, outstanding := false, data := .none }) voidSlotCnt
      issueAll (settleRings (if r.coll.isNone then s2 else pieceLost s2 r t x.off x.len 5))

/-- A read served by a shallow copy is a use of its page (R175). -/
def useCopy (s : State) (r : Stream) (x : Slot) : State :=
  match r.coll with
  | some id => updColl s id fun c => updPage c (x.off / pageSize) fun p => { p with lastUse := beadNow s }
  | none => s

/-- PIECE_COMPLETE: the data arrived and is checked, so the slot is FULL; a VOID slot discards it, and the tail may then
pass (R226, R233). A read still queued is served in the order of R184. -/
def execPieceComplete (sid slot : Nat) (res : PieceResult) (s : State) : Res :=
  .next (match getStream s sid with
  | none => s
  | some r => match slotAt r slot, getTask s r.tid with
    | some x, some t =>
      if !isUp s || !answers s r x || (x.st == .issued && !served s r t x) then s
      else match x.st with
      | .issued => match res with
        | .uncorrectable => pieceFails s r t slot x
        | .ok => match (if unreadable s r x then none else arrived s r t x) with
          | some d =>
            let s1 := if x.tier = 2 then countBlockRead s (r.coll.getD 0) (x.off / pageSize) else useCopy s r x
            updSlot s1 sid slot fun y => { y with st := .full, outstanding := false, atDevice := false, data := d }
          | none => s
      | .void => if x.outstanding then issueAll (settleRings (updSlot s sid slot fun y => { y with outstanding := false, atDevice := false })) else s
      | _ => s
    | _, _ => s)

end Sys2Proof.Machine
end

