-- ==== Sys2Proof/Machine/Tree.lean ====
section
/-! DEFINITION. Fabric clasp trees: place of a member (R306), multicast and bundles (R307 to R309), the list a member
forms and how a stage folds the lists of its children (R311 to R313). -/

namespace Sys2Proof.Machine

/-! ## Places (R306) -/

/-- The applied fault set as it was in a bead: later changes are undone. -/
def faultsAt (s : State) (b : Nat) : List Elem :=
  (s.fabric.changes.filter fun c => b < c.1).reverse.foldl (fun fs c => if c.2.2 then fs ++ [c.2.1] else fs.filter (· != c.2.1))
    s.fabric.faults

/-- Live members of a tree in list order in a bead: less the failed modules of the fault set applied then. -/
def liveMembers (s : State) (t : TreeRec) (b : Nat) : List (BitVec 20 × BitVec 32) :=
  t.members.filter fun m => !(faultsAt s b).contains (.module m.1)

/-- Live members from the root on, cyclically: position j is member j of place(). The admission bead fixes the tree for the
life of a query (R306). -/
def membersFrom (s : State) (t : TreeRec) (root : BitVec 20) (b : Nat) : List (BitVec 20 × BitVec 32) :=
  let live := liveMembers s t b
  let i := (live.map Prod.fst).idxOf root
  live.drop i ++ live.take i

def posOf (ms : List (BitVec 20 × BitVec 32)) (a : BitVec 20) : Nat := (ms.map Prod.fst).idxOf a

/-- First position of each level. -/
def levelStarts (fan : List Nat) : List Nat :=
  let sizes := levelSizes 1 fan
  (List.range (sizes.length + 1)).map fun h => sumN (sizes.take h)

/-- The depth of a position. -/
def depthOf (fan : List Nat) (j : Nat) : Nat :=
  let st := levelStarts fan
  ((List.range (fan.length + 1)).find? fun h => decide (st.getD h 0 ≤ j) && decide (j < st.getD (h + 1) 0)).getD 0

/-- The position of the parent of a position other than the root's. -/
def parentOf (fan : List Nat) (j : Nat) : Nat :=
  let st := levelStarts fan
  let h := depthOf fan j
  st.getD (h - 1) 0 + (j - st.getD h 0) / max 1 (fan.getD (h - 1) 1)

def addrAt (ms : List (BitVec 20 × BitVec 32)) (j : Nat) : BitVec 20 := (ms.getD j (0, 0)).1

/-- Positions of the children of a query's stage on this module. -/
def Query.kids (q : Query) : List Nat := if q.tree = 0 then [] else childrenOf q.fan q.members.length q.pos
def Query.childAddrs (q : Query) : List (BitVec 20) := q.kids.map (addrAt q.members)
def Query.depth (q : Query) : Nat := if q.tree = 0 then 0 else depthOf q.fan q.pos

/-- Members of the subtree of a position. -/
def Query.subtree (q : Query) (j : Nat) : List (BitVec 20 × BitVec 32) :=
  (subtreeN q.fan q.members.length q.fan.length j).filterMap fun i => q.members[i]?

/-! ## Sending queries (R307, R309) -/

/-- Children of this module for a root's queries of a bead. -/
def kidsFor (s : State) (t : TreeRec) (root : BitVec 20) (b : Nat) : List (BitVec 20) :=
  let ms := membersFrom s t root b
  (childrenOf t.fan ms.length (posOf ms s.fabric.addr)).map (addrAt ms)

def isDemoted (s : State) (tree : Nat) (root child : BitVec 20) : Bool :=
  s.fabric.branches.any fun b => b.tree == tree && b.root == root && b.child == child && b.demoted

/-- A header of a query message to an endpoint of a module. -/
def queryHdr (s : State) (dest : BitVec 20) (ep srcEp : Nat) (root : BitVec 20) (serial : BitVec 32) (tree : Nat) : MsgHdr :=
  { mkHdr s dest.toNat ep srcEp (beadNow s) with qroot := root, qserial := serial, tree := BitVec.ofNat 12 tree }

/-- A query message on its way to another member: the sender's own bead number, and the bundle it belongs to (R104, R307). -/
def readdress (s : State) (h : MsgHdr) (dest : BitVec 20) (ep : Nat) : MsgHdr :=
  { h with dest := BitVec.ofNat 24 (ep * 2 ^ 20 + dest.toNat), bead := beadNow s, detours := 0, waypoints := 0, wpOn := false, revDim := 7, waypoint := 0 }

def replaySize : Nat := 2 ^ 25

/-- Bytes the replay buffer holds. -/
def replayUsed (s : State) : Nat := sumN ((s.fabric.bundles.filter Bundle.kept).map Bundle.bytes)

/-- Copy a query message to the children that are not demoted, and into its bundle (R307, R309). -/
def passQuery (s : State) (t : TreeRec) (root : BitVec 20) (bead : Nat) (h : MsgHdr) (range : Bool) (c : Capsule) : State :=
  let kids := kidsFor s t root bead
  let body : MsgBody := .query range c
  let n := body.bytes
  let same (b : Bundle) : Bool := b.tree == t.id && b.root == root && b.bead == bead
  let room := decide (replayUsed s + n ≤ replaySize)
  let s1 :=
    if s.fabric.bundles.any same then
      let was := s.fabric.bundles.any fun b => same b && b.kept
      let s0 := if was && !room then bump s replayFullCnt else s
      let add (b : Bundle) : Bundle :=
        if same b then { b with bytes := b.bytes + n, kept := b.kept && room, queries := b.queries ++ [(h, range, c)] } else b
      s0.modFabric fun r => { r with bundles := r.bundles.map add }
    else
      let s0 := if room then s else bump s replayFullCnt
      s0.modFabric fun r => { r with bundles := r.bundles ++ [⟨t.id, root, bead, false, room, n, [(h, range, c)], kids⟩] }
  (kids.filter fun k => !isDemoted s t.id root k).foldl (fun u k => nextHop u (readdress u h k 1) body) s1

/-! ## Lists (R311 to R313) -/

/-- Missed records in the order of R117: module, then segment. -/
def missedSort (ms : List MissedRec) : List MissedRec :=
  sortBy (fun a b => decide (a.module.toNat < b.module.toNat) || (a.module == b.module && decide (a.segment.toNat ≤ b.segment.toNat))) ms

def missedMax : Nat := 16

/-- The missed segments of a query on this module. -/
def ownMissed (s : State) (q : Query) : List MissedRec :=
  missedSort (q.segs.filterMap fun g => g.missed.map fun (_, cause) =>
    ⟨s.fabric.addr, BitVec.ofNat 16 g.seg, BitVec.ofNat 4 cause, false⟩)

/-- Searched segments of a query on this module (R112). -/
def searchedCount (q : Query) : Nat := q.segs.countP SegState.searched

def shardOf (s : State) (coll : Nat) : BitVec 32 := match getColl s coll with | some c => c.att.shard | none => 0

def toListEntry (e : Scored) : ListEntry :=
  ⟨e.itemId, e.dist, e.slot, e.module, BitVec.ofNat 16 e.epoch, e.notReranked, e.bridged, e.side, e.payMissing⟩

def ofListEntry (e : ListEntry) : Scored :=
  { dist := e.dist, itemId := e.itemId, slot := e.slot, epoch := e.epoch.toNat, seg := 0, module := e.module
    notReranked := e.notReranked, bridged := e.bridged, side := e.side, payMissing := e.payMissing }

/-- S1 ÷ I1 is higher than S2 ÷ I2, or equal with the lower module (R113). -/
def betterShard (a b : ShardRec) : Bool :=
  decide (b.s * a.i < a.s * b.i) || (a.s * b.i == b.s * a.i && decide (a.module.toNat < b.module.toNat))

/-- One record for each shard. -/
def reduceShards (rs : List ShardRec) : List ShardRec :=
  rs.foldl (fun acc r => match acc.find? fun x => x.shard == r.shard with
    | none => acc ++ [r]
    | some x => if betterShard r x then acc.map fun y => if y.shard == r.shard then r else y else acc) []

/-- The module's own list before its stage folds it. -/
def ownList (s : State) (q : Query) : ListBody :=
  let miss := (ownMissed s q).take missedMax
  { entries := q.final.map toListEntry, cutTies := min 65535 q.finalCut.length, missed := []
    dedup := min (2 ^ 32 - 1) q.dedup, inRadius := min (2 ^ 32 - 1) q.inRadius, foldI := 0, foldS := 0
    shards := [⟨shardOf s q.coll, s.fabric.addr, q.segs.length, searchedCount q, miss⟩], members := []
    selectCut := q.selectCut, overflow := q.overflow }

/-- Cause of a child left out (R305, R313). -/
def absentCause (s : State) (q : Query) (child : BitVec 20) : Nat :=
  let dropped := s.fabric.branches.any fun b => b.tree == q.tree && b.root == q.root && b.child == child && b.dropped.contains q.snap
  let named := s.fabric.faults.any fun e => !q.oldFaults.contains e && match e with
    | .module a => a == child
    | .link a k => a == child || (k < 10 && lenOf s (k / 2) != 1 && stepDim s a.toNat (k / 2) (k % 2 == 0) == child.toNat)
  if dropped then 9 else if named then 10 else 8

/-- Lists of children that a merge in bead `b` takes: a list is merged in a bead after the one in which it was sent (R109). -/
def Query.listsFor (q : Query) (b : Nat) : List (BitVec 20 × Nat × ListBody) := q.lists.filter fun l => decide (l.2.1 < b)

/-- Missing-member records for the children whose lists have not arrived. A member left out as CLASP_LATE counts by R114 like
any other that did not answer. DESIGN CHOICE, log entry 109. -/
def absentMembers (s : State) (q : Query) : List (BitVec 20 × BitVec 4) :=
  ((q.kids.filter fun j => !(q.listsFor (beadNow s)).any fun l => l.1 == addrAt q.members j).map fun j =>
    (q.subtree j).map fun m => (m.1, BitVec.ofNat 4 (absentCause s q (addrAt q.members j)))).flatten

/-- Shards that have folded at the stage of a position: its subtree holds every live member listed for them (R312). -/
def foldsAt (q : Query) (pos : Nat) (shard : BitVec 32) : Bool :=
  let sub := (q.subtree pos).map Prod.fst
  q.members.all fun m => m.2 != shard || sub.contains m.1

/-- Shards that fold at this stage. -/
def foldsHere (q : Query) (shard : BitVec 32) : Bool := if q.tree = 0 then true else foldsAt q q.pos shard

/-- Merge a module's own list with those of its children, and fold what this stage completes (R90, R312, R313). The root cuts
the list to k; a member sends up to the needed length (R94). Answers the duplicates dropped as well. -/
def foldLists (s : State) (q : Query) (ties : List Nat) : ListBody × Nat :=
  let own := ownList s q
  let all := own :: (q.listsFor (beadNow s)).map fun l => l.2.2
  let cutOf (b : ListBody) : List F32 := match b.entries.getLast? with | some e => List.replicate b.cutTies e.dist | none => []
  let lists := all.map fun b => b.entries.map ofListEntry
  let cuts := (all.map cutOf).flatten
  let m := if q.local_ then mergeFinal ties q.p.k lists cuts else mergeLists q.p.needed lists cuts
  let recs := reduceShards (all.map ListBody.shards).flatten
  let done := recs.filter fun r => foldsHere q r.shard
  let inR := sumN (all.map ListBody.inRadius) - (if q.p.range then m.dups else 0)
  ({ entries := m.kept.map toListEntry, cutTies := min 65535 m.cut.length
     missed := (missedSort ((all.map ListBody.missed).flatten ++ (done.map ShardRec.missed).flatten)).take missedMax
     dedup := min (2 ^ 32 - 1) (sumN (all.map ListBody.dedup) + m.dups), inRadius := min (2 ^ 32 - 1) inR
     foldI := sumN (all.map ListBody.foldI) + sumN (done.map ShardRec.i)
     foldS := sumN (all.map ListBody.foldS) + sumN (done.map ShardRec.s)
     shards := recs.filter fun r => !foldsHere q r.shard, members := (all.map ListBody.members).flatten ++ absentMembers s q
     selectCut := all.any ListBody.selectCut, overflow := all.any ListBody.overflow || (q.p.range && decide (q.p.k < inR)) }, m.dups)

/-- A root notes the count of a collection's shard (R114). -/
def noteShard (coll : Nat) (s : State) (x : BitVec 32 × Nat) : State :=
  s.modFabric fun f => { f with
    shardCounts := (f.shardCounts.filter fun y => !(y.1 == coll && y.2.1 == x.1)) ++ [(coll, x.1, x.2)] }

/-- Shards that folded below a child and reached its list. -/
def foldedBelow (q : Query) (j : Nat) (b : ListBody) : List (BitVec 32) :=
  let heard := (q.subtree j).filter fun m => !b.members.any fun x => x.1 == m.1
  ((heard.map Prod.snd).eraseDups).filter (foldsAt q j)

/-- Several folded shards share the sum that a list holds: each has one intended segment at least, its side list, and how the
rest divides is open. -/
def splitCounts (coll : Nat) : List (BitVec 32) → Nat → State → State
  | [], _, s => s
  | [x], n, s => noteShard coll s (x, n)
  | x :: y :: r, n, s =>
    let (m, u) := drawNat s
    let k := 1 + m % max 1 (n - (r.length + 1))
    splitCounts coll (y :: r) (n - k) (noteShard coll u (x, k))

/-- The counts that the list of a child at a position reports: those of its open shards, and of the folded ones (R114, R311).
Where several folded the list holds their sum only. DESIGN CHOICE, log entry 84. -/
def noteList (q : Query) (s : State) (j : Nat) (b : ListBody) : State :=
  splitCounts q.coll (foldedBelow q j b) b.foldI (b.shards.foldl (fun t r => noteShard q.coll t (r.shard, r.i)) s)

/-- A list that reached the root from one of its children updates its table (R114). -/
def noteFrom (q : Query) (s : State) (l : BitVec 20 × Nat × ListBody) : State :=
  match q.kids.find? fun j => addrAt q.members j == l.1 with
  | some j => noteList q s j l.2.2
  | none => s

/-- The I of a shard that did not answer: what it last reported for the collection, or 1 (R114). -/
def lastCount (s : State) (coll : Nat) (shard : BitVec 32) : Nat :=
  match s.fabric.shardCounts.find? fun x => x.1 == coll && x.2.1 == shard with
  | some (_, _, i) => i
  | none => 1

/-- A shard with no answer at the root: its records of R116, one for the module of lowest address. -/
structure LostShard where
  module : BitVec 20
  i : Nat
  cause : BitVec 4
  deriving DecidableEq, Repr

/-- Shards of the tree of which no member's list reached the root (R114, R312). -/
def lostShards (s : State) (q : Query) (b : ListBody) : List LostShard :=
  match treeRec s q.tree with
  | none => []
  | some t =>
    if q.tree = 0 then []
    else
      let heard (m : BitVec 20 × BitVec 32) : Bool := q.members.contains m && !b.members.any fun x => x.1 == m.1
      let shards := (t.members.map Prod.snd).eraseDups
      (shards.filter fun x => !t.members.any fun m => m.2 == x && heard m).filterMap fun x =>
        let ms := sortBy (fun a b => decide (a.toNat ≤ b.toNat)) ((t.members.filter fun m => m.2 == x).map Prod.fst)
        ms.head?.map fun a =>
          let cause := match b.members.find? fun y => ms.contains y.1 with | some y => y.2 | none => 12
          ⟨a, lastCount s q.coll x, cause⟩

end Sys2Proof.Machine
end

