-- ==== Sys2Proof/Machine/Search.lean ====
section
/-! DEFINITION. Admission of SEARCH, SEARCH_RANGE and READ_ITEM (R49, R53 to R65, R77, R106 to R112, R185 to R188, R272,
R273), and the launch of queries and of their later stages at a bead edge (R18, R54, R73, R76, R78, R97). -/

namespace Sys2Proof.Machine

/-! ## Schedules (R77, R110) -/

/-- Every payload row of the collection lies in HBM or near memory. -/
def rowsCached (c : Coll) : Bool :=
  c.items.all fun (slot, it) => it.row.isEmpty ||
    match findPage c (rowOff c slot / pageSize) with | some p => decide (p.tier < 2) | none => false

/-- The deepest tier of a segment's sketch and code pages. -/
def segTier (c : Coll) (num : Nat) : Nat :=
  let ps := c.pages.filter fun p => p.kind.isList && p.seg == num
  if ps.isEmpty then (if c.segs.any fun g => g.num == num && 0 < g.count then 2 else 0) else ps.foldl (fun t p => max t p.tier) 0

/-- Intended segments at a snapshot, ascending, then the side list (R112). -/
def intended (c : Coll) (snap : Nat) : List SegState :=
  let gs := (c.segs.filter fun g => decide (g.pub ≤ snap) && g.replaced.all (snap < ·)).map Segment.num
  let mk (n t : Nat) : SegState := { seg := n, tier := t, toScreen := [], toScore := [], held := [], toRerank := [], coded := false, dropped := false
                                     again := false, missed := none }
  (sortNat gs).map (fun n => mk n (segTier c n)) ++ [mk 65535 0]

/-- The last bead the query needs under a schedule tier with what it keeps. -/
def needsUntil (q : Query) (tier : Nat) : Nat :=
  let r := { q with tier := tier }
  q.start + finalOffset tier + (stageBeads r - 1)

def fits (q : Query) (tier : Nat) : Bool := decide (needsUntil q tier ≤ q.deadline)

/-- The deepest tier that fits, where segments have to be dropped. -/
def tierThatFits (q : Query) : Nat := if fits q 2 then 2 else if fits q 1 then 1 else 0

/-- A segment that the schedule leaves out at admission: it is never read (R110). -/
def SegState.leaveOut (bead cause : Nat) (g : SegState) : SegState := { g.miss bead cause with dropped := true }

/-- Shorten a schedule that does not fit, in the order of R110; what is left unsearched carries SCHEDULE_SHORT, or
SLOW_BRANCH after a late receipt (R310). -/
def shorten (b : Nat) (q : Query) : Query :=
  let cause := if q.late then 9 else 1
  if q.deadline < q.start + 2 then
    { q with dropGather := true, dropBridge := true, dropRerank := true, gatherBeads := 0,
             segs := q.segs.map (SegState.leaveOut b cause) }
  else if fits q q.tier then q
  else
    let q1 := { q with dropGather := true, gatherBeads := 0 }
    if fits q1 q.tier then q1
    else
      let q2 := { q1 with dropBridge := true }
      if fits q2 q.tier then q2
      else
        let q3 := { q2 with dropRerank := true }
        if fits q3 q.tier then q3
        else
          let t := tierThatFits q3
          { q3 with tier := t, segs := q3.segs.map fun g => if t < g.tier then g.leaveOut b cause else g }

/-! ## Reservations (R99, R84, R185 to R188, R227) -/

/-- Sketch bytes of a segment, and for a flash segment its code bytes as well. -/
def listBytes (c : Coll) (g : SegState) : Nat :=
  match c.segs.find? fun x => x.num == g.seg with
  | none => 0
  | some x => x.count * (c.params.sketchBytes + if g.tier = 2 then c.params.codeBytes else 0)

/-- The scan charge of R187 at a depth; mean list bytes are taken in whole bytes of the product. -/
def scanCharge (c : Coll) (q : Query) (depth : Nat) : Nat :=
  let hit := q.segs.filter fun g => g.seg != 65535 && g.tier == depth && !g.dropped
  sumN (hit.map fun g => q.p.probe * listBytes c g / c.params.buckets)
    + (if depth = 0 && c.admittedInBead % 4 = 0 then c.side.length * c.params.sketchBytes else 0)

def creditFits (c : Coll) (q : Query) : Bool :=
  decide (scanCharge c q 0 ≤ c.creditNear) && decide (scanCharge c q 1 ≤ c.creditHbm) && decide (scanCharge c q 2 ≤ c.creditFlash)

/-- Ring bytes of the stream of a stage, and whether a facet consumes it; hub SRAM holds any other ring (R221). -/
def ringOf (s : State) (st : Stage) : Bool × Nat :=
  match programOf s st with
  | none => (false, 0)
  | some p => (decide (p.consumer ≤ 1), p.slots * slotBytesOf p)

/-- Rings of the streams a query has yet to launch, in the order of its schedule (R227): a pair for the encode under each
epoch, the reads of each segment, and those of the later stages. -/
def ringPending (s : State) (q : Query) : List (Bool × Nat) :=
  let segs := q.segs.filter fun g => !g.dropped
  let lists (g : SegState) : List Stage :=
    if g.seg = 65535 then [.sideList] else if g.tier = 2 then [.flashSketch, .flashCode] else [.screen]
  let eps := match getColl s q.coll with | some c => epochsNeeded c q.snap | none => []
  let scan : List Stage :=
    match q.stage with
    | .admitted => (if q.p.pre then [] else (eps.map fun _ => [Stage.weights, .scales]).flatten) ++ (segs.map lists).flatten
    | .scanning => if beadNow s < q.start + 2 then ((segs.filter fun g => g.tier != 0).map lists).flatten
        else (segs.filter fun g => g.tier == 2 && !g.coded).map fun _ => Stage.flashCode
    | _ => []
  let before (st : QStage) : Bool := q.stage == .admitted || q.stage == .scanning || q.stage == st
  let late : List Stage :=
    (if q.p.bw != 0 && !q.dropBridge && before .bridging then [Stage.bridge] else []) ++
    (if q.p.rr != 0 && !q.dropRerank && (before .fetching || q.stage == .bridging) then [.vectors] else []) ++
    (if q.p.payload && !q.dropGather && q.stage != .gathering && q.stage != .done then [.rows] else [])
  (scan ++ late).map (ringOf s)

def addKey (k n : Nat) : List (Nat × Nat) → List (Nat × Nat)
  | [] => [(k, n)]
  | (a, m) :: r => if a = k then (a, m + n) :: r else (a, m) :: addKey k n r

def getKey (k : Nat) (xs : List (Nat × Nat)) : Nat := match xs.find? fun x => x.1 == k with | some x => x.2 | none => 0

def pipelineOf (s : State) (coll : Nat) : Nat := match getColl s coll with | some c => c.att.pipeline | none => 0

/-- Ring area of one facet, and of the hub (R221). -/
def facetRings (s : State) : Nat := (carveOf s).ringMib * mib
def hubRings : Nat := 64 * mib

/-- Ring bytes taken of an area: 1 + the logical facet, or 0 for hub SRAM. -/
def ringLoad (pools : List (Nat × Nat)) (facet : Nat) : Nat := getKey (1 + facet) pools

/-- Reserve one ring: in hub SRAM, or on the facet of the pipeline whose area holds least (R221, R227, log entry 106). -/
def addRing (fs : List Nat) (pools : List (Nat × Nat)) (x : Bool × Nat) : List (Nat × Nat) :=
  if x.1 then match leastLoaded (ringLoad pools) fs with
    | some l => addKey (1 + l) x.2 pools
    | none => pools
  else addKey 0 x.2 pools

/-- Facets of a pipeline that receive launches, whose areas take its rings. -/
def ringFacets (s : State) (pipeline : Nat) : List Nat := (facetsOf s pipeline).filter (launchable s)

/-- Ring bytes held by streams and by queries, by area, as an edge finds them (R24, R227). -/
def ringTotals (s : State) : List (Nat × Nat) :=
  let held := s.streams.streams.foldl (fun acc r => addKey (if r.onFacet then 1 + r.facet else 0) r.ringHeld acc) []
  s.search.queries.foldl (fun acc q => (ringPending s q).foldl (addRing (ringFacets s (pipelineOf s q.coll))) acc) held

/-- The rings fit: a facet's 1 to 8 MiB for each facet of the pipeline, and 64 MiB of hub SRAM (R188, R227). -/
def ringFits (s : State) (pipeline : Nat) (need : List (Bool × Nat)) : Bool :=
  let after := need.foldl (addRing (ringFacets s pipeline)) s.pools.rings
  decide (getKey 0 after ≤ hubRings) && (ringFacets s pipeline).all fun l => decide (ringLoad after l ≤ facetRings s) ||
    ringLoad after l == ringLoad s.pools.rings l

/-- Rounds that some partitions take in admission order (R83). -/
def roundsOf (ps : List Nat) : Nat :=
  (ps.foldl (fun (acc : Nat × Nat) p => if acc.2 + p ≤ passLen && acc.1 != 0 then (acc.1, acc.2 + p) else (acc.1 + 1, p)) (0, 0)).1

def partitionOf (p : QParams) : Nat := if p.passes then passLen else partitionLen p.needed

/-- Round limit of a pipeline in the setting. -/
def roundLimit (s : State) (pipeline : Nat) : Nat := match groupOf s pipeline with | some g => g.rounds | none => 4

/-- The share of a pipeline's facet cycles that running runs reserve, in 1/64 (R153, R158). -/
def shareOn (s : State) (pipeline : Nat) : Nat :=
  sumN (((s.learn.runs.filter fun r => r.active &&
    match getColl s r.coll with | some c => c.att.pipeline == pipeline | none => false)).map fun r => r.p.share)

/-- Rounds that admission may fill: the setting's limit, less what the reserved share takes (R21, R158). The spec counts no
facet cycles of a query: how many rounds a share takes is open. DESIGN CHOICE, log entry 118. -/
def roundsOpen (s : State) (pipeline : Nat) : Nat :=
  let limit := roundLimit s pipeline
  let share := shareOn s pipeline
  if share = 0 then limit else Config.roundsBeside limit share % (limit + 1)

def selectFits (s : State) (pipeline part : Nat) : Bool :=
  let mine := (s.pools.sel.filter fun x => x.1 == pipeline).map Prod.snd
  decide (roundsOf (mine ++ [part]) ≤ roundsOpen s pipeline)

def candNeed (p : QParams) : Nat := if p.passes then recordBytes * p.capacity else 0

/-- The first reservation that does not fit; none where all do. -/
def reserveBad (s : State) (c : Coll) (q : Query) : Option (BitVec 16) :=
  firstBad [
    (!creditFits c q, 0x0210),
    (!ringFits s c.att.pipeline (ringPending s q), 0x0211),
    (!selectFits s c.att.pipeline (partitionOf q.p), 0x0212),
    (decide (hbmScratchFree s < q.candBytes), 0x0213),
    (decide (hbmScratchFree s < q.candBytes + q.gatherBytes), 0x0214)]

/-- Take the reservations of an admitted query. -/
def takeReservations (s : State) (id : Nat) (q : Query) : State :=
  let need := ringPending s q
  let pl := pipelineOf s id
  let s1 := updColl s id fun c =>
    { c with creditNear := c.creditNear - scanCharge c q 0, creditHbm := c.creditHbm - scanCharge c q 1
             creditFlash := c.creditFlash - scanCharge c q 2, admittedInBead := c.admittedInBead + 1 }
  s1.modPools fun p => { p with
    rings := need.foldl (addRing (ringFacets s pl)) p.rings, sel := p.sel ++ [(pl, partitionOf q.p)]
    cand := p.cand + q.candBytes, gather := p.gather + q.gatherBytes }

/-! ## Admission -/

/-- A query as admission builds it, received in bead `got` (R49, R65, R77, R109, R110, R310). -/
def buildQuery (s : State) (k : Coll) (ref : CmdRef) (isRoot : Bool) (got snap d : Nat) (root : BitVec 20) (serial : BitVec 32)
    (p : QParams) (b : QueryBody) : Query :=
  let (fan, ms) := match treeRec s k.att.tree with
    | some t => if k.att.tree = 0 then ([], []) else (t.fan, membersFrom s t root snap)
    | none => ([], [])
  let tree := if ms.isEmpty then 0 else k.att.tree
  let pos := posOf ms s.fabric.addr
  let depth := if tree = 0 then 0 else depthOf fan pos
  let now := beadNow s
  let kids := if tree = 0 then [] else childrenOf fan ms.length pos
  let gb := if p.payload then (if rowsCached k then 1 else 2) + (if kids.isEmpty then 0 else 2) else 0
  let q : Query :=
    { qid := s.search.nextQid, ref := ref, local_ := isRoot, coll := ref.coll, snap := snap, deadline := snap + d - 1 - depth
      start := max snap now, late := decide (snap < got), p := p, deny := b.deny.filterMap fun i => resolveAt k i snap
      codes := b.blocks, tier := k.resident, gatherBeads := if isRoot then gb else 0, dropGather := false, dropBridge := false
      dropRerank := false, stage := .admitted, segs := intended k snap, parts := [], dies := [], runThr := none, emitted := []
      exhausted := false, since := 0, takeOver := [], reps := [], final := [], finalCut := [], merged := false, dedup := 0, inRadius := 0, overflow := false
      bridgeTargets := [], fetched := [], rows := [], toGather := [], selectCut := false, tieUnknown := false, tree := tree, fan := fan
      members := ms, pos := pos, oldFaults := faultsAt s snap, root := root, serial := serial, lists := [], folded := none
      candBytes := candNeed p, gatherBytes := if isRoot && p.payload then p.k * k.params.maxRow else 0 }
  shorten now q

/-- Admit a query: its reservations are taken and it waits for the next launch. -/
def enterQuery (s : State) (q : Query) : State :=
  let s1 := takeReservations s q.coll q
  s1.modSearch fun r => { r with queries := r.queries ++ [q], nextQid := r.nextQid + 1 }

def emptyQuery (b : QueryBody) : List F32 := match b.raw with | some xs => xs.map Num.toF32 | none => []

/-- Epochs of a pre-encoded query: each must be live, none that is needed may be missing (R40, R59). -/
def epochsBad (k : Coll) (snap : Nat) (pre : Bool) (blocks : List EpochCodes) : Option (BitVec 16) :=
  if !pre then none
  else
    let live (e : Nat) : Bool := k.epochs.any fun x => x.num == e && decide (x.pub ≤ snap)
    if blocks.any fun b => !live b.epoch then some 0x010D
    else if (epochsNeeded k snap).any fun e => !blocks.any fun b => b.epoch == e then some 0x010E
    else none

def groupProbe (s : State) (pipeline : Nat) : Nat := match groupOf s pipeline with | some g => g.probe | none => 0

/-- The checks of a search before its reservations. -/
def searchChecks (s : State) (k : Coll) (range : Bool) (c : Capsule) : Except (BitVec 16) QueryBody :=
  let gp := groupProbe s k.att.pipeline
  let p := queryParams range gp c []
  if c.deadline.toNat < 3 then .error 0x0109
  else if pipelineClosed s k.att.pipeline then .error 0x021B
  else match queryAreaBad k.params gp range c with
  | some st => .error st
  | none =>
    if p.payload && decide (2 ^ 25 < p.k * k.params.maxRow) then .error 0x0114
    else match parseQuery k c with
    | .error st => .error st
    | .ok b => match epochsBad k (beadNow s) p.pre b.blocks with
      | some st => .error st
      | none => if p.fids.any fun f => (filterAt k f (beadNow s)).isNone then .error 0x0208 else .ok b

/-- Decide a SEARCH or SEARCH_RANGE (R55 to R65, R105 to R110, R185 to R188, R307). -/
def decideSearch (range : Bool) (s : State) (c : Cmd) : State :=
  let st := if admitStatus s != 0 then admitStatus s else collStatus s c.ref.coll
  if st != 0 then replyRefuse s c st
  else match getColl s c.ref.coll with
  | none => s
  | some k => match searchChecks s k range c.cap with
    | .error e => replyRefuse s c e
    | .ok b =>
      let p := queryParams range (groupProbe s k.att.pipeline) c.cap (emptyQuery b)
      let q := buildQuery s k c.ref true (beadNow s) (beadNow s) c.cap.deadline.toNat s.fabric.addr s.search.serial p b
      match reserveBad s k q with
      | some e => replyRefuse s c e
      | none =>
        let s1 := running (markRead s c) c
        let s2 := (enterQuery s1 q).modSearch fun r => { r with serial := r.serial + 1 }
        match treeRec s k.att.tree with
        | some t =>
          if q.tree = 0 then s2
          else passQuery s2 t s.fabric.addr (beadNow s) { queryHdr s s.fabric.addr 1 1 s.fabric.addr q.serial q.tree with bundle := beadNow s } range c.cap
        | none => s2

def execSearch (c : Capsule) (s : State) : Res := .next (receive 0x01 c (decideSearch false) s)
def execSearchRange (c : Capsule) (s : State) : Res := .next (receive 0x02 c (decideSearch true) s)

/-! ## READ_ITEM (R272, R273) -/

/-- Range offsets and lengths of the parts of an item that a WANT byte names; the side list is no part of the range's pages, and a
row of 0 bytes needs no read. -/
def wantedParts (c : Coll) (slot want : Nat) (it : Item) : List (Nat × Nat) :=
  let inSide := c.side.any fun x => x.ent.slot == slot
  let at_ := if inSide then none else c.segs.findSome? fun g => (g.entries.findIdx? fun e => e.slot == slot).map fun i => (g, i)
  let listed := match at_ with
    | some (g, i) => (if bitOf want 0 then [(g.sketchPage * pageSize + i * c.params.sketchBytes, c.params.sketchBytes)] else []) ++
        (if bitOf want 0 || bitOf want 3 then [(g.codePage * pageSize + i * c.params.codeBytes, c.params.codeBytes)] else [])
    | none => []
  listed ++ (if bitOf want 1 && it.vector.isSome then [(vectorOff c slot, c.params.vecBytes)] else []) ++
    (if bitOf want 2 && !it.row.isEmpty then [(rowOff c slot, it.row.length)] else [])

/-- Whether a wanted part lies on flash. -/
def partOnFlash (s : State) (id : Nat) (c : Coll) (slot want : Nat) (it : Item) : Bool :=
  (wantedParts c slot want it).any fun x => match placeOf s id c x.1 x.2 with | .flash _ | .lost _ => true | _ => false

def decideReadItem (s : State) (c : Cmd) : State :=
  let st := if admitStatus s != 0 then admitStatus s else collStatus s c.ref.coll
  if st != 0 then replyRefuse s c st
  else if c.cap.deadline.toNat < 3 then replyRefuse s c 0x0109
  else if 15 < areaField c.cap.area 32 1 then replyRefuse s c 0x0102
  else if !c.cap.body.isEmpty then replyRefuse s c 0x0106
  else match getColl s c.ref.coll with
  | none => s
  | some k =>
    let a := beadNow s
    let id := BitVec.ofNat 64 (areaField c.cap.area 24 8)
    let want := areaField c.cap.area 32 1
    let s1 := markRead s c
    let absent := replyRefuse (countAdmit s1 c.ref.queue) c 0x0207
    match resolveAt k id a with
    | none => absent
    | some slot => match k.items.get slot with
      | none => absent
      | some it =>
        let r : ReadItem := ⟨c.ref, c.ref.coll, slot, a, a + c.cap.deadline.toNat - 1, BitVec.ofNat 4 want,
          a + (if partOnFlash s c.ref.coll k slot want it then 3 else 2)⟩
        (running s1 c).modSearch fun x => { x with reads := x.reads ++ [r] }

def execReadItem (c : Capsule) (s : State) : Res := .next (receive 0x03 c decideReadItem s)

/-! ## Launch (R18, R78) -/

/-- The probe set: the P buckets nearest the query's sketch, lower numbers first among equals (R61). -/
def probeSet (enc : Encoder) (l sketch p : Nat) : List Nat :=
  let ds := (enc.sigs.zipIdx).map fun (g, i) => (hamming l g sketch, i)
  ((sortBy (fun a b => decide (a.1 < b.1) || (a.1 == b.1 && decide (a.2 ≤ b.2))) ds).take p).map Prod.snd

/-- Codes of a raw query under every epoch it needs (R40, R57, R58). -/
def encodeQuery (c : Coll) (q : Query) (ord : List Nat) : List EpochCodes :=
  (epochsNeeded c q.snap).filterMap fun e => (epochOf c e).map fun ep =>
    let xs := q.p.emb.map Num.ofF32
    let v := encVec ep.enc ord ((prepared c.params.metric ord xs).getD xs)
    ⟨e, sketchOf ep.enc ord v, tablesOf ep.enc c.params.metric ord v, false⟩

/-- Buckets a query probes in a segment. -/
def bucketsIn (c : Coll) (q : Query) (g : Segment) : List Nat :=
  match q.codes.find? (fun k => k.epoch == g.epoch), epochOf c g.epoch with
  | some k, some ep => probeSet ep.enc c.params.sketchBits k.sketch q.p.probe
  | _, _ => []

/-- Encode, probe, and list what each intended segment has to screen. -/
def startScan (c : Coll) (ord : List Nat) (q : Query) : Query :=
  let q1 := if q.p.pre then q else { q with codes := encodeQuery c q ord }
  let todo (g : SegState) : List Nat :=
    if g.seg = 65535 then (c.side.filter fun x => x.merged.all (q.snap < ·)).map fun x => x.ent.slot
    else match c.segs.find? fun x => x.num == g.seg with
      | none => []
      | some x =>
        let bs := bucketsIn c q1 x
        ((x.lists.filter fun l => bs.contains l.1).map fun l => l.2.map Entry.slot).flatten
  { q1 with stage := .scanning, segs := q1.segs.map fun g => if g.dropped then g else { g with toScreen := todo g } }

/-- Which quads of the pipeline have room in their reservation for the share of a facet that is out: open, drawn for each
query at its launch (R18, log entry 8). -/
def drawShares (s : State) (q : Query) : State :=
  let (n, s1) := drawNat s
  updQuery s1 q.qid fun x => { x with takeOver := (quadsOf s (pipelineOf s q.coll)).filter (bitOf n) }

/-- Extents of some bucket lists of a segment in its sketch or code column. -/
def listExtents (base size : Nat) (bs : List Nat) : List (Nat × List Entry) → Nat → List (Nat × Nat)
  | [], _ => []
  | (b, es) :: r, i =>
    let rest := listExtents base size bs r (i + es.length)
    if bs.contains b then (base + i * size, es.length * size) :: rest else rest

/-- The batch groups of one segment: the queries of each probed bucket 16 at a time in admission order. The task `j` of the
segment reads every bucket once for the bucket's group `j` (R78). -/
def batchGroups (c : Coll) (g : Segment) (qs : List Query) : List (List (Nat × List Nat)) :=
  let probed := qs.map fun q => (q.qid, bucketsIn c q g)
  let buckets := ((probed.map Prod.snd).flatten).eraseDups
  let per := buckets.map fun b => (b, chunks 16 ((probed.filter fun x => x.2.contains b).map Prod.fst))
  let n := per.foldl (fun m x => max m x.2.length) 0
  (List.range n).map fun j => per.filterMap fun x => (x.2[j]?).map fun ids => (x.1, ids)

/-- Queries of some groups, in admission order. -/
def groupQueries (qs : List Query) (gs : List (Nat × List Nat)) : List Query :=
  qs.filter fun q => gs.any fun g => g.2.contains q.qid

/-- Launch the sketch read of the side list for one group: it screens what is there now (R70). -/
def launchSide (s : State) (coll : Nat) (c : Coll) (qs : List Query) : State :=
  if c.side.isEmpty then s
  else
    let off := regionOff c.params .sideLog
    let (tid, s1) := addTask s .sketch coll 65535 (qs.map Query.qid) none
    let s2 := updTask s1 tid fun t => { t with masks := c.side.map fun x => maskOf c qs x.ent.slot }
    startStream s2 tid .sideList (feedFacet s c.att.pipeline) (some coll) [0, off] [(off, c.side.length * c.params.sideEntryBytes)]

/-- Launch the sketch read of one segment for the groups of one task, with the screen masks of what it reads (R67). -/
def launchSketch (s : State) (coll : Nat) (c : Coll) (g : Segment) (qs : List Query) (gs : List (Nat × List Nat)) : State :=
  let mine := groupQueries qs gs
  let bs := gs.map Prod.fst
  let base := g.sketchPage * pageSize
  let slots := (((g.lists.filter fun l => bs.contains l.1).map Prod.snd).flatten).map Entry.slot
  let deep := mine.any fun q => q.segs.any fun x => x.seg == g.num && x.tier == 2
  let (tid, s1) := addTask s .sketch coll g.num (mine.map Query.qid) none
  let s2 := updTask s1 tid fun t => { t with groups := gs, masks := slots.map (maskOf c mine) }
  startStream s2 tid (if deep then .flashSketch else .screen) (feedFacet s c.att.pipeline) (some coll) [0, base]
    (listExtents base c.params.sketchBytes bs g.lists 0)

/-- Launch the code read of a flash segment for the groups of one task (R197). -/
def launchCode (s : State) (coll : Nat) (c : Coll) (g : Segment) (qs : List Query) (gs : List (Nat × List Nat)) : State :=
  let ids := (groupQueries qs gs).map Query.qid
  let (tid, s1) := addTask s .code coll g.num ids none
  let s2 := updTask s1 tid fun t => { t with groups := gs }
  let s3 := mapQueries s2 fun q => if ids.contains q.qid then
    { q with segs := q.segs.map fun x => if x.seg = g.num then { x with coded := true } else x } else q
  startStream s3 tid .flashCode (feedFacet s c.att.pipeline) (some coll) [0]
    (listExtents (g.codePage * pageSize) c.params.codeBytes (gs.map Prod.fst) g.lists 0)

/-- Run a launch for one container of a collection: the side list in groups of 16 queries, a segment by its batch groups. -/
def inGroups (coll : Nat) (qs : List Query) (go : State → Coll → Segment → List (Nat × List Nat) → State) (s : State) (n : Nat) : State :=
  match getColl s coll with
  | none => s
  | some c =>
    if n = 65535 then (chunks 16 qs).foldl (fun t ch => launchSide t coll c ch) s
    else match c.segs.find? fun g => g.num == n with
      | none => s
      | some g => (batchGroups c g qs).foldl (fun t gs => go t c g gs) s

/-- Queries of a collection whose scan has a segment that satisfies `p`, with the numbers of those segments. -/
def openSegs (s : State) (coll : Nat) (p : Query → SegState → Bool) : List (Nat × List Query) :=
  let qs := s.search.queries.filter fun q => q.coll == coll && q.stage == .scanning
  let nums := ((qs.map fun q => (q.segs.filter (p q)).map SegState.seg).flatten).eraseDups
  nums.map fun n => (n, qs.filter fun q => q.segs.any fun g => g.seg == n && p q g)

/-- Launch the sketch reads, or the code reads, of the segments that satisfy `p`. -/
def launchLists (code : Bool) (coll : Nat) (p : Query → SegState → Bool) (s : State) : State :=
  (openSegs s coll p).foldl (fun t x => inGroups coll x.2
    (fun u c g gs => if code then launchCode u coll c g x.2 gs else launchSketch u coll c g x.2 gs) t x.1) s

/-- Launch the encode tasks of the raw queries that start now (R149). -/
def launchEncodes (s : State) (coll : Nat) (qs : List Query) : State :=
  let raw := qs.filter fun q => !q.p.pre
  let eps := ((raw.map fun q => q.codes.map EpochCodes.epoch).flatten).eraseDups
  eps.foldl (fun t e =>
    let ids := (raw.filter fun q => q.codes.any fun k => k.epoch == e).map Query.qid
    let (tid, t1) := addTask t (.encode e) coll 0 ids none
    let f := feedFacet s (pipelineOf s coll)
    startStream (startStream t1 tid .weights f (some coll) [] []) tid .scales f (some coll) [] []) s

/-- The saturation counts of a raw query's encodes (R150). -/
def countQuery (ord : List Nat) (s : State) (q : Query) : State :=
  match getColl s q.coll with
  | none => s
  | some c =>
    if q.p.pre then s
    else
      let xs := q.p.emb.map Num.ofF32
      let ys := (prepared c.params.metric ord xs).getD xs
      ((epochsNeeded c q.snap).filterMap (epochOf c)).foldl (fun t ep => countEpoch t q.coll ep ord ys) s

/-- Launches of one collection at the edge of bead `b`: a missed segment is read as well, since what it gives still takes part
(R54); one that the schedule left out is not. Reads that a fenced stack lost start anew, from flash (R118). -/
def launchColl (b : Nat) (ord : List Nat) (s : State) (coll : Nat) : State :=
  let due := (s.search.queries.filter fun q => q.coll == coll && q.stage == .admitted && decide (q.start < b)).map Query.qid
  let s1 := mapQueries s fun q => if due.contains q.qid then
    (match getColl s coll with | some c => startScan c ord q | none => q) else q
  let s2 := launchEncodes s1 coll (s1.search.queries.filter fun q => due.contains q.qid)
  let s3 := (s2.search.queries.filter fun q => due.contains q.qid).foldl (fun t q => drawShares (countQuery ord t q) q) s2
  let scr (g : SegState) : Bool := !g.dropped && !g.toScreen.isEmpty
  let s4 := launchLists false coll (fun q g => scr g && g.tier == 0 && due.contains q.qid) s3
  let s5 := launchLists false coll (fun q g => scr g && g.tier == 1 && b == q.start + 2) s4
  let s6 := launchLists false coll (fun q g => scr g && g.tier == 2 && b == q.start + 2) s5
  let s7 := launchLists false coll (fun _ g => scr g && g.again) s6
  let s8 := mapQueries s7 fun q => if q.coll = coll then { q with segs := q.segs.map fun g => { g with again := false } } else q
  launchLists true coll (fun q g => !g.dropped && g.tier == 2 && !g.coded && decide (q.start + 4 ≤ b) && !g.toScore.isEmpty &&
    (g.toScreen.isEmpty || decide (scanLast q ≤ b + 2))) s8

/-- Where the codes of an item are read: the side list, or the code list of its segment. -/
def codeExtent (c : Coll) (snap slot : Nat) : Option (Nat × Nat) :=
  match c.side.findIdx? fun x => x.ent.slot == slot && x.merged.all (snap < ·) with
  | some i => some (regionOff c.params .sideLog + i * c.params.sideEntryBytes, c.params.sideEntryBytes)
  | none => (c.segs.filter fun g => decide (g.pub ≤ snap) && g.replaced.all (snap < ·)).findSome? fun g =>
      (g.entries.findIdx? fun e => e.slot == slot).map fun i => (g.codePage * pageSize + i * c.params.codeBytes, c.params.codeBytes)

/-- Launch the bridge reads of a query (R73). -/
def launchBridge (s : State) (q : Query) (c : Coll) : State :=
  let new := (q.bridgeTargets.filter fun x => x.2 == 0).map Prod.fst
  let ext := new.filterMap fun x => codeExtent c q.snap x
  let here := new.filter fun x => (codeExtent c q.snap x).isSome
  let s1 := updQuery s q.qid fun q => { q with since := beadNow s, bridgeTargets := (q.bridgeTargets.filter fun x => x.2 != 0) ++ here.map fun x => (x, 1) }
  if here.isEmpty then s1
  else
    let (tid, s2) := addTask s1 .bridge q.coll 0 [q.qid] none
    startStream s2 tid .bridge (feedFacet s c.att.pipeline) (some q.coll) [0] ext

/-- Launch the reads of the best R full vectors (R76): indexes for 32-bit entries from the vector region. -/
def launchVectors (s : State) (q : Query) (c : Coll) : State :=
  let slots := (q.segs.map SegState.toRerank).flatten
  let s1 := updQuery s q.qid fun q => { q with stage := .reranking, since := beadNow s }
  let (tid, s2) := addTask s1 .vector q.coll 0 [q.qid] none
  startStream s2 tid .vectors (feedFacet s c.att.pipeline) (some q.coll) [0, regionOff c.params .vectors]
    (slots.map fun x => (x - c.slotBase, c.params.vecStride))

/-- Send the slots of returned entries to the modules that hold them (R97). -/
def sendGathers (s : State) (q : Query) : State :=
  let mods := ((q.toGather.map Prod.snd).eraseDups).filter fun a => a != s.fabric.addr
  mods.foldl (fun t a =>
    let slots := (q.toGather.filter fun x => x.2 == a).map Prod.fst
    nextHop t (queryHdr t a 3 3 q.root q.serial q.tree) (.gatherReq slots)) s

/-- Launch the gather of the payload rows of the returned entries (R97); a row of 0 bytes needs no read. -/
def launchRows (s : State) (q : Query) (c : Coll) : State :=
  let es := match q.folded with | some b => b.entries | none => []
  let want := (es.filter fun e => !e.payMissing).map fun e => (e.slot, e.module)
  let rowLen (x : Nat) : Nat := match c.items.get x with | some it => it.row.length | none => 0
  let mine := (want.filter fun x => x.2 == s.fabric.addr).map Prod.fst
  let empty := mine.filter fun x => rowLen x == 0
  let reads := mine.filter fun x => rowLen x != 0
  let left := want.filter fun x => !(x.2 == s.fabric.addr && empty.contains x.1)
  let q1 := { q with stage := if left.isEmpty then .done else .gathering, toGather := left,
                     rows := empty.map fun x => (x, s.fabric.addr, []) }
  let s1 := sendGathers (updQuery s q.qid fun _ => q1) q1
  if reads.isEmpty then s1
  else
    let (tid, s2) := addTask s1 .row q.coll 0 [q.qid] none
    startStream s2 tid .rows 0 (some q.coll) [0] (reads.map fun x => (rowOff c x, rowLen x))

/-- Launches of the later stages of one query. -/
def launchLate (s : State) (q : Query) : State :=
  match getColl s q.coll with
  | none => s
  | some c => match q.stage with
    | .bridging => if q.bridgeTargets.any fun x => x.2 == 0 then launchBridge s q c else s
    | .fetching => launchVectors s q c
    | .selecting => launchRows s q c
    | _ => s

/-- Everything the bead sequencer launches for queries at the edge of bead `b` (R21, R105). -/
def launchQueries (b : Nat) (ord : List Nat) (s : State) : State :=
  let s1 := (s.search.queries.map Query.coll).eraseDups.foldl (launchColl b ord) s
  s1.search.queries.foldl launchLate s1

end Sys2Proof.Machine
end

