-- ==== Sys2Proof/Machine/Score.lean ====
section
/-! DEFINITION. What consumers do with slots: the scale check (R148, R149), screen and score (R66 to R72, R134 to R136),
bridge hop (R73), rerank (R75, R137), rows (R97); passes and merges (R84 to R94), and the end of a query's work on this
module. -/

namespace Sys2Proof.Machine

/-! ## The scale stream (R148, R149) -/

/-- A scale block of 264 bytes (R148). -/
structure ScaleBlock where
  seq : BitVec 16
  group : BitVec 8
  count : BitVec 8
  reserved : BitVec 32
  scales : List (BitVec 16)
  deriving DecidableEq, Repr

/-- The block as it lies in the scale stream, little-endian; SCALE words beyond those held are zero. -/
def scaleBytes (b : ScaleBlock) : List Byte :=
  leBytes 2 b.seq.toNat ++ [b.group, b.count] ++ leBytes 4 b.reserved.toNat ++
    ((List.range 128).map fun i => w16Bytes (b.scales.getD i 0)).flatten

def scaleBlockOf (bs : List Byte) : ScaleBlock :=
  { seq := BitVec.ofNat 16 (fieldB bs 0 2), group := BitVec.ofNat 8 (fieldB bs 2 1), count := BitVec.ofNat 8 (fieldB bs 3 1)
    reserved := BitVec.ofNat 32 (fieldB bs 4 4), scales := w16sOf (sliceB bs 8 256) }

/-- The encoder whose weights a tensor task reads. -/
def encoderOfTask (s : State) (t : Task) : Option Encoder :=
  let c := getColl s t.coll
  match t.kind with
  | .encode e => (c.bind fun c => epochOf c e).map Epoch.enc
  | .writeEncode _ _ | .merge => (c.bind newestEpoch).map Epoch.enc
  | .microBatch run _ => (s.learn.runs.find? fun r => r.id == run).map Run.enc
  | .promote => (c.bind Coll.promo).map Promotion.enc
  | _ => none

/-- Scales that each data block of a tensor needs, in order: the groups that its elements touch. `row` elements to a row,
in groups of `g`; `per` elements to a block. -/
def blockCounts (row g per total : Nat) : List Nat :=
  let at_ (e : Nat) : Nat := e / max 1 row * ceilDiv row g + e % max 1 row / g
  (List.range (ceilDiv total per)).map fun i => at_ (min total ((i + 1) * per) - 1) + 1 - at_ (i * per)

/-- GROUP and the count of scales of every data block that a tensor task reads: the weights of each layer in turn, or for an
update the two moments of each tensor of the training copy, in groups of 128 (R142, R144, R148). -/
def taskBlocks (s : State) (t : Task) : Option (List (Nat × Nat)) :=
  match t.kind with
  | .update run => (s.learn.runs.find? fun r => r.id == run).map fun r =>
    (r.copy.map fun c =>
      let n := c.w.length
      (blockCounts n 128 2048 n ++ blockCounts n 128 2048 n).map fun k => (2, k)).flatten
  | _ => (encoderOfTask s t).map fun enc =>
    let per := if enc.wformat = 0 then 4096 else 2048
    ((trunkLayers enc ++ [(projLayer, projection enc)]).map fun (_, l) =>
      (blockCounts l.inDim (groupLen enc.group) per (l.inDim * l.rows.length)).map fun k => (enc.group, k)).flatten

/-- A scale block matches the data block it is applied to: SEQ, and the GROUP and COUNT the tensor needs (R149). -/
def scaleMatches (s : State) (t : Task) (x : Slot) (b : ScaleBlock) : Bool :=
  b.seq == x.seq && match taskBlocks s t with
    | none => true
    | some ks => match ks[x.seq.toNat]? with
      | some (g, n) => b.group.toNat == g && b.count.toNat % 128 == n % 128
      | none => false

/-- A paired stream whose blocks need scales: it stands before its pair among the streams of its task. -/
def isDataStream (s : State) (r : Stream) : Bool :=
  match r.pair with
  | none => false
  | some j => decide (((s.streams.streams.filter fun x => x.tid == r.tid).map Stream.sid).idxOf r.sid < j)

/-! ## Scoring (R18, R71, R134 to R136) -/

def coveredOf : SlotData → List Nat
  | .none | .bytes _ => []
  | .survivors c _ | .raw c | .entries c => c

/-- A scored entry of a query. -/
def mkScored (s : State) (c : Coll) (seg : Nat) (bridged : Bool) (e : Entry) (d : F32) : Scored :=
  { dist := d, itemId := (match c.items.get e.slot with | some it => it.id | none => 0), slot := e.slot, epoch := e.epoch
    seg := seg, module := s.fabric.addr, notReranked := false, bridged := bridged, side := seg == 65535, payMissing := false }

/-- Codes that the ADC unit holds as one block (R80, R136). -/
def blockCodes (c : Coll) : Nat := max 1 (2048 / max 1 c.params.subcodes)

/-- Score one code block of one epoch for one table set. A fast-ADC overflow discards the block's results: it waits for
its repeat (R136). -/
def scoreBlock (c : Coll) (seg facet half : Nat) (ord : List Nat) (s : State) (qid : Nat) (es : List Entry) : State :=
  match findQuery s qid, es with
  | some q, e :: _ => match q.codesOf e.epoch with
    | none => s
    | some k =>
      let emit (dist : Entry → F32) : State := es.foldl (fun t x => scoreInto facet t qid (mkScored s c seg false x (dist x))) s
      if q.p.fast && half ≤ 2 then
        let f := fastSet c.params.metric ord half k.tables
        if es.any fun x => fastOverflows f x.code then
          updQuery s qid fun q => { q with reps := q.reps ++ [⟨facet, seg, es, half⟩] }
        else emit fun x => scoreFast f x.code
      else emit fun x => scoreF16 c.params.metric ord k.tables x.code
  | _, _ => s

/-- Score some entries on one facet, block by block and epoch by epoch. -/
def scoreOn (c : Coll) (seg facet : Nat) (ord : List Nat) (s : State) (qid : Nat) (es : List Entry) : State :=
  let eps := (es.map Entry.epoch).eraseDups
  eps.foldl (fun t ep =>
    (chunks (blockCodes c) (es.filter fun e => e.epoch == ep)).foldl (fun u b => scoreBlock c seg facet 0 ord u qid b) t) s

/-- The facet keeps that it took blocks of a segment for a query (R22). -/
def Query.serveOn (facet seg : Nat) (q : Query) : Query :=
  { q with parts := onPart facet (fun x => if x.served.contains seg then x else { x with served := seg :: x.served }) q.parts }

/-- A share that no facet takes is uncovered (R18, R19). -/
def loseShare (seg : Nat) (s : State) (qid : Nat) : State :=
  updQuery s qid fun q => q.missIf (beadNow s) 2 fun g => g.seg == seg

/-- Deal the survivors of a query in one segment to the facets of the pipeline's quads, 64 codes at a time from block `base`
on (R18). The codes of a block are the query's own survivors. DESIGN CHOICE, log entry 105. -/
def dealAndScore (c : Coll) (seg base : Nat) (ord : List Nat) (s : State) (qid : Nat) (es : List Entry) : State :=
  let quads := quadsOf s c.att.pipeline
  let taken := match findQuery s qid with | some q => q.takeOver | none => []
  ((chunks 64 es).zipIdx).foldl (fun u (b, j) => match facetForBlock s quads taken (base + j) with
    | some f => scoreOn c seg f ord (updQuery u qid (Query.serveOn f seg)) qid b
    | none => loseShare seg u qid) s

/-! ## Taking a slot -/

/-- The last bead in which a query takes slots of a task: codes of a flash segment are scored in the bead after, and its
sketches come three beads before (R54, R77, R228). -/
def takeLast (q : Query) (kind : TaskKind) (deep : Bool) : Nat :=
  if kind == .code then scanLast q - 1 else if deep then scanLast q - 3 else scanLast q

/-- A query of a task still takes slots in this bead: not past its stream cut (R54, R228). -/
def stillTakes (s : State) (q : Query) (kind : TaskKind) (deep : Bool) : Bool :=
  let l := takeLast q kind deep
  q.stage == .scanning && (decide (beadNow s < l) || (beadNow s == l && !s.time.cut))

/-- The intended segment of a task lies on flash for a query. -/
def Query.deep (q : Query) (seg : Nat) : Bool := q.segs.any fun g => g.seg == seg && g.tier == 2

/-- The earliest bead of a task's stage has come for each of its queries (R77). -/
def stageOpen (s : State) (t : Task) : Bool :=
  t.qids.all fun id => match findQuery s id with
    | none => true
    | some q =>
      let off := match t.kind with
        | .sketch => if q.deep t.seg then 3 else 1
        | .code => 5
        | _ => 0
      decide (q.start + off ≤ beadNow s)

def updSeg (q : Query) (seg : Nat) (f : SegState → SegState) : Query :=
  { q with segs := q.segs.map fun g => if g.seg = seg then f g else g }

/-- Survivors whose codes are in: scored now, or at the edge that begins the score stage (R77). -/
def scoreOrHold (c : Coll) (t : Task) (ord : List Nat) (s : State) (qid : Nat) (slots : List Nat) : State :=
  match findQuery s qid with
  | none => s
  | some q =>
    if q.deep t.seg || beadNow s < q.start + scoreOffset q.tier then
      updQuery s qid fun q => updSeg q t.seg fun g => { g with held := g.held ++ slots }
    else dealAndScore c t.seg t.dealt ord s qid (slots.filterMap (entryIn c t.seg))

/-- The records that a sketch slot carries; of a raw block the facet's Hamming arrays form them, in the same form (R66,
R69). -/
def slotRecords (s : State) (t : Task) : SlotData → List Survivor
  | .survivors _ sv => sv
  | .raw cov => survivors s t cov
  | _ => []

/-- A sketch slot for one query: what it covers is screened, and survivors are scored or wait for their codes. -/
def takeSketch (c : Coll) (t : Task) (d : SlotData) (recs : List Survivor) (ord : List Nat) (s : State) (qid : Nat) : State :=
  match findQuery s qid with
  | none => s
  | some q => match q.segs.find? fun g => g.seg == t.seg with
    | none => s
    | some g =>
      if !stillTakes s q t.kind (g.tier == 2) then s
      else
        let bucket (x : Nat) : Option Nat := if t.seg = 65535 then none else listBucket c t.seg x
        let mine := (coveredOf d).filter fun x => g.toScreen.contains x && t.serves (bucket x) qid
        let pass := mine.filter fun x => recs.any fun y => y.slot == x && y.hits.any fun h => h.1 == qid
        let s1 := updQuery s qid fun q => updSeg q t.seg fun g => { g with toScreen := g.toScreen.filter fun x => !mine.contains x }
        if g.tier = 2 then updQuery s1 qid fun q => updSeg q t.seg fun g => { g with toScore := g.toScore ++ pass }
        else scoreOrHold c t ord s1 qid pass

/-- A code slot for one query: its survivors among the entries have their codes (R197). -/
def takeCode (c : Coll) (t : Task) (d : SlotData) (ord : List Nat) (s : State) (qid : Nat) : State :=
  match findQuery s qid with
  | none => s
  | some q => match q.segs.find? fun g => g.seg == t.seg with
    | none => s
    | some g =>
      if !stillTakes s q t.kind true then s
      else
        let mine := (coveredOf d).filter fun x => g.toScore.contains x && t.serves (listBucket c t.seg x) qid
        let s1 := updQuery s qid fun q => updSeg q t.seg fun g => { g with toScore := g.toScore.filter fun x => !mine.contains x }
        scoreOrHold c t ord s1 qid mine

/-- The score stage of a query begins, or goes on: what it holds is scored (R77). -/
def scoreHeld (ord : List Nat) (s : State) (q : Query) : State :=
  match getColl s q.coll with
  | none => s
  | some c =>
    if q.stage != .scanning || beadNow s < q.start + scoreOffset q.tier then s
    else (q.segs.filter fun g => !g.held.isEmpty).foldl (fun t g =>
      let t1 := updQuery t q.qid fun x => updSeg x g.seg fun y => { y with held := [] }
      dealAndScore c g.seg 0 ord t1 q.qid (g.held.filterMap (entryIn c g.seg))) s

/-- The first half scale at which a code does not overflow; 3 where it needs the FP16 tables (R136). -/
def fastHalf (metric : Nat) (ord : List Nat) (t : List (List (BitVec 16))) (code : List Byte) : Nat :=
  ((List.range 3).find? fun (h : Nat) => !fastOverflows (fastSet metric ord h t) code).getD 3

/-- Bridge targets that arrived: filter, deny set and visibility, not the threshold; then ADC on a facet of the pipeline
(R73). Without a facet they are dropped (R74). -/
def takeBridge (c : Coll) (d : SlotData) (ord : List Nat) (s : State) (qid : Nat) : State :=
  match findQuery s qid with
  | none => s
  | some q =>
    if q.stage != .bridging then s
    else
      let got := (coveredOf d).filter fun x => q.bridgeTargets.any fun y => y.1 == x
      let s1 := updQuery s qid fun q => { q with bridgeTargets := q.bridgeTargets.filter fun y => !got.contains y.1 }
      match ((facetsOf s c.att.pipeline).find? (launchable s)).map (physOf s) with
      | none => bumpN s1 bridgeMissCnt got.length
      | some f => got.foldl (fun u x => match entryAt c q.snap x with
        | none => u
        | some (e, seg) => match q.codesOf e.epoch with
          | none => u
          | some k =>
            let pass := filterOk c q.p.fOr q.p.fids q.snap x && !q.deny.contains x && visible c x q.snap
            let half := if q.p.fast then fastHalf c.params.metric ord k.tables e.code else 0
            let dist := if q.p.fast && half ≤ 2 then scoreFast (fastSet c.params.metric ord half k.tables) e.code
              else scoreF16 c.params.metric ord k.tables e.code
            let u1 := bumpN (bumpN u (adcHalfCnt f) (min half 2)) (adcFp16Cnt f) (half - 2)
            if pass then scoreInto f u1 qid (mkScored s c seg true e dist) else u) s1

/-- The exact distances of some slots take the place of their ADC distances (R75, R137). -/
def rerankSlots (c : Coll) (ord got : List Nat) (s : State) (qid : Nat) : State :=
  match findQuery s qid with
  | none => s
  | some q =>
    let xs := q.p.emb.map Num.ofF32
    let qv := (prepared c.params.metric ord xs).getD xs
    let dist (e : Scored) : Option F32 := match c.items.get e.slot with
      | some { vector := some v, .. } => some (rerankDist c.params.metric ord qv (storedNums c.params.vecFormat v))
      | _ => none
    let fin := q.final.map fun e => if got.contains e.slot then
      (match dist e with | some x => { e with dist := posZero x, notReranked := false } | none => e) else e
    let keep := fin.filter fun e => !isNanF32 e.dist
    updQuery (bumpN s nanDropCnt (fin.length - keep.length)) qid fun q => { q with final := keep }

/-- Full vectors that arrived in the first rerank bead wait for the second, in which the distances are computed (R76). -/
def takeVector (c : Coll) (d : SlotData) (ord : List Nat) (s : State) (qid : Nat) : State :=
  match findQuery s qid with
  | none => s
  | some q =>
    if q.stage != .reranking then s
    else
      let want := (q.segs.map SegState.toRerank).flatten
      let got := (coveredOf d).filter want.contains
      let s1 := updQuery s qid fun q => { q with segs := q.segs.map fun g =>
        { g with toRerank := g.toRerank.filter fun x => !got.contains x } }
      if beadNow s ≤ q.since then updQuery s1 qid fun q => { q with fetched := q.fetched ++ got }
      else rerankSlots c ord got s1 qid

/-- The second rerank bead begins: the vectors in hand are compared. -/
def rerankFetched (ord : List Nat) (s : State) (q : Query) : State :=
  match getColl s q.coll with
  | none => s
  | some c =>
    if q.stage != .reranking || beadNow s ≤ q.since || q.fetched.isEmpty then s
    else rerankSlots c ord q.fetched (updQuery s q.qid fun q => { q with fetched := [] }) q.qid

/-- Rows that arrived at the root from its own tiers (R97). -/
def takeRows (c : Coll) (d : SlotData) (s : State) (qid : Nat) : State :=
  match findQuery s qid with
  | none => s
  | some q =>
    if q.stage != .gathering then s
    else
      let here (x : Nat × BitVec 20) : Bool := x.2 == s.fabric.addr && (coveredOf d).contains x.1
      let got := q.toGather.filter here
      let left := q.toGather.filter fun x => !here x
      let rows := got.filterMap fun (x, a) => (c.items.get x).map fun it => (x, a, it.row)
      updQuery s qid fun q => { q with toGather := left, rows := q.rows ++ rows, stage := if left.isEmpty then .done else q.stage }

/-- What the consumer does with a slot it has taken. -/
def consume (t : Task) (d : SlotData) (ord : List Nat) (s : State) : State :=
  match getColl s t.coll with
  | none => s
  | some c => match t.kind with
    | .sketch => t.qids.foldl (takeSketch c t d (slotRecords s t d) ord) s
    | .code => t.qids.foldl (takeCode c t d ord) s
    | .bridge => t.qids.foldl (takeBridge c d ord) s
    | .vector => t.qids.foldl (takeVector c d ord) s
    | .row => t.qids.foldl (takeRows c d) s
    | _ => s

/-- SLOT_TAKE: the FULL slot at the tail, on which the consumer starts; a paired data stream takes it with its scale block, and
a mismatch aborts the task (R148, R149, R226). -/
def execSlotTake (sid : Nat) (scale : Option (List Byte)) (ord : List Nat) (s : State) : Res :=
  .next (match getStream s sid with
  | none => s
  | some r => match tailFull r, getTask s r.tid with
    | some x, some t =>
      if !isUp s || r.stopped || !stageOpen s t then s
      else
        let skew : Option Bool := if isDataStream s r then scale.map fun b => !scaleMatches s t x (scaleBlockOf b) else some false
        match skew with
        | none => s
        | some true => streamSkew s r
        | some false => updSlot s sid (r.tail % max 1 r.ring.length) fun y => { y with st := .taken, ord := ord }
    | _, _ => s)

/-- A consumer finishes a slot: what it formed from it stands, unless the task was aborted meanwhile (R229). -/
def finishSlot (s : State) (r : Stream) (x : Slot) : State :=
  match getTask s r.tid with
  | none => s
  | some t =>
    if t.aborted then s
    else updTask (consume t x.data x.ord s) t.tid fun t => { t with dealt := t.dealt + ceilDiv (coveredOf x.data).length 64 }

/-- SLOT_FINISH: the TAKEN slot at the tail is done; the tail advances and the stream may issue into it (R226, R227). -/
def execSlotFinish (sid : Nat) (s : State) : Res :=
  .next (match getStream s sid with
  | none => s
  | some r => match r.ring[r.tail % max 1 r.ring.length]? with
    | some x =>
      if isUp s && x.st == .taken && decide (r.tail < r.head) then
        let s1 := finishSlot s r x
        reap (issueWaiting (updStream s1 sid advanceTail) sid)
      else s
    | none => s)

/-! ## Compaction and repeats -/

/-- COMPACTION of a full candidate buffer (R85). -/
def execCompaction (qid : Nat) (s : State) : Res :=
  .next (match findQuery s qid with
  | none => s
  | some q => if isUp s && bufferFull q then compactQuery s qid else s)

/-- HALF_SCALE_REPEAT: the oldest block that overflowed is scored again, twice at half scale and then with FP16 tables
(R136). -/
def execHalfScaleRepeat (qid : Nat) (ord : List Nat) (s : State) : Res :=
  .next (match findQuery s qid with
  | none => s
  | some q => match q.reps, getColl s q.coll with
    | r :: rest, some c =>
      if !isUp s || q.stage != .scanning then s
      else
        let s1 := bump s (if r.halvings < 2 then adcHalfCnt r.facet else adcFp16Cnt r.facet)
        scoreBlock c r.seg r.facet (r.halvings + 1) ord (updQuery s1 qid fun q => { q with reps := rest }) qid r.entries
    | _, _ => s)

/-! ## The end of a query's work on this module -/

/-- Cancel the tasks that serve no query any more (R228, R232). -/
def dropIdleTasks (s : State) : State :=
  let alive (t : Task) : Bool := t.qids.isEmpty || t.qids.any fun id => (findQuery s id).isSome
  cancelTasks s fun t => !alive t && !t.cancelled

/-- A query leaves: its buffers are released, visible to admission from the next bead (R24, R185). -/
def removeQuery (s : State) (q : Query) : State :=
  let s1 := s.modSearch fun r => { r with queries := r.queries.filter fun x => x.qid != q.qid }
  dropIdleTasks (s1.modPools fun p => { p with
    cand := p.cand - q.candBytes, gather := p.gather - q.gatherBytes
    relCand := p.relCand + q.candBytes, relGather := p.relGather + q.gatherBytes })

/-- The stage of this module has its final list: the root keeps it for the gather and the reply, any other member sends
it to its parent (R97, R311). -/
def finishStage (s : State) (qid : Nat) (ties : List Nat) : State :=
  match findQuery s qid with
  | none => s
  | some q0 =>
    let q := if q0.p.payload && q0.dropGather then { q0 with final := q0.final.map fun e => { e with payMissing := true } } else q0
    let (b, d) := foldLists s q ties
    let s1 := bumpN s dedupCnt d
    if q.local_ then
      let want := q.p.payload && !q.dropGather && b.entries.any fun e => !e.payMissing
      updQuery s1 qid fun _ => { q with folded := some b, stage := if want then .selecting else .done }
    else
      let parent := addrAt q.members (parentOf q.fan q.pos)
      removeQuery (nextHop s1 (queryHdr s1 parent 2 2 q.root q.serial q.tree) (.list b)) q

/-- A module without children has its final list as soon as its own list is formed. -/
def afterList (s : State) (qid : Nat) (ties : List Nat) : State :=
  match findQuery s qid with
  | none => s
  | some q => if q.stage == .clasping && q.kids.isEmpty then finishStage s qid ties else s

/-- Move a query on after a merge. -/
def advance (s : State) (q : Query) (dups : Nat) (ties : List Nat) : State :=
  match getColl s q.coll with
  | none => s
  | some c => afterList (updQuery (bumpN s dedupCnt dups) q.qid fun _ => nextStage (beadNow s) c q) q.qid ties

/-- Passes run in the final-selection bead of the schedule and in those that follow it (R86); where a bridge hop or a rerank
comes after them, from the score stage on. -/
def passOpen (s : State) (q : Query) : Bool :=
  isUp s && q.stage == .scanning && q.p.passes && scanOver q && decide (mergeBead q ≤ beadNow s) && !s.search.claspOut

/-- REPEATED_PASS: one pass over the candidate records, and after the last one the tie count (R84, R86). Which of the entries
of equal distance a root without children returns is open (R89). -/
def execRepeatedPass (qid : Nat) (s : State) : Res :=
  .next (match findQuery s qid with
  | none => s
  | some q =>
    if !passOpen s q then s
    else if q.exhausted then
      let (q1, d) := endPasses true q
      let (ties, s1) := drawOrd s
      advance s1 q1 d ties
    else updQuery s qid fun _ => onePass q)

/-- Inputs of the score list are complete: screen and score are over, or the bridge targets are in. -/
def listReady (q : Query) : Bool :=
  match q.stage with
  | .scanning => !q.p.passes && scanOver q
  | .bridging => q.bridgeTargets.isEmpty
  | _ => false

/-- Every child's list has come, in a bead before this one, or the last bead in which the merge can still serve has come
(R93, R109). -/
def fabricReady (s : State) (q : Query) : Bool :=
  q.kids.all (fun j => (q.listsFor (beadNow s)).any fun l => l.1 == addrAt q.members j) ||
    decide (q.deadline ≤ beadNow s + q.gatherBeads)

/-- CLASP_MERGE_START of a die, of the module, or of the fabric stage, no earlier than its bead (R77, R93). -/
def execClaspMergeStart (qid : Nat) (st : ClaspStage) (ties : List Nat) (s : State) : Res :=
  .next (match findQuery s qid with
  | none => s
  | some q =>
    if !isUp s || s.search.claspOut then s
    else match st with
    | .die d =>
      if listReady q && decide (mergeBead q ≤ beadNow s) && q.parts.any (fun x => x.facet / 17 == d) then
        let (q1, n) := dieMerge d q
        bumpN (updQuery s qid fun _ => q1) dedupCnt n
      else s
    | .module =>
      if beadNow s < mergeBead q then s
      else if listReady q && q.parts.isEmpty then
        let (q1, n) := moduleMerge q
        advance s q1 n ties
      else if (q.stage == .reranking && fetchOver q) || q.stage == .ready then advance s q 0 ties
      else s
    | .fabric => if q.stage == .clasping && !q.kids.isEmpty && fabricReady s q then finishStage s qid ties else s)

end Sys2Proof.Machine
end

