-- ==== Sys2Proof/Machine/Reply.lean ====
section
/-! DEFINITION. Replies of SEARCH, SEARCH_RANGE and READ_ITEM (R89 to R98, R111 to R117, R271 to R273), pairs that a
search logs (R154), and what a cut point does to queries and reads (R30, R54, R74, R76, R86, R107, R108, R207). -/

namespace Sys2Proof.Machine

/-! ## Coverage (R113, R115) -/

def coverage (s i : Nat) : Nat :=
  if i = 0 then 65536
  else
    let v := 65536 * s / i
    if 0 < s && v = 0 then 1 else v

def searchStatus (cov entries : Nat) (selectCut : Bool) : BitVec 16 :=
  if cov = 65536 && !selectCut then 0 else if entries = 0 then 0x0501 else 1

/-- Entries of a list whose distance is that of its last entry. -/
def lastTies (es : List ListEntry) : Nat :=
  match es.getLast? with
  | none => 0
  | some e => es.countP fun x => f32Key x.dist == f32Key e.dist

/-- The deadline cut a tie count, here or at a member whose list ends at the last distance: further tied entries cannot be
excluded (R86). -/
def tieOpen (q : Query) (b : ListBody) : Bool :=
  let last (x : ListBody) : Option Int := x.entries.getLast?.map fun e => f32Key e.dist
  q.tieUnknown || q.lists.any fun l => l.2.2.selectCut && (last l.2.2).isSome && last l.2.2 == last b

/-- TIE_CNT and TIE_AT_K (R86, R90, R91). -/
def tieFields (q : Query) (b : ListBody) : Nat × Bool :=
  if b.entries.length < q.p.k || (q.p.range && !b.overflow) then (0, false)
  else
    let n := lastTies b.entries + b.cutTies
    (min n 255, decide (0 < b.cutTies) || tieOpen q b)

/-! ## Reply payload (R98, R271) -/

/-- The row of a returned entry, where it was gathered. -/
def rowOf (q : Query) (e : ListEntry) : Option (List Byte) :=
  if !q.p.payload || e.payMissing then none
  else (q.rows.find? fun r => r.1 == e.slot && r.2.1 == e.module).map fun r => r.2.2

/-- Offsets of the rows, each on an 8-byte boundary, in the order of the entries (R98); that of an entry without a row is
free (log entry 88). -/
def placeRows (q : Query) : Nat → List ListEntry → List (ListEntry × Nat × Option (List Byte))
  | _, [] => []
  | off, e :: es =>
    let r := rowOf q e
    (e, if r.isSome then off else (Config.omittedOff q.qid e.itemId).toNat, r) :: placeRows q (off + (pad8 (r.getD [])).length) es

def b2n (b : Bool) (bit : Nat) : Nat := if b then 2 ^ bit else 0

def entryBytes (pay : Bool) (x : ListEntry × Nat × Option (List Byte)) : List Byte :=
  let (e, off, r) := x
  let missing := pay && r.isNone
  leBytes 8 e.itemId.toNat ++ leBytes 4 e.dist.toNat ++ leBytes 8 (e.slot % 2 ^ 36 + e.module.toNat * 2 ^ 36) ++
    leBytes 4 (e.epoch.toNat + b2n e.notReranked 16 + b2n e.bridged 17 + b2n e.side 18 + b2n missing 19) ++
    leBytes 4 (if pay then off else 0) ++ leBytes 4 (match r with | some bs => bs.length | none => 0)

def missedBytes (m : MissedRec) : List Byte :=
  leBytes 8 (m.module.toNat + m.segment.toNat * 2 ^ 20 + m.cause.toNat * 2 ^ 36 + b2n m.whole 40)

/-- Status and payload of a search reply, with the rows missing. -/
structure SearchReply where
  status : BitVec 16
  body : List Byte
  missing : Nat
  deriving DecidableEq, Repr

/-- The reply of a query at its root. A member that gave no list in time is listed as a whole shard, log entry 109. -/
def searchReplyOf (s : State) (q : Query) (b : ListBody) : SearchReply :=
  let lost := lostShards s q b
  let i := b.foldI + sumN (lost.map LostShard.i)
  let cov := coverage b.foldS i
  let n := b.entries.length
  let st := searchStatus cov n b.selectCut
  let (tie, tieK) := tieFields q b
  let rows := placeRows q 0 b.entries
  let missing := if q.p.payload then rows.countP fun x => x.2.2.isNone else 0
  let payload := (rows.map fun x => pad8 (x.2.2.getD [])).flatten
  let recs := (missedSort (b.missed ++ lost.map fun l => ⟨l.module, 65535, l.cause, true⟩)).take missedMax
  let head := leBytes 2 st.toNat ++ [0, 0] ++
    leBytes 4 (n + tie * 2 ^ 17 + b2n tieK 25 + b2n b.overflow 26 + b2n b.selectCut 27 + b2n (missing != 0) 28) ++
    leBytes 4 cov ++ leBytes 4 b.dedup ++ leBytes 4 (if q.p.range then b.inRadius else 0) ++ leBytes 4 payload.length ++ leBytes 8 q.snap
  let summary := leBytes 4 (min (i - b.foldS) (2 ^ 32 - 1)) ++ leBytes 4 (lost.length % 2 ^ 20 + recs.length * 2 ^ 20) ++
    (recs.map missedBytes).flatten
  ⟨st, head ++ (rows.map (entryBytes q.p.payload)).flatten ++ summary ++ payload, missing⟩

/-- The pair a search with the log flag leaves: the raw query and the full vector of the nearest reranked entry (R154). What
another module holds is no state of this one: its elements are free (log entry 63). -/
def loggedPair (s : State) (q : Query) (b : ListBody) : Option (List F32 × List F32) :=
  if !q.p.log || q.p.rr = 0 then none
  else match (b.entries.filter fun e => !e.notReranked).head?, getColl s q.coll with
    | some e, some c =>
      if e.module != s.fabric.addr then
        some (q.p.emb, (List.range c.params.vecDims).map (Config.remoteElem e.module.toNat e.slot))
      else match c.items.get e.slot with
        | some { vector := some v, .. } => some (q.p.emb, (storedNums c.params.vecFormat v).map Num.toF32)
        | _ => none
    | _, _ => none

/-- Form and send the reply of a query whose final list is formed (R111, R115). -/
def replySearch (s : State) (q : Query) : State :=
  let b := q.folded.getD (ownList s q)
  let r := searchReplyOf s q b
  let s1 := bumpN s payloadMissCnt r.missing
  let s2 := if r.status = 1 then bump s1 partialCnt else if r.status = 0x0501 then bump s1 deadlineMissCnt else s1
  let s3 := match loggedPair s q b with
    | some p => s2.modSearch fun x => { x with logged := x.logged ++ [(q.coll, p.1, p.2)] }
    | none => s2
  removeQuery (answer s3 q.ref.queue q.ref.tag r.status 0 r.body) q

def isDetached (s : State) (coll : Nat) : Bool := match getColl s coll with | some c => !c.attached | none => true

/-- A query's reply may leave: its schedule has come to the bead, or a detach ended the query (R30). -/
def replyFree (s : State) (q : Query) : Bool :=
  q.local_ && q.stage == .done && (decide (min (needsUntil q q.tier) q.deadline ≤ beadNow s) || isDetached s q.coll)

/-- The order in which replies leave: by deadline bead, and among equal ones in order of admission (R111). -/
def replyBefore (a b : Query) : Bool := decide (a.deadline < b.deadline) || (a.deadline == b.deadline && decide (a.qid ≤ b.qid))

/-- The first of the replies that are ready. -/
def nextReply (s : State) : Option Query := (sortBy replyBefore (s.search.queries.filter (replyFree s))).head?

/-- SEARCH_REPLY: the work is complete or cut, and no other reply is to leave before it (R77, R100, R111, R115). -/
def execSearchReply (qid : Nat) (s : State) : Res :=
  .next (match nextReply s with
  | none => s
  | some q => if isUp s && q.qid == qid then replySearch s q else s)

/-! ## READ_ITEM (R272, R273) -/

def fixedPart (r : ReadItem) (it : Item) (e : Option Entry) : List Byte :=
  let ep := match e with | some e => e.epoch | none => 0
  let br := match e with | some e => e.bridges.length | none => 0
  leBytes 8 it.id.toNat ++ leBytes 8 r.slot ++ leBytes 2 ep ++ leBytes 1 br ++ leBytes 1 (if it.vector.isSome then 1 else 0) ++
    leBytes 2 it.row.length ++ leBytes 2 0 ++ leBytes 8 r.snap

/-- The payload of an OK reply: each wanted part padded to 8 bytes. -/
def readPayload (c : Coll) (r : ReadItem) (it : Item) (e0 : Option Entry) : List Byte :=
  let e := e0.map (Entry.at c r.snap)
  let w (i : Nat) : Bool := r.want.getLsbD i
  let codes := match e with | some e => leBytes c.params.sketchBytes e.sketch ++ e.code | none => []
  let br := match e with | some e => (e.bridges.map fun x => leBytes 8 x).flatten | none => []
  fixedPart r it e ++ (if w 0 then pad8 codes else []) ++ (if w 3 then br else []) ++
    (if w 1 then pad8 (it.vector.getD []) else []) ++ (if w 2 then pad8 it.row else [])

def dropRead (s : State) (r : ReadItem) : State :=
  s.modSearch fun x => { x with reads := x.reads.filter fun y => !(y.ref.queue == r.ref.queue && y.ref.tag == r.ref.tag) }

/-- Answer a READ_ITEM: OK with its payload, READ_UNCORRECTABLE without, DEADLINE_MISSED with the fixed part alone. -/
def answerRead (s : State) (r : ReadItem) (st : BitVec 16) : State :=
  match (getColl s r.coll).bind fun c => (c.items.get r.slot).map fun it => (c, it) with
  | none => answer (dropRead s r) r.ref.queue r.ref.tag st 0 []
  | some (c, it) =>
    let e := (entryAt c r.snap r.slot).map Prod.fst
    let body := if st = 0 then readPayload c r it e else if st = 0x0501 then fixedPart r it e else []
    answer (dropRead s r) r.ref.queue r.ref.tag st 0 body

/-- The channel and offset of a wanted part whose unit is lost: its read fails at once (R206). -/
def lostPart (s : State) (r : ReadItem) : Option (Nat × Nat) :=
  match (getColl s r.coll).bind fun c => (c.items.get r.slot).map fun it => (c, it) with
  | none => none
  | some (c, it) => (wantedParts c r.slot r.want.toNat it).findSome? fun x =>
      match placeOf s r.coll c x.1 x.2 with | .lost ch => some (ch, x.1) | _ => none

/-- The reads that a READ_ITEM made of flash units count for their blocks (R202). -/
def countItemReads (s : State) (r : ReadItem) : State :=
  match (getColl s r.coll).bind fun c => (c.items.get r.slot).map fun it => (c, it) with
  | none => s
  | some (c, it) => (wantedParts c r.slot r.want.toNat it).foldl (fun t x =>
      match placeOf s r.coll c x.1 x.2 with | .flash _ => countBlockRead t r.coll (x.1 / pageSize) | _ => t) s

/-- READ_ITEM_REPLY: every wanted part has arrived, or one was uncorrectable; either way no earlier than the schedule's
reply bead (R273). -/
def execReadItemReply (queue tag : Nat) (uncorrectable : Bool) (s : State) : Res :=
  .next (match s.search.reads.find? fun r => r.ref.queue == queue && r.ref.tag == tag with
  | none => s
  | some r =>
    let b := beadNow s
    let open_ := decide (b < r.deadline) || (b == r.deadline && !s.time.cut)
    if !isUp s || !open_ || b < r.ready then s
    else if uncorrectable then answerRead (countItemReads s r) r 0x0302
    else match lostPart s r with
      | some (ch, off) => answerRead (lostRead s ch r.coll off) r 0x0302
      | none => answerRead (countItemReads s r) r 0)

/-! ## The cut point (R54, R108) -/

/-- Slots that reads of a query's segment still wait for. -/
def waitingSlots (s : State) (qid seg : Nat) : List Slot :=
  let ts := (s.streams.tasks.filter fun t => t.seg == seg && t.qids.contains qid && (t.kind == .sketch || t.kind == .code)).map Task.tid
  ((s.streams.streams.filter fun r => ts.contains r.tid).map fun r => r.ring.filter fun x => x.st == .issued).flatten

/-- Cause of a segment whose reads are unfinished: HOT_STACK for a stack throttled or fenced for heat, UNCORRECTABLE for a
flash read still in its recovery ladder (open, drawn), else CHANNEL_RETRAIN (R117, R118, R207). -/
def cutCause (s : State) (ladder : Bool) (qid seg : Nat) : Nat :=
  let xs := waitingSlots s qid seg
  let hot := xs.any (fun x => x.tier == 1 && decide (1 ≤ (s.hbm.hbmStacks.getD (x.chan / 32) ⟨0, 0, false⟩).step)) ||
    match (findQuery s qid).bind fun q => getColl s q.coll with
    | some c => c.pages.any fun p => p.seg == seg && p.hotLost
    | none => false
  if hot then 3 else if ladder && xs.any (fun x => x.tier == 2 && x.atDevice) then 5 else 4

/-- End screen and score of a query: what is open is uncovered and discarded, with the cause `why` where one is given (R54,
R112). -/
def endScan (s : State) (ladder : Bool) (why : Option Nat) (b : Nat) (q : Query) : Query :=
  let reps := q.reps.map Repeat.seg
  let f (g : SegState) : SegState :=
    if !g.toScreen.isEmpty || !g.toScore.isEmpty || !g.held.isEmpty || reps.contains g.seg then
      { g.miss b (why.getD (cutCause s ladder q.qid g.seg)) with toScreen := [], toScore := [], held := [] } else g
  { q with segs := q.segs.map f, reps := [] }

/-- The stream cuts of flash segments come before the last bead of the score stage: what is unscreened or ungated by them is
uncovered, and the rest goes on (R54, R228). -/
def endStreams (s : State) (ladder : Bool) (b : Nat) (q : Query) : Query :=
  let f (g : SegState) : SegState :=
    if g.tier != 2 then g
    else
      let g1 := if takeLast q .sketch true ≤ b && !g.toScreen.isEmpty then { g.miss b (cutCause s ladder q.qid g.seg) with toScreen := [] } else g
      if takeLast q .code true ≤ b && !g1.toScore.isEmpty then { g1.miss b (cutCause s ladder q.qid g.seg) with toScore := [] } else g1
  { q with segs := q.segs.map f }

/-- Cancel the tasks of a kind whose queries have all left the stage (R228, R232). -/
def cancelStage (s : State) (kinds : TaskKind → Bool) (open_ : Query → Bool) : State :=
  cancelTasks s fun t => kinds t.kind && !t.qids.isEmpty && !t.cancelled &&
    !t.qids.any fun id => match findQuery s id with | some q => open_ q | none => false

/-- Drop the bridge targets still to fetch (R74). -/
def dropBridges (s : State) (q : Query) : State :=
  bumpN (updQuery s q.qid fun q => { q with bridgeTargets := [] }) bridgeMissCnt q.bridgeTargets.length

/-- Slots whose vectors stand complete in a ring. -/
def vectorsIn (s : State) (q : Query) : List Nat :=
  match getColl s q.coll with
  | none => []
  | some _ =>
    let ts := (s.streams.tasks.filter fun t => t.kind == .vector && t.qids.contains q.qid).map Task.tid
    ((s.streams.streams.filter fun r => ts.contains r.tid).map fun r =>
      ((r.ring.filter fun x => x.st == .full || x.st == .taken).map fun x => coveredOf x.data).flatten).flatten

/-- Vectors not fetched by the cut: RERANK_MISS, or the cause given, and the segment that holds the item is uncovered
(R30, R76). -/
def dropVectors (s : State) (why : Option Nat) (keep : List Nat) (q : Query) : State :=
  let b := beadNow s
  let late := ((q.segs.map SegState.toRerank).flatten).filter fun x => !keep.contains x
  let q1 := q.missIf b (why.getD 7) fun g => g.toRerank.any late.contains
  let q2 := { q1 with segs := q1.segs.map fun g => { g with toRerank := g.toRerank.filter fun x => !late.contains x } }
  bumpN (updQuery s q.qid fun _ => q2) rerankMissCnt late.length

/-- Vectors in hand that no rerank stage compares any more: their entries keep their ADC distances, like those of vectors not
fetched (R76). -/
def dropFetched (s : State) (why : Option Nat) (q : Query) : State :=
  let segs := (q.final.filter fun e => q.fetched.contains e.slot).map Scored.container
  bumpN (updQuery s q.qid fun x => x.missIf (beadNow s) (why.getD 7) fun g => segs.contains g.seg) rerankMissCnt q.fetched.length

/-- All merges that are left in the module, at once: every die, then the module. -/
def mergeAll (q : Query) : Query × Nat :=
  let ds := (q.parts.map fun x => x.facet / 17).eraseDups
  let (q1, n) := ds.foldl (fun (acc : Query × Nat) d => let (r, k) := dieMerge d acc.1; (r, acc.2 + k)) (q, 0)
  let (q2, m) := moduleMerge q1
  (q2, n + m)

/-- The score list as the cut leaves it; passes that the deadline cuts give their exact prefix (R86). -/
def forceScore (s : State) (q : Query) : State :=
  if q.p.passes then
    let (q1, d) := endPasses false q
    bump (bumpN (updQuery s q.qid fun _ => { q1 with selectCut := true, tieUnknown := q.exhausted }) dedupCnt d) selectCutCnt
  else
    let (q1, d) := mergeAll q
    bumpN (updQuery s q.qid fun _ => q1) dedupCnt d

/-- Rerank cannot be taken up any more: the best R keep their ADC distances (R76). -/
def skipRerank (why : Option Nat) (s : State) (q : Query) : State :=
  match getColl s q.coll with
  | none => s
  | some c =>
    let q1 := afterBridge (beadNow s) c q
    if q1.stage == .fetching then dropVectors (updQuery s q.qid fun _ => q1) why [] q1 else updQuery s q.qid fun _ => q1

def onQuery (s : State) (qid : Nat) (f : State → Query → State) : State :=
  match findQuery s qid with
  | none => s
  | some q => f s q

/-- The module's list is formed if it is not yet. -/
def forceList (s : State) (qid : Nat) : State :=
  onQuery s qid fun s q => if q.merged then s else updQuery s qid fun q => formList q

/-- Every stage of a query that still runs ends, and its final list is formed from what they completed. Which of the entries of
equal distance it keeps is open (R89): their order is drawn, log entry 17. -/
def endStages (ladder : Bool) (why : Option Nat) (s : State) (qid : Nat) : State :=
  let b := beadNow s
  let step1 (s : State) (q : Query) : State :=
    match q.stage with
    | .admitted =>
      updQuery s qid fun q => { q with stage := .scanning, segs := q.segs.map fun g => g.miss b (why.getD (if q.late then 9 else 1)) }
    | .scanning => updQuery s qid fun _ => endScan s ladder why b q
    | .bridging => dropBridges s q
    | _ => s
  let step2 (s : State) (q : Query) : State :=
    match q.stage with
    | .scanning => onQuery (forceScore s q) qid (skipRerank why)
    | .bridging =>
      let (q1, d) := mergeAll q
      onQuery (bumpN (updQuery s qid fun _ => q1) dedupCnt d) qid (skipRerank why)
    | .fetching | .reranking =>
      let s1 := updQuery s qid fun q => { q with fetched := [] }
      dropVectors (dropFetched s1 why q) why [] q
    | _ => s
  let step3 (s : State) (q : Query) : State :=
    match q.stage with
    | .clasping =>
      let (ties, s1) := drawOrd s
      finishStage s1 qid ties
    | _ => s
  onQuery (forceList (onQuery (onQuery s qid step1) qid step2) qid) qid step3

/-- The cut point of the local deadline bead: every stage ends, the gather as well (R108). -/
def forceEnd (ladder : Bool) (why : Option Nat) (s : State) (qid : Nat) : State :=
  updQuery (endStages ladder why s qid) qid fun q => { q with stage := .done, toGather := [] }

/-- The final merge of a root has come to the last bead from which the payload gather can still finish (R54, R93, R97);
repeated passes run up to the deadline bead (R86). -/
def gatherDue (b : Nat) (q : Query) : Bool :=
  q.gatherBeads != 0 && !q.dropGather && decide (q.deadline ≤ b + q.gatherBeads) && !(q.p.passes && q.stage == .scanning) &&
    q.stage != .selecting && q.stage != .gathering && q.stage != .done

/-- What a cut point in bead `b` does to one query (R54, R74, R76, R108). -/
def cutQuery (ladder : Bool) (s : State) (qid : Nat) : State :=
  let b := beadNow s
  onQuery s qid fun s q =>
    if q.deadline ≤ b then (if q.stage == .done then s else forceEnd ladder none s qid)
    else if gatherDue b q then endStages ladder none s qid
    else match q.stage with
    | .scanning => updQuery s qid fun _ => if scanLast q ≤ b then endScan s ladder none b q else endStreams s ladder b q
    | .bridging =>
      let rest := 1 + (if q.p.rr = 0 || q.dropRerank then 0 else 2) + q.gatherBeads
      if q.deadline - rest ≤ b then dropBridges s q else s
    | .reranking => dropVectors s none (vectorsIn s q) q
    | _ => s

/-- A query of a detached collection ends in the detach bead; what it did not search carries DETACHED (R30). -/
def detachQuery (s : State) (qid : Nat) : State := onQuery s qid fun s _ => forceEnd false (some 11) s qid

/-- Sketch and code streams past the stream cut of all their queries are cancelled (R228, R232). -/
def endListStreams (s : State) : State :=
  let open_ (t : Task) (q : Query) : Bool := q.stage == .scanning && decide (beadNow s < takeLast q t.kind (q.deep t.seg))
  cancelTasks s fun t => (t.kind == .sketch || t.kind == .code) && !t.qids.isEmpty && !t.cancelled &&
    !t.qids.any fun id => match findQuery s id with | some q => open_ t q | none => false

/-- Vector streams end at the cut point of the first rerank bead (R76, R232). -/
def endVectorStreams (s : State) : State :=
  cancelStage s (· == .vector) fun q => q.stage == .reranking && q.segs.any fun g => !g.toRerank.isEmpty

/-- The cut point for queries and reads. -/
def cutQueries (s : State) : State :=
  let (ladder, s1) := drawBool s
  let ids := s1.search.queries.map fun q => (q.qid, q.coll)
  let s2 := ids.foldl (fun t (id, c) => if isDetached t c then detachQuery t id else cutQuery ladder t id) s1
  let s3 := endListStreams s2
  let s4 := cancelStage s3 (· == .bridge) fun q => q.stage == .bridging && !q.bridgeTargets.isEmpty
  let s5 := endVectorStreams (cancelStage s4 (· == .row) fun q => q.stage == .gathering)
  let late := s5.search.reads.filter fun r => decide (r.deadline ≤ beadNow s) || isDetached s5 r.coll
  late.foldl (fun t r => answerRead t r 0x0501) s5

/-- Replies of this bead that are still to be formed leave before its edge (R100, R111). -/
def repliesDue (s : State) : State :=
  let due := s.search.queries.filter fun q => q.local_ && q.stage == .done &&
    (decide (q.deadline ≤ beadNow s) || isDetached s q.coll)
  (sortBy replyBefore due).foldl replySearch s

end Sys2Proof.Machine
end

