-- ==== Sys2Proof/Machine/Detach.lean ====
section
/-! DEFINITION. COLLECTION_DETACH and COLLECTION_DELETE: the decision that ends the collection's admissions and cuts its
reads, and the end of its work (R29, R30, R159, R185, R219, R285). -/

namespace Sys2Proof.Machine

/-- Queries and reads of a collection whose detach is decided after the cut point of its bead end at once (R30). -/
def cutColl (s : State) (id : Nat) : State :=
  let qs := (s.search.queries.filter fun q => q.coll == id).map Query.qid
  let s1 := qs.foldl detachQuery s
  (s1.search.reads.filter fun r => r.coll == id).foldl (fun t r => answerRead t r 0x0501) s1

/-- Decide a COLLECTION_DETACH or a COLLECTION_DELETE. A DELETE may follow a DETACH whose work has not ended, and a collection
on its way to absent takes neither (R29). -/
def decideDetach (isDelete : Bool) (s : State) (c : Cmd) : State :=
  let id := c.ref.coll
  match getColl s id with
  | none => replyRefuse s c 0x0203
  | some k =>
    let leaving := k.thenDelete.isSome || match k.work with | some (_, del) => del || !isDelete | none => false
    match firstBad [(leaving || (!isDelete && !k.attached), 0x0205), (lenBad c 0, 0x0106)] with
    | some st => replyRefuse s c st
    | none =>
      if k.work.isSome then updColl (running s c) id fun k => { k with thenDelete := some c.ref }
      else
        let s1 := beginDetach (running s c) id (some (c.ref, isDelete))
        if s.time.cut then cutColl s1 id else s1

def execCollectionDetach (c : Capsule) (s : State) : Res := .next (receive 0x84 c (decideDetach false) s)
def execCollectionDelete (c : Capsule) (s : State) : Res := .next (receive 0x82 c (decideDetach true) s)

/-- Work of a collection that is still open: searches, reads, admitted writes, a merge, a promotion or a learning run that
stops at the next edge. -/
def collBusy (s : State) (id : Nat) (c : Coll) : Bool :=
  (s.search.queries.any fun q => q.coll == id) || (s.search.reads.any fun r => r.coll == id) ||
    (s.queues.cmds.any fun x => x.uncommitted && x.ref.coll == id) || c.merge.isSome || c.promo.isSome || (runOf s id).isSome

/-- The collection's key leaves the locket with it (R219). -/
def dropKey (s : State) (id : Nat) : State := s.modLocket fun l => { l with keys := l.keys.del id }

/-- A delete: contents, units, records and key go; flash and slots are free from the next bead (R29, R185). -/
def removeColl (s : State) (id : Nat) (c : Coll) : State :=
  let s1 := s.modPools fun p => { p with
    relFlash := p.relFlash + ceilDiv c.params.flashBytes pageSize
    relSlots := p.relSlots ++ [(c.slotBase, c.params.slotCap)]
    relRd := p.relRd + (if c.recent.isEmpty then 0 else c.params.rdShare) }
  let s2 := s1.modFlash fun f => { f with
    units := f.units.filter fun u => u.coll != id
    fresh := f.fresh.filter fun u => u.coll != id
    wbuf := f.wbuf.filter fun r => r.coll != id
    after := f.after.filter fun r => r.coll != id }
  let s3 := dropObjects s2 fun o => o.op == 0x20 && o.coll == id
  dropKey (dropCounts { s3 with colls := s3.colls.del id } fun k => k.coll == id) id

/-- COLLECTION_WORK_END: the work of a detach or delete has ended, and the command replies with this bead. -/
def endWork (s : State) (id : Nat) (c : Coll) (r : CmdRef) (isDelete : Bool) : State :=
  let s1 := if c.pages.isEmpty then s else releaseTiers s c
  let s2 := updColl s1 id fun c => { c with work := none, pages := [], hbmPlacedNow := 0 }
  let done := areaPut 0 32 8 (beadNow s)
  let s3 := if isDelete || c.thenDelete.isSome then removeColl s2 id c else s2
  let s4 := answer s3 r.queue r.tag 0 done []
  match c.thenDelete with
  | some d => answer s4 d.queue d.tag 0 done []
  | none => s4

def execCollectionWorkEnd (coll : Nat) (s : State) : Res :=
  .next (match getColl s coll with
  | none => s
  | some c => match c.work with
    | none => s
    | some (r, isDelete) => if isUp s && !collBusy s coll c then endWork s coll c r isDelete else s)

end Sys2Proof.Machine
end

