-- ==== Sys2Proof/Machine/Ladder.lean ====
section
/-! DEFINITION. The translation layer: drain of the write buffer (R211), background work (R202, R203), the stripe class
(R204, R205) and the recovery ladder (R206). -/

namespace Sys2Proof.Machine

/-! ## Blocks and units -/

def findUnit (s : State) (coll page : Nat) : Option Unit64 := s.flash.units.find? fun u => u.coll == coll && u.page == page
def findBlock (s : State) (c n : Nat) : Option Block := s.flash.blocks.find? fun b => b.chan == c && b.num == n
def updBlock (s : State) (c n : Nat) (f : Block → Block) : State :=
  s.modFlash fun r => { r with blocks := r.blocks.map fun b => if b.chan = c && b.num = n then f b else b }

def inBlock (c n : Nat) (u : Unit64) : Bool := u.chan == c && u.block == n

/-- Valid units of a block. -/
def validUnits (s : State) (c n : Nat) : Nat := s.flash.units.countP (inBlock c n)

/-- A channel that serves reads and programs now. -/
def chanServes (s : State) (c : Nat) : Bool := let st := (getFlashCh s c).state; st == 0 || st == 2

/-- A place that a program may take: a block that still takes units, or the free block with the lowest erase count of the
channel; a wear move takes a worn block, one above the mean erase count of its channel (log entry 114). A stripe-class page lies where R204 puts it, with at most one of its channels
bypassed (R205). -/
def mayProgram (s : State) (coll page chan block : Nat) (wear : Bool) : Bool :=
  let free := s.flash.blocks.filter fun b => b.chan == chan && !b.full
  let lowest := match findBlock s chan block with
    | some b => if wear then (eraseStats s chan).1 < b.erase else b.full || free.all fun x => b.erase ≤ x.erase
    | none => !wear
  let group := stripeGroup coll page
  if stripePage s coll page then
    chan == stripeChannel coll page 0 && group.all (fun c => (getFlashCh s c).state != 1) && group.countP (bypassed s) ≤ 1
  else chan < 64 && chanServes s chan && lowest

/-! ## Drain (R211) -/

/-- Fresh units whose switch may be journalled now: every record merged into one of them has all its pages among them. -/
def readyUnits (recs : List WriteRec) : Nat → List Unit64 → List Unit64
  | 0, us => us
  | n + 1, us =>
    let has (coll page : Nat) : Bool := us.any fun v => v.coll == coll && v.page == page
    let ok (u : Unit64) : Bool := recs.all fun r => r.coll != u.coll || !r.drained.contains u.page || r.pages.all (has r.coll)
    readyUnits recs n (us.filter ok)

/-- One journal record switches the ready units; the records they hold leave the buffer, and their bytes are free from the next
bead (R211, R213, R24). One that leaves ahead of an earlier record of its collection is remembered for the prefix of R214. -/
def journalUnits (s : State) : State :=
  let f := s.flash
  let us := readyUnits f.wbuf f.fresh.length f.fresh
  let has (coll page : Nat) : Bool := us.any fun v => v.coll == coll && v.page == page
  let out (r : WriteRec) : Bool := r.pages.all fun p => r.drained.contains p && has r.coll p
  if us.isEmpty then s
  else
    let left := f.wbuf.filter fun r => !out r
    let early (r : WriteRec) : Bool := left.any fun x => x.coll == r.coll && x.seq < r.seq
    let host := sumN ((f.wbuf.filter fun r => r.host && out r).map WriteRec.occ)
    (s.modFlash fun f => { switchUnits us f with
      fresh := f.fresh.filter fun u => !us.contains u
      wbuf := left
      after := (f.after ++ f.wbuf.filter out).filter early }).modPools fun p => { p with relBuf := p.relBuf + host }

/-- Bytes of a page that no record covers read as zero from now on: those of a lost unit (R206). -/
def zeroFill (s : State) (coll page : Nat) (rs : List WriteRec) : State :=
  let keep (off : Nat) : Bool := off / pageSize != page || rs.any fun r => r.off ≤ off && off < r.off + r.len
  let blank (base : Nat) (bs : List Byte) : List Byte := bs.zipIdx.map fun (v, i) => if keep (base + i) then v else 0
  updColl s coll fun c => { c with items := c.items.map fun (x, it) =>
    (x, { it with vector := it.vector.map (blank (vectorOff c x)), row := blank (rowOff c x) it.row }) }

/-- A unit drains: its records are merged into its content and programmed; a lost unit is filled with zeros and reported. The
map entries switch once every unit of the records is programmed (R206, R211, R213). -/
def drainUnit (s : State) (coll page chan block : Nat) (rs : List WriteRec) : State :=
  let s1 := if coversPage page rs then s
    else match findUnit s coll page with
      | some u =>
        if u.lost then raiseEvent (zeroFill s coll page rs) 0x0402 (leBytes 2 coll ++ [0, 0] ++ leBytes 4 page)
        else countBlockRead s coll page
      | none => s
  let mark (r : WriteRec) : WriteRec :=
    if r.coll = coll && r.pages.contains page && !r.drained.contains page then { r with drained := r.drained ++ [page] } else r
  journalUnits (s1.modFlash fun f => { f with
    fresh := putUnit (newUnit s coll page chan block) f.fresh
    blocks := useBlock chan block f.blocks
    wbuf := f.wbuf.map mark })

/-- UNIT_DRAIN: the records of one mapping unit are coalesced, programmed at a place and journalled, behind every query read of
the channel (R203). -/
def execUnitDrain (coll page chan block : Nat) (s : State) : Res :=
  let rs := pendingRecs s coll page
  .next (if (isUp s || s.power.flushing) && !rs.isEmpty && channelFree s chan && mayProgram s coll page chan block false then
    drainUnit s coll page chan block rs
  else s)

/-! ## Background work (R202, R203) -/

/-- Relocation is paused: by the power policy, or on a channel whose package is at 80 °C (R365, R366). -/
def relocPaused (s : State) (c : Nat) : Bool := s.power.pkgPaused || (getFlashCh s c).hot80

/-- Whether background work may run on a channel. -/
def background (s : State) (c : Nat) : Bool := isUp s && chanServes s c && !relocPaused s c && channelFree s c

/-- Mark units for relocation. -/
def moveUnits (s : State) (wear : Bool) (p : Unit64 → Bool) : State :=
  s.modFlash fun f => { f with units := f.units.map fun u => if p u && !u.moving then { u with moving := true, worn := wear } else u }

/-- Blocks of a channel that hold units. -/
def usedBlocks (s : State) (c : Nat) : List Block := s.flash.blocks.filter fun b => b.chan == c && b.full

/-- flash.wear: a channel's mean erase count reaches 80 % and 95 % of the rated count (R202). -/
def wearEvents (s : State) (c : Nat) : State :=
  let mean := (eraseStats s c).1
  let rated := s.flash.rated.toNat
  let up (t : State) (pct : Nat) : State :=
    if rated != 0 && rated * pct ≤ 100 * mean && (getFlashCh t c).wearLevel < pct then
      raiseEvent (updFlashCh t c fun k => { k with wearLevel := pct }) 0x0401 [BitVec.ofNat 8 c, BitVec.ofNat 8 pct]
    else t
  up (up s 80) 95

/-- A block without valid units is erased and free. -/
def eraseBlock (s : State) (c n : Nat) : State :=
  wearEvents (updBlock s c n fun b => { b with erase := b.erase + 1, reads := 0, full := false, collecting := false }) c

/-- The block among some with the least value, the lowest number among equals. -/
def leastBlock (f : Block → Nat) (bs : List Block) : Option Block :=
  bs.foldl (fun m b => match m with
    | none => some b
    | some x => if f b < f x || (f b == f x && b.num < x.num) then some b else m) none

/-- WEAR_LEVELLING: erase counts that spread by more than 500 cycles; the units of the least worn block, the coldest,
go to worn blocks. -/
def execWearLevelling (c : Nat) (s : State) : Res :=
  let es := (s.flash.blocks.filter fun b => b.chan == c).map Block.erase
  let spread := es.foldl max 0 - es.foldl min (es.foldl max 0)
  .next (if background s c && 500 < spread then
    match leastBlock Block.erase ((usedBlocks s c).filter fun b => 0 < validUnits s c b.num) with
    | some b => moveUnits s true (inBlock c b.num)
    | none => s
  else s)

/-- The setting's limit of reads between two programs of a block. -/
def disturbLimit (s : State) : Nat := (carveOf s).disturb

def execReadDisturbRefresh (c block : Nat) (s : State) : Res :=
  .next (match findBlock s c block with
  | some b => if background s c && b.full && disturbLimit s ≤ b.reads then moveUnits s false (inBlock c block) else s
  | none => s)

/-- RETENTION_SCRUB: a block is read and its weak units, given by their places in the map, are relocated; a channel in SCRUB
is done once every block has been read (R202, R208). -/
def execRetentionScrub (c block : Nat) (weak : List Nat) (s : State) : Res :=
  .next (match findBlock s c block with
  | some b =>
    if background s c && b.full then
      let n := validUnits s c block
      let s1 := updBlock s c block fun b => { b with seen := true, reads := b.reads + n }
      let ws := weak.filterMap fun i => s.flash.units[i]?
      moveUnits s1 false fun u => inBlock c block u && ws.contains u
    else s
  | none => s)

/-- FREE_BLOCK_COLLECTION: the block with the fewest valid units, the lowest number among equals; it is erased once
they have moved. -/
def execFreeBlockCollection (c : Nat) (s : State) : Res :=
  .next (if background s c then
    match leastBlock (fun b => validUnits s c b.num) (usedBlocks s c) with
    | some b =>
      if validUnits s c b.num = 0 then eraseBlock s c b.num
      else moveUnits (updBlock s c b.num fun b => { b with collecting := true }) false (inBlock c b.num)
    | none => s
  else s)

/-- A unit that a relocation may move: one marked for it, one of a bypassed channel, rebuilt on another, and a stripe-class
page written without a channel that has returned (R203, R205, R208). -/
def mayMove (s : State) (u : Unit64) : Bool :=
  !u.lost && (u.moving || (bypassed s u.chan && !stripePage s u.coll u.page) ||
    match u.thin with | some c => !bypassed s c | none => false)

/-- RELOCATION_COMPLETE: the new copy is programmed and the map entry switches; until now the old copy served (R203). -/
def execRelocationComplete (unit chan block : Nat) (s : State) : Res :=
  .next (match s.flash.units[unit]? with
  | none => s
  | some u =>
    if isUp s && mayMove s u && !relocPaused s u.chan && !relocPaused s chan && channelFree s u.chan && channelFree s chan
        && mayProgram s u.coll u.page chan block u.worn then
      let s1 := programUnit (countBlockRead s u.coll u.page) u.coll u.page chan block
      match findBlock s1 u.chan u.block with
      | some b => if b.collecting && validUnits s1 u.chan u.block = 0 then eraseBlock s1 u.chan u.block else s1
      | none => s1
    else s)

/-! ## Recovery ladder (R206) -/

/-- What a read that took every step of the ladder leaves: its unit is lost, or one more fragment of a stripe-class page is, which
its other fragments serve until a second one is gone (R205, R206). -/
def ladderFails (s : State) (c coll page : Nat) : State :=
  let mine (x : Unit64) : Bool := x.coll == coll && x.page == page
  if stripePage s coll page then
    let s1 := s.modFlash fun f => { f with units := f.units.map fun x => if mine x then { x with bad := (x.bad ++ [c]).eraseDups } else x }
    if fragsGone s1 coll page < 2 then s1
    else lostRead (s1.modFlash fun f => { f with units := f.units.map fun x => if mine x then { x with lost := true, moving := false } else x })
      c coll (page * pageSize)
  else lostRead (s.modFlash fun f => { f with units := f.units.map fun x => if mine x then { x with lost := true, moving := false } else x })
    c coll (page * pageSize)

/-- RECOVERY_LADDER_END: its steps are counted; an uncorrectable read raises FLASH_UNCORR and marks the unit lost. The
ladder goes step by step: soft decode follows 8 retries, a rebuild follows soft decode, and a failed read took every step.
A stripe-class fragment, on any of its 16 channels, has no rebuild step, and a bypassed channel is read by rebuild alone. -/
def execRecoveryLadderEnd (c coll page : Nat) (r : LadderEnd) (s : State) : Res :=
  .next (match findUnit s coll page with
  | none => s
  | some u =>
    let stripe := stripePage s coll page
    let here := if stripe then (stripeGroup coll page).contains c && !bypassed s c && !u.bad.contains c else u.chan == c
    if !isUp s || u.lost || !here then s
    else
      let out := (getFlashCh s c).state == 3
      let n := if out then 0 else if r.recovered then min 8 r.retries else 8
      let soft := n == 8 && (r.soft || !r.recovered)
      let reb := (soft || out) && (r.rebuilt || !r.recovered) && !stripe
      let s1 := bumpN s (flashRetryCnt c) n
      let s2 := if soft then bump s1 (flashSoftCnt c) else s1
      let s3 := if reb then bump s2 (flashRebuildCnt c) else s2
      if r.recovered then s3 else ladderFails s3 c coll page)

end Sys2Proof.Machine
end

