-- ==== Sys2Proof/Machine/Load.lean ====
section
/-! DEFINITION. SETTING_LOAD and FIRMWARE_LOAD (R280, R314 to R334, R369, R370) and the completion of discovery (R299).
The outcome of a self-test or a training that a load runs is a free value, log entry 23. -/

namespace Sys2Proof.Machine

/-! ## Discovery complete (R299) -/

def linkSettled (s : State) (l : Nat) : Bool :=
  !linkEnabled s l || [linkActive, linkMismatch, linkIsDown].contains (getLink s l).state

/-- Discovery is complete once fabric time is held and every enabled link has settled; a module in a fabric then floods a
repair notice for itself (R303). -/
def checkDiscovery (s : State) : State :=
  if s.loader.discovering && s.time.held && (List.range 12).all (linkSettled s) then
    let s1 := s.modLoader fun l => { l with discovering := false, discovered := true }
    if (List.range 12).any (linkUp s1) then originate s1 (.module s1.fabric.addr) true else s1
  else s

/-! ## Self-tests with a free outcome -/

/-- A facet runs BIST during a load; one that fails is fenced, with BIST_FAIL (R330, R346). -/
def loadBist (s : State) (f : Nat) : State :=
  let (fail, s1) := drawBool s
  if fail then raiseSrc (fenceFacet s1 f 6) f 9 (.facet f) else updFacet s1 f fun x => { x with bistPass := true }

/-- The prong test (R331). -/
def loadProngTest (s : State) (c : Nat) : State :=
  let (fail, s1) := drawBool s
  let s2 := updFlashCh s1 c fun x => { x with prongFenced := fail, prongTest := false, prongClear := false }
  if fail then raiseSrc s2 72 9 (.prong c) else s2

/-- Training and MBIST of an HBM channel; one that passes both has MBIST_PASS (R336, R337). -/
def trainHbm (s : State) (ch : Nat) : State :=
  let (fail, s1) := drawBool s
  if fail then mapOut s1 ch true else updChan s1 ch fun c => { c with mbistPass := true }

/-- MBIST of a bank; one that passes has MBIST_PASS (R336). -/
def testBank (s : State) (b : Nat) : State :=
  let (fail, s1) := drawBool s
  if fail then fenceBank s1 b else setBank s1 b { getBank s1 b with mbistPass := true }

/-- Training of a flash channel: 2,400, 1,600 or 800 MT/s, or BYPASS (R194). -/
def trainFlash (s : State) (c : Nat) : State :=
  let (n, s1) := drawNat s
  if n % 4 = 3 then bypassCore s1 c else (updFlashCh s1 c fun x => { x with state := 0, rate := BitVec.ofNat 2 n }).modFlash fun f => { f with rated := Config.ratedErase }

/-! ## Verification (R369) -/

/-- The status of checks 2 to 4 of R329; 0 passes. -/
def signatureStatus (s : State) (slot : Nat) (key bs : List Byte) : BitVec 16 :=
  let n := bs.length
  match verifySigned s slot key (bs.take (n - 64)) (bs.drop (n - 64)) with
  | 0 => 0
  | 1 => 0x0404
  | _ => 0x0405

/-- The reply of a load: the register extended and the digest of the object (R280). -/
def loadArea (reg : Nat) (d : BitVec 256) : BitVec 320 := areaPut (areaPut 0 24 1 reg) 32 32 (leNat (digestBytes d))

/-! ## FIRMWARE_LOAD -/

/-- Layout of a firmware image (R370): its key slot and version. -/
def parseFirmware (bs : List Byte) : Option (Nat × BitVec 32) :=
  let e := dirEntry bs 0
  let total := fieldB bs 8 4
  if fieldB bs 0 4 = 0x57464E58 && fieldB bs 4 2 = 1 && fieldB bs 6 1 = 0 && fieldB bs 7 1 ≤ 1 && total = bs.length &&
      total % 8 = 0 && between 256 total 16777216 && fieldB bs 12 2 = 1 && fieldB bs 14 2 = 0xFFFF && allZero (sliceB bs 20 12) &&
      allZero (sliceB bs 32 32) && fieldB e 0 2 = 0x80 && allZero (sliceB e 2 2) && allZero (sliceB e 12 4) &&
      sectionsOk 144 (total - 64) [(fieldB e 4 4, fieldB e 8 4)] then
    some (fieldB bs 7 1, BitVec.ofNat 32 (fieldB bs 16 4))
  else none

/-- A verified image takes effect: the cores start, memory and channels are trained and tested (R336 step 4). -/
def applyFirmware (s : State) (v : BitVec 32) (d : BitVec 256) : State :=
  let s1 := extendMeas (s.modLoader fun l => { l with firmware := true, fwVersion := v, fwDigest := d }) 1 d
  let s2 := (List.range 256).foldl trainHbm s1
  (List.range 64).foldl trainFlash ((List.range 2048).foldl testBank s2)

def completeFirmware (s : State) (c : Cmd) (bs : List Byte) : State :=
  match parseFirmware bs with
  | none => replyRefuse s c 0x0108
  | some (slot, v) =>
    let st := signatureStatus s slot (sliceB bs 64 64) bs
    if st != 0 then replyRefuse s c st
    else
      let d := Config.sm3 bs
      replyOk (applyFirmware s v d) c (loadArea 1 d) []

def decideFirmwareLoad (s : State) (c : Cmd) : State :=
  if s.loader.firmware then refusePart s c 0x021C
  else if 16777216 < areaField c.cap.area 32 8 then refusePart s c 0x0108
  else match takePart s c 0 with
  | none => refusePart s c 0x0117
  | some o =>
    if isFinal c.ref.flags then completeFirmware (closeObject s c) c o.bytes
    else replyOk (stagePart s o c.cap.body.length) c 0 []

def execFirmwareLoad (c : Capsule) (s : State) : Res := .next (receive 0x89 c decideFirmwareLoad s)

/-! ## A full setting (R330, R332) -/

/-- Steps 1, 2 and 4: the sections in use; the map is rebuilt and the shutdown record sought once a power cycle. -/
def applySections (s : State) (t : Setting) (d : BitVec 256) : State :=
  let s1 := s.modLoader fun l =>
    { l with setting := some t, digest := d, partialCnt := 0, map := t.grouping.map, groups := t.grouping.groups,
             hold := t.grouping.hold, holdNext := none, pending := [], part := none, discovering := true, discovered := false }
  let s2 := (freshReactions s1).modLearn fun l => { l with driftW := t.driftW, driftD := t.driftD, nextW := none, nextD := none }
  if s2.flash.mapReady then s2
  else
    let bad := !s2.power.shutdownRecord
    let s3 := s2.modFlash fun f => { f with mapReady := true, unclean := bad }
    let s4 := s3.modPower fun p => { p with shutdownRecord := false }
    if bad then raiseEvent s4 0x0403 [] else s4

/-- Step 6: a new period or source takes fabric time away (R332). -/
def applyBead (s : State) (t : Setting) : State :=
  s.modTime fun b =>
    let same := b.started && b.periodUs == t.periodUs && b.source == t.source && b.sourceArg == t.sourceArg
    { b with periodUs := t.periodUs, source := t.source, sourceArg := t.sourceArg, started := true, held := b.held && same,
             holdover := b.holdover && same, ppsSynced := b.ppsSynced && same, cut := b.cut && same, gap := b.gap && same }

/-- Step 7: coordinates, and every enabled link enters TRAINING (R330, R332). -/
def applyFabric (s : State) (f : FabricSec) : State :=
  let s1 := s.modFabric fun r =>
    { r with addr := f.addr, assigned := true, len := f.len, faults := [], changes := [], notices := [], seen := [], bundles := [],
             branches := [], closed := [], shardCounts := [], dropped := [], early := [], asleep := [] }
  (List.range 12).foldl (fun u l =>
    updLink u l fun k => k.quiet (if linkEnabled u l then linkTraining else linkDisabled) 0) s1

/-- Facets that a full setting tests: every mapped facet and every spare. -/
def testedFacets (map : List Nat) : List Nat :=
  (List.range 68).filter fun f => f % 17 == 16 || map.contains f

def applySetting (s : State) (t : Setting) (d : BitVec 256) : State :=
  let s1 := s.modQueues fun u => { u with queues := u.queues.filter fun (q, _) => q < 16 }
  let s2 := applySections s1 t d
  let s3 := (testedFacets t.grouping.map).foldl loadBist s2
  let s4 := (List.range 64).foldl loadProngTest s3
  let s5 := applyFabric (applyBead s4 t) t.fabric
  extendMeas (checkDiscovery s5) 2 d

/-- A collection is attached, or a data queue has a tag in use (check 6 of R329). -/
def settingBusy (s : State) : Bool :=
  (s.colls.any fun (_, c) => c.attached || c.work.isSome) || s.queues.queues.any fun (q, u) => 16 ≤ q && u.tags != 0

/-! ## A partial setting (R333, R334) -/

/-- The rules of R333 and what a partial setting may change. -/
def partialOk (s : State) (h : SettingHead) (g : FacetGrouping) : Option GroupRec :=
  match groupOf s h.group, g.groups with
  | some old, [n] =>
    let outside (l : Nat) : Bool := !hasQuad old (quadOf l) && !hasQuad n (quadOf l)
    let mapOk := (List.range 64).all fun l => !outside l || g.map.getD l 0xFF == physOf s l
    let free := s.loader.groups.all fun r => r.id == n.id || r.quads &&& n.quads == 0
    let near := s.colls.all fun (_, c) => !(c.attached && c.att.pipeline == n.id && c.params.near) || onDie n c.params.nearDie
    if h.base = s.loader.digest && !old.learn && !n.learn && n.id = h.group && n.learnGroup = old.learnGroup && mapOk && free &&
        near then some n
    else none
  | _, _ => none

/-! ## SETTING_LOAD -/

/-- The checks of R329 on a complete setting, and its application or the start of a partial one. -/
def completeSetting (s : State) (c : Cmd) (group : Nat) (bs : List Byte) : State :=
  match parseHead bs with
  | none => replyRefuse s c 0x0108
  | some h =>
    let st := signatureStatus s h.slot h.key bs
    let d := Config.sm3 bs
    if st != 0 then replyRefuse s c st
    else if h.group != group || !presenceOk h then replyRefuse s c 0x0108
    else if h.kind = 0 then
      match parseSetting s.locket.copy.maxFabricLog2.toNat h with
      | none => replyRefuse s c 0x0108
      | some t => if settingBusy s then replyRefuse s c 0x021B else replyOk (applySetting s t d) c (loadArea 2 d) []
    else match parseGrouping ((sectionOf h 1).getD []) with
      | none => replyRefuse s c 0x0108
      | some g => match partialOk s h g with
        | none => replyRefuse s c 0x0108
        | some n =>
          let p : PartialRun := ⟨c.ref, n, g.map, d, .waitEdge, beadNow s + 1⟩
          (running s c).modLoader fun l => { l with part := some p }

def decideSettingLoad (s : State) (c : Cmd) : State :=
  let group := areaField c.cap.area 40 2
  if 67108864 < areaField c.cap.area 32 8 then refusePart s c 0x0108
  else match takePart s c group with
  | none => refusePart s c 0x0117
  | some o =>
    if isFinal c.ref.flags then completeSetting (closeObject s c) c group o.bytes
    else replyOk (stagePart s o c.cap.body.length) c 0 []

def execSettingLoad (c : Capsule) (s : State) : Res := .next (receive 0x88 c decideSettingLoad s)

/-! ## Steps of a partial setting -/

/-- Queries of a pipeline that are in flight. -/
def pipelineBusy (s : State) (g : Nat) : Bool :=
  s.search.queries.any fun q => match getColl s q.coll with | some c => c.att.pipeline == g | none => false

/-- The new record and map of a partial setting are loaded, and newly mapped facets run BIST behind their fence (R334
step 3). -/
def partialLoad (s : State) (p : PartialRun) : State :=
  let old := (facetsOf s p.group.id).map (physOf s)
  let groups := s.loader.groups.map fun g => if g.id = p.group.id then p.group else g
  let s1 := s.modLoader fun l => { l with map := p.map, groups := groups, part := some { p with step := .fenced } }
  let now := ((facetsOf s1 p.group.id).map (physOf s1)).filter fun f => f != 0xFF && !old.contains f
  freshReactions (now.foldl (fun t f => loadBist (updFacet t f fun x => { x with fenced := true, reason := 5 }) f) s1)

/-- PARTIAL_SETTING_FENCE: with no query of the pipeline in flight the group is fenced and loaded (R334 steps 2 and 3). -/
def execPartialSettingFence (s : State) : Res :=
  .next (match s.loader.part with
  | some p =>
    if isUp s && p.step == .drain && !pipelineBusy s p.group.id then
      let fs := ((facetsOf s p.group.id).map (physOf s)).filter (· != 0xFF)
      partialLoad (fs.foldl (fun t f => fenceFacet t f 5) s) p
    else s
  | none => s)

/-- Release the facets that the partial setting fenced. -/
def releasePartial (s : State) : State :=
  { s with facets := s.facets.map fun x => if x.fenced && x.reason = 5 then { x with fenced := false, reason := 0 } else x }

/-- PARTIAL_SETTING_RELEASE: the loaded group is released at the next edge (R23). -/
def execPartialSettingRelease (s : State) : Res :=
  .next (match s.loader.part with
  | some p =>
    if isUp s && p.step == .fenced then s.modLoader fun l => { l with part := some { p with step := .loaded } } else s
  | none => s)

/-- The edge after loading: the group is released, SETTING_LOAD replies, and admission reopens (R23, R334 step 4). -/
def partialRelease (s : State) : State :=
  match s.loader.part with
  | some p =>
    if p.step == .loaded then
      let s1 := (releasePartial s).modLoader fun l => { l with part := none, partialCnt := l.partialCnt + 1 }
      answer (extendMeas s1 3 p.digest) p.ref.queue p.ref.tag 0 (loadArea 3 p.digest) []
    else s
  | none => s

end Sys2Proof.Machine
end

