-- ==== Sys2Proof/Machine/Fabric.lean ====
section
/-! DEFINITION. Messages and flits that arrive over the fabric: discovery (R297, R298), the link layer (R294 to R296),
notices (R303, R304), and the query, list and gather messages of the clasp trees (R97, R104, R307 to R311). -/

namespace Sys2Proof.Machine

/-! ## Discovery (R296 to R299) -/

/-- The source FABRIC_LINK_DOWN lets go of its pin when every link that was DOWN has passed its retrain and discovery,
FABRIC_MISMATCH when none is in MISMATCH (R408). -/
def dropLinkPins (s : State) : State :=
  let any (p : Link → Bool) : Bool := (List.range 12).any fun l => p (getLink s l)
  let s1 := if any Link.out then s else dropPins s 72 (bit64 11)
  if any (fun k => k.state == linkMismatch) then s1 else dropPins s1 72 (bit64 12)

/-- The test pattern of a LOOPBACK is over by the next edge: the link is DOWN until RETRAIN. DESIGN CHOICE, log entry 72. -/
def endLoopback (s : State) (l : Nat) : State :=
  updLink s l fun k => if k.state = linkLoop then { k.quiet linkIsDown 0 with stay := true } else k

/-- The bytes of an IDENT message that its signature covers, in the order of R297. -/
def identBytes (m : IdentMsg) : List Byte :=
  leBytes 16 m.deviceId.toNat ++ beBytes 64 m.pubKey.toNat ++ m.cert ++ leBytes 4 (m.addr.toNat + m.link * 2 ^ 20) ++
    leBytes 4 m.periodUs ++ leBytes 8 m.fabricId.toNat ++ leBytes 16 m.nonce.toNat ++ leBytes 4 m.partner.toNat

/-- The IDENT message of this end of a link, for a nonce of the other end (R297). -/
def ownIdent (s : State) (l : Nat) (peer : BitVec 128) : Option IdentMsg :=
  match s.locket.idKey, s.loader.setting with
  | some key, some t =>
    let pub := Config.sm2Public key
    let m : IdentMsg :=
      { deviceId := s.locket.deviceId, pubKey := pub, cert := Config.identityCert s.locket.deviceId pub, addr := s.fabric.addr
        link := l, periodUs := t.periodUs, fabricId := t.fabric.fabricId, nonce := peer
        partner := if l < 10 then 0 else (expressOf s (l - 10)).getD 0, sig := 0 }
    some { m with sig := Config.sm2Sign key (identBytes m) }
  | _, _ => none

/-- A link passes training: it enters IDENT, the ends exchange nonces, and this end sends its IDENT message (R297).
The far end's nonce arrives with the row, log entry 111. -/
def enterIdent (s : State) (l : Nat) (peer : BitVec 128) : State :=
  let (n, s1) := drawNat s
  let nonce := (Config.random256 n).setWidth 128
  let s2 := emit (updLink s1 l fun k => { k with state := linkIdent, nonce := nonce }) (.linkNonce l nonce)
  match ownIdent s l peer with
  | some m => emit s2 (.identMsg l m)
  | none => s2

/-- LINK_TRAINING_COMPLETE: the training passed, with the far end's nonce, or failed. -/
def execLinkTrainingComplete (l : Nat) (peer : Option (BitVec 128)) (s : State) : Res :=
  .next (if isUp s && (getLink s l).state = linkTraining then
    match peer with
    | some n => enterIdent s l n
    | none => checkDiscovery (linkDown s l)
  else s)

/-- The certificate chains to a key of an unrevoked slot of this module (R377). -/
def certHolds (s : State) (m : IdentMsg) : Bool :=
  let f := s.locket.fuses
  (List.range 2).any fun i => !f.revoked.getLsbD i && rootDigest f i != 0 && Config.certValid m.cert m.pubKey m.deviceId (rootDigest f i)

/-- The check of R298 that fails first, as FABRIC_LINK_STATE codes it; 0 when every one passes. -/
def identCause (s : State) (l : Nat) (m : IdentMsg) : Nat :=
  match s.loader.setting with
  | none => 1
  | some t =>
    let far := farEnd s l == some m.addr.toNat &&
      (if l < 10 then m.link == (if l % 2 = 0 then l + 1 else l - 1) else m.partner == s.fabric.addr)
    let want := t.fabric.expected.getD l 0
    if !certHolds s m || m.nonce != (getLink s l).nonce || !Config.sm2Verify m.pubKey (identBytes m) m.sig then 1
    else if m.fabricId != t.fabric.fabricId then 2
    else if m.periodUs != t.periodUs then 3
    else if !far then 4
    else if want != 0 && want != m.deviceId then 5
    else 0

/-- IDENT: the link becomes ACTIVE at the next edge, or MISMATCH at once. -/
def takeIdent (s : State) (l : Nat) (m : IdentMsg) : State :=
  let cause := identCause s l m
  let st := if cause = 0 then linkIdent else linkMismatch
  let s1 := updLink s l fun k =>
    { k with state := st, cause := cause, farAddr := m.addr, farLink := BitVec.ofNat 4 m.link, activate := decide (cause = 0) }
  if cause = 0 then s1 else checkDiscovery (raiseCond s1 72 12 (.link l))

def execIdent (l : Nat) (m : IdentMsg) (s : State) : Res :=
  .next (if isUp s && (getLink s l).state = linkIdent && !(getLink s l).activate then takeIdent s l m else s)

/-- Links whose checks passed become ACTIVE at an edge; one that was known as failed floods a repair notice (R296, R303). -/
def activateLinks (s : State) : State :=
  let s0 := (List.range 12).foldl endLoopback s
  let go := (List.range 12).filter fun l => (getLink s0 l).activate
  let s1 := go.foldl (fun t l => updLink t l fun k => { k with state := linkActive, activate := false, out := false }) s0
  let s2 := go.foldl (fun t l =>
    let e : Elem := .link t.fabric.addr l
    if knownFault t e then originate t e true else t) s1
  checkDiscovery (dropLinkPins s2)

/-- Links still training 200 ms after the SETTING_LOAD reply are set DOWN. -/
def execDiscoveryTimeout (s : State) : Res :=
  .next (if isUp s && s.loader.discovering then
    let late := (List.range 12).filter fun l => (getLink s l).state == linkTraining
    checkDiscovery (late.foldl linkDown s)
  else s)

/-- LINK_DOWN: failed training, 16 retries of a flit, an unanswered RETRY, lost alignment, or too many uncorrectable
codewords. -/
def execLinkDown (l : Nat) (s : State) : Res :=
  .next (if isUp s && [linkTraining, linkIdent, linkActive].contains (getLink s l).state then checkDiscovery (linkDown s l) else s)

/-- Every second a DOWN link is retrained, one that a LOOPBACK left DOWN apart (R296). -/
def execLinkRetrainTimer (l : Nat) (s : State) : Res :=
  .next (if isUp s && linkEnabled s l && (getLink s l).state = linkIsDown && !(getLink s l).stay then updLink s l fun k => k.quiet linkTraining 0 else s)

/-! ## Flits (R294, R295) -/

def maxRetries : Nat := 16

/-- Flits of the replay buffer behind an acknowledged number; all of them where it is not among them. -/
def ackReplay (seq : BitVec 16) (fs : List Flit) : List Flit :=
  if fs.any fun f => f.seq == seq then (fs.dropWhile fun f => f.seq != seq).drop 1 else fs

/-- CREDIT: covered flits leave the replay buffer, the sender gains credit, and waiting flits go. -/
def takeCredit (s : State) (l : Nat) (ack : BitVec 16) (cls buf n : Nat) : State :=
  let k := getLink s l
  let left := ackReplay ack k.replay
  let ix := creditIx cls buf
  let add (c : List Nat) : List Nat := if cls < 3 && buf < 3 then updAt c ix fun x => min (Link.reset.credit.getD ix 0) (x + n) else c
  drainWait l (updLink s l fun k =>
    { k with replay := left, retries := if left.length < k.replay.length then 0 else k.retries, credit := add k.credit })

def execCredit (l : Nat) (ackSeq : BitVec 16) (cls buf : BitVec 2) (n : BitVec 12) (s : State) : Res :=
  .next (if isUp s && linkUp s l then takeCredit s l ackSeq cls.toNat buf.toNat n.toNat else s)

/-- RETRY: what came before the named number has arrived; the rest is replayed in order. The sixteenth replay of one flit
takes the link down. -/
def takeRetry (s : State) (l : Nat) (seq : BitVec 16) : State :=
  let k := getLink s l
  let left := k.replay.dropWhile fun f => f.seq != seq
  if left.isEmpty then s
  else
    let n := if left.length < k.replay.length then 1 else k.retries + 1
    let s1 := bump (updLink s l fun k => { k with replay := left, retries := n }) (flitRetryCnt l)
    if maxRetries ≤ n then checkDiscovery (linkDown s1 l)
    else left.foldl (fun t f => emit t (.flit l f.seq f.cls f.buf)) s1

def execRetry (l : Nat) (seq : BitVec 16) (s : State) : Res :=
  .next (if isUp s && linkUp s l then takeRetry s l seq else s)

/-- FLIT_ERROR: the flit and its successors are discarded until the expected one comes; one RETRY asks for it. -/
def execFlitError (l : Nat) (uncorrectable : Bool) (s : State) : Res :=
  .next (if isUp s && linkUp s l then
    let s1 := if uncorrectable then bump s (fecUncorrCnt l) else s
    let k := getLink s1 l
    if k.awaitRetry then s1 else emit (updLink s1 l fun k => { k with awaitRetry := true }) (.retryFlit l k.rxSeq)
  else s)

/-- A message arrives whole and in order: its flits are numbered on. -/
def flitsIn (s : State) (l : Nat) (b : MsgBody) : State :=
  updLink s l fun k => { k with rxSeq := k.rxSeq + BitVec.ofNat 16 (flitsOf b.cls 0 b.bytes).length, awaitRetry := false }

/-! ## Notices (R303, R304) -/

/-- The applied fault set gains an element or loses it; the bead of the change is kept for trees of earlier beads (R306). -/
def noteChange (s : State) (e : Elem) (repair : Bool) : State :=
  s.modFabric fun r => { r with
    faults := if repair then r.faults.filter (· != e) else r.faults ++ [e], changes := r.changes ++ [(beadNow s, e, repair)] }

/-- Apply a notice to the fault set; a fault that finds it full is not applied. -/
def applyNotice (s : State) (h : HeldNotice) : State :=
  let e := h.n.elem
  if h.repair then
    let s1 := if s.fabric.faults.contains e then noteChange s e true else s
    if s1.fabric.faults.length < maxFaults then dropPins s1 72 (bit64 13) else s1
  else if s.fabric.faults.contains e then s
  else if maxFaults ≤ s.fabric.faults.length then raiseCond s 72 13 .nothing
  else noteChange s e false

/-- Notices whose effective bead begins or has begun. -/
def applyDue (s : State) (b : Nat) : State :=
  let due := s.fabric.notices.filter fun h => h.n.effBead ≤ b
  due.foldl applyNotice (s.modFabric fun r => { r with notices := r.notices.filter fun h => b < h.n.effBead })

/-- A notice arrives: forwarded once, held for its effective bead, or applied at once and counted when that has begun. -/
def takeNotice (s : State) (l : Nat) (n : Notice) (repair : Bool) : State :=
  if s.fabric.seen.contains (n.origin, n.num, repair) then s
  else
    let s1 := s.modFabric fun r => { r with seen := r.seen ++ [(n.origin, n.num, repair)] }
    let s2 := flood s1 n repair (some l)
    if n.effBead ≤ beadNow s then applyNotice (bump s2 lateNoticeCnt) ⟨n, repair⟩
    else s2.modFabric fun r => { r with notices := r.notices ++ [⟨n, repair⟩] }

def execFaultNotice (l : Nat) (n : Notice) (s : State) : Res :=
  .next (if isUp s && linkUp s l then takeNotice (flitsIn s l (.fault n)) l n false else s)

def execRepairNotice (l : Nat) (n : Notice) (s : State) : Res :=
  .next (if isUp s && linkUp s l then takeNotice (flitsIn s l (.repair n)) l n true else s)

/-! ## Query messages at a member (R307, R310) -/

def hdrSrc (h : MsgHdr) : BitVec 20 := h.src.setWidth 20

/-- A copy of this query has come before: a replay of its bundle. -/
def sameQuery (h : MsgHdr) (b : Bundle) : Bool :=
  b.tree == h.tree.toNat && b.root == h.qroot && b.bead == h.bundle && b.queries.any fun q => q.1.qserial == h.qserial

/-- The tree of a message: its id in the low 12 bits (R300). -/
def treeBy (s : State) (low : Nat) : Option TreeRec :=
  match s.loader.setting with
  | some t => t.fabric.trees.find? fun r => r.id % 4096 == low
  | none => none

/-- Take up a query of another root, received in bead `got`: it runs here when admission is open, its collection is
attached under the tree and its reservations fit. Its list is its only answer, so the reference of its command stays
unused. -/
def joinQuery (s : State) (h : MsgHdr) (range : Bool) (c : Capsule) (got : Nat) : State :=
  match getColl s c.coll.toNat with
  | none => s
  | some k =>
    if admitStatus s != 0 || !k.attached || k.att.tree % 4096 != h.tree.toNat || pipelineClosed s k.att.pipeline then s
    else match parseQuery k c with
    | .error _ => s
    | .ok b =>
      let p := queryParams range (groupProbe s k.att.pipeline) c (emptyQuery b)
      let ref : CmdRef := ⟨if range then 2 else 1, 0, 0, 0, c.coll.toNat, c.flags, c.cookie⟩
      let q := buildQuery s k ref false got h.bundle c.deadline.toNat h.qroot h.qserial p b
      if (reserveBad s k q).isSome then s else enterQuery s q

/-- A query that arrives in P0 is taken up; in a lower state or after a preparation has begun it is held and wakes the
module like a capsule (R260, R261). -/
def joinOrHold (s : State) (h : MsgHdr) (range : Bool) (c : Capsule) : State :=
  if decidesNow s then joinQuery s h range c (beadNow s)
  else wakeUp (s.modFabric fun r => { r with asleep := r.asleep ++ [(h, range, c, beadNow s)] }) 0x01

/-- At P0 the queries that waited are taken up in their order of arrival. -/
def joinAsleep (s : State) : State :=
  s.fabric.asleep.foldl (fun t (h, r, c, got) => joinQuery t h r c got) (s.modFabric fun r => { r with asleep := [] })

/-- QUERY: copied to the children and into this module's own endpoint. -/
def takeQuery (s : State) (h : MsgHdr) (range : Bool) (c : Capsule) : State :=
  if s.fabric.bundles.any (sameQuery h) then s
  else
    let s1 := match treeBy s h.tree.toNat with
      | some t => passQuery s t h.qroot h.bundle h range c
      | none => s
    joinOrHold s1 h range c

/-- Send a bundle message to some members: it names the bundle, and carries this module's bead number (R104). -/
def sendBundle (s : State) (b : Bundle) (body : MsgBody) (kids : List (BitVec 20)) : State :=
  kids.foldl (fun t k => nextHop t { queryHdr t k 1 1 b.root 0 b.tree with bundle := b.bead } body) s

def updBranch (s : State) (b : Bundle) (child : BitVec 20) (f : Branch → Branch) : State :=
  let same (x : Branch) : Bool := x.tree == b.tree && x.root == b.root && x.child == child
  s.modFabric fun r => { r with
    branches := if r.branches.any same then r.branches.map fun x => if same x then f x else x
      else r.branches ++ [f ⟨b.tree, b.root, child, false, []⟩] }

def sameBundle (b x : Bundle) : Bool := x.tree == b.tree && x.root == b.root && x.bead == b.bead

/-- Drop a bundle for a branch: BUNDLE_DROP names its bead (R309). -/
def dropBundle (s : State) (b : Bundle) (child : BitVec 20) : State :=
  let cut (x : Bundle) : Bundle := if sameBundle b x then { x with unacked := x.unacked.filter (· != child) } else x
  let s1 := s.modFabric fun r => { r with bundles := r.bundles.map cut }
  let s2 := updBranch s1 b child fun x => { x with dropped := x.dropped ++ [b.bead] }
  bump (sendBundle s2 b .bundleDrop [child]) branchDropCnt

/-- Send a whole bundle to one branch by unicast from the replay buffer, or drop it where it is not held (R309). -/
def replayBundle (child : BitVec 20) (s : State) (b : Bundle) : State :=
  if b.kept then
    sendBundle (b.queries.foldl (fun t (h, r, c) => nextHop t (readdress t h child 1) (.query r c)) s) b .bundleEnd [child]
  else dropBundle s b child

/-- Close a bundle here: its end goes to the children that multicast reaches, the whole bundle to those that are demoted
(R307, R309). -/
def closeBundle (s : State) (p : Bundle → Bool) : State :=
  let hit := s.fabric.bundles.filter fun b => p b && !b.closed
  let s1 := s.modFabric fun r => { r with bundles := r.bundles.map fun b => if p b then { b with closed := true } else b }
  hit.foldl (fun t b =>
    let t1 := sendBundle t b .bundleEnd (b.unacked.filter fun k => !isDemoted t b.tree b.root k)
    (b.unacked.filter fun k => isDemoted t b.tree b.root k).foldl (fun u k => replayBundle k u b) t1) s1

def isBundle (h : MsgHdr) (b : Bundle) : Bool := b.tree == h.tree.toNat && b.root == h.qroot && b.bead == h.bundle

/-- BUNDLE_END: the member holds the whole bundle; it acknowledges to its parent and passes the end on. -/
def takeBundleEnd (s : State) (h : MsgHdr) : State :=
  match treeBy s h.tree.toNat with
  | none => s
  | some t =>
    let ms := membersFrom s t h.qroot h.bundle
    let parent := addrAt ms (parentOf t.fan (posOf ms s.fabric.addr))
    let s1 := nextHop s { queryHdr s parent 1 1 h.qroot 0 t.id with bundle := h.bundle } .bundleAck
    closeBundle s1 (isBundle h)

/-- BUNDLE_ACK of a child (R309). -/
def takeBundleAck (s : State) (h : MsgHdr) : State :=
  let f (b : Bundle) : Bundle := if isBundle h b then { b with unacked := b.unacked.filter (· != hdrSrc h) } else b
  s.modFabric fun r => { r with bundles := r.bundles.map f }

/-- BUNDLE_DROP: this member never receives the bundle's queries (R310). -/
def takeBundleDrop (s : State) (h : MsgHdr) : State :=
  s.modFabric fun r => { r with dropped := r.dropped ++ [(h.bundle, h.qroot)] }

/-! ## Leaving a lower power state -/

/-- EXIT_COMPLETE: P0 is reached, and what came over the fabric meanwhile is taken up (R260, R261). -/
def execExitComplete (s : State) : Res :=
  .next (if isUp s && s.power.exiting then
    joinAsleep (s.modPower fun p => { p with exiting := false, pstate := 0, target := 0, frozen := none })
  else s)

/-! ## Lists and rows (R97, R311) -/

/-- A list is for this query, from one of its children. -/
def listFor (h : MsgHdr) (q : Query) : Bool :=
  q.root == h.qroot && q.serial == h.qserial && q.tree % 4096 == h.tree.toNat && q.childAddrs.contains (hdrSrc h)

/-- A query whose stage has merged already. -/
def Query.pastMerge (q : Query) : Bool :=
  q.folded.isSome || q.stage == .selecting || q.stage == .gathering || q.stage == .done

/-- LIST of a child: kept until this stage merges; one that comes after the merge is left out of it (R313). Every list that
reaches the root updates its table, a late one as well (R114). -/
def takeList (s : State) (h : MsgHdr) (b : ListBody) : State :=
  let l := (hdrSrc h, h.bead, b)
  let known (q : Query) : Bool := q.lists.any fun x => x.1 == hdrSrc h
  let s1 := mapQueries s fun q => if listFor h q && !q.pastMerge && !known q then { q with lists := q.lists ++ [l] } else q
  (s.search.queries.filter fun q => q.local_ && listFor h q && !known q).foldl (fun t q => noteFrom q t l) s1

/-- One row read from its place: a row whose page is lost is left out, and a flash read may fail (drawn free). -/
def addRow (acc : State × List (Nat × List Byte)) (slot : Nat) (it : Item) : Place → State × List (Nat × List Byte)
  | .lost _ => acc
  | .flash _ =>
    let bad := (drawBool acc.1).1
    ((drawBool acc.1).2, if bad && !it.row.isEmpty then acc.2 else acc.2 ++ [(slot, it.row)])
  | _ => (acc.1, acc.2 ++ [(slot, it.row)])

/-- The row of a slot of this module, where a read of it succeeds: a lost unit has none, and the outcome of another flash
read is open. -/
def readRow (acc : State × List (Nat × List Byte)) (slot : Nat) : State × List (Nat × List Byte) :=
  match acc.1.colls.find? fun (_, c) => (c.items.get slot).isSome with
  | none => acc
  | some (id, c) => match c.items.get slot with
    | none => acc
    | some it => addRow acc slot it (placeOf acc.1 id c (rowOff c slot) it.row.length)

/-- GATHER_REQ: the tier manager answers with the rows of the slots it holds. -/
def takeGatherReq (s : State) (h : MsgHdr) (slots : List Nat) : State :=
  let (s1, rows) := slots.foldl readRow (s, [])
  nextHop s1 { queryHdr s1 (hdrSrc h) 3 3 h.qroot h.qserial 0 with tree := h.tree } (.gatherRows rows)

/-- Rows of one module reach the query that asked for them. -/
def addRows (src : BitVec 20) (rows : List (Nat × List Byte)) (q : Query) : Query :=
  let want := rows.filter fun r => q.toGather.contains (r.1, src)
  let left := q.toGather.filter fun x => !(x.2 == src && rows.any fun r => r.1 == x.1)
  { q with rows := q.rows ++ want.map (fun r => (r.1, src, r.2)), toGather := left, stage := if left.isEmpty then .done else q.stage }

/-- GATHER_ROWS at the root. -/
def takeGatherRows (s : State) (h : MsgHdr) (rows : List (Nat × List Byte)) : State :=
  mapQueries s fun q =>
    if q.local_ && q.stage == .gathering && q.serial == h.qserial && h.qroot == s.fabric.addr then addRows (hdrSrc h) rows q else q

/-! ## Delivery (R292, R301) -/

/-- The endpoint a message of a kind is for. -/
def endpointOf : MsgBody → Nat
  | .fault _ | .repair _ => 15
  | .mgmt _ => 0
  | .query _ _ | .bundleEnd | .bundleAck | .bundleDrop => 1
  | .list _ => 2
  | .gatherReq _ | .gatherRows _ => 3

/-- What an endpoint does with a message. -/
def actOn (s : State) (h : MsgHdr) : MsgBody → State
  | .fault _ | .repair _ => s
  | .mgmt b => s.modFabric fun r => { r with inbox := r.inbox ++ [b] }
  | .query range c => takeQuery s h range c
  | .bundleEnd => takeBundleEnd s h
  | .bundleAck => takeBundleAck s h
  | .bundleDrop => takeBundleDrop s h
  | .list b => takeList s h b
  | .gatherReq sl => takeGatherReq s h sl
  | .gatherRows rs => takeGatherRows s h rs

/-- A message that belongs to a query waits for the receiver's own bead (R104), and for fabric time (R103). -/
def tooEarly (s : State) (h : MsgHdr) (b : MsgBody) : Bool :=
  (match b with | .fault _ | .repair _ | .mgmt _ => false | _ => true) && (!s.time.held || decide (beadNow s < h.bead))

/-- Query messages whose bead has begun, and queries that a lower power state still held. -/
def actEarly (s : State) : State :=
  let due := s.fabric.early.filter fun x => !tooEarly s x.1 x.2
  let s1 := if decidesNow s then joinAsleep s else s
  due.foldl (fun t x => actOn t x.1 x.2) (s1.modFabric fun r => { r with early := r.early.filter fun x => tooEarly s x.1 x.2 })

/-- A message arrives on a link: for another module it is sent on; an unassigned endpoint drops it. -/
def arrive (s : State) (l : Nat) (h : MsgHdr) (b : MsgBody) : State :=
  if !isUp s || !linkUp s l then s
  else
    let s1 := flitsIn s l b
    let ep := h.dest.toNat / 2 ^ 20
    if h.dest.setWidth 20 != s.fabric.addr then nextHop s1 h b
    else if 5 ≤ ep && ep ≤ 14 then bump s1 routeDropCnt
    else if ep != endpointOf b then s1
    else if tooEarly s h b then s1.modFabric fun r => { r with early := r.early ++ [(h, b)] }
    else actOn s1 h b

def execMgmtAccess (l : Nat) (h : MsgHdr) (body : List Byte) (s : State) : Res := .next (arrive s l h (.mgmt body))
def execQuery (l : Nat) (h : MsgHdr) (range : Bool) (c : Capsule) (s : State) : Res := .next (arrive s l h (.query range c))
def execBundleEnd (l : Nat) (h : MsgHdr) (s : State) : Res := .next (arrive s l h .bundleEnd)
def execBundleAck (l : Nat) (h : MsgHdr) (s : State) : Res := .next (arrive s l h .bundleAck)
def execBundleDrop (l : Nat) (h : MsgHdr) (s : State) : Res := .next (arrive s l h .bundleDrop)
def execList (l : Nat) (h : MsgHdr) (b : ListBody) (s : State) : Res := .next (arrive s l h (.list b))
def execGatherReq (l : Nat) (h : MsgHdr) (slots : List Nat) (s : State) : Res := .next (arrive s l h (.gatherReq slots))
def execGatherRows (l : Nat) (h : MsgHdr) (rows : List (Nat × List Byte)) (s : State) : Res := .next (arrive s l h (.gatherRows rows))

end Sys2Proof.Machine
end

