-- ==== Sys2Proof/Machine/MgmtWrite.lean ====
section
/-! DEFINITION. Management access (R287, R381 to R391): MGMT_READ, MGMT_WRITE, and the write side of the register map,
with the rows that stand for one register write. -/

namespace Sys2Proof.Machine

def runs (r : Res) (s : State) : State :=
  match r with
  | .next t => t
  | _ => s

/-! ## HOSTIF (R238, R389) -/

/-- RATE: it reads back at once, and at the next edge a change takes the port down to train at the new rate (R239, R389).
Port 2 has no RATE; 3 is no rate. -/
def writeRate (s : State) (p : Nat) (rate : BitVec 2) : State :=
  if p = 2 || rate = 3 then s else updPort s p fun r => { r with rate := rate }

def execHostifRateWrite (p : Nat) (rate : BitVec 2) (s : State) : Res := .next (if isUp s then writeRate s p rate else s)

/-- Bytes 8j to 8j + 7 of an IPv6 address in transmission order. -/
def putHalf (a : BitVec 128) (j : Nat) (v : Nat) : BitVec 128 :=
  let bs := beBytes 16 a.toNat
  BitVec.ofNat 128 (beNat (if j = 0 then leBytes 8 v ++ bs.drop 8 else bs.take 8 ++ leBytes 8 v))

/-- An address or VLAN field: it reads back at once and is taken into use at the next edge. -/
def writeAddress (s : State) (p off v : Nat) : State :=
  updPort s p fun r => match off with
    | 0x00 => { r with vlanId := BitVec.ofNat 12 (bitsOf v 28 17), vlanEn := bitOf v 29 }
    | 0x10 => { r with ipv4 := BitVec.ofNat 64 (bitsOf v 37 0 + fld (bitsOf v 63 63) 63) }
    | 0x18 => { r with ipv6 := putHalf r.ipv6 0 v }
    | 0x20 => { r with ipv6 := putHalf r.ipv6 1 v }
    | 0x28 => { r with ipv6ctl := BitVec.ofNat 64 (bitsOf v 7 0 + fld (bitsOf v 63 63) 63) }
    | _ => r

def execHostifAddressWrite (p off : Nat) (v : BitVec 64) (s : State) : Res :=
  .next (if isUp s then writeAddress s p off v.toNat else s)

/-- HOSTIF_CTRL whole. A MAX_IP outside its range leaves the field, log entry 24. -/
def writeCtrl (s : State) (p v : Nat) : State :=
  let mtu := bitsOf v 16 3
  let s1 := updPort (writeAddress s p 0 v) p fun r =>
    { r with pfc := bitOf v 2, maxIp := if 1280 ≤ mtu && mtu ≤ 9194 then BitVec.ofNat 14 mtu else r.maxIp
             pcpMgmt := BitVec.ofNat 3 (bitsOf v 32 30), pcpData := BitVec.ofNat 3 (bitsOf v 35 33) }
  writeRate s1 p (BitVec.ofNat 2 v)

def writePort (s : State) (p o v : Nat) : State :=
  if o = 0 then writeCtrl s p v
  else if o = 0x30 then (if bitOf v 0 then runs (execHostifLoopback p s) s else s)
  else writeAddress s p o v

/-- The management address list. -/
def writeMgmtAddr (s : State) (o v : Nat) : State :=
  let f (x : BitVec 128 × Bool) : BitVec 128 × Bool := match (o - 0x100) % 0x18 with
    | 0 => (putHalf x.1 0 v, x.2)
    | 8 => (putHalf x.1 1 v, x.2)
    | _ => (x.1, bitOf v 63)
  if 0x100 ≤ o && o < 0x280 then s.modHost fun h => { h with mgmt := updAt h.mgmt ((o - 0x100) / 0x18) f } else s

/-! ## LEARN (R150, R391) -/

def writeDriftW (s : State) (v : Nat) : State :=
  let w := bitsOf v 16 0
  if 64 ≤ w && w ≤ 65536 then s.modLearn fun l => { l with nextW := some w } else s

/-- D of LEARN_DRIFT_LIMIT. A write of 0, outside its range, is ignored as other values of W are: the spec says so of W alone.
DESIGN CHOICE, log entry 120. -/
def writeDriftD (s : State) (v : Nat) : State :=
  let d := bitsOf v 15 0
  if 1 ≤ d then s.modLearn fun l => { l with nextD := some d } else s

def execLearnDriftWindowWrite (v : BitVec 64) (s : State) : Res := .next (if isUp s then writeDriftW s v.toNat else s)
def execLearnDriftLimitWrite (v : BitVec 64) (s : State) : Res := .next (if isUp s then writeDriftD s v.toNat else s)

def delSat (s : State) (p : Nat → Bool) : State :=
  { s with counters := { s.counters with sat := s.counters.sat.filter fun (k, _) => !p k } }

/-- ONE: clears the selected saturation counter and its SAT (R391). -/
def clearSatOne (s : State) (sel : Nat) : State :=
  let k := satSelKey (s.queues.selSat.getD sel 0)
  delSat s (· == k)

/-- TENSOR_ALL: clears every position of the selected tensor. -/
def clearSatTensor (s : State) (sel : Nat) : State :=
  let k := satSelKey (s.queues.selSat.getD sel 0)
  delSat s fun x => x / 65536 == k / 65536

def execLearnSatClearOne (queue : Nat) (s : State) : Res := .next (if isUp s then clearSatOne s queue else s)
def execLearnSatClearTensor (queue : Nat) (s : State) : Res := .next (if isUp s then clearSatTensor s queue else s)

/-! ## Writes by block -/

def when_ (b : Bool) (r : State → Res) (s : State) : State := if b then runs (r s) s else s

def writeLocket (s : State) (o v : Nat) : State :=
  if 0x100 ≤ o && o ≤ 0x1B8 then
    s.modLocket fun k => { k with token := updAt k.token ((o - 0x100) / 8) fun _ => BitVec.ofNat 64 v }
  else if o = 0x1C0 && bitOf v 0 then tokenGo s
  else s

def writePower (s : State) (o v : Nat) : State :=
  if o = 0x18 && bitOf v 16 then hubHotClear s
  else if o = 0x28 then
    let s1 := if bitOf v 0 then stopCore s true else s
    if bitOf v 1 then stopCore s1 false else s1
  else s

def writeCollector (s : State) (c o v : Nat) : State :=
  match o with
  | 0x00 => clearStatus s c (BitVec.ofNat 64 v)
  | 0x08 => forceSources s c (BitVec.ofNat 64 v)
  | 0x10 => updCol s c fun k => { k with mode := bitOf v 0 }
  | _ => s

def writeLink (s : State) (l o v : Nat) : State :=
  if o = 8 then
    when_ (bitOf v 2) (execFabricSetDown l) (when_ (bitOf v 1) (execFabricLoopback l) (when_ (bitOf v 0) (execFabricLinkRetrain l) s))
  else s

def writeStack (s : State) (k o v : Nat) : State :=
  if 0x200 ≤ o && o < 0x300 then when_ (bitOf v 0) (execHbmChRetrain (32 * k + (o - 0x200) / 8)) s
  else if 0x300 ≤ o && o < 0x400 then
    let ch := 32 * k + (o - 0x300) / 8
    when_ (bitOf v 1) (execHbmReturn ch) (when_ (bitOf v 0) (execHbmMbist ch) s)
  else s

/-- NEARMEM: a bank's actions, and the debug window over its bytes. -/
def writeNear (s : State) (o v : Nat) : State :=
  if o < 0x4000 then when_ (bitOf v 3) (execNearmemReturn (o / 8)) (when_ (bitOf v 2) (execNearmemMbist (o / 8)) s)
  else if o = 0x4100 then s.modNear fun n => { n with dbgAddr := BitVec.ofNat 36 v }
  else if o = 0x4108 then s.modNear fun n => { n with bytes := n.bytes.writeBytes n.dbgAddr.toNat (leBytes 8 v) }
  else s

/-- FLASH channel actions. RETURN trains: the rate it reaches, or a failure, is free (R194). -/
def writeFlash (s : State) (c o v : Nat) : State :=
  if o = 8 then when_ (bitOf v 0) (execFlashChRetrain c) s
  else if o = 0x10 then
    let s1 := when_ (bitOf v 1) (execFlashBypass c) (when_ (bitOf v 0) (execFlashScrub c) s)
    let s2 := if bitOf v 2 then
        let (n, t) := drawNat s1
        runs (execFlashReturn c (BitVec.ofNat 2 n) t) t
      else s1
    when_ (bitOf v 3) (execFlashProngTest c) s2
  else s

def writeFacet (s : State) (f o v : Nat) : State :=
  match o with
  | 0x0008 => when_ (bitOf v 2) (execFacetRelease f) (when_ (bitOf v 1) (execFacetBist f) (when_ (bitOf v 0) (execFacetFence f) s))
  | 0x2000 => updFacet s f fun x => { x with dbgAddr := BitVec.ofNat 24 v }
  | 0x2008 => { s with facetRam := s.facetRam.writeBytes (f * 2 ^ 24 + (getFacet s f).dbgAddr.toNat) (leBytes 8 v) }
  | _ => s

def writeSelect (s : State) (sel a v : Nat) : State :=
  let w := BitVec.ofNat 64 v
  s.modQueues fun q =>
    if a = 0x70000 then { q with selQueue := q.selQueue.put sel (w &&& 0x7FFF) }
    else if a = 0x90000 then { q with selTier := q.selTier.put sel (w &&& 0xFFF) }
    else if a = 0x210010 then { q with selLearn := q.selLearn.put sel (w &&& 0xFFF) }
    else { q with selSat := q.selSat.put sel (w &&& 0x1FFFFFFFFFFFFF) }

def writeLearn (s : State) (sel o v : Nat) : State :=
  match o with
  | 0x00 => writeDriftW s v
  | 0x08 => writeDriftD s v
  | 0x48 =>
    let s1 := if bitOf v 0 then clearSatOne s sel else s
    if bitOf v 1 then clearSatTensor s1 sel else s1
  | _ => s

/-- Write one register for administrative queue `sel`, under its access codes (R12): fields that are not RW, W1C, WO or SC
ignore the write. -/
def writeReg (s : State) (sel a v : Nat) : State :=
  if (spaceOf a).isSome then (if bitOf v 0 then snapSpace s a else s)
  else if 8 ≤ a && (spaceOf (a - 8)).isSome then clearSpace s (a - 8) (bitsOf v 23 3 * 8) (bitOf v 63)
  else if [0x70000, 0x90000, 0x210010, 0x210030].contains a then writeSelect s sel a v
  else if 0x10000 ≤ a && a < 0x20000 then writeLocket s (a - 0x10000) v
  else if a = 0x20300 then s.modLoader fun l => { l with holdNext := some (BitVec.ofNat 4 (v / 256)) }
  else if 0x40000 ≤ a && a < 0x50000 then writePower s (a - 0x40000) v
  else if 0x50000 ≤ a && a < 0x55000 then writeCollector s (68 + (a - 0x50000) / 0x1000) (a % 0x1000) v
  else if 0x60000 ≤ a && a < 0x63000 then writePort s ((a - 0x60000) / 0x1000) (a % 0x1000) v
  else if 0x63000 ≤ a && a < 0x64000 then writeMgmtAddr s (a - 0x63000) v
  else if 0x80000 ≤ a && a < 0x80C00 then writeLink s ((a - 0x80000) / 0x100) (a % 0x100) v
  else if 0xA0000 ≤ a && a < 0xA8000 then writeStack s ((a - 0xA0000) / 0x1000) (a % 0x1000) v
  else if 0xB0000 ≤ a && a < 0xC0000 then writeNear s (a - 0xB0000) v
  else if 0xC0000 ≤ a && a < 0xD0000 then writeFlash s ((a - 0xC0000) / 0x400) (a % 0x400) v
  else if 0x210000 ≤ a && a < 0x220000 then writeLearn s sel (a - 0x210000) v
  else match facetAddr a with
    | some (f, o) => if 0x3000 ≤ o then writeCollector s f (o - 0x3000) v else writeFacet s f o v
    | none => s

/-! ## MGMT_READ and MGMT_WRITE (R287) -/

def regAddrs (c : Cmd) : List Nat :=
  let a := areaField c.cap.area 24 4
  (List.range (areaField c.cap.area 28 2)).map fun i => a + 8 * i

/-- The checks on a range of registers: all mapped, none barred (R287, R385). -/
def rangeBad (s : State) (c : Cmd) : Option (BitVec 16) :=
  let as := regAddrs c
  let n := as.length
  firstBad [(n == 0 || decide (512 < n), 0x0108),
    (as.any fun a => (readReg s c.ref.queue a).isNone, 0x0118),
    (!debugLockOpen s && as.any isDebugReg, 0x0407)]

def decideMgmtRead (s : State) (c : Cmd) : State :=
  if lenBad c 0 then replyRefuse s c 0x0106
  else match rangeBad s c with
  | some st => replyRefuse s c st
  | none => replyOk s c 0 (((regAddrs c).map fun a => leBytes 8 ((readReg s c.ref.queue a).getD 0)).flatten)

def execMgmtRead (c : Capsule) (s : State) : Res := .next (receive 0x8D c decideMgmtRead s)

def regValues (c : Cmd) : List Nat := (chunks 8 c.cap.body).map leNat

/-- A write that stops a core while the other is out (POWER_CORE_SERVICE). -/
def stopsLastCore (s : State) (c : Cmd) : Bool :=
  ((regAddrs c).zip (regValues c)).any fun (a, v) => a == 0x40028 && ((bitOf v 0 && !s.cores.bIn) || (bitOf v 1 && !s.cores.aIn) || v % 4 == 3)

/-- A register whose reset is "Setting": its write waits while a SETTING_LOAD is being applied (R384). -/
def settingReg (a : Nat) : Bool := a == 0x20300 || a == 0x210000 || a == 0x210008

def decideMgmtWrite (s : State) (c : Cmd) : State :=
  if s.loader.part.isSome && (regAddrs c).any settingReg then s
  else if lenBad c (8 * areaField c.cap.area 28 2) then replyRefuse s c 0x0106
  else match rangeBad s c with
  | some st => replyRefuse s c st
  | none =>
    if stopsLastCore s c then replyRefuse s c 0x0407
    else
      let s1 := ((regAddrs c).zip (regValues c)).foldl (fun t (a, v) => writeReg t c.ref.queue a v) s
      replyOk s1 c 0 []

def execMgmtWrite (c : Capsule) (s : State) : Res := .next (receive 0x8E c decideMgmtWrite s)

end Sys2Proof.Machine
end

