-- ==== Sys2Proof/Machine/Ready.lean ====
section
/-! DEFINITION. The decision of a command by its opcode, and COMMAND_READY: a held command that has become ready is
decided (R105, R252 to R257, R260, R308, R323). -/

namespace Sys2Proof.Machine

/-- Decide a command that passed the checks of R252. -/
def decideOp (s : State) (c : Cmd) : State :=
  match c.ref.op.toNat with
  | 0x01 => decideSearch false s c
  | 0x02 => decideSearch true s c
  | 0x03 => decideReadItem s c
  | 0x10 | 0x12 => decideItem s c
  | 0x11 => decideDelete s c
  | 0x13 => decideFlush s c
  | 0x20 => decideFilterPut s c
  | 0x21 => decideFilterDrop s c
  | 0x30 => decideLearnStart s c
  | 0x31 => decideLearnStop s c
  | 0x32 => decidePromote s c
  | 0x40 => decideMergeHint s c
  | 0x80 => decideIdentify s c
  | 0x81 => decideCreate s c
  | 0x82 => decideDetach true s c
  | 0x83 => decideAttach s c
  | 0x84 => decideDetach false s c
  | 0x85 => decideQueueCreate s c
  | 0x86 => decideQueueDelete s c
  | 0x88 => decideSettingLoad s c
  | 0x89 => decideFirmwareLoad s c
  | 0x8A => decideAttest s c
  | 0x8B => decidePowerState s c
  | 0x8C => decideKeyLoad s c
  | 0x8D => decideMgmtRead s c
  | 0x8E => decideMgmtWrite s c
  | 0x8F => decideEventArm s c
  | _ => replyRefuse s c 0x0101

/-- COMMAND_READY: a command that waited with its tag is decided. -/
def execCommandReady (queue tag : Nat) (s : State) : Res :=
  .next (match findCmd s queue tag with
  | none => s
  | some c => if isUp s && c.stage == .held && cmdReady s c then decideOp s c else s)

end Sys2Proof.Machine
end

