-- ==== Sys2Proof/Machine/Transport.lean ====
section
/-! DEFINITION. Ports and the Reune transport (R236 to R251, R288, R393): connections, DATA and its sequence numbers,
acknowledgements, retransmission, Ethernet frames, and ports going down and coming up. -/

namespace Sys2Proof.Machine

def maxConns : Nat := 8192

/-- A connection that takes datagrams. -/
def Conn.live (c : Conn) : Bool := !c.failed && !c.closed

def liveConn (s : State) (id : Nat) : Option Conn := (getConn s id).filter Conn.live

/-- A valid datagram of a connection arrived on a port: replies go out on it from now on, to the address of that port
(R250). -/
def heardOn (s : State) (id port : Nat) : State :=
  updConn s id fun c =>
    if c.port = port then c
    else if port = c.openPort then { c with port := port, addr := c.home.1, udp := c.home.2 }
    else match c.alt with
      | some (a, u) => { c with port := port, addr := a, udp := u }
      | none => { c with port := port }

/-! ## CONNECT (R243, R251) -/

def nakNoConnection : Nat := 3
def nakAdminRefused : Nat := 4

/-- The CONNECT was sent to its port's link-local address, where the boot responder runs (R238). -/
def toBoot (s : State) (d : ConnectDg) : Bool := d.dst == (getPort s d.port).linkLocal

/-- Whether the ADMIN flag of a CONNECT can be granted. -/
def adminGranted (s : State) (d : ConnectDg) : Bool :=
  let admins := s.host.conns.filter fun (_, c) => c.admin
  let listed := s.host.mgmt.any fun (a, v) => v && a == d.src
  decide (admins.length < 64) &&
    if d.port = 2 then decide ((admins.countP fun (_, c) => c.openPort == 2) < 8)
    else listed || (toBoot s d && s.loader.setting.isNone)

/-- An accepted ADMIN connection takes queue 0 when it was never bound, or when it is orphaned and its tags are free;
with tags in use the first such connection gets it later (R251). -/
def bindQueueZero (s : State) (id : Nat) : State :=
  let bound (t : State) : State := (t.modQueues fun r => { r with queues := r.queues.put 0 ⟨some id, false, 0⟩ }).modHost
    fun h => { h with orphan0 := false, next0 := none }
  match s.queues.queues.get 0 with
  | none => bound s
  | some u =>
    if !u.orphaned || s.host.next0.isSome then s
    else if u.tags = 0 then bound s
    else s.modHost fun h => { h with next0 := some id }

/-- A NAK that answers a CONNECT. -/
def nakConnect (s : State) (d : ConnectDg) (reason : Nat) : State :=
  emit (sendLoose s d.port 0 d.admin d.src d.srcPort 5 (nakBody 0 reason)) (.nakConnect d.port reason)

/-- CONNECT: ACCEPT under the lowest free id, or a NAK that creates nothing. The boot responder takes connections to queue 0
alone, those with the ADMIN flag (R238, R251): how it turns another away is log entry 122. -/
def acceptConn (s : State) (d : ConnectDg) : State :=
  match Tab.freeFrom s.host.conns maxConns 0 with
  | none => nakConnect s d nakNoConnection
  | some id =>
    if d.admin && !adminGranted s d then nakConnect s d nakAdminRefused
    else if !d.admin && toBoot s d then nakConnect s d nakNoConnection
    else
      let hostSeq := Config.firstSeq s.free
      let modSeq := Config.firstSeq (s.free + 1)
      let c : Conn :=
        { admin := d.admin, port := d.port, openPort := d.port, addr := d.src, udp := d.srcPort
          home := (d.src, d.srcPort), alt := if d.altValid && d.port < 2 then some (d.altAddr, d.altPort) else none
          rxNext := hostSeq, txNext := modSeq, asm := none, open_ := 0, closing := false, failed := false, closed := false
          armed := 0, store := [] }
      let s0 := sendDatagram (setConn { s with free := s.free + 2 } id c) id c d.admin 2 0 0 (leBytes 4 hostSeq.toNat ++ leBytes 4 modSeq.toNat)
      let s1 := emit s0 (.accept d.port id hostSeq modSeq)
      if d.admin then bindQueueZero s1 id else s1

/-- A CONNECT to an address at which its port does not answer is not taken (R238). -/
def execConnect (d : ConnectDg) (s : State) : Res :=
  .next (if isUp s && (getPort s d.port).answersAt d.dst then acceptConn s d else s)

/-- QUEUE_0_REBIND: every tag of the orphaned queue 0 is free, so the waiting ADMIN connection takes it. -/
def execQueue0Rebind (conn : Nat) (s : State) : Res :=
  .next (match s.queues.queues.get 0 with
  | none => s
  | some u =>
    if isUp s && u.orphaned && u.tags == 0 && s.host.next0 == some conn then
      (s.modQueues fun r => { r with queues := r.queues.put 0 ⟨some conn, false, 0⟩ }).modHost
        fun h => { h with orphan0 := false, next0 := none }
    else s)

/-! ## DATA (R242, R244, R245, R247) -/

/-- An ACK of a connection up to a sequence number (R245). -/
def sendAck (s : State) (id : Nat) (seq : BitVec 32) : State :=
  match getConn s id with
  | some c => emit (sendDatagram s id { c with rxNext := seq + 1 } c.admin 4 0 0 []) (.ack id seq)
  | none => s

/-- A NAK of a connection that names a sequence number (R245). -/
def sendNak (s : State) (id : Nat) (seq : BitVec 32) (reason : Nat) : State :=
  match getConn s id with
  | some c => emit (sendDatagram s id c c.admin 5 0 0 (nakBody seq reason)) (.nak id seq reason)
  | none => s

/-- The opcode and the capsule that 64 header bytes and a payload spell (R266). -/
def parseCapsule (port conn : Nat) (bs : List Byte) : BitVec 8 × Capsule :=
  let q := fieldB bs 4 4
  let d := fieldB bs 8 4
  (BitVec.ofNat 8 (fieldB bs 0 1),
   { port := port, conn := conn, flags := BitVec.ofNat 8 (fieldB bs 1 1), rsv := BitVec.ofNat 16 (fieldB bs 2 2)
     queue := BitVec.ofNat 15 q, tag := BitVec.ofNat 5 (q / 2 ^ 15), coll := BitVec.ofNat 12 (q / 2 ^ 20)
     deadline := BitVec.ofNat 12 d, k := BitVec.ofNat 17 (d / 2 ^ 12), rsvHi := BitVec.ofNat 3 (d / 2 ^ 29)
     len := BitVec.ofNat 32 (fieldB bs 12 4), cookie := BitVec.ofNat 64 (fieldB bs 16 8)
     area := BitVec.ofNat 320 (fieldB bs 24 40), body := bs.drop 64 })

/-- A whole capsule: acknowledged, then handed to its command queue. One whose header is not whole is dropped, as its
fields are not there to refuse; log entry 30. -/
def takeCapsule (s : State) (port conn : Nat) (seq : BitVec 32) (bs : List Byte) : State :=
  let s1 := sendAck s conn seq
  if bs.length < 64 then s1
  else
    let (op, c) := parseCapsule port conn bs
    receive op c decideOp s1

/-- The segment that was expected: it joins the capsule under assembly. -/
def takeSegment (s : State) (d : DataDg) (c : Conn) : State :=
  let asm := if d.first then some d.body else c.asm.map (· ++ d.body)
  let s1 := setConn (updPort s d.port fun p => addRx p c.admin d.body.length) d.conn
    { c with rxNext := c.rxNext + 1, asm := if d.last then none else asm }
  if d.last then
    match asm with
    | some bs => takeCapsule s1 d.port d.conn d.seq bs
    | none => sendAck s1 d.conn d.seq
  else s1

/-- A DATA segment from the host. -/
def takeData (s : State) (d : DataDg) : State :=
  match liveConn s d.conn with
  | none =>
    emit (sendLoose s d.port d.conn false d.src d.srcPort 5 (nakBody d.seq nakNoConnection)) (.nak d.conn d.seq nakNoConnection)
  | some _ =>
    let s1 := ackUpTo (heardOn s d.conn d.port) d.conn d.ackSeq
    match getConn s1 d.conn with
    | none => s1
    | some c =>
      if d.seq = c.rxNext then
        if rxLimit d.port c.admin < rxUsed (getPort s1 d.port) c.admin + d.body.length then sendNak s1 d.conn d.seq 2
        else takeSegment s1 d c
      else if seqLe d.seq (c.rxNext - 1) then sendAck (bump s1 dupCnt) d.conn (c.rxNext - 1)
      else sendNak s1 d.conn c.rxNext 1

def execData (d : DataDg) (s : State) : Res := .next (if isUp s then takeData s d else s)

/-! ## ACK, CLOSE and retransmission (R243, R248, R249) -/

def takeAck (s : State) (port conn : Nat) (seq : BitVec 32) : State :=
  match liveConn s conn with
  | none => s
  | some _ => ackUpTo (heardOn s conn port) conn seq

def execAck (port conn : Nat) (ackSeq : BitVec 32) (s : State) : Res := .next (if isUp s then takeAck s port conn ackSeq else s)

def takeClose (s : State) (port conn : Nat) : State :=
  match liveConn s conn with
  | none => s
  | some _ => updConn (heardOn s conn port) conn fun c => { c with closing := true }

def execClose (port conn : Nat) (s : State) : Res := .next (if isUp s then takeClose s port conn else s)

/-- The CLOSE takes effect: a connection with replies unacknowledged fails with cause 4, any other one ends and orphans its
queues (R249, R251). -/
def closeNow (s : State) (id : Nat) (c : Conn) : State :=
  if c.store.any fun k => k.event.isNone then failConn s id 4
  else
    let s1 := setConn s id { c with closed := true, armed := 0, store := [] }
    let s2 := s1.modHost fun h => { h with storeUsed := h.storeUsed - storeBytes c.store }
    ackEvents (orphan s2 id) id fun _ => true

def execCloseTakesEffect (conn : Nat) (s : State) : Res :=
  .next (match liveConn s conn with
  | none => s
  | some c => if isUp s && c.closing && c.open_ == 0 then closeNow s conn c else s)

/-- Failures after which a connection is failed (R248). -/
def maxFailures : Nat := 3

/-- REPLY_RETRANSMIT: 200 µs without an acknowledgement of the oldest reply or event kept. -/
def retransmit (s : State) (id : Nat) (c : Conn) : State :=
  match c.store with
  | [] => s
  | k :: ks =>
    let n := k.failures + 1
    if maxFailures ≤ n then failConn s id 2
    else resendKept id c (setConn s id { c with store := { k with failures := n } :: ks }) k

def execReplyRetransmit (conn : Nat) (s : State) : Res :=
  .next (match liveConn s conn with
  | none => s
  | some c => if isUp s then retransmit s conn c else s)

/-! ## Fabric time from PTP (R102, R241) -/

/-- Fabric time begins, or the source's offset is taken up by slewing: it never steps (R102). -/
def sourceTime (s : State) (offsetNs : Int) (fabricNs : Nat) : State :=
  if s.time.held then
    s.modTime fun t => { t with srcOffset := offsetNs, slew := max (-100000) (min 100000 offsetNs), holdover := false, ppsBad := 0 }
  else
    s.modTime fun t => { t with held := true, now := fabricNs, srcOffset := offsetNs, holdover := false, cut := false, gap := false, ppsBad := 0 }

def takePtp (s : State) (port : Nat) (offsetNs : Int) (fabricNs : Nat) : State :=
  if s.time.started && s.time.source == 0 && s.time.sourceArg == port && port < 2 then
    checkDiscovery (sourceTime s offsetNs fabricNs)
  else s

def execPtpMessage (port : Nat) (offsetNs : Int) (fabricNs : Nat) (s : State) : Res :=
  .next (if isUp s && (getPort s port).pcs then takePtp s port offsetNs fabricNs else s)

/-! ## Ethernet frames (R237, R238, R240, R288) -/

/-- A Reune datagram by its header; an unassigned type or a set reserved bit is dropped. -/
def takeReune (s : State) (f : Frame) (src : BitVec 128) (srcPort : Nat) (bs : List Byte) : State :=
  let w := fieldB bs 0 2
  let fl := fieldB bs 3 1
  let conn := w % 2 ^ 13
  let body := bs.drop 16
  if bs.length < 16 || 2 ^ 13 ≤ w || 16 ≤ fl then s
  else match fieldB bs 2 1 with
  | 1 => acceptConn s ⟨f.port, f.dst, src, srcPort, bitOf fl 3, fieldB body 18 1 == 1, BitVec.ofNat 128 (beNat (body.take 16)), fieldB body 16 2⟩
  | 3 => takeData s ⟨f.port, src, srcPort, conn, bitOf fl 0, bitOf fl 1, BitVec.ofNat 32 (fieldB bs 4 4), BitVec.ofNat 32 (fieldB bs 8 4), body⟩
  | 4 => takeAck s f.port conn (BitVec.ofNat 32 (fieldB bs 8 4))
  | 6 => takeClose s f.port conn
  | _ => s

/-- The frame is for this port by its destination MAC address: the port's own, or a group address. -/
def frameMacOk (p : Port) (f : Frame) : Bool := f.mac == p.mac || f.mac.getLsbD 40

/-- The frame is for an address at which the port answers; PTP goes to its group, and a PAUSE and the rest have none. A tag is
no ground to drop a frame, log entry 121. -/
def frameToUs (p : Port) (f : Frame) : Bool :=
  frameMacOk p f && match f.kind with
    | .arp => isV4 f.dst && p.answersAt f.dst
    | .neighbour => !isV4 f.dst && p.answersAt f.dst
    | .echo | .udp _ _ _ _ _ _ _ => p.answersAt f.dst
    | .ptp _ _ | .pause _ _ | .otherIp | .nonIp => true

/-- What a frame for this port carries. -/
def takeFrame (s : State) (f : Frame) : State :=
  match f.kind with
  | .arp => emit (sendFrame s f.port true .arp) (.arpReply f.port)
  | .neighbour => emit (sendFrame s f.port true .neighbour) (.neighbourReply f.port)
  | .echo => emit (sendFrame s f.port false .echo) (.echoReply f.port)
  | .ptp o t => takePtp s f.port o t
  | .udp v4 sumOk sumZero dst src sp body =>
    if !(sumOk || (v4 && sumZero)) then bump s (rxErrCnt f.port)
    else if dst = reunePort then takeReune s f src sp body else s
  | .pause mgmt ns =>
    if (getPort s f.port).pfc && mgmt && decide (100000 < ns) then bump s (mgmtPauseCnt f.port) else s
  | .otherIp | .nonIp => s

/-- ETHERNET_FRAME. -/
def execEthernetFrame (f : Frame) (s : State) : Res :=
  .next (if !isUp s || !(getPort s f.port).pcs || f.bytes < 64 || 9216 < f.bytes then s
  else if !f.fcsOk then bump s (rxErrCnt f.port)
  else if (getPort s f.port).maxIp.toNat < f.ipLen then bump s (oversizeCnt f.port)
  else if f.fragment then bump s (fragCnt f.port)
  else if frameToUs (getPort s f.port) f then takeFrame s f else s)

/-! ## Ports (R236, R250, R393, R408) -/

/-- HOST_PORT_DOWN. The management port takes no part in failover (R250): it only goes down. -/
def execHostPortDown (port : Nat) (s : State) : Res :=
  .next (if isUp s && (getPort s port).pcs then
    if port < 2 then portDown s port
    else updPort s port fun r => { r with state := 0, pcs := false, rxMgmt := 0, rxData := 0 }
  else s)

/-- Host ports that went down and have not come back. -/
def portsOut (s : State) : Bool := (List.range 2).any fun p => let r := getPort s p; !r.pcs && r.state == 0

/-- HOST_PORT_UP: no connection is taken back; the source's pin falls once no port is out (R250, R408). -/
def execHostPortUp (port : Nat) (s : State) : Res :=
  .next (if isUp s && !(getPort s port).pcs && ((getPort s port).state == 0 || (getPort s port).state == 4) then
    let s1 := updPort s port fun r => { r with pcs := true, state := 1 }
    if portsOut s1 then s1 else dropPins s1 72 (bit64 15)
  else s)

/-- The port leaves service with its cage: down if it was up. -/
def cageOut (s : State) (p : Nat) : State :=
  let s1 := if (getPort s p).pcs then portDown s p else s
  updPort s1 p fun r => { r with state := 3 }

def execOsfpCageOvercurrent (port : Nat) (s : State) : Res := .next (if isUp s && port < 2 then cageOut s port else s)
def execOsfpModuleRemoved (port : Nat) (s : State) : Res := .next (if isUp s && port < 2 then cageOut s port else s)

/-- OSFP_MODULE_INSERTED: the port leaves cage empty and trains, or reads UNSUPPORTED (R236). -/
def execOsfpModuleInserted (port : Nat) (supported : Bool) (s : State) : Res :=
  .next (if isUp s && port < 2 && !(getPort s port).pcs then
    updPort s port fun r => { r with state := if supported then 0 else 2 }
  else s)

end Sys2Proof.Machine
end

