-- ==== Sys2Proof/Machine/Time.lean ====
section
/-! DEFINITION. The moments within a bead (R105, R108, R307, R308), time sources and neighbours (R102, R103, R402), and the
20 µs intervals before fabric time is held (R239). -/

namespace Sys2Proof.Machine

/-- Fabric time at which the bead in progress ends. -/
def beadEnd (s : State) : Nat := (beadNow s + 1) * periodNs s

/-- Fabric time has come to `before` ns ahead of the end of the bead. -/
def reach (s : State) (before : Nat) : State := s.modTime fun t => { t with now := max t.now (beadEnd s - before) }

/-- Whether beads run: the module is up and holds fabric time (R103). -/
def beadsRun (s : State) : Bool := isUp s && s.time.held

/-! ## Moments of a bead -/

/-- The cut point, 2 µs before the end of the bead (R108). -/
def cutPoint (s : State) : State :=
  if s.time.cut then s else cutQueries ((reach s 2000).modTime fun t => { t with cut := true })

def execCutPoint (s : State) : Res := .next (if beadsRun s then cutPoint s else s)

/-- The admission gap begins, 1 µs before the end of the bead, after its cut point: no admission decision until the edge
(R105), and the root closes its bundles (R307). -/
def admissionGap (s : State) : State :=
  if s.time.gap then s
  else
    let s1 := (reach (cutPoint s) 1000).modTime fun t => { t with gap := true }
    closeBundle s1 fun b => b.root == s1.fabric.addr && b.bead == beadNow s1

def execAdmissionGap (s : State) : Res := .next (if beadsRun s then admissionGap s else s)

/-- MULTICAST_WINDOW_CLOSE: MC_CLOSE before the end of the bead, or once the bundle holds MC_BYTES (R308). -/
def execMulticastWindowClose (tree : Nat) (s : State) : Res :=
  .next (match treeRec s tree with
  | none => s
  | some t =>
    if beadsRun s && !s.fabric.closed.contains tree then
      let full := decide (1024 * t.mcBytes ≤ bundleBytes s tree)
      (if full then s else reach s (1000 * t.mcClose)).modFabric fun r => { r with closed := r.closed ++ [tree] }
    else s)

/-! ## Sources of fabric time -/

/-- The source fails: the module counts on from its reference and raises time.holdover (R103). -/
def enterHoldover (s : State) : State :=
  if s.time.held && !s.time.holdover then
    let off := (s.time.srcOffset % 2 ^ 32).toNat
    raiseEvent (s.modTime fun t => { t with holdover := true, ppsSynced := false })
      0x0201 ([BitVec.ofNat 8 s.time.source, BitVec.ofNat 8 s.time.sourceArg, 0, 0] ++ leBytes 4 off)
  else s

def execHoldover (s : State) : Res := .next (if isUp s && s.time.started then enterHoldover s else s)

def maxPpsBad : Nat := 3

/-- An edge of PPS_IN that is 1 µs wide and, once a second is known, within 1 µs of the expected one. -/
def ppsGood (s : State) (offsetNs : Int) (widthNs : Nat) : Bool :=
  decide (1000 ≤ widthNs) && (!s.time.ppsSynced || (decide (-1000 ≤ offsetNs) && decide (offsetNs ≤ 1000)))

/-- PPS_IN_EDGE: an accepted edge gives phase and rate, and starts fabric time at zero where none is held; three rejected in
a row fail the source. -/
def takePps (s : State) (offsetNs : Int) (widthNs : Nat) : State :=
  if ppsGood s offsetNs widthNs then
    checkDiscovery ((sourceTime s (if s.time.ppsSynced then offsetNs else 0) 0).modTime fun t => { t with ppsSynced := true, ppsBad := 0 })
  else
    let n := s.time.ppsBad + 1
    let s1 := s.modTime fun t => { t with ppsBad := n }
    if maxPpsBad ≤ n then enterHoldover s1 else s1

def execPpsInEdge (offsetNs : Int) (widthNs : Nat) (s : State) : Res :=
  .next (if isUp s && s.time.started && s.time.source = 1 then takePps s offsetNs widthNs else s)

/-- LINK_TIME_EXCHANGE: the named link gives its neighbour's time; any other neighbour gives time only to a module that holds
none and does not wait for a link. The offset is held against 500 ns (R102, R103, R299). -/
def exchange (s : State) (l : Nat) (offsetNs : Int) (fabricNs : Nat) : State :=
  let mine := s.time.source == 2 && s.time.sourceArg == l
  let gives := s.time.started && (mine || (!s.time.held && s.time.source != 2))
  let s1 := if gives then checkDiscovery (sourceTime s offsetNs fabricNs) else s
  if !s.time.held then s1
  else
    let n := offsetNs.natAbs
    let s2 := s1.modTime fun t => { t with nbrNow := max t.nbrNow n, skew := t.skew || decide (skewLimit < n) }
    if skewLimit < n then raiseCond s2 72 14 (.link l) else s2

def execLinkTimeExchange (l : Nat) (offsetNs : Int) (fabricNs : Nat) (s : State) : Res :=
  .next (if isUp s && linkUp s l then exchange s l offsetNs fabricNs else s)

/-! ## Actions timed at the next edge that bring-up has as well (R239) -/

/-- A written rate is taken up: the port goes down and trains at it (R239, R250, R389). -/
def takeUpRates (s : State) : State :=
  (List.range 2).foldl (fun t p =>
    if (getPort t p).rate = (getPort t p).useRate then t
    else
      let t1 := if (getPort t p).pcs then portDown t p else t
      updPort t1 p fun r => { r with useRate := r.rate }) s

/-- Written addresses, VLAN ids and priorities come into use; receive buffers are counted anew (R238, R389). -/
def takeUpPorts (s : State) : State :=
  let f (p : Port) : Port :=
    { p with useVlan := BitVec.ofNat 13 (p.vlanId.toNat + (if p.vlanEn then 2 ^ 12 else 0)), usePcp := BitVec.ofNat 6 (p.pcpMgmt.toNat + 8 * p.pcpData.toNat), useIpv4 := p.ipv4, useIpv6 := p.ipv6,
             useIpv6ctl := p.ipv6ctl, rxMgmt := 0, rxData := 0 }
  s.modHost fun h => { h with ports := h.ports.map f }

/-- Ids of connections that ended or failed are free (R243). -/
def freeConns (s : State) : State := s.modHost fun h => { h with conns := h.conns.filter fun (_, c) => !c.closed && !c.failed }

/-- What the end of an interval and an edge have in common. -/
def intervalActions (s : State) : State := activateLinks ((freeConns (takeUpPorts (takeUpRates s))).modCores coresReturn)

/-- BRING_UP_INTERVAL: until fabric time is held, 20 µs intervals stand for beads. -/
def execBringUpInterval (s : State) : Res :=
  .next (if isUp s && !s.time.held then intervalActions (s.modTime fun t => { t with intervals := t.intervals + 1 }) else s)

end Sys2Proof.Machine
end

