-- ==== Sys2Proof/Machine/Edge.lean ====
section
/-! DEFINITION. The bead edge (R21 to R25, R101): releases, substitutions, shed steps, residence, merges, epochs, learning,
notices, slow branches, credits and launches, in one order. -/

namespace Sys2Proof.Machine

/-! ## The new bead -/

/-- Per-bead records start anew: what was released becomes free (R24), and marks, limits and windows close (R53, R308,
R323). -/
def newBead (s : State) (b : Nat) : State :=
  let skew := decide (skewLimit < s.time.nbrNow)
  let s1 := s.modTime fun t =>
    { t with now := b * periodNs s, cut := false, gap := false, nbrMax := t.nbrNow, nbrNow := 0, skew := skew }
  let s2 := s1.modPools fun p =>
    { p with relFlash := 0, relSlots := [], relHbm := [], relNear := [], relScratch := [], relScan := [], relRd := 0, relCand := 0, relGather := 0
             relLearn := 0, relBuf := 0, sel := [] }
  let s3 := s2.modQueues fun q => { q with marks := [], admitted := [] }
  let s4 := s3.modFabric fun f => { f with closed := [] }
  if skew then s4 else dropPins s4 72 (bit64 14)

/-! ## Releases from fence (R23, R353) -/

def Facet.edge (x : Facet) : Facet := if x.release then { x with fenced := false, reason := 0, release := false, byDie := false } else x

def Bank.edge (x : Bank) : Bank := if x.ret then { x with state := 0, ret := false } else x

/-- Prongs and channels: a fence clears after its test, a channel returns from BYPASS, and a scrub ends once every block that
holds units has been read (R23, R208, R331). -/
def FlashCh.edge (seen : Bool) (x : FlashCh) : FlashCh :=
  let y := if x.prongClear then { x with prongFenced := false, prongClear := false } else x
  let z := if y.ret && y.state = 3 then { y with state := 0, ret := false } else { y with ret := false }
  if z.state = 2 && seen then { z with state := 0 } else z

/-- Every programmed block of a channel has been read by the scrub. -/
def scrubDone (s : State) (c : Nat) : Bool := (s.flash.blocks.filter fun b => b.chan == c && b.full).all Block.seen

/-- Channels that rejoin their sets; a stack fenced for heat rejoins whole (R189). -/
def hbmEdge (s : State) : State :=
  let back := (List.range 256).filter fun c => (getChan s c).ret
  let whole (k : Nat) : Bool := (stackChans k).all back.contains
  let s1 := back.foldl chanReturn s
  let step (x : HbmStack × Nat) : HbmStack := if x.1.fenced && whole x.2 then { x.1 with fenced := false } else x.1
  s1.modHbm fun h => { h with hbmStacks := h.hbmStacks.zipIdx.map step }

/-- A lost copy of the map is rebuilt from the other, on the lowest stack in service apart from it (R199; DESIGN CHOICE,
log entry 123). -/
def mapEdge (s : State) : State :=
  let alive (k : Nat) : Bool := (stackChans k).any fun c => !chanOut s c
  let put (m : List Nat) (i : Nat) : List Nat :=
    match (List.range 8).find? fun k => alive k && k != m.getD (1 - i) 8 with
    | some k => updAt m i fun _ => k
    | none => m
  s.modFlash fun f => { f with mapAt := f.mapLost.foldl put f.mapAt, mapLost := [] }

def releases (s : State) : State :=
  let s1 := { s with facets := s.facets.map Facet.edge }
  let s2 := s1.modNear fun n => { n with banks := n.banks.mapVals Bank.edge }
  let s3 := s2.modFlash fun f => { f with chans := f.chans.zipIdx.map fun (x, c) => x.edge (scrubDone s c) }
  mapEdge <| hbmEdge (partialRelease (s3.modSearch fun r => { r with claspOut := r.claspOut && !r.claspRet, claspRet := false }))

/-! ## Spare substitution (R335) -/

/-- The spare of a die is free: unmapped, in service, and its BIST passed. -/
def spareFree (s : State) (d : Nat) : Bool :=
  let f := 17 * d + 16
  logicalOf s f == 0xFF && !(getFacet s f).fenced && (getFacet s f).bistPass

/-- Map a fenced logical facet to the spare of its die; the spare is released at the edge after. With the spare in service
already, a further fenced facet leaves its logical facet unassigned (R19). -/
def substitute (s : State) (lf : Nat × Nat) : State :=
  let (l, f) := lf
  let d := f / 17
  if physOf s l != f || !(getFacet s f).fenced then s
  else if !s.loader.hold.getLsbD d && spareFree s d then
    updFacet (s.modLoader fun r => { r with map := updAt r.map l fun _ => 17 * d + 16 }) (17 * d + 16) fun x => { x with release := true }
  else if logicalOf s (17 * d + 16) != 0xFF then s.modLoader fun r => { r with map := updAt r.map l fun _ => 0xFF }
  else s

/-- A written HOLD governs this edge; then the lowest logical number of each die goes first. -/
def settingEdge (s : State) : State :=
  let s1 := s.modLoader fun r => { r with hold := r.holdNext.getD r.hold, holdNext := none, pending := [] }
  (sortBy (fun a b => decide (a.1 ≤ b.1)) s.loader.pending).foldl substitute s1

/-! ## Shed steps (R25, R359, R360) -/

/-- Facets of odd logical number stand idle at the second step and come back when it clears. -/
def shedFacets (s : State) : State :=
  let odd := ((List.range 64).filter fun l => l % 2 == 1).map (physOf s)
  let f (x : Facet × Nat) : Facet :=
    let (y, i) := x
    if 2 ≤ s.power.effective then (if odd.contains i && !y.fenced then { y with fenced := true, reason := 2 } else y)
    else if y.fenced && y.reason = 2 then { y with fenced := false, reason := 0 } else y
  { s with facets := s.facets.zipIdx.map f }

def shedEdge (s : State) : State :=
  shedFacets ((clearSteps s).modPower fun p => { p with edgeStep := p.effective })

/-- Merges stand still: at the first shed step, and from the bead after a preparation of a lower power state began (R43,
R259). -/
def mergesStop (s : State) : Bool :=
  let p := s.power
  1 ≤ p.edgeStep || p.pstate != 0 || p.entering || (p.preparing && decide (p.prepBead < beadNow s))

/-! ## Residence (R171, R173) -/

/-- A copy that completed resolves; an announced eviction takes place. -/
def Page.edge (b : Nat) (p : Page) : Page :=
  let q := match p.incoming with
    | some l =>
      let locs := p.locs ++ [l]
      { p with locs := locs, incoming := none, refilling := false, hotLost := false, copyLost := p.copyLost && decide (locs.length < 2) }
    | none => p
  match q.evictAt with
  | some e => if e ≤ b then { q with locs := [], evictAt := none } else q
  | none => q

/-- The resident tier of the bead that ends is reported to the admissions of this one (R172); then copies resolve and go,
and vector and row pages leave the list with their last copy. -/
def residenceEdge (b : Nat) (c : Coll) : Coll :=
  let d := trimCache false (trimCache true { c with pages := c.pages.map (Page.edge b) })
  { d with resident := if c.attached then residentTier c else c.resident, relHeads := 0
           pages := d.pages.filter fun p => p.kind.isList || p.kind.pinned || !p.locs.isEmpty || p.incoming.isSome }

/-! ## Detached collections (R30, R192) -/

/-- A merge stops, a promotion is refused, and after a detach by the module the places are given back. -/
def detachedEdge (s : State) (id : Nat) : State :=
  match getColl s id with
  | none => s
  | some c =>
    if c.attached then s
    else
      let s1 := match c.promo with | some p => refuse s p.ref.queue p.ref.tag 0x0205 | none => s
      let s2 := updColl s1 id fun c => { stopMerge c with promo := none }
      let s3 := endTasks s2 fun t => (t.kind == .merge || t.kind == .promote) && t.coll == id
      if c.work.isNone then updColl s3 id fun c => { c with pages := [], hbmPlacedNow := 0 } else s3

/-- A share of the recent-delete table of a detached collection is free once its last entry is folded (R185). -/
def foldedShares (s : State) (was : Tab Coll) : State :=
  let done := was.filter fun (id, c) => !c.holds && !c.recent.isEmpty &&
    match getColl s id with | some d => d.recent.isEmpty | none => false
  s.modPools fun p => { p with relRd := p.relRd + sumN (done.map fun (_, c) => c.params.rdShare) }

/-! ## Merges, epochs and partial settings (R41, R43, R44, R164, R334) -/

/-- A merge that re-encodes: older entries with full vectors, or older segments folded in. -/
def reencodes (c : Coll) : Bool :=
  match c.merge with
  | none => false
  | some m => !m.segs.isEmpty || c.side.any fun x => x.taken && x.merged.isNone && x.ent.epoch != m.epoch && hasVector c x.ent.slot

/-- Merges of a pipeline or of the module that stop at this edge keep nothing. -/
def stopMerges (s : State) (p : Coll → Bool) : State :=
  let ids := (s.colls.filter fun (_, c) => c.merge.isSome && p c).map Prod.fst
  ids.foldl (fun t id => endTasks (updColl t id stopMerge) fun k => k.kind == .merge && k.coll == id) s

/-- Step 1 of a partial setting: from its edge the group drains. -/
def partialEdge (s : State) (b : Nat) : State :=
  match s.loader.part with
  | some p =>
    if p.step == .waitEdge && decide (p.e0 ≤ b) then
      let s1 := s.modLoader fun l => { l with part := some { p with step := .drain } }
      let onGroup (r : Run) : Bool :=
        match (getColl s r.coll).bind fun c => groupOf s c.att.pipeline with
        | some g => g.id == p.group.id || g.learnGroup == p.group.id
        | none => false
      let s2 := (s1.learn.runs.filter onGroup).foldl dropMicroBatches s1
      stopMerges s2 fun c => c.att.pipeline == p.group.id && reencodes c
    else s
  | none => s

/-- The trigger of each collection, tested before the publications of this edge. -/
def triggerEdge (s : State) (b : Nat) : State :=
  if mergesStop s then s
  else s.colls.foldl (fun t (id, _) => match getColl t id with
    | some c => if mergeDue c then (startMerge t id b).getD t else t
    | none => t) s

/-- Epochs that nothing carries retire with their counters. -/
def retireEdge (s : State) (id : Nat) : State :=
  match getColl s id with
  | none => s
  | some c =>
    let d := retireEpochs c
    let gone := (c.epochs.map Epoch.num).filter fun e => !d.epochs.any fun x => x.num == e
    dropCounts (setColl s id d) fun k => k.coll == id && !k.run && gone.contains k.epoch

/-- A promoted epoch is published; a held run that gave it ends. -/
def epochEdge (b : Nat) (s : State) (id : Nat) : State :=
  match getColl s id with
  | some { promo := some p, .. } => if p.built then endPromoted id (publishEpoch s id b) else s
  | _ => s

def collEdge (s : State) (b : Nat) : State :=
  let ids := s.colls.map Prod.fst
  let due := (s.colls.filter fun (_, c) => match c.merge with | some m => m.built | none => false).map Prod.fst
  let s1 := triggerEdge s b
  let s2 := if mergesStop s1 then stopMerges s1 fun _ => true else due.foldl (fun t id => publishMerge t id b) s1
  ids.foldl (epochEdge b) (ids.foldl retireEdge s2)

/-! ## Slow branches (R309) -/

/-- Closed bundles that a child has not acknowledged, oldest first. -/
def unackedOf (s : State) (tree : Nat) (root child : BitVec 20) : List Bundle :=
  s.fabric.bundles.filter fun b => b.tree == tree && b.root == root && b.closed && b.unacked.contains child

/-- One branch at the edge of bead `b`: promoted, left, demoted with a replay, or its oldest bundle dropped. -/
def branchEdge (b : Nat) (s : State) (k : Nat × BitVec 20 × BitVec 20) : State :=
  let (tree, root, child) := k
  let demoted := isDemoted s tree root child
  match unackedOf s tree root child with
  | [] => if demoted then updBranch s ⟨tree, root, b, true, false, 0, [], []⟩ child fun x => { x with demoted := false } else s
  | o :: os =>
    let lag := b - o.bead
    if 5 ≤ lag then dropBundle s o child
    else if lag < 2 || demoted then s
    else
      let s1 := bump (updBranch s o child fun x => { x with demoted := true }) demoteCnt
      (o :: os).foldl (replayBundle child) s1

/-- The replay buffer holds the current bead and the four before it. -/
def pruneBundles (s : State) (b : Nat) : State :=
  let age (x : Bundle) : Bundle := if x.bead + 5 ≤ b then { x with kept := false } else x
  s.modFabric fun f => { f with
    bundles := (f.bundles.filter fun x => decide (b < x.bead + 6) || !x.unacked.isEmpty).map age
    branches := f.branches.map fun x => { x with dropped := x.dropped.filter fun d => b < d + 4096 }
    dropped := f.dropped.filter fun x => b < x.1 + 4096
    changes := f.changes.filter fun x => b < x.1 + 4096 }

def branchesEdge (s : State) (b : Nat) : State :=
  let ofBundle (x : Bundle) : List (Nat × BitVec 20 × BitVec 20) := x.unacked.map fun k => (x.tree, x.root, k)
  let keys := (s.fabric.branches.map (fun x => (x.tree, x.root, x.child)) ++ (s.fabric.bundles.map ofBundle).flatten).eraseDups
  pruneBundles (keys.foldl (branchEdge b) s) b

/-! ## Power, credits and reports -/

/-- The package power policy: paused above 1,020 W, resumed below 990 W (R365). -/
def packageEdge (pkgMw : Nat) (s : State) : State :=
  s.modPower fun p =>
    { p with pkgMw := pkgMw, pkgPaused := if 1020000 < pkgMw then true else if pkgMw < 990000 then false else p.pkgPaused }

/-- Scan credit grows by the budget up to four budgets (R187). -/
def creditEdge (c : Coll) : Coll :=
  if c.attached then
    { c with creditNear := min (4 * c.att.scanNear) (c.creditNear + c.att.scanNear)
             creditHbm := min (4 * c.att.scanHbm) (c.creditHbm + c.att.scanHbm)
             creditFlash := min (4 * c.att.scanFlash) (c.creditFlash + c.att.scanFlash)
             admittedInBead := 0 }
  else c

/-! ## The edge -/

/-- Units and settings: everything that decides which facets this bead's launches reach. -/
def unitsEdge (s : State) : State := shedEdge (settingEdge (releases (intervalActions s)))

/-- Collections: residence, frees, detached work, partial settings, merges and epochs. -/
def collsEdge (s : State) (b : Nat) : State :=
  let was := s.colls
  let s1 := freeAll (mapColls s fun _ c => residenceEdge b c) b
  let s2 := (was.map Prod.fst).foldl detachedEdge (foldedShares s1 was)
  partialEdge (collEdge s2 b) b

/-- Work of the bead that begins: credits, launches, and reads that may now issue. -/
def launchEdge (s : State) (b : Nat) (ord : List Nat) : State :=
  let s1 := launchQueries b ord (mapColls s fun _ c => creditEdge c)
  let s2 := issueAll (s1.search.queries.foldl (fun t q => rerankFetched ord (scoreHeld ord t q) q) s1)
  refreshViews (s2.modPools fun p => { p with rings := ringTotals s2 })

/-- The edge that begins a bead. -/
def beadEdge (pkgMw : Nat) (ord : List Nat) (s : State) : State :=
  let s0 := repliesDue (admissionGap s)
  let b := beadNow s0 + 1
  let s1 := unitsEdge (newBead s0 b)
  let s2 := learnEdge (collsEdge s1 b)
  let s3 := packageEdge pkgMw (branchesEdge (applyDue s2 b) b)
  actEarly (launchEdge s3 b ord)

/-- BEAD_EDGE: the mean package power of the bead that ends, and an order of terms for its reductions. -/
def execBeadEdge (pkgMw : Nat) (ord : List Nat) (s : State) : Res := .next (if beadsRun s then beadEdge pkgMw ord s else s)

end Sys2Proof.Machine
end

