-- ==== Sys2Proof/Machine/Dispatch.lean ====
section
/-! DEFINITION. The meaning of every command, one arm per row of the table. -/

namespace Sys2Proof.Machine

/-- The effect of a command on everything but the queue. -/
def exec (i : Instr) (s : State) : Host.Outcome State Fault Refusal :=
  match i with
  | .search c => Sys2Proof.Machine.execSearch c s
  | .searchRange c => Sys2Proof.Machine.execSearchRange c s
  | .readItem c => Sys2Proof.Machine.execReadItem c s
  | .insert c => Sys2Proof.Machine.execInsert c s
  | .delete c => Sys2Proof.Machine.execDelete c s
  | .upsert c => Sys2Proof.Machine.execUpsert c s
  | .flush c => Sys2Proof.Machine.execFlush c s
  | .filterPut c => Sys2Proof.Machine.execFilterPut c s
  | .filterDrop c => Sys2Proof.Machine.execFilterDrop c s
  | .learnStart c => Sys2Proof.Machine.execLearnStart c s
  | .learnStop c => Sys2Proof.Machine.execLearnStop c s
  | .epochPromote c => Sys2Proof.Machine.execEpochPromote c s
  | .mergeHint c => Sys2Proof.Machine.execMergeHint c s
  | .identify c => Sys2Proof.Machine.execIdentify c s
  | .collectionCreate c => Sys2Proof.Machine.execCollectionCreate c s
  | .collectionDelete c => Sys2Proof.Machine.execCollectionDelete c s
  | .collectionAttach c => Sys2Proof.Machine.execCollectionAttach c s
  | .collectionDetach c => Sys2Proof.Machine.execCollectionDetach c s
  | .queueCreate c => Sys2Proof.Machine.execQueueCreate c s
  | .queueDelete c => Sys2Proof.Machine.execQueueDelete c s
  | .settingLoad c => Sys2Proof.Machine.execSettingLoad c s
  | .firmwareLoad c => Sys2Proof.Machine.execFirmwareLoad c s
  | .attest c => Sys2Proof.Machine.execAttest c s
  | .powerState c => Sys2Proof.Machine.execPowerState c s
  | .keyLoad c => Sys2Proof.Machine.execKeyLoad c s
  | .mgmtRead c => Sys2Proof.Machine.execMgmtRead c s
  | .mgmtWrite c => Sys2Proof.Machine.execMgmtWrite c s
  | .eventArm c => Sys2Proof.Machine.execEventArm c s
  | .commandReady queue tag => Sys2Proof.Machine.execCommandReady queue tag s
  | .writeCommit queue tag slot ord => Sys2Proof.Machine.execWriteCommit queue tag slot ord s
  | .flushComplete queue tag => Sys2Proof.Machine.execFlushComplete queue tag s
  | .collectionWorkEnd coll => Sys2Proof.Machine.execCollectionWorkEnd coll s
  | .connect d => Sys2Proof.Machine.execConnect d s
  | .data d => Sys2Proof.Machine.execData d s
  | .ack port conn ackSeq => Sys2Proof.Machine.execAck port conn ackSeq s
  | .close port conn => Sys2Proof.Machine.execClose port conn s
  | .closeTakesEffect conn => Sys2Proof.Machine.execCloseTakesEffect conn s
  | .replyRetransmit conn => Sys2Proof.Machine.execReplyRetransmit conn s
  | .queue0Rebind conn => Sys2Proof.Machine.execQueue0Rebind conn s
  | .ethernetFrame f => Sys2Proof.Machine.execEthernetFrame f s
  | .ptpMessage port offsetNs fabricNs => Sys2Proof.Machine.execPtpMessage port offsetNs fabricNs s
  | .hostPortDown port => Sys2Proof.Machine.execHostPortDown port s
  | .hostPortUp port => Sys2Proof.Machine.execHostPortUp port s
  | .osfpCageOvercurrent port => Sys2Proof.Machine.execOsfpCageOvercurrent port s
  | .hostifRateWrite port rate => Sys2Proof.Machine.execHostifRateWrite port rate s
  | .hostifAddressWrite port off v => Sys2Proof.Machine.execHostifAddressWrite port off v s
  | .hostifLoopback port => Sys2Proof.Machine.execHostifLoopback port s
  | .beadEdge pkgMw ord => Sys2Proof.Machine.execBeadEdge pkgMw ord s
  | .admissionGap => Sys2Proof.Machine.execAdmissionGap  s
  | .cutPoint => Sys2Proof.Machine.execCutPoint  s
  | .multicastWindowClose tree => Sys2Proof.Machine.execMulticastWindowClose tree s
  | .ppsInEdge offsetNs widthNs => Sys2Proof.Machine.execPpsInEdge offsetNs widthNs s
  | .holdover => Sys2Proof.Machine.execHoldover  s
  | .linkTimeExchange link offsetNs fabricNs => Sys2Proof.Machine.execLinkTimeExchange link offsetNs fabricNs s
  | .bringUpInterval => Sys2Proof.Machine.execBringUpInterval  s
  | .pwrEnRise => Sys2Proof.Machine.execPwrEnRise  s
  | .powerGood mv => Sys2Proof.Machine.execPowerGood mv s
  | .pwrEnFall => Sys2Proof.Machine.execPwrEnFall  s
  | .resetNLow widthNs => Sys2Proof.Machine.execResetNLow widthNs s
  | .resetNRelease => Sys2Proof.Machine.execResetNRelease  s
  | .inputStepFall mv => Sys2Proof.Machine.execInputStepFall mv s
  | .inputStepRise mv => Sys2Proof.Machine.execInputStepRise mv s
  | .overvoltage mv => Sys2Proof.Machine.execOvervoltage mv s
  | .railDroop rail droopPermille => Sys2Proof.Machine.execRailDroop rail droopPermille s
  | .holdupFlushComplete => Sys2Proof.Machine.execHoldupFlushComplete  s
  | .holdupMeasurement t100us => Sys2Proof.Machine.execHoldupMeasurement t100us s
  | .moduleReset => Sys2Proof.Machine.execModuleReset  s
  | .pllUnlock refLost => Sys2Proof.Machine.execPllUnlock refLost s
  | .preparationEnd => Sys2Proof.Machine.execPreparationEnd  s
  | .entryProperComplete => Sys2Proof.Machine.execEntryProperComplete  s
  | .exitComplete => Sys2Proof.Machine.execExitComplete  s
  | .hbmStackTempRise stack t16 => Sys2Proof.Machine.execHbmStackTempRise stack t16 s
  | .hbmStackTempFall stack t16 => Sys2Proof.Machine.execHbmStackTempFall stack t16 s
  | .thermalCrossing x t16 => Sys2Proof.Machine.execThermalCrossing x t16 s
  | .hardwareTrip die => Sys2Proof.Machine.execHardwareTrip die s
  | .sourceLatch col mask acc unit => Sys2Proof.Machine.execSourceLatch col mask acc unit s
  | .collectorSelf col reactionState => Sys2Proof.Machine.execCollectorSelf col reactionState s
  | .blockResetComplete unit pass => Sys2Proof.Machine.execBlockResetComplete unit pass s
  | .coreWatchdogExpiry a b => Sys2Proof.Machine.execCoreWatchdogExpiry a b s
  | .coreReady isA => Sys2Proof.Machine.execCoreReady isA s
  | .coreStop isA => Sys2Proof.Machine.execCoreStop isA s
  | .snap space => Sys2Proof.Machine.execSnap space s
  | .clear space off all => Sys2Proof.Machine.execClear space off all s
  | .fcolStatusClear col mask => Sys2Proof.Machine.execFcolStatusClear col mask s
  | .fcolForce col mask => Sys2Proof.Machine.execFcolForce col mask s
  | .settingSpareHold hold => Sys2Proof.Machine.execSettingSpareHold hold s
  | .facetFence f => Sys2Proof.Machine.execFacetFence f s
  | .facetBist f => Sys2Proof.Machine.execFacetBist f s
  | .facetBistDone f pass => Sys2Proof.Machine.execFacetBistDone f pass s
  | .facetRelease f => Sys2Proof.Machine.execFacetRelease f s
  | .nearmemMbist b => Sys2Proof.Machine.execNearmemMbist b s
  | .nearmemMbistDone b pass => Sys2Proof.Machine.execNearmemMbistDone b pass s
  | .nearmemReturn b => Sys2Proof.Machine.execNearmemReturn b s
  | .hbmChRetrain ch => Sys2Proof.Machine.execHbmChRetrain ch s
  | .hbmRetrainStart ch => Sys2Proof.Machine.execHbmRetrainStart ch s
  | .hbmRetrainEnd ch pass => Sys2Proof.Machine.execHbmRetrainEnd ch pass s
  | .hbmRetrainTimeout ch => Sys2Proof.Machine.execHbmRetrainTimeout ch s
  | .pinnedCopyRestore coll page => Sys2Proof.Machine.execPinnedCopyRestore coll page s
  | .pageRefill coll page => Sys2Proof.Machine.execPageRefill coll page s
  | .hbmMbist ch => Sys2Proof.Machine.execHbmMbist ch s
  | .hbmMbistDone ch pass => Sys2Proof.Machine.execHbmMbistDone ch pass s
  | .hbmReturn ch => Sys2Proof.Machine.execHbmReturn ch s
  | .flashChRetrain c => Sys2Proof.Machine.execFlashChRetrain c s
  | .flashIfRetrainStart c => Sys2Proof.Machine.execFlashIfRetrainStart c s
  | .flashIfRetrainEnd c pass => Sys2Proof.Machine.execFlashIfRetrainEnd c pass s
  | .flashIfRetrainTimeout c => Sys2Proof.Machine.execFlashIfRetrainTimeout c s
  | .flashScrub c => Sys2Proof.Machine.execFlashScrub c s
  | .flashBypass c => Sys2Proof.Machine.execFlashBypass c s
  | .flashReturn c rate => Sys2Proof.Machine.execFlashReturn c rate s
  | .flashProngTest c => Sys2Proof.Machine.execFlashProngTest c s
  | .prongTestDone c pass => Sys2Proof.Machine.execProngTestDone c pass s
  | .wearLevelling c => Sys2Proof.Machine.execWearLevelling c s
  | .readDisturbRefresh c block => Sys2Proof.Machine.execReadDisturbRefresh c block s
  | .retentionScrub c block weak => Sys2Proof.Machine.execRetentionScrub c block weak s
  | .freeBlockCollection c => Sys2Proof.Machine.execFreeBlockCollection c s
  | .relocationComplete unit chan block => Sys2Proof.Machine.execRelocationComplete unit chan block s
  | .unitDrain coll page chan block => Sys2Proof.Machine.execUnitDrain coll page chan block s
  | .recoveryLadderEnd c coll page r => Sys2Proof.Machine.execRecoveryLadderEnd c coll page r s
  | .nop sid => Sys2Proof.Machine.execNop sid s
  | .seta sid x imm => Sys2Proof.Machine.execSeta sid x imm s
  | .adda sid x y imm => Sys2Proof.Machine.execAdda sid x y imm s
  | .sets sid x imm => Sys2Proof.Machine.execSets sid x imm s
  | .loop sid x imm => Sys2Proof.Machine.execLoop sid x imm s
  | .endl sid x => Sys2Proof.Machine.execEndl sid x s
  | .read sid x f imm => Sys2Proof.Machine.execRead sid x f imm s
  | .gather sid x y f imm => Sys2Proof.Machine.execGather sid x y f imm s
  | .skipmap sid y imm => Sys2Proof.Machine.execSkipmap sid y imm s
  | .tag sid f imm => Sys2Proof.Machine.execTag sid f imm s
  | .bead sid imm => Sys2Proof.Machine.execBead sid imm s
  | .write sid x => Sys2Proof.Machine.execWrite sid x s
  | .msaop sid x f => Sys2Proof.Machine.execMsaop sid x f s
  | .halt sid => Sys2Proof.Machine.execHalt sid s
  | .msaAdd ch addr fmt v => Sys2Proof.Machine.execMsaAdd ch addr fmt v s
  | .msaMin ch addr fmt v => Sys2Proof.Machine.execMsaMin ch addr fmt v s
  | .msaMax ch addr fmt v => Sys2Proof.Machine.execMsaMax ch addr fmt v s
  | .pieceComplete sid slot r => Sys2Proof.Machine.execPieceComplete sid slot r s
  | .prongScreen sid slot => Sys2Proof.Machine.execProngScreen sid slot s
  | .prongGate sid slot => Sys2Proof.Machine.execProngGate sid slot s
  | .prongPass sid slot => Sys2Proof.Machine.execProngPass sid slot s
  | .slotTake sid scale ord => Sys2Proof.Machine.execSlotTake sid scale ord s
  | .slotFinish sid => Sys2Proof.Machine.execSlotFinish sid s
  | .compaction qid => Sys2Proof.Machine.execCompaction qid s
  | .halfScaleRepeat qid ord => Sys2Proof.Machine.execHalfScaleRepeat qid ord s
  | .repeatedPass qid => Sys2Proof.Machine.execRepeatedPass qid s
  | .claspMergeStart qid st ties => Sys2Proof.Machine.execClaspMergeStart qid st ties s
  | .searchReply qid => Sys2Proof.Machine.execSearchReply qid s
  | .readItemReply queue tag uncorrectable => Sys2Proof.Machine.execReadItemReply queue tag uncorrectable s
  | .mergeBuildComplete coll aborted ord => Sys2Proof.Machine.execMergeBuildComplete coll aborted ord s
  | .signatureBuildComplete coll aborted ord => Sys2Proof.Machine.execSignatureBuildComplete coll aborted ord s
  | .microBatchStart run => Sys2Proof.Machine.execMicroBatchStart run s
  | .optimiserUpdate run aborted sid => Sys2Proof.Machine.execOptimiserUpdate run aborted sid s
  | .driftWindowEnd => Sys2Proof.Machine.execDriftWindowEnd  s
  | .learnDriftWindowWrite v => Sys2Proof.Machine.execLearnDriftWindowWrite v s
  | .learnDriftLimitWrite v => Sys2Proof.Machine.execLearnDriftLimitWrite v s
  | .learnSatClearOne queue => Sys2Proof.Machine.execLearnSatClearOne queue s
  | .learnSatClearTensor queue => Sys2Proof.Machine.execLearnSatClearTensor queue s
  | .partialSettingFence => Sys2Proof.Machine.execPartialSettingFence  s
  | .partialSettingRelease => Sys2Proof.Machine.execPartialSettingRelease  s
  | .linkTrainingComplete l peer => Sys2Proof.Machine.execLinkTrainingComplete l peer s
  | .ident l m => Sys2Proof.Machine.execIdent l m s
  | .discoveryTimeout => Sys2Proof.Machine.execDiscoveryTimeout  s
  | .linkDown l => Sys2Proof.Machine.execLinkDown l s
  | .linkRetrainTimer l => Sys2Proof.Machine.execLinkRetrainTimer l s
  | .retry l seq => Sys2Proof.Machine.execRetry l seq s
  | .flitError l uncorrectable => Sys2Proof.Machine.execFlitError l uncorrectable s
  | .faultNotice l n => Sys2Proof.Machine.execFaultNotice l n s
  | .repairNotice l n => Sys2Proof.Machine.execRepairNotice l n s
  | .mgmtAccess l h body => Sys2Proof.Machine.execMgmtAccess l h body s
  | .query l h range c => Sys2Proof.Machine.execQuery l h range c s
  | .bundleEnd l h => Sys2Proof.Machine.execBundleEnd l h s
  | .bundleAck l h => Sys2Proof.Machine.execBundleAck l h s
  | .bundleDrop l h => Sys2Proof.Machine.execBundleDrop l h s
  | .list l h b => Sys2Proof.Machine.execList l h b s
  | .gatherReq l h slots => Sys2Proof.Machine.execGatherReq l h slots s
  | .gatherRows l h rows => Sys2Proof.Machine.execGatherRows l h rows s
  | .fabricLinkRetrain l => Sys2Proof.Machine.execFabricLinkRetrain l s
  | .fabricLoopback l => Sys2Proof.Machine.execFabricLoopback l s
  | .fabricSetDown l => Sys2Proof.Machine.execFabricSetDown l s
  | .revokeSlot => Sys2Proof.Machine.execRevokeSlot  s
  | .advanceLifecycle => Sys2Proof.Machine.execAdvanceLifecycle  s
  | .debugOpen => Sys2Proof.Machine.execDebugOpen  s
  | .setDebugLock => Sys2Proof.Machine.execSetDebugLock  s
  | .hubHotClear => Sys2Proof.Machine.execHubHotClear  s
  | .boundaryScanInstruction sel => Sys2Proof.Machine.execBoundaryScanInstruction sel s
  | .fruAccess op => Sys2Proof.Machine.execFruAccess op s
  | .osfpModuleInserted port supported => Sys2Proof.Machine.execOsfpModuleInserted port supported s
  | .osfpModuleRemoved port => Sys2Proof.Machine.execOsfpModuleRemoved port s
  | .installationComplete coll page => Sys2Proof.Machine.execInstallationComplete coll page s
  | .credit l ackSeq cls buf n => Sys2Proof.Machine.execCredit l ackSeq cls buf n s

end Sys2Proof.Machine
end

