-- ==== Sys2Proof/Safety.lean ====
section
/-! DEFINITION. What every state of a run keeps, in the terms of the statements. -/

namespace Sys2Proof.Machine

/-- The addressed memories are in canonical form. -/
def State.memOk (s : State) : Bool := s.facetRam.wf && s.near.bytes.wf && s.hbm.scratch.wf

/-- The fuses and their redundant copy agree (R367). -/
def State.fusesAgree (s : State) : Prop := s.locket.fuses = s.locket.copy

/-- Three stores stay within their size: the event log (R264), the transmit store (R248) and every event counter (R350). -/
def State.inBounds (s : State) : Prop :=
  s.events.log.length ≤ 512 ∧ s.host.storeUsed ≤ 2 ^ 30 ∧ ∀ c ∈ s.counters.counts, c.2.val ≤ 2 ^ 48 - 1

/-- What one command may do to the fuses: nothing, or burn more of them. Lifecycle codes rise (R367, R373, R375). -/
def Fuses.burnsTo (a b : Fuses) : Prop :=
  b.root0 = a.root0 ∧ b.root1 = a.root1 ∧ b.seed = a.seed ∧ b.part = a.part ∧ b.maxFabricLog2 = a.maxFabricLog2 ∧
    a.lifecycle.toNat ≤ b.lifecycle.toNat ∧ (∀ i, a.debugLock.getLsbD i = true → b.debugLock.getLsbD i = true) ∧
    ∀ i, a.revoked.getLsbD i = true → b.revoked.getLsbD i = true

/-- A connection that can be sent to: open and not failed (R249). -/
def State.live (s : State) (c : Nat) : Prop := (getConn s c).map (fun k => (k.failed, k.closed)) = some (false, false)

/-- A command completes, and the next state has a property. -/
def completes (i : Instr) (s : State) (p : State → Prop) : Prop := ∃ t, exec i s = .next t ∧ p t

/-! ## Commands that a host submits -/

/-- The command of a capsule that arrives now. -/
def arrival (op : BitVec 8) (c : Capsule) (s : State) : Cmd := ⟨refOf op c, c, s.queues.arrivals, .held, 0⟩

/-- The module once an arriving capsule holds its tag (R251, R252): counted on its connection and last in its queue. -/
def queued (op : BitVec 8) (c : Capsule) (s : State) : State :=
  match getConn s c.conn with
  | none => s
  | some k =>
    let s1 := takeTag (setConn s c.conn { k with open_ := k.open_ + 1 }) c.queue.toNat c.tag.toNat
    wakeUp (s1.modQueues fun u => { u with cmds := u.cmds ++ [arrival op c s], arrivals := u.arrivals + 1 }) op

/-- A capsule arrives on a live connection, its tag is not in use, it passes the checks of R252, and nothing makes it
wait (R254 to R257). -/
def submits (op : BitVec 8) (c : Capsule) (s : State) : Prop :=
  s.power.phase = .up ∧ s.live c.conn ∧ headCheck s c = 0 ∧ findCmd s c.queue.toNat c.tag.toNat = none ∧
    bodyCheck s op c = 0 ∧ cmdReady (queued op c s) (arrival op c s) = true

/-- A command has its reply: it was sent, its tag is free, and nothing of it is left in its queue (R251, R267). -/
def answered (r : CmdRef) (st : BitVec 16) (area : BitVec 320) (body : List Byte) (t : State) : Prop :=
  .reply r st area body ∈ t.out ∧ findCmd t r.queue r.tag = none ∧
    ∀ u, t.queues.queues.get r.queue = some u → u.tags.getLsbD r.tag = false

/-- No reply leaves between two states. -/
def noReply (s t : State) : Prop := ∀ r st a b, .reply r st a b ∈ t.out → .reply r st a b ∈ s.out

/-- The fields of a state but the queue. -/
inductive Field where
  | out | free | time | power | cores | locket | host | queues | events | counters | loader | facets
  | facetRam | collectors | near | hbm | flash | colls | pools | streams | search | fabric | learn | board
  deriving DecidableEq, Repr

/-- A field reads the same in two states. -/
def State.same (p : Field) (s t : State) : Prop :=
  match p with
  | .out => t.out = s.out
  | .free => t.free = s.free
  | .time => t.time = s.time
  | .power => t.power = s.power
  | .cores => t.cores = s.cores
  | .locket => t.locket = s.locket
  | .host => t.host = s.host
  | .queues => t.queues = s.queues
  | .events => t.events = s.events
  | .counters => t.counters = s.counters
  | .loader => t.loader = s.loader
  | .facets => t.facets = s.facets
  | .facetRam => t.facetRam = s.facetRam
  | .collectors => t.collectors = s.collectors
  | .near => t.near = s.near
  | .hbm => t.hbm = s.hbm
  | .flash => t.flash = s.flash
  | .colls => t.colls = s.colls
  | .pools => t.pools = s.pools
  | .streams => t.streams = s.streams
  | .search => t.search = s.search
  | .fabric => t.fabric = s.fabric
  | .learn => t.learn = s.learn
  | .board => t.board = s.board

/-- Every field but those listed. -/
def Field.but (xs : List Field) : List Field :=
  [.out, .free, .time, .power, .cores, .locket, .host, .queues, .events, .counters, .loader, .facets, .facetRam,
    .collectors, .near, .hbm, .flash, .colls, .pools, .streams, .search, .fabric, .learn, .board].filter
    fun p => !xs.contains p

/-- The fields each command may change. Every other field of the state keeps its value (R15). -/
def touched (i : Instr) : List Field :=
  match i with
  | .search .. | .searchRange .. =>
      [.out, .power, .host, .queues, .events, .counters, .loader, .flash, .colls, .pools, .search, .fabric]
  | .readItem .. => [.out, .power, .host, .queues, .events, .counters, .loader, .flash, .pools, .search]
  | .insert .. | .upsert .. => [.out, .power, .host, .queues, .events, .counters, .loader, .flash, .pools, .streams]
  | .delete .. | .flush .. | .filterPut .. | .filterDrop .. | .identify .. | .queueCreate .. | .queueDelete ..
  | .attest .. | .powerState .. | .eventArm .. | .mgmtRead .. =>
      [.out, .power, .host, .queues, .events, .counters, .loader, .flash, .pools]
  | .learnStart .. => [.out, .power, .host, .queues, .events, .counters, .loader, .flash, .pools, .streams, .learn]
  | .learnStop .. => [.out, .power, .host, .queues, .events, .counters, .loader, .flash, .pools, .learn]
  | .epochPromote .. | .mergeHint .. =>
      [.out, .power, .host, .queues, .events, .counters, .loader, .flash, .colls, .pools, .streams]
  | .collectionCreate .. | .collectionAttach .. =>
      [.out, .power, .host, .queues, .events, .counters, .loader, .flash, .colls, .pools]
  | .collectionDelete .. | .collectionDetach .. =>
      [.out, .free, .power, .host, .queues, .events, .counters, .loader, .flash, .colls, .pools, .streams, .search,
        .fabric]
  | .settingLoad .. | .beadEdge .. => Field.but [.facetRam, .board]
  | .firmwareLoad .. | .revokeSlot .. | .advanceLifecycle .. | .debugOpen .. | .setDebugLock .. =>
      Field.but [.time, .facetRam, .board]
  | .partialSettingRelease .. | .settingSpareHold .. => [.loader]
  | .keyLoad .. => [.out, .power, .locket, .host, .queues, .events, .counters, .loader, .flash, .pools]
  | .mgmtWrite .. => Field.but [.time, .board]
  | .commandReady .. | .data .. | .ethernetFrame .. | .holdupFlushComplete .. => Field.but [.board]
  | .writeCommit .. =>
      [.out, .free, .host, .queues, .events, .counters, .loader, .flash, .colls, .pools, .streams, .learn]
  | .flushComplete .. => [.out, .host, .queues, .events, .counters, .flash, .pools]
  | .collectionWorkEnd .. =>
      [.out, .locket, .host, .queues, .events, .counters, .loader, .flash, .colls, .pools, .learn]
  | .connect .. => [.out, .free, .host, .queues]
  | .ack .. => [.host, .events]
  | .close .. | .hostifAddressWrite .. | .osfpModuleInserted .. | .hostifRateWrite .. => [.host]
  | .closeTakesEffect .. | .replyRetransmit .. => [.out, .host, .queues, .events, .counters, .loader]
  | .queue0Rebind .. => [.host, .queues]
  | .ptpMessage .. => [.out, .time, .loader, .fabric]
  | .hostPortDown .. | .osfpCageOvercurrent .. | .hostifLoopback .. | .railDroop .. | .holdupMeasurement ..
  | .hbmStackTempRise .. | .thermalCrossing .. | .sourceLatch .. | .collectorSelf .. | .blockResetComplete ..
  | .coreWatchdogExpiry .. | .fcolForce .. | .facetBistDone .. | .hbmRetrainEnd .. | .hbmRetrainTimeout ..
  | .hbmMbist .. | .prongTestDone .. | .recoveryLadderEnd .. | .slotTake .. | .readItemReply .. | .ident ..
  | .discoveryTimeout .. | .linkDown .. | .retry .. | .faultNotice .. | .repairNotice .. | .fabricLoopback ..
  | .fabricSetDown .. | .osfpModuleRemoved .. | .optimiserUpdate .. =>
      Field.but [.free, .time, .locket, .facetRam, .board]
  | .hostPortUp .. => [.host, .collectors]
  | .admissionGap .. | .cutPoint .. =>
      [.out, .free, .time, .host, .queues, .events, .counters, .flash, .pools, .streams, .search, .fabric]
  | .multicastWindowClose .. => [.time, .fabric]
  | .ppsInEdge .. => [.out, .time, .host, .events, .counters, .loader, .fabric]
  | .holdover .. => [.out, .time, .host, .events, .counters]
  | .linkTimeExchange .. | .pllUnlock .. | .bringUpInterval .. => Field.but [.free, .locket, .facetRam, .board]
  | .pwrEnRise .. | .inputStepRise .. | .preparationEnd .. | .hubHotClear .. => [.power]
  | .powerGood .. | .resetNRelease .. => [.free, .power, .locket, .host]
  | .pwrEnFall .. => Field.but [.free, .board]
  | .resetNLow .. | .inputStepFall .. | .overvoltage .. | .hardwareTrip .. =>
      [.out, .power, .host, .queues, .events, .counters, .flash, .pools, .streams]
  | .moduleReset .. => Field.but [.out, .board]
  | .entryProperComplete .. => [.out, .power, .host, .queues, .events, .counters, .flash, .pools]
  | .exitComplete .. => [.power, .colls, .pools, .search, .fabric]
  | .hbmStackTempFall .. | .hbmChRetrain .. | .hbmRetrainStart .. | .hbmReturn .. => [.hbm]
  | .coreReady .. => [.cores, .collectors]
  | .coreStop .. => [.cores]
  | .snap .. | .clear .. | .learnSatClearOne .. | .learnSatClearTensor .. => [.counters]
  | .fcolStatusClear .. => [.collectors]
  | .facetFence .. | .facetBist .. =>
      [.out, .host, .queues, .events, .counters, .loader, .facets, .flash, .colls, .pools, .streams, .search, .learn]
  | .partialSettingFence .. | .read .. | .gather .. | .write .. | .msaop .. | .pieceComplete ..
  | .slotFinish .. | .linkTrainingComplete .. => Field.but [.time, .locket, .facetRam, .board]
  | .facetRelease .. => [.facets]
  | .nearmemMbist .. => [.out, .host, .events, .counters, .near, .colls, .streams]
  | .nearmemMbistDone .. => [.collectors, .near]
  | .nearmemReturn .. => [.near]
  | .pinnedCopyRestore .. => [.colls]
  | .pageRefill .. | .installationComplete .. => [.flash, .colls]
  | .hbmMbistDone .. => [.collectors, .hbm]
  | .flashChRetrain .. | .flashIfRetrainStart .. | .flashIfRetrainEnd .. | .flashIfRetrainTimeout ..
  | .flashScrub .. | .flashBypass .. | .flashProngTest .. | .wearLevelling .. | .readDisturbRefresh ..
  | .retentionScrub .. => [.flash]
  | .flashReturn .. => [.collectors, .flash]
  | .freeBlockCollection .. | .relocationComplete .. => [.out, .host, .events, .counters, .flash]
  | .unitDrain .. => [.out, .host, .events, .counters, .flash, .colls, .pools]
  | .nop .. | .seta .. | .adda .. | .sets .. | .loop .. | .endl .. | .skipmap .. | .tag .. | .bead ..
  | .halt .. | .prongScreen .. | .prongGate .. | .prongPass .. => [.streams]
  | .msaAdd .. | .msaMin .. | .msaMax .. => [.out, .host, .events, .counters, .near, .hbm]
  | .compaction .. | .halfScaleRepeat .. => [.out, .host, .events, .counters, .search]
  | .repeatedPass .. => [.out, .free, .host, .events, .counters, .pools, .streams, .search, .fabric]
  | .claspMergeStart .. => [.out, .host, .events, .counters, .pools, .streams, .search, .fabric]
  | .searchReply .. => [.out, .host, .queues, .events, .counters, .flash, .pools, .streams, .search]
  | .mergeBuildComplete .. => [.out, .host, .events, .counters, .colls, .streams, .learn]
  | .signatureBuildComplete .. =>
      [.out, .free, .host, .queues, .events, .counters, .flash, .colls, .pools, .streams, .learn]
  | .microBatchStart .. => [.out, .free, .host, .events, .counters, .streams, .learn]
  | .driftWindowEnd .. => [.out, .host, .events, .counters, .colls, .learn]
  | .learnDriftWindowWrite .. | .learnDriftLimitWrite .. => [.learn]
  | .linkRetrainTimer .. => [.fabric]
  | .flitError .. => [.out, .host, .events, .counters, .fabric]
  | .mgmtAccess .. | .query .. | .bundleEnd .. | .bundleAck .. | .bundleDrop .. | .list .. | .gatherReq ..
  | .gatherRows .. => [.out, .free, .power, .host, .events, .counters, .colls, .pools, .search, .fabric]
  | .fabricLinkRetrain .. | .credit .. => [.out, .fabric]
  | .boundaryScanInstruction .. | .fruAccess .. => [.out, .board]

end Sys2Proof.Machine
end

