-- ==== Sys2Proof/Certificates/Slice0/Obligations.lean ====
section
/-! DEFINITION. The statements about the model, for the provers: each formalises rules of the spec that its docstring cites. -/

section Slice0
open Sys2Proof Sys2Proof.Machine

/-- A step takes the command at the front of the queue and answers exec of it on the state with the queue's rest; on an
empty queue it answers the idle tick (log entry 1) (R15). -/
def Obligations.StepRunsFront : Prop :=
  (∀ (c : Instr) (rest : List Instr) (s : State), s.pending = c :: rest → step s = exec c { s with pending := rest }) ∧
  (∀ s : State, s.pending = [] → step s = .next (idleTick s))

/-- The model's own choice, log entry 1: with no command waiting, a module that holds fabric time lets 1 ns pass, never past
the cut point, the admission gap or the edge; nothing else changes (R101, R103, R105). -/
def Obligations.IdleTime : Prop :=
  ∀ s : State, s.pending = [] →
    (s.time.held = false → step s = .next s) ∧
    (s.time.held = true → s.time.now % periodNs s + 2000 < periodNs s →
      step s = .next { s with time := { s.time with now := s.time.now + 1 } }) ∧
    (∀ t, step s = .next t → beadNow t = beadNow s ∧ ∀ p : Field, p ≠ .time → State.same p s t)

/-- At reset the module is off, nothing is queued, no setting, no fabric time and no collection is held, the collectors
start in the modes of R342 with empty status words, and the drift window and limit have the values of the register map; its
memories list nothing, its fuses agree with their copy, and its stores are within their bounds, so that the invariants of
the model hold. -/
def Obligations.ResetLeaves : Prop :=
  (State.reset.pending = [] ∧ State.reset.power.phase = .off ∧ State.reset.time.held = false ∧
  State.reset.loader.setting = none ∧ State.reset.fabric.assigned = false ∧
  State.reset.learn.driftW = 4096 ∧ State.reset.learn.driftD = 64 ∧
  (∀ c, c < 68 → (getCol State.reset c).mode = false) ∧ (∀ c, 68 ≤ c → c < 73 → (getCol State.reset c).mode = true) ∧
  (∀ c, (getCol State.reset c).status = 0) ∧
  State.reset.facetRam = [] ∧ State.reset.near.bytes = [] ∧ State.reset.hbm.scratch = [] ∧
  State.reset.colls = [] ∧ State.reset.events.log = [] ∧ State.reset.flash.wbuf = []) ∧
  (State.reset.memOk = true ∧ State.reset.fusesAgree ∧ State.reset.inBounds)

/-- Whatever the command, a step keeps the addressed memories in canonical form, at most 512 records in the event log
(R264), at most 1 GiB in the transmit store (R248) and every event counter within 48 bits (R350). -/
def Obligations.StepKeepsForm : Prop :=
  ∀ s t : State, s.memOk = true → s.inBounds → step s = .next t → t.memOk = true ∧ t.inBounds

/-- Whatever the command, a step only burns fuses: the lifecycle code does not fall, no revocation and no bit of the debug
lock is undone, and the roots, the seed, the part and the fabric limit stay; a redundant copy that agreed still agrees
(R367, R368, R373, R375). -/
def Obligations.FusesOnlyBurn : Prop :=
  ∀ s t : State, step s = .next t →
    s.locket.fuses.burnsTo t.locket.fuses ∧ (s.fusesAgree → t.fusesAgree)

/-- For every command of the table, a next state has the same queue, and every field of the state that `touched` does not
list for the command keeps its value (R15, R10). -/
def Obligations.CommandFrames : Prop :=
  ∀ (c : Instr) (s t : State), exec c s = .next t →
    t.pending = s.pending ∧ ∀ p : Field, p ∉ touched c → State.same p s t

/-- PWR_EN starts the converters, power good starts step 2 when RESET_N is high and waits in step 1 when it is low, a failed
fuse check ends the power-up with ERR_N asserted, the fall of PWR_EN powers off or begins an orderly shutdown, and RESET_N
low for 1 µs asks for a reset (R336, R397, R398, R399, R400). -/
def Obligations.PowerPinsAct : Prop :=
  (∀ s : State, s.power.phase = .off →
    exec .pwrEnRise s = .next { s with power := { s.power with pwrEn := true, phase := .starting, errBoot := true } }) ∧
  (∀ (s : State) (mv : Nat), s.power.phase = .starting → 40000 ≤ mv → s.power.resetN = true → fusesOk s.locket = true →
    completes (.powerGood mv) s fun t => t.power.phase = .up ∧ t.power.inputMv = mv ∧ t.power.errBoot = false ∧
      t.locket.lifecycle = s.locket.fuses.lifecycle ∧ t.locket.keys = [] ∧ t.locket.fuses = s.locket.fuses) ∧
  (∀ (s : State) (mv : Nat), s.power.phase = .starting → 40000 ≤ mv → s.power.resetN = false →
    completes (.powerGood mv) s fun t => t.power.phase = .inReset ∧ t.locket = s.locket) ∧
  (∀ (s : State) (mv : Nat), s.power.phase = .starting → 40000 ≤ mv → s.power.resetN = true → fusesOk s.locket = false →
    completes (.powerGood mv) s fun t => t.power.phase = .failed ∧ t.power.errBoot = true) ∧
  (∀ s : State, s.power.phase = .starting →
    completes .pwrEnFall s fun t => t.power.phase = .off ∧ t.power.pwrEn = false) ∧
  (∀ s : State, s.power.phase = .up →
    completes .pwrEnFall s fun t => t.power.phase = .flushing ∧ t.power.downAfter = true) ∧
  (∀ (s : State) (w : Nat), w < 1000 → exec (.resetNLow w) s = .next s) ∧
  (∀ (s : State) (w : Nat), 1000 ≤ w → s.power.phase = .up →
    completes (.resetNLow w) s fun t => t.power.resetAfter = true) ∧
  (∀ s : State, s.power.phase = .inReset → fusesOk s.locket = true →
    completes .resetNRelease s fun t => t.power.phase = .up ∧ t.power.resetN = true)

/-- A falling input raises the effective shed step to the deepest threshold crossed and never lowers it; a rising input only
marks thresholds for the next edge; overvoltage takes step 5 at once; a rail that droops further raises its source (R359,
R360, R361, R363). -/
def Obligations.SupplyStepsAct : Prop :=
  (∀ (s : State) (mv : Nat), s.power.phase = .up →
    let below := ((shedTable s).zip s.power.below).map fun x => x.2 || decide (mv < x.1.1)
    let p := { s.power with inputMv := mv, below := below }
    completes (.inputStepFall mv) s fun t =>
      t.power.inputMv = mv ∧ t.power.below = below ∧ t.power.effective = max s.power.effective (deepest p) ∧
      (s.power.effective < 4 → 4 ≤ deepest p → t.power.flushing = true) ∧
      (s.power.effective < 5 → 5 ≤ deepest p → t.power.phase = .flushing)) ∧
  (∀ (s : State) (mv : Nat), s.power.phase = .up →
    let below := ((shedTable s).zip s.power.below).map fun x => x.2 && !(x.1.2 != 0 && decide (x.1.2 ≤ mv))
    exec (.inputStepRise mv) s = .next { s with power := { s.power with inputMv := mv, below := below } }) ∧
  (∀ (s : State) (mv : Nat), s.power.phase = .up → 62000 < mv → s.power.effective < 5 →
    completes (.overvoltage mv) s fun t =>
      t.power.overvolt = true ∧ t.power.effective = 5 ∧ t.power.phase = .flushing ∧ t.power.flushing = true) ∧
  (∀ (s : State) (rail d : Nat), s.power.phase = .up → railStep (s.power.rails.getD rail 0) d ≤ s.power.rails.getD rail 0 →
    exec (.railDroop rail d) s =
      .next { s with power := { s.power with rails := updAt s.power.rails rail fun _ => railStep (s.power.rails.getD rail 0) d } }) ∧
  (∀ (s : State) (rail d : Nat), s.power.phase = .up → s.power.rails.getD rail 0 < railStep (s.power.rails.getD rail 0) d →
    let s1 : State := { s with power := { s.power with
      rails := updAt s.power.rails rail fun _ => railStep (s.power.rails.getD rail 0) d } }
    exec (.railDroop rail d) s = .next (enterSteps (raiseSrc s1 72 27 .nothing) (deepest (raiseSrc s1 72 27 .nothing).power) 0))

/-- A flush that ends drains the write buffer and resumes or powers down, a hold-up measurement sets or lowers HOLDUP_LOW, a
module reset runs step 2 again with everything of R338 lost and nothing of the board or the fuses changed, and the loss of
lock in the root PLL raises its source. -/
def Obligations.FlushAndResetEnd : Prop :=
  (∀ s : State, s.power.flushing = true → s.power.downAfter = false → s.power.resetAfter = false →
    completes .holdupFlushComplete s fun t => t.power.flushing = false ∧ t.flash.wbuf = [] ∧ t.colls = s.colls) ∧
  (∀ s : State, s.power.flushing = true → s.power.downAfter = true →
    completes .holdupFlushComplete s fun t => t.flash.wbuf = [] ∧ t.power.shutdownRecord = true ∧
      t.power.phase = (if s.power.pwrEn then .starting else .off) ∧ t.host.conns = [] ∧ t.locket.keys = []) ∧
  (∀ (s : State) (n : Nat), s.power.phase = .up → 400 ≤ n →
    exec (.holdupMeasurement n) s =
      .next (dropPins { s with power := { s.power with holdup := min n 65535, holdupLow := false } } 72 (bit64 10))) ∧
  (∀ (s : State) (n : Nat), s.power.phase = .up → n < 400 →
    let s1 : State := { s with power := { s.power with holdup := n, holdupLow := true } }
    exec (.holdupMeasurement n) s = .next (if s.power.holdupLow then s1 else raiseSrc s1 72 10 .nothing)) ∧
  (∀ s : State, s.power.phase = .up → s.power.resetDue = true → s.power.resetN = true → fusesOk s.locket = true →
    completes .moduleReset s fun t => t.power.phase = .up ∧ t.power.resetDue = false ∧ t.power.shutdownRecord = false ∧
      t.flash.wbuf = [] ∧ t.queues.cmds = [] ∧ t.host.conns = [] ∧ t.locket.keys = [] ∧ t.loader.setting = none ∧
      t.time.held = false ∧ t.board = s.board ∧ t.locket.fuses = s.locket.fuses) ∧
  (∀ s : State, s.power.phase = .up →
    exec (.pllUnlock false) s = .next (raiseSrc { s with power := { s.power with pllLocked := false } } 72 22 .nothing)) ∧
  (∀ s : State, s.power.phase = .up →
    exec (.pllUnlock true) s = .next (raiseSrc { s with power := { s.power with pllLocked := false },
                                                        time := { s.time with held := false } } 72 22 .nothing))

/-- A preparation ends when no work is in flight, the entry proper ends with the target in force and the command answered,
an exit returns to P0, and HUB_HOT clears below its limit (R259, R260, R261, R366). -/
def Obligations.PowerStatesMove : Prop :=
  (∀ s : State, s.power.phase = .up → s.power.preparing = true → s.power.prepBead < beadNow s → workInFlight s = false →
    (s.power.target = 3 → s.flash.wbuf = []) →
    exec .preparationEnd s = .next { s with power := { s.power with preparing := false, entering := true } }) ∧
  (∀ s : State, s.power.phase = .up → s.power.entering = true → s.power.psCmd = none →
    completes .entryProperComplete s fun t => t.power.entering = false ∧ t.power.pstate = s.power.target ∧
      t.power.frozen = some (freeze s) ∧
      t.power.exiting = (!s.fabric.asleep.isEmpty || s.queues.cmds.any (fun c => c.stage == .held && !staysLow c.ref.op))) ∧
  (∀ (s : State) (r : CmdRef), s.power.phase = .up → s.power.entering = true → s.power.psCmd = some r →
    completes .entryProperComplete s fun t => t.power.entering = false ∧ t.power.pstate = s.power.target ∧
      t.power.psCmd = none ∧ (∀ c ∈ t.queues.cmds, sameCmd r.queue r.tag c = false)) ∧
  (∀ s : State, s.power.phase = .up → s.power.exiting = true →
    completes .exitComplete s fun t => t.power = { s.power with exiting := false, pstate := 0, target := 0, frozen := none } ∧
      t.fabric.asleep = [] ∧ (s.fabric.asleep = [] → t.search = s.search ∧ t.colls = s.colls)) ∧
  (∀ s : State, s.power.phase = .up → s.power.hubTemp < 1600 →
    exec .hubHotClear s = .next { s with power := { s.power with hubHot := false } }) ∧
  (∀ s : State, s.power.phase = .up → 1600 ≤ s.power.hubTemp → exec .hubHotClear s = .next s)

/-- A stack that does not reach 105 °C, or is fenced already, takes the step that its temperature names, and a falling one
only lowers it, with the fence standing; a flash package takes and leaves 80 °C and 85 °C with hysteresis, THERM_N is
asserted while any sensor holds it, and the hardware trip asserts ERR_N and shuts down (R189, R366). -/
def Obligations.HeatSteps : Prop :=
  (∀ (s : State) (k : Nat) (c : Int), s.power.phase = .up → k < s.hbm.hbmStacks.length →
    let old := s.hbm.hbmStacks.getD k ⟨0, 0, false⟩
    c < 1680 ∨ old.fenced = true →
    completes (.hbmStackTempRise k c) s fun t =>
      t.hbm.hbmStacks.getD k ⟨0, 0, false⟩ = ⟨c, heatTaken old.heat c, old.fenced⟩ ∧
      (∀ j, j ≠ k → t.hbm.hbmStacks.getD j ⟨0, 0, false⟩ = s.hbm.hbmStacks.getD j ⟨0, 0, false⟩) ∧ t.hbm.chans = s.hbm.chans) ∧
  (∀ (s : State) (k : Nat) (c : Int), s.power.phase = .up → k < s.hbm.hbmStacks.length →
    let old := s.hbm.hbmStacks.getD k ⟨0, 0, false⟩
    exec (.hbmStackTempFall k c) s = .next (setStack s k ⟨c, min old.heat (heatTaken old.heat c), old.fenced⟩)) ∧
  (∀ (s : State) (c : Nat) (d : Int), s.power.phase = .up → c < s.flash.chans.length →
    completes (.thermalCrossing (.flash c) d) s fun t =>
      (getFlashCh t c).hot80 = hyst (getFlashCh s c).hot80 d 1280 1200 ∧
      (getFlashCh t c).hot85 = hyst (getFlashCh s c).hot85 d 1360 1280 ∧
      (thermN t = true ↔ hyst (getFlashCh s c).hot85 d 1360 1280 = true ∨ ∃ x ∈ s.power.thermHold, x ≠ .flash c)) ∧
  (∀ (s : State) (d : Nat), s.power.phase = .up →
    completes (.hardwareTrip d) s fun t => t.power.errTrip = true ∧ t.power.phase = .flushing ∧ t.power.downAfter = true)

/-- R342: both capture modes of a collector, the lowest source of several, OVERFLOW, the frozen capture, and when it is
armed again. -/
def Obligations.FirstErrorCapture : Prop :=
  ∀ (c : Collector) (mask : BitVec 64) (acc : Access) (time : Nat),
    let d := c.latch mask acc time
    (∀ i, d.status.getLsbD i = (c.status.getLsbD i || mask.getLsbD i)) ∧
    (c.status = 0 → mask ≠ 0 → d.valid = true ∧
      (∃ n, n < 64 ∧ d.source = BitVec.ofNat 6 n ∧ mask.getLsbD n = true ∧ ∀ j, j < n → mask.getLsbD j = false) ∧
      (c.armedMode = true → d.access = acc.access ∧ d.master = acc.master ∧ d.capAddr = acc.addr ∧
        d.capTime = BitVec.ofNat 64 time) ∧
      (c.armedMode = false → d.access = 0 ∧ d.master = 0 ∧ d.capAddr = 0 ∧ d.capTime = 0)) ∧
    (c.status ≠ 0 → d.source = c.source ∧ d.valid = c.valid ∧ d.access = c.access ∧ d.master = c.master ∧
      d.capAddr = c.capAddr ∧ d.capTime = c.capTime) ∧
    (c.status ≠ 0 → (∃ i, mask.getLsbD i = true ∧ c.status.getLsbD i = false) → d.overflow = true) ∧
    (c.status = 0 → (∃ i j, i < j ∧ mask.getLsbD i = true ∧ mask.getLsbD j = true) → d.overflow = true) ∧
    (c.status ≠ 0 → rearm c = c) ∧
    (c.status = 0 → (rearm c).valid = false ∧ (rearm c).overflow = false ∧ (rearm c).armedMode = c.mode) ∧
    (c.status = 0 → c.mode = false → (rearm c).access = 0 ∧ (rearm c).master = 0 ∧ (rearm c).capAddr = 0 ∧ (rearm c).capTime = 0) ∧
    d.armedMode = c.armedMode ∧ d.mode = c.mode ∧
    (∀ (s : State) (col v : Nat), col < s.collectors.length → (getCol (writeCollector s col 0x10 v) col).mode = bitOf v 0 ∧
      (getCol (writeCollector s col 0x10 v) col).armedMode = (getCol s col).armedMode) ∧
    (∀ (s : State) (col src : Nat) (u : UnitName), raiseSrc s col src u = raiseMask s col (bit64 src) (noAccess col src) u) ∧
    (∀ col src, (noAccess col src).addr = 0 ∧ (noAccess col src).access = 0 ∧ (noAccess col src).master ≠ 0xFFFF) ∧
    (∀ n, n < 68 → (getCol State.reset n).mode = false) ∧ ∀ n, 68 ≤ n → n < 73 → (getCol State.reset n).mode = true

/-- A latched source stands in its status word, FCOL_FORCE raises what a latch raises, a status bit clears only when its pin
has fallen and it is no summary, and a collector that fails itself fences its facet, raises its source or goes to its
defaults (R339, R341, R347, R349, R408). -/
def Obligations.SourceCommands : Prop :=
  (∀ (s : State) (col : Nat) (mask : BitVec 64) (acc : Access) (u : UnitName), s.power.phase = .up → col < 73 →
    s.collectors.length = 73 →
    completes (.sourceLatch col mask acc u) s fun t =>
      t = raiseMask s col (ownSources col mask) acc u ∧
      ∀ i, i < sourceCount col → mask.getLsbD i = true → isSummary col i = false → (getCol t col).status.getLsbD i = true) ∧
  (∀ (s : State) (col : Nat) (mask : BitVec 64), s.power.phase = .up →
    exec (.fcolForce col mask) s = .next (raiseMask s col (ownSources col mask) ⟨0, 0, 0xFFFF⟩ .nothing)) ∧
  (∀ (col : Nat) (mask : BitVec 64) (i : Nat), (ownSources col mask).getLsbD i = (mask.getLsbD i && !isSummary col i)) ∧
  (∀ (s : State) (col : Nat) (mask : BitVec 64), s.power.phase = .up → col < 73 → s.collectors.length = 73 →
    completes (.fcolStatusClear col mask) s fun t =>
      ∀ i, i < 64 → (getCol t col).status.getLsbD i =
        ((getCol s col).status.getLsbD i && !(mask.getLsbD i && !(pinsNow s col).getLsbD i && !isSummary col i))) ∧
  (∀ (s : State) (f : Nat) (b : Bool), s.power.phase = .up → f < 68 →
    exec (.collectorSelf f b) s =
      .next (raiseSrc (updFacet (fenceFacet s f 4) f fun x => { x with safe := true, reason := 4 }) f 10 (.facet f))) ∧
  (∀ (s : State) (col : Nat), s.power.phase = .up → 68 ≤ col →
    exec (.collectorSelf col false) s = .next (raiseSrc s col (if col < 72 then 25 else 28) .nothing)) ∧
  (∀ (s : State) (col : Nat), s.power.phase = .up → 68 ≤ col → col < 73 → s.collectors.length = 73 →
    completes (.collectorSelf col true) s fun t => (getCol t col).defaultsOnly = true)

/-- A fence and a BIST take the named facet out and no other, a test that ends sets BIST_PASS or raises BIST_FAIL, a release
asks for the next edge and is ignored without BIST_PASS and for a facet that a shed step in force idles (log entry 92), and
a block reset that ends brings its unit back (R23, R346, R353, R386, R390). -/
def Obligations.FacetService : Prop :=
  (∀ (s : State) (f : Nat), s.power.phase = .up → s.power.pstate = 0 → f < s.facets.length → (getFacet s f).fenced = false →
    completes (.facetFence f) s fun t => (getFacet t f).fenced = true ∧ (getFacet t f).reason = 3 ∧
      (getFacet t f).release = false ∧ ∀ g, g ≠ f → getFacet t g = getFacet s g) ∧
  (∀ (s : State) (f : Nat), s.power.phase = .up → s.power.pstate = 0 → f < s.facets.length → (getFacet s f).bistRun = false →
    completes (.facetBist f) s fun t => (getFacet t f).fenced = true ∧ (getFacet t f).bistRun = true ∧
      ∀ g, g ≠ f → getFacet t g = getFacet s g) ∧
  (∀ (s : State) (f : Nat), s.power.phase = .up → f < s.facets.length → (getFacet s f).bistRun = true →
    (getFacet s f).blockRun = false →
    completes (.facetBistDone f true) s fun t => (getFacet t f).bistPass = true ∧ (getFacet t f).bistRun = false ∧
      (getFacet t f).safe = false ∧ (getFacet t f).fenced = (getFacet s f).fenced) ∧
  (∀ (s : State) (f : Nat), s.power.phase = .up → (getFacet s f).bistRun = true → (getFacet s f).blockRun = false →
    exec (.facetBistDone f false) s =
      .next (raiseSrc (updFacet s f fun x => { x with bistRun := false, blockRun := false, bistPass := false }) f 9 (.facet f))) ∧
  (∀ (s : State) (f : Nat), s.power.phase = .up → s.power.pstate = 0 → (getFacet s f).fenced = true →
    (getFacet s f).bistPass = true → (getFacet s f).bistRun = false → shedIdles s f = false →
    exec (.facetRelease f) s = .next (updFacet s f fun x => { x with release := true })) ∧
  (∀ (s : State) (f : Nat), s.power.phase = .up → (getFacet s f).bistPass = false ∨ shedIdles s f = true →
    exec (.facetRelease f) s = .next s) ∧
  (∀ s : State, s.power.phase = .up → s.search.claspOut = true →
    completes (.blockResetComplete .moduleClasp true) s fun t => t.search.claspOut = true ∧ t.search.claspRet = true) ∧
  (∀ (s : State) (f : Nat), s.power.phase = .up → f < s.facets.length → (getFacet s f).blockRun = true →
    completes (.blockResetComplete (.facet f) true) s fun t => (getFacet t f).bistPass = true ∧ (getFacet t f).release = true) ∧
  (∀ (s : State) (h : BitVec 4), s.power.phase = .up →
    exec (.settingSpareHold h) s = .next { s with loader := { s.loader with holdNext := some h } })

/-- A bank and a channel go through MBIST to a return that waits for an edge; a retraining channel returns to service, or is
mapped out when it fails or runs out of time (R190, R191, R346, R353). -/
def Obligations.MemoryService : Prop :=
  (∀ (s : State) (b : Nat), s.power.phase = .up → s.power.pstate = 0 → (getBank s b).state ≠ 2 →
    completes (.nearmemMbist b) s fun t => (getBank t b).state = 2 ∧ ∀ j, j ≠ b → getBank t j = getBank s j) ∧
  (∀ (s : State) (b : Nat) (ok : Bool), s.power.phase = .up → (getBank s b).state = 2 →
    completes (.nearmemMbistDone b ok) s fun t => (getBank t b).state = 1 ∧ (getBank t b).mbistPass = ok ∧
      ∀ j, j ≠ b → getBank t j = getBank s j) ∧
  (∀ (s : State) (b : Nat), s.power.phase = .up → s.power.pstate = 0 → (getBank s b).state = 1 → (getBank s b).mbistPass = true →
    completes (.nearmemReturn b) s fun t => (getBank t b).ret = true ∧ (getBank t b).state = 1) ∧
  (∀ (s : State) (ch : Nat), s.power.phase = .up → (getChan s ch).state = 0 →
    completes (.hbmRetrainStart ch) s fun t => getChan t ch = { getChan s ch with state := 1 }) ∧
  (∀ (s : State) (ch : Nat), s.power.phase = .up → s.power.pstate.toNat < 2 → (getChan s ch).state = 0 →
    completes (.hbmChRetrain ch) s fun t => getChan t ch = { getChan s ch with state := 1 }) ∧
  (∀ (s : State) (ch : Nat), s.power.phase = .up → (getChan s ch).state = 1 →
    completes (.hbmRetrainEnd ch true) s fun t => (getChan t ch).state = 0 ∧ (getChan t ch).queued = []) ∧
  (∀ (s : State) (ch : Nat), s.power.phase = .up → (getChan s ch).state = 1 →
    exec (.hbmRetrainEnd ch false) s = .next (mapOut s ch true) ∧ exec (.hbmRetrainTimeout ch) s = .next (mapOut s ch true)) ∧
  (∀ (s : State) (ch : Nat), s.power.phase = .up → s.power.pstate.toNat < 2 → stackStep s (ch / 32) ≠ 3 → chanOut s ch = true →
    completes (.hbmMbist ch) s fun t => (getChan t ch).state = 3 ∧ ∀ j, j ≠ ch → getChan t j = getChan s j) ∧
  (∀ (s : State) (ch : Nat) (ok : Bool), s.power.phase = .up → (getChan s ch).state = 3 →
    completes (.hbmMbistDone ch ok) s fun t => (getChan t ch).state = 2 ∧ (getChan t ch).mbistPass = ok) ∧
  (∀ (s : State) (ch : Nat), s.power.phase = .up → s.power.pstate.toNat < 2 → stackStep s (ch / 32) ≠ 3 →
    (getChan s ch).state = 2 → (getChan s ch).mbistPass = true →
    completes (.hbmReturn ch) s fun t => (getChan t ch).ret = true ∧ (getChan t ch).state = 2)

/-- A pinned page that lost a copy, the next page to refill, and a page installed for its use each begin their copy at the
place the placement rules give (R171, R191). -/
def Obligations.PageCopies : Prop :=
  (∀ (s : State) (id page ch : Nat) (c : Coll) (p : Page), s.power.phase = .up → getColl s id = some c → c.attached = true →
    findPage c page = some p → p.copyLost = true → p.incoming = none → p.lostAt < beadNow s →
    hbmChannel s c.params.hbmSet id page 1 (match p.locs with | .hbm a :: _ => some (a / 32) | _ => none) = some ch →
    exec (.pinnedCopyRestore id page) s = .next (setColl s id (updPage c page fun p => { p with incoming := some (.hbm ch) }))) ∧
  (∀ (s : State) (id page : Nat) (c : Coll) (l : Loc), s.power.phase = .up → getColl s id = some c →
    nextRefill s = some (id, page) → refillPaused s id page = false → placeLoc s id c page = some l →
    exec (.pageRefill id page) s =
      .next (setColl (countBlockRead s id page) id (updPage c page fun p => { p with incoming := some l }))) ∧
  (∀ (s : State) (id page : Nat) (c : Coll) (p : Page) (l : Loc), s.power.phase = .up → getColl s id = some c →
    c.attached = true → refillPaused s id page = false → findPage c page = some p → p.kind.isList = true → p.locs = [] →
    p.incoming = none → placeLoc s id c page = some l →
    exec (.installationComplete id page) s =
      .next (countBlockRead (setColl s id (updPage c page fun p => { p with incoming := some l, lastUse := beadNow s })) id page))

/-- A channel retrains, scrubs, is bypassed and returns at the next edge at the rate it trained to, and a prong test clears or fences its
prong (R194, R208, R331, R353). -/
def Obligations.FlashService : Prop :=
  (∀ (s : State) (c : Nat), s.power.phase = .up → (getFlashCh s c).state = 0 →
    exec (.flashIfRetrainStart c) s = .next (updFlashCh s c fun x => { x with state := 1 })) ∧
  (∀ (s : State) (c : Nat), s.power.phase = .up → s.power.pstate.toNat < 3 → (getFlashCh s c).state = 0 →
    exec (.flashChRetrain c) s = .next (updFlashCh s c fun x => { x with state := 1 })) ∧
  (∀ (s : State) (c : Nat), s.power.phase = .up → (getFlashCh s c).state = 1 →
    exec (.flashIfRetrainEnd c true) s = .next (updFlashCh s c fun x => { x with state := 0 }) ∧
    exec (.flashIfRetrainEnd c false) s = .next (updFlashCh s c fun x => { x with state := 3, ret := false }) ∧
    exec (.flashIfRetrainTimeout c) s = .next (updFlashCh s c fun x => { x with state := 3, ret := false })) ∧
  (∀ (s : State) (c : Nat), s.power.phase = .up → s.power.pstate.toNat < 3 → (getFlashCh s c).state = 0 → c < s.flash.chans.length →
    completes (.flashScrub c) s fun t => (getFlashCh t c).state = 2 ∧
      ∀ b ∈ t.flash.blocks, b.chan = c → b.seen = false) ∧
  (∀ (s : State) (c : Nat), s.power.phase = .up → s.power.pstate.toNat < 3 → (getFlashCh s c).state ≠ 3 →
    exec (.flashBypass c) s = .next (updFlashCh s c fun x => { x with state := 3, ret := false })) ∧
  (∀ (s : State) (c : Nat) (r : BitVec 2), s.power.phase = .up → s.power.pstate.toNat < 3 → (getFlashCh s c).state = 3 → r ≠ 3 →
    exec (.flashReturn c r) s = .next (dropPins (updFlashCh s c fun x => { x with ret := true, rate := r }) 72 (bit64 8))) ∧
  (∀ (x : FlashCh) (seen : Bool), x.state = 3 → (x.edge seen).state = (if x.ret then 0 else 3) ∧ (x.edge seen).ret = false) ∧
  (∀ (s : State) (c : Nat), s.power.phase = .up → s.power.pstate = 0 →
    exec (.flashProngTest c) s = .next (updFlashCh s c fun x => { x with prongTest := true })) ∧
  (∀ (s : State) (c : Nat), s.power.phase = .up → (getFlashCh s c).prongTest = true → c < s.flash.chans.length →
    completes (.prongTestDone c true) s fun t => (getFlashCh t c).prongTest = false ∧
      (getFlashCh t c).prongClear = (getFlashCh s c).prongFenced) ∧
  (∀ (s : State) (c : Nat), s.power.phase = .up → (getFlashCh s c).prongTest = true →
    exec (.prongTestDone c false) s =
      .next (raiseSrc (updFlashCh s c fun x => { x with prongTest := false, prongClear := false, prongFenced := true }) 72 9 (.prong c)))

/-- A link retrains, loops back and is set down, a port loops back while it is down, a core that expires raises its source,
both together reset the module, and a core stops unless the other is out (R296, R352, R353). -/
def Obligations.LinkAndCoreService : Prop :=
  (∀ (s : State) (l : Nat), s.power.phase = .up → linkEnabled s l = true → (getLink s l).retraining = false →
    l < s.fabric.links.length →
    completes (.fabricLinkRetrain l) s fun t => (getLink t l).state = linkTraining ∧ (getLink t l).retraining = true) ∧
  (∀ (s : State) (l : Nat), s.power.phase = .up → (getLink s l).retraining = true → exec (.fabricLinkRetrain l) s = .next s) ∧
  (∀ (s : State) (l : Nat), s.power.phase = .up → linkEnabled s l = true → linkUp s l = false →
    (getLink s l).state ≠ linkLoop → l < s.fabric.links.length →
    completes (.fabricLoopback l) s fun t => (getLink t l).state = linkLoop) ∧
  (∀ (s : State) (l : Nat), s.power.phase = .up → (getLink s l).state = linkLoop → exec (.fabricLoopback l) s = .next s) ∧
  (∀ (s : State) (l : Nat), s.power.phase = .up → linkEnabled s l = true → (getLink s l).state ≠ linkIsDown →
    exec (.fabricSetDown l) s = .next (linkDown s l)) ∧
  (∀ (s : State) (p : Nat), s.power.phase = .up → p < 2 → (getPort s p).pcs = false → (getPort s p).state ≠ 4 →
    exec (.hostifLoopback p) s = .next (updPort s p fun r => { r with state := 4 })) ∧
  (∀ (s : State) (p : Nat), s.power.phase = .up → p < 2 → (getPort s p).state = 4 → exec (.hostifLoopback p) s = .next s) ∧
  (∀ s : State, s.power.phase = .up →
    completes (.coreWatchdogExpiry true true) s fun t => t.power.resetDue = true ∧ t.power.errReset = true) ∧
  (∀ s : State, s.power.phase = .up →
    exec (.coreWatchdogExpiry true false) s = .next (raiseSrc s 72 16 (.core true)) ∧
    exec (.coreWatchdogExpiry false true) s = .next (raiseSrc s 72 17 (.core false))) ∧
  (∀ s : State, s.power.phase = .up → s.cores.aIn = false →
    completes (.coreReady true) s fun t => t.cores = { s.cores with aReady := true }) ∧
  (∀ s : State, s.power.phase = .up → s.cores.bIn = false →
    completes (.coreReady false) s fun t => t.cores = { s.cores with bReady := true }) ∧
  (∀ s : State, s.power.phase = .up → s.cores.aIn = true → s.cores.bIn = true →
    exec (.coreStop true) s = .next { s with cores := { s.cores with aIn := false, aReady := false } } ∧
    exec (.coreStop false) s = .next { s with cores := { s.cores with bIn := false, bReady := false } }) ∧
  (∀ (s : State) (a : Bool), s.power.phase = .up → (s.cores.aIn && s.cores.bIn) = false → exec (.coreStop a) s = .next s)

/-- An event counter saturates at 2^48 − 1 with SAT, SNAP copies every counter of its block and changes none, and CLEAR
zeroes one counter of its block or all of them and no other (R26, R350, R351). -/
def Obligations.CounterRegisters : Prop :=
  (∀ (c : EvCounter) (n : Nat), c.val ≤ 2 ^ 48 - 1 → (countUp c n).2.val = min (c.val + n) (2 ^ 48 - 1) ∧
    ((countUp c n).2.sat = true ↔ c.sat = true ∨ 2 ^ 48 - 1 ≤ c.val + n)) ∧
  (∀ (s : State) (a lo hi base : Nat), s.power.phase = .up → spaceOf a = some (lo, hi, base) → Tab.wf s.counters.counts = true →
    completes (.snap a) s fun t => t.counters.counts = s.counters.counts ∧
      ∀ x, lo ≤ x → x ≤ hi → t.counters.snaps.getD x ⟨0, false⟩ = s.counters.counts.getD x ⟨0, false⟩) ∧
  (∀ (s : State) (a off lo hi base : Nat) (all : Bool), s.power.phase = .up → spaceOf a = some (lo, hi, base) →
    completes (.clear a off all) s fun t =>
      ∀ x, counterAt t x = if lo ≤ x ∧ x ≤ hi ∧ (all = true ∨ x = base + off) then ⟨0, false⟩ else counterAt s x)

/-- A token in LOCKET_TOKEN (R372, R373, R375): GO writes its result and its action, and a permitted token alone changes
anything else. REVOKE_SLOT sets the slot's revocation, ADVANCE_LIFECYCLE the lifecycle fuses and SET_DEBUG_LOCK the lock's
fuses, with their redundant copies, or the readback differs, which the model leaves free (log entry 85): LOCKET_ERR is then
raised and some of the bits have burned. DEBUG_OPEN opens the debug lock. The lifecycle in force stays until the next reset.
-/
def Obligations.LocketTokens : Prop :=
  ∀ s : State, s.power.phase = .up → s.locket.lifecycle ≠ 7 → s.collectors.length = 73 →
    let b := tokenBytes s
    let f := s.locket.fuses
    let r := tokenResult s
    let kept (t : State) : Prop := t.locket.tokenAction = BitVec.ofNat 4 (fieldB b 4 1) ∧
      t.locket.lifecycle = s.locket.lifecycle ∧ (s.locket.copy = f → t.locket.copy = t.locket.fuses)
    let burns (g : Fuses) (t : State) : Prop := kept t ∧ t.locket.meas = s.locket.meas ∧
      (r ≠ 1 → t.locket.tokenResult = BitVec.ofNat 4 r ∧ t.locket.fuses = f) ∧
      (r = 1 → (t.locket.tokenResult = 1 ∧ t.locket.fuses = g) ∨
        (t.locket.tokenResult = 6 ∧ (∃ m, t.locket.fuses = f.partly g m) ∧ (getCol t 72).status.getLsbD 23 = true))
    (fieldB b 4 1 = 1 → completes .revokeSlot s (burns { f with revoked := f.revoked ||| BitVec.ofNat 2 (2 ^ fieldB b 6 1) })) ∧
    (fieldB b 4 1 = 2 → completes .advanceLifecycle s (burns { f with lifecycle := f.lifecycle ||| BitVec.ofNat 4 (fieldB b 6 1) })) ∧
    (fieldB b 4 1 = 3 → completes .debugOpen s fun t => kept t ∧ t.locket.tokenResult = BitVec.ofNat 4 r ∧ t.locket.fuses = f ∧
      t.locket.debugOpened = (s.locket.debugOpened || decide (r = 1))) ∧
    (fieldB b 4 1 = 4 → completes .setDebugLock s
      (burns { f with debugLock := f.debugLock ||| (if fieldB b 6 1 = 1 then 1 else 3) }))

/-- The instruction of the test access port takes effect as R355 and R398 allow; the I2C pair reads a byte of the FRU memory
and writes one outside its protected area (R396). -/
def Obligations.BoardAccess : Prop :=
  (∀ (s : State) (i : ScanInstr), completes (.boundaryScanInstruction i) s fun t => t.board.fru = s.board.fru ∧
    (i ∈ [.bypass, .idcode, .samplePreload] → t.board.scan = i) ∧
    (i ∈ [.extest, .extestPulse, .extestTrain] → t.board.scan = if s.power.phase = .inReset then i else .bypass) ∧
    (i = .wrapper → t.board.scan = if debugLockOpen s then i else .bypass) ∧
    (i = .idcode → .scan (idcodeOf s.locket.fuses) ∈ t.out)) ∧
  (∀ (s : State) (a : Nat), completes (.fruAccess (.read a)) s fun t => t.board = s.board ∧
    .fru (s.board.fru.getD a (Config.fruByte a)) ∈ t.out) ∧
  (∀ (s : State) (a : Nat) (v : Byte), completes (.fruAccess (.write a v)) s fun t => t.out = s.out ∧
    (Config.fruProtected a = true → t.board = s.board) ∧
    (Config.fruProtected a = false → t.board.fru.getD a (Config.fruByte a) = v ∧
      ∀ x, x ≠ a → t.board.fru.getD x (Config.fruByte x) = s.board.fru.getD x (Config.fruByte x)))

/-- While beads run, the cut point, the admission gap and the edge come at their moments of the bead (R101, R105, R108), the
gap closes this module's bundles (R307), no READ_ITEM whose deadline is this bead outlives the cut point (R273), and a
multicast window closes once (R308). -/
def Obligations.BeadMoments : Prop :=
  (∀ s : State, beadsRun s = true → s.time.cut = false →
    completes .cutPoint s fun t => t.time = { s.time with now := max s.time.now (beadEnd s - 2000), cut := true } ∧
      ∀ r ∈ t.search.reads, r ∈ s.search.reads ∧ beadNow s < r.deadline) ∧
  (∀ s : State, beadsRun s = true → s.time.cut = true → s.time.gap = false →
    completes .admissionGap s fun t => t.time = { s.time with now := max s.time.now (beadEnd s - 1000), gap := true } ∧
      ∀ b ∈ t.fabric.bundles, b.root = s.fabric.addr → b.bead = beadNow s → b.closed = true) ∧
  (∀ s : State, beadsRun s = true → s.time.cut = false → s.time.gap = false →
    completes .admissionGap s fun t => t.time.cut = true ∧ t.time.gap = true) ∧
  (∀ (s : State) (tree : Nat) (r : TreeRec), beadsRun s = true → treeRec s tree = some r → tree ∉ s.fabric.closed →
    completes (.multicastWindowClose tree) s fun t => t.fabric = { s.fabric with closed := s.fabric.closed ++ [tree] } ∧
      t.time.now = if bundleBytes s tree < 1024 * r.mcBytes then max s.time.now (beadEnd s - 1000 * r.mcClose) else s.time.now) ∧
  (∀ (s : State) (mw : Nat) (ord : List Nat), beadsRun s = true → 0 < s.time.periodUs →
    completes (.beadEdge mw ord) s fun t => t.time.now = (beadNow s + 1) * periodNs s ∧ t.time.cut = false ∧ t.time.gap = false ∧
      t.time.periodUs = s.time.periodUs ∧ t.time.nbrNow = 0 ∧ t.time.nbrMax = s.time.nbrNow ∧
      t.locket = { s.locket with meas := t.locket.meas } ∧ (∀ i, i ≠ 3 → t.locket.meas.getD i 0 = s.locket.meas.getD i 0) ∧
      t.board = s.board)

/-- The named source gives fabric time to a module that holds none and slews one that holds it, an edge of PPS_IN out of
place is rejected and the third in a row is holdover (R102, R103, R402), a failed source is holdover, a neighbour's offset
is kept for TIME_SKEW (R299), and until time is held intervals of 20 µs pass (R239). -/
def Obligations.TimeSources : Prop :=
  (∀ (s : State) (p : Nat) (off : Int) (ns : Nat), s.power.phase = .up → p < 2 → (getPort s p).pcs = true →
    s.time.started = true → s.time.source = 0 → s.time.sourceArg = p →
    completes (.ptpMessage p off ns) s fun t => t.time.held = true ∧ t.time.srcOffset = off ∧ t.time.holdover = false ∧
      t.time.now = (if s.time.held then s.time.now else ns) ∧
      (s.time.held = true → t.time.slew = max (-100000) (min 100000 off))) ∧
  (∀ (s : State) (off : Int) (w : Nat), s.power.phase = .up → s.time.started = true → s.time.source = 1 → ppsGood s off w = true →
    completes (.ppsInEdge off w) s fun t => t.time.held = true ∧ t.time.ppsSynced = true ∧ t.time.ppsBad = 0 ∧
      t.time.holdover = false ∧ t.time.now = (if s.time.held then s.time.now else 0)) ∧
  (∀ (s : State) (off : Int) (w : Nat), s.power.phase = .up → s.time.started = true → s.time.source = 1 → ppsGood s off w = false →
    completes (.ppsInEdge off w) s fun t => t.time.ppsBad = s.time.ppsBad + 1 ∧ t.time.now = s.time.now ∧
      t.time.holdover = (s.time.holdover || (s.time.held && decide (3 ≤ s.time.ppsBad + 1)))) ∧
  (∀ s : State, s.power.phase = .up → s.time.started = true → s.time.held = true → s.time.holdover = false →
    completes .holdover s fun t => t.time = { s.time with holdover := true, ppsSynced := false } ∧
      (s.events.log.length < 512 → ∃ r ∈ t.events.log, r.code = 0x0201)) ∧
  (∀ (s : State) (l : Nat) (off : Int) (ns : Nat), s.power.phase = .up → linkUp s l = true → s.time.held = false →
    s.time.started = true → (s.time.source = 2 → s.time.sourceArg = l) →
    completes (.linkTimeExchange l off ns) s fun t => t.time.held = true ∧ t.time.now = ns ∧ t.time.srcOffset = off) ∧
  (∀ (s : State) (l : Nat) (off : Int) (ns : Nat), s.power.phase = .up → linkUp s l = true → s.time.held = true →
    completes (.linkTimeExchange l off ns) s fun t => t.time.now = s.time.now ∧
      t.time.nbrNow = max s.time.nbrNow off.natAbs ∧ t.time.skew = (s.time.skew || decide (500 < off.natAbs)) ∧
      (s.time.started = true → s.time.source = 2 → s.time.sourceArg = l →
        t.time.srcOffset = off ∧ t.time.slew = max (-100000) (min 100000 off))) ∧
  (∀ s : State, s.power.phase = .up → s.time.held = false →
    completes .bringUpInterval s fun t => t.time = { s.time with intervals := s.time.intervals + 1 } ∧
      (∀ x ∈ t.host.conns, x.2.closed = false ∧ x.2.failed = false) ∧
      ((∀ p, p < 2 → (getPort s p).pcs = false ∨ (getPort s p).useRate = (getPort s p).rate) →
        t.host.ports.map Port.useIpv6 = s.host.ports.map Port.ipv6 ∧
        ∀ p, p < 2 → p < s.host.ports.length → (getPort t p).useRate = (getPort s p).rate))

/-- IDENTIFY, ATTEST and MGMT_READ reply with what R379 and the register map give and change nothing of what they report;
MGMT_WRITE writes its registers in the order of their addresses and replies; drift and saturation registers act as R150 and
R391 say. The signature of a quote is uninterpreted (log entry 4). -/
def Obligations.RegisterAccess : Prop :=
  ((∀ (c : Capsule) (s : State), submits 0x80 c s → c.body = [] →
    completes (.identify c) s fun t => answered (refOf 0x80 c) 0 0 (identifyBody s) t ∧ t.locket = s.locket ∧ t.loader = s.loader) ∧
  (∀ (c : Capsule) (s : State) (k : BitVec 256), submits 0x8A c s → c.body.length = 32 → s.locket.lifecycle ≠ 0 → s.locket.idKey = some k →
    let q := quoteBody s (areaField c.area 24 1) c.body
    completes (.attest c) s fun t => answered (refOf 0x8A c) 0 0 (q ++ beBytes 64 (Config.sm2Sign k q).toNat) t ∧
      t.locket = s.locket) ∧
  (∀ (c : Capsule) (s : State), submits 0x8D c s → c.body = [] →
    rangeBad (queued 0x8D c s) (arrival 0x8D c s) = none →
    completes (.mgmtRead c) s fun t => t.collectors = s.collectors ∧ t.facets = s.facets ∧
      answered (refOf 0x8D c) 0 0 (((regAddrs (arrival 0x8D c s)).map fun a =>
        leBytes 8 ((readReg (queued 0x8D c s) c.queue.toNat a).getD 0)).flatten) t)) ∧
  ((∀ (c : Capsule) (s : State), submits 0x8E c s →
    let m := arrival 0x8E c s
    let q := queued 0x8E c s
    c.body.length = 8 * areaField c.area 28 2 → rangeBad q m = none → stopsLastCore q m = false → q.loader.part = none →
    exec (.mgmtWrite c) s = .next (answer (((regAddrs m).zip (regValues m)).foldl (fun t (a, v) => writeReg t c.queue.toNat a v) q)
      c.queue.toNat c.tag.toNat 0 0 [])) ∧
  (∀ (s : State) (q v : Nat), writeReg s q 0x210000 v = (if 64 ≤ v % 2 ^ 17 ∧ v % 2 ^ 17 ≤ 65536 then
    s.modLearn fun l => { l with nextW := some (v % 2 ^ 17) } else s)) ∧
  (∀ (s : State) (q v : Nat), writeReg s q 0x20300 v = s.modLoader fun l => { l with holdNext := some (BitVec.ofNat 4 (v / 256)) }) ∧
  (∀ (s : State) (v : BitVec 64), s.power.phase = .up → let w := v.toNat % 2 ^ 17
    completes (.learnDriftWindowWrite v) s fun t => t.learn.driftW = s.learn.driftW ∧
      t.learn.nextW = if 64 ≤ w ∧ w ≤ 65536 then some w else s.learn.nextW) ∧
  (∀ (s : State) (v : BitVec 64), s.power.phase = .up → let d := v.toNat % 2 ^ 16
    completes (.learnDriftLimitWrite v) s fun t => t.learn.driftD = s.learn.driftD ∧
      t.learn.nextD = if 1 ≤ d then some d else s.learn.nextD) ∧
  (∀ (s : State) (q : Nat), s.power.phase = .up → let k := satSelKey (s.queues.selSat.getD q 0)
    completes (.learnSatClearOne q) s fun t => (t.counters.sat.get k = none ∧ ∀ x, x ≠ k → t.counters.sat.get x = s.counters.sat.get x) ∧
      t.counters.counts = s.counters.counts) ∧
  (∀ (s : State) (q : Nat), s.power.phase = .up → let k := satSelKey (s.queues.selSat.getD q 0)
    completes (.learnSatClearTensor q) s fun t =>
      ∀ x, t.counters.sat.get x = if x / 65536 = k / 65536 then none else s.counters.sat.get x))

/-- QUEUE_CREATE binds a free queue to a connection that is open, QUEUE_DELETE removes one without tags in use (R249, R251),
EVENT_ARM arms the connection that sent it (R264), KEY_LOAD keeps a key of two different halves (R380). -/
def Obligations.AdministersQueues : Prop :=
  (∀ (c : Capsule) (s : State) (k : Conn), submits 0x85 c s → c.body = [] →
    let q := areaField c.area 24 2
    let conn := areaField c.area 26 2
    q ≤ 32767 → q ≠ c.queue.toNat → getConn s conn = some k → k.failed = false → k.closed = false → k.closing = false →
    queuePermitted s q = true → (q < 16 → k.admin = true) →
    (∀ u, s.queues.queues.get q = some u → u.conn = none ∧ u.tags = 0) →
    completes (.queueCreate c) s fun t => t.queues.queues.get q = some ⟨some conn, false, 0⟩ ∧
      answered (refOf 0x85 c) 0 0 [] t) ∧
  (∀ (c : Capsule) (s : State) (u : Queue), submits 0x86 c s → c.body = [] →
    let q := areaField c.area 24 2
    q ≠ 0 → q ≠ c.queue.toNat → s.queues.queues.get q = some u → u.tags = 0 → Tab.wf s.queues.queues = true →
    completes (.queueDelete c) s fun t => t.queues.queues.get q = none ∧ (∀ o ∈ t.queues.objects, o.queue ≠ q) ∧
      answered (refOf 0x86 c) 0 0 [] t) ∧
  (∀ (c : Capsule) (s : State), submits 0x8F c s → c.body = [] →
    let mask := areaField c.area 24 4
    mask = 0 ∨ (s.host.conns.countP fun (i, k) => i != c.conn && k.armed != 0) < 4 →
    completes (.eventArm c) s fun t => (getConn t c.conn).map Conn.armed = some (BitVec.ofNat 32 mask) ∧
      answered (refOf 0x8F c) 0 (areaPut 0 24 4 s.events.nextSeq.toNat) [] t) ∧
  (∀ (c : Capsule) (s : State), submits 0x8C c s → c.body.length = 32 → s.locket.lifecycle ≠ 3 → inUse s c.coll.toNat = false →
    let k := BitVec.ofNat 256 (beNat c.body)
    (keyHalves k).1 ≠ (keyHalves k).2 →
    completes (.keyLoad c) s fun t => t.locket.keys.get c.coll.toNat = some k ∧
      (∀ x, x ≠ c.coll.toNat → t.locket.keys.get x = s.locket.keys.get x) ∧ answered (refOf 0x8C c) 0 0 [] t)

/-- POWER_STATE for P0 or for the state in force replies at once, and for another state starts the preparation and waits; a
command that waited with its tag is decided by its opcode once it is ready, and waits until then (R252, R254, R255, R256,
R257, R259, R260, R323). -/
def Obligations.PowerStateAndHeldCommands : Prop :=
  (∀ (c : Capsule) (s : State), submits 0x8B c s → c.body = [] →
    let n := areaField c.area 24 1
    (n = 0 ∨ n = s.power.pstate.toNat →
      completes (.powerState c) s fun t =>
        answered (refOf 0x8B c) 0 (areaPut (areaPut 0 24 1 n) 32 8 (beadNow s)) [] t ∧
          (n = 0 → s.power.pstate ≠ 0 → t.power.exiting = true) ∧ t.power.preparing = s.power.preparing) ∧
    (n ≠ 0 → n ≤ 3 → n ≠ s.power.pstate.toNat →
      completes (.powerState c) s fun t => t.power.preparing = true ∧ t.power.target = BitVec.ofNat 2 n ∧
        t.power.prepBead = beadNow s ∧ t.power.psCmd = some (refOf 0x8B c) ∧ noReply s t)) ∧
  (∀ (s : State) (q g : Nat) (c : Cmd), s.power.phase = .up → findCmd s q g = some c →
    (c.stage ≠ .held ∨ cmdReady s c = false → exec (.commandReady q g) s = .next s) ∧
    (c.stage = .held → cmdReady s c = true →
      (exec (.commandReady q g) s = .next (decideOp s c)) ∧
      (c.ref.op = 0x80 → c.cap.body = [] → c.ref.queue = q → c.ref.tag = g → s.live c.ref.conn →
        completes (.commandReady q g) s fun t => answered c.ref 0 0 (identifyBody s) t)))

/-- INSERT, UPSERT, DELETE, FILTER_DROP and the final part of a FILTER_PUT that nothing refuses are admitted: the records of
the write are reserved in the buffer and the command waits for its commit; the collection has not changed (R48, R209, R410).
A part of a FILTER_PUT before the last is staged and replied to (R278, R279). -/
def Obligations.WritesAdmitted : Prop :=
  ∀ (op : BitVec 8) (i : Instr) (c : Capsule) (s : State) (k : Coll),
    (op, i) ∈ [(0x10, .insert c), (0x12, .upsert c), (0x11, .delete c), (0x20, .filterPut c), (0x21, .filterDrop c)] →
    submits op c s → getColl s c.coll.toNat = some k →
    let m := arrival op c s
    let n := writeResv k.params op c
    let raw : Bool := preEncoded c.flags == false && (op == 0x10 || op == 0x12)
    (op = 0x10 ∨ op = 0x12 ∨ op = 0x20 → flashShort s = false) →
    (op = 0x10 ∨ op = 0x12 → (∃ b, parseItem k c = .ok b) ∧ (raw = true → pipelineClosed s k.att.pipeline = false)) →
    (op = 0x11 → areaField c.area 24 8 ≠ 2 ^ 64 - 1 ∧ c.body = []) →
    (op = 0x20 → areaField c.area 40 2 < k.params.filterSlots ∧ areaField c.area 32 8 ≤ k.params.slotCap / 8 ∧
      filterBusy s m (areaField c.area 40 2) = false) →
    (op = 0x21 → areaField c.area 24 2 < k.params.filterSlots ∧ c.body = []) →
    (writeStatus s c = 0 → fitsBuffer s n = true → (op = 0x20 → isFinal c.flags = true ∧ (takePart s m (areaField c.area 40 2)).isSome = true) →
      completes i s fun t =>
        findCmd t c.queue.toNat c.tag.toNat = some { m with stage := .admitted (beadNow s), resv := n } ∧
          t.flash.reserved = s.flash.reserved + n ∧ t.colls = s.colls ∧ t.flash.wbuf = s.flash.wbuf) ∧
    (∀ o, op = 0x20 → isFinal c.flags = false → k.attached = true → takePart s m (areaField c.area 40 2) = some o →
      completes i s fun t => o ∈ t.queues.objects ∧ answered (refOf op c) 0 0 [] t ∧ t.colls = s.colls)

/-- A committing INSERT or UPSERT gives the item a stamp, a slot and a side-list entry, an UPSERT deletes the item it
replaces, a DELETE leaves a tombstone, a filter version begins and ends, and each replies with its commit bead; FLUSH of a
collection that is there, below the third shed step (log entry 87), replies once no earlier record of its collection is in
the buffer; MERGE_HINT starts a merge or names the one under way (R42, R45, R48, R50, R51, R64, R212, R276, R277). -/
def Obligations.WritesAndFlushesEnd : Prop :=
  (∀ (s : State) (q g want : Nat) (ord : List Nat) (c : Cmd) (k : Coll), s.power.phase = .up → findCmd s q g = some c →
    c.uncommitted = true → s.live c.ref.conn → getColl s c.ref.coll = some k →
    let b := beadNow s
    let id := c.ref.coll
    (∀ (i : ItemBody) (ep : Epoch) (slot : Nat), c.ref.op = 0x10 ∨ c.ref.op = 0x12 → parseItem k c.cap = .ok i →
      newestEpoch k = some ep → (i.raw.isNone = true → (epochOf k i.epoch).isSome = true) →
      (c.ref.op = 0x10 → liveSlot k i.id = none) → capacityCheck k true (c.ref.op == 0x12 && (liveSlot k i.id).isSome) want = none →
      freeSlot k want = some slot →
      completes (.writeCommit q g want ord) s fun t => ∃ d e, getColl t id = some d ∧ e.slot = slot ∧
        d.items.get slot = some ⟨i.id, b, (itemCodes k.params ep ord i).2.2.2, i.row⟩ ∧
        d.side = k.side ++ [⟨e, false, none⟩] ∧ e.code = (itemCodes k.params ep ord i).2.2.1 ∧
        e.sketch = (itemCodes k.params ep ord i).2.1 ∧
        d.recent = k.recent ++ (match liveSlot k i.id with | some o => [(o, b)] | none => []) ∧
        answered c.ref 0 (writeArea slot b (itemCodes k.params ep ord i).1 e.bridges.length
          (if (liveSlot k i.id).isSome then 1 else 0) (liveSlot k i.id)) [] t) ∧
    (∀ slot : Nat, c.ref.op = 0x11 → liveSlot k (BitVec.ofNat 64 (areaField c.cap.area 24 8)) = some slot → rdFull k = false →
      completes (.writeCommit q g want ord) s fun t => (∃ d, getColl t id = some d ∧ d.recent = k.recent ++ [(slot, b)] ∧
        d.items = k.items ∧ d.side = k.side) ∧ answered c.ref 0 (writeArea slot b 0 0 1 none) [] t) ∧
    (c.ref.op = 0x11 → liveSlot k (BitVec.ofNat 64 (areaField c.cap.area 24 8)) = none →
      completes (.writeCommit q g want ord) s fun t => t.colls = s.colls ∧ answered c.ref 0 (writeArea 0 b 0 0 0 none) [] t) ∧
    (∀ o : OpenObj, c.ref.op = 0x20 → s.queues.objects.find? (finalOf c) = some o →
      completes (.writeCommit q g want ord) s fun t => (∃ d, getColl t id = some d ∧
        d.filters = (endFilter k o.target b true).filters ++ [⟨o.target, b, none, false, leNat o.bytes⟩]) ∧
        answered c.ref 0 (writeArea 0 b 0 0 0 none) [] t) ∧
    (c.ref.op = 0x21 → (k.filters.any fun v => v.id == areaField c.cap.area 24 2 && v.drop.isNone) = true →
      completes (.writeCommit q g want ord) s fun t => (∃ d, getColl t id = some d ∧
        d.filters = (endFilter k (areaField c.cap.area 24 2) b false).filters) ∧
        answered c.ref 0 (writeArea 0 b 0 0 0 none) [] t)) ∧
  ((∀ (c : Capsule) (s : State), submits 0x13 c s → s.power.effective < 3 → (getColl s c.coll.toNat).isSome → c.body = [] →
    (pendingBelow s c.coll.toNat s.flash.nextRec = false →
      completes (.flush c) s fun t => answered (refOf 0x13 c) 0 (areaPut 0 32 8 (beadNow s)) [] t) ∧
    (pendingBelow s c.coll.toNat s.flash.nextRec = true →
      completes (.flush c) s fun t =>
        findCmd t c.queue.toNat c.tag.toNat = some { arrival 0x13 c s with stage := .flushing s.flash.nextRec })) ∧
  (∀ (s : State) (q g n : Nat) (c : Cmd), findCmd s q g = some c → c.stage = .flushing n → s.live c.ref.conn →
    pendingBelow s c.ref.coll n = false →
    completes (.flushComplete q g) s fun t => answered c.ref 0 (areaPut 0 32 8 (beadNow s)) [] t) ∧
  (∀ (c : Capsule) (s : State) (k : Coll), submits 0x40 c s → s.power.edgeStep = 0 → c.body = [] →
    getColl s c.coll.toNat = some k → k.attached = true →
    (∀ m, k.merge = some m → completes (.mergeHint c) s fun t => t.colls = s.colls ∧
      answered (refOf 0x40 c) 0 (hintArea 0 m.trigger) [] t) ∧
    (k.merge = none → ∀ u, startMerge (queued 0x40 c s) c.coll.toNat (beadNow s) = some u →
      completes (.mergeHint c) s fun t => getColl t c.coll.toNat = some (beginMerge k (beadNow s)) ∧
        answered (refOf 0x40 c) 0 (hintArea 1 (beadNow s)) [] t)))

/-- LEARN_START makes a run whose version 1 is the starting encoder, LEARN_STOP stops it at the next edge and replies with
its newest version, EPOCH_PROMOTE takes up a version the run holds (R153, R159, R162, R164, R281, R282). -/
def Obligations.LearningCommands : Prop :=
  (∀ (c : Capsule) (s : State) (k : Coll) (enc : Encoder) (rest : List Byte) (ps : List (List F32 × List F32)) (zeros : Nat),
    submits 0x30 c s → getColl s c.coll.toNat = some k → k.attached = true →
    let a := c.area
    let p := runParams a
    areaField a 24 1 = 0 → areaField a 31 1 = 0 → areaField a 56 8 = 0 → runRangeBad a p = false →
    (s.learn.runs.filter fun r => r.coll != c.coll.toNat).length < 4 → (∀ r, runOf s c.coll.toNat = some r → r.active = false) →
    findRun s s.learn.nextRun = none →
    startEncoder s k (byteOr a 29 0 == 1) c.body = .ok (enc, rest) → parsePairs k (areaField a 30 1) rest = .ok (ps, zeros) →
    learnBytes enc p.n p.u (inputDim k) ≤ hbmScratchFree s →
    completes (.learnStart c) s fun t => (∃ r ∈ t.learn.runs, r.id = s.learn.nextRun ∧ r.coll = c.coll.toNat ∧ r.active = true ∧
        r.newest = 1 ∧ r.previous = 0 ∧ r.p = p ∧ r.pairs = ps.take pairCapacity ∧ (byteOr a 29 0 ≠ 1 → r.enc = enc)) ∧
      answered (refOf 0x30 c) 0 (learnArea s.learn.nextRun (ps.length - (ps.length - pairCapacity)) (ps.length - pairCapacity)) [] t) ∧
  (∀ (c : Capsule) (s : State) (k : Coll) (r : Run) (ps : List (List F32 × List F32)) (zeros : Nat),
    submits 0x30 c s → getColl s c.coll.toNat = some k → k.attached = true →
    let a := c.area
    areaField a 24 1 = 1 → areaField a 25 5 = 0 → areaField a 31 25 = 0 → areaField a 60 4 = 0 →
    findRun s (areaField a 56 4) = some r → r.coll = c.coll.toNat → r.active = true ∨ canResume s r = true →
    parsePairs k (areaField a 30 1) c.body = .ok (ps, zeros) →
    let room := pairCapacity - r.pairs.length
    completes (.learnStart c) s fun t => (findRun t r.id).map Run.pairs = some (r.pairs ++ ps.take room) ∧
      (findRun t r.id).map Run.active = some true ∧ (findRun t r.id).map Run.newest = some r.newest ∧
      answered (refOf 0x30 c) 0 (learnArea r.id (ps.length - (ps.length - room)) (ps.length - room)) [] t) ∧
  (∀ (c : Capsule) (s : State) (r : Run), submits 0x31 c s → (getColl s c.coll.toNat).isSome = true → c.body = [] →
    findRun s (areaField c.area 24 4) = some r → r.coll = c.coll.toNat →
    completes (.learnStop c) s fun t => (findRun t r.id).map Run.active = some r.active ∧
      (findRun t r.id).map Run.stopAtEdge = some (if r.active then some (r.stopAtEdge.getD 1) else r.stopAtEdge) ∧ answered (refOf 0x31 c) 0 (areaPut 0 28 4 r.newest) [] t) ∧
  (∀ (c : Capsule) (s : State) (k : Coll) (r : Run) (enc : Encoder), submits 0x32 c s → getColl s c.coll.toNat = some k →
    c.body = [] → findRun s (areaField c.area 24 4) = some r → r.coll = c.coll.toNat →
    heldVersion r (areaField c.area 28 4) = some enc → k.epochs.length < 2 → k.promo = none →
    completes (.epochPromote c) s fun t =>
      (getColl t c.coll.toNat).map Coll.promo = some (some ⟨refOf 0x32 c, enc, r.id, beadNow s, false⟩) ∧
        (getColl t c.coll.toNat).map Coll.epochs = some k.epochs ∧ noReply s t)

/-- COLLECTION_CREATE leaves an attached, empty collection under its id with its slot range (R29, R31, R283),
COLLECTION_ATTACH takes up a detached one under a new attach record (R284); both reply with what they reserved. -/
def Obligations.CollectionsBegin : Prop :=
  (∀ (c : Capsule) (s : State) (p : CollParams) (enc : Encoder) (f : FormatRec) (base : Nat), submits 0x81 c s →
    let id := c.coll.toNat
    let rec_ := sliceB c.body 64 32
    let a := parseAttach rec_
    let key := s.locket.keys.get id
    let kc := match key with | some k => if p.encrypted then keyCheckOf k else 0 | none => 0
    getColl s id = none → 96 ≤ c.body.length → parseCreate (c.body.take 64) = .ok p → attachBad s p rec_ = none →
    (p.encrypted = true → key.isSome = true) →
    parseImage p (if p.vecFormat = 0 then none else some p.vecDims) true (c.body.drop 96) = .ok (enc, []) →
    formatOf s a.pipeline = some f → encoderAllowed f enc = true → findSlotBase s p.slotCap = some base →
    attachFits s (newColl p a base kc enc) = true → ceilDiv p.flashBytes pageSize ≤ flashFree s →
    completes (.collectionCreate c) s fun t => (∃ d, getColl t id = some d ∧ d.attached = true ∧ d.params = p ∧ d.att = a ∧
        d.slotBase = base ∧ d.items = [] ∧ d.side = [] ∧ d.segs = [] ∧ d.epochs = [⟨0, enc, 0⟩] ∧ d.keyCheck = kc) ∧
      answered (refOf 0x81 c) 0 (areaPut (areaPut 0 24 8 base) 32 8 p.flashPages) [] t) ∧
  (∀ (c : Capsule) (s : State) (k : Coll) (f : FormatRec), submits 0x83 c s →
    let id := c.coll.toNat
    let a := parseAttach c.body
    let key := s.locket.keys.get id
    let n := { k with att := a, attached := true, sideLost := [], hbmPlacedNow := a.hbmPlaced, withdrawn := false, creditNear := 0,
                      creditHbm := 0, creditFlash := 0, admittedInBead := 0 }
    getColl s id = some k → k.attached = false → k.work = none → c.body.length = 32 → attachBad s k.params c.body = none →
    formatOf s a.pipeline = some f → (k.epochs.all fun e => encoderAllowed f e.enc) = true →
    (k.params.encrypted = true → key.map keyCheckOf = some k.keyCheck) → attachFits s n = true →
    completes (.collectionAttach c) s fun t => (∃ d, getColl t id = some d ∧ d.attached = true ∧ d.att = a ∧ d.items = k.items ∧
        d.side = k.side ∧ d.segs = k.segs ∧ d.epochs = k.epochs ∧ d.creditNear = 0 ∧ d.creditHbm = 0 ∧ d.creditFlash = 0) ∧
      answered (refOf 0x83 c) 0 (attachArea n) [] t)

/-- COLLECTION_DETACH and COLLECTION_DELETE end a collection's admissions at once and reply when its work has ended; a
delete then removes it with its key, its units and its records, and its slots stay taken for the bead (R29, R30, R185, R219,
R285). -/
def Obligations.CollectionsEnd : Prop :=
  (∀ (c : Capsule) (s : State) (k : Coll), submits 0x84 c s → getColl s c.coll.toNat = some k → k.attached = true →
    k.work = none → k.thenDelete = none → c.body = [] →
    completes (.collectionDetach c) s fun t => getColl t c.coll.toNat =
        some { k with attached := false, work := some (refOf 0x84 c, false), detachBead := beadNow s } ∧
      (s.time.cut = false → noReply s t ∧ t.search = s.search ∧
        (findCmd t c.queue.toNat c.tag.toNat).map Cmd.stage = some .running)) ∧
  (∀ (c : Capsule) (s : State) (k : Coll), submits 0x82 c s → getColl s c.coll.toNat = some k →
    k.work = none → k.thenDelete = none → c.body = [] →
    completes (.collectionDelete c) s fun t => getColl t c.coll.toNat =
        some { k with attached := false, work := some (refOf 0x82 c, true), detachBead := beadNow s } ∧
      (s.time.cut = false → noReply s t ∧ t.search = s.search ∧
        (findCmd t c.queue.toNat c.tag.toNat).map Cmd.stage = some .running)) ∧
  (∀ (c : Capsule) (s : State) (k : Coll) (r : CmdRef), submits 0x82 c s → getColl s c.coll.toNat = some k →
    k.work = some (r, false) → k.thenDelete = none → c.body = [] →
    completes (.collectionDelete c) s fun t => getColl t c.coll.toNat = some { k with thenDelete := some (refOf 0x82 c) } ∧
      (findCmd t c.queue.toNat c.tag.toNat).map Cmd.stage = some .running) ∧
  (∀ (s : State) (id : Nat) (k : Coll) (m : Cmd), s.power.phase = .up → getColl s id = some k →
    k.work = some (m.ref, false) → k.thenDelete = none → collBusy s id k = false → findCmd s m.ref.queue m.ref.tag = some m → s.live m.ref.conn →
    completes (.collectionWorkEnd id) s fun t => (∃ d, getColl t id = some d ∧ d.work = none ∧ d.pages = [] ∧ d.items = k.items ∧
      d.segs = k.segs) ∧ t.locket = s.locket ∧ answered m.ref 0 (areaPut 0 32 8 (beadNow s)) [] t) ∧
  (∀ (s : State) (id : Nat) (k : Coll) (m : Cmd), s.power.phase = .up → getColl s id = some k → Tab.wf s.colls = true →
    Tab.wf s.locket.keys = true →
    k.work = some (m.ref, true) → k.thenDelete = none → collBusy s id k = false → findCmd s m.ref.queue m.ref.tag = some m → s.live m.ref.conn →
    completes (.collectionWorkEnd id) s fun t => getColl t id = none ∧ t.locket.keys.get id = none ∧
      (∀ x, x ≠ id → getColl t x = getColl s x) ∧ (∀ u ∈ t.flash.units, u.coll ≠ id) ∧ (∀ r ∈ t.flash.wbuf, r.coll ≠ id) ∧
      (k.slotBase, k.params.slotCap) ∈ t.pools.relSlots ∧ answered m.ref 0 (areaPut 0 32 8 (beadNow s)) [] t)

/-- A CONNECT takes the lowest free id or is refused with a reason, CLOSE takes effect once nothing is open, the oldest
reply kept is sent again and its third failure fails the connection, and queue 0 passes to the ADMIN connection that waits
for it; a DATA segment is taken in order, acknowledged again where it repeats an old one, refused where one is missing, the
buffer is full or its connection is gone; an ACK frees what it covers (R242, R243, R244, R245, R246, R247, R248, R249,
R251). -/
def Obligations.TransportActs : Prop :=
  ((∀ (s : State) (d : ConnectDg) (id : Nat), s.power.phase = .up → (getPort s d.port).answersAt d.dst = true →
    Tab.freeFrom s.host.conns maxConns 0 = some id → (d.admin = true → adminGranted s d = true) →
    (d.admin = false → toBoot s d = false) →
    completes (.connect d) s fun t => .accept d.port id (Config.firstSeq s.free) (Config.firstSeq (s.free + 1)) ∈ t.out ∧
      (∃ k, getConn t id = some k ∧ k.admin = d.admin ∧ k.port = d.port ∧ k.addr = d.src ∧ k.udp = d.srcPort ∧
        k.rxNext = Config.firstSeq s.free ∧ k.txNext = Config.firstSeq (s.free + 1) ∧ k.failed = false ∧ k.closed = false ∧
        k.closing = false ∧ k.armed = 0 ∧ k.store = []) ∧ (∀ x, x ≠ id → getConn t x = getConn s x) ∧
      (d.admin = true → s.queues.queues.get 0 = none → t.queues.queues.get 0 = some ⟨some id, false, 0⟩)) ∧
  (∀ (s : State) (d : ConnectDg), s.power.phase = .up → (getPort s d.port).answersAt d.dst = true →
    let refusedWith (n : Nat) : Prop := completes (.connect d) s fun t => t.out = .nakConnect d.port n :: s.out ∧
      t.host.conns = s.host.conns ∧ t.queues = s.queues
    (Tab.freeFrom s.host.conns maxConns 0 = none → refusedWith 3) ∧
    (Tab.freeFrom s.host.conns maxConns 0 ≠ none → d.admin = true → adminGranted s d = false → refusedWith 4)) ∧
  (∀ (s : State) (d : ConnectDg), (getPort s d.port).answersAt d.dst = false → exec (.connect d) s = .next s) ∧
  (∀ (s : State) (p id : Nat), s.power.phase = .up → s.live id →
    completes (.close p id) s fun t => (getConn t id).map Conn.closing = some true ∧ t.live id ∧ t.queues = s.queues ∧
      ∀ x, x ≠ id → getConn t x = getConn s x) ∧
  (∀ (s : State) (id : Nat) (k : Conn), s.power.phase = .up → getConn s id = some k → k.failed = false → k.closed = false →
    k.closing = true → k.open_ = 0 → (k.store.any fun x => x.event.isNone) = false →
    completes (.closeTakesEffect id) s fun t => (getConn t id).map Conn.closed = some true ∧ (∀ x ∈ t.queues.queues, x.2.conn ≠ some id) ∧
      t.host.storeUsed = s.host.storeUsed - storeBytes k.store) ∧
  (∀ (s : State) (id : Nat) (k : Conn), s.power.phase = .up → getConn s id = some k → k.failed = false → k.closed = false →
    k.closing = true → k.open_ = 0 → (k.store.any fun x => x.event.isNone) = true →
    completes (.closeTakesEffect id) s fun t => (getConn t id).map Conn.failed = some true ∧
      (getConn t id).map Conn.store = some [] ∧ ∀ x ∈ t.queues.queues, x.2.conn ≠ some id) ∧
  (∀ (s : State) (id : Nat) (k : Conn) (x : Kept) (xs : List Kept), s.power.phase = .up → getConn s id = some k → k.failed = false →
    k.closed = false → k.store = x :: xs →
    (x.failures < 2 → completes (.replyRetransmit id) s fun t => .resend id x.first ∈ t.out ∧
      (getConn t id).map Conn.store = some ({ x with failures := x.failures + 1 } :: xs)) ∧
    (2 ≤ x.failures → completes (.replyRetransmit id) s fun t => (getConn t id).map Conn.failed = some true ∧
      (getConn t id).map Conn.store = some [] ∧ (∀ x ∈ t.queues.queues, x.2.conn ≠ some id))) ∧
  (∀ (s : State) (id : Nat) (u : Queue), s.power.phase = .up → s.queues.queues.get 0 = some u → u.orphaned = true → u.tags = 0 →
    s.host.next0 = some id →
    completes (.queue0Rebind id) s fun t => t.queues.queues.get 0 = some ⟨some id, false, 0⟩ ∧ t.host.orphan0 = false ∧
      t.host.next0 = none)) ∧
  ((∀ (s : State) (d : DataDg), s.power.phase = .up → liveConn s d.conn = none →
    completes (.data d) s fun t => t.out = .nak d.conn d.seq 3 :: s.out ∧ t.host.conns = s.host.conns ∧ t.queues = s.queues) ∧
  (∀ (s : State) (d : DataDg) (k : Conn), s.power.phase = .up → s.live d.conn →
    getConn (ackUpTo (heardOn s d.conn d.port) d.conn d.ackSeq) d.conn = some k →
    let u := ackUpTo (heardOn s d.conn d.port) d.conn d.ackSeq
    (d.seq ≠ k.rxNext → seqLe d.seq (k.rxNext - 1) = true → completes (.data d) s fun t =>
      .ack d.conn (k.rxNext - 1) ∈ t.out ∧ (getConn t d.conn).map Conn.rxNext = some k.rxNext) ∧
    (d.seq ≠ k.rxNext → seqLe d.seq (k.rxNext - 1) = false → completes (.data d) s fun t =>
      t.out = .nak d.conn k.rxNext 1 :: s.out ∧ getConn t d.conn = some k ∧ t.queues = s.queues) ∧
    (d.seq = k.rxNext → rxLimit d.port k.admin < rxUsed (getPort u d.port) k.admin + d.body.length →
      completes (.data d) s fun t => t.out = .nak d.conn d.seq 2 :: s.out ∧ getConn t d.conn = some k ∧ t.queues = s.queues) ∧
    (d.seq = k.rxNext → rxUsed (getPort u d.port) k.admin + d.body.length ≤ rxLimit d.port k.admin → d.last = false →
      completes (.data d) s fun t => t.out = s.out ∧ t.queues = s.queues ∧ ∃ x, getConn t d.conn = some x ∧ x.rxNext = k.rxNext + 1 ∧
        x.asm = if d.first then some d.body else k.asm.map (· ++ d.body)) ∧
    (d.seq = k.rxNext → rxUsed (getPort u d.port) k.admin + d.body.length ≤ rxLimit d.port k.admin → d.last = true →
      ∀ bs, (if d.first then some d.body else k.asm.map (· ++ d.body)) = some bs → 64 ≤ bs.length →
      let v := setConn (updPort u d.port fun p => addRx p k.admin d.body.length) d.conn { k with rxNext := k.rxNext + 1, asm := none }
      exec (.data d) s = .next (receive (parseCapsule d.port d.conn bs).1 (parseCapsule d.port d.conn bs).2 decideOp
        (sendAck v d.conn d.seq)))) ∧
  (∀ (s : State) (p id : Nat) (q : BitVec 32) (k : Conn), s.power.phase = .up → getConn s id = some k → k.failed = false →
    k.closed = false →
    completes (.ack p id q) s fun t => t.out = s.out ∧ ∃ x, getConn t id = some x ∧ x.rxNext = k.rxNext ∧
      (∀ y ∈ x.store, y ∈ k.store ∨ y.first = q + 1) ∧
      ((k.store.all fun y => seqLe (y.first + BitVec.ofNat 32 (y.count - 1)) q) = true →
        x.store = [] ∧ t.host.storeUsed = s.host.storeUsed - storeBytes k.store)))

/-- A host port that goes down moves its connections to their alternates or fails them (R250), one that comes up gives
nothing back and ends its source with the last (R250, R408), a cage without a module or with a fault takes its port down
(R236, R393), and RATE and address writes act as their registers say (R238, R389). -/
def Obligations.HostPortsChange : Prop :=
  (∀ (s : State) (p : Nat), s.power.phase = .up → p < 2 → s.host.ports.length = 3 → (getPort s p).pcs = true →
    Tab.wf s.host.conns = true →
    completes (.hostPortDown p) s fun t => (getPort t p).pcs = false ∧ (getPort t p).state = 0 ∧
      (∀ q, q ≠ p → getPort t q = getPort s q) ∧
      ∀ id c, getConn s id = some c → c.failed = false → c.closed = false →
        (c.port ≠ p → t.live id ∧ (getConn t id).map Conn.port = some c.port) ∧
        (c.port = p → c.alt = none → (getConn t id).map Conn.failed = some true) ∧
        (∀ a u, c.port = p → c.alt = some (a, u) →
          t.live id ∧ (getConn t id).map (fun k => (k.port, k.addr, k.udp)) = some (1 - p, a, u))) ∧
  (∀ s : State, s.power.phase = .up → s.host.ports.length = 3 → (getPort s 2).pcs = true →
    completes (.hostPortDown 2) s fun t => (getPort t 2).pcs = false ∧ (getPort t 2).state = 0 ∧ t.host.conns = s.host.conns ∧
      ∀ q, q ≠ 2 → getPort t q = getPort s q) ∧
  (∀ (s : State) (p : Nat), s.power.phase = .up → (getPort s p).pcs = false → exec (.hostPortDown p) s = .next s) ∧
  (∀ (s : State) (p : Nat), s.power.phase = .up → (getPort s p).pcs = true → exec (.hostPortUp p) s = .next s) ∧
  (∀ (s : State) (p : Nat), s.power.phase = .up → p < 3 → s.host.ports.length = 3 → (getPort s p).pcs = false →
    (getPort s p).state = 0 ∨ (getPort s p).state = 4 →
    completes (.hostPortUp p) s fun t => (getPort t p).pcs = true ∧ (getPort t p).state = 1 ∧ t.host.conns = s.host.conns ∧
      (∀ q, q ≠ p → getPort t q = getPort s q) ∧
      (portsOut t = true → t.collectors = s.collectors) ∧
      (portsOut t = false → t = dropPins { s with host := t.host } 72 (bit64 15))) ∧
  (∀ (s : State) (p : Nat) (b : Bool), s.power.phase = .up → p < 2 → s.host.ports.length = 3 → (getPort s p).pcs = false →
    completes (.osfpModuleInserted p b) s fun t => (getPort t p).state = (if b then 0 else 2) ∧ t.host.conns = s.host.conns) ∧
  (∀ (s : State) (p : Nat) (b : Bool), s.power.phase = .up → (getPort s p).pcs = true → exec (.osfpModuleInserted p b) s = .next s) ∧
  (∀ (s : State) (p : Nat), s.power.phase = .up → p < 2 → s.host.ports.length = 3 →
    (completes (.osfpModuleRemoved p) s fun t => (getPort t p).state = 3 ∧ (getPort t p).pcs = false) ∧
    (completes (.osfpCageOvercurrent p) s fun t => (getPort t p).state = 3 ∧ (getPort t p).pcs = false)) ∧
  (∀ (s : State) (p : Nat) (r : BitVec 2), s.power.phase = .up → p < 2 → s.host.ports.length = 3 → r ≠ 3 →
    completes (.hostifRateWrite p r) s fun t => (getPort t p).rate = r ∧ (getPort t p).useRate = (getPort s p).useRate ∧
      (getPort t p).pcs = (getPort s p).pcs ∧ t.host.conns = s.host.conns ∧ ∀ q, q ≠ p → getPort t q = getPort s q) ∧
  (∀ (s : State) (p : Nat) (r : BitVec 2), s.power.phase = .up → p = 2 ∨ r = 3 → exec (.hostifRateWrite p r) s = .next s) ∧
  (∀ (s : State) (p : Nat), p < 2 → s.host.ports.length = 3 →
    (getPort (takeUpRates s) p).useRate = (getPort s p).rate ∧
    ((getPort s p).rate ≠ (getPort s p).useRate → (getPort (takeUpRates s) p).pcs = false)) ∧
  (∀ (s : State) (p : Nat) (v : BitVec 64), s.power.phase = .up → p < 3 → s.host.ports.length = 3 →
    (completes (.hostifAddressWrite p 0x00 v) s fun t => (getPort t p).vlanId = v.extractLsb' 17 12 ∧
      (getPort t p).vlanEn = v.getLsbD 29 ∧ (getPort t p).useVlan = (getPort s p).useVlan) ∧
    (completes (.hostifAddressWrite p 0x10 v) s fun t => (getPort t p).ipv4 = v &&& 0x8000003FFFFFFFFF ∧
      (getPort t p).useIpv4 = (getPort s p).useIpv4) ∧
    (completes (.hostifAddressWrite p 0x28 v) s fun t => (getPort t p).ipv6ctl = v &&& 0x80000000000000FF ∧
      (getPort t p).useIpv6ctl = (getPort s p).useIpv6ctl) ∧
    (completes (.hostifAddressWrite p 0x18 v) s fun t => (getPort t p).useIpv6 = (getPort s p).useIpv6 ∧
      beBytes 16 (getPort t p).ipv6.toNat = leBytes 8 v.toNat ++ (beBytes 16 (getPort s p).ipv6.toNat).drop 8) ∧
    (completes (.hostifAddressWrite p 0x20 v) s fun t => (getPort t p).useIpv6 = (getPort s p).useIpv6 ∧
      beBytes 16 (getPort t p).ipv6.toNat = (beBytes 16 (getPort s p).ipv6.toNat).take 8 ++ leBytes 8 v.toNat))

/-- A received frame is dropped and counted by the first check it fails, and one for this port is answered or handed on by
what it carries (R237, R240, R242). -/
def Obligations.FramesAreSorted : Prop :=
  ∀ (s : State) (f : Frame), s.power.phase = .up →
    let drops : Prop := exec (.ethernetFrame f) s = .next s
    let counts (a : Nat) : Prop := exec (.ethernetFrame f) s = .next (bump s a)
    let answers (o : Out) : Prop := completes (.ethernetFrame f) s fun t =>
      t.out = o :: s.out ∧ t.host.conns = s.host.conns ∧ t.queues = s.queues
    ((getPort s f.port).pcs = false ∨ f.bytes < 64 ∨ 9216 < f.bytes → drops) ∧
    ((getPort s f.port).pcs = true → 64 ≤ f.bytes → f.bytes ≤ 9216 →
    (f.fcsOk = false → counts (rxErrCnt f.port)) ∧
    (f.fcsOk = true → (getPort s f.port).maxIp.toNat < f.ipLen → counts (oversizeCnt f.port)) ∧
    (f.fcsOk = true → f.ipLen ≤ (getPort s f.port).maxIp.toNat →
      (f.fragment = true → counts (fragCnt f.port)) ∧
      (f.fragment = false → frameToUs (getPort s f.port) f = false → drops) ∧
      (f.fragment = false → frameToUs (getPort s f.port) f = true →
        (f.kind = .arp → answers (.arpReply f.port)) ∧
        (f.kind = .neighbour → answers (.neighbourReply f.port)) ∧
        (f.kind = .echo → answers (.echoReply f.port)) ∧
        (∀ o n, f.kind = .ptp o n → exec (.ethernetFrame f) s = exec (.ptpMessage f.port o n) s) ∧
        (∀ (mgmt : Bool) (ns : Nat), f.kind = .pause mgmt ns →
          ((getPort s f.port).pfc = true ∧ mgmt = true ∧ 100000 < ns → counts (mgmtPauseCnt f.port)) ∧
          ((getPort s f.port).pfc = false ∨ mgmt = false ∨ ns ≤ 100000 → drops)) ∧
        (f.kind = .otherIp ∨ f.kind = .nonIp → drops) ∧
        (∀ (v4 sumZero : Bool) (dst sp : Nat) (src : BitVec 128) (bs : List Byte), f.kind = .udp v4 false sumZero dst src sp bs →
          (v4 && sumZero) = false → counts (rxErrCnt f.port)) ∧
        (∀ (v4 ok sumZero : Bool) (dst sp : Nat) (src : BitVec 128) (bs : List Byte), f.kind = .udp v4 ok sumZero dst src sp bs →
          (ok || (v4 && sumZero)) = true → dst ≠ 46200 → drops) ∧
        (∀ (v4 ok sumZero : Bool) (sp : Nat) (src : BitVec 128) (bs : List Byte), f.kind = .udp v4 ok sumZero 46200 src sp bs →
          (ok || (v4 && sumZero)) = true → 16 ≤ bs.length → fieldB bs 0 2 < 2 ^ 13 → fieldB bs 3 1 < 16 →
          let c := fieldB bs 0 2
          let b := bs.drop 16
          (fieldB bs 2 1 = 1 → exec (.ethernetFrame f) s = exec (.connect ⟨f.port, f.dst, src, sp, bitOf (fieldB bs 3 1) 3,
            fieldB b 18 1 == 1, BitVec.ofNat 128 (beNat (b.take 16)), fieldB b 16 2⟩) s) ∧
          (fieldB bs 2 1 = 3 → exec (.ethernetFrame f) s = exec (.data ⟨f.port, src, sp, c, bitOf (fieldB bs 3 1) 0,
            bitOf (fieldB bs 3 1) 1, BitVec.ofNat 32 (fieldB bs 4 4), BitVec.ofNat 32 (fieldB bs 8 4), b⟩) s) ∧
          (fieldB bs 2 1 = 4 → exec (.ethernetFrame f) s = exec (.ack f.port c (BitVec.ofNat 32 (fieldB bs 8 4))) s) ∧
          (fieldB bs 2 1 = 6 → exec (.ethernetFrame f) s = exec (.close f.port c) s) ∧
          (fieldB bs 2 1 ∉ [1, 3, 4, 6] → drops)))))

/-- NOP, SETA, ADDA, SETS, LOOP, ENDL, SKIPMAP, TAG and BEAD change the registers of their stream as R223 says and go to the
next instruction, ENDL back to its LOOP while the counter is above zero; nothing else in the module changes. No instruction
acts on a stream that executes no word now. -/
def Obligations.StreamRegisters : Prop :=
  (∀ (s : State) (sid : Nat) (x y : BitVec 3) (f : BitVec 4) (imm : BitVec 48), (getStream s sid).bind (nextWord s) = none →
    ∀ i ∈ [.nop sid, .seta sid x imm, .adda sid x y imm, .sets sid x imm, .loop sid x imm, .endl sid x, .read sid x f imm,
      .gather sid x y f imm, .skipmap sid y imm, .tag sid f imm, .bead sid imm, .write sid x, .msaop sid x f, .halt sid],
      exec i s = .next s) ∧
  ∀ (s : State) (sid w : Nat) (r : Stream), getStream s sid = some r → nextWord s r = some w →
    let becomes (i : Instr) (r' : Stream) : Prop := exec i s = .next (updStream s sid fun _ => r')
    (insnOp w = 0 → becomes (.nop sid) { r with pc := r.pc + 1 }) ∧
    (∀ (x : BitVec 3) (imm : BitVec 48), insnX w = x.toNat → insnImm w = imm.toNat →
      (insnOp w = 1 → becomes (.seta sid x imm) { r with a := updAt r.a x.toNat fun _ => imm, pc := r.pc + 1 }) ∧
      (insnOp w = 3 → becomes (.sets sid x imm) { r with s := updAt r.s x.toNat fun _ => imm, pc := r.pc + 1 }) ∧
      (insnOp w = 4 → becomes (.loop sid x imm) { r with c := updAt r.c x.toNat fun _ => imm.setWidth 24, loops := (x.toNat, r.pc + 1) :: r.loops,
                                                         pc := r.pc + 1 })) ∧
    (∀ (x y : BitVec 3) (imm : BitVec 48), insnOp w = 2 → insnX w = x.toNat → insnY w = y.toNat → insnImm w = imm.toNat →
      becomes (.adda sid x y imm) { r with a := updAt r.a x.toNat fun _ => r.a.getD y.toNat 0 + imm, pc := r.pc + 1 }) ∧
    (∀ x : BitVec 3, insnOp w = 5 → insnX w = x.toNat →
      let v := r.c.getD x.toNat 0 - 1
      (∀ (back : Nat) (ls : List (Nat × Nat)), r.loops = (x.toNat, back) :: ls →
        becomes (.endl sid x) { r with c := updAt r.c x.toNat (fun _ => v), loops := if v = 0 then ls else r.loops,
                                       pc := if v = 0 then r.pc + 1 else back }) ∧
      (r.loops = [] → becomes (.endl sid x) { r with c := updAt r.c x.toNat (fun _ => v), pc := r.pc + 1 })) ∧
    (∀ (y : BitVec 3) (imm : BitVec 48), insnOp w = 10 → insnY w = y.toNat → insnImm w = imm.toNat →
      becomes (.skipmap sid y imm) { r with skipLeft := imm.toNat % 2 ^ 24, skipAt := (r.a.getD y.toNat 0).toNat, skipJ := 0, pc := r.pc + 1 }) ∧
    (∀ (f : BitVec 4) (imm : BitVec 48), insnOp w = 11 → insnF w = f.toNat → insnImm w = imm.toNat →
      becomes (.tag sid f imm) { r with seq := imm.setWidth 16, pc := r.pc + 1,
                                        pair := if f.getLsbD 0 then some (imm.extractLsb' 16 8).toNat else r.pair }) ∧
    (∀ imm : BitVec 48, insnOp w = 12 → insnImm w = imm.toNat →
      becomes (.bead sid imm) { r with bead := r.launch + imm.toNat % 2 ^ 12, pc := r.pc + 1 })

/-- READ and GATHER cut their requests and begin to issue the pieces, a READ that SKIPMAP skips requests nothing, and the A
register of a READ moves on by its stride; GATHER takes its list from the entry that A[Y] names (log entry 26). WRITE and
MSAOP wait while no FULL slot stands at the tail of their input ring; otherwise the tail passes the slot, a WRITE to scratch
puts its bytes in the task's pages, at once or behind a retrain, and both stop with a stream fault at an offset that is not
writable, MSAOP too where a request is discarded by a channel that is out; HALT ends the stream, which goes once its ring is
empty (R223 to R229). -/
def Obligations.StreamRequests : Prop :=
  ∀ (s : State) (sid w : Nat) (r : Stream), getStream s sid = some r → nextWord s r = some w →
    (∀ (x : BitVec 3) (f : BitVec 4) (imm : BitVec 48), insnOp w = 8 → insnX w = x.toNat → insnF w = f.toNat → insnImm w = imm.toNat →
      let a := r.a.getD x.toNat 0
      let r1 := { r with a := updAt r.a x.toNat fun _ => a + r.s.getD x.toNat 0, skipLeft := r.skipLeft - 1, skipJ := r.skipJ + 1,
                         pc := r.pc + 1 }
      let ps := piecesOf r (f.toNat % 4) a.toNat (imm.toNat % 2 ^ 17)
      let b := bitmapBit s r r.skipAt r.skipJ
      (r.skipLeft = 0 → exec (.read sid x f imm) s =
        .next (issueWaiting (updStream s sid fun _ => { r1 with waiting := ps }) sid)) ∧
      (0 < r.skipLeft → b.1 = false → exec (.read sid x f imm) s = .next (updStream b.2 sid fun _ => { r1 with waiting := [] })) ∧
      (0 < r.skipLeft → b.1 = true → exec (.read sid x f imm) s =
        .next (issueWaiting (updStream b.2 sid fun _ => { r1 with waiting := ps }) sid))) ∧
    (∀ (x y : BitVec 3) (f : BitVec 4) (imm : BitVec 48), insnOp w = 9 → insnX w = x.toNat → insnY w = y.toNat → insnF w = f.toNat →
      insnImm w = imm.toNat →
      let n := imm.toNat % 2 ^ 24
      let at_ := (r.a.getD y.toNat 0).toNat - r.extAt
      let es := if f.getLsbD 2 then (r.ext.drop (at_ / 8)).take n else ((r.ext.drop (at_ / 4)).take n).map fun e =>
        ((r.a.getD x.toNat 0).toNat + e.1 * 2 ^ bitsOf imm.toNat 29 24, 2 ^ bitsOf imm.toNat 29 24)
      exec (.gather sid x y f imm) s = .next (issueWaiting (updStream s sid fun _ =>
        { r with waiting := (es.map fun e => piecesOf r (f.toNat % 4) e.1 e.2).flatten, pc := r.pc + 1 }) sid)) ∧
    (∀ (x : BitVec 3) (f : BitVec 4), insnX w = x.toNat → insnF w = f.toNat → (inputOf s r).bind tailFull = none →
      (insnOp w = 16 → exec (.write sid x) s = .next s) ∧ (insnOp w = 17 → exec (.msaop sid x f) s = .next s)) ∧
    (∀ (x : BitVec 3) (i : Stream) (sl : Slot), insnOp w = 16 → insnX w = x.toNat → inputOf s r = some i → tailFull i = some sl →
      let off := (r.a.getD x.toNat 0).toNat
      (writable s r off sl.len = true → exec (.write sid x) s =
        .next (issueAll (updStream (updStream (streamWrite s r off sl.data) i.sid fun _ => advanceTail i) sid fun _ =>
          { r with a := updAt r.a x.toNat fun _ => r.a.getD x.toNat 0 + r.s.getD x.toNat 0, pc := r.pc + 1 }))) ∧
      (∀ bs : List Byte, r.coll = none → s.memOk = true → off % 65536 + bs.length ≤ 65536 →
        let p := scratchPlace s r.tid off
        let t := streamWrite s r off (.bytes bs)
        ((getChan s p.1).state ≠ 1 → t.hbm.scratch.readBytes (scratchAddr p.1 p.2) bs.length = bs ∧
          ∀ y, y < scratchAddr p.1 p.2 ∨ scratchAddr p.1 p.2 + bs.length ≤ y → t.hbm.scratch.read y = s.hbm.scratch.read y) ∧
        ((getChan s p.1).state = 1 → t = updChan s p.1 fun c => { c with queued := c.queued ++ [.write p.2 bs (some r.tid)] })) ∧
      (writable s r off sl.len = false → exec (.write sid x) s = .next (streamFault s sid))) ∧
    (∀ (x : BitVec 3) (f : BitVec 4) (i : Stream) (sl : Slot), insnOp w = 17 → insnX w = x.toNat → insnF w = f.toNat →
      inputOf s r = some i → tailFull i = some sl →
      let off := (r.a.getD x.toNat 0).toNat
      let op := msaopOf f
      let pass (t : State) : State := issueAll (updStream (updStream t i.sid fun _ => advanceTail i) sid fun _ => { r with pc := r.pc + 1 })
      (∀ bs, sl.data = .bytes bs → writable s r off sl.len = true →
        (msaLost s r op.2 off bs = false → exec (.msaop sid x f) s = .next (pass (msaBurst r op.1 op.2 off bs s))) ∧
        (msaLost s r op.2 off bs = true → exec (.msaop sid x f) s = .next (streamFault (msaBurst r op.1 op.2 off bs s) sid))) ∧
      ((∀ bs, sl.data ≠ .bytes bs) → writable s r off sl.len = true → exec (.msaop sid x f) s = .next (pass s)) ∧
      (writable s r off sl.len = false → exec (.msaop sid x f) s = .next (streamFault s sid))) ∧
    (insnOp w = 63 → exec (.halt sid) s = .next (reap (updStream s sid fun _ => { r with halted := true, pc := r.pc + 1 })) ∧
      completes (.halt sid) s fun t =>
        getStream t sid = if r.head = r.tail then none else some { r with halted := true, pc := r.pc + 1 })

/-- R224: the pieces of a request follow one another without a gap up to its length; none crosses a 64 KiB page boundary and
none is longer than the slot size. -/
def Obligations.PiecesStayInPages : Prop :=
  ∀ (r : Stream) (mode off len : Nat), r.slotBytes ∈ [2048, 16384, 65536] →
    let ps := piecesOf r mode off len
    (∀ p ∈ ps, 0 < p.len ∧ p.len ≤ r.slotBytes ∧ p.off / 65536 = (p.off + p.len - 1) / 65536 ∧ p.mode = mode ∧ p.bead = r.bead) ∧
    (ps.map Piece.len).foldl (· + ·) 0 = len ∧
    (∀ i, i < ps.length → (ps.getD i ⟨0, 0, 0, 0⟩).off = off + ((ps.take i).map Piece.len).foldl (· + ·) 0)

/-- INT32 and INT64 sums wrap, the smaller and larger are by sign, FP32 and BF16 sums are rounded once (R121), and a NaN
gives NaN; MSA_ADD, MSA_MIN and MSA_MAX change the bytes of one element and no other byte, a wrapping ADD counts, a request
to a channel that retrains waits, and one to a channel that is out is discarded. -/
def Obligations.AddersAct : Prop :=
  ((∀ d v : BitVec 32, msaElem 0 .int32 d.toNat v.toNat = ((d + v).toNat, BitVec.saddOverflow d v) ∧
    (msaElem 1 .int32 d.toNat v.toNat).1 = (if v.slt d then v else d).toNat ∧
    (msaElem 2 .int32 d.toNat v.toNat).1 = (if d.slt v then v else d).toNat) ∧
  (∀ d v : BitVec 64, msaElem 0 .int64 d.toNat v.toNat = ((d + v).toNat, BitVec.saddOverflow d v) ∧
    (msaElem 1 .int64 d.toNat v.toNat).1 = (if v.slt d then v else d).toNat ∧
    (msaElem 2 .int64 d.toNat v.toNat).1 = (if d.slt v then v else d).toNat) ∧
  (∀ d v : BitVec 32, (msaElem 0 .fp32 d.toNat v.toNat).1 = (Machine.Num.toF32 (Machine.Num.add (Machine.Num.ofF32 d) (Machine.Num.ofF32 v))).toNat ∧
    ((Machine.Num.ofF32 d).isNan = true ∨ (Machine.Num.ofF32 v).isNan = true → ∀ op, op = 1 ∨ op = 2 →
      (Machine.Num.ofF32 (BitVec.ofNat 32 (msaElem op .fp32 d.toNat v.toNat).1)).isNan = true) ∧
    (∀ op, op = 1 ∨ op = 2 → d.extractLsb' 0 31 = 0 → v.extractLsb' 0 31 = 0 → (msaElem op .fp32 d.toNat v.toNat).1 = d.toNat)) ∧
  (∀ d v : BitVec 16, (msaElem 0 .bf16 d.toNat v.toNat).1 = (Machine.Num.toBf16 (Machine.Num.add (Machine.Num.ofBf16 d) (Machine.Num.ofBf16 v))).toNat ∧
    ((Machine.Num.ofBf16 d).isNan = true ∨ (Machine.Num.ofBf16 v).isNan = true → ∀ op, op = 1 ∨ op = 2 →
      (Machine.Num.ofBf16 (BitVec.ofNat 16 (msaElem op .bf16 d.toNat v.toNat).1)).isNan = true) ∧
    (∀ op, op = 1 ∨ op = 2 → d.extractLsb' 0 15 = 0 → v.extractLsb' 0 15 = 0 → (msaElem op .bf16 d.toNat v.toNat).1 = d.toNat))) ∧
  (∀ (i : Instr) (op ch addr : Nat) (fmt : MsaFmt) (v : BitVec 64) (s : State), s.power.phase = .up → s.memOk = true →
    (i, op) ∈ [(.msaAdd ch addr fmt v, 0), (.msaMin ch addr fmt v, 1), (.msaMax ch addr fmt v, 2)] →
    let n := msaBytes fmt
    (ch < 256 → (getChan s ch).state = 0 → let a := scratchAddr ch addr
      let e := msaElem op fmt (leNat (s.hbm.scratch.readBytes a n)) v.toNat
      completes i s fun t => t.hbm.scratch.readBytes a n = leBytes n e.1 ∧ t.near = s.near ∧ t.hbm.chans = s.hbm.chans ∧
        (∀ x, x < a ∨ a + n ≤ x → t.hbm.scratch.read x = s.hbm.scratch.read x) ∧
        (e.2 = false → t.counters = s.counters) ∧
        (e.2 = true → (counterAt t (msaOvfCnt (ch / 32))).val = min (2 ^ 48 - 1) ((counterAt s (msaOvfCnt (ch / 32))).val + 1))) ∧
    (ch < 256 → (getChan s ch).state = 1 →
      exec i s = .next (updChan s ch fun c => { c with queued := c.queued ++ [.msa ⟨op, addr, fmt, v, none⟩] })) ∧
    (ch < 256 → (getChan s ch).state ≠ 0 → (getChan s ch).state ≠ 1 → exec i s = .next s) ∧
    (256 ≤ ch → let a := (ch - 256) * 2 ^ 32 + addr % 2 ^ 32
      let e := msaElem op fmt (leNat (s.near.bytes.readBytes a n)) v.toNat
      completes i s fun t => t.near.bytes.readBytes a n = leBytes n e.1 ∧ t.hbm = s.hbm ∧ t.counters = s.counters ∧
        ∀ x, x < a ∨ a + n ≤ x → t.near.bytes.read x = s.near.bytes.read x))

/-- The data of a piece makes its slot FULL once its device answers and the reads before it are served (R184), and counts as a
read of its block or a use of its copy; an uncorrectable piece takes what R179, R193 and R231 say, and a VOID slot discards
what arrives. A prong screens, gates or passes a flash piece, and leaves a sketch block to the facets where it is fenced
(R195 to R197, R331). A consumer takes the FULL slot at the tail, a data stream with its scale block, which aborts the task
where it does not match; what the consumer formed stands and the tail passes the slot when it finishes, but for a task
aborted meanwhile (R149, R226, R227, R229). -/
def Obligations.SlotsFillAndPass : Prop :=
  ∀ (s : State) (sid i : Nat) (r : Stream) (x : Slot) (tk : Task), s.power.phase = .up → getStream s sid = some r →
    slotAt r i = some x → getTask s r.tid = some tk →
    let atTail : Prop := i = r.tail % max 1 r.ring.length ∧ r.tail < r.head
    let slotOf (t : State) : Option Slot := (getStream t sid).bind fun r => slotAt r i
    (answers s r x = true → served s r tk x = true → x.st = .issued →
      (∀ d, unreadable s r x = false → arrived s r tk x = some d → completes (.pieceComplete sid i .ok) s fun t =>
        slotOf t = some { x with st := .full, outstanding := false, atDevice := false, data := d } ∧
        (x.tier = 2 → t.flash = (countBlockRead s (r.coll.getD 0) (x.off / 65536)).flash ∧ t.colls = s.colls) ∧
        (x.tier ≠ 2 → t.flash = s.flash ∧ t.colls = (useCopy s r x).colls)) ∧
      (unreadable s r x = true ∨ arrived s r tk x = none → exec (.pieceComplete sid i .ok) s = .next s) ∧
      exec (.pieceComplete sid i .uncorrectable) s = .next (pieceFails s r tk i x)) ∧
    (∀ res, (answers s r x = false ∨ (x.st = .issued ∧ served s r tk x = false) ∨ (x.st ≠ .issued ∧ (x.st ≠ .void ∨ x.outstanding = false)) →
        exec (.pieceComplete sid i res) s = .next s) ∧
      (answers s r x = true → x.st = .void → x.outstanding = true → exec (.pieceComplete sid i res) s =
        .next (issueAll (settleRings (updSlot s sid i fun y => { y with outstanding := false, atDevice := false }))))) ∧
    (∀ cov, x.data = .raw cov → x.st = .issued → x.tier = 2 → served s r tk x = true →
      let fenced := (getFlashCh s x.chan).prongFenced
      let becomes (i' : Instr) (y : Slot) : Prop := completes i' s fun t => slotOf t = some y ∧ t.streams.tasks = s.streams.tasks ∧
        ∀ k, k ≠ sid → getStream t k = getStream s k
      (x.mode = 1 → fenced = false →
        becomes (.prongScreen sid i) { x with data := .survivors cov (survivors s tk cov), atDevice := true }) ∧
      (x.mode = 2 → fenced = false → becomes (.prongGate sid i) { x with data := .entries (gated s tk cov), atDevice := true }) ∧
      (x.mode = 0 → becomes (.prongPass sid i) { x with data := .entries cov, raw := false, atDevice := true }) ∧
      (x.mode = 1 → fenced = true → becomes (.prongPass sid i) { x with data := .raw cov, raw := true, atDevice := true }) ∧
      (x.mode = 2 → fenced = true → becomes (.prongPass sid i) { x with data := .entries (gated s tk cov), raw := false, atDevice := true })) ∧
    (tailFull r = none → ∀ scale ord, exec (.slotTake sid scale ord) s = .next s) ∧
    (∀ (scale : Option (List Byte)) (ord : List Nat), atTail → x.st = .full →
      (r.stopped = true ∨ stageOpen s tk = false ∨ (isDataStream s r = true ∧ scale = none) → exec (.slotTake sid scale ord) s = .next s) ∧
      (r.stopped = false → stageOpen s tk = true →
        (isDataStream s r = false ∨ (∃ b, scale = some b ∧ scaleMatches s tk x (scaleBlockOf b) = true) →
          completes (.slotTake sid scale ord) s fun t => slotOf t = some { x with st := .taken, ord := ord } ∧
            t.streams.tasks = s.streams.tasks ∧ t.search = s.search ∧ t.learn = s.learn) ∧
        (∀ b, isDataStream s r = true → scale = some b → scaleMatches s tk x (scaleBlockOf b) = false →
          exec (.slotTake sid scale ord) s = .next (streamSkew s r)))) ∧
    (atTail → x.st = .taken →
      (tk.aborted = true → exec (.slotFinish sid) s = .next (reap (issueWaiting (updStream s sid advanceTail) sid))) ∧
      (tk.aborted = false →
        let t := updTask (consume tk x.data x.ord s) tk.tid fun y => { y with dealt := y.dealt + ceilDiv (coveredOf x.data).length 64 }
        exec (.slotFinish sid) s = .next (reap (issueWaiting (updStream t sid advanceTail) sid))))

/-- COMPACTION, HALF_SCALE_REPEAT and REPEATED_PASS do the next step of their query, and nothing where the buffer is not
full, no block overflowed or no pass may run (R84 to R86, R136). CLASP_MERGE_START merges the lists of a die, of the module or
of the fabric stage, no earlier than the bead of its stage and none while the module clasp is out; the fabric stage ends with
the root's folded list, or with the list that a member sends to its parent (R77, R93, R109, R311 to R313). -/
def Obligations.QueryStagesAdvance : Prop :=
  ∀ (s : State) (qid : Nat) (q : Query), s.power.phase = .up → findQuery s qid = some q →
    (bufferFull q = true → completes (.compaction qid) s fun t => findQuery t qid = some (compact q).1 ∧
      (counterAt t compactCnt).val = min (2 ^ 48 - 1) ((counterAt s compactCnt).val + 1)) ∧
    (bufferFull q = false → exec (.compaction qid) s = .next s) ∧
    (∀ ord : List Nat,
      (∀ (r : Repeat) (rest : List Repeat) (c : Coll), q.reps = r :: rest → q.stage = .scanning → getColl s q.coll = some c →
        exec (.halfScaleRepeat qid ord) s = .next (scoreBlock c r.seg r.facet (r.halvings + 1) ord
          (updQuery (bump s (if r.halvings < 2 then adcHalfCnt r.facet else adcFp16Cnt r.facet)) qid fun q => { q with reps := rest })
          qid r.entries)) ∧
      (q.reps = [] ∨ q.stage ≠ .scanning → exec (.halfScaleRepeat qid ord) s = .next s)) ∧
    (passOpen s q = true →
      (q.exhausted = false → completes (.repeatedPass qid) s fun t => findQuery t qid = some (onePass q)) ∧
      (q.exhausted = true → exec (.repeatedPass qid) s =
        .next (advance (drawOrd s).2 (endPasses true q).1 (endPasses true q).2 (drawOrd s).1))) ∧
    (q.stage ≠ .scanning ∨ q.p.passes = false ∨ scanOver q = false ∨ beadNow s < mergeBead q ∨ s.search.claspOut = true →
      exec (.repeatedPass qid) s = .next s) ∧
    (∀ (st : ClaspStage) (ties : List Nat), s.search.claspOut = true → exec (.claspMergeStart qid st ties) s = .next s) ∧
    (∀ (d : Nat) (ties : List Nat), s.search.claspOut = false →
      (listReady q = true → mergeBead q ≤ beadNow s → (q.parts.any fun x => x.facet / 17 == d) = true →
        completes (.claspMergeStart qid (.die d) ties) s fun t => findQuery t qid = some (dieMerge d q).1) ∧
      (listReady q = false ∨ beadNow s < mergeBead q ∨ (q.parts.any fun x => x.facet / 17 == d) = false →
        exec (.claspMergeStart qid (.die d) ties) s = .next s)) ∧
    (∀ ties : List Nat, s.search.claspOut = false →
      (beadNow s < mergeBead q → exec (.claspMergeStart qid .module ties) s = .next s) ∧
      (mergeBead q ≤ beadNow s →
        (listReady q = true → q.parts = [] →
          exec (.claspMergeStart qid .module ties) s = .next (advance s (moduleMerge q).1 (moduleMerge q).2 ties)) ∧
        ((q.stage = .reranking ∧ fetchOver q = true) ∨ q.stage = .ready →
          exec (.claspMergeStart qid .module ties) s = .next (advance s q 0 ties)))) ∧
    (∀ ties : List Nat, s.search.claspOut = false → q.stage = .clasping → q.kids ≠ [] →
      (fabricReady s q = false → exec (.claspMergeStart qid .fabric ties) s = .next s) ∧
      (fabricReady s q = true → completes (.claspMergeStart qid .fabric ties) s fun t =>
        let q1 := if q.p.payload && q.dropGather then { q with final := q.final.map fun e => { e with payMissing := true } } else q
        let b := (foldLists s q1 ties).1
        let gathers := q.p.payload && !q.dropGather && b.entries.any fun e => !e.payMissing
        (q.local_ = false → findQuery t qid = none ∧ t.fabric =
          (nextHop s (queryHdr s (addrAt q.members (parentOf q.fan q.pos)) 2 2 q.root q.serial q.tree) (.list b)).fabric) ∧
        (q.local_ = true → findQuery t qid =
          some { q1 with folded := some b, stage := if gathers then .selecting else .done })))

/-- R88, R93: a merge keeps, of all entries with one item id, the one that stands first in the order of distance, module and
slot; no item id stands twice in what it keeps, which is as long as the stage allows, and nothing it left out is nearer than
anything it kept. A stage that forwards its list has it in order of distance, then item id; the final stage in order of
distance, with the order among equal distances open (R89). -/
def Obligations.MergedLists : Prop :=
  ∀ (ties : List Nat) (n : Nat) (lists : List (List Scored)) (cuts : List F32),
    let all := lists.flatten
    let ids := (all.map Scored.itemId).eraseDups
    (∀ m ∈ [mergeLists n lists cuts, mergeFinal ties n lists cuts],
      m.kept.length = min n ids.length ∧ (m.kept.map Scored.itemId).Nodup ∧
      m.kept.Pairwise (fun a b => f32Key a.dist ≤ f32Key b.dist) ∧
      (∀ e ∈ m.kept, e ∈ all ∧ ∀ x ∈ all, x.itemId = e.itemId → e.le x = true) ∧
      (∀ e ∈ all, e.itemId ∉ m.kept.map Scored.itemId → ∀ k ∈ m.kept, f32Key k.dist ≤ f32Key e.dist) ∧
      m.dups = all.length - ids.length) ∧
    (mergeLists n lists cuts).kept.Pairwise (fun a b => keyLt a.key b.key = true)

/-- A SEARCH replies with its coverage, its entries and its missed records once its list is final, of the replies that may
leave the one of the earliest deadline bead first (R111, R113, R115); a READ_ITEM replies with the parts it asked for, or
READ_UNCORRECTABLE where one cannot be read, no earlier than its schedule (R272, R273, log entry 89); both leave their queries
and their tags. A reply that may not leave yet waits. -/
def Obligations.SearchReplies : Prop :=
  (∀ (s : State) (qid : Nat) (q : Query), s.power.phase = .up → nextReply s = some q →
    (q ∈ s.search.queries ∧ q.local_ = true ∧ q.stage = .done ∧
      (min (needsUntil q q.tier) q.deadline ≤ beadNow s ∨ isDetached s q.coll = true) ∧
      ∀ x ∈ s.search.queries, replyFree s x = true → q.deadline < x.deadline ∨ (q.deadline = x.deadline ∧ q.qid ≤ x.qid)) ∧
    (q.qid ≠ qid → exec (.searchReply qid) s = .next s) ∧
    (∀ m : Cmd, q.qid = qid → findCmd s q.ref.queue q.ref.tag = some m → m.ref = q.ref → s.live q.ref.conn →
      let r := searchReplyOf s q (q.folded.getD (ownList s q))
      completes (.searchReply qid) s fun t => answered q.ref r.status 0 r.body t ∧ findQuery t qid = none)) ∧
  (∀ (s : State) (qid : Nat), nextReply s = none → exec (.searchReply qid) s = .next s) ∧
  (∀ (s : State) (q g : Nat) (r : ReadItem), s.power.phase = .up →
    s.search.reads.find? (fun r => r.ref.queue == q && r.ref.tag == g) = some r →
    (∀ u : Bool, r.deadline < beadNow s ∨ (beadNow s = r.deadline ∧ s.time.cut = true) ∨ beadNow s < r.ready →
      exec (.readItemReply q g u) s = .next s) ∧
    (beadNow s < r.deadline ∨ (beadNow s = r.deadline ∧ s.time.cut = false) → r.ready ≤ beadNow s →
      (∀ ch off, lostPart s r = some (ch, off) →
        exec (.readItemReply q g false) s = .next (answerRead (lostRead s ch r.coll off) r 0x0302)) ∧
      (∀ m : Cmd, findCmd s q g = some m → m.ref = r.ref → s.live r.ref.conn →
        (∀ (c : Coll) (it : Item), getColl s r.coll = some c → c.items.get r.slot = some it → lostPart s r = none →
          completes (.readItemReply q g false) s fun t =>
            answered r.ref 0 0 (readPayload c r it ((entryAt c r.snap r.slot).map Prod.fst)) t ∧ r ∉ t.search.reads) ∧
        (completes (.readItemReply q g true) s fun t => answered r.ref 0x0302 0 [] t ∧ r ∉ t.search.reads)))) ∧
  (∀ s i : Nat, 0 < i → coverage s i = if s = 0 then 0 else max 1 (65536 * s / i)) ∧ (∀ s, coverage s 0 = 65536)

/-- A SEARCH, SEARCH_RANGE or READ_ITEM that passes its checks and whose reservations fit is admitted with the bead in
progress as its snapshot and waits, its buffers reserved, for its launch or its earliest reply bead; no reply leaves yet.
A READ_ITEM whose id no visible item has is answered at once (R49, R65, R105, R109, R188, R272, R273). -/
def Obligations.ReadsAdmitted : Prop :=
  (∀ (range : Bool) (op : BitVec 8) (i : Instr) (c : Capsule) (s : State) (k : Coll) (b : QueryBody),
    (op, i, range) ∈ [(0x01, .search c, false), (0x02, .searchRange c, true)] → submits op c s → admitStatus s = 0 →
    getColl s c.coll.toNat = some k → k.attached = true → searchChecks s k range c = .ok b →
    let s1 := queued op c s
    let p := queryParams range (groupProbe s k.att.pipeline) c (emptyQuery b)
    let q := buildQuery s1 k (refOf op c) true (beadNow s) (beadNow s) c.deadline.toNat s.fabric.addr s.search.serial p b
    reserveBad s1 k q = none →
    completes i s fun t => q ∈ t.search.queries ∧ q.qid = s.search.nextQid ∧ q.ref = refOf op c ∧ q.snap = beadNow s ∧
      q.stage = .admitted ∧ t.search.nextQid = s.search.nextQid + 1 ∧ t.search.serial = s.search.serial + 1 ∧
      t.pools.cand = s.pools.cand + q.candBytes ∧ t.pools.gather = s.pools.gather + q.gatherBytes ∧
      (findCmd t c.queue.toNat c.tag.toNat).map Cmd.stage = some .running ∧ noReply s t) ∧
  (∀ (c : Capsule) (s : State) (k : Coll), submits 0x03 c s → admitStatus s = 0 → getColl s c.coll.toNat = some k → k.attached = true →
    3 ≤ c.deadline.toNat → areaField c.area 32 1 ≤ 15 → c.body = [] →
    let id := BitVec.ofNat 64 (areaField c.area 24 8)
    (∀ slot it, resolveAt k id (beadNow s) = some slot → k.items.get slot = some it →
      completes (.readItem c) s fun t => (∃ r ∈ t.search.reads, r.ref = refOf 0x03 c ∧ r.slot = slot ∧ r.snap = beadNow s ∧
        r.deadline = beadNow s + c.deadline.toNat - 1 ∧ r.coll = c.coll.toNat ∧ r.want = BitVec.ofNat 4 (areaField c.area 32 1) ∧
        r.ready = beadNow s + (if partOnFlash (queued 0x03 c s) c.coll.toNat k slot (areaField c.area 32 1) it then 3 else 2)) ∧
        (findCmd t c.queue.toNat c.tag.toNat).map Cmd.stage = some .running ∧ noReply s t) ∧
    (resolveAt k id (beadNow s) = none → completes (.readItem c) s fun t => answered (refOf 0x03 c) 0x0207 0 [] t ∧ t.search = s.search))

/-- A trained link enters IDENT, sends its nonce and the IDENT message it can form, and one that fails training goes DOWN. A
link whose IDENT passes every check of R298 becomes ACTIVE at the next edge; one whose IDENT fails a check enters MISMATCH
with the cause of the first check failed, or goes DOWN where the reaction of MISMATCH fences it. Links that never train are set
DOWN by the timeout; a link goes DOWN without its replay buffer and reports itself as failed, and the timer trains it again.
In any other state of the link each does nothing (R296 to R299, R303). The checks of certificates and signatures are
uninterpreted (log entry 4). -/
def Obligations.LinkBringUp : Prop :=
  (∀ (s : State) (l : Nat), s.power.phase = .up → l < 12 → s.fabric.links.length = 12 →
    (∀ peer : BitVec 128,
      ((getLink s l).state = linkTraining →
        (completes (.linkTrainingComplete l (some peer)) s fun t => (getLink t l).state = linkIdent ∧
          .linkNonce l (getLink t l).nonce ∈ t.out ∧ (∀ m, ownIdent s l peer = some m → .identMsg l m ∈ t.out) ∧
          ∀ k, k ≠ l → getLink t k = getLink s k) ∧
        (completes (.linkTrainingComplete l none) s fun t => (getLink t l).state = linkIsDown)) ∧
      ((getLink s l).state ≠ linkTraining → ∀ end_, exec (.linkTrainingComplete l end_) s = .next s)) ∧
    (∀ m : IdentMsg,
      ((getLink s l).state = linkIdent → (getLink s l).activate = false → s.collectors.length = 73 →
        let acts := (actionsOf s 72 12).1
        let fences := (getCol s 72).pins.getLsbD 12 = false ∧ (getCol s 72).status.getLsbD 12 = false ∧
          hasAct acts actModuleReset = false ∧ (hasAct acts actFence = true ∨ hasAct acts actBlockReset = true)
        completes (.ident l m) s fun t =>
          (identCause s l m = 0 → (getLink t l).state = linkIdent ∧ (getLink t l).activate = true ∧ (getLink t l).farAddr = m.addr) ∧
          (identCause s l m ≠ 0 → ((getCol s 72).pins.getLsbD 12 = false → (getCol t 72).status.getLsbD 12 = true) ∧
            (fences → (getLink t l).state = linkIsDown) ∧
            (¬ fences → (getLink t l).state = linkMismatch ∧ (getLink t l).cause = identCause s l m))) ∧
      ((getLink s l).state ≠ linkIdent ∨ (getLink s l).activate = true → exec (.ident l m) s = .next s)) ∧
    ((getLink s l).state = linkIdent → (getLink s l).activate = true →
      (getLink (activateLinks s) l).state = linkActive ∧ (getLink (activateLinks s) l).activate = false) ∧
    ((getLink s l).state ∈ [linkTraining, linkIdent, linkActive] → s.collectors.length = 73 →
      completes (.linkDown l) s fun t => (getLink t l).state = linkIsDown ∧ (getLink t l).replay = [] ∧
        (getCol t 72).status.getLsbD 11 = true ∧ knownFault t (.link s.fabric.addr l) = true ∧
        ∀ k, k ≠ l → (getLink t k).state = (getLink s k).state) ∧
    ((getLink s l).state ∉ [linkTraining, linkIdent, linkActive] → exec (.linkDown l) s = .next s) ∧
    ((getLink s l).state = linkIsDown → linkEnabled s l = true → (getLink s l).stay = false →
      completes (.linkRetrainTimer l) s fun t => (getLink t l).state = linkTraining ∧ ∀ k, k ≠ l → getLink t k = getLink s k) ∧
    ((getLink s l).state ≠ linkIsDown ∨ linkEnabled s l = false ∨ (getLink s l).stay = true →
      exec (.linkRetrainTimer l) s = .next s)) ∧
  (∀ s : State, s.power.phase = .up →
    (s.loader.discovering = true → s.fabric.links.length = 12 → completes .discoveryTimeout s fun t => ∀ l, l < 12 →
      (getLink t l).state = if (getLink s l).state = linkTraining then linkIsDown else (getLink s l).state) ∧
    (s.loader.discovering = false → exec .discoveryTimeout s = .next s))

/-- CREDIT frees what it acknowledges, returns credit up to the receive buffer's size and lets waiting flits go until none of
them may; RETRY replays from the flit it names, in order, and the sixteenth replay of one flit takes the link down; a bad flit
asks once for the expected number and counts where its codeword was uncorrectable. On a link that is not ACTIVE, or for a
number that is not in the replay buffer, nothing is replayed (R294, R295). -/
def Obligations.FlitsAreReplayed : Prop :=
  ∀ (s : State) (l : Nat), s.power.phase = .up → l < 12 → s.fabric.links.length = 12 →
    let k := getLink s l
    (∀ (a : BitVec 16) (cls buf : BitVec 2) (n : BitVec 12) (u : Bool), k.state ≠ linkActive →
      exec (.credit l a cls buf n) s = .next s ∧ exec (.retry l a) s = .next s ∧ exec (.flitError l u) s = .next s) ∧
    (k.state = linkActive →
      (∀ (a : BitVec 16) (left : List Flit) (cls buf : BitVec 2) (n : BitVec 12), k.credit.length = 9 →
        (∃ (pre : List Flit) (f : Flit), k.replay = pre ++ f :: left ∧ f.seq = a ∧ ∀ g ∈ pre, g.seq ≠ a) ∨
          (left = k.replay ∧ ∀ g ∈ k.replay, g.seq ≠ a) →
        let ix := creditIx cls.toNat buf.toNat
        let c := min (Link.reset.credit.getD ix 0) (k.credit.getD ix 0 + n.toNat)
        (completes (.credit l a cls buf n) s fun t => nextFlit (getLink t l) = none ∧
          ∃ gone : List Flit, (getLink t l).replay = left ++ gone ∧ gone.length + (getLink t l).waitq.length = k.waitq.length ∧
            t.out = (gone.map fun g => Out.flit l g.seq g.cls g.buf).reverse ++ s.out) ∧
        (k.waitq = [] → completes (.credit l a cls buf n) s fun t => (getLink t l).replay = left ∧ t.out = s.out ∧
          (cls.toNat < 3 → buf.toNat < 3 → (getLink t l).credit.getD ix 0 = c ∧
            ∀ j, j ≠ ix → (getLink t l).credit.getD j 0 = k.credit.getD j 0) ∧
          (cls.toNat = 3 ∨ buf.toNat = 3 → (getLink t l).credit = k.credit)) ∧
        (∀ w : Flit, k.waitq = [w] → w.cls = cls.toNat → w.buf = buf.toNat → cls.toNat < 3 → buf.toNat < 3 → 0 < n.toNat →
          left.length < maxReplay → completes (.credit l a cls buf n) s fun t => t.out = .flit l k.txSeq w.cls w.buf :: s.out ∧
            (getLink t l).replay = left ++ [{ w with seq := k.txSeq }] ∧ (getLink t l).credit.getD ix 0 = c - 1 ∧
            (getLink t l).txSeq = k.txSeq + 1 ∧ (getLink t l).waitq = [])) ∧
      (∀ (pre post : List Flit) (f : Flit), k.replay = pre ++ f :: post → (∀ g ∈ pre, g.seq ≠ f.seq) →
        let n := if pre = [] then k.retries + 1 else 1
        (n < maxRetries → completes (.retry l f.seq) s fun t => (getLink t l).replay = f :: post ∧ (getLink t l).retries = n ∧
          (getLink t l).state = linkActive ∧ ∃ es, t.out = ((f :: post).map fun g => Out.flit l g.seq g.cls g.buf).reverse ++ es) ∧
        (maxRetries ≤ n → completes (.retry l f.seq) s fun t => (getLink t l).state = linkIsDown)) ∧
      (∀ a : BitVec 16, (∀ g ∈ k.replay, g.seq ≠ a) → exec (.retry l a) s = .next s) ∧
      (∀ u : Bool, let s1 := if u then bump s (fecUncorrCnt l) else s
        (k.awaitRetry = false → exec (.flitError l u) s =
          .next (emit (updLink s1 l fun k => { k with awaitRetry := true }) (.retryFlit l k.rxSeq))) ∧
        (k.awaitRetry = true → exec (.flitError l u) s = .next s1)))

/-- A notice acts once: it is held for its effective bead and applied when that begins, or at once and counted when it has
begun; one seen before changes nothing, and a fault that finds the set full is not applied. A message for another module is
sent on by the routing rule, one for an endpoint that is not assigned is dropped and counted, and a query message waits for
fabric time and for a bead that has not begun here (R103, R104, R292, R301, R303, R304). On a link that is not ACTIVE nothing
arrives. -/
def Obligations.NoticesAndRouting : Prop :=
  (∀ (s : State) (l : Nat) (n : Notice), s.power.phase = .up →
    (∀ (repair : Bool) (i : Instr), (i, repair) ∈ [(.faultNotice l n, false), (.repairNotice l n, true)] →
      ((getLink s l).state ≠ linkActive → exec i s = .next s) ∧
      ((getLink s l).state = linkActive →
        (s.fabric.seen.contains (n.origin, n.num, repair) = true → completes i s fun t => t.fabric.faults = s.fabric.faults ∧
          t.fabric.notices = s.fabric.notices ∧ t.out = s.out ∧ t.counters = s.counters) ∧
        (s.fabric.seen.contains (n.origin, n.num, repair) = false → beadNow s < n.effBead →
          completes i s fun t => t.fabric.faults = s.fabric.faults ∧ t.fabric.notices = s.fabric.notices ++ [⟨n, repair⟩] ∧
            t.fabric.seen.contains (n.origin, n.num, repair) = true))) ∧
    ((getLink s l).state = linkActive → n.effBead ≤ beadNow s →
      (s.fabric.seen.contains (n.origin, n.num, false) = false → s.fabric.faults.contains n.elem = false →
        (s.fabric.faults.length < maxFaults → completes (.faultNotice l n) s fun t => t.fabric.faults = s.fabric.faults ++ [n.elem] ∧
          t.counters = (bump s lateNoticeCnt).counters) ∧
        (maxFaults ≤ s.fabric.faults.length → completes (.faultNotice l n) s fun t => t.fabric.faults = s.fabric.faults)) ∧
      (s.fabric.seen.contains (n.origin, n.num, true) = false →
        completes (.repairNotice l n) s fun t => t.fabric.faults = s.fabric.faults.filter (· != n.elem) ∧
          t.counters = (bump s lateNoticeCnt).counters))) ∧
  (∀ (s : State) (b : Nat), (applyDue s b).fabric.notices = s.fabric.notices.filter (fun h => b < h.n.effBead) ∧
    ∀ (n : Notice) (repair : Bool), s.fabric.notices = [⟨n, repair⟩] → n.effBead ≤ b →
      (repair = true → (applyDue s b).fabric.faults = s.fabric.faults.filter (· != n.elem)) ∧
      (repair = false → s.fabric.faults.contains n.elem = false → s.fabric.faults.length < maxFaults →
        (applyDue s b).fabric.faults = s.fabric.faults ++ [n.elem])) ∧
  (∀ (s : State) (l : Nat) (h : MsgHdr) (i : Instr) (b : MsgBody), s.power.phase = .up →
    ((∃ bs, i = .mgmtAccess l h bs ∧ b = .mgmt bs) ∨ (∃ r c, i = .query l h r c ∧ b = .query r c) ∨
      (i = .bundleEnd l h ∧ b = .bundleEnd) ∨ (i = .bundleAck l h ∧ b = .bundleAck) ∨ (i = .bundleDrop l h ∧ b = .bundleDrop) ∨
      (∃ m, i = .list l h m ∧ b = .list m) ∨ (∃ m, i = .gatherReq l h m ∧ b = .gatherReq m) ∨
      (∃ m, i = .gatherRows l h m ∧ b = .gatherRows m)) →
    ((getLink s l).state ≠ linkActive → exec i s = .next s) ∧
    ((getLink s l).state = linkActive →
      (h.dest.setWidth 20 ≠ s.fabric.addr → exec i s = .next (nextHop (flitsIn s l b) h b)) ∧
      (∀ ep, ep < 16 → h.dest = BitVec.ofNat 24 (ep * 2 ^ 20 + s.fabric.addr.toNat) →
        (5 ≤ ep → ep ≤ 14 → exec i s = .next (bump (flitsIn s l b) routeDropCnt)) ∧
        (ep ≠ endpointOf b → ep < 5 ∨ ep = 15 → exec i s = .next (flitsIn s l b)) ∧
        (ep = endpointOf b → beadNow s < h.bead ∨ s.time.held = false → (∀ bs, b ≠ .mgmt bs) →
          completes i s fun t => t.fabric.early = s.fabric.early ++ [(h, b)] ∧ t.search = s.search ∧ t.out = s.out))))

/-- What the endpoints do with a message whose bead has begun. A management access reaches the inbox. A query joins once,
with the bead of its bundle as its snapshot; one that a lower power state holds waits, and one whose collection is not
attached here runs nowhere here. The end of a bundle is acknowledged to the parent and closes it, an acknowledgement takes the
child off it, and a dropped one is noted. A child's list is kept, with the bead in which it was sent, until this stage merges,
and one that comes later changes no query; a request for rows is answered with the rows that could be read, and rows reach the
query that asked for them (R307 to R311, R313). -/
def Obligations.MessagesHere : Prop :=
  ∀ (s : State) (l : Nat) (h : MsgHdr) (ep : Nat), s.power.phase = .up → (getLink s l).state = linkActive → ep < 16 →
    h.dest = BitVec.ofNat 24 (ep * 2 ^ 20 + s.fabric.addr.toNat) →
    (∀ bs, ep = 0 → completes (.mgmtAccess l h bs) s fun t => t.fabric.inbox = s.fabric.inbox ++ [bs]) ∧
    (h.bead ≤ beadNow s → s.time.held = true →
      (∀ (range : Bool) (c : Capsule), ep = 1 →
        (s.fabric.bundles.any (sameQuery h) = true → exec (.query l h range c) s = .next (flitsIn s l (.query range c))) ∧
        (s.fabric.bundles.any (sameQuery h) = false →
          (decidesNow s = false → completes (.query l h range c) s fun t =>
            t.fabric.asleep = s.fabric.asleep ++ [(h, range, c, beadNow s)] ∧ t.search = s.search) ∧
          (decidesNow s = true → (∀ k, getColl s c.coll.toNat = some k → k.attached = false ∨ k.att.tree % 4096 ≠ h.tree.toNat) →
            completes (.query l h range c) s fun t => t.search = s.search) ∧
          (∀ (k : Coll) (b : QueryBody), getColl s c.coll.toNat = some k → k.attached = true → k.att.tree % 4096 = h.tree.toNat →
            admitStatus s = 0 → decidesNow s = true → pipelineClosed s k.att.pipeline = false → parseQuery k c = .ok b →
            let q := buildQuery s k ⟨if range then 2 else 1, 0, 0, 0, c.coll.toNat, c.flags, c.cookie⟩ false (beadNow s) h.bundle c.deadline.toNat
              h.qroot h.qserial (queryParams range (groupProbe s k.att.pipeline) c (emptyQuery b)) b
            (reserveBad s k q = none → completes (.query l h range c) s fun t => t.search.queries = s.search.queries ++ [q] ∧
              q.snap = h.bundle ∧ q.root = h.qroot ∧ q.serial = h.qserial ∧ q.local_ = false) ∧
            (reserveBad s k q ≠ none → completes (.query l h range c) s fun t => t.search = s.search)))) ∧
      (ep = 1 → completes (.bundleEnd l h) s fun t => (treeBy s h.tree.toNat).isSome = true →
        ∀ b ∈ t.fabric.bundles, isBundle h b = true → b.closed = true) ∧
      (ep = 1 → treeBy s h.tree.toNat = none → exec (.bundleEnd l h) s = .next (flitsIn s l .bundleEnd)) ∧
      (∀ r : TreeRec, ep = 1 → treeBy s h.tree.toNat = some r → s.fabric.bundles = [] →
        let ms := membersFrom s r h.qroot h.bundle
        let parent := addrAt ms (parentOf r.fan (posOf ms s.fabric.addr))
        let s1 := flitsIn s l .bundleEnd
        exec (.bundleEnd l h) s = .next (nextHop s1 { queryHdr s1 parent 1 1 h.qroot 0 r.id with bundle := h.bundle } .bundleAck)) ∧
      (ep = 1 → completes (.bundleAck l h) s fun t => t.fabric.bundles = s.fabric.bundles.map fun b =>
        if isBundle h b then { b with unacked := b.unacked.filter (· != hdrSrc h) } else b) ∧
      (ep = 1 → completes (.bundleDrop l h) s fun t => t.fabric.dropped = s.fabric.dropped ++ [(h.bundle, h.qroot)]) ∧
      (∀ b : ListBody, ep = 2 →
        (∀ q ∈ s.search.queries, listFor h q = true → q.pastMerge = false → (∀ x ∈ q.lists, x.1 ≠ hdrSrc h) →
          completes (.list l h b) s fun t => { q with lists := q.lists ++ [(hdrSrc h, h.bead, b)] } ∈ t.search.queries) ∧
        ((∀ q ∈ s.search.queries, listFor h q = false ∨ q.pastMerge = true ∨ ∃ x ∈ q.lists, x.1 = hdrSrc h) →
          completes (.list l h b) s fun t => t.search.queries = s.search.queries)) ∧
      (∀ slots : List Nat, ep = 3 →
        let r := slots.foldl readRow (flitsIn s l (.gatherReq slots), [])
        exec (.gatherReq l h slots) s = .next
          (nextHop r.1 { queryHdr r.1 (hdrSrc h) 3 3 h.qroot h.qserial 0 with tree := h.tree } (.gatherRows r.2))) ∧
      (∀ rows : List (Nat × List Byte), ep = 3 →
        let asks (q : Query) : Prop := q.local_ = true ∧ q.stage = .gathering ∧ q.serial = h.qserial ∧ h.qroot = s.fabric.addr
        (∀ q ∈ s.search.queries, asks q →
          completes (.gatherRows l h rows) s fun t => ∃ p ∈ t.search.queries, p.qid = q.qid ∧
            p.rows = q.rows ++ (rows.filter fun r => q.toGather.contains (r.1, hdrSrc h)).map (fun r => (r.1, hdrSrc h, r.2)) ∧
            p.toGather = q.toGather.filter (fun x => !(x.2 == hdrSrc h && rows.any fun r => r.1 == x.1)) ∧
            p.stage = if p.toGather = [] then .done else .gathering) ∧
        ((∀ q ∈ s.search.queries, ¬ asks q) → completes (.gatherRows l h rows) s fun t => t.search = s.search)))

/-- A part before the last is staged and answered; the last is verified in the order of R329 and R369, refused with the
first check that fails, or takes effect: its version and digest are held, measurement register 1 is extended, and a second
load is refused until the next power-up. An image that is too long and a part that does not follow on are refused, and what
was staged is discarded (R278, R280, R369, R370). Digests and signatures are uninterpreted (log entry 4); the outcome of the
training and the tests that follow is free (log entry 23). -/
def Obligations.FirmwareLoads : Prop :=
  ∀ (c : Capsule) (s : State), submits 0x89 c s →
    let dropped (st : BitVec 16) : Prop := completes (.firmwareLoad c) s fun t => answered (refOf 0x89 c) st 0 [] t ∧
      t.locket = s.locket ∧ t.queues.objects = s.queues.objects.filter fun o => !o.openIn c.queue.toNat 0x89
    (s.loader.firmware = true → dropped 0x021C) ∧
    (s.loader.firmware = false → 2 ^ 24 < areaField c.area 32 8 → dropped 0x0108) ∧
    (s.loader.firmware = false → areaField c.area 32 8 ≤ 2 ^ 24 → takePart (queued 0x89 c s) (arrival 0x89 c s) 0 = none → dropped 0x0117) ∧
    (∀ o : OpenObj, s.loader.firmware = false → areaField c.area 32 8 ≤ 2 ^ 24 →
      takePart (queued 0x89 c s) (arrival 0x89 c s) 0 = some o →
      (isFinal c.flags = false → completes (.firmwareLoad c) s fun t => answered (refOf 0x89 c) 0 0 [] t ∧
        o ∈ t.queues.objects ∧ t.loader.staging = s.loader.staging + c.body.length) ∧
      (isFinal c.flags = true →
        (parseFirmware o.bytes = none → completes (.firmwareLoad c) s fun t =>
          answered (refOf 0x89 c) 0x0108 0 [] t ∧ t.loader.firmware = false) ∧
        (∀ (slot : Nat) (v : BitVec 32), parseFirmware o.bytes = some (slot, v) →
          let st := signatureStatus s slot (sliceB o.bytes 64 64) o.bytes
          (st ≠ 0 → completes (.firmwareLoad c) s fun t => answered (refOf 0x89 c) st 0 [] t ∧ t.loader.firmware = false) ∧
          (st = 0 → completes (.firmwareLoad c) s fun t => t.loader.firmware = true ∧ t.loader.fwVersion = v ∧
            t.loader.fwDigest = Config.sm3 o.bytes ∧ findCmd t c.queue.toNat c.tag.toNat = none ∧
            t.locket.meas = (extendMeas s 1 (Config.sm3 o.bytes)).locket.meas))))

/-- A part before the last is staged and answered; the last part of a setting is checked in the order of R329. A full setting
that passes replaces the one in force, a partial one waits for its edge, and one that fails has no effect. A setting that is
too long and a part that does not follow on are refused, and what was staged is discarded (R278, R280, R329, R330, R333).
Digests and signatures are uninterpreted (log entry 4); the outcome of the tests is free (log entry 23). -/
def Obligations.SettingLoads : Prop :=
  (∀ (c : Capsule) (s : State) (st : BitVec 16), submits 0x88 c s →
    (2 ^ 26 < areaField c.area 32 8 ∧ st = 0x0108) ∨ (areaField c.area 32 8 ≤ 2 ^ 26 ∧ st = 0x0117 ∧
      takePart (queued 0x88 c s) (arrival 0x88 c s) (areaField c.area 40 2) = none) →
    completes (.settingLoad c) s fun t => answered (refOf 0x88 c) st 0 [] t ∧ t.loader.setting = s.loader.setting ∧
      t.queues.objects = s.queues.objects.filter fun o => !o.openIn c.queue.toNat 0x88) ∧
  ∀ (c : Capsule) (s : State) (o : OpenObj), submits 0x88 c s → areaField c.area 32 8 ≤ 2 ^ 26 →
    let s1 := queued 0x88 c s
    let group := areaField c.area 40 2
    takePart s1 (arrival 0x88 c s) group = some o →
    (isFinal c.flags = false → completes (.settingLoad c) s fun t => answered (refOf 0x88 c) 0 0 [] t ∧
      o ∈ t.queues.objects ∧ t.loader.setting = s.loader.setting) ∧
    (isFinal c.flags = true →
      let refused (st : BitVec 16) : Prop := completes (.settingLoad c) s fun t => answered (refOf 0x88 c) st 0 [] t ∧
        t.loader.setting = s.loader.setting ∧ t.loader.digest = s.loader.digest ∧ t.locket.meas = s.locket.meas
      (parseHead o.bytes = none → refused 0x0108) ∧
      (∀ h : SettingHead, parseHead o.bytes = some h →
        (signatureStatus s h.slot h.key o.bytes ≠ 0 → refused (signatureStatus s h.slot h.key o.bytes)) ∧
        (h.group ≠ group → signatureStatus s h.slot h.key o.bytes = 0 → refused 0x0108) ∧
        (h.group = group → signatureStatus s h.slot h.key o.bytes = 0 →
          (presenceOk h = false → refused 0x0108) ∧
          (presenceOk h = true → h.kind = 0 →
            let p := parseSetting s.locket.copy.maxFabricLog2.toNat h
            (p = none → refused 0x0108) ∧
            (∀ t0 : Setting, p = some t0 →
              (settingBusy s1 = true → refused 0x021B) ∧
              (settingBusy s1 = false → completes (.settingLoad c) s fun t => t.loader.setting = some t0 ∧
                t.loader.digest = Config.sm3 o.bytes ∧ t.loader.partialCnt = 0 ∧ t.loader.groups = t0.grouping.groups ∧
                t.fabric.addr = t0.fabric.addr ∧ t.time.periodUs = t0.periodUs ∧ t.time.started = true ∧
                findCmd t c.queue.toNat c.tag.toNat = none ∧
                t.locket.meas = (extendMeas s 2 (Config.sm3 o.bytes)).locket.meas))) ∧
          (presenceOk h = true → h.kind ≠ 0 →
            let g := parseGrouping ((sectionOf h 1).getD [])
            (g = none → refused 0x0108) ∧
            (∀ g0 : FacetGrouping, g = some g0 →
              (partialOk s1 h g0 = none → refused 0x0108) ∧
              (∀ n : GroupRec, partialOk s1 h g0 = some n → completes (.settingLoad c) s fun t =>
                t.loader.part = some ⟨refOf 0x88 c, n, g0.map, Config.sm3 o.bytes, .waitEdge, beadNow s + 1⟩ ∧
                t.loader.setting = s.loader.setting ∧ t.loader.map = s.loader.map ∧
                (findCmd t c.queue.toNat c.tag.toNat).map Cmd.stage = some .running))))))

/-- The fence of a partial setting waits for the queries of its pipeline; then the group is fenced, its new record and the map
are loaded, and newly mapped facets stand fenced behind their test. The release takes effect at the edge: the facets are
released, the load is counted, the digest of the full setting stays, register 3 is extended, and the command is answered
(R23, R333, R334). -/
def Obligations.PartialSteps : Prop :=
  (∀ s : State, (∀ p, s.loader.part = some p → p.step ≠ .drain) → exec .partialSettingFence s = .next s) ∧
  (∀ s : State, (∀ p, s.loader.part = some p → p.step ≠ .fenced) → exec .partialSettingRelease s = .next s) ∧
  ∀ (s : State) (p : PartialRun), s.power.phase = .up → s.loader.part = some p →
    (p.step = .drain →
      (pipelineBusy s p.group.id = true → exec .partialSettingFence s = .next s) ∧
      (pipelineBusy s p.group.id = false → s.facets.length = 68 → completes .partialSettingFence s fun t =>
        t.loader.part = some { p with step := .fenced } ∧
        (∀ l, t.loader.map.getD l 0xFF = p.map.getD l 0xFF ∨ t.loader.map.getD l 0xFF = 0xFF ∧ p.map.getD l 0xFF % 17 = 16) ∧
        t.loader.groups = s.loader.groups.map (fun g => if g.id = p.group.id then p.group else g) ∧
        (∀ l ∈ facetsOf s p.group.id, physOf s l < 68 → (getFacet t (physOf s l)).fenced = true) ∧
        (groupOf s p.group.id ≠ none → ∀ l, l < 64 → hasQuad p.group (quadOf l) = true → p.map.getD l 0xFF < 68 →
          (getFacet t (p.map.getD l 0xFF)).fenced = true))) ∧
    (p.step = .fenced → exec .partialSettingRelease s =
      .next { s with loader := { s.loader with part := some { p with step := .loaded } } }) ∧
    (p.step = .loaded →
      let t := partialRelease s
      t.loader.part = none ∧ t.loader.partialCnt = s.loader.partialCnt + 1 ∧ t.loader.digest = s.loader.digest ∧
      t.loader.map = s.loader.map ∧ t.loader.groups = s.loader.groups ∧
      t.facets = s.facets.map (fun x => if x.fenced = true ∧ x.reason = 5 then { x with fenced := false, reason := 0 } else x) ∧
      t.locket.meas = (extendMeas s 3 p.digest).locket.meas ∧ findCmd t p.ref.queue p.ref.tag = none ∧
      ∀ m : Cmd, findCmd s p.ref.queue p.ref.tag = some m → m.ref = p.ref → s.live p.ref.conn →
        answered p.ref 0 (loadArea 3 p.digest) [] t)

/-- A drain programs its mapping unit at the new place and marks its records; the map entry switches in one journal record with
those of every other unit that its records touch, at once where they touch no other, and not before the others are programmed.
A relocation that completes switches the map entry to the new copy and erases a collected block that it leaves empty. Neither
moves another unit, and both wait behind the query reads of the channel and for a place that may be programmed (R199, R202,
R203, R208, R211, R213). -/
def Obligations.UnitsAreProgrammed : Prop :=
  (∀ (s : State) (coll page chan block : Nat),
    (pendingRecs s coll page = [] ∨ channelFree s chan = false ∨ mayProgram s coll page chan block false = false →
      exec (.unitDrain coll page chan block) s = .next s) ∧
    (s.power.phase = .up ∨ s.power.flushing = true → pendingRecs s coll page ≠ [] → channelFree s chan = true →
      mayProgram s coll page chan block false = true → completes (.unitDrain coll page chan block) s fun t =>
        (∀ r ∈ t.flash.wbuf, r.coll = coll → page ∈ r.pages → page ∈ r.drained) ∧
        (∀ c p, (c, p) ≠ (coll, page) → findUnit t c p = findUnit s c p ∨ ∃ v ∈ s.flash.fresh, v.coll = c ∧ v.page = p ∧ findUnit t c p = some v) ∧
        (s.flash.fresh = [] → (∀ r ∈ s.flash.wbuf, r.coll = coll → page ∈ r.pages ∨ page ∈ r.drained → r.pages = [page]) →
          findUnit t coll page = some (newUnit s coll page chan block) ∧ t.flash.fresh = [] ∧
          t.flash.journal = s.flash.journal ++ [[(coll, page, chan, block)]] ∧
          ∀ r ∈ t.flash.wbuf, r.coll = coll → page ∉ r.pages) ∧
        ((∃ r ∈ s.flash.wbuf, r.coll = coll ∧ page ∈ r.pages ∧ ∃ p ∈ r.pages, p ≠ page ∧ ∀ v ∈ s.flash.fresh, v.coll = coll → v.page ≠ p) →
          findUnit t coll page = findUnit s coll page ∧ newUnit s coll page chan block ∈ t.flash.fresh))) ∧
  (∀ (s : State) (i chan block : Nat) (u : Unit64), s.flash.units[i]? = some u →
    let may := mayMove s u && !relocPaused s u.chan && !relocPaused s chan && channelFree s u.chan && channelFree s chan &&
      mayProgram s u.coll u.page chan block u.worn
    (may = false → exec (.relocationComplete i chan block) s = .next s) ∧
    (s.power.phase = .up → may = true → completes (.relocationComplete i chan block) s fun t =>
      findUnit t u.coll u.page = some (newUnit s u.coll u.page chan block) ∧
      t.flash.journal = s.flash.journal ++ [[(u.coll, u.page, chan, block)]] ∧
      (∀ c p, (c, p) ≠ (u.coll, u.page) → findUnit t c p = findUnit s c p) ∧
      ((u.chan, u.block) ≠ (chan, block) → ∀ b, findBlock s u.chan u.block = some b → b.collecting = true →
        (∀ x ∈ s.flash.units, x.chan = u.chan → x.block = u.block → (x.coll, x.page) = (u.coll, u.page)) →
        (findBlock t u.chan u.block).map (fun b => (b.erase, b.full)) = some (b.erase + 1, false))))

/-- Wear levelling moves the units of the least worn block when the erase counts spread by more than 500, read disturb moves
those of a block at its limit, the scrub moves the weak units it names and counts its reads, and free-block collection takes
the block with the fewest valid units. None of them runs on a channel that serves no programs, is paused or has a query read
waiting (R202, R203, R208). -/
def Obligations.BackgroundWork : Prop :=
  (∀ (s : State) (c n : Nat) (weak : List Nat), background s c = false →
    ∀ i ∈ [.wearLevelling c, .readDisturbRefresh c n, .retentionScrub c n weak, .freeBlockCollection c], exec i s = .next s) ∧
  (∀ (f : Block → Nat) (bs : List Block), bs ≠ [] → ∃ b ∈ bs, leastBlock f bs = some b ∧
    ∀ x ∈ bs, f b < f x ∨ (f b = f x ∧ b.num ≤ x.num)) ∧
  ∀ (s : State) (c : Nat), background s c = true →
    let moved (n : Nat) (wear : Bool) (u : Unit64) : Unit64 :=
      if u.chan = c ∧ u.block = n ∧ u.moving = false then { u with moving := true, worn := wear } else u
    (∀ x ∈ s.flash.blocks, ∀ y ∈ s.flash.blocks, x.chan = c → y.chan = c → x.erase + 500 < y.erase → ∀ b : Block,
      leastBlock Block.erase ((usedBlocks s c).filter fun b => 0 < validUnits s c b.num) = some b →
      completes (.wearLevelling c) s fun t => t.flash.units = s.flash.units.map (moved b.num true) ∧ t.flash.blocks = s.flash.blocks) ∧
    ((∀ x ∈ s.flash.blocks, ∀ y ∈ s.flash.blocks, x.chan = c → y.chan = c → y.erase ≤ x.erase + 500) →
      exec (.wearLevelling c) s = .next s) ∧
    (∀ (n : Nat) (b : Block), findBlock s c n = some b → b.full = true →
      (disturbLimit s ≤ b.reads → completes (.readDisturbRefresh c n) s fun t => t.flash.units = s.flash.units.map (moved n false)) ∧
      (b.reads < disturbLimit s → exec (.readDisturbRefresh c n) s = .next s) ∧
      (∀ weak : List Nat, completes (.retentionScrub c n weak) s fun t =>
        findBlock t c n = some { b with seen := true, reads := b.reads + validUnits s c n } ∧
        (∀ i ∈ weak, ∀ u, s.flash.units[i]? = some u → u.chan = c → u.block = n → (t.flash.units[i]?).map Unit64.moving = some true) ∧
        (∀ u ∈ s.flash.units, u.chan ≠ c ∨ u.block ≠ n → u ∈ t.flash.units) ∧
        t.flash.chans = s.flash.chans)) ∧
    (∀ (n : Nat) (weak : List Nat), (∀ b, findBlock s c n = some b → b.full = false) →
      exec (.readDisturbRefresh c n) s = .next s ∧ exec (.retentionScrub c n weak) s = .next s) ∧
    (usedBlocks s c = [] → exec (.freeBlockCollection c) s = .next s) ∧
    (∀ b : Block, leastBlock (fun b => validUnits s c b.num) (usedBlocks s c) = some b → findBlock s c b.num = some b →
      (validUnits s c b.num = 0 → completes (.freeBlockCollection c) s fun t =>
        findBlock t c b.num = some { b with erase := b.erase + 1, reads := 0, full := false, collecting := false } ∧
        t.flash.units = s.flash.units) ∧
      (0 < validUnits s c b.num → completes (.freeBlockCollection c) s fun t =>
        findBlock t c b.num = some { b with collecting := true } ∧ t.flash.units = s.flash.units.map (moved b.num false)))

/-- The steps of a ladder are counted, of a bypassed channel the rebuild alone, and a stripe-class fragment has no rebuild. One
that recovers nothing marks the unit lost and raises FLASH_UNCORR, or marks its fragment bad while the others still serve the
page. A ladder of a unit that is lost, or of a channel that holds nothing of it, is none (R205, R206, R208). -/
def Obligations.RecoveryLadder : Prop :=
  ∀ (s : State) (c coll page : Nat) (u : Unit64) (r : LadderEnd), s.power.phase = .up → findUnit s coll page = some u →
    let stripe := stripePage s coll page
    let here : Prop := (stripe = false ∧ u.chan = c) ∨ (stripe = true ∧ c ∈ stripeGroup coll page ∧ bypassed s c = false ∧ c ∉ u.bad)
    (u.lost = true ∨ ¬ here → exec (.recoveryLadderEnd c coll page r) s = .next s) ∧
    (u.lost = false → here →
      (r.recovered = true →
        ((getFlashCh s c).state = 3 → exec (.recoveryLadderEnd c coll page r) s =
          .next (if r.rebuilt && !stripe then bump s (flashRebuildCnt c) else s)) ∧
        ((getFlashCh s c).state ≠ 3 →
          (r.retries < 8 ∨ r.soft = false → exec (.recoveryLadderEnd c coll page r) s = .next (bumpN s (flashRetryCnt c) (min 8 r.retries))) ∧
          (8 ≤ r.retries → r.soft = true →
            let s1 := bump (bumpN s (flashRetryCnt c) 8) (flashSoftCnt c)
            (r.rebuilt = false ∨ stripe = true → exec (.recoveryLadderEnd c coll page r) s = .next s1) ∧
            (r.rebuilt = true → stripe = false →
              exec (.recoveryLadderEnd c coll page r) s = .next (bump s1 (flashRebuildCnt c)))))) ∧
      (r.recovered = false → s.collectors.length = 73 →
        let u1 := { u with bad := (u.bad ++ [c]).eraseDups }
        let gone := (stripeGroup coll page).countP fun k => bypassed s k || u.thin == some k || u1.bad.contains k
        completes (.recoveryLadderEnd c coll page r) s fun t =>
          (stripe = false → findUnit t coll page = some { u with lost := true, moving := false } ∧ (getCol t 72).status.getLsbD 8 = true) ∧
          (stripe = true → gone < 2 → findUnit t coll page = some u1 ∧ (getCol t 72).status = (getCol s 72).status) ∧
          (stripe = true → 2 ≤ gone → findUnit t coll page = some { u1 with lost := true, moving := false } ∧
            (getCol t 72).status.getLsbD 8 = true) ∧
          ∀ c p, (c, p) ≠ (coll, page) → findUnit t c p = findUnit s c p))

/-- A micro-batch takes the first waiting pairs through the newest version; the one whose weight gradients are complete enters
the accumulator as a whole. The update that U of them launch steps the copy by what they accumulated and gives the version that
the next edge publishes; one that aborts publishes nothing and the accumulator is discarded. A run that is not active, or stops,
or whose work is held starts and updates nothing. At the edge that ends a drift window every count starts again, the values
written meanwhile take effect, and an activation group with nothing but zeros is flagged (R149, R150, R151, R152, R154, R155,
R157, R160, R162, R391). -/
def Obligations.LearningSteps : Prop :=
  (∀ (s : State) (id : Nat) (r : Run), s.power.phase = .up → findRun s id = some r →
    let works : Prop := r.active = true ∧ r.stopAtEdge = none ∧ learningRuns s r = true
    (¬ works → exec (.microBatchStart id) s = .next s ∧ ∀ a k, exec (.optimiserUpdate id a k) s = .next s) ∧
    (works → ∀ c : Coll, getColl s r.coll = some c → s.time.held = true → r.p.n ≤ r.pairs.length →
      completes (.microBatchStart id) s fun t => (∃ x m, findRun t id = some x ∧ x.pairs = r.pairs.drop r.p.n ∧
        x.mbs = r.mbs ++ [m] ∧ m.num = r.nextMb ∧ m.version = r.newest ∧ m.stage = .forward ∧ m.input.pairs = r.pairs.take r.p.n ∧
        m.input.enc = x.enc ∧ m.input.group < 2 ∧ x.nextMb = r.nextMb + 1 ∧ x.fresh = false ∧ x.lossVersion = r.newest ∧
        (r.fresh = false → x.enc = r.enc ∧ x.copy = r.copy)) ∧ ∃ k ∈ t.streams.tasks, k.kind = .microBatch id r.nextMb) ∧
    (r.pairs.length < r.p.n ∨ s.time.held = false → exec (.microBatchStart id) s = .next s) ∧
    (updateTask s id = false ∨ r.pending ≠ none → ∀ a k, exec (.optimiserUpdate id a k) s = .next s) ∧
    (works → r.pending = none → updateTask s id = true →
      (∀ sid, completes (.optimiserUpdate id false sid) s fun t =>
        (∃ x, findRun t id = some x ∧ x.accumulated = 0 ∧ x.acc = [] ∧ x.copy = r.copy ∧ x.enc = r.enc ∧ x.newest = r.newest ∧
          let stepped := (stepCopy r.p r.enc r.copy r.acc).1
          x.pending = some ⟨(quantise r.enc (stepped.map Trained.w)).enc, stepped⟩) ∧ ∀ k ∈ t.streams.tasks, k.kind ≠ .update id) ∧
      (∀ k : Task, s.streams.tasks.find? (fun k => k.kind == .update id && !k.aborted) = some k →
        ∀ sid : Nat, (∀ x : Stream, s.streams.streams.find? (fun x => x.tid == k.tid && x.sid == sid) = some x →
          exec (.optimiserUpdate id true sid) s = .next (streamSkew s x)) ∧
        (s.streams.streams.find? (fun x => x.tid == k.tid && x.sid == sid) = none →
          exec (.optimiserUpdate id true sid) s = .next (abortTask s k.tid)) ∧
        (getTask s k.tid = some k → completes (.optimiserUpdate id true sid) s fun t => ∃ x, findRun t id = some x ∧
          x.accumulated = 0 ∧ x.acc = [] ∧ x.pending = none ∧ x.copy = r.copy ∧ x.enc = r.enc ∧ x.newest = r.newest)))) ∧
  (∀ (s : State) (r : Run) (c : Coll) (m : MicroBatch), findRun s r.id = some r → m ∈ r.mbs → m.stage = .weightGrads →
    ∃ x, findRun (endStage s r c m) r.id = some x ∧ x.accumulated = r.accumulated + 1 ∧ (∀ y ∈ x.mbs, y.num ≠ m.num) ∧
      x.acc = accumulate r.acc (backward (lossCtx r c m.input) (gradLen s c) m.input.copyW m.input.pairs).tensors) ∧
  (∀ (s : State) (r : Run) (u : Update), findRun s r.id = some r → r.pending = some u →
    ∃ x, findRun (publishVersion s r) r.id = some x ∧ x.enc = u.enc ∧ x.copy = u.copy ∧ x.prevEnc = r.enc ∧ x.previous = r.newest ∧
      x.newest = (r.newest + 1) % 2 ^ 32 ∧ x.pending = none) ∧
  (∀ s : State, s.power.phase = .up → s.time.held = true →
    (beadNow s < s.learn.windowStart + s.learn.driftW → exec .driftWindowEnd s = .next s) ∧
    (s.learn.windowStart + s.learn.driftW ≤ beadNow s → completes .driftWindowEnd s fun t =>
      t.learn.windowStart = beadNow s ∧ t.learn.windows = s.learn.windows.map Window.restart ∧
      t.learn.driftW = s.learn.nextW.getD s.learn.driftW ∧ t.learn.driftD = s.learn.nextD.getD s.learn.driftD ∧
      t.learn.nextW = none ∧ t.learn.nextD = none ∧
      (∀ (w : Window) (c : Coll) (ep : Epoch), s.learn.windows = [w] → w.run = false → getColl s w.coll = some c →
        epochOf c w.epoch = some ep →
        ((getColl t w.coll).bind fun k => epochOf k w.epoch) = some { ep with enc := settleGroup ep.enc w } ∧
        (w.tensor % 16 = 1 → 0 < w.encoded → w.nonZero = false →
          (settleGroup ep.enc w).actOff.contains (w.tensor / 16 * 65536 + w.pos) = true) ∧
        (w.tensor % 16 = 1 → 0 < w.encoded → w.nonZero = true →
          (settleGroup ep.enc w).actOff.contains (w.tensor / 16 * 65536 + w.pos) = false))))

/-- A merge that has read its entries waits for the next edge with each of them re-encoded under its epoch, one that aborts
keeps nothing; a promotion has its signatures, the majority of each bucket that its sample reaches, or fails with
ENCODE_ABORTED where it aborts. Where nothing is built, or it is built already, neither does anything (R41, R43, R149, R164,
R165). -/
def Obligations.BuildsComplete : Prop :=
  (∀ (s : State) (id : Nat) (a : Bool) (ord : List Nat),
    ((∀ c, getColl s id = some c → c.attached = false ∨ ∀ m, c.merge = some m → m.built = true) →
      exec (.mergeBuildComplete id a ord) s = .next s) ∧
    ((∀ c, getColl s id = some c → newestEpoch c = none ∨ ∀ p, c.promo = some p → p.built = true) →
      exec (.signatureBuildComplete id a ord) s = .next s)) ∧
  (∀ (s : State) (id : Nat) (ord : List Nat) (c : Coll) (m : Merge), s.power.phase = .up → getColl s id = some c → c.attached = true →
    c.merge = some m → m.built = false →
    (completes (.mergeBuildComplete id true ord) s fun t => getColl t id = some (stopMerge c) ∧
      ∀ k ∈ t.streams.tasks, ¬ (k.kind = .merge ∧ k.coll = id)) ∧
    (∀ ep : Epoch, epochOf c m.epoch = some ep → completes (.mergeBuildComplete id false ord) s fun t =>
      let es := ((c.side.filter fun x => x.taken && x.merged.isNone).map SideEntry.ent)
        ++ ((c.segs.filter fun g => m.segs.contains g.num).map Segment.entries).flatten
      getColl t id = some { c with merge := some { m with built := true, items := es.map (mergeEntry c ep ord) } } ∧
      ∀ e, e.epoch = ep.num → mergeEntry c ep ord e = e)) ∧
  (∀ (s : State) (id : Nat) (ord : List Nat) (c : Coll) (p : Promotion) (old : Epoch), s.power.phase = .up →
    getColl s id = some c → c.promo = some p → newestEpoch c = some old → p.built = false →
    (∀ m : Cmd, findCmd s p.ref.queue p.ref.tag = some m → m.ref = p.ref → s.live p.ref.conn →
      completes (.signatureBuildComplete id true ord) s fun t => answered p.ref 0x0301 0 [] t ∧
        (getColl t id).map Coll.promo = some none) ∧
    (completes (.signatureBuildComplete id false ord) s fun t => ∃ sigs : List Nat,
      (getColl t id).map Coll.promo = some (some { p with enc := { p.enc with sigs := sigs }, built := true }) ∧
      (∀ b xs, b < c.params.buckets → xs ≠ [] →
        xs = ((sampleOf c old p.enc p.admission ((s.learn.runs.find? fun r => r.id == p.run).elim [] Run.pairs) ord).filter
          fun x => x.1 == b).map (fun x => x.2.2) →
        sigs[b]? = some (majority c.params.sketchBits xs))))

/-- R16: on the management port, port 2, a capsule for a queue above 15 is refused with WRONG_PORT before any other check of
R252, whatever its row, and holds no tag; a search or a write that names queues 0 to 15 there is refused too. -/
def Obligations.WrongPort : Prop :=
  (∀ (s : State) (c : Capsule), c.port = 2 → 15 < c.queue.toNat → headCheck s c = 0x0119 ∧ statusClass 0x0119 = 1) ∧
  (∀ (i : Instr) (op : BitVec 8) (c : Capsule) (s : State), s.power.phase = .up → s.live c.conn → c.port = 2 →
    (i, op) ∈ [(.search c, 0x01), (.searchRange c, 0x02), (.readItem c, 0x03), (.insert c, 0x10), (.delete c, 0x11), (.upsert c, 0x12),
      (.flush c, 0x13), (.filterPut c, 0x20), (.filterDrop c, 0x21), (.learnStart c, 0x30), (.learnStop c, 0x31),
      (.epochPromote c, 0x32), (.mergeHint c, 0x40)] →
    (15 < c.queue.toNat → completes i s fun t => .reply (refOf op c) 0x0119 0 [] ∈ t.out ∧ t.queues.cmds = s.queues.cmds ∧
      t.queues.queues = s.queues.queues ∧ t.colls = s.colls ∧ t.search = s.search) ∧
    (c.queue.toNat ≤ 15 → headCheck s c = 0 → bodyCheck s op c ∈ [0x0102, 0x0105])) ∧
  (∀ (i : Instr) (op : BitVec 8) (c : Capsule) (s : State), s.power.phase = .up → s.live c.conn → c.port = 2 → 15 < c.queue.toNat →
    (i, op) ∈ [(.identify c, 0x80), (.collectionCreate c, 0x81), (.collectionDelete c, 0x82), (.collectionAttach c, 0x83),
      (.collectionDetach c, 0x84), (.queueCreate c, 0x85), (.queueDelete c, 0x86), (.settingLoad c, 0x88), (.firmwareLoad c, 0x89),
      (.attest c, 0x8A), (.powerState c, 0x8B), (.keyLoad c, 0x8C), (.mgmtRead c, 0x8D), (.mgmtWrite c, 0x8E), (.eventArm c, 0x8F)] →
    completes i s fun t => .reply (refOf op c) 0x0119 0 [] ∈ t.out ∧ t.queues.cmds = s.queues.cmds)

/-- R411: a search that passes its checks of class 0x01 and whose reservations do not all fit is refused with the first
status of the order SCAN_BUDGET, RING_SPACE, SELECT_SPACE, CANDIDATE_SPACE, GATHER_SPACE, and nothing is reserved; a check
of class 0x01 that fails is answered whatever fits. -/
def Obligations.ReservationOrder : Prop :=
  ∀ (range : Bool) (op : BitVec 8) (i : Instr) (c : Capsule) (s : State) (k : Coll),
    (op, i, range) ∈ [(0x01, .search c, false), (0x02, .searchRange c, true)] → submits op c s → admitStatus s = 0 →
    getColl s c.coll.toNat = some k → k.attached = true →
    let refused (st : BitVec 16) : Prop := completes i s fun t => answered (refOf op c) st 0 [] t ∧ t.search = s.search ∧
      t.pools = s.pools ∧ t.colls = s.colls
    (∀ st, searchChecks s k range c = .error st → refused st) ∧
    (∀ b : QueryBody, searchChecks s k range c = .ok b →
      let s1 := queued op c s
      let q := buildQuery s1 k (refOf op c) true (beadNow s) (beadNow s) c.deadline.toNat s.fabric.addr s.search.serial
        (queryParams range (groupProbe s k.att.pipeline) c (emptyQuery b)) b
      let scan := creditFits k q
      let ring := ringFits s1 k.att.pipeline (ringPending s1 q)
      let sel := selectFits s1 k.att.pipeline (partitionOf q.p)
      let room := hbmScratchFree s1
      (scan = false → refused 0x0210) ∧
      (scan = true → ring = false → refused 0x0211) ∧
      (scan = true → ring = true → sel = false → refused 0x0212) ∧
      (scan = true → ring = true → sel = true → room < q.candBytes → refused 0x0213) ∧
      (scan = true → ring = true → sel = true → q.candBytes ≤ room → room < q.candBytes + q.gatherBytes → refused 0x0214))

/-- R385: the debug registers are the debug windows of the near memory and of each facet; while the debug lock is closed, a
MGMT_READ or MGMT_WRITE whose range takes in one of them is refused with ACCESS_DENIED and reaches no register; while it is
open, both reach it. -/
def Obligations.DebugRegisters : Prop :=
  (∀ a : Nat, isDebugReg a = true ↔ a = 0xB4100 ∨ a = 0xB4108 ∨ ∃ f, f < 68 ∧
    (a = (if f < 64 then 0x100000 + f * 0x4000 else 0x240000 + (f - 64) * 0x4000) + 0x2000 ∨
     a = (if f < 64 then 0x100000 + f * 0x4000 else 0x240000 + (f - 64) * 0x4000) + 0x2008)) ∧
  ∀ (i : Instr) (op : BitVec 8) (c : Capsule) (s : State), (i, op) ∈ [(.mgmtRead c, 0x8D), (.mgmtWrite c, 0x8E)] → submits op c s →
    c.body.length = (if op = 0x8E then 8 * areaField c.area 28 2 else 0) → s.loader.part = none →
    let m := arrival op c s
    let s1 := queued op c s
    let as := regAddrs m
    as ≠ [] → as.length ≤ 512 → (∀ a ∈ as, (readReg s1 c.queue.toNat a).isSome = true) → (∃ a ∈ as, isDebugReg a = true) →
    (debugLockOpen s = false → completes i s fun t => answered (refOf op c) 0x0407 0 [] t ∧ t.near = s.near ∧ t.facets = s.facets ∧
      t.facetRam = s.facetRam ∧ t.collectors = s.collectors) ∧
    (debugLockOpen s = true → rangeBad s1 m = none ∧
      (op = 0x8D → completes i s fun t => ∃ bs, answered (refOf op c) 0 0 bs t) ∧
      (∀ v, op = 0x8E → as = [0xB4100] → regValues m = [v] →
        completes i s fun t => answered (refOf op c) 0 0 [] t ∧ t.near.dbgAddr = BitVec.ofNat 36 v))

/-- R383: each of the four registers whose name ends in _SELECT is held for every administrative queue by itself. A write of
one in a queue is what that queue reads back, and no register reads otherwise in another queue. -/
def Obligations.SelectPerQueue : Prop :=
  ∀ (s : State) (q a v : Nat), q < 16 → a ∈ [0x70000, 0x90000, 0x210010, 0x210030] →
    readReg (writeReg s q a v) q a = some (v % 2 ^ (if a = 0x70000 then 15 else if a = 0x210030 then 53 else 12)) ∧
    ∀ p, p ≠ q → ∀ b, readReg (writeReg s q a v) p b = readReg s p b

/-- R368: no command moves the lifecycle fuses back in code order, a token may ask for any later code and for none other,
its burn gives that code unless the readback differs, and the lifecycle in force is the one that the locket read at its last
power-up, step 2, whatever is burned meanwhile. -/
def Obligations.LifecycleForward : Prop :=
  (∀ (i : Instr) (s t : State), exec i s = .next t → s.locket.fuses.lifecycle.toNat ≤ t.locket.fuses.lifecycle.toNat) ∧
  (∀ (s : State) (code slot : Nat), tokenPermitted s 2 code slot = true ↔
    code ∈ [0, 1, 3, 7] ∧ s.locket.fuses.lifecycle.toNat < code) ∧
  (∀ s : State, s.power.phase = .up → s.locket.lifecycle ≠ 7 → s.locket.fuses.lifecycle ∈ [0, 1, 3, 7] →
    fieldB (tokenBytes s) 4 1 = 2 → tokenResult s = 1 → completes .advanceLifecycle s fun t =>
      t.locket.lifecycle = s.locket.lifecycle ∧
      (t.locket.tokenResult = 1 ∧ t.locket.fuses.lifecycle = BitVec.ofNat 4 (fieldB (tokenBytes s) 6 1) ∨
        t.locket.tokenResult = 6 ∧ s.locket.fuses.burnsTo t.locket.fuses)) ∧
  (∀ (i : Instr) (s t : State), exec i s = .next t → s.power.phase = .up → t.power.phase = .up → i ≠ .moduleReset →
    i ≠ .holdupFlushComplete → t.locket.lifecycle = s.locket.lifecycle) ∧
  (∀ (i : Instr) (s t : State), exec i s = .next t → s.power.phase ≠ .up → t.power.phase = .up →
    t.locket.lifecycle = t.locket.fuses.lifecycle)

end Slice0
end

