-- ==== Sys2Proof/Laws/Memory.lean ====
section
/-! SUPPORT. Laws of tables and addressed memories: reads after writes, and the canonical form that every operation
keeps. -/

namespace Sys2Proof.Machine

/-! ## Tables -/

theorem Tab.get_put_same {α : Type} (t : Tab α) (k : Nat) (v : α) : Tab.get (Tab.put t k v) k = some v := by
  induction t with
  | nil => simp [Tab.put, Tab.get]
  | cons p r ih =>
    obtain ⟨a, w⟩ := p
    unfold Tab.put
    split
    · simp [Tab.get]
    · split
      · simp [Tab.get]
      · rename_i h1 h2
        simp [Tab.get, h2, ih]

theorem Tab.get_put_other {α : Type} (t : Tab α) (k x : Nat) (v : α) (h : x ≠ k) :
    Tab.get (Tab.put t k v) x = Tab.get t x := by
  induction t with
  | nil => simp [Tab.put, Tab.get, h]
  | cons p r ih =>
    obtain ⟨a, w⟩ := p
    unfold Tab.put
    split
    · simp [Tab.get, h]
    · split
      · rename_i h1 h2
        simp [Tab.get, h, ← h2]
      · simp [Tab.get, ih]

/-! ## Memories -/

theorem Memory.wfFrom_mono (m : Memory) (a b : Nat) (h : a ≤ b) (w : Memory.wfFrom b m = true) :
    Memory.wfFrom a m = true := by
  cases m with
  | nil => rfl
  | cons p r =>
    obtain ⟨x, v⟩ := p
    simp only [Memory.wfFrom, Bool.and_eq_true, decide_eq_true_eq] at *
    exact ⟨⟨Nat.le_trans h w.1.1, w.1.2⟩, w.2⟩

theorem Memory.read_below (m : Memory) (lo x : Nat) (h : x < lo) (w : Memory.wfFrom lo m = true) :
    Memory.read m x = Memory.blank := by
  cases m with
  | nil => rfl
  | cons p r =>
    obtain ⟨a, v⟩ := p
    simp only [Memory.wfFrom, Bool.and_eq_true, decide_eq_true_eq] at w
    have h1 : x ≠ a := by omega
    have h2 : x < a := by omega
    simp [Memory.read, h1, h2]

theorem Memory.write_wfFrom (m : Memory) (lo x : Nat) (v : Byte) (h : lo ≤ x) (w : Memory.wfFrom lo m = true) :
    Memory.wfFrom lo (Memory.write m x v) = true := by
  induction m generalizing lo with
  | nil =>
    unfold Memory.write
    split
    · rfl
    · rename_i hv
      simp [Memory.wfFrom, h, hv]
  | cons p r ih =>
    obtain ⟨a, u⟩ := p
    simp only [Memory.wfFrom, Bool.and_eq_true, decide_eq_true_eq] at w
    obtain ⟨⟨w1, w2⟩, w3⟩ := w
    unfold Memory.write
    split
    · rename_i hx
      split
      · simp [Memory.wfFrom, w1, w2, w3]
      · rename_i hv
        have h1 : x + 1 ≤ a := hx
        simp [Memory.wfFrom, h, hv, h1, w2, w3]
    · split
      · rename_i hx he
        split
        · exact Memory.wfFrom_mono r lo (a + 1) (by omega) w3
        · rename_i hv
          subst he
          simp [Memory.wfFrom, h, hv, w3]
      · rename_i hx he
        simp only [Memory.wfFrom, Bool.and_eq_true, decide_eq_true_eq]
        exact ⟨⟨w1, w2⟩, ih (a + 1) (by omega) w3⟩

/-- A write keeps the canonical form. -/
theorem Memory.write_wf (m : Memory) (x : Nat) (v : Byte) (w : m.wf = true) : (Memory.write m x v).wf = true :=
  Memory.write_wfFrom m 0 x v (Nat.zero_le x) w

theorem Memory.writeBytes_wf (bs : List Byte) (m : Memory) (a : Nat) (w : m.wf = true) : (m.writeBytes a bs).wf = true := by
  induction bs generalizing m a with
  | nil => exact w
  | cons b bs ih => exact ih _ _ (Memory.write_wf m a b w)

theorem Memory.filter_wfFrom (m : Memory) (p : Nat × Byte → Bool) (lo : Nat) (w : Memory.wfFrom lo m = true) :
    Memory.wfFrom lo (m.filter p) = true := by
  induction m generalizing lo with
  | nil => rfl
  | cons q r ih =>
    obtain ⟨a, u⟩ := q
    simp only [Memory.wfFrom, Bool.and_eq_true, decide_eq_true_eq] at w
    obtain ⟨⟨w1, w2⟩, w3⟩ := w
    rw [List.filter_cons]
    split
    · simp only [Memory.wfFrom, Bool.and_eq_true, decide_eq_true_eq]
      exact ⟨⟨w1, w2⟩, ih (a + 1) w3⟩
    · exact ih lo (Memory.wfFrom_mono r lo (a + 1) (by omega) w3)

/-- Dropping a range keeps the canonical form. -/
theorem Memory.dropRange_wf (m : Memory) (lo hi : Nat) (w : m.wf = true) : (m.dropRange lo hi).wf = true :=
  Memory.filter_wfFrom m _ 0 w

/-- A read after a write of the same address gives the byte written. -/
theorem Memory.dropRanges_wf (lo hi : Nat → Nat) (xs : List Nat) :
    ∀ m : Memory, m.wf = true → (xs.foldl (fun m x => m.dropRange (lo x) (hi x)) m).wf = true := by
  induction xs with
  | nil => intro m w; exact w
  | cons x xs ih => intro m w; exact ih _ (Memory.dropRange_wf m _ _ w)

theorem Memory.read_write_same (m : Memory) (lo x : Nat) (v : Byte) (w : Memory.wfFrom lo m = true) :
    Memory.read (Memory.write m x v) x = v := by
  induction m generalizing lo with
  | nil =>
    unfold Memory.write
    split
    · rename_i hv; rw [hv]; rfl
    · simp [Memory.read]
  | cons p r ih =>
    obtain ⟨a, u⟩ := p
    simp only [Memory.wfFrom, Bool.and_eq_true, decide_eq_true_eq] at w
    obtain ⟨⟨w1, w2⟩, w3⟩ := w
    unfold Memory.write
    split
    · rename_i hx
      split
      · rename_i hv
        have hne : x ≠ a := by omega
        simp [Memory.read, hne, hx, hv]
      · simp [Memory.read]
    · split
      · rename_i hx he
        split
        · rename_i hv
          rw [Memory.read_below r (a + 1) x (by omega) w3, hv]
        · simp [Memory.read]
      · rename_i hx he
        have hne : ¬ x < a := hx
        simp [Memory.read, he, hne, ih (a + 1) w3]

/-- A write leaves every other address as it was. -/
theorem Memory.read_write_other (m : Memory) (lo x y : Nat) (v : Byte) (w : Memory.wfFrom lo m = true) (h : y ≠ x) :
    Memory.read (Memory.write m x v) y = Memory.read m y := by
  induction m generalizing lo with
  | nil =>
    unfold Memory.write
    split
    · rfl
    · simp [Memory.read, h]
  | cons p r ih =>
    obtain ⟨a, u⟩ := p
    simp only [Memory.wfFrom, Bool.and_eq_true, decide_eq_true_eq] at w
    obtain ⟨⟨w1, w2⟩, w3⟩ := w
    unfold Memory.write
    split
    · rename_i hx
      split
      · rfl
      · simp only [Memory.read, h, if_false]
        by_cases h1 : y < x
        · have h2 : y < a := by omega
          have h3 : y ≠ a := by omega
          simp [h1, h2, h3]
        · simp [h1]
    · split
      · rename_i hx he
        split
        · subst he
          by_cases h1 : y < x
          · have h3 := Memory.read_below r (x + 1) y (by omega) w3
            simp [Memory.read, h, h1, h3]
          · simp [Memory.read, h, h1]
        · subst he
          simp [Memory.read, h]
      · rename_i hx he
        simp only [Memory.read]
        split
        · rfl
        · split
          · rfl
          · exact ih (a + 1) w3

end Sys2Proof.Machine
end

