-- ==== Sys2Proof/Laws/Follows.lean ====
section
/-! SUPPORT. What a command may do to a state, as a relation between the states before and after, with its rules for the
ways operations are built: the parts it may change are listed, the queue stands, fuses burn one way, and the addressed
memories and the stores of fixed size keep their form. -/

set_option linter.unreachableTactic false
set_option linter.unusedTactic false

namespace Sys2Proof.Machine

theorem Fuses.burnsTo_refl (a : Fuses) : a.burnsTo a :=
  ⟨rfl, rfl, rfl, rfl, rfl, Nat.le_refl _, fun _ h => h, fun _ h => h⟩

theorem Fuses.burnsTo_trans {a b c : Fuses} (h : a.burnsTo b) (g : b.burnsTo c) : a.burnsTo c := by
  obtain ⟨h1, h2, h3, h4, h5, h6, h7, h8⟩ := h
  obtain ⟨g1, g2, g3, g4, g5, g6, g7, g8⟩ := g
  exact ⟨g1.trans h1, g2.trans h2, g3.trans h3, g4.trans h4, g5.trans h5, Nat.le_trans h6 g6,
    fun i hi => g7 i (h7 i hi), fun i hi => g8 i (h8 i hi)⟩

theorem State.same_refl (p : Field) (s : State) : State.same p s s := by
  cases p <;> exact rfl

theorem State.same_trans {p : Field} {s t u : State} (h : State.same p s t) (g : State.same p t u) : State.same p s u := by
  cases p <;> exact Eq.trans g h

/-- From `k` on only the parts in `T` change; the queue stands, fuses are at most burned further, and their copies, the
memories and the stores of fixed size keep their form. -/
structure State.follows (k : State) (T : List Field) (s : State) : Prop where
  queue : s.pending = k.pending
  frame : ∀ p, p ∉ T → State.same p k s
  fuses : k.locket.fuses.burnsTo s.locket.fuses
  agree : k.fusesAgree → s.fusesAgree
  memory : k.memOk = true → s.memOk = true
  bounds : k.inBounds → s.inBounds

theorem State.follows_refl (T : List Field) (s : State) : s.follows T s :=
  ⟨rfl, fun p _ => State.same_refl p s, Fuses.burnsTo_refl _, fun h => h, fun h => h, fun h => h⟩

/-- `follows` of a state that is written out field by field. -/
def State.keeps (k : State) (T : List Field) (t : State) : Prop := k.follows T t

variable {k s t : State} {T : List Field}

theorem follows_mk {pe ou fr ti po cr lo ho qu ev co ld fa ra cl ne hb fl cs pl st se fb le bo} :
    k.follows T ⟨pe, ou, fr, ti, po, cr, lo, ho, qu, ev, co, ld, fa, ra, cl, ne, hb, fl, cs, pl, st, se, fb, le, bo⟩ ↔
      k.keeps T ⟨pe, ou, fr, ti, po, cr, lo, ho, qu, ev, co, ld, fa, ra, cl, ne, hb, fl, cs, pl, st, se, fb, le, bo⟩ :=
  Iff.rfl

/-- A state whose fields are those of `s`, or stand for parts in `T` and keep their form. -/
theorem keeps_of {ou fr ti po cr lo ho qu ev co ld fa ra cl ne hb fl cs pl st se fb le bo} (h : k.follows T s)
    (h_ou : .out ∈ T ∨ ou = s.out)
    (h_fr : .free ∈ T ∨ fr = s.free)
    (h_ti : .time ∈ T ∨ ti = s.time)
    (h_po : .power ∈ T ∨ po = s.power)
    (h_cr : .cores ∈ T ∨ cr = s.cores)
    (h_lo : (.locket ∈ T ∧ lo.fuses = s.locket.fuses ∧ lo.copy = s.locket.copy) ∨ lo = s.locket)
    (h_ho : (.host ∈ T ∧ (s.host.storeUsed ≤ 2 ^ 30 → ho.storeUsed ≤ 2 ^ 30)) ∨ ho = s.host)
    (h_qu : .queues ∈ T ∨ qu = s.queues)
    (h_ev : (.events ∈ T ∧ (s.events.log.length ≤ 512 → ev.log.length ≤ 512)) ∨ ev = s.events)
    (h_co : (.counters ∈ T ∧ ((∀ c ∈ s.counters.counts, c.2.val ≤ 2 ^ 48 - 1) → ∀ c ∈ co.counts, c.2.val ≤ 2 ^ 48 - 1)) ∨ co = s.counters)
    (h_ld : .loader ∈ T ∨ ld = s.loader)
    (h_fa : .facets ∈ T ∨ fa = s.facets)
    (h_ra : (.facetRam ∈ T ∧ (s.facetRam.wf = true → ra.wf = true)) ∨ ra = s.facetRam)
    (h_cl : .collectors ∈ T ∨ cl = s.collectors)
    (h_ne : (.near ∈ T ∧ (s.near.bytes.wf = true → ne.bytes.wf = true)) ∨ ne = s.near)
    (h_hb : (.hbm ∈ T ∧ (s.hbm.scratch.wf = true → hb.scratch.wf = true)) ∨ hb = s.hbm)
    (h_fl : .flash ∈ T ∨ fl = s.flash)
    (h_cs : .colls ∈ T ∨ cs = s.colls)
    (h_pl : .pools ∈ T ∨ pl = s.pools)
    (h_st : .streams ∈ T ∨ st = s.streams)
    (h_se : .search ∈ T ∨ se = s.search)
    (h_fb : .fabric ∈ T ∨ fb = s.fabric)
    (h_le : .learn ∈ T ∨ le = s.learn)
    (h_bo : .board ∈ T ∨ bo = s.board)
    : k.keeps T ⟨s.pending, ou, fr, ti, po, cr, lo, ho, qu, ev, co, ld, fa, ra, cl, ne, hb, fl, cs, pl, st, se, fb, le, bo⟩ := by
  have m1 : s.memOk = true → (ra.wf && ne.bytes.wf && hb.scratch.wf) = true := by
    simp only [State.memOk, Bool.and_eq_true]
    rintro ⟨⟨a, b⟩, c⟩
    exact ⟨⟨h_ra.elim (fun g => g.2 a) (fun e => e ▸ a), h_ne.elim (fun g => g.2 b) (fun e => e ▸ b)⟩,
      h_hb.elim (fun g => g.2 c) (fun e => e ▸ c)⟩
  have m2 : s.inBounds → ev.log.length ≤ 512 ∧ ho.storeUsed ≤ 2 ^ 30 ∧ ∀ c ∈ co.counts, c.2.val ≤ 2 ^ 48 - 1 := by
    rintro ⟨a, b, c⟩
    exact ⟨h_ev.elim (fun g => g.2 a) (fun e => e ▸ a), h_ho.elim (fun g => g.2 b) (fun e => e ▸ b),
      h_co.elim (fun g => g.2 c) (fun e => e ▸ c)⟩
  have m3 : lo.fuses = s.locket.fuses ∧ lo.copy = s.locket.copy := h_lo.elim And.right (fun e => e ▸ ⟨rfl, rfl⟩)
  refine ⟨h.queue, fun p hp => State.same_trans (h.frame p hp) ?_, ?_, ?_, fun a => m1 (h.memory a),
    fun a => m2 (h.bounds a)⟩
  · cases p
    · exact h_ou.elim (fun g => absurd g hp) id
    · exact h_fr.elim (fun g => absurd g hp) id
    · exact h_ti.elim (fun g => absurd g hp) id
    · exact h_po.elim (fun g => absurd g hp) id
    · exact h_cr.elim (fun g => absurd g hp) id
    · exact h_lo.elim (fun g => absurd g.1 hp) id
    · exact h_ho.elim (fun g => absurd g.1 hp) id
    · exact h_qu.elim (fun g => absurd g hp) id
    · exact h_ev.elim (fun g => absurd g.1 hp) id
    · exact h_co.elim (fun g => absurd g.1 hp) id
    · exact h_ld.elim (fun g => absurd g hp) id
    · exact h_fa.elim (fun g => absurd g hp) id
    · exact h_ra.elim (fun g => absurd g.1 hp) id
    · exact h_cl.elim (fun g => absurd g hp) id
    · exact h_ne.elim (fun g => absurd g.1 hp) id
    · exact h_hb.elim (fun g => absurd g.1 hp) id
    · exact h_fl.elim (fun g => absurd g hp) id
    · exact h_cs.elim (fun g => absurd g hp) id
    · exact h_pl.elim (fun g => absurd g hp) id
    · exact h_st.elim (fun g => absurd g hp) id
    · exact h_se.elim (fun g => absurd g hp) id
    · exact h_fb.elim (fun g => absurd g hp) id
    · exact h_le.elim (fun g => absurd g hp) id
    · exact h_bo.elim (fun g => absurd g hp) id
  · exact m3.1 ▸ h.fuses
  · intro a
    exact m3.1.trans ((h.agree a).trans m3.2.symm)

/-- A table keeps a property of its values when the value put has it. -/
theorem Tab.put_all {α : Type} {p : α → Prop} (t : Tab α) (x : Nat) (v : α) (hv : p v) (h : ∀ c ∈ t, p c.2) :
    ∀ c ∈ Tab.put t x v, p c.2 := by
  induction t with
  | nil => intro c hc; simp only [Tab.put, List.mem_singleton] at hc; subst hc; exact hv
  | cons y r ih =>
    obtain ⟨a, w⟩ := y
    intro c hc
    unfold Tab.put at hc
    split at hc
    · rcases List.mem_cons.mp hc with rfl | hc
      · exact hv
      · exact h c hc
    · split at hc
      · rcases List.mem_cons.mp hc with rfl | hc
        · exact hv
        · exact h c (List.mem_cons_of_mem _ hc)
      · rcases List.mem_cons.mp hc with rfl | hc
        · exact h _ (List.mem_cons_self ..)
        · exact ih (fun c hc => h c (List.mem_cons_of_mem _ hc)) c hc

theorem Tab.get_all {α : Type} {p : α → Prop} (t : Tab α) (x : Nat) (v : α) (h : ∀ c ∈ t, p c.2)
    (e : Tab.get t x = some v) : p v := by
  induction t with
  | nil => cases e
  | cons y r ih =>
    obtain ⟨a, w⟩ := y
    unfold Tab.get at e
    split at e
    · injection e with e
      subst e
      exact h _ (List.mem_cons_self ..)
    · exact ih (fun c hc => h c (List.mem_cons_of_mem _ hc)) e

theorem ite_follows {c : Prop} [Decidable c] (h : k.follows T s) (g : k.follows T t) : k.follows T (if c then s else t) := by
  split <;> assumption

theorem foldl_follows {α : Type} (f : State → α → State) (xs : List α) (hf : ∀ t x, k.follows T t → k.follows T (f t x)) :
    ∀ s, k.follows T s → k.follows T (xs.foldl f s) := by
  induction xs with
  | nil => intro s h; exact h
  | cons x xs ih => intro s h; exact ih _ (hf s x h)

theorem follows_snd {α : Type} {p : α × State} {a : α} (e : p = (a, s)) (h : k.follows T p.2) : k.follows T s := by
  subst e; exact h

end Sys2Proof.Machine
end

