-- ==== Sys2Proof/Laws/FollowsShared.lean ====
section
/-! SUPPORT. What the operations of the registers, events, tasks, tiers, links and faults may change: one lemma
`<operation>_follows` for each, to be cited in place of its definition (`State.follows`). -/

set_option linter.unreachableTactic false
set_option linter.unusedTactic false

namespace Sys2Proof.Machine

theorem setConn_follows {z : State} {T : List Field} {s : State} {c : Nat} {v : Conn} (hT : [.host] ⊆ T) (hz : z.follows T s) :
    z.follows T (setConn s c v) := by
  unfold setConn
  repeat' first
    | with_reducible exact List.Subset.trans (by decide) hT
    | intro _
    | with_reducible (first | assumption | apply ite_follows)
    | dsimp only | split
    | (simp only [follows_mk]; apply keeps_of) | with_reducible exact Or.inr rfl
    | exact Or.inl (hT (by decide)) | exact Or.inl ⟨hT (by decide), rfl, rfl⟩
    | exact Or.inl ⟨hT (by decide), fun h => h⟩ | (refine Or.inl ⟨hT (by decide), ?_⟩)

theorem updConn_follows {z : State} {T : List Field} {s : State} {c : Nat} {f : Conn → Conn} (hT : [.host] ⊆ T) (hz : z.follows T s) :
    z.follows T (updConn s c f) := by
  unfold updConn
  repeat' first
    | with_reducible exact List.Subset.trans (by decide) hT
    | intro _
    | with_reducible (first | assumption | apply ite_follows)
    | dsimp only | split
    | (simp only [follows_mk]; apply keeps_of) | with_reducible exact Or.inr rfl
    | exact Or.inl (hT (by decide)) | exact Or.inl ⟨hT (by decide), rfl, rfl⟩
    | exact Or.inl ⟨hT (by decide), fun h => h⟩ | (refine Or.inl ⟨hT (by decide), ?_⟩)

theorem updPort_follows {z : State} {T : List Field} {s : State} {p : Nat} {f : Port → Port} (hT : [.host] ⊆ T) (hz : z.follows T s) :
    z.follows T (updPort s p f) := by
  unfold updPort
  repeat' first
    | with_reducible exact List.Subset.trans (by decide) hT
    | intro _
    | with_reducible (first | assumption | apply ite_follows)
    | dsimp only | split
    | (simp only [follows_mk]; apply keeps_of) | with_reducible exact Or.inr rfl
    | exact Or.inl (hT (by decide)) | exact Or.inl ⟨hT (by decide), rfl, rfl⟩
    | exact Or.inl ⟨hT (by decide), fun h => h⟩ | (refine Or.inl ⟨hT (by decide), ?_⟩)

theorem sendFrame_follows {z : State} {T : List Field} {s : State} {port : Nat} {mgmt : Bool} {k : SentKind} (hT : [.host] ⊆ T) (hz : z.follows T s) :
    z.follows T (sendFrame s port mgmt k) := by
  unfold sendFrame
  repeat' first
    | with_reducible exact List.Subset.trans (by decide) hT
    | intro _
    | with_reducible (first | assumption | apply ite_follows)
    | dsimp only | split
    | (simp only [follows_mk]; apply keeps_of) | with_reducible exact Or.inr rfl
    | exact Or.inl (hT (by decide)) | exact Or.inl ⟨hT (by decide), rfl, rfl⟩
    | exact Or.inl ⟨hT (by decide), fun h => h⟩ | (refine Or.inl ⟨hT (by decide), ?_⟩)

theorem sendUdp_follows {z : State} {T : List Field} {s : State} {port : Nat} {mgmt : Bool} {dst : BitVec 128} {dp : Nat} {body : List Byte} (hT : [.host] ⊆ T) (hz : z.follows T s) :
    z.follows T (sendUdp s port mgmt dst dp body) := by
  unfold sendUdp
  repeat' first
    | with_reducible exact List.Subset.trans (by decide) hT
    | intro _
    | with_reducible (first | assumption | apply sendFrame_follows | apply ite_follows)
    | dsimp only | split

theorem sendDatagram_follows {z : State} {T : List Field} {s : State} {id : Nat} {c : Conn} {mgmt : Bool} {type : Nat} {flags : Nat} {seq : Nat} {body : List Byte} (hT : [.host] ⊆ T) (hz : z.follows T s) :
    z.follows T (sendDatagram s id c mgmt type flags seq body) := by
  unfold sendDatagram
  repeat' first
    | with_reducible exact List.Subset.trans (by decide) hT
    | intro _
    | with_reducible (first | assumption | apply sendUdp_follows | apply ite_follows)
    | dsimp only | split

theorem sendLoose_follows {z : State} {T : List Field} {s : State} {port : Nat} {conn : Nat} {mgmt : Bool} {dst : BitVec 128} {dp : Nat} {type : Nat} {body : List Byte} (hT : [.host] ⊆ T) (hz : z.follows T s) :
    z.follows T (sendLoose s port conn mgmt dst dp type body) := by
  unfold sendLoose
  repeat' first
    | with_reducible exact List.Subset.trans (by decide) hT
    | intro _
    | with_reducible (first | assumption | apply sendUdp_follows | apply ite_follows)
    | dsimp only | split

theorem sendSegs_follows {z : State} {T : List Field} {s : State} {id : Nat} {c : Conn} {mgmt : Bool} {first : BitVec 32} {segs : List Seg} (hT : [.host] ⊆ T) (hz : z.follows T s) :
    z.follows T (sendSegs s id c mgmt first segs) := by
  unfold sendSegs
  repeat' first
    | with_reducible exact List.Subset.trans (by decide) hT
    | intro _
    | with_reducible (first | assumption | apply sendDatagram_follows | apply foldl_follows | apply ite_follows)
    | dsimp only | split

theorem modTime_follows {z : State} {T : List Field} {s : State} {f : TimeBase → TimeBase} (hT : [.time] ⊆ T) (hz : z.follows T s) :
    z.follows T (State.modTime s f) := by
  unfold State.modTime
  repeat' first
    | with_reducible exact List.Subset.trans (by decide) hT
    | intro _
    | with_reducible (first | assumption | apply ite_follows)
    | dsimp only | split
    | (simp only [follows_mk]; apply keeps_of) | with_reducible exact Or.inr rfl
    | exact Or.inl (hT (by decide)) | exact Or.inl ⟨hT (by decide), rfl, rfl⟩
    | exact Or.inl ⟨hT (by decide), fun h => h⟩ | (refine Or.inl ⟨hT (by decide), ?_⟩)

theorem modPower_follows {z : State} {T : List Field} {s : State} {f : Power → Power} (hT : [.power] ⊆ T) (hz : z.follows T s) :
    z.follows T (State.modPower s f) := by
  unfold State.modPower
  repeat' first
    | with_reducible exact List.Subset.trans (by decide) hT
    | intro _
    | with_reducible (first | assumption | apply ite_follows)
    | dsimp only | split
    | (simp only [follows_mk]; apply keeps_of) | with_reducible exact Or.inr rfl
    | exact Or.inl (hT (by decide)) | exact Or.inl ⟨hT (by decide), rfl, rfl⟩
    | exact Or.inl ⟨hT (by decide), fun h => h⟩ | (refine Or.inl ⟨hT (by decide), ?_⟩)

theorem modCores_follows {z : State} {T : List Field} {s : State} {f : Cores → Cores} (hT : [.cores] ⊆ T) (hz : z.follows T s) :
    z.follows T (State.modCores s f) := by
  unfold State.modCores
  repeat' first
    | with_reducible exact List.Subset.trans (by decide) hT
    | intro _
    | with_reducible (first | assumption | apply ite_follows)
    | dsimp only | split
    | (simp only [follows_mk]; apply keeps_of) | with_reducible exact Or.inr rfl
    | exact Or.inl (hT (by decide)) | exact Or.inl ⟨hT (by decide), rfl, rfl⟩
    | exact Or.inl ⟨hT (by decide), fun h => h⟩ | (refine Or.inl ⟨hT (by decide), ?_⟩)

theorem modLocket_follows {z : State} {T : List Field} {s : State} {f : Locket → Locket} (hT : [.locket] ⊆ T)
    (hz : z.follows T s) (a : (f s.locket).fuses = s.locket.fuses ∧ (f s.locket).copy = s.locket.copy) :
    z.follows T (s.modLocket f) := by
  simp only [State.modLocket, follows_mk]
  apply keeps_of <;> first | exact hz | exact Or.inr rfl | exact Or.inl ⟨hT (by decide), a⟩

theorem modHost_follows {z : State} {T : List Field} {s : State} {f : HostIf → HostIf} (hT : [.host] ⊆ T)
    (hz : z.follows T s) (a : s.host.storeUsed ≤ 2 ^ 30 → (f s.host).storeUsed ≤ 2 ^ 30) :
    z.follows T (s.modHost f) := by
  simp only [State.modHost, follows_mk]
  apply keeps_of <;> first | exact hz | exact Or.inr rfl | exact Or.inl ⟨hT (by decide), a⟩

theorem modQueues_follows {z : State} {T : List Field} {s : State} {f : Queues → Queues} (hT : [.queues] ⊆ T) (hz : z.follows T s) :
    z.follows T (State.modQueues s f) := by
  unfold State.modQueues
  repeat' first
    | with_reducible exact List.Subset.trans (by decide) hT
    | intro _
    | with_reducible (first | assumption | apply ite_follows)
    | dsimp only | split
    | (simp only [follows_mk]; apply keeps_of) | with_reducible exact Or.inr rfl
    | exact Or.inl (hT (by decide)) | exact Or.inl ⟨hT (by decide), rfl, rfl⟩
    | exact Or.inl ⟨hT (by decide), fun h => h⟩ | (refine Or.inl ⟨hT (by decide), ?_⟩)

theorem modLoader_follows {z : State} {T : List Field} {s : State} {f : Loader → Loader} (hT : [.loader] ⊆ T) (hz : z.follows T s) :
    z.follows T (State.modLoader s f) := by
  unfold State.modLoader
  repeat' first
    | with_reducible exact List.Subset.trans (by decide) hT
    | intro _
    | with_reducible (first | assumption | apply ite_follows)
    | dsimp only | split
    | (simp only [follows_mk]; apply keeps_of) | with_reducible exact Or.inr rfl
    | exact Or.inl (hT (by decide)) | exact Or.inl ⟨hT (by decide), rfl, rfl⟩
    | exact Or.inl ⟨hT (by decide), fun h => h⟩ | (refine Or.inl ⟨hT (by decide), ?_⟩)

theorem modNear_follows {z : State} {T : List Field} {s : State} {f : NearMem → NearMem} (hT : [.near] ⊆ T)
    (hz : z.follows T s) (a : s.near.bytes.wf = true → (f s.near).bytes.wf = true) :
    z.follows T (s.modNear f) := by
  simp only [State.modNear, follows_mk]
  apply keeps_of <;> first | exact hz | exact Or.inr rfl | exact Or.inl ⟨hT (by decide), a⟩

theorem modHbm_follows {z : State} {T : List Field} {s : State} {f : Hbm → Hbm} (hT : [.hbm] ⊆ T)
    (hz : z.follows T s) (a : s.hbm.scratch.wf = true → (f s.hbm).scratch.wf = true) :
    z.follows T (s.modHbm f) := by
  simp only [State.modHbm, follows_mk]
  apply keeps_of <;> first | exact hz | exact Or.inr rfl | exact Or.inl ⟨hT (by decide), a⟩

theorem modFlash_follows {z : State} {T : List Field} {s : State} {f : Flash → Flash} (hT : [.flash] ⊆ T) (hz : z.follows T s) :
    z.follows T (State.modFlash s f) := by
  unfold State.modFlash
  repeat' first
    | with_reducible exact List.Subset.trans (by decide) hT
    | intro _
    | with_reducible (first | assumption | apply ite_follows)
    | dsimp only | split
    | (simp only [follows_mk]; apply keeps_of) | with_reducible exact Or.inr rfl
    | exact Or.inl (hT (by decide)) | exact Or.inl ⟨hT (by decide), rfl, rfl⟩
    | exact Or.inl ⟨hT (by decide), fun h => h⟩ | (refine Or.inl ⟨hT (by decide), ?_⟩)

theorem modPools_follows {z : State} {T : List Field} {s : State} {f : Pools → Pools} (hT : [.pools] ⊆ T) (hz : z.follows T s) :
    z.follows T (State.modPools s f) := by
  unfold State.modPools
  repeat' first
    | with_reducible exact List.Subset.trans (by decide) hT
    | intro _
    | with_reducible (first | assumption | apply ite_follows)
    | dsimp only | split
    | (simp only [follows_mk]; apply keeps_of) | with_reducible exact Or.inr rfl
    | exact Or.inl (hT (by decide)) | exact Or.inl ⟨hT (by decide), rfl, rfl⟩
    | exact Or.inl ⟨hT (by decide), fun h => h⟩ | (refine Or.inl ⟨hT (by decide), ?_⟩)

theorem modStreams_follows {z : State} {T : List Field} {s : State} {f : Streams → Streams} (hT : [.streams] ⊆ T) (hz : z.follows T s) :
    z.follows T (State.modStreams s f) := by
  unfold State.modStreams
  repeat' first
    | with_reducible exact List.Subset.trans (by decide) hT
    | intro _
    | with_reducible (first | assumption | apply ite_follows)
    | dsimp only | split
    | (simp only [follows_mk]; apply keeps_of) | with_reducible exact Or.inr rfl
    | exact Or.inl (hT (by decide)) | exact Or.inl ⟨hT (by decide), rfl, rfl⟩
    | exact Or.inl ⟨hT (by decide), fun h => h⟩ | (refine Or.inl ⟨hT (by decide), ?_⟩)

theorem modSearch_follows {z : State} {T : List Field} {s : State} {f : Search → Search} (hT : [.search] ⊆ T) (hz : z.follows T s) :
    z.follows T (State.modSearch s f) := by
  unfold State.modSearch
  repeat' first
    | with_reducible exact List.Subset.trans (by decide) hT
    | intro _
    | with_reducible (first | assumption | apply ite_follows)
    | dsimp only | split
    | (simp only [follows_mk]; apply keeps_of) | with_reducible exact Or.inr rfl
    | exact Or.inl (hT (by decide)) | exact Or.inl ⟨hT (by decide), rfl, rfl⟩
    | exact Or.inl ⟨hT (by decide), fun h => h⟩ | (refine Or.inl ⟨hT (by decide), ?_⟩)

theorem modFabric_follows {z : State} {T : List Field} {s : State} {f : Fabric → Fabric} (hT : [.fabric] ⊆ T) (hz : z.follows T s) :
    z.follows T (State.modFabric s f) := by
  unfold State.modFabric
  repeat' first
    | with_reducible exact List.Subset.trans (by decide) hT
    | intro _
    | with_reducible (first | assumption | apply ite_follows)
    | dsimp only | split
    | (simp only [follows_mk]; apply keeps_of) | with_reducible exact Or.inr rfl
    | exact Or.inl (hT (by decide)) | exact Or.inl ⟨hT (by decide), rfl, rfl⟩
    | exact Or.inl ⟨hT (by decide), fun h => h⟩ | (refine Or.inl ⟨hT (by decide), ?_⟩)

theorem modLearn_follows {z : State} {T : List Field} {s : State} {f : Learn → Learn} (hT : [.learn] ⊆ T) (hz : z.follows T s) :
    z.follows T (State.modLearn s f) := by
  unfold State.modLearn
  repeat' first
    | with_reducible exact List.Subset.trans (by decide) hT
    | intro _
    | with_reducible (first | assumption | apply ite_follows)
    | dsimp only | split
    | (simp only [follows_mk]; apply keeps_of) | with_reducible exact Or.inr rfl
    | exact Or.inl (hT (by decide)) | exact Or.inl ⟨hT (by decide), rfl, rfl⟩
    | exact Or.inl ⟨hT (by decide), fun h => h⟩ | (refine Or.inl ⟨hT (by decide), ?_⟩)

theorem idleTick_follows {z : State} {T : List Field} {s : State} (hT : [.time] ⊆ T) (hz : z.follows T s) :
    z.follows T (idleTick s) := by
  unfold idleTick
  repeat' first
    | with_reducible exact List.Subset.trans (by decide) hT
    | intro _
    | with_reducible (first | assumption | apply ite_follows)
    | dsimp only | split
    | (simp only [follows_mk]; apply keeps_of) | with_reducible exact Or.inr rfl
    | exact Or.inl (hT (by decide)) | exact Or.inl ⟨hT (by decide), rfl, rfl⟩
    | exact Or.inl ⟨hT (by decide), fun h => h⟩ | (refine Or.inl ⟨hT (by decide), ?_⟩)

theorem drawBool_follows {z : State} {T : List Field} {s : State} (hT : [.free] ⊆ T) (hz : z.follows T s) :
    z.follows T (drawBool s).2 := by
  unfold drawBool
  repeat' first
    | with_reducible exact List.Subset.trans (by decide) hT
    | intro _
    | with_reducible (first | assumption | apply ite_follows)
    | dsimp only | split
    | (simp only [follows_mk]; apply keeps_of) | with_reducible exact Or.inr rfl
    | exact Or.inl (hT (by decide)) | exact Or.inl ⟨hT (by decide), rfl, rfl⟩
    | exact Or.inl ⟨hT (by decide), fun h => h⟩ | (refine Or.inl ⟨hT (by decide), ?_⟩)

theorem drawNat_follows {z : State} {T : List Field} {s : State} (hT : [.free] ⊆ T) (hz : z.follows T s) :
    z.follows T (drawNat s).2 := by
  unfold drawNat
  repeat' first
    | with_reducible exact List.Subset.trans (by decide) hT
    | intro _
    | with_reducible (first | assumption | apply ite_follows)
    | dsimp only | split
    | (simp only [follows_mk]; apply keeps_of) | with_reducible exact Or.inr rfl
    | exact Or.inl (hT (by decide)) | exact Or.inl ⟨hT (by decide), rfl, rfl⟩
    | exact Or.inl ⟨hT (by decide), fun h => h⟩ | (refine Or.inl ⟨hT (by decide), ?_⟩)

theorem drawOrd_follows {z : State} {T : List Field} {s : State} (hT : [.free] ⊆ T) (hz : z.follows T s) :
    z.follows T (drawOrd s).2 := by
  unfold drawOrd
  repeat' first
    | with_reducible exact List.Subset.trans (by decide) hT
    | intro _
    | with_reducible (first | assumption | apply ite_follows)
    | dsimp only | split
    | (simp only [follows_mk]; apply keeps_of) | with_reducible exact Or.inr rfl
    | exact Or.inl (hT (by decide)) | exact Or.inl ⟨hT (by decide), rfl, rfl⟩
    | exact Or.inl ⟨hT (by decide), fun h => h⟩ | (refine Or.inl ⟨hT (by decide), ?_⟩)

theorem drawF32_follows {z : State} {T : List Field} {s : State} (hT : [.free] ⊆ T) (hz : z.follows T s) :
    z.follows T (drawF32 s).2 := by
  unfold drawF32
  repeat' first
    | with_reducible exact List.Subset.trans (by decide) hT
    | intro _
    | with_reducible (first | assumption | apply ite_follows)
    | dsimp only | split
    | (simp only [follows_mk]; apply keeps_of) | with_reducible exact Or.inr rfl
    | exact Or.inl (hT (by decide)) | exact Or.inl ⟨hT (by decide), rfl, rfl⟩
    | exact Or.inl ⟨hT (by decide), fun h => h⟩ | (refine Or.inl ⟨hT (by decide), ?_⟩)

theorem emit_follows {z : State} {T : List Field} {s : State} {o : Out} (hT : [.out] ⊆ T) (hz : z.follows T s) :
    z.follows T (emit s o) := by
  unfold emit
  repeat' first
    | with_reducible exact List.Subset.trans (by decide) hT
    | intro _
    | with_reducible (first | assumption | apply ite_follows)
    | dsimp only | split
    | (simp only [follows_mk]; apply keeps_of) | with_reducible exact Or.inr rfl
    | exact Or.inl (hT (by decide)) | exact Or.inl ⟨hT (by decide), rfl, rfl⟩
    | exact Or.inl ⟨hT (by decide), fun h => h⟩ | (refine Or.inl ⟨hT (by decide), ?_⟩)

theorem keepSent_follows {z : State} {T : List Field} {s : State} {id : Nat} {c : Conn} {mgmt : Bool} {bs : List Byte}
    {ev : Option (BitVec 32)} (hT : [.host] ⊆ T) (hz : z.follows T s) :
    z.follows T (keepSent s id c mgmt bs ev).2 := by
  have h : ∀ x, z.follows T (setConn (sendSegs s id c mgmt c.txNext (segsOf (segBytes s c) (if ev.isSome then 4 else 0) bs)) id x) :=
    fun x => setConn_follows (List.Subset.trans (by decide) hT) (sendSegs_follows (List.Subset.trans (by decide) hT) hz)
  unfold keepSent
  dsimp only
  split
  · rename_i hs
    simp only [follows_mk]
    apply keeps_of
    case h => exact h _
    case h_ho => exact Or.inl ⟨hT (by decide), fun _ => hs⟩
    all_goals exact Or.inr rfl
  · exact h _

theorem deliverTo_follows {z : State} {T : List Field} {bs : List Byte} {seq : BitVec 32} {s : State} {id : Nat} (hT : [.out, .host] ⊆ T) (hz : z.follows T s) :
    z.follows T (deliverTo bs seq s id) := by
  unfold deliverTo
  repeat' first
    | with_reducible exact List.Subset.trans (by decide) hT
    | intro _
    | with_reducible (first | assumption | apply emit_follows | apply keepSent_follows | apply ite_follows)
    | dsimp only | split

theorem logEvent_follows {z : State} {T : List Field} {s : State} {code : BitVec 16} {args : List Byte} (hT : [.out, .host, .events] ⊆ T) (hz : z.follows T s) :
    z.follows T (logEvent s code args).2 := by
  unfold logEvent
  split
  · rename_i hs
    refine foldl_follows _ _ (fun t x h => deliverTo_follows (List.Subset.trans (by decide) hT) h) _ ?_
    simp only [follows_mk]
    apply keeps_of
    case h => exact hz
    case h_ev =>
      refine Or.inl ⟨hT (by decide), fun _ => ?_⟩
      simp only [List.length_append, List.length_singleton]
      exact hs
    all_goals exact Or.inr rfl
  · simp only [follows_mk]
    apply keeps_of
    case h => exact hz
    case h_ev => exact Or.inl ⟨hT (by decide), fun h => h⟩
    all_goals exact Or.inr rfl

theorem setCounter_follows {z : State} {T : List Field} {s : State} {a : Nat} {c : EvCounter} (hT : [.counters] ⊆ T)
    (hz : z.follows T s) (hc : c.val ≤ 2 ^ 48 - 1) : z.follows T (setCounter s a c) := by
  simp only [setCounter, follows_mk]
  apply keeps_of
  case h => exact hz
  case h_co => exact Or.inl ⟨hT (by decide), Tab.put_all (p := fun c : EvCounter => c.val ≤ 2 ^ 48 - 1) _ _ _ hc⟩
  all_goals exact Or.inr rfl

theorem bumpQuiet_follows {z : State} {T : List Field} {s : State} {a n : Nat} (hT : [.counters] ⊆ T) (hz : z.follows T s) :
    z.follows T (bumpQuiet s a n).2 := by
  unfold bumpQuiet
  exact setCounter_follows (List.Subset.trans (by decide) hT) hz (Nat.min_le_left _ _)

theorem raiseEvent_follows {z : State} {T : List Field} {s : State} {code : BitVec 16} {args : List Byte} (hT : [.out, .host, .events, .counters] ⊆ T) (hz : z.follows T s) :
    z.follows T (raiseEvent s code args) := by
  unfold raiseEvent
  repeat' first
    | with_reducible exact List.Subset.trans (by decide) hT
    | intro _
    | with_reducible (first | assumption | apply bumpQuiet_follows | apply logEvent_follows | apply ite_follows)
    | dsimp only | split

theorem bumpN_follows {z : State} {T : List Field} {s : State} {a n : Nat} (hT : [.out, .host, .events, .counters] ⊆ T) (hz : z.follows T s) :
    z.follows T (bumpN s a n) := by
  unfold bumpN
  repeat' first
    | with_reducible exact List.Subset.trans (by decide) hT
    | intro _
    | with_reducible (first | assumption | apply bumpQuiet_follows | apply raiseEvent_follows | apply ite_follows)
    | dsimp only | split

theorem bump_follows {z : State} {T : List Field} {s : State} {a : Nat} (hT : [.out, .host, .events, .counters] ⊆ T) (hz : z.follows T s) :
    z.follows T (bump s a) := by
  unfold bump
  repeat' first
    | with_reducible exact List.Subset.trans (by decide) hT
    | intro _
    | with_reducible (first | assumption | apply bumpN_follows | apply ite_follows)
    | dsimp only | split

theorem setCmds_follows {z : State} {T : List Field} {s : State} {f : List Cmd → List Cmd} (hT : [.queues] ⊆ T) (hz : z.follows T s) :
    z.follows T (setCmds s f) := by
  unfold setCmds
  repeat' first
    | with_reducible exact List.Subset.trans (by decide) hT
    | intro _
    | with_reducible (first | assumption | apply ite_follows)
    | dsimp only | split
    | (simp only [follows_mk]; apply keeps_of) | with_reducible exact Or.inr rfl
    | exact Or.inl (hT (by decide)) | exact Or.inl ⟨hT (by decide), rfl, rfl⟩
    | exact Or.inl ⟨hT (by decide), fun h => h⟩ | (refine Or.inl ⟨hT (by decide), ?_⟩)

theorem updCmd_follows {z : State} {T : List Field} {s : State} {q t : Nat} {f : Cmd → Cmd} (hT : [.queues] ⊆ T) (hz : z.follows T s) :
    z.follows T (updCmd s q t f) := by
  unfold updCmd
  repeat' first
    | with_reducible exact List.Subset.trans (by decide) hT
    | intro _
    | with_reducible (first | assumption | apply setCmds_follows | apply ite_follows)
    | dsimp only | split

theorem transmit_follows {z : State} {T : List Field} {s : State} {r : CmdRef} {st : BitVec 16} {area : BitVec 320} {body : List Byte} (hT : [.out, .host, .events, .counters] ⊆ T) (hz : z.follows T s) :
    z.follows T (transmit s r st area body) := by
  unfold transmit
  repeat' first
    | with_reducible exact List.Subset.trans (by decide) hT
    | intro _
    | with_reducible (first | assumption | apply bump_follows | apply emit_follows | apply keepSent_follows
                            | apply ite_follows)
    | dsimp only | split

theorem freeTag_follows {z : State} {T : List Field} {s : State} {q t : Nat} (hT : [.queues] ⊆ T) (hz : z.follows T s) :
    z.follows T (freeTag s q t) := by
  unfold freeTag
  repeat' first
    | with_reducible exact List.Subset.trans (by decide) hT
    | intro _
    | with_reducible (first | assumption | apply ite_follows)
    | dsimp only | split
    | (simp only [follows_mk]; apply keeps_of) | with_reducible exact Or.inr rfl
    | exact Or.inl (hT (by decide)) | exact Or.inl ⟨hT (by decide), rfl, rfl⟩
    | exact Or.inl ⟨hT (by decide), fun h => h⟩ | (refine Or.inl ⟨hT (by decide), ?_⟩)

theorem closeOne_follows {z : State} {T : List Field} {s : State} {conn : Nat} (hT : [.host] ⊆ T) (hz : z.follows T s) :
    z.follows T (closeOne s conn) := by
  unfold closeOne
  repeat' first
    | with_reducible exact List.Subset.trans (by decide) hT
    | intro _
    | with_reducible (first | assumption | apply updConn_follows | apply ite_follows)
    | dsimp only | split

theorem countAdmit_follows {z : State} {T : List Field} {s : State} {q : Nat} (hT : [.out, .host, .queues, .events, .counters] ⊆ T) (hz : z.follows T s) :
    z.follows T (countAdmit s q) := by
  unfold countAdmit
  repeat' first
    | with_reducible exact List.Subset.trans (by decide) hT
    | intro _
    | with_reducible (first | assumption | apply modQueues_follows | apply bump_follows | apply ite_follows)
    | dsimp only | split

theorem countReply_follows {z : State} {T : List Field} {s : State} {c : Cmd} {st : BitVec 16} (hT : [.out, .host, .queues, .events, .counters] ⊆ T) (hz : z.follows T s) :
    z.follows T (countReply s c st) := by
  unfold countReply
  repeat' first
    | with_reducible exact List.Subset.trans (by decide) hT
    | intro _
    | with_reducible (first | assumption | apply bump_follows | apply countAdmit_follows | apply ite_follows)
    | dsimp only | split

theorem answer_follows {z : State} {T : List Field} {s : State} {q t : Nat} {st : BitVec 16} {area : BitVec 320} {body : List Byte} (hT : [.out, .host, .queues, .events, .counters, .flash, .pools] ⊆ T) (hz : z.follows T s) :
    z.follows T (answer s q t st area body) := by
  unfold answer
  repeat' first
    | with_reducible exact List.Subset.trans (by decide) hT
    | intro _
    | with_reducible (first | assumption | apply closeOne_follows | apply countReply_follows | apply freeTag_follows
                            | apply transmit_follows | apply ite_follows)
    | dsimp only | split
    | (simp only [follows_mk]; apply keeps_of) | with_reducible exact Or.inr rfl
    | exact Or.inl (hT (by decide)) | exact Or.inl ⟨hT (by decide), rfl, rfl⟩
    | exact Or.inl ⟨hT (by decide), fun h => h⟩ | (refine Or.inl ⟨hT (by decide), ?_⟩)

theorem ok_follows {z : State} {T : List Field} {s : State} {q t : Nat} {area : BitVec 320} (hT : [.out, .host, .queues, .events, .counters, .flash, .pools] ⊆ T) (hz : z.follows T s) :
    z.follows T (ok s q t area) := by
  unfold ok
  repeat' first
    | with_reducible exact List.Subset.trans (by decide) hT
    | intro _
    | with_reducible (first | assumption | apply answer_follows | apply ite_follows)
    | dsimp only | split

theorem refuse_follows {z : State} {T : List Field} {s : State} {q t : Nat} {st : BitVec 16} (hT : [.out, .host, .queues, .events, .counters, .flash, .pools] ⊆ T) (hz : z.follows T s) :
    z.follows T (refuse s q t st) := by
  unfold refuse
  repeat' first
    | with_reducible exact List.Subset.trans (by decide) hT
    | intro _
    | with_reducible (first | assumption | apply answer_follows | apply ite_follows)
    | dsimp only | split

theorem setColl_follows {z : State} {T : List Field} {s : State} {c : Nat} {v : Coll} (hT : [.colls] ⊆ T) (hz : z.follows T s) :
    z.follows T (setColl s c v) := by
  unfold setColl
  repeat' first
    | with_reducible exact List.Subset.trans (by decide) hT
    | intro _
    | with_reducible (first | assumption | apply ite_follows)
    | dsimp only | split
    | (simp only [follows_mk]; apply keeps_of) | with_reducible exact Or.inr rfl
    | exact Or.inl (hT (by decide)) | exact Or.inl ⟨hT (by decide), rfl, rfl⟩
    | exact Or.inl ⟨hT (by decide), fun h => h⟩ | (refine Or.inl ⟨hT (by decide), ?_⟩)

theorem updColl_follows {z : State} {T : List Field} {s : State} {c : Nat} {f : Coll → Coll} (hT : [.colls] ⊆ T) (hz : z.follows T s) :
    z.follows T (updColl s c f) := by
  unfold updColl
  repeat' first
    | with_reducible exact List.Subset.trans (by decide) hT
    | intro _
    | with_reducible (first | assumption | apply ite_follows)
    | dsimp only | split
    | (simp only [follows_mk]; apply keeps_of) | with_reducible exact Or.inr rfl
    | exact Or.inl (hT (by decide)) | exact Or.inl ⟨hT (by decide), rfl, rfl⟩
    | exact Or.inl ⟨hT (by decide), fun h => h⟩ | (refine Or.inl ⟨hT (by decide), ?_⟩)

theorem mapColls_follows {z : State} {T : List Field} {s : State} {f : Nat → Coll → Coll} (hT : [.colls] ⊆ T) (hz : z.follows T s) :
    z.follows T (mapColls s f) := by
  unfold mapColls
  repeat' first
    | with_reducible exact List.Subset.trans (by decide) hT
    | intro _
    | with_reducible (first | assumption | apply ite_follows)
    | dsimp only | split
    | (simp only [follows_mk]; apply keeps_of) | with_reducible exact Or.inr rfl
    | exact Or.inl (hT (by decide)) | exact Or.inl ⟨hT (by decide), rfl, rfl⟩
    | exact Or.inl ⟨hT (by decide), fun h => h⟩ | (refine Or.inl ⟨hT (by decide), ?_⟩)

theorem updQuery_follows {z : State} {T : List Field} {s : State} {id : Nat} {f : Query → Query} (hT : [.search] ⊆ T) (hz : z.follows T s) :
    z.follows T (updQuery s id f) := by
  unfold updQuery
  repeat' first
    | with_reducible exact List.Subset.trans (by decide) hT
    | intro _
    | with_reducible (first | assumption | apply ite_follows)
    | dsimp only | split
    | (simp only [follows_mk]; apply keeps_of) | with_reducible exact Or.inr rfl
    | exact Or.inl (hT (by decide)) | exact Or.inl ⟨hT (by decide), rfl, rfl⟩
    | exact Or.inl ⟨hT (by decide), fun h => h⟩ | (refine Or.inl ⟨hT (by decide), ?_⟩)

theorem mapQueries_follows {z : State} {T : List Field} {s : State} {f : Query → Query} (hT : [.search] ⊆ T) (hz : z.follows T s) :
    z.follows T (mapQueries s f) := by
  unfold mapQueries
  repeat' first
    | with_reducible exact List.Subset.trans (by decide) hT
    | intro _
    | with_reducible (first | assumption | apply ite_follows)
    | dsimp only | split
    | (simp only [follows_mk]; apply keeps_of) | with_reducible exact Or.inr rfl
    | exact Or.inl (hT (by decide)) | exact Or.inl ⟨hT (by decide), rfl, rfl⟩
    | exact Or.inl ⟨hT (by decide), fun h => h⟩ | (refine Or.inl ⟨hT (by decide), ?_⟩)

theorem updFacet_follows {z : State} {T : List Field} {s : State} {f : Nat} {g : Facet → Facet} (hT : [.facets] ⊆ T) (hz : z.follows T s) :
    z.follows T (updFacet s f g) := by
  unfold updFacet
  repeat' first
    | with_reducible exact List.Subset.trans (by decide) hT
    | intro _
    | with_reducible (first | assumption | apply ite_follows)
    | dsimp only | split
    | (simp only [follows_mk]; apply keeps_of) | with_reducible exact Or.inr rfl
    | exact Or.inl (hT (by decide)) | exact Or.inl ⟨hT (by decide), rfl, rfl⟩
    | exact Or.inl ⟨hT (by decide), fun h => h⟩ | (refine Or.inl ⟨hT (by decide), ?_⟩)

theorem extendMeas_follows {z : State} {T : List Field} {s : State} {i : Nat} {d : BitVec 256} (hT : [.locket] ⊆ T) (hz : z.follows T s) :
    z.follows T (extendMeas s i d) := by
  unfold extendMeas
  repeat' first
    | with_reducible exact List.Subset.trans (by decide) hT
    | intro _
    | with_reducible (first | assumption | apply ite_follows)
    | dsimp only | split
    | (simp only [follows_mk]; apply keeps_of) | with_reducible exact Or.inr rfl
    | exact Or.inl (hT (by decide)) | exact Or.inl ⟨hT (by decide), rfl, rfl⟩
    | exact Or.inl ⟨hT (by decide), fun h => h⟩ | (refine Or.inl ⟨hT (by decide), ?_⟩)

theorem updStream_follows {z : State} {T : List Field} {s : State} {sid : Nat} {f : Stream → Stream} (hT : [.streams] ⊆ T) (hz : z.follows T s) :
    z.follows T (updStream s sid f) := by
  unfold updStream
  repeat' first
    | with_reducible exact List.Subset.trans (by decide) hT
    | intro _
    | with_reducible (first | assumption | apply modStreams_follows | apply ite_follows)
    | dsimp only | split

theorem updTask_follows {z : State} {T : List Field} {s : State} {tid : Nat} {f : Task → Task} (hT : [.streams] ⊆ T) (hz : z.follows T s) :
    z.follows T (updTask s tid f) := by
  unfold updTask
  repeat' first
    | with_reducible exact List.Subset.trans (by decide) hT
    | intro _
    | with_reducible (first | assumption | apply modStreams_follows | apply ite_follows)
    | dsimp only | split

theorem reap_follows {z : State} {T : List Field} {s : State} (hT : [.streams] ⊆ T) (hz : z.follows T s) :
    z.follows T (reap s) := by
  unfold reap
  repeat' first
    | with_reducible exact List.Subset.trans (by decide) hT
    | intro _
    | with_reducible (first | assumption | apply modStreams_follows | apply ite_follows)
    | dsimp only | split

theorem settleRings_follows {z : State} {T : List Field} {s : State} (hT : [.streams] ⊆ T) (hz : z.follows T s) :
    z.follows T (settleRings s) := by
  unfold settleRings
  repeat' first
    | with_reducible exact List.Subset.trans (by decide) hT
    | intro _
    | with_reducible (first | assumption | apply modStreams_follows | apply reap_follows | apply ite_follows)
    | dsimp only | split

theorem stopStreams_follows {z : State} {T : List Field} {s : State} {p : Stream → Bool} (hT : [.out, .host, .events, .counters, .streams] ⊆ T) (hz : z.follows T s) :
    z.follows T (stopStreams s p) := by
  unfold stopStreams
  repeat' first
    | with_reducible exact List.Subset.trans (by decide) hT
    | intro _
    | with_reducible (first | assumption | apply modStreams_follows | apply bumpN_follows
                            | apply settleRings_follows | apply ite_follows)
    | dsimp only | split

theorem cancelTasks_follows {z : State} {T : List Field} {s : State} {p : Task → Bool} (hT : [.out, .host, .events, .counters, .streams] ⊆ T) (hz : z.follows T s) :
    z.follows T (cancelTasks s p) := by
  unfold cancelTasks
  repeat' first
    | with_reducible exact List.Subset.trans (by decide) hT
    | intro _
    | with_reducible (first | assumption | apply modStreams_follows | apply stopStreams_follows | apply ite_follows)
    | dsimp only | split

theorem updRun_follows {z : State} {T : List Field} {s : State} {id : Nat} {f : Run → Run} (hT : [.learn] ⊆ T) (hz : z.follows T s) :
    z.follows T (updRun s id f) := by
  unfold updRun
  repeat' first
    | with_reducible exact List.Subset.trans (by decide) hT
    | intro _
    | with_reducible (first | assumption | apply modLearn_follows | apply ite_follows)
    | dsimp only | split

theorem ownerAborted_follows {z : State} {T : List Field} {cause : Nat} {s : State} {t : Task} (hT : [.out, .host, .queues, .events, .counters, .flash, .colls, .pools, .search, .learn] ⊆ T) (hz : z.follows T s) :
    z.follows T (ownerAborted cause s t) := by
  unfold ownerAborted
  repeat' first
    | with_reducible exact List.Subset.trans (by decide) hT
    | intro _
    | with_reducible (first | assumption | apply bump_follows | apply mapQueries_follows | apply refuse_follows
                            | apply updColl_follows | apply updRun_follows | apply ite_follows)
    | dsimp only | split

theorem readsLost_follows {z : State} {T : List Field} {hot : Bool} {s : State} {t : Task} (hT : [.out, .host, .queues, .events, .counters, .flash, .colls, .pools, .search, .learn] ⊆ T) (hz : z.follows T s) :
    z.follows T (readsLost hot s t) := by
  unfold readsLost
  repeat' first
    | with_reducible exact List.Subset.trans (by decide) hT
    | intro _
    | with_reducible (first | assumption | apply bumpN_follows | apply mapQueries_follows
                            | apply ownerAborted_follows | apply foldl_follows | apply ite_follows)
    | dsimp only | split

theorem abortTask_follows {z : State} {T : List Field} {s : State} {tid : Nat} (hT : [.out, .host, .queues, .events, .counters, .flash, .colls, .pools, .streams, .search, .learn] ⊆ T) (hz : z.follows T s) :
    z.follows T (abortTask s tid) := by
  unfold abortTask
  repeat' first
    | with_reducible exact List.Subset.trans (by decide) hT
    | intro _
    | with_reducible (first | assumption | apply bump_follows | apply cancelTasks_follows
                            | apply ownerAborted_follows | apply stopStreams_follows | apply updTask_follows
                            | apply ite_follows)
    | dsimp only | split

theorem setChan_follows {z : State} {T : List Field} {s : State} {ch : Nat} {v : HbmChan} (hT : [.hbm] ⊆ T) (hz : z.follows T s) :
    z.follows T (setChan s ch v) := by
  unfold setChan
  repeat' first
    | with_reducible exact List.Subset.trans (by decide) hT
    | intro _
    | with_reducible (first | assumption | apply modHbm_follows | apply ite_follows)
    | dsimp only | split

theorem updChan_follows {z : State} {T : List Field} {s : State} {ch : Nat} {f : HbmChan → HbmChan} (hT : [.hbm] ⊆ T) (hz : z.follows T s) :
    z.follows T (updChan s ch f) := by
  unfold updChan
  repeat' first
    | with_reducible exact List.Subset.trans (by decide) hT
    | intro _
    | with_reducible (first | assumption | apply setChan_follows | apply ite_follows)
    | dsimp only | split

theorem countBlockRead_follows {z : State} {T : List Field} {s : State} {coll page : Nat} (hT : [.flash] ⊆ T) (hz : z.follows T s) :
    z.follows T (countBlockRead s coll page) := by
  unfold countBlockRead
  repeat' first
    | with_reducible exact List.Subset.trans (by decide) hT
    | intro _
    | with_reducible (first | assumption | apply modFlash_follows | apply ite_follows)
    | dsimp only | split

theorem programUnit_follows {z : State} {T : List Field} {s : State} {coll page chan block : Nat} (hT : [.flash] ⊆ T) (hz : z.follows T s) :
    z.follows T (programUnit s coll page chan block) := by
  unfold programUnit
  repeat' first
    | with_reducible exact List.Subset.trans (by decide) hT
    | intro _
    | with_reducible (first | assumption | apply modFlash_follows | apply ite_follows)
    | dsimp only | split

theorem placeFree_follows {z : State} {T : List Field} {coll : Nat} {s : State} {page : Nat} (hT : [.free, .flash] ⊆ T) (hz : z.follows T s) :
    z.follows T (placeFree coll s page) := by
  unfold placeFree
  repeat' first
    | with_reducible exact List.Subset.trans (by decide) hT
    | intro _
    | with_reducible (first | assumption | apply drawNat_follows | apply programUnit_follows | apply ite_follows)
    | dsimp only | split

theorem beginDetach_follows {z : State} {T : List Field} {s : State} {id : Nat} {work : Option (CmdRef × Bool)} (hT : [.colls] ⊆ T) (hz : z.follows T s) :
    z.follows T (beginDetach s id work) := by
  unfold beginDetach
  repeat' first
    | with_reducible exact List.Subset.trans (by decide) hT
    | intro _
    | with_reducible (first | assumption | apply updColl_follows | apply ite_follows)
    | dsimp only | split

theorem releaseTiers_follows {z : State} {T : List Field} {s : State} {c : Coll} (hT : [.pools] ⊆ T) (hz : z.follows T s) :
    z.follows T (releaseTiers s c) := by
  unfold releaseTiers
  repeat' first
    | with_reducible exact List.Subset.trans (by decide) hT
    | intro _
    | with_reducible (first | assumption | apply modPools_follows | apply ite_follows)
    | dsimp only | split

theorem dropChans_follows {z : State} {T : List Field} {s : State} {chs : List Nat} {hot : Bool} (hT : [.colls] ⊆ T) (hz : z.follows T s) :
    z.follows T (dropChans s chs hot) := by
  unfold dropChans
  repeat' first
    | with_reducible exact List.Subset.trans (by decide) hT
    | intro _
    | with_reducible (first | assumption | apply mapColls_follows | apply foldl_follows | apply ite_follows)
    | dsimp only | split

theorem mapSlots_follows {z : State} {T : List Field} {s : State} {p : Stream → Slot → Bool} {f : Stream → Slot → Slot} (hT : [.streams] ⊆ T) (hz : z.follows T s) :
    z.follows T (mapSlots s p f) := by
  unfold mapSlots
  repeat' first
    | with_reducible exact List.Subset.trans (by decide) hT
    | intro _
    | with_reducible (first | assumption | apply modStreams_follows | apply ite_follows)
    | dsimp only | split

theorem discardReads_follows {z : State} {T : List Field} {s : State} {chs : List Nat} {hot : Bool} (hT : [.out, .host, .queues, .events, .counters, .flash, .colls, .pools, .streams, .search, .learn] ⊆ T) (hz : z.follows T s) :
    z.follows T (discardReads s chs hot) := by
  unfold discardReads
  repeat' first
    | with_reducible exact List.Subset.trans (by decide) hT
    | intro _
    | with_reducible (first | assumption | apply bumpN_follows | apply cancelTasks_follows | apply mapSlots_follows
                            | apply readsLost_follows | apply foldl_follows | apply ite_follows)
    | dsimp only | split

theorem withdrawColl_follows {z : State} {T : List Field} {s : State} {id keep : Nat} (hT : [.out, .host, .events, .counters, .colls] ⊆ T) (hz : z.follows T s) :
    z.follows T (withdrawColl s id keep) := by
  unfold withdrawColl
  repeat' first
    | with_reducible exact List.Subset.trans (by decide) hT
    | intro _
    | with_reducible (first | assumption | apply raiseEvent_follows | apply setColl_follows | apply ite_follows)
    | dsimp only | split

theorem withdrawSet_follows {z : State} {T : List Field} {s : State} {k : Nat} (hT : [.out, .host, .events, .counters, .colls, .pools] ⊆ T) (hz : z.follows T s) :
    z.follows T (withdrawSet s k) := by
  unfold withdrawSet
  repeat' first
    | with_reducible exact List.Subset.trans (by decide) hT
    | intro _
    | with_reducible (first | assumption | apply beginDetach_follows | apply raiseEvent_follows
                            | apply releaseTiers_follows | apply withdrawColl_follows | apply foldl_follows
                            | apply ite_follows)
    | dsimp only | split

theorem mapOutCore_follows {z : State} {T : List Field} {s : State} {chs : List Nat} {fault : Bool} {hot : Bool} (hT : [.out, .host, .queues, .events, .counters, .hbm, .flash, .colls, .pools, .streams, .search, .learn] ⊆ T) (hz : z.follows T s) :
    z.follows T (mapOutCore s chs fault hot) := by
  unfold mapOutCore
  repeat' first
    | with_reducible exact List.Subset.trans (by decide) hT
    | intro _
    | with_reducible (first | assumption | apply modFlash_follows | apply modHbm_follows | apply abortTask_follows
                            | apply discardReads_follows | apply dropChans_follows | apply settleRings_follows
                            | apply updChan_follows | apply withdrawSet_follows | apply foldl_follows
                            | apply ite_follows)
    | exact Memory.dropRanges_wf _ _ _ _ (by assumption)
    | dsimp only | split

theorem chanReturn_follows {z : State} {T : List Field} {s : State} {ch : Nat} (hT : [.hbm] ⊆ T) (hz : z.follows T s) :
    z.follows T (chanReturn s ch) := by
  unfold chanReturn
  repeat' first
    | with_reducible exact List.Subset.trans (by decide) hT
    | intro _
    | with_reducible (first | assumption | apply updChan_follows | apply ite_follows)
    | dsimp only | split

theorem ackEvents_follows {z : State} {T : List Field} {s : State} {conn : Nat} {p : EventRec → Bool} (hT : [.events] ⊆ T) (hz : z.follows T s) :
    z.follows T (ackEvents s conn p) := by
  unfold ackEvents
  simp only [follows_mk]
  apply keeps_of
  case h => exact hz
  case h_ev =>
    refine Or.inl ⟨hT (by decide), fun h => Nat.le_trans (List.length_filter_le _ _) ?_⟩
    rw [List.length_map]
    exact h
  all_goals exact Or.inr rfl

theorem dropObjects_follows {z : State} {T : List Field} {s : State} {p : OpenObj → Bool} (hT : [.queues, .loader] ⊆ T) (hz : z.follows T s) :
    z.follows T (dropObjects s p) := by
  unfold dropObjects
  repeat' first
    | with_reducible exact List.Subset.trans (by decide) hT
    | intro _
    | with_reducible (first | assumption | apply modLoader_follows | apply modQueues_follows | apply foldl_follows
                            | apply ite_follows)
    | dsimp only | split

theorem orphan_follows {z : State} {T : List Field} {s : State} {conn : Nat} (hT : [.host, .queues, .loader] ⊆ T) (hz : z.follows T s) :
    z.follows T (orphan s conn) := by
  unfold orphan
  repeat' first
    | with_reducible exact List.Subset.trans (by decide) hT
    | intro _
    | with_reducible (first | assumption | apply modHost_follows | apply modQueues_follows
                            | apply dropObjects_follows | apply ite_follows)
    | dsimp only | split

theorem failConn_follows {z : State} {T : List Field} {s : State} {id cause : Nat} (hT : [.out, .host, .queues, .events, .counters, .loader] ⊆ T) (hz : z.follows T s) :
    z.follows T (failConn s id cause) := by
  unfold failConn
  repeat' first
    | with_reducible exact List.Subset.trans (by decide) hT
    | intro _
    | with_reducible (first | assumption | apply modHost_follows | apply ackEvents_follows | apply bump_follows
                            | apply orphan_follows | apply raiseEvent_follows | apply setConn_follows
                            | apply ite_follows)
    | exact Nat.le_trans (Nat.sub_le _ _) (by assumption)
    | dsimp only | split

theorem resendKept_follows {z : State} {T : List Field} {id : Nat} {c : Conn} {s : State} {k : Kept} (hT : [.out, .host] ⊆ T) (hz : z.follows T s) :
    z.follows T (resendKept id c s k) := by
  unfold resendKept
  repeat' first
    | with_reducible exact List.Subset.trans (by decide) hT
    | intro _
    | with_reducible (first | assumption | apply emit_follows | apply sendSegs_follows | apply ite_follows)
    | dsimp only | split

theorem resendAll_follows {z : State} {T : List Field} {s : State} {id : Nat} {c : Conn} (hT : [.out, .host] ⊆ T) (hz : z.follows T s) :
    z.follows T (resendAll s id c) := by
  unfold resendAll
  repeat' first
    | with_reducible exact List.Subset.trans (by decide) hT
    | intro _
    | with_reducible (first | assumption | apply resendKept_follows | apply foldl_follows | apply ite_follows)
    | dsimp only | split

theorem moveConn_follows {z : State} {T : List Field} {s : State} {id : Nat} {a : BitVec 128} {u : Nat} (hT : [.out, .host, .events, .counters] ⊆ T) (hz : z.follows T s) :
    z.follows T (moveConn s id a u) := by
  unfold moveConn
  repeat' first
    | with_reducible exact List.Subset.trans (by decide) hT
    | intro _
    | with_reducible (first | assumption | apply bump_follows | apply resendAll_follows | apply setConn_follows
                            | apply ite_follows)
    | dsimp only | split

theorem portDownCore_follows {z : State} {T : List Field} {s : State} {p : Nat} (hT : [.out, .host, .queues, .events, .counters, .loader] ⊆ T) (hz : z.follows T s) :
    z.follows T (portDownCore s p) := by
  unfold portDownCore
  repeat' first
    | with_reducible exact List.Subset.trans (by decide) hT
    | intro _
    | with_reducible (first | assumption | apply failConn_follows | apply moveConn_follows
                            | apply raiseEvent_follows | apply updPort_follows | apply foldl_follows
                            | apply ite_follows)
    | dsimp only | split

theorem ackUpTo_follows {z : State} {T : List Field} {s : State} {id : Nat} {seq : BitVec 32} (hT : [.host, .events] ⊆ T) (hz : z.follows T s) :
    z.follows T (ackUpTo s id seq) := by
  unfold ackUpTo
  repeat' first
    | with_reducible exact List.Subset.trans (by decide) hT
    | intro _
    | with_reducible (first | assumption | apply modHost_follows | apply ackEvents_follows | apply setConn_follows
                            | apply ite_follows)
    | exact Nat.le_trans (Nat.sub_le _ _) (by assumption)
    | dsimp only | split

theorem updLink_follows {z : State} {T : List Field} {s : State} {l : Nat} {f : Link → Link} (hT : [.fabric] ⊆ T) (hz : z.follows T s) :
    z.follows T (updLink s l f) := by
  unfold updLink
  repeat' first
    | with_reducible exact List.Subset.trans (by decide) hT
    | intro _
    | with_reducible (first | assumption | apply modFabric_follows | apply ite_follows)
    | dsimp only | split

theorem sendFlit_follows {z : State} {T : List Field} {s : State} {l : Nat} {f : Flit} (hT : [.out, .fabric] ⊆ T) (hz : z.follows T s) :
    z.follows T (sendFlit s l f) := by
  unfold sendFlit
  repeat' first
    | with_reducible exact List.Subset.trans (by decide) hT
    | intro _
    | with_reducible (first | assumption | apply emit_follows | apply updLink_follows | apply ite_follows)
    | dsimp only | split

theorem offerFlit_follows {z : State} {T : List Field} {l : Nat} {s : State} {f : Flit} (hT : [.out, .fabric] ⊆ T) (hz : z.follows T s) :
    z.follows T (offerFlit l s f) := by
  unfold offerFlit
  repeat' first
    | with_reducible exact List.Subset.trans (by decide) hT
    | intro _
    | with_reducible (first | assumption | apply sendFlit_follows | apply updLink_follows | apply ite_follows)
    | dsimp only | split

theorem drainWaitN_follows {z : State} {T : List Field} {l : Nat} (hT : [.out, .fabric] ⊆ T) (n : Nat) :
    ∀ s : State, z.follows T s → z.follows T (drainWaitN l n s) := by
  induction n with
  | zero => intro s hz; exact hz
  | succ n ih =>
    intro s hz
    unfold drainWaitN
    split
    · exact hz
    · exact ih _ (sendFlit_follows (List.Subset.trans (by decide) hT) (updLink_follows (List.Subset.trans (by decide) hT) hz))

theorem drainWait_follows {z : State} {T : List Field} {l : Nat} {s : State} (hT : [.out, .fabric] ⊆ T) (hz : z.follows T s) :
    z.follows T (drainWait l s) := by
  exact drainWaitN_follows hT _ _ hz

theorem sendOn_follows {z : State} {T : List Field} {s : State} {l buf : Nat} {h : MsgHdr} {b : MsgBody} (hT : [.out, .fabric] ⊆ T) (hz : z.follows T s) :
    z.follows T (sendOn s l buf h b) := by
  unfold sendOn
  repeat' first
    | with_reducible exact List.Subset.trans (by decide) hT
    | intro _
    | with_reducible (first | assumption | apply emit_follows | apply offerFlit_follows | apply foldl_follows
                            | apply ite_follows)
    | dsimp only | split

theorem forwardTo_follows {z : State} {T : List Field} {s : State} {here t : Nat} {m0 : MsgHdr} {b : MsgBody} (hT : [.out, .fabric] ⊆ T) (hz : z.follows T s) :
    z.follows T (forwardTo s here t m0 b) := by
  unfold forwardTo
  repeat' first
    | with_reducible exact List.Subset.trans (by decide) hT
    | intro _
    | with_reducible (first | assumption | apply sendOn_follows | apply ite_follows)
    | dsimp only | split

theorem nextHop_follows {z : State} {T : List Field} {s : State} {m0 : MsgHdr} {b : MsgBody} (hT : [.out, .host, .events, .counters, .fabric] ⊆ T) (hz : z.follows T s) :
    z.follows T (nextHop s m0 b) := by
  unfold nextHop
  repeat' first
    | with_reducible exact List.Subset.trans (by decide) hT
    | intro _
    | with_reducible (first | assumption | apply bump_follows | apply forwardTo_follows | apply ite_follows)
    | dsimp only | split

theorem flood_follows {z : State} {T : List Field} {s : State} {n : Notice} {repair : Bool} {from_ : Option Nat} (hT : [.out, .fabric] ⊆ T) (hz : z.follows T s) :
    z.follows T (flood s n repair from_) := by
  unfold flood
  repeat' first
    | with_reducible exact List.Subset.trans (by decide) hT
    | intro _
    | with_reducible (first | assumption | apply sendOn_follows | apply foldl_follows | apply ite_follows)
    | dsimp only | split

theorem originate_follows {z : State} {T : List Field} {s : State} {e : Elem} {repair : Bool} (hT : [.out, .fabric] ⊆ T) (hz : z.follows T s) :
    z.follows T (originate s e repair) := by
  unfold originate
  repeat' first
    | with_reducible exact List.Subset.trans (by decide) hT
    | intro _
    | with_reducible (first | assumption | apply modFabric_follows | apply flood_follows | apply ite_follows)
    | dsimp only | split

theorem reportFault_follows {z : State} {T : List Field} {s : State} {e : Elem} (hT : [.out, .fabric] ⊆ T) (hz : z.follows T s) :
    z.follows T (reportFault s e) := by
  unfold reportFault
  repeat' first
    | with_reducible exact List.Subset.trans (by decide) hT
    | intro _
    | with_reducible (first | assumption | apply originate_follows | apply ite_follows)
    | dsimp only | split

theorem linkDownCore_follows {z : State} {T : List Field} {s : State} {l : Nat} (hT : [.out, .fabric] ⊆ T) (hz : z.follows T s) :
    z.follows T (linkDownCore s l) := by
  unfold linkDownCore
  repeat' first
    | with_reducible exact List.Subset.trans (by decide) hT
    | intro _
    | with_reducible (first | assumption | apply reportFault_follows | apply updLink_follows | apply ite_follows)
    | dsimp only | split

theorem updCol_follows {z : State} {T : List Field} {s : State} {c : Nat} {f : Collector → Collector} (hT : [.collectors] ⊆ T) (hz : z.follows T s) :
    z.follows T (updCol s c f) := by
  unfold updCol
  repeat' first
    | with_reducible exact List.Subset.trans (by decide) hT
    | intro _
    | with_reducible (first | assumption | apply ite_follows)
    | dsimp only | split
    | (simp only [follows_mk]; apply keeps_of) | with_reducible exact Or.inr rfl
    | exact Or.inl (hT (by decide)) | exact Or.inl ⟨hT (by decide), rfl, rfl⟩
    | exact Or.inl ⟨hT (by decide), fun h => h⟩ | (refine Or.inl ⟨hT (by decide), ?_⟩)

theorem freshReactions_follows {z : State} {T : List Field} {s : State} (hT : [.collectors] ⊆ T) (hz : z.follows T s) :
    z.follows T (freshReactions s) := by
  unfold freshReactions
  repeat' first
    | with_reducible exact List.Subset.trans (by decide) hT
    | intro _
    | with_reducible (first | assumption | apply ite_follows)
    | dsimp only | split
    | (simp only [follows_mk]; apply keeps_of) | with_reducible exact Or.inr rfl
    | exact Or.inl (hT (by decide)) | exact Or.inl ⟨hT (by decide), rfl, rfl⟩
    | exact Or.inl ⟨hT (by decide), fun h => h⟩ | (refine Or.inl ⟨hT (by decide), ?_⟩)

theorem dropPins_follows {z : State} {T : List Field} {s : State} {col : Nat} {mask : BitVec 64} (hT : [.collectors] ⊆ T) (hz : z.follows T s) :
    z.follows T (dropPins s col mask) := by
  unfold dropPins
  repeat' first
    | with_reducible exact List.Subset.trans (by decide) hT
    | intro _
    | with_reducible (first | assumption | apply updCol_follows | apply ite_follows)
    | dsimp only | split

theorem facetLost_follows {z : State} {T : List Field} {s : State} {f : Nat} (hT : [.out, .host, .queues, .events, .counters, .flash, .colls, .pools, .streams, .search, .learn] ⊆ T) (hz : z.follows T s) :
    z.follows T (facetLost s f) := by
  unfold facetLost
  repeat' first
    | with_reducible exact List.Subset.trans (by decide) hT
    | intro _
    | with_reducible (first | assumption | apply cancelTasks_follows | apply mapQueries_follows
                            | apply ownerAborted_follows | apply foldl_follows | apply ite_follows)
    | dsimp only | split

theorem fenceFacet_follows {z : State} {T : List Field} {s : State} {f reason : Nat} (hT : [.out, .host, .queues, .events, .counters, .loader, .facets, .flash, .colls, .pools, .streams, .search, .learn] ⊆ T) (hz : z.follows T s) :
    z.follows T (fenceFacet s f reason) := by
  unfold fenceFacet
  repeat' first
    | with_reducible exact List.Subset.trans (by decide) hT
    | intro _
    | with_reducible (first | assumption | apply modLoader_follows | apply facetLost_follows
                            | apply updFacet_follows | apply ite_follows)
    | dsimp only | split

theorem setBank_follows {z : State} {T : List Field} {s : State} {b : Nat} {v : Bank} (hT : [.near] ⊆ T) (hz : z.follows T s) :
    z.follows T (setBank s b v) := by
  unfold setBank
  repeat' first
    | with_reducible exact List.Subset.trans (by decide) hT
    | intro _
    | with_reducible (first | assumption | apply modNear_follows | apply ite_follows)
    | dsimp only | split

theorem fenceBank_follows {z : State} {T : List Field} {s : State} {b : Nat} (hT : [.out, .host, .events, .counters, .near, .colls, .streams] ⊆ T) (hz : z.follows T s) :
    z.follows T (fenceBank s b) := by
  unfold fenceBank
  repeat' first
    | with_reducible exact List.Subset.trans (by decide) hT
    | intro _
    | with_reducible (first | assumption | apply bumpN_follows | apply mapColls_follows | apply mapSlots_follows
                            | apply setBank_follows | apply settleRings_follows | apply ite_follows)
    | dsimp only | split

theorem fenceDie_follows {z : State} {T : List Field} {s : State} {d : Nat} (hT : [.out, .host, .queues, .events, .counters, .loader, .facets, .flash, .colls, .pools, .streams, .search, .learn] ⊆ T) (hz : z.follows T s) :
    z.follows T (fenceDie s d) := by
  unfold fenceDie
  repeat' first
    | with_reducible exact List.Subset.trans (by decide) hT
    | intro _
    | with_reducible (first | assumption | apply fenceFacet_follows | apply updFacet_follows | apply foldl_follows
                            | apply ite_follows)
    | dsimp only | split

theorem updFlashCh_follows {z : State} {T : List Field} {s : State} {c : Nat} {f : FlashCh → FlashCh} (hT : [.flash] ⊆ T) (hz : z.follows T s) :
    z.follows T (updFlashCh s c f) := by
  unfold updFlashCh
  repeat' first
    | with_reducible exact List.Subset.trans (by decide) hT
    | intro _
    | with_reducible (first | assumption | apply modFlash_follows | apply ite_follows)
    | dsimp only | split

theorem bypassCore_follows {z : State} {T : List Field} {s : State} {c : Nat} (hT : [.flash] ⊆ T) (hz : z.follows T s) :
    z.follows T (bypassCore s c) := by
  unfold bypassCore
  repeat' first
    | with_reducible exact List.Subset.trans (by decide) hT
    | intro _
    | with_reducible (first | assumption | apply updFlashCh_follows | apply ite_follows)
    | dsimp only | split

theorem coreOut_follows {z : State} {T : List Field} {s : State} {isA : Bool} (hT : [.cores] ⊆ T) (hz : z.follows T s) :
    z.follows T (coreOut s isA) := by
  unfold coreOut
  repeat' first
    | with_reducible exact List.Subset.trans (by decide) hT
    | intro _
    | with_reducible (first | assumption | apply modCores_follows | apply ite_follows)
    | dsimp only | split

theorem fenceUnit_follows {z : State} {T : List Field} {raise : State → Nat → Nat → State} {s : State} {u : UnitName}
    (hT : Field.but [.free, .time, .power, .locket, .facetRam, .collectors, .board] ⊆ T)
    (hr : ∀ t a b, z.follows T t → z.follows T (raise t a b)) (hz : z.follows T s) : z.follows T (fenceUnit raise s u) := by
  unfold fenceUnit
  repeat' first
    | with_reducible exact List.Subset.trans (by decide) hT
    | intro _
    | with_reducible (first | assumption | apply hr | apply modSearch_follows | apply bypassCore_follows
                            | apply coreOut_follows | apply fenceBank_follows | apply fenceDie_follows
                            | apply fenceFacet_follows | apply linkDownCore_follows | apply mapOutCore_follows
                            | apply portDownCore_follows | apply updFlashCh_follows | apply foldl_follows
                            | apply ite_follows)
    | dsimp only | split

theorem interrupt_follows {z : State} {T : List Field} {s : State} {toA : Bool} {col src : Nat} {nmi : Bool} (hT : [.cores] ⊆ T) (hz : z.follows T s) :
    z.follows T (interrupt s toA col src nmi) := by
  unfold interrupt
  repeat' first
    | with_reducible exact List.Subset.trans (by decide) hT
    | intro _
    | with_reducible (first | assumption | apply modCores_follows | apply ite_follows)
    | dsimp only | split

theorem startBlockReset_follows {z : State} {T : List Field} {s : State} {u : UnitName} (hT : [.facets] ⊆ T)
    (hz : z.follows T s) : z.follows T (startBlockReset s u) := by
  cases u <;> first | exact hz | exact updFacet_follows (List.Subset.trans (by decide) hT) hz

theorem raiseN_follows {z : State} {T : List Field} (hT : Field.but [.free, .time, .locket, .facetRam, .board] ⊆ T) (n : Nat) :
    ∀ {s : State} {col : Nat} {m : BitVec 64} {acc : Access} {u : UnitName},
    z.follows T s → z.follows T (raiseN n s col m acc u) := by
  induction n with
  | zero => intro s _ _ _ _ hz; exact hz
  | succ n ih =>
    intro s col m acc u hz
    unfold raiseN
    repeat' first
      | with_reducible exact List.Subset.trans (by decide) hT
      | intro _
      | with_reducible (first | assumption | apply ih | apply fenceUnit_follows | apply modPower_follows
                              | apply bumpN_follows | apply updCol_follows | apply interrupt_follows
                              | apply startBlockReset_follows | apply foldl_follows | apply ite_follows)
      | dsimp only | split

theorem raiseMask_follows {z : State} {T : List Field} {s : State} {col : Nat} {mask : BitVec 64} {acc : Access} {u : UnitName} (hT : Field.but [.free, .time, .locket, .facetRam, .board] ⊆ T) (hz : z.follows T s) :
    z.follows T (raiseMask s col mask acc u) := by
  unfold raiseMask
  repeat' first
    | with_reducible exact List.Subset.trans (by decide) hT
    | intro _
    | with_reducible (first | assumption | apply raiseN_follows | apply ite_follows)
    | dsimp only | split

theorem raiseSrc_follows {z : State} {T : List Field} {s : State} {col src : Nat} {u : UnitName} (hT : Field.but [.free, .time, .locket, .facetRam, .board] ⊆ T) (hz : z.follows T s) :
    z.follows T (raiseSrc s col src u) := by
  unfold raiseSrc
  repeat' first
    | with_reducible exact List.Subset.trans (by decide) hT
    | intro _
    | with_reducible (first | assumption | apply raiseMask_follows | apply ite_follows)
    | dsimp only | split

theorem streamSkew_follows {z : State} {T : List Field} {s : State} {r : Stream} (hT : Field.but [.free, .time, .locket, .facetRam, .board] ⊆ T) (hz : z.follows T s) :
    z.follows T (streamSkew s r) := by
  unfold streamSkew
  repeat' first
    | with_reducible exact List.Subset.trans (by decide) hT
    | intro _
    | with_reducible (first | assumption | apply abortTask_follows | apply raiseSrc_follows | apply ite_follows)
    | dsimp only | split

theorem skewOf_follows {z : State} {T : List Field} {s : State} {p : Task → Bool} {sid : Nat} (hT : Field.but [.free, .time, .locket, .facetRam, .board] ⊆ T) (hz : z.follows T s) :
    z.follows T (skewOf s p sid) := by
  unfold skewOf
  repeat' first
    | with_reducible exact List.Subset.trans (by decide) hT
    | intro _
    | with_reducible (first | assumption | apply abortTask_follows | apply streamSkew_follows | apply ite_follows)
    | dsimp only | split

theorem raiseCond_follows {z : State} {T : List Field} {s : State} {col src : Nat} {u : UnitName} (hT : Field.but [.free, .time, .locket, .facetRam, .board] ⊆ T) (hz : z.follows T s) :
    z.follows T (raiseCond s col src u) := by
  unfold raiseCond
  repeat' first
    | with_reducible exact List.Subset.trans (by decide) hT
    | intro _
    | with_reducible (first | assumption | apply raiseSrc_follows | apply ite_follows)
    | dsimp only | split

theorem raiseAcc_follows {z : State} {T : List Field} {s : State} {col src : Nat} {acc : Access} {u : UnitName} (hT : Field.but [.free, .time, .locket, .facetRam, .board] ⊆ T) (hz : z.follows T s) :
    z.follows T (raiseAcc s col src acc u) := by
  unfold raiseAcc
  repeat' first
    | with_reducible exact List.Subset.trans (by decide) hT
    | intro _
    | with_reducible (first | assumption | apply raiseMask_follows | apply ite_follows)
    | dsimp only | split

theorem clearStatus_follows {z : State} {T : List Field} {s : State} {col : Nat} {mask : BitVec 64} (hT : [.collectors] ⊆ T) (hz : z.follows T s) :
    z.follows T (clearStatus s col mask) := by
  unfold clearStatus
  repeat' first
    | with_reducible exact List.Subset.trans (by decide) hT
    | intro _
    | with_reducible (first | assumption | apply updCol_follows | apply foldl_follows | apply ite_follows)
    | dsimp only | split

theorem raiseStreamFaults_follows {z : State} {T : List Field} {s : State} {dies : List Nat} (hT : Field.but [.free, .time, .locket, .facetRam, .board] ⊆ T) (hz : z.follows T s) :
    z.follows T (raiseStreamFaults s dies) := by
  unfold raiseStreamFaults
  repeat' first
    | with_reducible exact List.Subset.trans (by decide) hT
    | intro _
    | with_reducible (first | assumption | apply raiseSrc_follows | apply foldl_follows | apply ite_follows)
    | dsimp only | split

theorem streamFault_follows {z : State} {T : List Field} {s : State} {sid : Nat} (hT : Field.but [.free, .time, .locket, .facetRam, .board] ⊆ T) (hz : z.follows T s) :
    z.follows T (streamFault s sid) := by
  unfold streamFault
  repeat' first
    | with_reducible exact List.Subset.trans (by decide) hT
    | intro _
    | with_reducible (first | assumption | apply abortTask_follows | apply raiseStreamFaults_follows
                            | apply ite_follows)
    | dsimp only | split

theorem mapOut_follows {z : State} {T : List Field} {s : State} {ch : Nat} {fault : Bool} (hT : Field.but [.free, .time, .locket, .facetRam, .board] ⊆ T) (hz : z.follows T s) :
    z.follows T (mapOut s ch fault) := by
  unfold mapOut
  repeat' first
    | with_reducible exact List.Subset.trans (by decide) hT
    | intro _
    | with_reducible (first | assumption | apply mapOutCore_follows | apply raiseSrc_follows
                            | apply raiseStreamFaults_follows | apply ite_follows)
    | dsimp only | split

theorem linkDown_follows {z : State} {T : List Field} {s : State} {l : Nat} (hT : Field.but [.free, .time, .locket, .facetRam, .board] ⊆ T) (hz : z.follows T s) :
    z.follows T (linkDown s l) := by
  unfold linkDown
  repeat' first
    | with_reducible exact List.Subset.trans (by decide) hT
    | intro _
    | with_reducible (first | assumption | apply linkDownCore_follows | apply raiseSrc_follows | apply ite_follows)
    | dsimp only | split

theorem portDown_follows {z : State} {T : List Field} {s : State} {p : Nat} (hT : Field.but [.free, .time, .locket, .facetRam, .board] ⊆ T) (hz : z.follows T s) :
    z.follows T (portDown s p) := by
  unfold portDown
  repeat' first
    | with_reducible exact List.Subset.trans (by decide) hT
    | intro _
    | with_reducible (first | assumption | apply portDownCore_follows | apply raiseSrc_follows | apply ite_follows)
    | dsimp only | split

theorem stepTwo_follows {z : State} {T : List Field} {s : State} (hT : [.free, .power, .locket, .host] ⊆ T) (hz : z.follows T s) :
    z.follows T (stepTwo s) := by
  unfold stepTwo
  repeat' first
    | with_reducible exact List.Subset.trans (by decide) hT
    | intro _
    | with_reducible (first | assumption | apply modPower_follows | apply drawNat_follows | apply extendMeas_follows
                            | apply ite_follows)
    | dsimp only | split
    | (simp only [follows_mk]; apply keeps_of) | with_reducible exact Or.inr rfl
    | exact Or.inl (hT (by decide)) | exact Or.inl ⟨hT (by decide), rfl, rfl⟩
    | exact Or.inl ⟨hT (by decide), fun h => h⟩ | (refine Or.inl ⟨hT (by decide), ?_⟩)

theorem loseVolatile_follows {z : State} {T : List Field} {s : State} (hT : Field.but [.out, .free, .board] ⊆ T) (hz : z.follows T s) :
    z.follows T (loseVolatile s) := by
  refine ⟨hz.queue, fun p hp => ?_, hz.fuses, hz.agree, fun _ => rfl, fun _ => ?_⟩
  · have key : p = .out ∨ p = .free ∨ p = .board ∨ p ∈ T := by
      by_cases h : p ∈ Field.but [.out, .free, .board]
      · exact Or.inr (Or.inr (Or.inr (hT h)))
      · cases p <;> first | exact absurd (by decide) h | simp
    rcases key with rfl | rfl | rfl | h
    · exact hz.frame .out hp
    · exact hz.frame .free hp
    · exact hz.frame .board hp
    · exact absurd h hp
  · exact (by decide : ([] : List EventRec).length ≤ 512 ∧ 0 ≤ 2 ^ 30 ∧ ∀ c ∈ ([] : Tab EvCounter), c.2.val ≤ 2 ^ 48 - 1)

theorem restart_follows {z : State} {T : List Field} {s : State} (hT : Field.but [.out, .board] ⊆ T) (hz : z.follows T s) :
    z.follows T (restart s) := by
  unfold restart
  repeat' first
    | with_reducible exact List.Subset.trans (by decide) hT
    | intro _
    | with_reducible (first | assumption | apply modPower_follows | apply loseVolatile_follows
                            | apply stepTwo_follows | apply ite_follows)
    | dsimp only | split

theorem powerDown_follows {z : State} {T : List Field} {s : State} (hT : Field.but [.free, .board] ⊆ T) (hz : z.follows T s) :
    z.follows T (powerDown s) := by
  unfold powerDown
  repeat' first
    | with_reducible exact List.Subset.trans (by decide) hT
    | intro _
    | with_reducible (first | assumption | apply modPower_follows | apply emit_follows | apply loseVolatile_follows
                            | apply ite_follows)
    | dsimp only | split

theorem moduleResetNow_follows {z : State} {T : List Field} {s : State} (hT : Field.but [.out, .board] ⊆ T) (hz : z.follows T s) :
    z.follows T (moduleResetNow s) := by
  unfold moduleResetNow
  repeat' first
    | with_reducible exact List.Subset.trans (by decide) hT
    | intro _
    | with_reducible (first | assumption | apply modPower_follows | apply restart_follows | apply ite_follows)
    | dsimp only | split

theorem abandonPrep_follows {z : State} {T : List Field} {s : State} (hT : [.out, .power, .host, .queues, .events, .counters, .flash, .pools] ⊆ T) (hz : z.follows T s) :
    z.follows T (abandonPrep s) := by
  unfold abandonPrep
  repeat' first
    | with_reducible exact List.Subset.trans (by decide) hT
    | intro _
    | with_reducible (first | assumption | apply modPower_follows | apply refuse_follows | apply ite_follows)
    | dsimp only | split

theorem startFlush_follows {z : State} {T : List Field} {s : State} (hT : [.out, .power, .host, .queues, .events, .counters, .flash, .pools, .streams] ⊆ T) (hz : z.follows T s) :
    z.follows T (startFlush s) := by
  unfold startFlush
  repeat' first
    | with_reducible exact List.Subset.trans (by decide) hT
    | intro _
    | with_reducible (first | assumption | apply modPower_follows | apply abandonPrep_follows
                            | apply cancelTasks_follows | apply raiseEvent_follows | apply refuse_follows
                            | apply foldl_follows | apply ite_follows)
    | dsimp only | split

theorem stopForFlush_follows {z : State} {T : List Field} {s : State} (hT : [.power] ⊆ T) (hz : z.follows T s) :
    z.follows T (stopForFlush s) := by
  unfold stopForFlush
  repeat' first
    | with_reducible exact List.Subset.trans (by decide) hT
    | intro _
    | with_reducible (first | assumption | apply modPower_follows | apply ite_follows)
    | dsimp only | split

theorem shutDown_follows {z : State} {T : List Field} {s : State} (hT : [.out, .power, .host, .queues, .events, .counters, .flash, .pools, .streams] ⊆ T) (hz : z.follows T s) :
    z.follows T (shutDown s) := by
  unfold shutDown
  repeat' first
    | with_reducible exact List.Subset.trans (by decide) hT
    | intro _
    | with_reducible (first | assumption | apply startFlush_follows | apply stopForFlush_follows | apply ite_follows)
    | dsimp only | split

theorem drainAll_follows {z : State} {T : List Field} {s : State} (hT : [.free, .flash] ⊆ T) (hz : z.follows T s) :
    z.follows T (drainAll s) := by
  unfold drainAll
  repeat' first
    | with_reducible exact List.Subset.trans (by decide) hT
    | intro _
    | with_reducible (first | assumption | apply modFlash_follows | apply placeFree_follows | apply foldl_follows
                            | apply ite_follows)
    | dsimp only | split

theorem flushDone_follows {z : State} {T : List Field} {s : State} (hT : Field.but [.board] ⊆ T) (hz : z.follows T s) :
    z.follows T (flushDone s) := by
  unfold flushDone
  repeat' first
    | with_reducible exact List.Subset.trans (by decide) hT
    | intro _
    | with_reducible (first | assumption | apply modPower_follows | apply drainAll_follows | apply powerDown_follows
                            | apply restart_follows | apply ite_follows)
    | dsimp only | split

theorem shedEvent_follows {z : State} {T : List Field} {s : State} {step dir : Nat} (hT : [.out, .host, .events, .counters] ⊆ T) (hz : z.follows T s) :
    z.follows T (shedEvent s step dir) := by
  unfold shedEvent
  repeat' first
    | with_reducible exact List.Subset.trans (by decide) hT
    | intro _
    | with_reducible (first | assumption | apply raiseEvent_follows | apply ite_follows)
    | dsimp only | split

theorem enterSteps_follows {z : State} {T : List Field} {s : State} {target dir : Nat} (hT : [.out, .power, .host, .queues, .events, .counters, .flash, .pools, .streams] ⊆ T) (hz : z.follows T s) :
    z.follows T (enterSteps s target dir) := by
  unfold enterSteps
  repeat' first
    | with_reducible exact List.Subset.trans (by decide) hT
    | intro _
    | with_reducible (first | assumption | apply modPower_follows | apply shedEvent_follows
                            | apply startFlush_follows | apply stopForFlush_follows | apply foldl_follows
                            | apply ite_follows)
    | dsimp only | split

theorem clearSteps_follows {z : State} {T : List Field} {s : State} (hT : [.out, .power, .host, .events, .counters] ⊆ T) (hz : z.follows T s) :
    z.follows T (clearSteps s) := by
  unfold clearSteps
  repeat' first
    | with_reducible exact List.Subset.trans (by decide) hT
    | intro _
    | with_reducible (first | assumption | apply modPower_follows | apply shedEvent_follows | apply foldl_follows
                            | apply ite_follows)
    | dsimp only | split

end Sys2Proof.Machine
end

