-- ==== Sys2Proof/Laws/Commands.lean ====
section
/-! SUPPORT. What a reply, an event and a counter do: what is sent, which connections stay live, and the commands that
remain. -/

namespace Sys2Proof.Machine

/-- Emitting puts a message first; numbering and keeping a message does not send. -/
theorem keepSent_out (s : State) (id : Nat) (c : Conn) (mgmt : Bool) (bs : List Byte) (ev : Option (BitVec 32)) :
    (keepSent s id c mgmt bs ev).2.out = s.out :=
  (keepSent_follows (T := [.host]) (by decide) (State.follows_refl _ s)).frame .out (by decide)

theorem deliverTo_out (bs : List Byte) (q : BitVec 32) (s : State) (id : Nat) : ∃ xs, (deliverTo bs q s id).out = xs ++ s.out := by
  unfold deliverTo
  split
  · exact ⟨[], rfl⟩
  · exact ⟨[_], congrArg _ (keepSent_out ..)⟩

theorem raiseEvent_out (s : State) (c : BitVec 16) (a : List Byte) : ∃ xs, (raiseEvent s c a).out = xs ++ s.out := by
  have fold : ∀ (bs : List Byte) (q : BitVec 32) (ids : List Nat) (t : State), ∃ xs, (ids.foldl (deliverTo bs q) t).out = xs ++ t.out := by
    intro bs q ids
    induction ids with
    | nil => intro t; exact ⟨[], rfl⟩
    | cons i r ih =>
      intro t
      obtain ⟨xs, h⟩ := ih (deliverTo bs q t i)
      obtain ⟨ys, g⟩ := deliverTo_out bs q t i
      exact ⟨xs ++ ys, by rw [List.foldl_cons, h, g, List.append_assoc]⟩
  have log : ∃ xs, (logEvent s c a).2.out = xs ++ s.out := by
    unfold logEvent
    split
    · obtain ⟨xs, h⟩ := fold (eventBytes s.events.nextSeq c (if (armedConns s c).isEmpty then 0 else s.events.lost) s.time.now a) s.events.nextSeq (armedConns s c) _
      exact ⟨xs, h⟩
    · exact ⟨[], rfl⟩
  unfold raiseEvent
  dsimp only
  split
  · exact log
  · exact log

theorem bumpN_out (s : State) (a n : Nat) : ∃ xs, (bumpN s a n).out = xs ++ s.out := by
  unfold bumpN
  split
  · exact ⟨[], rfl⟩
  · dsimp only
    split
    · obtain ⟨xs, h⟩ := raiseEvent_out (bumpQuiet s a n).2 0x0101 (leBytes 4 a)
      exact ⟨xs, h⟩
    · exact ⟨[], rfl⟩

theorem transmit_out (s : State) (r : CmdRef) (st : BitVec 16) (area : BitVec 320) (body : List Byte) (k : Conn)
    (h : getConn s r.conn = some k) (hf : k.failed = false) (hc : k.closed = false) :
    .reply r st area body ∈ (transmit s r st area body).out := by
  unfold transmit
  rw [h]
  dsimp only
  simp only [hf, hc, Bool.or_self, Bool.false_eq_true, if_false]
  split
  · exact List.mem_cons_self ..
  · obtain ⟨xs, e⟩ := bumpN_out (emit (keepSent s r.conn k k.admin (replyBytes r st area body) none).2 (.reply r st area body)) txUnheldCnt 1
    unfold bump
    rw [e]
    exact List.mem_append_right _ (List.mem_cons_self ..)

/-- Counting a reply leaves the commands that wait. -/
theorem countReply_cmds (s : State) (c : Cmd) (st : BitVec 16) : (countReply s c st).queues.cmds = s.queues.cmds := by
  have h : ∀ a, (bump s a).queues = s.queues := fun a =>
    (bump_follows (T := [.out, .host, .events, .counters]) (by decide) (State.follows_refl _ s)).frame .queues (by decide)
  unfold countReply countAdmit
  split
  · rw [h]
  · split
    · show (bump s queueAdmitCnt).queues.cmds = _
      rw [h]
    · rfl

theorem answer_cmds (s : State) (q t : Nat) (st : BitVec 16) (area : BitVec 320) (body : List Byte) :
    (answer s q t st area body).queues.cmds = s.queues.cmds.filter fun x => !sameCmd q t x := by
  unfold answer
  split
  · rename_i h
    symm
    rw [List.filter_eq_self]
    intro x hx
    have := List.find?_eq_none.mp h x hx
    simpa using this
  · rename_i c h
    dsimp only
    have h0 : ∀ u : State, (freeTag (closeOne (transmit u c.ref st area body) c.ref.conn) q t).queues.cmds = u.queues.cmds := by
      intro u
      have : u.follows [.out, .host, .events, .counters] (closeOne (transmit u c.ref st area body) c.ref.conn) :=
        closeOne_follows (by decide) (transmit_follows (by decide) (State.follows_refl _ _))
      have e := this.frame .queues (by decide)
      show (closeOne (transmit u c.ref st area body) c.ref.conn).queues.cmds = u.queues.cmds
      rw [show (closeOne (transmit u c.ref st area body) c.ref.conn).queues = u.queues from e]
    rw [h0, countReply_cmds]

theorem getConn_setConn (s : State) (a b : Nat) (v : Conn) :
    getConn (setConn s a v) b = if b = a then some v else getConn s b := by
  unfold getConn setConn
  split
  · subst b; exact Tab.get_put_same ..
  · exact Tab.get_put_other _ _ _ _ ‹_›

/-- Datagrams that leave change no connection. -/
theorem sendSegs_conn (s : State) (id : Nat) (c : Conn) (mgmt : Bool) (first : BitVec 32) (segs : List Seg) (j : Nat) :
    getConn (sendSegs s id c mgmt first segs) j = getConn s j := by
  unfold sendSegs
  generalize segs.zipIdx = xs
  induction xs generalizing s with
  | nil => rfl
  | cons x xs ih => exact (ih _).trans rfl

/-- Numbering and keeping what is sent leaves every connection as live as it was. -/
theorem keepSent_conn (s : State) (id : Nat) (c : Conn) (mgmt : Bool) (bs : List Byte) (ev : Option (BitVec 32))
    (h : getConn s id = some c) (j : Nat) :
    (getConn (keepSent s id c mgmt bs ev).2 j).map (fun k => (k.failed, k.closed)) =
      (getConn s j).map fun k => (k.failed, k.closed) := by
  unfold keepSent
  dsimp only
  split
  · show (getConn (setConn (sendSegs s id c mgmt c.txNext _) id _) j).map _ = _
    rw [getConn_setConn]
    split
    · subst j; rw [h]; rfl
    · rw [sendSegs_conn]
  · dsimp only
    rw [getConn_setConn]
    split
    · subst j; rw [h]; rfl
    · rw [sendSegs_conn]

theorem raiseEvent_conn (s : State) (c : BitVec 16) (a : List Byte) (j : Nat) :
    (getConn (raiseEvent s c a) j).map (fun k => (k.failed, k.closed)) = (getConn s j).map fun k => (k.failed, k.closed) := by
  have one : ∀ (bs : List Byte) (q : BitVec 32) (t : State) (id : Nat),
      (getConn (deliverTo bs q t id) j).map (fun k => (k.failed, k.closed)) = (getConn t j).map fun k => (k.failed, k.closed) := by
    intro bs q t id
    unfold deliverTo
    split
    · rfl
    · exact keepSent_conn t id _ _ _ _ ‹_› j
  have fold : ∀ (bs : List Byte) (q : BitVec 32) (ids : List Nat) (t : State),
      (getConn (ids.foldl (deliverTo bs q) t) j).map (fun k => (k.failed, k.closed)) = (getConn t j).map fun k => (k.failed, k.closed) := by
    intro bs q ids
    induction ids with
    | nil => intro t; rfl
    | cons i r ih => intro t; rw [List.foldl_cons, ih, one]
  have log : (getConn (logEvent s c a).2 j).map (fun k => (k.failed, k.closed)) = (getConn s j).map fun k => (k.failed, k.closed) := by
    unfold logEvent
    split
    · exact fold ..
    · rfl
  unfold raiseEvent
  dsimp only
  split
  · exact log
  · exact log

theorem bumpN_conn (s : State) (a n j : Nat) :
    (getConn (bumpN s a n) j).map (fun k => (k.failed, k.closed)) = (getConn s j).map fun k => (k.failed, k.closed) := by
  unfold bumpN
  split
  · rfl
  · dsimp only
    split
    · exact raiseEvent_conn ..
    · rfl

theorem transmit_live (s : State) (r : CmdRef) (st : BitVec 16) (area : BitVec 320) (body : List Byte) (h : s.live r.conn) :
    .reply r st area body ∈ (transmit s r st area body).out := by
  unfold State.live at h
  cases e : getConn s r.conn with
  | none => rw [e] at h; cases h
  | some k =>
    rw [e] at h
    simp only [Option.map_some, Option.some.injEq, Prod.mk.injEq] at h
    exact transmit_out s r st area body k e h.1 h.2

theorem countReply_conn (s : State) (c : Cmd) (st : BitVec 16) (j : Nat) :
    (getConn (countReply s c st) j).map (fun k => (k.failed, k.closed)) = (getConn s j).map fun k => (k.failed, k.closed) := by
  unfold countReply
  split
  · exact bumpN_conn ..
  · split
    · exact bumpN_conn ..
    · rfl

/-- What a reply does: it is sent where its connection is live. -/
theorem answer_sends (s : State) (q t : Nat) (st : BitVec 16) (area : BitVec 320) (body : List Byte) (c : Cmd)
    (hf : findCmd s q t = some c) (hl : s.live c.ref.conn) : .reply c.ref st area body ∈ (answer s q t st area body).out := by
  unfold answer
  rw [hf]
  dsimp only
  show _ ∈ (transmit (countReply s c st) c.ref st area body).out
  apply transmit_live
  unfold State.live at *
  rw [countReply_conn]
  exact hl

end Sys2Proof.Machine
end

