-- ==== Sys2Proof/Laws/FollowsBoard.lean ====
section
/-! SUPPORT. What the operations of power, service and locket commands may change: one lemma
`<operation>_follows` for each, to be cited in place of its definition (`State.follows`). -/

set_option linter.unreachableTactic false
set_option linter.unusedTactic false

namespace Sys2Proof.Machine

theorem execPwrEnRise_follows {z fin : State} {T : List Field} {s : State} (hT : [.power] ⊆ T) (e : execPwrEnRise s = .next fin) (hz : z.follows T s) :
    z.follows T fin := by
  unfold execPwrEnRise at e
  injection e with e
  subst e
  repeat' first
    | with_reducible exact List.Subset.trans (by decide) hT
    | intro _
    | with_reducible (first | assumption | apply modPower_follows | apply ite_follows)
    | dsimp only | split

theorem execPowerGood_follows {z fin : State} {T : List Field} {mv : Nat} {s : State} (hT : [.free, .power, .locket, .host] ⊆ T) (e : execPowerGood mv s = .next fin) (hz : z.follows T s) :
    z.follows T fin := by
  unfold execPowerGood at e
  injection e with e
  subst e
  repeat' first
    | with_reducible exact List.Subset.trans (by decide) hT
    | intro _
    | with_reducible (first | assumption | apply modPower_follows | apply stepTwo_follows | apply ite_follows)
    | dsimp only | split

theorem execPwrEnFall_follows {z fin : State} {T : List Field} {s : State} (hT : Field.but [.free, .board] ⊆ T) (e : execPwrEnFall s = .next fin) (hz : z.follows T s) :
    z.follows T fin := by
  unfold execPwrEnFall at e
  injection e with e
  subst e
  repeat' first
    | with_reducible exact List.Subset.trans (by decide) hT
    | intro _
    | with_reducible (first | assumption | apply modPower_follows | apply powerDown_follows | apply shutDown_follows
                            | apply ite_follows)
    | dsimp only | split

theorem execResetNLow_follows {z fin : State} {T : List Field} {widthNs : Nat} {s : State} (hT : [.out, .power, .host, .queues, .events, .counters, .flash, .pools, .streams] ⊆ T) (e : execResetNLow widthNs s = .next fin) (hz : z.follows T s) :
    z.follows T fin := by
  unfold execResetNLow at e
  injection e with e
  subst e
  repeat' first
    | with_reducible exact List.Subset.trans (by decide) hT
    | intro _
    | with_reducible (first | assumption | apply modPower_follows | apply startFlush_follows | apply ite_follows)
    | dsimp only | split

theorem execResetNRelease_follows {z fin : State} {T : List Field} {s : State} (hT : [.free, .power, .locket, .host] ⊆ T) (e : execResetNRelease s = .next fin) (hz : z.follows T s) :
    z.follows T fin := by
  unfold execResetNRelease at e
  injection e with e
  subst e
  repeat' first
    | with_reducible exact List.Subset.trans (by decide) hT
    | intro _
    | with_reducible (first | assumption | apply modPower_follows | apply stepTwo_follows | apply ite_follows)
    | dsimp only | split

theorem execInputStepFall_follows {z fin : State} {T : List Field} {mv : Nat} {s : State} (hT : [.out, .power, .host, .queues, .events, .counters, .flash, .pools, .streams] ⊆ T) (e : execInputStepFall mv s = .next fin) (hz : z.follows T s) :
    z.follows T fin := by
  unfold execInputStepFall at e
  injection e with e
  subst e
  repeat' first
    | with_reducible exact List.Subset.trans (by decide) hT
    | intro _
    | with_reducible (first | assumption | apply modPower_follows | apply enterSteps_follows | apply ite_follows)
    | dsimp only | split

theorem execInputStepRise_follows {z fin : State} {T : List Field} {mv : Nat} {s : State} (hT : [.power] ⊆ T) (e : execInputStepRise mv s = .next fin) (hz : z.follows T s) :
    z.follows T fin := by
  unfold execInputStepRise at e
  injection e with e
  subst e
  repeat' first
    | with_reducible exact List.Subset.trans (by decide) hT
    | intro _
    | with_reducible (first | assumption | apply modPower_follows | apply ite_follows)
    | dsimp only | split

theorem execOvervoltage_follows {z fin : State} {T : List Field} {mv : Nat} {s : State} (hT : [.out, .power, .host, .queues, .events, .counters, .flash, .pools, .streams] ⊆ T) (e : execOvervoltage mv s = .next fin) (hz : z.follows T s) :
    z.follows T fin := by
  unfold execOvervoltage at e
  injection e with e
  subst e
  repeat' first
    | with_reducible exact List.Subset.trans (by decide) hT
    | intro _
    | with_reducible (first | assumption | apply modPower_follows | apply enterSteps_follows | apply ite_follows)
    | dsimp only | split

theorem execRailDroop_follows {z fin : State} {T : List Field} {rail droop : Nat} {s : State} (hT : Field.but [.free, .time, .locket, .facetRam, .board] ⊆ T) (e : execRailDroop rail droop s = .next fin) (hz : z.follows T s) :
    z.follows T fin := by
  unfold execRailDroop at e
  injection e with e
  subst e
  repeat' first
    | with_reducible exact List.Subset.trans (by decide) hT
    | intro _
    | with_reducible (first | assumption | apply modPower_follows | apply enterSteps_follows
                            | apply raiseSrc_follows | apply ite_follows)
    | dsimp only | split

theorem execHoldupFlushComplete_follows {z fin : State} {T : List Field} {s : State} (hT : Field.but [.board] ⊆ T) (e : execHoldupFlushComplete s = .next fin) (hz : z.follows T s) :
    z.follows T fin := by
  unfold execHoldupFlushComplete at e
  injection e with e
  subst e
  repeat' first
    | with_reducible exact List.Subset.trans (by decide) hT
    | intro _
    | with_reducible (first | assumption | apply flushDone_follows | apply ite_follows)
    | dsimp only | split

theorem execHoldupMeasurement_follows {z fin : State} {T : List Field} {t : Nat} {s : State} (hT : Field.but [.free, .time, .locket, .facetRam, .board] ⊆ T) (e : execHoldupMeasurement t s = .next fin) (hz : z.follows T s) :
    z.follows T fin := by
  unfold execHoldupMeasurement at e
  injection e with e
  subst e
  repeat' first
    | with_reducible exact List.Subset.trans (by decide) hT
    | intro _
    | with_reducible (first | assumption | apply modPower_follows | apply dropPins_follows | apply raiseSrc_follows
                            | apply ite_follows)
    | dsimp only | split

theorem execModuleReset_follows {z fin : State} {T : List Field} {s : State} (hT : Field.but [.out, .board] ⊆ T) (e : execModuleReset s = .next fin) (hz : z.follows T s) :
    z.follows T fin := by
  unfold execModuleReset at e
  injection e with e
  subst e
  repeat' first
    | with_reducible exact List.Subset.trans (by decide) hT
    | intro _
    | with_reducible (first | assumption | apply moduleResetNow_follows | apply ite_follows)
    | dsimp only | split

theorem execPllUnlock_follows {z fin : State} {T : List Field} {refLost : Bool} {s : State} (hT : Field.but [.free, .locket, .facetRam, .board] ⊆ T) (e : execPllUnlock refLost s = .next fin) (hz : z.follows T s) :
    z.follows T fin := by
  unfold execPllUnlock at e
  injection e with e
  subst e
  repeat' first
    | with_reducible exact List.Subset.trans (by decide) hT
    | intro _
    | with_reducible (first | assumption | apply modPower_follows | apply modTime_follows | apply raiseSrc_follows
                            | apply ite_follows)
    | dsimp only | split

theorem execPreparationEnd_follows {z fin : State} {T : List Field} {s : State} (hT : [.power] ⊆ T) (e : execPreparationEnd s = .next fin) (hz : z.follows T s) :
    z.follows T fin := by
  unfold execPreparationEnd at e
  injection e with e
  subst e
  repeat' first
    | with_reducible exact List.Subset.trans (by decide) hT
    | intro _
    | with_reducible (first | assumption | apply modPower_follows | apply ite_follows)
    | dsimp only | split

theorem execEntryProperComplete_follows {z fin : State} {T : List Field} {s : State} (hT : [.out, .power, .host, .queues, .events, .counters, .flash, .pools] ⊆ T) (e : execEntryProperComplete s = .next fin) (hz : z.follows T s) :
    z.follows T fin := by
  unfold execEntryProperComplete at e
  injection e with e
  subst e
  repeat' first
    | with_reducible exact List.Subset.trans (by decide) hT
    | intro _
    | with_reducible (first | assumption | apply modPower_follows | apply ok_follows | apply ite_follows)
    | dsimp only | split

theorem fenceStack_follows {z : State} {T : List Field} {s : State} {k : Nat} (hT : Field.but [.free, .time, .locket, .facetRam, .board] ⊆ T) (hz : z.follows T s) :
    z.follows T (fenceStack s k) := by
  unfold fenceStack
  repeat' first
    | with_reducible exact List.Subset.trans (by decide) hT
    | intro _
    | with_reducible (first | assumption | apply mapOutCore_follows | apply raiseSrc_follows
                            | apply raiseStreamFaults_follows | apply ite_follows)
    | dsimp only | split

theorem setStack_follows {z : State} {T : List Field} {s : State} {k : Nat} {x : HbmStack} (hT : [.hbm] ⊆ T) (hz : z.follows T s) :
    z.follows T (setStack s k x) := by
  unfold setStack
  repeat' first
    | with_reducible exact List.Subset.trans (by decide) hT
    | intro _
    | with_reducible (first | assumption | apply modHbm_follows | apply ite_follows)
    | dsimp only | split

theorem execHbmStackTempRise_follows {z fin : State} {T : List Field} {k : Nat} {t : Int} {s : State} (hT : Field.but [.free, .time, .locket, .facetRam, .board] ⊆ T) (e : execHbmStackTempRise k t s = .next fin) (hz : z.follows T s) :
    z.follows T fin := by
  unfold execHbmStackTempRise at e
  injection e with e
  subst e
  repeat' first
    | with_reducible exact List.Subset.trans (by decide) hT
    | intro _
    | with_reducible (first | assumption | apply fenceStack_follows | apply raiseEvent_follows
                            | apply setStack_follows | apply ite_follows)
    | dsimp only | split

theorem execHbmStackTempFall_follows {z fin : State} {T : List Field} {k : Nat} {t : Int} {s : State} (hT : [.hbm] ⊆ T) (e : execHbmStackTempFall k t s = .next fin) (hz : z.follows T s) :
    z.follows T fin := by
  unfold execHbmStackTempFall at e
  injection e with e
  subst e
  repeat' first
    | with_reducible exact List.Subset.trans (by decide) hT
    | intro _
    | with_reducible (first | assumption | apply setStack_follows | apply ite_follows)
    | dsimp only | split

theorem holdTherm_follows {z : State} {T : List Field} {s : State} {x : Sensor} {on : Bool} (hT : [.power] ⊆ T) (hz : z.follows T s) :
    z.follows T (holdTherm s x on) := by
  unfold holdTherm
  repeat' first
    | with_reducible exact List.Subset.trans (by decide) hT
    | intro _
    | with_reducible (first | assumption | apply modPower_follows | apply ite_follows)
    | dsimp only | split

theorem coolTherm_follows {z : State} {T : List Field} {s : State} {x : Sensor} {t : Int} (hT : [.power] ⊆ T) (hz : z.follows T s) :
    z.follows T (coolTherm s x t) := by
  unfold coolTherm
  repeat' first
    | with_reducible exact List.Subset.trans (by decide) hT
    | intro _
    | with_reducible (first | assumption | apply holdTherm_follows | apply ite_follows)
    | dsimp only | split

theorem execThermalCrossing_follows {z fin : State} {T : List Field} {x : Sensor} {t : Int} {s : State} (hT : Field.but [.free, .time, .locket, .facetRam, .board] ⊆ T) (e : execThermalCrossing x t s = .next fin) (hz : z.follows T s) :
    z.follows T fin := by
  unfold execThermalCrossing at e
  injection e with e
  subst e
  repeat' first
    | with_reducible exact List.Subset.trans (by decide) hT
    | intro _
    | with_reducible (first | assumption | apply modPower_follows | apply coolTherm_follows | apply dropPins_follows
                            | apply holdTherm_follows | apply interrupt_follows | apply raiseSrc_follows
                            | apply updFacet_follows | apply updFlashCh_follows | apply ite_follows)
    | dsimp only | split

theorem execHardwareTrip_follows {z fin : State} {T : List Field} {_die : Nat} {s : State} (hT : [.out, .power, .host, .queues, .events, .counters, .flash, .pools, .streams] ⊆ T) (e : execHardwareTrip _die s = .next fin) (hz : z.follows T s) :
    z.follows T fin := by
  unfold execHardwareTrip at e
  injection e with e
  subst e
  repeat' first
    | with_reducible exact List.Subset.trans (by decide) hT
    | intro _
    | with_reducible (first | assumption | apply modPower_follows | apply shutDown_follows | apply ite_follows)
    | dsimp only | split

theorem hubHotClear_follows {z : State} {T : List Field} {s : State} (hT : [.power] ⊆ T) (hz : z.follows T s) :
    z.follows T (hubHotClear s) := by
  unfold hubHotClear
  repeat' first
    | with_reducible exact List.Subset.trans (by decide) hT
    | intro _
    | with_reducible (first | assumption | apply modPower_follows | apply ite_follows)
    | dsimp only | split

theorem execHubHotClear_follows {z fin : State} {T : List Field} {s : State} (hT : [.power] ⊆ T) (e : execHubHotClear s = .next fin) (hz : z.follows T s) :
    z.follows T fin := by
  unfold execHubHotClear at e
  injection e with e
  subst e
  repeat' first
    | with_reducible exact List.Subset.trans (by decide) hT
    | intro _
    | with_reducible (first | assumption | apply hubHotClear_follows | apply ite_follows)
    | dsimp only | split

theorem msaApply_follows {z : State} {T : List Field} {s : State} {ch : Nat} {r : MsaReq} (hT : [.out, .host, .events, .counters, .hbm] ⊆ T) (hz : z.follows T s) :
    z.follows T (msaApply s ch r) := by
  unfold msaApply
  repeat' first
    | with_reducible exact List.Subset.trans (by decide) hT
    | intro _
    | with_reducible (first | assumption | apply Memory.writeBytes_wf | apply modHbm_follows | apply bump_follows | apply Memory.writeBytes_wf
                            | apply ite_follows)
    | dsimp only | split

theorem waitApply_follows {z : State} {T : List Field} {s : State} {ch : Nat} {x : HbmWait} (hT : [.out, .host, .events, .counters, .hbm] ⊆ T) (hz : z.follows T s) :
    z.follows T (waitApply s ch x) := by
  unfold waitApply
  repeat' first
    | with_reducible exact List.Subset.trans (by decide) hT
    | intro _
    | with_reducible (first | assumption | apply modHbm_follows | apply msaApply_follows
                            | apply Memory.writeBytes_wf | apply ite_follows)
    | dsimp only | split

theorem execSourceLatch_follows {z fin : State} {T : List Field} {col : Nat} {mask : BitVec 64} {acc : Access} {u : UnitName} {s : State} (hT : Field.but [.free, .time, .locket, .facetRam, .board] ⊆ T) (e : execSourceLatch col mask acc u s = .next fin) (hz : z.follows T s) :
    z.follows T fin := by
  unfold execSourceLatch at e
  injection e with e
  subst e
  repeat' first
    | with_reducible exact List.Subset.trans (by decide) hT
    | intro _
    | with_reducible (first | assumption | apply raiseMask_follows | apply ite_follows)
    | dsimp only | split

theorem execCollectorSelf_follows {z fin : State} {T : List Field} {col : Nat} {reactionState : Bool} {s : State} (hT : Field.but [.free, .time, .locket, .facetRam, .board] ⊆ T) (e : execCollectorSelf col reactionState s = .next fin) (hz : z.follows T s) :
    z.follows T fin := by
  unfold execCollectorSelf at e
  injection e with e
  subst e
  repeat' first
    | with_reducible exact List.Subset.trans (by decide) hT
    | intro _
    | with_reducible (first | assumption | apply fenceFacet_follows | apply raiseSrc_follows | apply updCol_follows
                            | apply updFacet_follows | apply ite_follows)
    | dsimp only | split

theorem execFcolStatusClear_follows {z fin : State} {T : List Field} {col : Nat} {mask : BitVec 64} {s : State} (hT : [.collectors] ⊆ T) (e : execFcolStatusClear col mask s = .next fin) (hz : z.follows T s) :
    z.follows T fin := by
  unfold execFcolStatusClear at e
  injection e with e
  subst e
  repeat' first
    | with_reducible exact List.Subset.trans (by decide) hT
    | intro _
    | with_reducible (first | assumption | apply clearStatus_follows | apply ite_follows)
    | dsimp only | split

theorem forceSources_follows {z : State} {T : List Field} {s : State} {col : Nat} {mask : BitVec 64} (hT : Field.but [.free, .time, .locket, .facetRam, .board] ⊆ T) (hz : z.follows T s) :
    z.follows T (forceSources s col mask) := by
  unfold forceSources
  repeat' first
    | with_reducible exact List.Subset.trans (by decide) hT
    | intro _
    | with_reducible (first | assumption | apply raiseMask_follows | apply ite_follows)
    | dsimp only | split

theorem execFcolForce_follows {z fin : State} {T : List Field} {col : Nat} {mask : BitVec 64} {s : State} (hT : Field.but [.free, .time, .locket, .facetRam, .board] ⊆ T) (e : execFcolForce col mask s = .next fin) (hz : z.follows T s) :
    z.follows T fin := by
  unfold execFcolForce at e
  injection e with e
  subst e
  repeat' first
    | with_reducible exact List.Subset.trans (by decide) hT
    | intro _
    | with_reducible (first | assumption | apply forceSources_follows | apply ite_follows)
    | dsimp only | split

theorem execFacetFence_follows {z fin : State} {T : List Field} {f : Nat} {s : State} (hT : [.out, .host, .queues, .events, .counters, .loader, .facets, .flash, .colls, .pools, .streams, .search, .learn] ⊆ T) (e : execFacetFence f s = .next fin) (hz : z.follows T s) :
    z.follows T fin := by
  unfold execFacetFence at e
  injection e with e
  subst e
  repeat' first
    | with_reducible exact List.Subset.trans (by decide) hT
    | intro _
    | with_reducible (first | assumption | apply fenceFacet_follows | apply ite_follows)
    | dsimp only | split

theorem startFacetBist_follows {z : State} {T : List Field} {s : State} {f : Nat} (hT : [.out, .host, .queues, .events, .counters, .loader, .facets, .flash, .colls, .pools, .streams, .search, .learn] ⊆ T) (hz : z.follows T s) :
    z.follows T (startFacetBist s f) := by
  unfold startFacetBist
  repeat' first
    | with_reducible exact List.Subset.trans (by decide) hT
    | intro _
    | with_reducible (first | assumption | apply fenceFacet_follows | apply updFacet_follows | apply ite_follows)
    | dsimp only | split

theorem execFacetBist_follows {z fin : State} {T : List Field} {f : Nat} {s : State} (hT : [.out, .host, .queues, .events, .counters, .loader, .facets, .flash, .colls, .pools, .streams, .search, .learn] ⊆ T) (e : execFacetBist f s = .next fin) (hz : z.follows T s) :
    z.follows T fin := by
  unfold execFacetBist at e
  injection e with e
  subst e
  repeat' first
    | with_reducible exact List.Subset.trans (by decide) hT
    | intro _
    | with_reducible (first | assumption | apply startFacetBist_follows | apply ite_follows)
    | dsimp only | split

theorem facetTested_follows {z : State} {T : List Field} {s : State} {f : Nat} {pass : Bool} (hT : Field.but [.free, .time, .locket, .facetRam, .board] ⊆ T) (hz : z.follows T s) :
    z.follows T (facetTested s f pass) := by
  unfold facetTested
  repeat' first
    | with_reducible exact List.Subset.trans (by decide) hT
    | intro _
    | with_reducible (first | assumption | apply dropPins_follows | apply raiseSrc_follows | apply updFacet_follows
                            | apply ite_follows)
    | dsimp only | split

theorem execFacetBistDone_follows {z fin : State} {T : List Field} {f : Nat} {pass : Bool} {s : State} (hT : Field.but [.free, .time, .locket, .facetRam, .board] ⊆ T) (e : execFacetBistDone f pass s = .next fin) (hz : z.follows T s) :
    z.follows T fin := by
  unfold execFacetBistDone at e
  injection e with e
  subst e
  repeat' first
    | with_reducible exact List.Subset.trans (by decide) hT
    | intro _
    | with_reducible (first | assumption | apply facetTested_follows | apply ite_follows)
    | dsimp only | split

theorem execFacetRelease_follows {z fin : State} {T : List Field} {f : Nat} {s : State} (hT : [.facets] ⊆ T) (e : execFacetRelease f s = .next fin) (hz : z.follows T s) :
    z.follows T fin := by
  unfold execFacetRelease at e
  injection e with e
  subst e
  repeat' first
    | with_reducible exact List.Subset.trans (by decide) hT
    | intro _
    | with_reducible (first | assumption | apply updFacet_follows | apply ite_follows)
    | dsimp only | split

theorem bankTested_follows {z : State} {T : List Field} {s : State} {b : Nat} {pass : Bool} (hT : [.collectors, .near] ⊆ T) (hz : z.follows T s) :
    z.follows T (bankTested s b pass) := by
  unfold bankTested
  repeat' first
    | with_reducible exact List.Subset.trans (by decide) hT
    | intro _
    | with_reducible (first | assumption | apply dropPins_follows | apply setBank_follows | apply ite_follows)
    | dsimp only | split

theorem execNearmemMbist_follows {z fin : State} {T : List Field} {b : Nat} {s : State} (hT : [.out, .host, .events, .counters, .near, .colls, .streams] ⊆ T) (e : execNearmemMbist b s = .next fin) (hz : z.follows T s) :
    z.follows T fin := by
  unfold execNearmemMbist at e
  injection e with e
  subst e
  repeat' first
    | with_reducible exact List.Subset.trans (by decide) hT
    | intro _
    | with_reducible (first | assumption | apply fenceBank_follows | apply setBank_follows | apply ite_follows)
    | dsimp only | split

theorem execNearmemMbistDone_follows {z fin : State} {T : List Field} {b : Nat} {pass : Bool} {s : State} (hT : [.collectors, .near] ⊆ T) (e : execNearmemMbistDone b pass s = .next fin) (hz : z.follows T s) :
    z.follows T fin := by
  unfold execNearmemMbistDone at e
  injection e with e
  subst e
  repeat' first
    | with_reducible exact List.Subset.trans (by decide) hT
    | intro _
    | with_reducible (first | assumption | apply bankTested_follows | apply ite_follows)
    | dsimp only | split

theorem execNearmemReturn_follows {z fin : State} {T : List Field} {b : Nat} {s : State} (hT : [.near] ⊆ T) (e : execNearmemReturn b s = .next fin) (hz : z.follows T s) :
    z.follows T fin := by
  unfold execNearmemReturn at e
  injection e with e
  subst e
  repeat' first
    | with_reducible exact List.Subset.trans (by decide) hT
    | intro _
    | with_reducible (first | assumption | apply setBank_follows | apply ite_follows)
    | dsimp only | split

theorem startRetrain_follows {z : State} {T : List Field} {s : State} {ch : Nat} (hT : [.hbm] ⊆ T) (hz : z.follows T s) :
    z.follows T (startRetrain s ch) := by
  unfold startRetrain
  repeat' first
    | with_reducible exact List.Subset.trans (by decide) hT
    | intro _
    | with_reducible (first | assumption | apply updChan_follows | apply ite_follows)
    | dsimp only | split

theorem execHbmChRetrain_follows {z fin : State} {T : List Field} {ch : Nat} {s : State} (hT : [.hbm] ⊆ T) (e : execHbmChRetrain ch s = .next fin) (hz : z.follows T s) :
    z.follows T fin := by
  unfold execHbmChRetrain at e
  injection e with e
  subst e
  repeat' first
    | with_reducible exact List.Subset.trans (by decide) hT
    | intro _
    | with_reducible (first | assumption | apply startRetrain_follows | apply ite_follows)
    | dsimp only | split

theorem execHbmRetrainStart_follows {z fin : State} {T : List Field} {ch : Nat} {s : State} (hT : [.hbm] ⊆ T) (e : execHbmRetrainStart ch s = .next fin) (hz : z.follows T s) :
    z.follows T fin := by
  unfold execHbmRetrainStart at e
  injection e with e
  subst e
  repeat' first
    | with_reducible exact List.Subset.trans (by decide) hT
    | intro _
    | with_reducible (first | assumption | apply startRetrain_follows | apply ite_follows)
    | dsimp only | split

theorem execHbmRetrainEnd_follows {z fin : State} {T : List Field} {ch : Nat} {pass : Bool} {s : State} (hT : Field.but [.free, .time, .locket, .facetRam, .board] ⊆ T) (e : execHbmRetrainEnd ch pass s = .next fin) (hz : z.follows T s) :
    z.follows T fin := by
  unfold execHbmRetrainEnd at e
  injection e with e
  subst e
  repeat' first
    | with_reducible exact List.Subset.trans (by decide) hT
    | intro _
    | with_reducible (first | assumption | apply bump_follows | apply mapOut_follows | apply updChan_follows
                            | apply waitApply_follows | apply foldl_follows | apply ite_follows)
    | dsimp only | split

theorem execHbmRetrainTimeout_follows {z fin : State} {T : List Field} {ch : Nat} {s : State} (hT : Field.but [.free, .time, .locket, .facetRam, .board] ⊆ T) (e : execHbmRetrainTimeout ch s = .next fin) (hz : z.follows T s) :
    z.follows T fin := by
  unfold execHbmRetrainTimeout at e
  injection e with e
  subst e
  repeat' first
    | with_reducible exact List.Subset.trans (by decide) hT
    | intro _
    | with_reducible (first | assumption | apply mapOut_follows | apply ite_follows)
    | dsimp only | split

theorem execHbmMbist_follows {z fin : State} {T : List Field} {ch : Nat} {s : State} (hT : Field.but [.free, .time, .locket, .facetRam, .board] ⊆ T) (e : execHbmMbist ch s = .next fin) (hz : z.follows T s) :
    z.follows T fin := by
  unfold execHbmMbist at e
  injection e with e
  subst e
  repeat' first
    | with_reducible exact List.Subset.trans (by decide) hT
    | intro _
    | with_reducible (first | assumption | apply mapOut_follows | apply updChan_follows | apply foldl_follows
                            | apply ite_follows)
    | dsimp only | split

theorem dropHbmPins_follows {z : State} {T : List Field} {s : State} (hT : [.collectors] ⊆ T) (hz : z.follows T s) :
    z.follows T (dropHbmPins s) := by
  unfold dropHbmPins
  repeat' first
    | with_reducible exact List.Subset.trans (by decide) hT
    | intro _
    | with_reducible (first | assumption | apply dropPins_follows | apply ite_follows)
    | dsimp only | split

theorem execHbmMbistDone_follows {z fin : State} {T : List Field} {ch : Nat} {pass : Bool} {s : State} (hT : [.collectors, .hbm] ⊆ T) (e : execHbmMbistDone ch pass s = .next fin) (hz : z.follows T s) :
    z.follows T fin := by
  unfold execHbmMbistDone at e
  injection e with e
  subst e
  repeat' first
    | with_reducible exact List.Subset.trans (by decide) hT
    | intro _
    | with_reducible (first | assumption | apply dropHbmPins_follows | apply updChan_follows | apply ite_follows)
    | dsimp only | split

theorem execHbmReturn_follows {z fin : State} {T : List Field} {ch : Nat} {s : State} (hT : [.hbm] ⊆ T) (e : execHbmReturn ch s = .next fin) (hz : z.follows T s) :
    z.follows T fin := by
  unfold execHbmReturn at e
  injection e with e
  subst e
  repeat' first
    | with_reducible exact List.Subset.trans (by decide) hT
    | intro _
    | with_reducible (first | assumption | apply updChan_follows | apply foldl_follows | apply ite_follows)
    | dsimp only | split

theorem restoreSide_follows {z : State} {T : List Field} {s : State} {coll : Nat} {page : Nat} {c : Coll} (hT : [.colls] ⊆ T) (hz : z.follows T s) :
    z.follows T (restoreSide s coll page c) := by
  unfold restoreSide
  repeat' first
    | with_reducible exact List.Subset.trans (by decide) hT
    | intro _
    | with_reducible (first | assumption | apply setColl_follows | apply ite_follows)
    | dsimp only | split

theorem execPinnedCopyRestore_follows {z fin : State} {T : List Field} {coll page : Nat} {s : State} (hT : [.colls] ⊆ T) (e : execPinnedCopyRestore coll page s = .next fin) (hz : z.follows T s) :
    z.follows T fin := by
  unfold execPinnedCopyRestore at e
  injection e with e
  subst e
  repeat' first
    | with_reducible exact List.Subset.trans (by decide) hT
    | intro _
    | with_reducible (first | assumption | apply restoreSide_follows | apply setColl_follows | apply ite_follows)
    | dsimp only | split

theorem execPageRefill_follows {z fin : State} {T : List Field} {coll page : Nat} {s : State} (hT : [.flash, .colls] ⊆ T) (e : execPageRefill coll page s = .next fin) (hz : z.follows T s) :
    z.follows T fin := by
  unfold execPageRefill at e
  injection e with e
  subst e
  repeat' first
    | with_reducible exact List.Subset.trans (by decide) hT
    | intro _
    | with_reducible (first | assumption | apply countBlockRead_follows | apply updColl_follows | apply ite_follows)
    | dsimp only | split

theorem installPage_follows {z : State} {T : List Field} {s : State} {coll page : Nat} {c : Coll} (hT : [.flash, .colls] ⊆ T) (hz : z.follows T s) :
    z.follows T (installPage s coll page c) := by
  unfold installPage
  repeat' first
    | with_reducible exact List.Subset.trans (by decide) hT
    | intro _
    | with_reducible (first | assumption | apply countBlockRead_follows | apply setColl_follows | apply ite_follows)
    | dsimp only | split

theorem execInstallationComplete_follows {z fin : State} {T : List Field} {coll page : Nat} {s : State} (hT : [.flash, .colls] ⊆ T) (e : execInstallationComplete coll page s = .next fin) (hz : z.follows T s) :
    z.follows T fin := by
  unfold execInstallationComplete at e
  injection e with e
  subst e
  repeat' first
    | with_reducible exact List.Subset.trans (by decide) hT
    | intro _
    | with_reducible (first | assumption | apply installPage_follows | apply ite_follows)
    | dsimp only | split

theorem startIfRetrain_follows {z : State} {T : List Field} {s : State} {c : Nat} (hT : [.flash] ⊆ T) (hz : z.follows T s) :
    z.follows T (startIfRetrain s c) := by
  unfold startIfRetrain
  repeat' first
    | with_reducible exact List.Subset.trans (by decide) hT
    | intro _
    | with_reducible (first | assumption | apply updFlashCh_follows | apply ite_follows)
    | dsimp only | split

theorem execFlashChRetrain_follows {z fin : State} {T : List Field} {c : Nat} {s : State} (hT : [.flash] ⊆ T) (e : execFlashChRetrain c s = .next fin) (hz : z.follows T s) :
    z.follows T fin := by
  unfold execFlashChRetrain at e
  injection e with e
  subst e
  repeat' first
    | with_reducible exact List.Subset.trans (by decide) hT
    | intro _
    | with_reducible (first | assumption | apply startIfRetrain_follows | apply ite_follows)
    | dsimp only | split

theorem execFlashIfRetrainStart_follows {z fin : State} {T : List Field} {c : Nat} {s : State} (hT : [.flash] ⊆ T) (e : execFlashIfRetrainStart c s = .next fin) (hz : z.follows T s) :
    z.follows T fin := by
  unfold execFlashIfRetrainStart at e
  injection e with e
  subst e
  repeat' first
    | with_reducible exact List.Subset.trans (by decide) hT
    | intro _
    | with_reducible (first | assumption | apply startIfRetrain_follows | apply ite_follows)
    | dsimp only | split

theorem execFlashIfRetrainEnd_follows {z fin : State} {T : List Field} {c : Nat} {pass : Bool} {s : State} (hT : [.flash] ⊆ T) (e : execFlashIfRetrainEnd c pass s = .next fin) (hz : z.follows T s) :
    z.follows T fin := by
  unfold execFlashIfRetrainEnd at e
  injection e with e
  subst e
  repeat' first
    | with_reducible exact List.Subset.trans (by decide) hT
    | intro _
    | with_reducible (first | assumption | apply bypassCore_follows | apply updFlashCh_follows | apply ite_follows)
    | dsimp only | split

theorem execFlashIfRetrainTimeout_follows {z fin : State} {T : List Field} {c : Nat} {s : State} (hT : [.flash] ⊆ T) (e : execFlashIfRetrainTimeout c s = .next fin) (hz : z.follows T s) :
    z.follows T fin := by
  unfold execFlashIfRetrainTimeout at e
  injection e with e
  subst e
  repeat' first
    | with_reducible exact List.Subset.trans (by decide) hT
    | intro _
    | with_reducible (first | assumption | apply bypassCore_follows | apply ite_follows)
    | dsimp only | split

theorem execFlashScrub_follows {z fin : State} {T : List Field} {c : Nat} {s : State} (hT : [.flash] ⊆ T) (e : execFlashScrub c s = .next fin) (hz : z.follows T s) :
    z.follows T fin := by
  unfold execFlashScrub at e
  injection e with e
  subst e
  repeat' first
    | with_reducible exact List.Subset.trans (by decide) hT
    | intro _
    | with_reducible (first | assumption | apply modFlash_follows | apply updFlashCh_follows | apply ite_follows)
    | dsimp only | split

theorem execFlashBypass_follows {z fin : State} {T : List Field} {c : Nat} {s : State} (hT : [.flash] ⊆ T) (e : execFlashBypass c s = .next fin) (hz : z.follows T s) :
    z.follows T fin := by
  unfold execFlashBypass at e
  injection e with e
  subst e
  repeat' first
    | with_reducible exact List.Subset.trans (by decide) hT
    | intro _
    | with_reducible (first | assumption | apply bypassCore_follows | apply ite_follows)
    | dsimp only | split

theorem execFlashReturn_follows {z fin : State} {T : List Field} {c : Nat} {rate : BitVec 2} {s : State} (hT : [.collectors, .flash] ⊆ T) (e : execFlashReturn c rate s = .next fin) (hz : z.follows T s) :
    z.follows T fin := by
  unfold execFlashReturn at e
  injection e with e
  subst e
  repeat' first
    | with_reducible exact List.Subset.trans (by decide) hT
    | intro _
    | with_reducible (first | assumption | apply dropPins_follows | apply updFlashCh_follows | apply ite_follows)
    | dsimp only | split

theorem execFlashProngTest_follows {z fin : State} {T : List Field} {c : Nat} {s : State} (hT : [.flash] ⊆ T) (e : execFlashProngTest c s = .next fin) (hz : z.follows T s) :
    z.follows T fin := by
  unfold execFlashProngTest at e
  injection e with e
  subst e
  repeat' first
    | with_reducible exact List.Subset.trans (by decide) hT
    | intro _
    | with_reducible (first | assumption | apply updFlashCh_follows | apply ite_follows)
    | dsimp only | split

theorem prongTested_follows {z : State} {T : List Field} {s : State} {c : Nat} {pass : Bool} (hT : Field.but [.free, .time, .locket, .facetRam, .board] ⊆ T) (hz : z.follows T s) :
    z.follows T (prongTested s c pass) := by
  unfold prongTested
  repeat' first
    | with_reducible exact List.Subset.trans (by decide) hT
    | intro _
    | with_reducible (first | assumption | apply dropPins_follows | apply raiseSrc_follows
                            | apply updFlashCh_follows | apply ite_follows)
    | dsimp only | split

theorem execProngTestDone_follows {z fin : State} {T : List Field} {c : Nat} {pass : Bool} {s : State} (hT : Field.but [.free, .time, .locket, .facetRam, .board] ⊆ T) (e : execProngTestDone c pass s = .next fin) (hz : z.follows T s) :
    z.follows T fin := by
  unfold execProngTestDone at e
  injection e with e
  subst e
  repeat' first
    | with_reducible exact List.Subset.trans (by decide) hT
    | intro _
    | with_reducible (first | assumption | apply prongTested_follows | apply ite_follows)
    | dsimp only | split

theorem execFabricLinkRetrain_follows {z fin : State} {T : List Field} {l : Nat} {s : State} (hT : [.out, .fabric] ⊆ T) (e : execFabricLinkRetrain l s = .next fin) (hz : z.follows T s) :
    z.follows T fin := by
  unfold execFabricLinkRetrain at e
  injection e with e
  subst e
  repeat' first
    | with_reducible exact List.Subset.trans (by decide) hT
    | intro _
    | with_reducible (first | assumption | apply linkDownCore_follows | apply updLink_follows | apply ite_follows)
    | dsimp only | split

theorem execFabricLoopback_follows {z fin : State} {T : List Field} {l : Nat} {s : State} (hT : Field.but [.free, .time, .locket, .facetRam, .board] ⊆ T) (e : execFabricLoopback l s = .next fin) (hz : z.follows T s) :
    z.follows T fin := by
  unfold execFabricLoopback at e
  injection e with e
  subst e
  repeat' first
    | with_reducible exact List.Subset.trans (by decide) hT
    | intro _
    | with_reducible (first | assumption | apply linkDown_follows | apply updLink_follows | apply ite_follows)
    | dsimp only | split

theorem execFabricSetDown_follows {z fin : State} {T : List Field} {l : Nat} {s : State} (hT : Field.but [.free, .time, .locket, .facetRam, .board] ⊆ T) (e : execFabricSetDown l s = .next fin) (hz : z.follows T s) :
    z.follows T fin := by
  unfold execFabricSetDown at e
  injection e with e
  subst e
  repeat' first
    | with_reducible exact List.Subset.trans (by decide) hT
    | intro _
    | with_reducible (first | assumption | apply linkDown_follows | apply ite_follows)
    | dsimp only | split

theorem execHostifLoopback_follows {z fin : State} {T : List Field} {p : Nat} {s : State} (hT : Field.but [.free, .time, .locket, .facetRam, .board] ⊆ T) (e : execHostifLoopback p s = .next fin) (hz : z.follows T s) :
    z.follows T fin := by
  unfold execHostifLoopback at e
  injection e with e
  subst e
  repeat' first
    | with_reducible exact List.Subset.trans (by decide) hT
    | intro _
    | with_reducible (first | assumption | apply portDown_follows | apply updPort_follows | apply ite_follows)
    | dsimp only | split

theorem execCoreWatchdogExpiry_follows {z fin : State} {T : List Field} {a b : Bool} {s : State} (hT : Field.but [.free, .time, .locket, .facetRam, .board] ⊆ T) (e : execCoreWatchdogExpiry a b s = .next fin) (hz : z.follows T s) :
    z.follows T fin := by
  unfold execCoreWatchdogExpiry at e
  injection e with e
  subst e
  repeat' first
    | with_reducible exact List.Subset.trans (by decide) hT
    | intro _
    | with_reducible (first | assumption | apply modPower_follows | apply bumpN_follows | apply raiseSrc_follows
                            | apply updCol_follows | apply ite_follows)
    | dsimp only | split

theorem execCoreReady_follows {z fin : State} {T : List Field} {isA : Bool} {s : State} (hT : [.cores, .collectors] ⊆ T) (e : execCoreReady isA s = .next fin) (hz : z.follows T s) :
    z.follows T fin := by
  unfold execCoreReady at e
  injection e with e
  subst e
  repeat' first
    | with_reducible exact List.Subset.trans (by decide) hT
    | intro _
    | with_reducible (first | assumption | apply modCores_follows | apply dropPins_follows | apply ite_follows)
    | dsimp only | split

theorem stopCore_follows {z : State} {T : List Field} {s : State} {isA : Bool} (hT : [.cores] ⊆ T) (hz : z.follows T s) :
    z.follows T (stopCore s isA) := by
  unfold stopCore
  repeat' first
    | with_reducible exact List.Subset.trans (by decide) hT
    | intro _
    | with_reducible (first | assumption | apply coreOut_follows | apply ite_follows)
    | dsimp only | split

theorem execCoreStop_follows {z fin : State} {T : List Field} {isA : Bool} {s : State} (hT : [.cores] ⊆ T) (e : execCoreStop isA s = .next fin) (hz : z.follows T s) :
    z.follows T fin := by
  unfold execCoreStop at e
  injection e with e
  subst e
  repeat' first
    | with_reducible exact List.Subset.trans (by decide) hT
    | intro _
    | with_reducible (first | assumption | apply stopCore_follows | apply ite_follows)
    | dsimp only | split

theorem dieReleased_follows {z : State} {T : List Field} {s : State} {d : Nat} (hT : [.facets] ⊆ T) (hz : z.follows T s) :
    z.follows T (dieReleased s d) := by
  unfold dieReleased
  repeat' first
    | with_reducible exact List.Subset.trans (by decide) hT
    | intro _
    | with_reducible (first | assumption | apply updFacet_follows | apply foldl_follows | apply ite_follows)
    | dsimp only | split

theorem execBlockResetComplete_follows {z fin : State} {T : List Field} {u : UnitName} {pass : Bool} {s : State} (hT : Field.but [.free, .time, .locket, .facetRam, .board] ⊆ T) (e : execBlockResetComplete u pass s = .next fin) (hz : z.follows T s) :
    z.follows T fin := by
  unfold execBlockResetComplete at e
  injection e with e
  subst e
  repeat' first
    | with_reducible exact List.Subset.trans (by decide) hT
    | intro _
    | with_reducible (first | assumption | apply modCores_follows | apply modSearch_follows
                            | apply bankTested_follows | apply dieReleased_follows | apply dropHbmPins_follows
                            | apply dropPins_follows | apply facetTested_follows | apply prongTested_follows
                            | apply raiseSrc_follows | apply setBank_follows | apply updChan_follows
                            | apply updFacet_follows | apply updFlashCh_follows | apply updLink_follows
                            | apply ite_follows)
    | dsimp only | split

theorem snapSpace_follows {z : State} {T : List Field} {s : State} {a : Nat} (hT : [.counters] ⊆ T) (hz : z.follows T s) :
    z.follows T (snapSpace s a) := by
  unfold snapSpace
  repeat' first
    | with_reducible exact List.Subset.trans (by decide) hT
    | intro _
    | with_reducible (first | assumption | apply foldl_follows | apply ite_follows)
    | dsimp only | split
    | (simp only [follows_mk]; apply keeps_of) | with_reducible exact Or.inr rfl
    | exact Or.inl (hT (by decide)) | exact Or.inl ⟨hT (by decide), rfl, rfl⟩
    | exact Or.inl ⟨hT (by decide), fun h => h⟩ | (refine Or.inl ⟨hT (by decide), ?_⟩)

theorem clearSpace_follows {z : State} {T : List Field} {s : State} {a off : Nat} {all : Bool} (hT : [.counters] ⊆ T) (hz : z.follows T s) :
    z.follows T (clearSpace s a off all) := by
  unfold clearSpace
  split
  · exact hz
  · simp only [follows_mk]
    apply keeps_of
    case h => exact hz
    case h_co => exact Or.inl ⟨hT (by decide), fun h c hc => h c (List.mem_filter.mp hc).1⟩
    all_goals exact Or.inr rfl

theorem execSnap_follows {z fin : State} {T : List Field} {space : Nat} {s : State} (hT : [.counters] ⊆ T) (e : execSnap space s = .next fin) (hz : z.follows T s) :
    z.follows T fin := by
  unfold execSnap at e
  injection e with e
  subst e
  repeat' first
    | with_reducible exact List.Subset.trans (by decide) hT
    | intro _
    | with_reducible (first | assumption | apply snapSpace_follows | apply ite_follows)
    | dsimp only | split

theorem execClear_follows {z fin : State} {T : List Field} {space off : Nat} {all : Bool} {s : State} (hT : [.counters] ⊆ T) (e : execClear space off all s = .next fin) (hz : z.follows T s) :
    z.follows T fin := by
  unfold execClear at e
  injection e with e
  subst e
  repeat' first
    | with_reducible exact List.Subset.trans (by decide) hT
    | intro _
    | with_reducible (first | assumption | apply clearSpace_follows | apply ite_follows)
    | dsimp only | split

theorem execSettingSpareHold_follows {z fin : State} {T : List Field} {hold : BitVec 4} {s : State} (hT : [.loader] ⊆ T) (e : execSettingSpareHold hold s = .next fin) (hz : z.follows T s) :
    z.follows T fin := by
  unfold execSettingSpareHold at e
  injection e with e
  subst e
  repeat' first
    | with_reducible exact List.Subset.trans (by decide) hT
    | intro _
    | with_reducible (first | assumption | apply modLoader_follows | apply ite_follows)
    | dsimp only | split

theorem burn_follows {z : State} {T : List Field} {s : State} {f : Fuses → Fuses} (hT : [.locket] ⊆ T) (hz : z.follows T s)
    (hb : ∀ x : Fuses, x.burnsTo (f x)) : z.follows T (burn s f) := by
  refine ⟨hz.queue, fun p hp => ?_, Fuses.burnsTo_trans hz.fuses (hb _), fun a => congrArg f (hz.agree a), hz.memory, hz.bounds⟩
  have hl : p ≠ .locket := fun h => hp (h ▸ hT (by decide))
  have := hz.frame p hp
  cases p <;> first | exact absurd rfl hl | exact this

theorem tokenBurn_burns (action arg : Nat) (x : Fuses) : x.burnsTo (tokenBurn action arg x) := by
  unfold tokenBurn
  split
  · exact ⟨rfl, rfl, rfl, rfl, rfl, Nat.le_refl _, fun _ h => h, fun i h => by simp [h]⟩
  · refine ⟨rfl, rfl, rfl, rfl, rfl, ?_, fun _ h => h, fun _ h => h⟩
    simp only [BitVec.toNat_or]
    exact Nat.left_le_or
  · exact ⟨rfl, rfl, rfl, rfl, rfl, Nat.le_refl _, fun i h => by simp [h], fun _ h => h⟩
  · exact ⟨rfl, rfl, rfl, rfl, rfl, Nat.le_refl _, fun _ h => h, fun _ h => h⟩

theorem tokenAct_follows {z : State} {T : List Field} {s : State} {action arg : Nat} (hT : [.locket] ⊆ T) (hz : z.follows T s) :
    z.follows T (tokenAct s action arg) := by
  unfold tokenAct
  split
  · exact extendMeas_follows (List.Subset.trans (by decide) hT) (modLocket_follows (List.Subset.trans (by decide) hT) hz ⟨rfl, rfl⟩)
  · exact burn_follows (List.Subset.trans (by decide) hT) hz (tokenBurn_burns action arg)

theorem partly_burns (x y : Fuses) (m : Nat) : x.burnsTo (x.partly y m) := by
  refine ⟨rfl, rfl, rfl, rfl, rfl, ?_, fun i h => by simp [Fuses.partly, h], fun i h => by simp [Fuses.partly, h]⟩
  simp only [Fuses.partly, BitVec.toNat_or]
  exact Nat.left_le_or

theorem burnFails_follows {z : State} {T : List Field} {s : State} {action arg : Nat} (hT : Field.but [.time, .facetRam, .board] ⊆ T) (hz : z.follows T s) :
    z.follows T (burnFails s action arg) := by
  unfold burnFails
  exact raiseSrc_follows (List.Subset.trans (by decide) hT) (burn_follows (List.Subset.trans (by decide) hT) (drawNat_follows (List.Subset.trans (by decide) hT) hz) fun x => partly_burns x _ _)

theorem tokenDone_follows {z : State} {T : List Field} {s : State} {action arg : Nat} (hT : Field.but [.time, .facetRam, .board] ⊆ T) (hz : z.follows T s) :
    z.follows T (tokenDone s action arg).2 := by
  unfold tokenDone
  repeat' first
    | with_reducible exact List.Subset.trans (by decide) hT
    | intro _
    | with_reducible (first | assumption | apply burnFails_follows | apply drawBool_follows | apply tokenAct_follows
                            | apply ite_follows)
    | dsimp only | split

theorem tokenGo_follows {z : State} {T : List Field} {s : State} (hT : Field.but [.time, .facetRam, .board] ⊆ T) (hz : z.follows T s) :
    z.follows T (tokenGo s) := by
  unfold tokenGo
  repeat' first
    | with_reducible exact List.Subset.trans (by decide) hT
    | intro _
    | with_reducible (first | assumption | apply modLocket_follows | apply drawNat_follows | apply tokenDone_follows
                            | apply ite_follows)
    | exact ⟨rfl, rfl⟩
    | dsimp only | split

theorem tokenRow_follows {z : State} {T : List Field} {s : State} {action : Nat} (hT : Field.but [.time, .facetRam, .board] ⊆ T) (hz : z.follows T s) :
    z.follows T (tokenRow s action) := by
  unfold tokenRow
  repeat' first
    | with_reducible exact List.Subset.trans (by decide) hT
    | intro _
    | with_reducible (first | assumption | apply tokenGo_follows | apply ite_follows)
    | dsimp only | split

theorem execRevokeSlot_follows {z fin : State} {T : List Field} {s : State} (hT : Field.but [.time, .facetRam, .board] ⊆ T) (e : execRevokeSlot s = .next fin) (hz : z.follows T s) :
    z.follows T fin := by
  unfold execRevokeSlot at e
  injection e with e
  subst e
  repeat' first
    | with_reducible exact List.Subset.trans (by decide) hT
    | intro _
    | with_reducible (first | assumption | apply tokenRow_follows | apply ite_follows)
    | dsimp only | split

theorem execAdvanceLifecycle_follows {z fin : State} {T : List Field} {s : State} (hT : Field.but [.time, .facetRam, .board] ⊆ T) (e : execAdvanceLifecycle s = .next fin) (hz : z.follows T s) :
    z.follows T fin := by
  unfold execAdvanceLifecycle at e
  injection e with e
  subst e
  repeat' first
    | with_reducible exact List.Subset.trans (by decide) hT
    | intro _
    | with_reducible (first | assumption | apply tokenRow_follows | apply ite_follows)
    | dsimp only | split

theorem execDebugOpen_follows {z fin : State} {T : List Field} {s : State} (hT : Field.but [.time, .facetRam, .board] ⊆ T) (e : execDebugOpen s = .next fin) (hz : z.follows T s) :
    z.follows T fin := by
  unfold execDebugOpen at e
  injection e with e
  subst e
  repeat' first
    | with_reducible exact List.Subset.trans (by decide) hT
    | intro _
    | with_reducible (first | assumption | apply tokenRow_follows | apply ite_follows)
    | dsimp only | split

theorem execSetDebugLock_follows {z fin : State} {T : List Field} {s : State} (hT : Field.but [.time, .facetRam, .board] ⊆ T) (e : execSetDebugLock s = .next fin) (hz : z.follows T s) :
    z.follows T fin := by
  unfold execSetDebugLock at e
  injection e with e
  subst e
  repeat' first
    | with_reducible exact List.Subset.trans (by decide) hT
    | intro _
    | with_reducible (first | assumption | apply tokenRow_follows | apply ite_follows)
    | dsimp only | split

theorem execBoundaryScanInstruction_follows {z fin : State} {T : List Field} {i : ScanInstr} {s : State} (hT : [.out, .board] ⊆ T) (e : execBoundaryScanInstruction i s = .next fin) (hz : z.follows T s) :
    z.follows T fin := by
  unfold execBoundaryScanInstruction at e
  injection e with e
  subst e
  repeat' first
    | with_reducible exact List.Subset.trans (by decide) hT
    | intro _
    | with_reducible (first | assumption | apply emit_follows | apply ite_follows)
    | dsimp only | split
    | (simp only [follows_mk]; apply keeps_of) | with_reducible exact Or.inr rfl
    | exact Or.inl (hT (by decide)) | exact Or.inl ⟨hT (by decide), rfl, rfl⟩
    | exact Or.inl ⟨hT (by decide), fun h => h⟩ | (refine Or.inl ⟨hT (by decide), ?_⟩)

theorem execFruAccess_follows {z fin : State} {T : List Field} {op : FruOp} {s : State} (hT : [.out, .board] ⊆ T) (e : execFruAccess op s = .next fin) (hz : z.follows T s) :
    z.follows T fin := by
  unfold execFruAccess at e
  injection e with e
  subst e
  repeat' first
    | with_reducible exact List.Subset.trans (by decide) hT
    | intro _
    | with_reducible (first | assumption | apply emit_follows | apply ite_follows)
    | dsimp only | split
    | (simp only [follows_mk]; apply keeps_of) | with_reducible exact Or.inr rfl
    | exact Or.inl (hT (by decide)) | exact Or.inl ⟨hT (by decide), rfl, rfl⟩
    | exact Or.inl ⟨hT (by decide), fun h => h⟩ | (refine Or.inl ⟨hT (by decide), ?_⟩)

theorem entryView_follows {z : State} {T : List Field} {s : State} (hT : [.facets, .near, .hbm, .flash] ⊆ T) (hz : z.follows T s) :
    z.follows T (entryView s) := by
  unfold entryView
  repeat' first
    | with_reducible exact List.Subset.trans (by decide) hT
    | intro _
    | with_reducible (first | assumption | apply modFlash_follows | apply modHbm_follows | apply modNear_follows
                            | apply ite_follows)
    | dsimp only | split
    | (simp only [follows_mk]; apply keeps_of) | with_reducible exact Or.inr rfl
    | exact Or.inl (hT (by decide)) | exact Or.inl ⟨hT (by decide), rfl, rfl⟩
    | exact Or.inl ⟨hT (by decide), fun h => h⟩ | (refine Or.inl ⟨hT (by decide), ?_⟩)

end Sys2Proof.Machine
end

