-- ==== Sys2Proof/Laws/FollowsHost.lean ====
section
/-! SUPPORT. What the operations of admission, writes, administration, loads and register writes may change: one lemma
`<operation>_follows` for each, to be cited in place of its definition (`State.follows`). -/

set_option linter.unreachableTactic false
set_option linter.unusedTactic false

namespace Sys2Proof.Machine

theorem addWindow_follows {z : State} {T : List Field} {s : State} {k : CountOf} {c : PosCount} (hT : [.learn] ⊆ T) (hz : z.follows T s) :
    z.follows T (addWindow s k c) := by
  unfold addWindow
  repeat' first
    | with_reducible exact List.Subset.trans (by decide) hT
    | intro _
    | with_reducible (first | assumption | apply modLearn_follows | apply ite_follows)
    | dsimp only | split

theorem addSat_follows {z : State} {T : List Field} {s : State} {k : CountOf} {c : PosCount} (hT : [.out, .host, .events, .counters] ⊆ T) (hz : z.follows T s) :
    z.follows T (addSat s k c) := by
  unfold addSat
  repeat' first
    | with_reducible exact List.Subset.trans (by decide) hT
    | intro _
    | with_reducible (first | assumption | apply raiseEvent_follows | apply ite_follows)
    | dsimp only | split
    | (simp only [follows_mk]; apply keeps_of) | with_reducible exact Or.inr rfl
    | exact Or.inl (hT (by decide)) | exact Or.inl ⟨hT (by decide), rfl, rfl⟩
    | exact Or.inl ⟨hT (by decide), fun h => h⟩ | (refine Or.inl ⟨hT (by decide), ?_⟩)

theorem countAt_follows {z : State} {T : List Field} {k : CountOf} {s : State} {c : PosCount} (hT : [.out, .host, .events, .counters, .learn] ⊆ T) (hz : z.follows T s) :
    z.follows T (countAt k s c) := by
  unfold countAt
  repeat' first
    | with_reducible exact List.Subset.trans (by decide) hT
    | intro _
    | with_reducible (first | assumption | apply addSat_follows | apply addWindow_follows | apply ite_follows)
    | dsimp only | split

theorem countEncode_follows {z : State} {T : List Field} {s : State} {k : CountOf} {enc : Encoder} {ord : List Nat} {xs : List Num} (hT : [.out, .host, .events, .counters, .learn] ⊆ T) (hz : z.follows T s) :
    z.follows T (countEncode s k enc ord xs) := by
  unfold countEncode
  repeat' first
    | with_reducible exact List.Subset.trans (by decide) hT
    | intro _
    | with_reducible (first | assumption | apply countAt_follows | apply foldl_follows | apply ite_follows)
    | dsimp only | split

theorem countEpoch_follows {z : State} {T : List Field} {s : State} {coll : Nat} {ep : Epoch} {ord : List Nat} {xs : List Num} (hT : [.out, .host, .events, .counters, .learn] ⊆ T) (hz : z.follows T s) :
    z.follows T (countEpoch s coll ep ord xs) := by
  unfold countEpoch
  repeat' first
    | with_reducible exact List.Subset.trans (by decide) hT
    | intro _
    | with_reducible (first | assumption | apply countEncode_follows | apply ite_follows)
    | dsimp only | split

theorem dropCounts_follows {z : State} {T : List Field} {s : State} {p : CountOf → Bool} (hT : [.counters, .learn] ⊆ T) (hz : z.follows T s) :
    z.follows T (dropCounts s p) := by
  unfold dropCounts
  repeat' first
    | with_reducible exact List.Subset.trans (by decide) hT
    | intro _
    | with_reducible (first | assumption | apply modLearn_follows | apply ite_follows)
    | dsimp only | split
    | (simp only [follows_mk]; apply keeps_of) | with_reducible exact Or.inr rfl
    | exact Or.inl (hT (by decide)) | exact Or.inl ⟨hT (by decide), rfl, rfl⟩
    | exact Or.inl ⟨hT (by decide), fun h => h⟩ | (refine Or.inl ⟨hT (by decide), ?_⟩)

theorem markRead_follows {z : State} {T : List Field} {s : State} {c : Cmd} (hT : [.queues] ⊆ T) (hz : z.follows T s) :
    z.follows T (markRead s c) := by
  unfold markRead
  repeat' first
    | with_reducible exact List.Subset.trans (by decide) hT
    | intro _
    | with_reducible (first | assumption | apply modQueues_follows | apply ite_follows)
    | dsimp only | split

theorem markWrite_follows {z : State} {T : List Field} {s : State} {c : Cmd} (hT : [.queues] ⊆ T) (hz : z.follows T s) :
    z.follows T (markWrite s c) := by
  unfold markWrite
  repeat' first
    | with_reducible exact List.Subset.trans (by decide) hT
    | intro _
    | with_reducible (first | assumption | apply modQueues_follows | apply ite_follows)
    | dsimp only | split

theorem refuseRaw_follows {z : State} {T : List Field} {s : State} {r : CmdRef} {st : BitVec 16} (hT : [.out, .host, .events, .counters] ⊆ T) (hz : z.follows T s) :
    z.follows T (refuseRaw s r st) := by
  unfold refuseRaw
  repeat' first
    | with_reducible exact List.Subset.trans (by decide) hT
    | intro _
    | with_reducible (first | assumption | apply bump_follows | apply closeOne_follows | apply transmit_follows
                            | apply ite_follows)
    | dsimp only | split

theorem takeTag_follows {z : State} {T : List Field} {s : State} {q t : Nat} (hT : [.queues] ⊆ T) (hz : z.follows T s) :
    z.follows T (takeTag s q t) := by
  unfold takeTag
  repeat' first
    | with_reducible exact List.Subset.trans (by decide) hT
    | intro _
    | with_reducible (first | assumption | apply modQueues_follows | apply ite_follows)
    | dsimp only | split

theorem wakeUp_follows {z : State} {T : List Field} {s : State} {op : BitVec 8} (hT : [.power] ⊆ T) (hz : z.follows T s) :
    z.follows T (wakeUp s op) := by
  unfold wakeUp
  repeat' first
    | with_reducible exact List.Subset.trans (by decide) hT
    | intro _
    | with_reducible (first | assumption | apply modPower_follows | apply ite_follows)
    | dsimp only | split

theorem receive_follows {z : State} {T : List Field} {op : BitVec 8} {c : Capsule} {decide_ : State → Cmd → State} {s : State}
    (hT : [.out, .power, .host, .queues, .events, .counters, .loader, .flash, .pools] ⊆ T)
    (hd : ∀ t k, z.follows T t → z.follows T (decide_ t k)) (hz : z.follows T s) : z.follows T (receive op c decide_ s) := by
  unfold receive
  repeat' first
    | with_reducible exact List.Subset.trans (by decide) hT
    | intro _
    | with_reducible (first | assumption | apply hd | apply modQueues_follows | apply dropObjects_follows
                            | apply refuse_follows | apply refuseRaw_follows | apply setConn_follows
                            | apply takeTag_follows | apply wakeUp_follows | apply ite_follows)
    | dsimp only | split

theorem running_follows {z : State} {T : List Field} {s : State} {c : Cmd} (hT : [.out, .host, .queues, .events, .counters] ⊆ T) (hz : z.follows T s) :
    z.follows T (running s c) := by
  unfold running
  repeat' first
    | with_reducible exact List.Subset.trans (by decide) hT
    | intro _
    | with_reducible (first | assumption | apply countAdmit_follows | apply updCmd_follows | apply ite_follows)
    | dsimp only | split

theorem replyOk_follows {z : State} {T : List Field} {s : State} {c : Cmd} {area : BitVec 320} {body : List Byte} (hT : [.out, .host, .queues, .events, .counters, .flash, .pools] ⊆ T) (hz : z.follows T s) :
    z.follows T (replyOk s c area body) := by
  unfold replyOk
  repeat' first
    | with_reducible exact List.Subset.trans (by decide) hT
    | intro _
    | with_reducible (first | assumption | apply answer_follows | apply ite_follows)
    | dsimp only | split

theorem replyRefuse_follows {z : State} {T : List Field} {s : State} {c : Cmd} {st : BitVec 16} (hT : [.out, .host, .queues, .events, .counters, .flash, .pools] ⊆ T) (hz : z.follows T s) :
    z.follows T (replyRefuse s c st) := by
  unfold replyRefuse
  repeat' first
    | with_reducible exact List.Subset.trans (by decide) hT
    | intro _
    | with_reducible (first | assumption | apply refuse_follows | apply ite_follows)
    | dsimp only | split

theorem reserveFor_follows {z : State} {T : List Field} {s : State} {c : Cmd} {n : Nat} (hT : [.queues, .flash] ⊆ T) (hz : z.follows T s) :
    z.follows T (reserveFor s c n) := by
  unfold reserveFor
  repeat' first
    | with_reducible exact List.Subset.trans (by decide) hT
    | intro _
    | with_reducible (first | assumption | apply modFlash_follows | apply updCmd_follows | apply ite_follows)
    | dsimp only | split

theorem addRec_follows {z : State} {T : List Field} {s : State} {r : WriteRec} (hT : [.flash] ⊆ T) (hz : z.follows T s) :
    z.follows T (addRec s r) := by
  unfold addRec
  repeat' first
    | with_reducible exact List.Subset.trans (by decide) hT
    | intro _
    | with_reducible (first | assumption | apply modFlash_follows | apply ite_follows)
    | dsimp only | split

theorem commitDelete_follows {z : State} {T : List Field} {s : State} {id slot : Nat} (hT : [.flash, .colls] ⊆ T) (hz : z.follows T s) :
    z.follows T (commitDelete s id slot) := by
  unfold commitDelete
  repeat' first
    | with_reducible exact List.Subset.trans (by decide) hT
    | intro _
    | with_reducible (first | assumption | apply addRec_follows | apply updColl_follows | apply ite_follows)
    | dsimp only | split

theorem commitInsert_follows {z : State} {T : List Field} {s : State} {id : Nat} {item : BitVec 64} {e : Entry} {vec : Option (List Byte)} {row : List Byte} (hT : [.flash, .colls] ⊆ T) (hz : z.follows T s) :
    z.follows T (commitInsert s id item e vec row) := by
  unfold commitInsert
  repeat' first
    | with_reducible exact List.Subset.trans (by decide) hT
    | intro _
    | with_reducible (first | assumption | apply addRec_follows | apply setColl_follows | apply ite_follows)
    | dsimp only | split

theorem startStream_follows {z : State} {T : List Field} {s : State} {tid : Nat} {st : Stage} {facet : Nat} {coll : Option Nat} {params : List Nat} {ext : List (Nat × Nat)} (hT : [.streams] ⊆ T) (hz : z.follows T s) :
    z.follows T (startStream s tid st facet coll params ext) := by
  unfold startStream
  repeat' first
    | with_reducible exact List.Subset.trans (by decide) hT
    | intro _
    | with_reducible (first | assumption | apply modStreams_follows | apply ite_follows)
    | dsimp only | split

theorem addTask_follows {z : State} {T : List Field} {s : State} {k : TaskKind} {coll seg : Nat} {qids : List Nat} {feeds : Option Nat} (hT : [.streams] ⊆ T) (hz : z.follows T s) :
    z.follows T (addTask s k coll seg qids feeds).2 := by
  unfold addTask
  repeat' first
    | with_reducible exact List.Subset.trans (by decide) hT
    | intro _
    | with_reducible (first | assumption | apply modStreams_follows | apply ite_follows)
    | dsimp only | split

theorem launchTensor_follows {z : State} {T : List Field} {s : State} {k : TaskKind} {coll : Nat} {facet : Nat} (hT : [.streams] ⊆ T) (hz : z.follows T s) :
    z.follows T (launchTensor s k coll facet) := by
  unfold launchTensor
  repeat' first
    | with_reducible exact List.Subset.trans (by decide) hT
    | intro _
    | with_reducible (first | assumption | apply addTask_follows | apply startStream_follows | apply ite_follows)
    | dsimp only | split

theorem endTasks_follows {z : State} {T : List Field} {s : State} {p : Task → Bool} (hT : [.streams] ⊆ T) (hz : z.follows T s) :
    z.follows T (endTasks s p) := by
  unfold endTasks
  repeat' first
    | with_reducible exact List.Subset.trans (by decide) hT
    | intro _
    | with_reducible (first | assumption | apply modStreams_follows | apply ite_follows)
    | dsimp only | split

theorem startMerge_follows {z s t : State} {T : List Field} {id b : Nat} (hT : [.colls, .streams] ⊆ T) (hz : z.follows T s)
    (e : startMerge s id b = some t) : z.follows T t := by
  unfold startMerge at e
  split at e
  · cases e
  · dsimp only at e
    split at e
    · cases e
    · injection e with e
      subst e
      exact launchTensor_follows (List.Subset.trans (by decide) hT) (setColl_follows (List.Subset.trans (by decide) hT) hz)

theorem execMergeBuildComplete_follows {z fin : State} {T : List Field} {coll : Nat} {aborted : Bool} {ord : List Nat} {s : State} (hT : [.out, .host, .events, .counters, .colls, .streams, .learn] ⊆ T) (e : execMergeBuildComplete coll aborted ord s = .next fin) (hz : z.follows T s) :
    z.follows T fin := by
  unfold execMergeBuildComplete at e
  injection e with e
  subst e
  repeat' first
    | with_reducible exact List.Subset.trans (by decide) hT
    | intro _
    | with_reducible (first | assumption | apply countEpoch_follows | apply endTasks_follows | apply setColl_follows
                            | apply foldl_follows | apply ite_follows)
    | dsimp only | split

theorem placeSegment_follows {z : State} {T : List Field} {s : State} {id b : Nat} {g : Segment} (hT : [.free, .flash, .colls] ⊆ T) (hz : z.follows T s) :
    z.follows T (placeSegment s id b g) := by
  unfold placeSegment
  repeat' first
    | with_reducible exact List.Subset.trans (by decide) hT
    | intro _
    | with_reducible (first | assumption | apply placeFree_follows | apply setColl_follows | apply foldl_follows
                            | apply ite_follows)
    | dsimp only | split

theorem addSegment_follows {z : State} {T : List Field} {s : State} {id p : Nat} {ep : Epoch} {es : List Entry} (hT : [.free, .flash, .colls] ⊆ T) (hz : z.follows T s) :
    z.follows T (addSegment s id p ep es) := by
  unfold addSegment
  repeat' first
    | with_reducible exact List.Subset.trans (by decide) hT
    | intro _
    | with_reducible (first | assumption | apply placeSegment_follows | apply setColl_follows | apply ite_follows)
    | dsimp only | split

theorem publishMerge_follows {z : State} {T : List Field} {s : State} {id p : Nat} (hT : [.free, .flash, .colls] ⊆ T) (hz : z.follows T s) :
    z.follows T (publishMerge s id p) := by
  unfold publishMerge
  repeat' first
    | with_reducible exact List.Subset.trans (by decide) hT
    | intro _
    | with_reducible (first | assumption | apply addRec_follows | apply addSegment_follows | apply setColl_follows
                            | apply updColl_follows | apply foldl_follows | apply ite_follows)
    | dsimp only | split

theorem freeAll_follows {z : State} {T : List Field} {s : State} {b : Nat} (hT : [.flash, .colls] ⊆ T) (hz : z.follows T s) :
    z.follows T (freeAll s b) := by
  unfold freeAll
  repeat' first
    | with_reducible exact List.Subset.trans (by decide) hT
    | intro _
    | with_reducible (first | assumption | apply modFlash_follows | apply addRec_follows | apply mapColls_follows
                            | apply foldl_follows | apply ite_follows)
    | dsimp only | split

theorem execSignatureBuildComplete_follows {z fin : State} {T : List Field} {coll : Nat} {aborted : Bool} {ord : List Nat} {s : State} (hT : [.out, .free, .host, .queues, .events, .counters, .flash, .colls, .pools, .streams, .learn] ⊆ T) (e : execSignatureBuildComplete coll aborted ord s = .next fin) (hz : z.follows T s) :
    z.follows T fin := by
  unfold execSignatureBuildComplete at e
  injection e with e
  subst e
  repeat' first
    | with_reducible exact List.Subset.trans (by decide) hT
    | intro _
    | with_reducible (first | assumption | apply countEpoch_follows | apply endTasks_follows | apply refuse_follows
                            | apply updColl_follows | apply foldl_follows | apply ite_follows)
    | dsimp only | split
    | (simp only [follows_mk]; apply keeps_of) | with_reducible exact Or.inr rfl
    | exact Or.inl (hT (by decide)) | exact Or.inl ⟨hT (by decide), rfl, rfl⟩
    | exact Or.inl ⟨hT (by decide), fun h => h⟩ | (refine Or.inl ⟨hT (by decide), ?_⟩)

theorem publishEpoch_follows {z : State} {T : List Field} {s : State} {id b : Nat} (hT : [.out, .host, .queues, .events, .counters, .flash, .colls, .pools] ⊆ T) (hz : z.follows T s) :
    z.follows T (publishEpoch s id b) := by
  unfold publishEpoch
  repeat' first
    | with_reducible exact List.Subset.trans (by decide) hT
    | intro _
    | with_reducible (first | assumption | apply answer_follows | apply setColl_follows | apply ite_follows)
    | dsimp only | split

theorem stagePart_follows {z : State} {T : List Field} {s : State} {o : OpenObj} {n : Nat} (hT : [.queues, .loader] ⊆ T) (hz : z.follows T s) :
    z.follows T (stagePart s o n) := by
  unfold stagePart
  repeat' first
    | with_reducible exact List.Subset.trans (by decide) hT
    | intro _
    | with_reducible (first | assumption | apply modLoader_follows | apply modQueues_follows | apply ite_follows)
    | dsimp only | split

theorem refusePart_follows {z : State} {T : List Field} {s : State} {c : Cmd} {st : BitVec 16} (hT : [.out, .host, .queues, .events, .counters, .loader, .flash, .pools] ⊆ T) (hz : z.follows T s) :
    z.follows T (refusePart s c st) := by
  unfold refusePart
  repeat' first
    | with_reducible exact List.Subset.trans (by decide) hT
    | intro _
    | with_reducible (first | assumption | apply dropObjects_follows | apply refuse_follows | apply ite_follows)
    | dsimp only | split

theorem closeObject_follows {z : State} {T : List Field} {s : State} {c : Cmd} (hT : [.queues, .loader] ⊆ T) (hz : z.follows T s) :
    z.follows T (closeObject s c) := by
  unfold closeObject
  repeat' first
    | with_reducible exact List.Subset.trans (by decide) hT
    | intro _
    | with_reducible (first | assumption | apply dropObjects_follows | apply ite_follows)
    | dsimp only | split

theorem admitWrite_follows {z : State} {T : List Field} {s : State} {c : Cmd} {n : Nat} (hT : [.out, .host, .queues, .events, .counters, .flash, .pools] ⊆ T) (hz : z.follows T s) :
    z.follows T (admitWrite s c n) := by
  unfold admitWrite
  repeat' first
    | with_reducible exact List.Subset.trans (by decide) hT
    | intro _
    | with_reducible (first | assumption | apply countAdmit_follows | apply replyRefuse_follows
                            | apply reserveFor_follows | apply updCmd_follows | apply ite_follows)
    | dsimp only | split

theorem decideItem_follows {z : State} {T : List Field} {s : State} {c : Cmd} (hT : [.out, .host, .queues, .events, .counters, .flash, .pools, .streams] ⊆ T) (hz : z.follows T s) :
    z.follows T (decideItem s c) := by
  unfold decideItem
  repeat' first
    | with_reducible exact List.Subset.trans (by decide) hT
    | intro _
    | with_reducible (first | assumption | apply admitWrite_follows | apply launchTensor_follows
                            | apply replyRefuse_follows | apply ite_follows)
    | dsimp only | split

theorem execInsert_follows {z fin : State} {T : List Field} {c : Capsule} {s : State} (hT : [.out, .power, .host, .queues, .events, .counters, .loader, .flash, .pools, .streams] ⊆ T) (e : execInsert c s = .next fin) (hz : z.follows T s) :
    z.follows T fin := by
  unfold execInsert at e
  injection e with e
  subst e
  repeat' first
    | with_reducible exact List.Subset.trans (by decide) hT
    | intro _
    | with_reducible (first | assumption | apply decideItem_follows | apply receive_follows | apply ite_follows)
    | dsimp only | split

theorem execUpsert_follows {z fin : State} {T : List Field} {c : Capsule} {s : State} (hT : [.out, .power, .host, .queues, .events, .counters, .loader, .flash, .pools, .streams] ⊆ T) (e : execUpsert c s = .next fin) (hz : z.follows T s) :
    z.follows T fin := by
  unfold execUpsert at e
  injection e with e
  subst e
  repeat' first
    | with_reducible exact List.Subset.trans (by decide) hT
    | intro _
    | with_reducible (first | assumption | apply decideItem_follows | apply receive_follows | apply ite_follows)
    | dsimp only | split

theorem applyItem_follows {z : State} {T : List Field} {s : State} {c : Cmd} {k : Coll} {want : Nat} {ord : List Nat} (hT : [.out, .host, .queues, .events, .counters, .flash, .colls, .pools, .learn] ⊆ T) (hz : z.follows T s) :
    z.follows T (applyItem s c k want ord) := by
  unfold applyItem
  repeat' first
    | with_reducible exact List.Subset.trans (by decide) hT
    | intro _
    | with_reducible (first | assumption | apply commitDelete_follows | apply commitInsert_follows
                            | apply countEpoch_follows | apply markWrite_follows | apply replyOk_follows
                            | apply replyRefuse_follows | apply ite_follows)
    | dsimp only | split

theorem decideDelete_follows {z : State} {T : List Field} {s : State} {c : Cmd} (hT : [.out, .host, .queues, .events, .counters, .flash, .pools] ⊆ T) (hz : z.follows T s) :
    z.follows T (decideDelete s c) := by
  unfold decideDelete
  repeat' first
    | with_reducible exact List.Subset.trans (by decide) hT
    | intro _
    | with_reducible (first | assumption | apply admitWrite_follows | apply replyRefuse_follows | apply ite_follows)
    | dsimp only | split

theorem execDelete_follows {z fin : State} {T : List Field} {c : Capsule} {s : State} (hT : [.out, .power, .host, .queues, .events, .counters, .loader, .flash, .pools] ⊆ T) (e : execDelete c s = .next fin) (hz : z.follows T s) :
    z.follows T fin := by
  unfold execDelete at e
  injection e with e
  subst e
  repeat' first
    | with_reducible exact List.Subset.trans (by decide) hT
    | intro _
    | with_reducible (first | assumption | apply decideDelete_follows | apply receive_follows | apply ite_follows)
    | dsimp only | split

theorem applyDelete_follows {z : State} {T : List Field} {s : State} {c : Cmd} {k : Coll} (hT : [.out, .host, .queues, .events, .counters, .flash, .colls, .pools] ⊆ T) (hz : z.follows T s) :
    z.follows T (applyDelete s c k) := by
  unfold applyDelete
  repeat' first
    | with_reducible exact List.Subset.trans (by decide) hT
    | intro _
    | with_reducible (first | assumption | apply commitDelete_follows | apply markWrite_follows
                            | apply replyOk_follows | apply replyRefuse_follows | apply ite_follows)
    | dsimp only | split

theorem decideFilterPut_follows {z : State} {T : List Field} {s : State} {c : Cmd} (hT : [.out, .host, .queues, .events, .counters, .loader, .flash, .pools] ⊆ T) (hz : z.follows T s) :
    z.follows T (decideFilterPut s c) := by
  unfold decideFilterPut
  repeat' first
    | with_reducible exact List.Subset.trans (by decide) hT
    | intro _
    | with_reducible (first | assumption | apply admitWrite_follows | apply refusePart_follows
                            | apply replyOk_follows | apply stagePart_follows | apply ite_follows)
    | dsimp only | split

theorem execFilterPut_follows {z fin : State} {T : List Field} {c : Capsule} {s : State} (hT : [.out, .power, .host, .queues, .events, .counters, .loader, .flash, .pools] ⊆ T) (e : execFilterPut c s = .next fin) (hz : z.follows T s) :
    z.follows T fin := by
  unfold execFilterPut at e
  injection e with e
  subst e
  repeat' first
    | with_reducible exact List.Subset.trans (by decide) hT
    | intro _
    | with_reducible (first | assumption | apply decideFilterPut_follows | apply receive_follows | apply ite_follows)
    | dsimp only | split

theorem applyFilterPut_follows {z : State} {T : List Field} {s : State} {c : Cmd} {k : Coll} (hT : [.out, .free, .host, .queues, .events, .counters, .loader, .flash, .colls, .pools] ⊆ T) (hz : z.follows T s) :
    z.follows T (applyFilterPut s c k) := by
  unfold applyFilterPut
  repeat' first
    | with_reducible exact List.Subset.trans (by decide) hT
    | intro _
    | with_reducible (first | assumption | apply addRec_follows | apply dropObjects_follows
                            | apply markWrite_follows | apply placeFree_follows | apply replyOk_follows
                            | apply replyRefuse_follows | apply setColl_follows | apply foldl_follows
                            | apply ite_follows)
    | dsimp only | split

theorem decideFilterDrop_follows {z : State} {T : List Field} {s : State} {c : Cmd} (hT : [.out, .host, .queues, .events, .counters, .flash, .pools] ⊆ T) (hz : z.follows T s) :
    z.follows T (decideFilterDrop s c) := by
  unfold decideFilterDrop
  repeat' first
    | with_reducible exact List.Subset.trans (by decide) hT
    | intro _
    | with_reducible (first | assumption | apply admitWrite_follows | apply replyRefuse_follows | apply ite_follows)
    | dsimp only | split

theorem execFilterDrop_follows {z fin : State} {T : List Field} {c : Capsule} {s : State} (hT : [.out, .power, .host, .queues, .events, .counters, .loader, .flash, .pools] ⊆ T) (e : execFilterDrop c s = .next fin) (hz : z.follows T s) :
    z.follows T fin := by
  unfold execFilterDrop at e
  injection e with e
  subst e
  repeat' first
    | with_reducible exact List.Subset.trans (by decide) hT
    | intro _
    | with_reducible (first | assumption | apply decideFilterDrop_follows | apply receive_follows
                            | apply ite_follows)
    | dsimp only | split

theorem applyFilterDrop_follows {z : State} {T : List Field} {s : State} {c : Cmd} {k : Coll} (hT : [.out, .host, .queues, .events, .counters, .flash, .colls, .pools] ⊆ T) (hz : z.follows T s) :
    z.follows T (applyFilterDrop s c k) := by
  unfold applyFilterDrop
  repeat' first
    | with_reducible exact List.Subset.trans (by decide) hT
    | intro _
    | with_reducible (first | assumption | apply addRec_follows | apply markWrite_follows | apply replyOk_follows
                            | apply replyRefuse_follows | apply setColl_follows | apply ite_follows)
    | dsimp only | split

theorem applyWrite_follows {z : State} {T : List Field} {s : State} {c : Cmd} {slot : Nat} {ord : List Nat} (hT : [.out, .free, .host, .queues, .events, .counters, .loader, .flash, .colls, .pools, .streams, .learn] ⊆ T) (hz : z.follows T s) :
    z.follows T (applyWrite s c slot ord) := by
  unfold applyWrite
  repeat' first
    | with_reducible exact List.Subset.trans (by decide) hT
    | intro _
    | with_reducible (first | assumption | apply applyDelete_follows | apply applyFilterDrop_follows
                            | apply applyFilterPut_follows | apply applyItem_follows | apply dropObjects_follows
                            | apply endTasks_follows | apply replyRefuse_follows | apply ite_follows)
    | dsimp only | split

theorem commitWrite_follows {z : State} {T : List Field} {s : State} {c : Cmd} {slot : Nat} {ord : List Nat} (hT : [.out, .free, .host, .queues, .events, .counters, .loader, .flash, .colls, .pools, .streams, .learn] ⊆ T) (hz : z.follows T s) :
    z.follows T (commitWrite s c slot ord) := by
  unfold commitWrite
  repeat' first
    | with_reducible exact List.Subset.trans (by decide) hT
    | intro _
    | with_reducible (first | assumption | apply modPools_follows | apply applyWrite_follows | apply ite_follows)
    | dsimp only | split

theorem execWriteCommit_follows {z fin : State} {T : List Field} {queue tag slot : Nat} {ord : List Nat} {s : State} (hT : [.out, .free, .host, .queues, .events, .counters, .loader, .flash, .colls, .pools, .streams, .learn] ⊆ T) (e : execWriteCommit queue tag slot ord s = .next fin) (hz : z.follows T s) :
    z.follows T fin := by
  unfold execWriteCommit at e
  injection e with e
  subst e
  repeat' first
    | with_reducible exact List.Subset.trans (by decide) hT
    | intro _
    | with_reducible (first | assumption | apply commitWrite_follows | apply ite_follows)
    | dsimp only | split

theorem replyFlush_follows {z : State} {T : List Field} {s : State} {c : Cmd} (hT : [.out, .host, .queues, .events, .counters, .flash, .pools] ⊆ T) (hz : z.follows T s) :
    z.follows T (replyFlush s c) := by
  unfold replyFlush
  repeat' first
    | with_reducible exact List.Subset.trans (by decide) hT
    | intro _
    | with_reducible (first | assumption | apply replyOk_follows | apply ite_follows)
    | dsimp only | split

theorem decideFlush_follows {z : State} {T : List Field} {s : State} {c : Cmd} (hT : [.out, .host, .queues, .events, .counters, .flash, .pools] ⊆ T) (hz : z.follows T s) :
    z.follows T (decideFlush s c) := by
  unfold decideFlush
  repeat' first
    | with_reducible exact List.Subset.trans (by decide) hT
    | intro _
    | with_reducible (first | assumption | apply countAdmit_follows | apply replyFlush_follows
                            | apply replyRefuse_follows | apply updCmd_follows | apply ite_follows)
    | dsimp only | split

theorem execFlush_follows {z fin : State} {T : List Field} {c : Capsule} {s : State} (hT : [.out, .power, .host, .queues, .events, .counters, .loader, .flash, .pools] ⊆ T) (e : execFlush c s = .next fin) (hz : z.follows T s) :
    z.follows T fin := by
  unfold execFlush at e
  injection e with e
  subst e
  repeat' first
    | with_reducible exact List.Subset.trans (by decide) hT
    | intro _
    | with_reducible (first | assumption | apply decideFlush_follows | apply receive_follows | apply ite_follows)
    | dsimp only | split

theorem execFlushComplete_follows {z fin : State} {T : List Field} {queue tag : Nat} {s : State} (hT : [.out, .host, .queues, .events, .counters, .flash, .pools] ⊆ T) (e : execFlushComplete queue tag s = .next fin) (hz : z.follows T s) :
    z.follows T fin := by
  unfold execFlushComplete at e
  injection e with e
  subst e
  repeat' first
    | with_reducible exact List.Subset.trans (by decide) hT
    | intro _
    | with_reducible (first | assumption | apply replyFlush_follows | apply ite_follows)
    | dsimp only | split

theorem decideMergeHint_follows {z : State} {T : List Field} {s : State} {c : Cmd} (hT : [.out, .host, .queues, .events, .counters, .flash, .colls, .pools, .streams] ⊆ T) (hz : z.follows T s) :
    z.follows T (decideMergeHint s c) := by
  unfold decideMergeHint
  repeat' first
    | with_reducible exact List.Subset.trans (by decide) hT
    | intro _
    | with_reducible (first | assumption | apply replyOk_follows | apply replyRefuse_follows | apply updColl_follows
                            | apply ite_follows)
    | exact startMerge_follows (List.Subset.trans (by decide) hT) (by with_reducible assumption) (by assumption)
    | dsimp only | split

theorem execMergeHint_follows {z fin : State} {T : List Field} {c : Capsule} {s : State} (hT : [.out, .power, .host, .queues, .events, .counters, .loader, .flash, .colls, .pools, .streams] ⊆ T) (e : execMergeHint c s = .next fin) (hz : z.follows T s) :
    z.follows T fin := by
  unfold execMergeHint at e
  injection e with e
  subst e
  repeat' first
    | with_reducible exact List.Subset.trans (by decide) hT
    | intro _
    | with_reducible (first | assumption | apply decideMergeHint_follows | apply receive_follows | apply ite_follows)
    | dsimp only | split

theorem decideIdentify_follows {z : State} {T : List Field} {s : State} {c : Cmd} (hT : [.out, .host, .queues, .events, .counters, .flash, .pools] ⊆ T) (hz : z.follows T s) :
    z.follows T (decideIdentify s c) := by
  unfold decideIdentify
  repeat' first
    | with_reducible exact List.Subset.trans (by decide) hT
    | intro _
    | with_reducible (first | assumption | apply replyOk_follows | apply replyRefuse_follows | apply ite_follows)
    | dsimp only | split

theorem execIdentify_follows {z fin : State} {T : List Field} {c : Capsule} {s : State} (hT : [.out, .power, .host, .queues, .events, .counters, .loader, .flash, .pools] ⊆ T) (e : execIdentify c s = .next fin) (hz : z.follows T s) :
    z.follows T fin := by
  unfold execIdentify at e
  injection e with e
  subst e
  repeat' first
    | with_reducible exact List.Subset.trans (by decide) hT
    | intro _
    | with_reducible (first | assumption | apply decideIdentify_follows | apply receive_follows | apply ite_follows)
    | dsimp only | split

theorem decideQueueCreate_follows {z : State} {T : List Field} {s : State} {c : Cmd} (hT : [.out, .host, .queues, .events, .counters, .flash, .pools] ⊆ T) (hz : z.follows T s) :
    z.follows T (decideQueueCreate s c) := by
  unfold decideQueueCreate
  repeat' first
    | with_reducible exact List.Subset.trans (by decide) hT
    | intro _
    | with_reducible (first | assumption | apply modHost_follows | apply modQueues_follows | apply replyOk_follows
                            | apply replyRefuse_follows | apply ite_follows)
    | dsimp only | split

theorem execQueueCreate_follows {z fin : State} {T : List Field} {c : Capsule} {s : State} (hT : [.out, .power, .host, .queues, .events, .counters, .loader, .flash, .pools] ⊆ T) (e : execQueueCreate c s = .next fin) (hz : z.follows T s) :
    z.follows T fin := by
  unfold execQueueCreate at e
  injection e with e
  subst e
  repeat' first
    | with_reducible exact List.Subset.trans (by decide) hT
    | intro _
    | with_reducible (first | assumption | apply decideQueueCreate_follows | apply receive_follows
                            | apply ite_follows)
    | dsimp only | split

theorem decideQueueDelete_follows {z : State} {T : List Field} {s : State} {c : Cmd} (hT : [.out, .host, .queues, .events, .counters, .loader, .flash, .pools] ⊆ T) (hz : z.follows T s) :
    z.follows T (decideQueueDelete s c) := by
  unfold decideQueueDelete
  repeat' first
    | with_reducible exact List.Subset.trans (by decide) hT
    | intro _
    | with_reducible (first | assumption | apply modQueues_follows | apply dropObjects_follows
                            | apply replyOk_follows | apply replyRefuse_follows | apply ite_follows)
    | dsimp only | split

theorem execQueueDelete_follows {z fin : State} {T : List Field} {c : Capsule} {s : State} (hT : [.out, .power, .host, .queues, .events, .counters, .loader, .flash, .pools] ⊆ T) (e : execQueueDelete c s = .next fin) (hz : z.follows T s) :
    z.follows T fin := by
  unfold execQueueDelete at e
  injection e with e
  subst e
  repeat' first
    | with_reducible exact List.Subset.trans (by decide) hT
    | intro _
    | with_reducible (first | assumption | apply decideQueueDelete_follows | apply receive_follows
                            | apply ite_follows)
    | dsimp only | split

theorem decideAttest_follows {z : State} {T : List Field} {s : State} {c : Cmd} (hT : [.out, .host, .queues, .events, .counters, .flash, .pools] ⊆ T) (hz : z.follows T s) :
    z.follows T (decideAttest s c) := by
  unfold decideAttest
  repeat' first
    | with_reducible exact List.Subset.trans (by decide) hT
    | intro _
    | with_reducible (first | assumption | apply replyOk_follows | apply replyRefuse_follows | apply ite_follows)
    | dsimp only | split

theorem execAttest_follows {z fin : State} {T : List Field} {c : Capsule} {s : State} (hT : [.out, .power, .host, .queues, .events, .counters, .loader, .flash, .pools] ⊆ T) (e : execAttest c s = .next fin) (hz : z.follows T s) :
    z.follows T fin := by
  unfold execAttest at e
  injection e with e
  subst e
  repeat' first
    | with_reducible exact List.Subset.trans (by decide) hT
    | intro _
    | with_reducible (first | assumption | apply decideAttest_follows | apply receive_follows | apply ite_follows)
    | dsimp only | split

theorem decidePowerState_follows {z : State} {T : List Field} {s : State} {c : Cmd} (hT : [.out, .power, .host, .queues, .events, .counters, .flash, .pools] ⊆ T) (hz : z.follows T s) :
    z.follows T (decidePowerState s c) := by
  unfold decidePowerState
  repeat' first
    | with_reducible exact List.Subset.trans (by decide) hT
    | intro _
    | with_reducible (first | assumption | apply modPower_follows | apply replyOk_follows
                            | apply replyRefuse_follows | apply running_follows | apply ite_follows)
    | dsimp only | split

theorem execPowerState_follows {z fin : State} {T : List Field} {c : Capsule} {s : State} (hT : [.out, .power, .host, .queues, .events, .counters, .loader, .flash, .pools] ⊆ T) (e : execPowerState c s = .next fin) (hz : z.follows T s) :
    z.follows T fin := by
  unfold execPowerState at e
  injection e with e
  subst e
  repeat' first
    | with_reducible exact List.Subset.trans (by decide) hT
    | intro _
    | with_reducible (first | assumption | apply decidePowerState_follows | apply receive_follows
                            | apply ite_follows)
    | dsimp only | split

theorem decideKeyLoad_follows {z : State} {T : List Field} {s : State} {c : Cmd} (hT : [.out, .locket, .host, .queues, .events, .counters, .flash, .pools] ⊆ T) (hz : z.follows T s) :
    z.follows T (decideKeyLoad s c) := by
  unfold decideKeyLoad
  repeat' first
    | with_reducible exact List.Subset.trans (by decide) hT
    | intro _
    | with_reducible (first | assumption | apply modLocket_follows | apply replyOk_follows
                            | apply replyRefuse_follows | apply ite_follows)
    | exact ⟨rfl, rfl⟩
    | dsimp only | split

theorem execKeyLoad_follows {z fin : State} {T : List Field} {c : Capsule} {s : State} (hT : [.out, .power, .locket, .host, .queues, .events, .counters, .loader, .flash, .pools] ⊆ T) (e : execKeyLoad c s = .next fin) (hz : z.follows T s) :
    z.follows T fin := by
  unfold execKeyLoad at e
  injection e with e
  subst e
  repeat' first
    | with_reducible exact List.Subset.trans (by decide) hT
    | intro _
    | with_reducible (first | assumption | apply decideKeyLoad_follows | apply receive_follows | apply ite_follows)
    | dsimp only | split

theorem deliverWaiting_follows {z : State} {T : List Field} {s : State} {id : Nat} {mask : Nat} (hT : [.out, .host, .events] ⊆ T) (hz : z.follows T s) :
    z.follows T (deliverWaiting s id mask) := by
  unfold deliverWaiting
  refine foldl_follows _ _ (fun t x h => deliverTo_follows (List.Subset.trans (by decide) hT) h) _ ?_
  simp only [follows_mk]
  apply keeps_of
  case h => exact hz
  case h_ev =>
    refine Or.inl ⟨hT (by decide), fun h => ?_⟩
    rw [List.length_map]
    exact h
  all_goals exact Or.inr rfl

theorem decideEventArm_follows {z : State} {T : List Field} {s : State} {c : Cmd} (hT : [.out, .host, .queues, .events, .counters, .flash, .pools] ⊆ T) (hz : z.follows T s) :
    z.follows T (decideEventArm s c) := by
  unfold decideEventArm
  repeat' first
    | with_reducible exact List.Subset.trans (by decide) hT
    | intro _
    | with_reducible (first | assumption | apply deliverWaiting_follows | apply replyOk_follows
                            | apply replyRefuse_follows | apply updConn_follows | apply ite_follows)
    | dsimp only | split

theorem execEventArm_follows {z fin : State} {T : List Field} {c : Capsule} {s : State} (hT : [.out, .power, .host, .queues, .events, .counters, .loader, .flash, .pools] ⊆ T) (e : execEventArm c s = .next fin) (hz : z.follows T s) :
    z.follows T fin := by
  unfold execEventArm at e
  injection e with e
  subst e
  repeat' first
    | with_reducible exact List.Subset.trans (by decide) hT
    | intro _
    | with_reducible (first | assumption | apply decideEventArm_follows | apply receive_follows | apply ite_follows)
    | dsimp only | split

theorem attachPages_follows {z : State} {T : List Field} {s : State} {id : Nat} (hT : [.colls] ⊆ T) (hz : z.follows T s) :
    z.follows T (attachPages s id) := by
  unfold attachPages
  repeat' first
    | with_reducible exact List.Subset.trans (by decide) hT
    | intro _
    | with_reducible (first | assumption | apply setColl_follows | apply updColl_follows | apply foldl_follows
                            | apply ite_follows)
    | dsimp only | split

theorem decideCreate_follows {z : State} {T : List Field} {s : State} {c : Cmd} (hT : [.out, .host, .queues, .events, .counters, .flash, .colls, .pools] ⊆ T) (hz : z.follows T s) :
    z.follows T (decideCreate s c) := by
  unfold decideCreate
  repeat' first
    | with_reducible exact List.Subset.trans (by decide) hT
    | intro _
    | with_reducible (first | assumption | apply attachPages_follows | apply replyOk_follows
                            | apply replyRefuse_follows | apply setColl_follows | apply ite_follows)
    | dsimp only | split

theorem execCollectionCreate_follows {z fin : State} {T : List Field} {c : Capsule} {s : State} (hT : [.out, .power, .host, .queues, .events, .counters, .loader, .flash, .colls, .pools] ⊆ T) (e : execCollectionCreate c s = .next fin) (hz : z.follows T s) :
    z.follows T fin := by
  unfold execCollectionCreate at e
  injection e with e
  subst e
  repeat' first
    | with_reducible exact List.Subset.trans (by decide) hT
    | intro _
    | with_reducible (first | assumption | apply decideCreate_follows | apply receive_follows | apply ite_follows)
    | dsimp only | split

theorem decideAttach_follows {z : State} {T : List Field} {s : State} {c : Cmd} (hT : [.out, .host, .queues, .events, .counters, .flash, .colls, .pools] ⊆ T) (hz : z.follows T s) :
    z.follows T (decideAttach s c) := by
  unfold decideAttach
  repeat' first
    | with_reducible exact List.Subset.trans (by decide) hT
    | intro _
    | with_reducible (first | assumption | apply attachPages_follows | apply replyOk_follows
                            | apply replyRefuse_follows | apply setColl_follows | apply ite_follows)
    | dsimp only | split

theorem execCollectionAttach_follows {z fin : State} {T : List Field} {c : Capsule} {s : State} (hT : [.out, .power, .host, .queues, .events, .counters, .loader, .flash, .colls, .pools] ⊆ T) (e : execCollectionAttach c s = .next fin) (hz : z.follows T s) :
    z.follows T fin := by
  unfold execCollectionAttach at e
  injection e with e
  subst e
  repeat' first
    | with_reducible exact List.Subset.trans (by decide) hT
    | intro _
    | with_reducible (first | assumption | apply decideAttach_follows | apply receive_follows | apply ite_follows)
    | dsimp only | split

theorem checkDiscovery_follows {z : State} {T : List Field} {s : State} (hT : [.out, .loader, .fabric] ⊆ T) (hz : z.follows T s) :
    z.follows T (checkDiscovery s) := by
  unfold checkDiscovery
  repeat' first
    | with_reducible exact List.Subset.trans (by decide) hT
    | intro _
    | with_reducible (first | assumption | apply modLoader_follows | apply originate_follows | apply ite_follows)
    | dsimp only | split

theorem loadBist_follows {z : State} {T : List Field} {s : State} {f : Nat} (hT : Field.but [.time, .locket, .facetRam, .board] ⊆ T) (hz : z.follows T s) :
    z.follows T (loadBist s f) := by
  unfold loadBist
  repeat' first
    | with_reducible exact List.Subset.trans (by decide) hT
    | intro _
    | with_reducible (first | assumption | apply drawBool_follows | apply fenceFacet_follows
                            | apply raiseSrc_follows | apply updFacet_follows | apply ite_follows)
    | dsimp only | split

theorem loadProngTest_follows {z : State} {T : List Field} {s : State} {c : Nat} (hT : Field.but [.time, .locket, .facetRam, .board] ⊆ T) (hz : z.follows T s) :
    z.follows T (loadProngTest s c) := by
  unfold loadProngTest
  repeat' first
    | with_reducible exact List.Subset.trans (by decide) hT
    | intro _
    | with_reducible (first | assumption | apply drawBool_follows | apply raiseSrc_follows
                            | apply updFlashCh_follows | apply ite_follows)
    | dsimp only | split

theorem trainHbm_follows {z : State} {T : List Field} {s : State} {ch : Nat} (hT : Field.but [.time, .locket, .facetRam, .board] ⊆ T) (hz : z.follows T s) :
    z.follows T (trainHbm s ch) := by
  unfold trainHbm
  repeat' first
    | with_reducible exact List.Subset.trans (by decide) hT
    | intro _
    | with_reducible (first | assumption | apply drawBool_follows | apply mapOut_follows | apply updChan_follows
                            | apply ite_follows)
    | dsimp only | split

theorem testBank_follows {z : State} {T : List Field} {s : State} {b : Nat} (hT : [.out, .free, .host, .events, .counters, .near, .colls, .streams] ⊆ T) (hz : z.follows T s) :
    z.follows T (testBank s b) := by
  unfold testBank
  repeat' first
    | with_reducible exact List.Subset.trans (by decide) hT
    | intro _
    | with_reducible (first | assumption | apply drawBool_follows | apply fenceBank_follows | apply setBank_follows
                            | apply ite_follows)
    | dsimp only | split

theorem trainFlash_follows {z : State} {T : List Field} {s : State} {c : Nat} (hT : [.free, .flash] ⊆ T) (hz : z.follows T s) :
    z.follows T (trainFlash s c) := by
  unfold trainFlash
  repeat' first
    | with_reducible exact List.Subset.trans (by decide) hT
    | intro _
    | with_reducible (first | assumption | apply modFlash_follows | apply bypassCore_follows | apply drawNat_follows
                            | apply updFlashCh_follows | apply ite_follows)
    | dsimp only | split

theorem applyFirmware_follows {z : State} {T : List Field} {s : State} {v : BitVec 32} {d : BitVec 256} (hT : Field.but [.time, .facetRam, .board] ⊆ T) (hz : z.follows T s) :
    z.follows T (applyFirmware s v d) := by
  unfold applyFirmware
  repeat' first
    | with_reducible exact List.Subset.trans (by decide) hT
    | intro _
    | with_reducible (first | assumption | apply modLoader_follows | apply extendMeas_follows
                            | apply testBank_follows | apply trainFlash_follows | apply trainHbm_follows
                            | apply foldl_follows | apply ite_follows)
    | dsimp only | split

theorem completeFirmware_follows {z : State} {T : List Field} {s : State} {c : Cmd} {bs : List Byte} (hT : Field.but [.time, .facetRam, .board] ⊆ T) (hz : z.follows T s) :
    z.follows T (completeFirmware s c bs) := by
  unfold completeFirmware
  repeat' first
    | with_reducible exact List.Subset.trans (by decide) hT
    | intro _
    | with_reducible (first | assumption | apply applyFirmware_follows | apply replyOk_follows
                            | apply replyRefuse_follows | apply ite_follows)
    | dsimp only | split

theorem decideFirmwareLoad_follows {z : State} {T : List Field} {s : State} {c : Cmd} (hT : Field.but [.time, .facetRam, .board] ⊆ T) (hz : z.follows T s) :
    z.follows T (decideFirmwareLoad s c) := by
  unfold decideFirmwareLoad
  repeat' first
    | with_reducible exact List.Subset.trans (by decide) hT
    | intro _
    | with_reducible (first | assumption | apply closeObject_follows | apply completeFirmware_follows
                            | apply refusePart_follows | apply replyOk_follows | apply stagePart_follows
                            | apply ite_follows)
    | dsimp only | split

theorem execFirmwareLoad_follows {z fin : State} {T : List Field} {c : Capsule} {s : State} (hT : Field.but [.time, .facetRam, .board] ⊆ T) (e : execFirmwareLoad c s = .next fin) (hz : z.follows T s) :
    z.follows T fin := by
  unfold execFirmwareLoad at e
  injection e with e
  subst e
  repeat' first
    | with_reducible exact List.Subset.trans (by decide) hT
    | intro _
    | with_reducible (first | assumption | apply decideFirmwareLoad_follows | apply receive_follows
                            | apply ite_follows)
    | dsimp only | split

theorem applySections_follows {z : State} {T : List Field} {s : State} {t : Setting} {d : BitVec 256} (hT : [.out, .power, .host, .events, .counters, .loader, .collectors, .flash, .learn] ⊆ T) (hz : z.follows T s) :
    z.follows T (applySections s t d) := by
  unfold applySections
  repeat' first
    | with_reducible exact List.Subset.trans (by decide) hT
    | intro _
    | with_reducible (first | assumption | apply modFlash_follows | apply modLearn_follows | apply modLoader_follows
                            | apply modPower_follows | apply freshReactions_follows | apply raiseEvent_follows
                            | apply ite_follows)
    | dsimp only | split

theorem applyBead_follows {z : State} {T : List Field} {s : State} {t : Setting} (hT : [.time] ⊆ T) (hz : z.follows T s) :
    z.follows T (applyBead s t) := by
  unfold applyBead
  repeat' first
    | with_reducible exact List.Subset.trans (by decide) hT
    | intro _
    | with_reducible (first | assumption | apply modTime_follows | apply ite_follows)
    | dsimp only | split

theorem applyFabric_follows {z : State} {T : List Field} {s : State} {f : FabricSec} (hT : [.fabric] ⊆ T) (hz : z.follows T s) :
    z.follows T (applyFabric s f) := by
  unfold applyFabric
  repeat' first
    | with_reducible exact List.Subset.trans (by decide) hT
    | intro _
    | with_reducible (first | assumption | apply modFabric_follows | apply updLink_follows | apply foldl_follows
                            | apply ite_follows)
    | dsimp only | split

theorem applySetting_follows {z : State} {T : List Field} {s : State} {t : Setting} {d : BitVec 256} (hT : Field.but [.facetRam, .board] ⊆ T) (hz : z.follows T s) :
    z.follows T (applySetting s t d) := by
  unfold applySetting
  repeat' first
    | with_reducible exact List.Subset.trans (by decide) hT
    | intro _
    | with_reducible (first | assumption | apply modQueues_follows | apply applyBead_follows
                            | apply applyFabric_follows | apply applySections_follows | apply checkDiscovery_follows
                            | apply extendMeas_follows | apply loadBist_follows | apply loadProngTest_follows
                            | apply foldl_follows | apply ite_follows)
    | dsimp only | split

theorem completeSetting_follows {z : State} {T : List Field} {s : State} {c : Cmd} {group : Nat} {bs : List Byte} (hT : Field.but [.facetRam, .board] ⊆ T) (hz : z.follows T s) :
    z.follows T (completeSetting s c group bs) := by
  unfold completeSetting
  repeat' first
    | with_reducible exact List.Subset.trans (by decide) hT
    | intro _
    | with_reducible (first | assumption | apply modLoader_follows | apply applySetting_follows
                            | apply replyOk_follows | apply replyRefuse_follows | apply running_follows
                            | apply ite_follows)
    | dsimp only | split

theorem decideSettingLoad_follows {z : State} {T : List Field} {s : State} {c : Cmd} (hT : Field.but [.facetRam, .board] ⊆ T) (hz : z.follows T s) :
    z.follows T (decideSettingLoad s c) := by
  unfold decideSettingLoad
  repeat' first
    | with_reducible exact List.Subset.trans (by decide) hT
    | intro _
    | with_reducible (first | assumption | apply closeObject_follows | apply completeSetting_follows
                            | apply refusePart_follows | apply replyOk_follows | apply stagePart_follows
                            | apply ite_follows)
    | dsimp only | split

theorem execSettingLoad_follows {z fin : State} {T : List Field} {c : Capsule} {s : State} (hT : Field.but [.facetRam, .board] ⊆ T) (e : execSettingLoad c s = .next fin) (hz : z.follows T s) :
    z.follows T fin := by
  unfold execSettingLoad at e
  injection e with e
  subst e
  repeat' first
    | with_reducible exact List.Subset.trans (by decide) hT
    | intro _
    | with_reducible (first | assumption | apply decideSettingLoad_follows | apply receive_follows
                            | apply ite_follows)
    | dsimp only | split

theorem partialLoad_follows {z : State} {T : List Field} {s : State} {p : PartialRun} (hT : Field.but [.time, .locket, .facetRam, .board] ⊆ T) (hz : z.follows T s) :
    z.follows T (partialLoad s p) := by
  unfold partialLoad
  repeat' first
    | with_reducible exact List.Subset.trans (by decide) hT
    | intro _
    | with_reducible (first | assumption | apply modLoader_follows | apply freshReactions_follows
                            | apply loadBist_follows | apply updFacet_follows | apply foldl_follows
                            | apply ite_follows)
    | dsimp only | split

theorem execPartialSettingFence_follows {z fin : State} {T : List Field} {s : State} (hT : Field.but [.time, .locket, .facetRam, .board] ⊆ T) (e : execPartialSettingFence s = .next fin) (hz : z.follows T s) :
    z.follows T fin := by
  unfold execPartialSettingFence at e
  injection e with e
  subst e
  repeat' first
    | with_reducible exact List.Subset.trans (by decide) hT
    | intro _
    | with_reducible (first | assumption | apply fenceFacet_follows | apply partialLoad_follows
                            | apply foldl_follows | apply ite_follows)
    | dsimp only | split

theorem releasePartial_follows {z : State} {T : List Field} {s : State} (hT : [.facets] ⊆ T) (hz : z.follows T s) :
    z.follows T (releasePartial s) := by
  unfold releasePartial
  repeat' first
    | with_reducible exact List.Subset.trans (by decide) hT
    | intro _
    | with_reducible (first | assumption | apply ite_follows)
    | dsimp only | split
    | (simp only [follows_mk]; apply keeps_of) | with_reducible exact Or.inr rfl
    | exact Or.inl (hT (by decide)) | exact Or.inl ⟨hT (by decide), rfl, rfl⟩
    | exact Or.inl ⟨hT (by decide), fun h => h⟩ | (refine Or.inl ⟨hT (by decide), ?_⟩)

theorem execPartialSettingRelease_follows {z fin : State} {T : List Field} {s : State} (hT : [.loader] ⊆ T) (e : execPartialSettingRelease s = .next fin) (hz : z.follows T s) :
    z.follows T fin := by
  unfold execPartialSettingRelease at e
  injection e with e
  subst e
  repeat' first
    | with_reducible exact List.Subset.trans (by decide) hT
    | intro _
    | with_reducible (first | assumption | apply modLoader_follows | apply ite_follows)
    | dsimp only | split

theorem partialRelease_follows {z : State} {T : List Field} {s : State} (hT : [.out, .locket, .host, .queues, .events, .counters, .loader, .facets, .flash, .pools] ⊆ T) (hz : z.follows T s) :
    z.follows T (partialRelease s) := by
  unfold partialRelease
  repeat' first
    | with_reducible exact List.Subset.trans (by decide) hT
    | intro _
    | with_reducible (first | assumption | apply modLoader_follows | apply answer_follows | apply extendMeas_follows
                            | apply releasePartial_follows | apply ite_follows)
    | dsimp only | split

theorem runs_follows {z : State} {T : List Field} {r : Res} {s : State} (hr : ∀ t, r = .next t → z.follows T t) (hz : z.follows T s) :
    z.follows T (runs r s) := by
  unfold runs
  split
  · exact hr _ rfl
  · exact hz

theorem writeRate_follows {z : State} {T : List Field} {s : State} {p : Nat} {rate : BitVec 2} (hT : [.host] ⊆ T) (hz : z.follows T s) :
    z.follows T (writeRate s p rate) := by
  unfold writeRate
  repeat' first
    | with_reducible exact List.Subset.trans (by decide) hT
    | intro _
    | with_reducible (first | assumption | apply updPort_follows | apply ite_follows)
    | dsimp only | split

theorem execHostifRateWrite_follows {z fin : State} {T : List Field} {p : Nat} {rate : BitVec 2} {s : State} (hT : [.host] ⊆ T) (e : execHostifRateWrite p rate s = .next fin) (hz : z.follows T s) :
    z.follows T fin := by
  unfold execHostifRateWrite at e
  injection e with e
  subst e
  repeat' first
    | with_reducible exact List.Subset.trans (by decide) hT
    | intro _
    | with_reducible (first | assumption | apply writeRate_follows | apply ite_follows)
    | dsimp only | split

theorem writeAddress_follows {z : State} {T : List Field} {s : State} {p off v : Nat} (hT : [.host] ⊆ T) (hz : z.follows T s) :
    z.follows T (writeAddress s p off v) := by
  unfold writeAddress
  repeat' first
    | with_reducible exact List.Subset.trans (by decide) hT
    | intro _
    | with_reducible (first | assumption | apply updPort_follows | apply ite_follows)
    | dsimp only | split

theorem execHostifAddressWrite_follows {z fin : State} {T : List Field} {p off : Nat} {v : BitVec 64} {s : State} (hT : [.host] ⊆ T) (e : execHostifAddressWrite p off v s = .next fin) (hz : z.follows T s) :
    z.follows T fin := by
  unfold execHostifAddressWrite at e
  injection e with e
  subst e
  repeat' first
    | with_reducible exact List.Subset.trans (by decide) hT
    | intro _
    | with_reducible (first | assumption | apply writeAddress_follows | apply ite_follows)
    | dsimp only | split

theorem writeCtrl_follows {z : State} {T : List Field} {s : State} {p v : Nat} (hT : [.host] ⊆ T) (hz : z.follows T s) :
    z.follows T (writeCtrl s p v) := by
  unfold writeCtrl
  repeat' first
    | with_reducible exact List.Subset.trans (by decide) hT
    | intro _
    | with_reducible (first | assumption | apply updPort_follows | apply writeAddress_follows
                            | apply writeRate_follows | apply ite_follows)
    | dsimp only | split

theorem writePort_follows {z : State} {T : List Field} {s : State} {p o v : Nat} (hT : Field.but [.free, .time, .locket, .facetRam, .board] ⊆ T) (hz : z.follows T s) :
    z.follows T (writePort s p o v) := by
  unfold writePort
  repeat' first
    | with_reducible exact List.Subset.trans (by decide) hT
    | intro _
    | with_reducible (first | assumption | apply runs_follows | apply writeAddress_follows | apply writeCtrl_follows
                            | apply ite_follows)
    | refine execHostifLoopback_follows (List.Subset.trans (by decide) hT) (by with_reducible assumption) ?_
    | dsimp only | split

theorem writeMgmtAddr_follows {z : State} {T : List Field} {s : State} {o v : Nat} (hT : [.host] ⊆ T) (hz : z.follows T s) :
    z.follows T (writeMgmtAddr s o v) := by
  unfold writeMgmtAddr
  repeat' first
    | with_reducible exact List.Subset.trans (by decide) hT
    | intro _
    | with_reducible (first | assumption | apply modHost_follows | apply ite_follows)
    | dsimp only | split

theorem writeDriftW_follows {z : State} {T : List Field} {s : State} {v : Nat} (hT : [.learn] ⊆ T) (hz : z.follows T s) :
    z.follows T (writeDriftW s v) := by
  unfold writeDriftW
  repeat' first
    | with_reducible exact List.Subset.trans (by decide) hT
    | intro _
    | with_reducible (first | assumption | apply modLearn_follows | apply ite_follows)
    | dsimp only | split

theorem writeDriftD_follows {z : State} {T : List Field} {s : State} {v : Nat} (hT : [.learn] ⊆ T) (hz : z.follows T s) :
    z.follows T (writeDriftD s v) := by
  unfold writeDriftD
  repeat' first
    | with_reducible exact List.Subset.trans (by decide) hT
    | intro _
    | with_reducible (first | assumption | apply modLearn_follows | apply ite_follows)
    | dsimp only | split

theorem execLearnDriftWindowWrite_follows {z fin : State} {T : List Field} {v : BitVec 64} {s : State} (hT : [.learn] ⊆ T) (e : execLearnDriftWindowWrite v s = .next fin) (hz : z.follows T s) :
    z.follows T fin := by
  unfold execLearnDriftWindowWrite at e
  injection e with e
  subst e
  repeat' first
    | with_reducible exact List.Subset.trans (by decide) hT
    | intro _
    | with_reducible (first | assumption | apply writeDriftW_follows | apply ite_follows)
    | dsimp only | split

theorem execLearnDriftLimitWrite_follows {z fin : State} {T : List Field} {v : BitVec 64} {s : State} (hT : [.learn] ⊆ T) (e : execLearnDriftLimitWrite v s = .next fin) (hz : z.follows T s) :
    z.follows T fin := by
  unfold execLearnDriftLimitWrite at e
  injection e with e
  subst e
  repeat' first
    | with_reducible exact List.Subset.trans (by decide) hT
    | intro _
    | with_reducible (first | assumption | apply writeDriftD_follows | apply ite_follows)
    | dsimp only | split

theorem delSat_follows {z : State} {T : List Field} {s : State} {p : Nat → Bool} (hT : [.counters] ⊆ T) (hz : z.follows T s) :
    z.follows T (delSat s p) := by
  unfold delSat
  repeat' first
    | with_reducible exact List.Subset.trans (by decide) hT
    | intro _
    | with_reducible (first | assumption | apply ite_follows)
    | dsimp only | split
    | (simp only [follows_mk]; apply keeps_of) | with_reducible exact Or.inr rfl
    | exact Or.inl (hT (by decide)) | exact Or.inl ⟨hT (by decide), rfl, rfl⟩
    | exact Or.inl ⟨hT (by decide), fun h => h⟩ | (refine Or.inl ⟨hT (by decide), ?_⟩)

theorem clearSatOne_follows {z : State} {T : List Field} {s : State} {sel : Nat} (hT : [.counters] ⊆ T) (hz : z.follows T s) :
    z.follows T (clearSatOne s sel) := by
  unfold clearSatOne
  repeat' first
    | with_reducible exact List.Subset.trans (by decide) hT
    | intro _
    | with_reducible (first | assumption | apply delSat_follows | apply ite_follows)
    | dsimp only | split

theorem clearSatTensor_follows {z : State} {T : List Field} {s : State} {sel : Nat} (hT : [.counters] ⊆ T) (hz : z.follows T s) :
    z.follows T (clearSatTensor s sel) := by
  unfold clearSatTensor
  repeat' first
    | with_reducible exact List.Subset.trans (by decide) hT
    | intro _
    | with_reducible (first | assumption | apply delSat_follows | apply ite_follows)
    | dsimp only | split

theorem execLearnSatClearOne_follows {z fin : State} {T : List Field} {queue : Nat} {s : State} (hT : [.counters] ⊆ T) (e : execLearnSatClearOne queue s = .next fin) (hz : z.follows T s) :
    z.follows T fin := by
  unfold execLearnSatClearOne at e
  injection e with e
  subst e
  repeat' first
    | with_reducible exact List.Subset.trans (by decide) hT
    | intro _
    | with_reducible (first | assumption | apply clearSatOne_follows | apply ite_follows)
    | dsimp only | split

theorem execLearnSatClearTensor_follows {z fin : State} {T : List Field} {queue : Nat} {s : State} (hT : [.counters] ⊆ T) (e : execLearnSatClearTensor queue s = .next fin) (hz : z.follows T s) :
    z.follows T fin := by
  unfold execLearnSatClearTensor at e
  injection e with e
  subst e
  repeat' first
    | with_reducible exact List.Subset.trans (by decide) hT
    | intro _
    | with_reducible (first | assumption | apply clearSatTensor_follows | apply ite_follows)
    | dsimp only | split

theorem when__follows {z : State} {T : List Field} {b : Bool} {r : State → Res} {s : State}
    (hr : ∀ s t, z.follows T s → r s = .next t → z.follows T t) (hz : z.follows T s) : z.follows T (when_ b r s) := by
  unfold when_
  split
  · exact runs_follows (fun t e => hr s t hz e) hz
  · exact hz

theorem writeLocket_follows {z : State} {T : List Field} {s : State} {o v : Nat} (hT : Field.but [.time, .facetRam, .board] ⊆ T) (hz : z.follows T s) :
    z.follows T (writeLocket s o v) := by
  unfold writeLocket
  repeat' first
    | with_reducible exact List.Subset.trans (by decide) hT
    | intro _
    | with_reducible (first | assumption | apply modLocket_follows | apply tokenGo_follows | apply ite_follows)
    | exact ⟨rfl, rfl⟩
    | dsimp only | split

theorem writePower_follows {z : State} {T : List Field} {s : State} {o v : Nat} (hT : [.power, .cores] ⊆ T) (hz : z.follows T s) :
    z.follows T (writePower s o v) := by
  unfold writePower
  repeat' first
    | with_reducible exact List.Subset.trans (by decide) hT
    | intro _
    | with_reducible (first | assumption | apply hubHotClear_follows | apply stopCore_follows | apply ite_follows)
    | dsimp only | split

theorem writeCollector_follows {z : State} {T : List Field} {s : State} {c o v : Nat} (hT : Field.but [.free, .time, .locket, .facetRam, .board] ⊆ T) (hz : z.follows T s) :
    z.follows T (writeCollector s c o v) := by
  unfold writeCollector
  repeat' first
    | with_reducible exact List.Subset.trans (by decide) hT
    | intro _
    | with_reducible (first | assumption | apply clearStatus_follows | apply forceSources_follows
                            | apply updCol_follows | apply ite_follows)
    | dsimp only | split

theorem writeLink_follows {z : State} {T : List Field} {s : State} {l o v : Nat} (hT : Field.but [.free, .time, .locket, .facetRam, .board] ⊆ T) (hz : z.follows T s) :
    z.follows T (writeLink s l o v) := by
  unfold writeLink
  repeat' first
    | with_reducible exact List.Subset.trans (by decide) hT
    | intro _
    | with_reducible (first | assumption | apply when__follows | apply ite_follows)
    | refine execFabricLinkRetrain_follows (List.Subset.trans (by decide) hT) (by with_reducible assumption) ?_
    | refine execFabricLoopback_follows (List.Subset.trans (by decide) hT) (by with_reducible assumption) ?_
    | refine execFabricSetDown_follows (List.Subset.trans (by decide) hT) (by with_reducible assumption) ?_
    | dsimp only | split

theorem writeStack_follows {z : State} {T : List Field} {s : State} {k o v : Nat} (hT : Field.but [.free, .time, .locket, .facetRam, .board] ⊆ T) (hz : z.follows T s) :
    z.follows T (writeStack s k o v) := by
  unfold writeStack
  repeat' first
    | with_reducible exact List.Subset.trans (by decide) hT
    | intro _
    | with_reducible (first | assumption | apply when__follows | apply ite_follows)
    | refine execHbmChRetrain_follows (List.Subset.trans (by decide) hT) (by with_reducible assumption) ?_
    | refine execHbmMbist_follows (List.Subset.trans (by decide) hT) (by with_reducible assumption) ?_
    | refine execHbmReturn_follows (List.Subset.trans (by decide) hT) (by with_reducible assumption) ?_
    | dsimp only | split

theorem writeNear_follows {z : State} {T : List Field} {s : State} {o v : Nat} (hT : [.out, .host, .events, .counters, .near, .colls, .streams] ⊆ T) (hz : z.follows T s) :
    z.follows T (writeNear s o v) := by
  unfold writeNear
  repeat' first
    | with_reducible exact List.Subset.trans (by decide) hT
    | intro _
    | with_reducible (first | assumption | apply Memory.writeBytes_wf | apply modNear_follows | apply when__follows | apply ite_follows)
    | refine execNearmemMbist_follows (List.Subset.trans (by decide) hT) (by with_reducible assumption) ?_
    | refine execNearmemReturn_follows (List.Subset.trans (by decide) hT) (by with_reducible assumption) ?_
    | dsimp only | split

theorem writeFlash_follows {z : State} {T : List Field} {s : State} {c o v : Nat} (hT : [.free, .collectors, .flash] ⊆ T) (hz : z.follows T s) :
    z.follows T (writeFlash s c o v) := by
  unfold writeFlash
  repeat' first
    | with_reducible exact List.Subset.trans (by decide) hT
    | intro _
    | with_reducible (first | assumption | apply drawNat_follows | apply runs_follows | apply when__follows
                            | apply ite_follows)
    | refine execFlashBypass_follows (List.Subset.trans (by decide) hT) (by with_reducible assumption) ?_
    | refine execFlashChRetrain_follows (List.Subset.trans (by decide) hT) (by with_reducible assumption) ?_
    | refine execFlashProngTest_follows (List.Subset.trans (by decide) hT) (by with_reducible assumption) ?_
    | refine execFlashReturn_follows (List.Subset.trans (by decide) hT) (by with_reducible assumption) ?_
    | refine execFlashScrub_follows (List.Subset.trans (by decide) hT) (by with_reducible assumption) ?_
    | dsimp only | split

theorem writeFacet_follows {z : State} {T : List Field} {s : State} {f o v : Nat} (hT : [.out, .host, .queues, .events, .counters, .loader, .facets, .facetRam, .flash, .colls, .pools, .streams, .search, .learn] ⊆ T) (hz : z.follows T s) :
    z.follows T (writeFacet s f o v) := by
  unfold writeFacet
  repeat' first
    | with_reducible exact List.Subset.trans (by decide) hT
    | intro _
    | with_reducible (first | assumption | apply Memory.writeBytes_wf | apply updFacet_follows | apply when__follows | apply ite_follows)
    | refine execFacetBist_follows (List.Subset.trans (by decide) hT) (by with_reducible assumption) ?_
    | refine execFacetFence_follows (List.Subset.trans (by decide) hT) (by with_reducible assumption) ?_
    | refine execFacetRelease_follows (List.Subset.trans (by decide) hT) (by with_reducible assumption) ?_
    | dsimp only | split
    | (simp only [follows_mk]; apply keeps_of) | with_reducible exact Or.inr rfl
    | exact Or.inl (hT (by decide)) | exact Or.inl ⟨hT (by decide), rfl, rfl⟩
    | exact Or.inl ⟨hT (by decide), fun h => h⟩ | (refine Or.inl ⟨hT (by decide), ?_⟩)

theorem writeSelect_follows {z : State} {T : List Field} {s : State} {sel a v : Nat} (hT : [.queues] ⊆ T) (hz : z.follows T s) :
    z.follows T (writeSelect s sel a v) := by
  unfold writeSelect
  repeat' first
    | with_reducible exact List.Subset.trans (by decide) hT
    | intro _
    | with_reducible (first | assumption | apply modQueues_follows | apply ite_follows)
    | dsimp only | split

theorem writeLearn_follows {z : State} {T : List Field} {s : State} {sel o v : Nat} (hT : [.counters, .learn] ⊆ T) (hz : z.follows T s) :
    z.follows T (writeLearn s sel o v) := by
  unfold writeLearn
  repeat' first
    | with_reducible exact List.Subset.trans (by decide) hT
    | intro _
    | with_reducible (first | assumption | apply clearSatOne_follows | apply clearSatTensor_follows
                            | apply writeDriftD_follows | apply writeDriftW_follows | apply ite_follows)
    | dsimp only | split

theorem writeReg_follows {z : State} {T : List Field} {s : State} {sel a v : Nat} (hT : Field.but [.time, .board] ⊆ T) (hz : z.follows T s) :
    z.follows T (writeReg s sel a v) := by
  unfold writeReg
  repeat' first
    | with_reducible exact List.Subset.trans (by decide) hT
    | intro _
    | with_reducible (first | assumption | apply modLoader_follows | apply clearSpace_follows
                            | apply snapSpace_follows | apply writeCollector_follows | apply writeFacet_follows
                            | apply writeFlash_follows | apply writeLearn_follows | apply writeLink_follows
                            | apply writeLocket_follows | apply writeMgmtAddr_follows | apply writeNear_follows
                            | apply writePort_follows | apply writePower_follows | apply writeSelect_follows
                            | apply writeStack_follows | apply ite_follows)
    | dsimp only | split

theorem decideMgmtRead_follows {z : State} {T : List Field} {s : State} {c : Cmd} (hT : [.out, .host, .queues, .events, .counters, .flash, .pools] ⊆ T) (hz : z.follows T s) :
    z.follows T (decideMgmtRead s c) := by
  unfold decideMgmtRead
  repeat' first
    | with_reducible exact List.Subset.trans (by decide) hT
    | intro _
    | with_reducible (first | assumption | apply replyOk_follows | apply replyRefuse_follows | apply ite_follows)
    | dsimp only | split

theorem execMgmtRead_follows {z fin : State} {T : List Field} {c : Capsule} {s : State} (hT : [.out, .power, .host, .queues, .events, .counters, .loader, .flash, .pools] ⊆ T) (e : execMgmtRead c s = .next fin) (hz : z.follows T s) :
    z.follows T fin := by
  unfold execMgmtRead at e
  injection e with e
  subst e
  repeat' first
    | with_reducible exact List.Subset.trans (by decide) hT
    | intro _
    | with_reducible (first | assumption | apply decideMgmtRead_follows | apply receive_follows | apply ite_follows)
    | dsimp only | split

theorem decideMgmtWrite_follows {z : State} {T : List Field} {s : State} {c : Cmd} (hT : Field.but [.time, .board] ⊆ T) (hz : z.follows T s) :
    z.follows T (decideMgmtWrite s c) := by
  unfold decideMgmtWrite
  repeat' first
    | with_reducible exact List.Subset.trans (by decide) hT
    | intro _
    | with_reducible (first | assumption | apply replyOk_follows | apply replyRefuse_follows
                            | apply writeReg_follows | apply foldl_follows | apply ite_follows)
    | dsimp only | split

theorem execMgmtWrite_follows {z fin : State} {T : List Field} {c : Capsule} {s : State} (hT : Field.but [.time, .board] ⊆ T) (e : execMgmtWrite c s = .next fin) (hz : z.follows T s) :
    z.follows T fin := by
  unfold execMgmtWrite at e
  injection e with e
  subst e
  repeat' first
    | with_reducible exact List.Subset.trans (by decide) hT
    | intro _
    | with_reducible (first | assumption | apply decideMgmtWrite_follows | apply receive_follows | apply ite_follows)
    | dsimp only | split

end Sys2Proof.Machine
end

