-- ==== Sys2Proof/Laws/FollowsSearch.lean ====
section
/-! SUPPORT. What the operations of streams, searches and replies may change: one lemma
`<operation>_follows` for each, to be cited in place of its definition (`State.follows`). -/

set_option linter.unreachableTactic false
set_option linter.unusedTactic false

namespace Sys2Proof.Machine

theorem compactQuery_follows {z : State} {T : List Field} {s : State} {qid : Nat} (hT : [.out, .host, .events, .counters, .search] ⊆ T) (hz : z.follows T s) :
    z.follows T (compactQuery s qid) := by
  unfold compactQuery
  repeat' first
    | with_reducible exact List.Subset.trans (by decide) hT
    | intro _
    | with_reducible (first | assumption | apply bump_follows | apply bumpN_follows | apply updQuery_follows
                            | apply ite_follows)
    | dsimp only | split

theorem scoreInto_follows {z : State} {T : List Field} {facet : Nat} {s : State} {qid : Nat} {e0 : Scored} (hT : [.out, .host, .events, .counters, .search] ⊆ T) (hz : z.follows T s) :
    z.follows T (scoreInto facet s qid e0) := by
  unfold scoreInto
  repeat' first
    | with_reducible exact List.Subset.trans (by decide) hT
    | intro _
    | with_reducible (first | assumption | apply bump_follows | apply bumpN_follows | apply compactQuery_follows
                            | apply updQuery_follows | apply ite_follows)
    | dsimp only | split

theorem listLost_follows {z : State} {T : List Field} {s : State} {t : Task} {lost : List Nat} {cause : Nat} (hT : [.search] ⊆ T) (hz : z.follows T s) :
    z.follows T (listLost s t lost cause) := by
  unfold listLost
  repeat' first
    | with_reducible exact List.Subset.trans (by decide) hT
    | intro _
    | with_reducible (first | assumption | apply mapQueries_follows | apply ite_follows)
    | dsimp only | split

theorem cancelMates_follows {z : State} {T : List Field} {s : State} {r : Stream} {t : Task} (hT : [.out, .host, .events, .counters, .streams] ⊆ T) (hz : z.follows T s) :
    z.follows T (cancelMates s r t) := by
  unfold cancelMates
  repeat' first
    | with_reducible exact List.Subset.trans (by decide) hT
    | intro _
    | with_reducible (first | assumption | apply cancelTasks_follows | apply stopStreams_follows | apply ite_follows)
    | dsimp only | split

theorem pieceLost_follows {z : State} {T : List Field} {s : State} {r : Stream} {t : Task} {off : Nat} {len : Nat} {cause : Nat} (hT : [.out, .host, .events, .counters, .colls, .streams, .search] ⊆ T) (hz : z.follows T s) :
    z.follows T (pieceLost s r t off len cause) := by
  unfold pieceLost
  repeat' first
    | with_reducible exact List.Subset.trans (by decide) hT
    | intro _
    | with_reducible (first | assumption | apply bumpN_follows | apply cancelMates_follows
                            | apply cancelTasks_follows | apply listLost_follows | apply mapQueries_follows
                            | apply updColl_follows | apply ite_follows)
    | dsimp only | split

theorem issueSlot_follows {z : State} {T : List Field} {s : State} {r : Stream} {p : Piece} {x : Slot} {rest : List Piece} (hT : [.streams] ⊆ T) (hz : z.follows T s) :
    z.follows T (issueSlot s r p x rest) := by
  unfold issueSlot
  repeat' first
    | with_reducible exact List.Subset.trans (by decide) hT
    | intro _
    | with_reducible (first | assumption | apply updStream_follows | apply ite_follows)
    | dsimp only | split

theorem lostRead_follows {z : State} {T : List Field} {s : State} {c coll off : Nat} (hT : Field.but [.free, .time, .locket, .facetRam, .board] ⊆ T) (hz : z.follows T s) :
    z.follows T (lostRead s c coll off) := by
  unfold lostRead
  repeat' first
    | with_reducible exact List.Subset.trans (by decide) hT
    | intro _
    | with_reducible (first | assumption | apply bump_follows | apply raiseAcc_follows | apply ite_follows)
    | dsimp only | split

theorem pieceShort_follows {z : State} {T : List Field} {s : State} {r : Stream} {t : Task} {off : Nat} {len : Nat} {cause : Nat} (hT : [.out, .host, .events, .counters, .colls, .streams, .search] ⊆ T) (hz : z.follows T s) :
    z.follows T (pieceShort s r t off len cause) := by
  unfold pieceShort
  repeat' first
    | with_reducible exact List.Subset.trans (by decide) hT
    | intro _
    | with_reducible (first | assumption | apply pieceLost_follows | apply ite_follows)
    | dsimp only | split

theorem passRings_follows {z : State} {T : List Field} {s : State} (hT : [.streams] ⊆ T) (hz : z.follows T s) :
    z.follows T (issueOne.passRings s) := by
  unfold issueOne.passRings
  repeat' first
    | with_reducible exact List.Subset.trans (by decide) hT
    | intro _
    | with_reducible (first | assumption | apply modStreams_follows | apply ite_follows)
    | dsimp only | split

theorem issueOne_follows {z : State} {T : List Field} {s : State} {r : Stream} {t : Task} {p : Piece} {rest : List Piece}
    (hT : Field.but [.time, .locket, .facetRam, .board] ⊆ T) (hz : z.follows T s) : z.follows T (issueOne s r t p rest) := by
  unfold issueOne
  repeat' first
    | with_reducible exact List.Subset.trans (by decide) hT
    | intro _
    | with_reducible (first | assumption | apply modStreams_follows | apply drawBool_follows
                            | apply passRings_follows | apply issueSlot_follows | apply lostRead_follows
                            | apply pieceLost_follows | apply pieceShort_follows | apply streamFault_follows
                            | apply ite_follows)
    | dsimp only | split

theorem pruneStores_follows {z : State} {T : List Field} {s : State} (hT : [.flash] ⊆ T) (hz : z.follows T s) :
    z.follows T (pruneStores s) := by
  unfold pruneStores
  repeat' first
    | with_reducible exact List.Subset.trans (by decide) hT
    | intro _
    | with_reducible (first | assumption | apply modFlash_follows | apply ite_follows)
    | dsimp only | split

theorem loadStore_follows {z fin : State} {T : List Field} {s : State} {t : Task} {chan : Nat} (hT : [.flash] ⊆ T)
    (hz : z.follows T s) (e : loadStore s t chan = some fin) : z.follows T fin := by
  unfold loadStore at e
  dsimp only at e
  have h := pruneStores_follows (List.Subset.trans (by decide) hT) hz
  split at e
  · injection e with e
    exact e ▸ h
  · split at e
    · injection e with e
      exact e ▸ updFlashCh_follows (List.Subset.trans (by decide) hT) h
    · cases e

theorem prepareIssue_follows {z fin : State} {T : List Field} {s : State} {r : Stream} {t : Task} {p : Piece}
    (hT : [.flash] ⊆ T) (hz : z.follows T s) (e : prepareIssue s r t p = some fin) : z.follows T fin := by
  unfold prepareIssue at e
  split at e
  · injection e with e
    exact e ▸ hz
  · split at e
    · split at e
      · exact loadStore_follows hT hz e
      · injection e with e
        exact e ▸ hz
    · injection e with e
      exact e ▸ hz

theorem issueN_follows {z : State} {T : List Field} (hT : Field.but [.time, .locket, .facetRam, .board] ⊆ T) (n : Nat) :
    ∀ {s : State} {sid : Nat}, z.follows T s → z.follows T (issueN n s sid) := by
  induction n with
  | zero => intro s _ hz; exact hz
  | succ n ih =>
    intro s sid hz
    unfold issueN
    repeat' first
      | with_reducible exact List.Subset.trans (by decide) hT
      | intro _
      | with_reducible (first | assumption | apply ih | apply issueOne_follows | apply ite_follows)
      | exact prepareIssue_follows (List.Subset.trans (by decide) hT) hz (by assumption)
      | dsimp only | split

theorem issueWaiting_follows {z : State} {T : List Field} {s : State} {sid : Nat} (hT : Field.but [.time, .locket, .facetRam, .board] ⊆ T) (hz : z.follows T s) :
    z.follows T (issueWaiting s sid) := by
  unfold issueWaiting
  repeat' first
    | with_reducible exact List.Subset.trans (by decide) hT
    | intro _
    | with_reducible (first | assumption | apply issueN_follows | apply ite_follows)
    | dsimp only | split

theorem issueAll_follows {z : State} {T : List Field} {s : State} (hT : Field.but [.time, .locket, .facetRam, .board] ⊆ T) (hz : z.follows T s) :
    z.follows T (issueAll s) := by
  unfold issueAll
  repeat' first
    | with_reducible exact List.Subset.trans (by decide) hT
    | intro _
    | with_reducible (first | assumption | apply issueWaiting_follows | apply foldl_follows | apply ite_follows)
    | dsimp only | split

theorem onInsn_follows {z : State} {T : List Field} {s : State} {sid : Nat} {p : Nat → Bool} {f : Stream → State}
    (hf : ∀ r, z.follows T (f r)) (hT : [] ⊆ T) (hz : z.follows T s) : z.follows T (onInsn s sid p f) := by
  unfold onInsn
  repeat' first
    | with_reducible exact List.Subset.trans (by decide) hT
    | intro _
    | with_reducible (first | assumption | apply hf | apply ite_follows)
    | dsimp only | split

theorem putStream_follows {z : State} {T : List Field} {s : State} {r : Stream} (hT : [.streams] ⊆ T) (hz : z.follows T s) :
    z.follows T (putStream s r) := by
  unfold putStream
  repeat' first
    | with_reducible exact List.Subset.trans (by decide) hT
    | intro _
    | with_reducible (first | assumption | apply updStream_follows | apply ite_follows)
    | dsimp only | split

theorem execNop_follows {z fin : State} {T : List Field} {sid : Nat} {s : State} (hT : [.streams] ⊆ T) (e : execNop sid s = .next fin) (hz : z.follows T s) :
    z.follows T fin := by
  unfold execNop at e
  injection e with e
  subst e
  repeat' first
    | with_reducible exact List.Subset.trans (by decide) hT
    | intro _
    | with_reducible (first | assumption | apply onInsn_follows | apply putStream_follows | apply ite_follows)
    | dsimp only | split

theorem execSeta_follows {z fin : State} {T : List Field} {sid : Nat} {x : BitVec 3} {imm : BitVec 48} {s : State} (hT : [.streams] ⊆ T) (e : execSeta sid x imm s = .next fin) (hz : z.follows T s) :
    z.follows T fin := by
  unfold execSeta at e
  injection e with e
  subst e
  repeat' first
    | with_reducible exact List.Subset.trans (by decide) hT
    | intro _
    | with_reducible (first | assumption | apply onInsn_follows | apply putStream_follows | apply ite_follows)
    | dsimp only | split

theorem execAdda_follows {z fin : State} {T : List Field} {sid : Nat} {x y : BitVec 3} {imm : BitVec 48} {s : State} (hT : [.streams] ⊆ T) (e : execAdda sid x y imm s = .next fin) (hz : z.follows T s) :
    z.follows T fin := by
  unfold execAdda at e
  injection e with e
  subst e
  repeat' first
    | with_reducible exact List.Subset.trans (by decide) hT
    | intro _
    | with_reducible (first | assumption | apply onInsn_follows | apply putStream_follows | apply ite_follows)
    | dsimp only | split

theorem execSets_follows {z fin : State} {T : List Field} {sid : Nat} {x : BitVec 3} {imm : BitVec 48} {s : State} (hT : [.streams] ⊆ T) (e : execSets sid x imm s = .next fin) (hz : z.follows T s) :
    z.follows T fin := by
  unfold execSets at e
  injection e with e
  subst e
  repeat' first
    | with_reducible exact List.Subset.trans (by decide) hT
    | intro _
    | with_reducible (first | assumption | apply onInsn_follows | apply putStream_follows | apply ite_follows)
    | dsimp only | split

theorem execLoop_follows {z fin : State} {T : List Field} {sid : Nat} {x : BitVec 3} {imm : BitVec 48} {s : State} (hT : [.streams] ⊆ T) (e : execLoop sid x imm s = .next fin) (hz : z.follows T s) :
    z.follows T fin := by
  unfold execLoop at e
  injection e with e
  subst e
  repeat' first
    | with_reducible exact List.Subset.trans (by decide) hT
    | intro _
    | with_reducible (first | assumption | apply onInsn_follows | apply putStream_follows | apply ite_follows)
    | dsimp only | split

theorem execEndl_follows {z fin : State} {T : List Field} {sid : Nat} {x : BitVec 3} {s : State} (hT : [.streams] ⊆ T) (e : execEndl sid x s = .next fin) (hz : z.follows T s) :
    z.follows T fin := by
  unfold execEndl at e
  injection e with e
  subst e
  repeat' first
    | with_reducible exact List.Subset.trans (by decide) hT
    | intro _
    | with_reducible (first | assumption | apply onInsn_follows | apply putStream_follows | apply ite_follows)
    | dsimp only | split

theorem bitmapBit_follows {z : State} {T : List Field} {s : State} {r : Stream} {addr j : Nat} (hT : [.free] ⊆ T) (hz : z.follows T s) :
    z.follows T (bitmapBit s r addr j).2 := by
  unfold bitmapBit
  repeat' first
    | with_reducible exact List.Subset.trans (by decide) hT
    | intro _
    | with_reducible (first | assumption | apply drawBool_follows | apply ite_follows)
    | dsimp only | split

theorem execRead_follows {z fin : State} {T : List Field} {sid : Nat} {x : BitVec 3} {f : BitVec 4} {imm : BitVec 48} {s : State} (hT : Field.but [.time, .locket, .facetRam, .board] ⊆ T) (e : execRead sid x f imm s = .next fin) (hz : z.follows T s) :
    z.follows T fin := by
  unfold execRead at e
  injection e with e
  subst e
  repeat' first
    | with_reducible exact List.Subset.trans (by decide) hT
    | intro _
    | with_reducible (first | assumption | apply bitmapBit_follows | apply issueWaiting_follows
                            | apply onInsn_follows | apply putStream_follows | apply ite_follows)
    | dsimp only | split

theorem execGather_follows {z fin : State} {T : List Field} {sid : Nat} {x y : BitVec 3} {f : BitVec 4} {imm : BitVec 48} {s : State} (hT : Field.but [.time, .locket, .facetRam, .board] ⊆ T) (e : execGather sid x y f imm s = .next fin) (hz : z.follows T s) :
    z.follows T fin := by
  unfold execGather at e
  injection e with e
  subst e
  repeat' first
    | with_reducible exact List.Subset.trans (by decide) hT
    | intro _
    | with_reducible (first | assumption | apply issueWaiting_follows | apply onInsn_follows
                            | apply putStream_follows | apply ite_follows)
    | dsimp only | split

theorem execSkipmap_follows {z fin : State} {T : List Field} {sid : Nat} {y : BitVec 3} {imm : BitVec 48} {s : State} (hT : [.streams] ⊆ T) (e : execSkipmap sid y imm s = .next fin) (hz : z.follows T s) :
    z.follows T fin := by
  unfold execSkipmap at e
  injection e with e
  subst e
  repeat' first
    | with_reducible exact List.Subset.trans (by decide) hT
    | intro _
    | with_reducible (first | assumption | apply onInsn_follows | apply putStream_follows | apply ite_follows)
    | dsimp only | split

theorem execTag_follows {z fin : State} {T : List Field} {sid : Nat} {f : BitVec 4} {imm : BitVec 48} {s : State} (hT : [.streams] ⊆ T) (e : execTag sid f imm s = .next fin) (hz : z.follows T s) :
    z.follows T fin := by
  unfold execTag at e
  injection e with e
  subst e
  repeat' first
    | with_reducible exact List.Subset.trans (by decide) hT
    | intro _
    | with_reducible (first | assumption | apply onInsn_follows | apply putStream_follows | apply ite_follows)
    | dsimp only | split

theorem execBead_follows {z fin : State} {T : List Field} {sid : Nat} {imm : BitVec 48} {s : State} (hT : [.streams] ⊆ T) (e : execBead sid imm s = .next fin) (hz : z.follows T s) :
    z.follows T fin := by
  unfold execBead at e
  injection e with e
  subst e
  repeat' first
    | with_reducible exact List.Subset.trans (by decide) hT
    | intro _
    | with_reducible (first | assumption | apply onInsn_follows | apply putStream_follows | apply ite_follows)
    | dsimp only | split

theorem scratchWrite_follows {z : State} {T : List Field} {s : State} {tid : Nat} {ch : Nat} {addr : Nat} {bs : List Byte} (hT : [.out, .host, .events, .counters, .hbm] ⊆ T) (hz : z.follows T s) :
    z.follows T (scratchWrite s tid ch addr bs) := by
  unfold scratchWrite
  repeat' first
    | with_reducible exact List.Subset.trans (by decide) hT
    | intro _
    | with_reducible (first | assumption | apply updChan_follows | apply waitApply_follows | apply ite_follows)
    | dsimp only | split

theorem streamWrite_follows {z : State} {T : List Field} {s : State} {r : Stream} {off : Nat} {d : SlotData} (hT : [.out, .host, .events, .counters, .hbm] ⊆ T) (hz : z.follows T s) :
    z.follows T (streamWrite s r off d) := by
  unfold streamWrite
  repeat' first
    | with_reducible exact List.Subset.trans (by decide) hT
    | intro _
    | with_reducible (first | assumption | apply Memory.writeBytes_wf | apply scratchWrite_follows | apply foldl_follows | apply ite_follows)
    | dsimp only | split

theorem execWrite_follows {z fin : State} {T : List Field} {sid : Nat} {x : BitVec 3} {s : State} (hT : Field.but [.time, .locket, .facetRam, .board] ⊆ T) (e : execWrite sid x s = .next fin) (hz : z.follows T s) :
    z.follows T fin := by
  unfold execWrite at e
  injection e with e
  subst e
  repeat' first
    | with_reducible exact List.Subset.trans (by decide) hT
    | intro _
    | with_reducible (first | assumption | apply issueAll_follows | apply onInsn_follows | apply putStream_follows
                            | apply streamFault_follows | apply streamWrite_follows | apply ite_follows)
    | dsimp only | split

theorem msaRequest_follows {z : State} {T : List Field} {s : State} {ch : Nat} {q : MsaReq} (hT : [.out, .host, .events, .counters, .near, .hbm] ⊆ T) (hz : z.follows T s) :
    z.follows T (msaRequest s ch q) := by
  unfold msaRequest
  repeat' first
    | with_reducible exact List.Subset.trans (by decide) hT
    | intro _
    | with_reducible (first | assumption | apply Memory.writeBytes_wf | apply modNear_follows | apply msaApply_follows | apply updChan_follows
                            | apply ite_follows)
    | dsimp only | split

theorem execMsaAdd_follows {z fin : State} {T : List Field} {ch addr : Nat} {fmt : MsaFmt} {v : BitVec 64} {s : State} (hT : [.out, .host, .events, .counters, .near, .hbm] ⊆ T) (e : execMsaAdd ch addr fmt v s = .next fin) (hz : z.follows T s) :
    z.follows T fin := by
  unfold execMsaAdd at e
  injection e with e
  subst e
  repeat' first
    | with_reducible exact List.Subset.trans (by decide) hT
    | intro _
    | with_reducible (first | assumption | apply msaRequest_follows | apply ite_follows)
    | dsimp only | split

theorem execMsaMin_follows {z fin : State} {T : List Field} {ch addr : Nat} {fmt : MsaFmt} {v : BitVec 64} {s : State} (hT : [.out, .host, .events, .counters, .near, .hbm] ⊆ T) (e : execMsaMin ch addr fmt v s = .next fin) (hz : z.follows T s) :
    z.follows T fin := by
  unfold execMsaMin at e
  injection e with e
  subst e
  repeat' first
    | with_reducible exact List.Subset.trans (by decide) hT
    | intro _
    | with_reducible (first | assumption | apply msaRequest_follows | apply ite_follows)
    | dsimp only | split

theorem execMsaMax_follows {z fin : State} {T : List Field} {ch addr : Nat} {fmt : MsaFmt} {v : BitVec 64} {s : State} (hT : [.out, .host, .events, .counters, .near, .hbm] ⊆ T) (e : execMsaMax ch addr fmt v s = .next fin) (hz : z.follows T s) :
    z.follows T fin := by
  unfold execMsaMax at e
  injection e with e
  subst e
  repeat' first
    | with_reducible exact List.Subset.trans (by decide) hT
    | intro _
    | with_reducible (first | assumption | apply msaRequest_follows | apply ite_follows)
    | dsimp only | split

theorem msaBurst_follows {z : State} {T : List Field} {r : Stream} {op : Nat} {fmt : MsaFmt} {off : Nat} {bs : List Byte} {s : State} (hT : [.out, .host, .events, .counters, .near, .hbm] ⊆ T) (hz : z.follows T s) :
    z.follows T (msaBurst r op fmt off bs s) := by
  unfold msaBurst
  repeat' first
    | with_reducible exact List.Subset.trans (by decide) hT
    | intro _
    | with_reducible (first | assumption | apply msaRequest_follows | apply foldl_follows | apply ite_follows)
    | dsimp only | split

theorem execMsaop_follows {z fin : State} {T : List Field} {sid : Nat} {x : BitVec 3} {f : BitVec 4} {s : State} (hT : Field.but [.time, .locket, .facetRam, .board] ⊆ T) (e : execMsaop sid x f s = .next fin) (hz : z.follows T s) :
    z.follows T fin := by
  unfold execMsaop at e
  injection e with e
  subst e
  repeat' first
    | with_reducible exact List.Subset.trans (by decide) hT
    | intro _
    | with_reducible (first | assumption | apply issueAll_follows | apply msaBurst_follows | apply onInsn_follows
                            | apply putStream_follows | apply streamFault_follows | apply ite_follows)
    | dsimp only | split

theorem execHalt_follows {z fin : State} {T : List Field} {sid : Nat} {s : State} (hT : [.streams] ⊆ T) (e : execHalt sid s = .next fin) (hz : z.follows T s) :
    z.follows T fin := by
  unfold execHalt at e
  injection e with e
  subst e
  repeat' first
    | with_reducible exact List.Subset.trans (by decide) hT
    | intro _
    | with_reducible (first | assumption | apply onInsn_follows | apply putStream_follows | apply reap_follows
                            | apply ite_follows)
    | dsimp only | split

theorem updSlot_follows {z : State} {T : List Field} {s : State} {sid i : Nat} {f : Slot → Slot} (hT : [.streams] ⊆ T) (hz : z.follows T s) :
    z.follows T (updSlot s sid i f) := by
  unfold updSlot
  repeat' first
    | with_reducible exact List.Subset.trans (by decide) hT
    | intro _
    | with_reducible (first | assumption | apply updStream_follows | apply ite_follows)
    | dsimp only | split

theorem onProng_follows {z : State} {T : List Field} {s : State} {sid i mode : Nat} {f : Task → Slot → State}
    (hf : ∀ t x, z.follows T (f t x)) (hT : [] ⊆ T) (hz : z.follows T s) : z.follows T (onProng s sid i mode f) := by
  unfold onProng
  repeat' first
    | with_reducible exact List.Subset.trans (by decide) hT
    | intro _
    | with_reducible (first | assumption | apply hf | apply ite_follows)
    | dsimp only | split

theorem execProngScreen_follows {z fin : State} {T : List Field} {sid : Nat} {slot : Nat} {s : State} (hT : [.streams] ⊆ T) (e : execProngScreen sid slot s = .next fin) (hz : z.follows T s) :
    z.follows T fin := by
  unfold execProngScreen at e
  injection e with e
  subst e
  repeat' first
    | with_reducible exact List.Subset.trans (by decide) hT
    | intro _
    | with_reducible (first | assumption | apply onProng_follows | apply updSlot_follows | apply ite_follows)
    | dsimp only | split

theorem execProngGate_follows {z fin : State} {T : List Field} {sid slot : Nat} {s : State} (hT : [.streams] ⊆ T) (e : execProngGate sid slot s = .next fin) (hz : z.follows T s) :
    z.follows T fin := by
  unfold execProngGate at e
  injection e with e
  subst e
  repeat' first
    | with_reducible exact List.Subset.trans (by decide) hT
    | intro _
    | with_reducible (first | assumption | apply onProng_follows | apply updSlot_follows | apply ite_follows)
    | dsimp only | split

theorem execProngPass_follows {z fin : State} {T : List Field} {sid slot : Nat} {s : State} (hT : [.streams] ⊆ T) (e : execProngPass sid slot s = .next fin) (hz : z.follows T s) :
    z.follows T fin := by
  unfold execProngPass at e
  injection e with e
  subst e
  repeat' first
    | with_reducible exact List.Subset.trans (by decide) hT
    | intro _
    | with_reducible (first | assumption | apply onProng_follows | apply updSlot_follows | apply ite_follows)
    | dsimp only | split

theorem copyFails_follows {z : State} {T : List Field} {s : State} {r : Stream} {x : Slot} (hT : Field.but [.free, .time, .locket, .facetRam, .board] ⊆ T) (hz : z.follows T s) :
    z.follows T (copyFails s r x) := by
  unfold copyFails
  repeat' first
    | with_reducible exact List.Subset.trans (by decide) hT
    | intro _
    | with_reducible (first | assumption | apply bump_follows | apply raiseAcc_follows | apply updColl_follows
                            | apply ite_follows)
    | dsimp only | split

theorem pieceFails_follows {z : State} {T : List Field} {s : State} {r : Stream} {t : Task} {i : Nat} {x : Slot} (hT : Field.but [.time, .locket, .facetRam, .board] ⊆ T) (hz : z.follows T s) :
    z.follows T (pieceFails s r t i x) := by
  unfold pieceFails
  repeat' first
    | with_reducible exact List.Subset.trans (by decide) hT
    | intro _
    | with_reducible (first | assumption | apply bump_follows | apply copyFails_follows | apply issueAll_follows
                            | apply pieceLost_follows | apply pieceShort_follows | apply settleRings_follows
                            | apply updSlot_follows | apply ite_follows)
    | dsimp only | split

theorem useCopy_follows {z : State} {T : List Field} {s : State} {r : Stream} {x : Slot} (hT : [.colls] ⊆ T) (hz : z.follows T s) :
    z.follows T (useCopy s r x) := by
  unfold useCopy
  repeat' first
    | with_reducible exact List.Subset.trans (by decide) hT
    | intro _
    | with_reducible (first | assumption | apply updColl_follows | apply ite_follows)
    | dsimp only | split

theorem execPieceComplete_follows {z fin : State} {T : List Field} {sid slot : Nat} {res : PieceResult} {s : State} (hT : Field.but [.time, .locket, .facetRam, .board] ⊆ T) (e : execPieceComplete sid slot res s = .next fin) (hz : z.follows T s) :
    z.follows T fin := by
  unfold execPieceComplete at e
  injection e with e
  subst e
  repeat' first
    | with_reducible exact List.Subset.trans (by decide) hT
    | intro _
    | with_reducible (first | assumption | apply countBlockRead_follows | apply issueAll_follows
                            | apply pieceFails_follows | apply settleRings_follows | apply updSlot_follows
                            | apply useCopy_follows | apply ite_follows)
    | dsimp only | split

theorem passQuery_follows {z : State} {T : List Field} {s : State} {t : TreeRec} {root : BitVec 20} {bead : Nat} {h : MsgHdr} {range : Bool} {c : Capsule} (hT : [.out, .host, .events, .counters, .fabric] ⊆ T) (hz : z.follows T s) :
    z.follows T (passQuery s t root bead h range c) := by
  unfold passQuery
  repeat' first
    | with_reducible exact List.Subset.trans (by decide) hT
    | intro _
    | with_reducible (first | assumption | apply modFabric_follows | apply bump_follows | apply nextHop_follows
                            | apply foldl_follows | apply ite_follows)
    | dsimp only | split

theorem noteShard_follows {z : State} {T : List Field} {coll : Nat} {s : State} {x : BitVec 32 × Nat} (hT : [.fabric] ⊆ T) (hz : z.follows T s) :
    z.follows T (noteShard coll s x) := by
  unfold noteShard
  repeat' first
    | with_reducible exact List.Subset.trans (by decide) hT
    | intro _
    | with_reducible (first | assumption | apply modFabric_follows | apply ite_follows)
    | dsimp only | split

theorem splitCounts_follows {z : State} {T : List Field} {coll : Nat} (hT : [.free, .fabric] ⊆ T) (xs : List (BitVec 32)) :
    ∀ {n : Nat} {s : State}, z.follows T s → z.follows T (splitCounts coll xs n s) := by
  induction xs with
  | nil => intro n s hz; exact hz
  | cons x r ih =>
    intro n s hz
    cases r with
    | nil => exact noteShard_follows (List.Subset.trans (by decide) hT) hz
    | cons y r =>
      exact ih (noteShard_follows (List.Subset.trans (by decide) hT) (drawNat_follows (List.Subset.trans (by decide) hT) hz))

theorem noteList_follows {z : State} {T : List Field} {q : Query} {s : State} {j : Nat} {b : ListBody} (hT : [.free, .fabric] ⊆ T) (hz : z.follows T s) :
    z.follows T (noteList q s j b) := by
  unfold noteList
  repeat' first
    | with_reducible exact List.Subset.trans (by decide) hT
    | intro _
    | with_reducible (first | assumption | apply noteShard_follows | apply splitCounts_follows | apply foldl_follows
                            | apply ite_follows)
    | dsimp only | split

theorem noteFrom_follows {z : State} {T : List Field} {q : Query} {s : State} {l : BitVec 20 × Nat × ListBody} (hT : [.free, .fabric] ⊆ T) (hz : z.follows T s) :
    z.follows T (noteFrom q s l) := by
  unfold noteFrom
  repeat' first
    | with_reducible exact List.Subset.trans (by decide) hT
    | intro _
    | with_reducible (first | assumption | apply noteList_follows | apply ite_follows)
    | dsimp only | split

theorem takeReservations_follows {z : State} {T : List Field} {s : State} {id : Nat} {q : Query} (hT : [.colls, .pools] ⊆ T) (hz : z.follows T s) :
    z.follows T (takeReservations s id q) := by
  unfold takeReservations
  repeat' first
    | with_reducible exact List.Subset.trans (by decide) hT
    | intro _
    | with_reducible (first | assumption | apply modPools_follows | apply updColl_follows | apply foldl_follows
                            | apply ite_follows)
    | dsimp only | split

theorem enterQuery_follows {z : State} {T : List Field} {s : State} {q : Query} (hT : [.colls, .pools, .search] ⊆ T) (hz : z.follows T s) :
    z.follows T (enterQuery s q) := by
  unfold enterQuery
  repeat' first
    | with_reducible exact List.Subset.trans (by decide) hT
    | intro _
    | with_reducible (first | assumption | apply modSearch_follows | apply takeReservations_follows
                            | apply ite_follows)
    | dsimp only | split

theorem decideSearch_follows {z : State} {T : List Field} {range : Bool} {s : State} {c : Cmd} (hT : [.out, .host, .queues, .events, .counters, .flash, .colls, .pools, .search, .fabric] ⊆ T) (hz : z.follows T s) :
    z.follows T (decideSearch range s c) := by
  unfold decideSearch
  repeat' first
    | with_reducible exact List.Subset.trans (by decide) hT
    | intro _
    | with_reducible (first | assumption | apply modSearch_follows | apply enterQuery_follows
                            | apply markRead_follows | apply passQuery_follows | apply replyRefuse_follows
                            | apply running_follows | apply ite_follows)
    | dsimp only | split

theorem execSearch_follows {z fin : State} {T : List Field} {c : Capsule} {s : State} (hT : [.out, .power, .host, .queues, .events, .counters, .loader, .flash, .colls, .pools, .search, .fabric] ⊆ T) (e : execSearch c s = .next fin) (hz : z.follows T s) :
    z.follows T fin := by
  unfold execSearch at e
  injection e with e
  subst e
  repeat' first
    | with_reducible exact List.Subset.trans (by decide) hT
    | intro _
    | with_reducible (first | assumption | apply decideSearch_follows | apply receive_follows | apply ite_follows)
    | dsimp only | split

theorem execSearchRange_follows {z fin : State} {T : List Field} {c : Capsule} {s : State} (hT : [.out, .power, .host, .queues, .events, .counters, .loader, .flash, .colls, .pools, .search, .fabric] ⊆ T) (e : execSearchRange c s = .next fin) (hz : z.follows T s) :
    z.follows T fin := by
  unfold execSearchRange at e
  injection e with e
  subst e
  repeat' first
    | with_reducible exact List.Subset.trans (by decide) hT
    | intro _
    | with_reducible (first | assumption | apply decideSearch_follows | apply receive_follows | apply ite_follows)
    | dsimp only | split

theorem decideReadItem_follows {z : State} {T : List Field} {s : State} {c : Cmd} (hT : [.out, .host, .queues, .events, .counters, .flash, .pools, .search] ⊆ T) (hz : z.follows T s) :
    z.follows T (decideReadItem s c) := by
  unfold decideReadItem
  repeat' first
    | with_reducible exact List.Subset.trans (by decide) hT
    | intro _
    | with_reducible (first | assumption | apply modSearch_follows | apply countAdmit_follows
                            | apply markRead_follows | apply replyRefuse_follows | apply running_follows
                            | apply ite_follows)
    | dsimp only | split

theorem execReadItem_follows {z fin : State} {T : List Field} {c : Capsule} {s : State} (hT : [.out, .power, .host, .queues, .events, .counters, .loader, .flash, .pools, .search] ⊆ T) (e : execReadItem c s = .next fin) (hz : z.follows T s) :
    z.follows T fin := by
  unfold execReadItem at e
  injection e with e
  subst e
  repeat' first
    | with_reducible exact List.Subset.trans (by decide) hT
    | intro _
    | with_reducible (first | assumption | apply decideReadItem_follows | apply receive_follows | apply ite_follows)
    | dsimp only | split

theorem drawShares_follows {z : State} {T : List Field} {s : State} {q : Query} (hT : [.free, .search] ⊆ T) (hz : z.follows T s) :
    z.follows T (drawShares s q) := by
  unfold drawShares
  repeat' first
    | with_reducible exact List.Subset.trans (by decide) hT
    | intro _
    | with_reducible (first | assumption | apply drawNat_follows | apply updQuery_follows | apply ite_follows)
    | dsimp only | split

theorem launchSide_follows {z : State} {T : List Field} {s : State} {coll : Nat} {c : Coll} {qs : List Query} (hT : [.streams] ⊆ T) (hz : z.follows T s) :
    z.follows T (launchSide s coll c qs) := by
  unfold launchSide
  repeat' first
    | with_reducible exact List.Subset.trans (by decide) hT
    | intro _
    | with_reducible (first | assumption | apply addTask_follows | apply startStream_follows | apply updTask_follows
                            | apply ite_follows)
    | dsimp only | split

theorem launchSketch_follows {z : State} {T : List Field} {s : State} {coll : Nat} {c : Coll} {g : Segment} {qs : List Query} {gs : List (Nat × List Nat)} (hT : [.streams] ⊆ T) (hz : z.follows T s) :
    z.follows T (launchSketch s coll c g qs gs) := by
  unfold launchSketch
  repeat' first
    | with_reducible exact List.Subset.trans (by decide) hT
    | intro _
    | with_reducible (first | assumption | apply addTask_follows | apply startStream_follows | apply updTask_follows
                            | apply ite_follows)
    | dsimp only | split

theorem launchCode_follows {z : State} {T : List Field} {s : State} {coll : Nat} {c : Coll} {g : Segment} {qs : List Query} {gs : List (Nat × List Nat)} (hT : [.streams, .search] ⊆ T) (hz : z.follows T s) :
    z.follows T (launchCode s coll c g qs gs) := by
  unfold launchCode
  repeat' first
    | with_reducible exact List.Subset.trans (by decide) hT
    | intro _
    | with_reducible (first | assumption | apply addTask_follows | apply mapQueries_follows
                            | apply startStream_follows | apply updTask_follows | apply ite_follows)
    | dsimp only | split

theorem inGroups_follows {z : State} {T : List Field} {coll : Nat} {qs : List Query}
    {go : State → Coll → Segment → List (Nat × List Nat) → State} {s : State} {n : Nat}
    (hg : ∀ t k g gs, z.follows T t → z.follows T (go t k g gs)) (hT : [.streams] ⊆ T) (hz : z.follows T s) :
    z.follows T (inGroups coll qs go s n) := by
  unfold inGroups
  repeat' first
    | with_reducible exact List.Subset.trans (by decide) hT
    | intro _
    | with_reducible (first | assumption | apply hg | apply launchSide_follows | apply foldl_follows | apply ite_follows)
    | dsimp only | split

theorem launchLists_follows {z : State} {T : List Field} {code : Bool} {coll : Nat} {p : Query → SegState → Bool} {s : State} (hT : [.streams, .search] ⊆ T) (hz : z.follows T s) :
    z.follows T (launchLists code coll p s) := by
  unfold launchLists
  repeat' first
    | with_reducible exact List.Subset.trans (by decide) hT
    | intro _
    | with_reducible (first | assumption | apply inGroups_follows | apply launchCode_follows
                            | apply launchSketch_follows | apply foldl_follows | apply ite_follows)
    | dsimp only | split

theorem launchEncodes_follows {z : State} {T : List Field} {s : State} {coll : Nat} {qs : List Query} (hT : [.streams] ⊆ T) (hz : z.follows T s) :
    z.follows T (launchEncodes s coll qs) := by
  unfold launchEncodes
  repeat' first
    | with_reducible exact List.Subset.trans (by decide) hT
    | intro _
    | with_reducible (first | assumption | apply addTask_follows | apply startStream_follows | apply foldl_follows
                            | apply ite_follows)
    | dsimp only | split

theorem countQuery_follows {z : State} {T : List Field} {ord : List Nat} {s : State} {q : Query} (hT : [.out, .host, .events, .counters, .learn] ⊆ T) (hz : z.follows T s) :
    z.follows T (countQuery ord s q) := by
  unfold countQuery
  repeat' first
    | with_reducible exact List.Subset.trans (by decide) hT
    | intro _
    | with_reducible (first | assumption | apply countEpoch_follows | apply foldl_follows | apply ite_follows)
    | dsimp only | split

theorem launchColl_follows {z : State} {T : List Field} {b : Nat} {ord : List Nat} {s : State} {coll : Nat} (hT : [.out, .free, .host, .events, .counters, .streams, .search, .learn] ⊆ T) (hz : z.follows T s) :
    z.follows T (launchColl b ord s coll) := by
  unfold launchColl
  repeat' first
    | with_reducible exact List.Subset.trans (by decide) hT
    | intro _
    | with_reducible (first | assumption | apply countQuery_follows | apply drawShares_follows
                            | apply launchEncodes_follows | apply launchLists_follows | apply mapQueries_follows
                            | apply foldl_follows | apply ite_follows)
    | dsimp only | split

theorem launchBridge_follows {z : State} {T : List Field} {s : State} {q : Query} {c : Coll} (hT : [.streams, .search] ⊆ T) (hz : z.follows T s) :
    z.follows T (launchBridge s q c) := by
  unfold launchBridge
  repeat' first
    | with_reducible exact List.Subset.trans (by decide) hT
    | intro _
    | with_reducible (first | assumption | apply addTask_follows | apply startStream_follows
                            | apply updQuery_follows | apply ite_follows)
    | dsimp only | split

theorem launchVectors_follows {z : State} {T : List Field} {s : State} {q : Query} {c : Coll} (hT : [.streams, .search] ⊆ T) (hz : z.follows T s) :
    z.follows T (launchVectors s q c) := by
  unfold launchVectors
  repeat' first
    | with_reducible exact List.Subset.trans (by decide) hT
    | intro _
    | with_reducible (first | assumption | apply addTask_follows | apply startStream_follows
                            | apply updQuery_follows | apply ite_follows)
    | dsimp only | split

theorem sendGathers_follows {z : State} {T : List Field} {s : State} {q : Query} (hT : [.out, .host, .events, .counters, .fabric] ⊆ T) (hz : z.follows T s) :
    z.follows T (sendGathers s q) := by
  unfold sendGathers
  repeat' first
    | with_reducible exact List.Subset.trans (by decide) hT
    | intro _
    | with_reducible (first | assumption | apply nextHop_follows | apply foldl_follows | apply ite_follows)
    | dsimp only | split

theorem launchRows_follows {z : State} {T : List Field} {s : State} {q : Query} {c : Coll} (hT : [.out, .host, .events, .counters, .streams, .search, .fabric] ⊆ T) (hz : z.follows T s) :
    z.follows T (launchRows s q c) := by
  unfold launchRows
  repeat' first
    | with_reducible exact List.Subset.trans (by decide) hT
    | intro _
    | with_reducible (first | assumption | apply addTask_follows | apply sendGathers_follows
                            | apply startStream_follows | apply updQuery_follows | apply ite_follows)
    | dsimp only | split

theorem launchLate_follows {z : State} {T : List Field} {s : State} {q : Query} (hT : [.out, .host, .events, .counters, .streams, .search, .fabric] ⊆ T) (hz : z.follows T s) :
    z.follows T (launchLate s q) := by
  unfold launchLate
  repeat' first
    | with_reducible exact List.Subset.trans (by decide) hT
    | intro _
    | with_reducible (first | assumption | apply launchBridge_follows | apply launchRows_follows
                            | apply launchVectors_follows | apply ite_follows)
    | dsimp only | split

theorem launchQueries_follows {z : State} {T : List Field} {b : Nat} {ord : List Nat} {s : State} (hT : [.out, .free, .host, .events, .counters, .streams, .search, .fabric, .learn] ⊆ T) (hz : z.follows T s) :
    z.follows T (launchQueries b ord s) := by
  unfold launchQueries
  repeat' first
    | with_reducible exact List.Subset.trans (by decide) hT
    | intro _
    | with_reducible (first | assumption | apply launchColl_follows | apply launchLate_follows | apply foldl_follows
                            | apply ite_follows)
    | dsimp only | split

theorem scoreBlock_follows {z : State} {T : List Field} {c : Coll} {seg facet half : Nat} {ord : List Nat} {s : State} {qid : Nat} {es : List Entry} (hT : [.out, .host, .events, .counters, .search] ⊆ T) (hz : z.follows T s) :
    z.follows T (scoreBlock c seg facet half ord s qid es) := by
  unfold scoreBlock
  repeat' first
    | with_reducible exact List.Subset.trans (by decide) hT
    | intro _
    | with_reducible (first | assumption | apply scoreInto_follows | apply updQuery_follows | apply foldl_follows
                            | apply ite_follows)
    | dsimp only | split

theorem scoreOn_follows {z : State} {T : List Field} {c : Coll} {seg facet : Nat} {ord : List Nat} {s : State} {qid : Nat} {es : List Entry} (hT : [.out, .host, .events, .counters, .search] ⊆ T) (hz : z.follows T s) :
    z.follows T (scoreOn c seg facet ord s qid es) := by
  unfold scoreOn
  repeat' first
    | with_reducible exact List.Subset.trans (by decide) hT
    | intro _
    | with_reducible (first | assumption | apply scoreBlock_follows | apply foldl_follows | apply ite_follows)
    | dsimp only | split

theorem loseShare_follows {z : State} {T : List Field} {seg : Nat} {s : State} {qid : Nat} (hT : [.search] ⊆ T) (hz : z.follows T s) :
    z.follows T (loseShare seg s qid) := by
  unfold loseShare
  repeat' first
    | with_reducible exact List.Subset.trans (by decide) hT
    | intro _
    | with_reducible (first | assumption | apply updQuery_follows | apply ite_follows)
    | dsimp only | split

theorem dealAndScore_follows {z : State} {T : List Field} {c : Coll} {seg : Nat} {base : Nat} {ord : List Nat} {s : State} {qid : Nat} {es : List Entry} (hT : [.out, .host, .events, .counters, .search] ⊆ T) (hz : z.follows T s) :
    z.follows T (dealAndScore c seg base ord s qid es) := by
  unfold dealAndScore
  repeat' first
    | with_reducible exact List.Subset.trans (by decide) hT
    | intro _
    | with_reducible (first | assumption | apply loseShare_follows | apply scoreOn_follows | apply updQuery_follows
                            | apply foldl_follows | apply ite_follows)
    | dsimp only | split

theorem scoreOrHold_follows {z : State} {T : List Field} {c : Coll} {t : Task} {ord : List Nat} {s : State} {qid : Nat} {slots : List Nat} (hT : [.out, .host, .events, .counters, .search] ⊆ T) (hz : z.follows T s) :
    z.follows T (scoreOrHold c t ord s qid slots) := by
  unfold scoreOrHold
  repeat' first
    | with_reducible exact List.Subset.trans (by decide) hT
    | intro _
    | with_reducible (first | assumption | apply dealAndScore_follows | apply updQuery_follows | apply ite_follows)
    | dsimp only | split

theorem takeSketch_follows {z : State} {T : List Field} {c : Coll} {t : Task} {d : SlotData} {recs : List Survivor} {ord : List Nat} {s : State} {qid : Nat} (hT : [.out, .host, .events, .counters, .search] ⊆ T) (hz : z.follows T s) :
    z.follows T (takeSketch c t d recs ord s qid) := by
  unfold takeSketch
  repeat' first
    | with_reducible exact List.Subset.trans (by decide) hT
    | intro _
    | with_reducible (first | assumption | apply scoreOrHold_follows | apply updQuery_follows | apply ite_follows)
    | dsimp only | split

theorem takeCode_follows {z : State} {T : List Field} {c : Coll} {t : Task} {d : SlotData} {ord : List Nat} {s : State} {qid : Nat} (hT : [.out, .host, .events, .counters, .search] ⊆ T) (hz : z.follows T s) :
    z.follows T (takeCode c t d ord s qid) := by
  unfold takeCode
  repeat' first
    | with_reducible exact List.Subset.trans (by decide) hT
    | intro _
    | with_reducible (first | assumption | apply scoreOrHold_follows | apply updQuery_follows | apply ite_follows)
    | dsimp only | split

theorem scoreHeld_follows {z : State} {T : List Field} {ord : List Nat} {s : State} {q : Query} (hT : [.out, .host, .events, .counters, .search] ⊆ T) (hz : z.follows T s) :
    z.follows T (scoreHeld ord s q) := by
  unfold scoreHeld
  repeat' first
    | with_reducible exact List.Subset.trans (by decide) hT
    | intro _
    | with_reducible (first | assumption | apply dealAndScore_follows | apply updQuery_follows | apply foldl_follows
                            | apply ite_follows)
    | dsimp only | split

theorem takeBridge_follows {z : State} {T : List Field} {c : Coll} {d : SlotData} {ord : List Nat} {s : State} {qid : Nat} (hT : [.out, .host, .events, .counters, .search] ⊆ T) (hz : z.follows T s) :
    z.follows T (takeBridge c d ord s qid) := by
  unfold takeBridge
  repeat' first
    | with_reducible exact List.Subset.trans (by decide) hT
    | intro _
    | with_reducible (first | assumption | apply bumpN_follows | apply scoreInto_follows | apply updQuery_follows
                            | apply foldl_follows | apply ite_follows)
    | dsimp only | split

theorem rerankSlots_follows {z : State} {T : List Field} {c : Coll} {ord : List Nat} {got : List Nat} {s : State} {qid : Nat} (hT : [.out, .host, .events, .counters, .search] ⊆ T) (hz : z.follows T s) :
    z.follows T (rerankSlots c ord got s qid) := by
  unfold rerankSlots
  repeat' first
    | with_reducible exact List.Subset.trans (by decide) hT
    | intro _
    | with_reducible (first | assumption | apply bumpN_follows | apply updQuery_follows | apply ite_follows)
    | dsimp only | split

theorem takeVector_follows {z : State} {T : List Field} {c : Coll} {d : SlotData} {ord : List Nat} {s : State} {qid : Nat} (hT : [.out, .host, .events, .counters, .search] ⊆ T) (hz : z.follows T s) :
    z.follows T (takeVector c d ord s qid) := by
  unfold takeVector
  repeat' first
    | with_reducible exact List.Subset.trans (by decide) hT
    | intro _
    | with_reducible (first | assumption | apply rerankSlots_follows | apply updQuery_follows | apply ite_follows)
    | dsimp only | split

theorem rerankFetched_follows {z : State} {T : List Field} {ord : List Nat} {s : State} {q : Query} (hT : [.out, .host, .events, .counters, .search] ⊆ T) (hz : z.follows T s) :
    z.follows T (rerankFetched ord s q) := by
  unfold rerankFetched
  repeat' first
    | with_reducible exact List.Subset.trans (by decide) hT
    | intro _
    | with_reducible (first | assumption | apply rerankSlots_follows | apply updQuery_follows | apply ite_follows)
    | dsimp only | split

theorem takeRows_follows {z : State} {T : List Field} {c : Coll} {d : SlotData} {s : State} {qid : Nat} (hT : [.search] ⊆ T) (hz : z.follows T s) :
    z.follows T (takeRows c d s qid) := by
  unfold takeRows
  repeat' first
    | with_reducible exact List.Subset.trans (by decide) hT
    | intro _
    | with_reducible (first | assumption | apply updQuery_follows | apply ite_follows)
    | dsimp only | split

theorem consume_follows {z : State} {T : List Field} {t : Task} {d : SlotData} {ord : List Nat} {s : State} (hT : [.out, .host, .events, .counters, .search] ⊆ T) (hz : z.follows T s) :
    z.follows T (consume t d ord s) := by
  unfold consume
  repeat' first
    | with_reducible exact List.Subset.trans (by decide) hT
    | intro _
    | with_reducible (first | assumption | apply takeBridge_follows | apply takeCode_follows
                            | apply takeRows_follows | apply takeSketch_follows | apply takeVector_follows
                            | apply foldl_follows | apply ite_follows)
    | dsimp only | split

theorem execSlotTake_follows {z fin : State} {T : List Field} {sid : Nat} {scale : Option (List Byte)} {ord : List Nat} {s : State} (hT : Field.but [.free, .time, .locket, .facetRam, .board] ⊆ T) (e : execSlotTake sid scale ord s = .next fin) (hz : z.follows T s) :
    z.follows T fin := by
  unfold execSlotTake at e
  injection e with e
  subst e
  repeat' first
    | with_reducible exact List.Subset.trans (by decide) hT
    | intro _
    | with_reducible (first | assumption | apply streamSkew_follows | apply updSlot_follows | apply ite_follows)
    | dsimp only | split

theorem finishSlot_follows {z : State} {T : List Field} {s : State} {r : Stream} {x : Slot} (hT : [.out, .host, .events, .counters, .streams, .search] ⊆ T) (hz : z.follows T s) :
    z.follows T (finishSlot s r x) := by
  unfold finishSlot
  repeat' first
    | with_reducible exact List.Subset.trans (by decide) hT
    | intro _
    | with_reducible (first | assumption | apply consume_follows | apply updTask_follows | apply ite_follows)
    | dsimp only | split

theorem execSlotFinish_follows {z fin : State} {T : List Field} {sid : Nat} {s : State} (hT : Field.but [.time, .locket, .facetRam, .board] ⊆ T) (e : execSlotFinish sid s = .next fin) (hz : z.follows T s) :
    z.follows T fin := by
  unfold execSlotFinish at e
  injection e with e
  subst e
  repeat' first
    | with_reducible exact List.Subset.trans (by decide) hT
    | intro _
    | with_reducible (first | assumption | apply finishSlot_follows | apply issueWaiting_follows
                            | apply reap_follows | apply updStream_follows | apply ite_follows)
    | dsimp only | split

theorem execCompaction_follows {z fin : State} {T : List Field} {qid : Nat} {s : State} (hT : [.out, .host, .events, .counters, .search] ⊆ T) (e : execCompaction qid s = .next fin) (hz : z.follows T s) :
    z.follows T fin := by
  unfold execCompaction at e
  injection e with e
  subst e
  repeat' first
    | with_reducible exact List.Subset.trans (by decide) hT
    | intro _
    | with_reducible (first | assumption | apply compactQuery_follows | apply ite_follows)
    | dsimp only | split

theorem execHalfScaleRepeat_follows {z fin : State} {T : List Field} {qid : Nat} {ord : List Nat} {s : State} (hT : [.out, .host, .events, .counters, .search] ⊆ T) (e : execHalfScaleRepeat qid ord s = .next fin) (hz : z.follows T s) :
    z.follows T fin := by
  unfold execHalfScaleRepeat at e
  injection e with e
  subst e
  repeat' first
    | with_reducible exact List.Subset.trans (by decide) hT
    | intro _
    | with_reducible (first | assumption | apply bump_follows | apply scoreBlock_follows | apply updQuery_follows
                            | apply ite_follows)
    | dsimp only | split

theorem dropIdleTasks_follows {z : State} {T : List Field} {s : State} (hT : [.out, .host, .events, .counters, .streams] ⊆ T) (hz : z.follows T s) :
    z.follows T (dropIdleTasks s) := by
  unfold dropIdleTasks
  repeat' first
    | with_reducible exact List.Subset.trans (by decide) hT
    | intro _
    | with_reducible (first | assumption | apply cancelTasks_follows | apply ite_follows)
    | dsimp only | split

theorem removeQuery_follows {z : State} {T : List Field} {s : State} {q : Query} (hT : [.out, .host, .events, .counters, .pools, .streams, .search] ⊆ T) (hz : z.follows T s) :
    z.follows T (removeQuery s q) := by
  unfold removeQuery
  repeat' first
    | with_reducible exact List.Subset.trans (by decide) hT
    | intro _
    | with_reducible (first | assumption | apply modPools_follows | apply modSearch_follows
                            | apply dropIdleTasks_follows | apply ite_follows)
    | dsimp only | split

theorem finishStage_follows {z : State} {T : List Field} {s : State} {qid : Nat} {ties : List Nat} (hT : [.out, .host, .events, .counters, .pools, .streams, .search, .fabric] ⊆ T) (hz : z.follows T s) :
    z.follows T (finishStage s qid ties) := by
  unfold finishStage
  repeat' first
    | with_reducible exact List.Subset.trans (by decide) hT
    | intro _
    | with_reducible (first | assumption | apply bumpN_follows | apply nextHop_follows | apply removeQuery_follows
                            | apply updQuery_follows | apply ite_follows)
    | dsimp only | split

theorem afterList_follows {z : State} {T : List Field} {s : State} {qid : Nat} {ties : List Nat} (hT : [.out, .host, .events, .counters, .pools, .streams, .search, .fabric] ⊆ T) (hz : z.follows T s) :
    z.follows T (afterList s qid ties) := by
  unfold afterList
  repeat' first
    | with_reducible exact List.Subset.trans (by decide) hT
    | intro _
    | with_reducible (first | assumption | apply finishStage_follows | apply ite_follows)
    | dsimp only | split

theorem advance_follows {z : State} {T : List Field} {s : State} {q : Query} {dups : Nat} {ties : List Nat} (hT : [.out, .host, .events, .counters, .pools, .streams, .search, .fabric] ⊆ T) (hz : z.follows T s) :
    z.follows T (advance s q dups ties) := by
  unfold advance
  repeat' first
    | with_reducible exact List.Subset.trans (by decide) hT
    | intro _
    | with_reducible (first | assumption | apply afterList_follows | apply bumpN_follows | apply updQuery_follows
                            | apply ite_follows)
    | dsimp only | split

theorem execRepeatedPass_follows {z fin : State} {T : List Field} {qid : Nat} {s : State} (hT : [.out, .free, .host, .events, .counters, .pools, .streams, .search, .fabric] ⊆ T) (e : execRepeatedPass qid s = .next fin) (hz : z.follows T s) :
    z.follows T fin := by
  unfold execRepeatedPass at e
  injection e with e
  subst e
  repeat' first
    | with_reducible exact List.Subset.trans (by decide) hT
    | intro _
    | with_reducible (first | assumption | apply advance_follows | apply drawOrd_follows | apply updQuery_follows
                            | apply ite_follows)
    | dsimp only | split

theorem execClaspMergeStart_follows {z fin : State} {T : List Field} {qid : Nat} {st : ClaspStage} {ties : List Nat} {s : State} (hT : [.out, .host, .events, .counters, .pools, .streams, .search, .fabric] ⊆ T) (e : execClaspMergeStart qid st ties s = .next fin) (hz : z.follows T s) :
    z.follows T fin := by
  unfold execClaspMergeStart at e
  injection e with e
  subst e
  repeat' first
    | with_reducible exact List.Subset.trans (by decide) hT
    | intro _
    | with_reducible (first | assumption | apply advance_follows | apply bumpN_follows | apply finishStage_follows
                            | apply updQuery_follows | apply ite_follows)
    | dsimp only | split

theorem replySearch_follows {z : State} {T : List Field} {s : State} {q : Query} (hT : [.out, .host, .queues, .events, .counters, .flash, .pools, .streams, .search] ⊆ T) (hz : z.follows T s) :
    z.follows T (replySearch s q) := by
  unfold replySearch
  repeat' first
    | with_reducible exact List.Subset.trans (by decide) hT
    | intro _
    | with_reducible (first | assumption | apply modSearch_follows | apply answer_follows | apply bump_follows
                            | apply bumpN_follows | apply removeQuery_follows | apply ite_follows)
    | dsimp only | split

theorem execSearchReply_follows {z fin : State} {T : List Field} {qid : Nat} {s : State} (hT : [.out, .host, .queues, .events, .counters, .flash, .pools, .streams, .search] ⊆ T) (e : execSearchReply qid s = .next fin) (hz : z.follows T s) :
    z.follows T fin := by
  unfold execSearchReply at e
  injection e with e
  subst e
  repeat' first
    | with_reducible exact List.Subset.trans (by decide) hT
    | intro _
    | with_reducible (first | assumption | apply replySearch_follows | apply ite_follows)
    | dsimp only | split

theorem dropRead_follows {z : State} {T : List Field} {s : State} {r : ReadItem} (hT : [.search] ⊆ T) (hz : z.follows T s) :
    z.follows T (dropRead s r) := by
  unfold dropRead
  repeat' first
    | with_reducible exact List.Subset.trans (by decide) hT
    | intro _
    | with_reducible (first | assumption | apply modSearch_follows | apply ite_follows)
    | dsimp only | split

theorem answerRead_follows {z : State} {T : List Field} {s : State} {r : ReadItem} {st : BitVec 16} (hT : [.out, .host, .queues, .events, .counters, .flash, .pools, .search] ⊆ T) (hz : z.follows T s) :
    z.follows T (answerRead s r st) := by
  unfold answerRead
  repeat' first
    | with_reducible exact List.Subset.trans (by decide) hT
    | intro _
    | with_reducible (first | assumption | apply answer_follows | apply dropRead_follows | apply ite_follows)
    | dsimp only | split

theorem countItemReads_follows {z : State} {T : List Field} {s : State} {r : ReadItem} (hT : [.flash] ⊆ T) (hz : z.follows T s) :
    z.follows T (countItemReads s r) := by
  unfold countItemReads
  repeat' first
    | with_reducible exact List.Subset.trans (by decide) hT
    | intro _
    | with_reducible (first | assumption | apply countBlockRead_follows | apply foldl_follows | apply ite_follows)
    | dsimp only | split

theorem execReadItemReply_follows {z fin : State} {T : List Field} {queue tag : Nat} {uncorrectable : Bool} {s : State} (hT : Field.but [.free, .time, .locket, .facetRam, .board] ⊆ T) (e : execReadItemReply queue tag uncorrectable s = .next fin) (hz : z.follows T s) :
    z.follows T fin := by
  unfold execReadItemReply at e
  injection e with e
  subst e
  repeat' first
    | with_reducible exact List.Subset.trans (by decide) hT
    | intro _
    | with_reducible (first | assumption | apply answerRead_follows | apply countItemReads_follows
                            | apply lostRead_follows | apply ite_follows)
    | dsimp only | split

theorem cancelStage_follows {z : State} {T : List Field} {s : State} {kinds : TaskKind → Bool} {open_ : Query → Bool} (hT : [.out, .host, .events, .counters, .streams] ⊆ T) (hz : z.follows T s) :
    z.follows T (cancelStage s kinds open_) := by
  unfold cancelStage
  repeat' first
    | with_reducible exact List.Subset.trans (by decide) hT
    | intro _
    | with_reducible (first | assumption | apply cancelTasks_follows | apply ite_follows)
    | dsimp only | split

theorem dropBridges_follows {z : State} {T : List Field} {s : State} {q : Query} (hT : [.out, .host, .events, .counters, .search] ⊆ T) (hz : z.follows T s) :
    z.follows T (dropBridges s q) := by
  unfold dropBridges
  repeat' first
    | with_reducible exact List.Subset.trans (by decide) hT
    | intro _
    | with_reducible (first | assumption | apply bumpN_follows | apply updQuery_follows | apply ite_follows)
    | dsimp only | split

theorem dropVectors_follows {z : State} {T : List Field} {s : State} {why : Option Nat} {keep : List Nat} {q : Query} (hT : [.out, .host, .events, .counters, .search] ⊆ T) (hz : z.follows T s) :
    z.follows T (dropVectors s why keep q) := by
  unfold dropVectors
  repeat' first
    | with_reducible exact List.Subset.trans (by decide) hT
    | intro _
    | with_reducible (first | assumption | apply bumpN_follows | apply updQuery_follows | apply ite_follows)
    | dsimp only | split

theorem dropFetched_follows {z : State} {T : List Field} {s : State} {why : Option Nat} {q : Query} (hT : [.out, .host, .events, .counters, .search] ⊆ T) (hz : z.follows T s) :
    z.follows T (dropFetched s why q) := by
  unfold dropFetched
  repeat' first
    | with_reducible exact List.Subset.trans (by decide) hT
    | intro _
    | with_reducible (first | assumption | apply bumpN_follows | apply updQuery_follows | apply ite_follows)
    | dsimp only | split

theorem forceScore_follows {z : State} {T : List Field} {s : State} {q : Query} (hT : [.out, .host, .events, .counters, .search] ⊆ T) (hz : z.follows T s) :
    z.follows T (forceScore s q) := by
  unfold forceScore
  repeat' first
    | with_reducible exact List.Subset.trans (by decide) hT
    | intro _
    | with_reducible (first | assumption | apply bump_follows | apply bumpN_follows | apply updQuery_follows
                            | apply ite_follows)
    | dsimp only | split

theorem skipRerank_follows {z : State} {T : List Field} {why : Option Nat} {s : State} {q : Query} (hT : [.out, .host, .events, .counters, .search] ⊆ T) (hz : z.follows T s) :
    z.follows T (skipRerank why s q) := by
  unfold skipRerank
  repeat' first
    | with_reducible exact List.Subset.trans (by decide) hT
    | intro _
    | with_reducible (first | assumption | apply dropVectors_follows | apply updQuery_follows | apply ite_follows)
    | dsimp only | split

theorem onQuery_follows {z : State} {T : List Field} {s : State} {qid : Nat} {f : State → Query → State}
    (hf : ∀ t q, z.follows T t → z.follows T (f t q)) (hT : [] ⊆ T) (hz : z.follows T s) : z.follows T (onQuery s qid f) := by
  unfold onQuery
  repeat' first
    | with_reducible exact List.Subset.trans (by decide) hT
    | intro _
    | with_reducible (first | assumption | apply hf | apply ite_follows)
    | dsimp only | split

theorem forceList_follows {z : State} {T : List Field} {s : State} {qid : Nat} (hT : [.search] ⊆ T) (hz : z.follows T s) :
    z.follows T (forceList s qid) := by
  unfold forceList
  repeat' first
    | with_reducible exact List.Subset.trans (by decide) hT
    | intro _
    | with_reducible (first | assumption | apply onQuery_follows | apply updQuery_follows | apply ite_follows)
    | dsimp only | split

theorem endStages_follows {z : State} {T : List Field} {ladder : Bool} {why : Option Nat} {s : State} {qid : Nat} (hT : [.out, .free, .host, .events, .counters, .pools, .streams, .search, .fabric] ⊆ T) (hz : z.follows T s) :
    z.follows T (endStages ladder why s qid) := by
  unfold endStages
  repeat' first
    | with_reducible exact List.Subset.trans (by decide) hT
    | intro _
    | with_reducible (first | assumption | apply bumpN_follows | apply drawOrd_follows | apply dropBridges_follows
                            | apply dropFetched_follows | apply dropVectors_follows | apply finishStage_follows
                            | apply forceList_follows | apply forceScore_follows | apply onQuery_follows
                            | apply skipRerank_follows | apply updQuery_follows | apply ite_follows)
    | dsimp only | split

theorem forceEnd_follows {z : State} {T : List Field} {ladder : Bool} {why : Option Nat} {s : State} {qid : Nat} (hT : [.out, .free, .host, .events, .counters, .pools, .streams, .search, .fabric] ⊆ T) (hz : z.follows T s) :
    z.follows T (forceEnd ladder why s qid) := by
  unfold forceEnd
  repeat' first
    | with_reducible exact List.Subset.trans (by decide) hT
    | intro _
    | with_reducible (first | assumption | apply endStages_follows | apply updQuery_follows | apply ite_follows)
    | dsimp only | split

theorem cutQuery_follows {z : State} {T : List Field} {ladder : Bool} {s : State} {qid : Nat} (hT : [.out, .free, .host, .events, .counters, .pools, .streams, .search, .fabric] ⊆ T) (hz : z.follows T s) :
    z.follows T (cutQuery ladder s qid) := by
  unfold cutQuery
  repeat' first
    | with_reducible exact List.Subset.trans (by decide) hT
    | intro _
    | with_reducible (first | assumption | apply dropBridges_follows | apply dropVectors_follows
                            | apply endStages_follows | apply forceEnd_follows | apply onQuery_follows
                            | apply updQuery_follows | apply ite_follows)
    | dsimp only | split

theorem detachQuery_follows {z : State} {T : List Field} {s : State} {qid : Nat} (hT : [.out, .free, .host, .events, .counters, .pools, .streams, .search, .fabric] ⊆ T) (hz : z.follows T s) :
    z.follows T (detachQuery s qid) := by
  unfold detachQuery
  repeat' first
    | with_reducible exact List.Subset.trans (by decide) hT
    | intro _
    | with_reducible (first | assumption | apply forceEnd_follows | apply onQuery_follows | apply ite_follows)
    | dsimp only | split

theorem endListStreams_follows {z : State} {T : List Field} {s : State} (hT : [.out, .host, .events, .counters, .streams] ⊆ T) (hz : z.follows T s) :
    z.follows T (endListStreams s) := by
  unfold endListStreams
  repeat' first
    | with_reducible exact List.Subset.trans (by decide) hT
    | intro _
    | with_reducible (first | assumption | apply cancelTasks_follows | apply ite_follows)
    | dsimp only | split

theorem endVectorStreams_follows {z : State} {T : List Field} {s : State} (hT : [.out, .host, .events, .counters, .streams] ⊆ T) (hz : z.follows T s) :
    z.follows T (endVectorStreams s) := by
  unfold endVectorStreams
  repeat' first
    | with_reducible exact List.Subset.trans (by decide) hT
    | intro _
    | with_reducible (first | assumption | apply cancelStage_follows | apply ite_follows)
    | dsimp only | split

theorem cutQueries_follows {z : State} {T : List Field} {s : State} (hT : [.out, .free, .host, .queues, .events, .counters, .flash, .pools, .streams, .search, .fabric] ⊆ T) (hz : z.follows T s) :
    z.follows T (cutQueries s) := by
  unfold cutQueries
  repeat' first
    | with_reducible exact List.Subset.trans (by decide) hT
    | intro _
    | with_reducible (first | assumption | apply answerRead_follows | apply cancelStage_follows
                            | apply cutQuery_follows | apply detachQuery_follows | apply drawBool_follows
                            | apply endListStreams_follows | apply endVectorStreams_follows | apply foldl_follows
                            | apply ite_follows)
    | dsimp only | split

theorem repliesDue_follows {z : State} {T : List Field} {s : State} (hT : [.out, .host, .queues, .events, .counters, .flash, .pools, .streams, .search] ⊆ T) (hz : z.follows T s) :
    z.follows T (repliesDue s) := by
  unfold repliesDue
  repeat' first
    | with_reducible exact List.Subset.trans (by decide) hT
    | intro _
    | with_reducible (first | assumption | apply replySearch_follows | apply foldl_follows | apply ite_follows)
    | dsimp only | split

end Sys2Proof.Machine
end

