-- ==== Sys2Proof/Laws/FollowsLearn.lean ====
section
/-! SUPPORT. What the operations of learning, detachment, transport and the flash ladder may change: one lemma
`<operation>_follows` for each, to be cited in place of its definition (`State.follows`). -/

set_option linter.unreachableTactic false
set_option linter.unusedTactic false

namespace Sys2Proof.Machine

theorem dropRun_follows {z : State} {T : List Field} {s : State} {r : Run} (hT : [.counters, .pools, .streams, .learn] ⊆ T) (hz : z.follows T s) :
    z.follows T (dropRun s r) := by
  unfold dropRun
  repeat' first
    | with_reducible exact List.Subset.trans (by decide) hT
    | intro _
    | with_reducible (first | assumption | apply modLearn_follows | apply modPools_follows
                            | apply dropCounts_follows | apply endTasks_follows | apply ite_follows)
    | dsimp only | split

theorem addPairs_follows {z : State} {T : List Field} {s : State} {run : Nat} {ps : List (List F32 × List F32)} (hT : [.out, .host, .events, .counters, .learn] ⊆ T) (hz : z.follows T s) :
    z.follows T (addPairs s run ps).2 := by
  unfold addPairs
  repeat' first
    | with_reducible exact List.Subset.trans (by decide) hT
    | intro _
    | with_reducible (first | assumption | apply bumpN_follows | apply updRun_follows | apply ite_follows)
    | dsimp only | split

theorem decideNewRun_follows {z : State} {T : List Field} {s : State} {c : Cmd} {k : Coll} (hT : [.out, .host, .queues, .events, .counters, .flash, .pools, .streams, .learn] ⊆ T) (hz : z.follows T s) :
    z.follows T (decideNewRun s c k) := by
  unfold decideNewRun
  repeat' first
    | with_reducible exact List.Subset.trans (by decide) hT
    | intro _
    | with_reducible (first | assumption | apply modLearn_follows | apply modPools_follows | apply addPairs_follows
                            | apply bumpN_follows | apply countAt_follows | apply dropRun_follows
                            | apply replyOk_follows | apply replyRefuse_follows | apply foldl_follows
                            | apply ite_follows)
    | dsimp only | split

theorem decideMorePairs_follows {z : State} {T : List Field} {s : State} {c : Cmd} {k : Coll} (hT : [.out, .host, .queues, .events, .counters, .flash, .pools, .learn] ⊆ T) (hz : z.follows T s) :
    z.follows T (decideMorePairs s c k) := by
  unfold decideMorePairs
  repeat' first
    | with_reducible exact List.Subset.trans (by decide) hT
    | intro _
    | with_reducible (first | assumption | apply addPairs_follows | apply bumpN_follows | apply replyOk_follows
                            | apply replyRefuse_follows | apply updRun_follows | apply ite_follows)
    | dsimp only | split

theorem decideLearnStart_follows {z : State} {T : List Field} {s : State} {c : Cmd} (hT : [.out, .host, .queues, .events, .counters, .flash, .pools, .streams, .learn] ⊆ T) (hz : z.follows T s) :
    z.follows T (decideLearnStart s c) := by
  unfold decideLearnStart
  repeat' first
    | with_reducible exact List.Subset.trans (by decide) hT
    | intro _
    | with_reducible (first | assumption | apply decideMorePairs_follows | apply decideNewRun_follows
                            | apply replyRefuse_follows | apply ite_follows)
    | dsimp only | split

theorem execLearnStart_follows {z fin : State} {T : List Field} {c : Capsule} {s : State} (hT : [.out, .power, .host, .queues, .events, .counters, .loader, .flash, .pools, .streams, .learn] ⊆ T) (e : execLearnStart c s = .next fin) (hz : z.follows T s) :
    z.follows T fin := by
  unfold execLearnStart at e
  injection e with e
  subst e
  repeat' first
    | with_reducible exact List.Subset.trans (by decide) hT
    | intro _
    | with_reducible (first | assumption | apply decideLearnStart_follows | apply receive_follows
                            | apply ite_follows)
    | dsimp only | split

theorem decideLearnStop_follows {z : State} {T : List Field} {s : State} {c : Cmd} (hT : [.out, .host, .queues, .events, .counters, .flash, .pools, .learn] ⊆ T) (hz : z.follows T s) :
    z.follows T (decideLearnStop s c) := by
  unfold decideLearnStop
  repeat' first
    | with_reducible exact List.Subset.trans (by decide) hT
    | intro _
    | with_reducible (first | assumption | apply replyOk_follows | apply replyRefuse_follows | apply updRun_follows
                            | apply ite_follows)
    | dsimp only | split

theorem execLearnStop_follows {z fin : State} {T : List Field} {c : Capsule} {s : State} (hT : [.out, .power, .host, .queues, .events, .counters, .loader, .flash, .pools, .learn] ⊆ T) (e : execLearnStop c s = .next fin) (hz : z.follows T s) :
    z.follows T fin := by
  unfold execLearnStop at e
  injection e with e
  subst e
  repeat' first
    | with_reducible exact List.Subset.trans (by decide) hT
    | intro _
    | with_reducible (first | assumption | apply decideLearnStop_follows | apply receive_follows | apply ite_follows)
    | dsimp only | split

theorem decidePromote_follows {z : State} {T : List Field} {s : State} {c : Cmd} (hT : [.out, .host, .queues, .events, .counters, .flash, .colls, .pools, .streams] ⊆ T) (hz : z.follows T s) :
    z.follows T (decidePromote s c) := by
  unfold decidePromote
  repeat' first
    | with_reducible exact List.Subset.trans (by decide) hT
    | intro _
    | with_reducible (first | assumption | apply launchTensor_follows | apply replyRefuse_follows
                            | apply running_follows | apply updColl_follows | apply ite_follows)
    | dsimp only | split

theorem execEpochPromote_follows {z fin : State} {T : List Field} {c : Capsule} {s : State} (hT : [.out, .power, .host, .queues, .events, .counters, .loader, .flash, .colls, .pools, .streams] ⊆ T) (e : execEpochPromote c s = .next fin) (hz : z.follows T s) :
    z.follows T fin := by
  unfold execEpochPromote at e
  injection e with e
  subst e
  repeat' first
    | with_reducible exact List.Subset.trans (by decide) hT
    | intro _
    | with_reducible (first | assumption | apply decidePromote_follows | apply receive_follows | apply ite_follows)
    | dsimp only | split

theorem startMicroBatch_follows {z : State} {T : List Field} {s : State} {r : Run} {c : Coll} (hT : [.out, .free, .host, .events, .counters, .streams, .learn] ⊆ T) (hz : z.follows T s) :
    z.follows T (startMicroBatch s r c) := by
  unfold startMicroBatch
  repeat' first
    | with_reducible exact List.Subset.trans (by decide) hT
    | intro _
    | with_reducible (first | assumption | apply countEncode_follows | apply drawNat_follows | apply drawOrd_follows
                            | apply launchTensor_follows | apply updRun_follows | apply foldl_follows
                            | apply ite_follows)
    | dsimp only | split

theorem execMicroBatchStart_follows {z fin : State} {T : List Field} {run : Nat} {s : State} (hT : [.out, .free, .host, .events, .counters, .streams, .learn] ⊆ T) (e : execMicroBatchStart run s = .next fin) (hz : z.follows T s) :
    z.follows T fin := by
  unfold execMicroBatchStart at e
  injection e with e
  subst e
  repeat' first
    | with_reducible exact List.Subset.trans (by decide) hT
    | intro _
    | with_reducible (first | assumption | apply startMicroBatch_follows | apply ite_follows)
    | dsimp only | split

theorem execOptimiserUpdate_follows {z fin : State} {T : List Field} {run : Nat} {aborted : Bool} {sid : Nat} {s : State} (hT : Field.but [.free, .time, .locket, .facetRam, .board] ⊆ T) (e : execOptimiserUpdate run aborted sid s = .next fin) (hz : z.follows T s) :
    z.follows T fin := by
  unfold execOptimiserUpdate at e
  injection e with e
  subst e
  repeat' first
    | with_reducible exact List.Subset.trans (by decide) hT
    | intro _
    | with_reducible (first | assumption | apply bumpN_follows | apply countAt_follows | apply endTasks_follows
                            | apply skewOf_follows | apply updRun_follows | apply foldl_follows | apply ite_follows)
    | dsimp only | split

theorem dropMicroBatches_follows {z : State} {T : List Field} {s : State} {r : Run} (hT : [.out, .host, .events, .counters, .streams, .learn] ⊆ T) (hz : z.follows T s) :
    z.follows T (dropMicroBatches s r) := by
  unfold dropMicroBatches
  repeat' first
    | with_reducible exact List.Subset.trans (by decide) hT
    | intro _
    | with_reducible (first | assumption | apply bumpN_follows | apply endTasks_follows | apply updRun_follows
                            | apply ite_follows)
    | dsimp only | split

theorem stopRun_follows {z : State} {T : List Field} {s : State} {r : Run} {cause : Nat} (hT : [.out, .host, .events, .counters, .pools, .streams, .learn] ⊆ T) (hz : z.follows T s) :
    z.follows T (stopRun s r cause) := by
  unfold stopRun
  repeat' first
    | with_reducible exact List.Subset.trans (by decide) hT
    | intro _
    | with_reducible (first | assumption | apply dropMicroBatches_follows | apply dropRun_follows
                            | apply endTasks_follows | apply raiseEvent_follows | apply updRun_follows
                            | apply ite_follows)
    | dsimp only | split

theorem stopRuns_follows {z : State} {T : List Field} {s : State} (hT : [.out, .host, .events, .counters, .pools, .streams, .learn] ⊆ T) (hz : z.follows T s) :
    z.follows T (stopRuns s) := by
  unfold stopRuns
  repeat' first
    | with_reducible exact List.Subset.trans (by decide) hT
    | intro _
    | with_reducible (first | assumption | apply dropRun_follows | apply stopRun_follows | apply foldl_follows
                            | apply ite_follows)
    | dsimp only | split

theorem endStage_follows {z : State} {T : List Field} {s : State} {r : Run} {c : Coll} {m : MicroBatch} (hT : [.out, .host, .events, .counters, .streams, .learn] ⊆ T) (hz : z.follows T s) :
    z.follows T (endStage s r c m) := by
  unfold endStage
  repeat' first
    | with_reducible exact List.Subset.trans (by decide) hT
    | intro _
    | with_reducible (first | assumption | apply countAt_follows | apply endTasks_follows | apply updRun_follows
                            | apply foldl_follows | apply ite_follows)
    | dsimp only | split

theorem runStages_follows {z : State} {T : List Field} {run group : Nat} (hT : [.out, .host, .events, .counters, .streams, .learn] ⊆ T) (n : Nat) :
    ∀ {s : State}, z.follows T s → z.follows T (runStages run group n s) := by
  induction n with
  | zero => intro s hz; exact hz
  | succ n ih =>
    intro s hz
    unfold runStages
    repeat' first
      | with_reducible exact List.Subset.trans (by decide) hT
      | intro _
      | with_reducible (first | assumption | apply ih | apply endStage_follows)
      | dsimp only | split

theorem advanceRun_follows {z : State} {T : List Field} {s : State} {r : Run} (hT : [.out, .free, .host, .events, .counters, .streams, .learn] ⊆ T) (hz : z.follows T s) :
    z.follows T (advanceRun s r) := by
  unfold advanceRun
  repeat' first
    | with_reducible exact List.Subset.trans (by decide) hT
    | intro _
    | with_reducible (first | assumption | apply drawNat_follows | apply launchTensor_follows
                            | apply runStages_follows | apply ite_follows)
    | dsimp only | split

theorem publishVersion_follows {z : State} {T : List Field} {s : State} {r : Run} (hT : [.out, .host, .events, .counters, .streams, .learn] ⊆ T) (hz : z.follows T s) :
    z.follows T (publishVersion s r) := by
  unfold publishVersion
  repeat' first
    | with_reducible exact List.Subset.trans (by decide) hT
    | intro _
    | with_reducible (first | assumption | apply bump_follows | apply bumpN_follows | apply endTasks_follows
                            | apply updRun_follows | apply foldl_follows | apply ite_follows)
    | dsimp only | split

theorem enterLogged_follows {z : State} {T : List Field} {s : State} (hT : [.out, .host, .events, .counters, .search, .learn] ⊆ T) (hz : z.follows T s) :
    z.follows T (enterLogged s) := by
  unfold enterLogged
  repeat' first
    | with_reducible exact List.Subset.trans (by decide) hT
    | intro _
    | with_reducible (first | assumption | apply modSearch_follows | apply addPairs_follows | apply foldl_follows
                            | apply ite_follows)
    | dsimp only | split

theorem endPromoted_follows {z : State} {T : List Field} {coll : Nat} {s : State} (hT : [.counters, .pools, .streams, .learn] ⊆ T) (hz : z.follows T s) :
    z.follows T (endPromoted coll s) := by
  unfold endPromoted
  repeat' first
    | with_reducible exact List.Subset.trans (by decide) hT
    | intro _
    | with_reducible (first | assumption | apply dropRun_follows | apply ite_follows)
    | dsimp only | split

theorem learnEdge_follows {z : State} {T : List Field} {s : State} (hT : [.out, .free, .host, .events, .counters, .pools, .streams, .search, .learn] ⊆ T) (hz : z.follows T s) :
    z.follows T (learnEdge s) := by
  unfold learnEdge
  repeat' first
    | with_reducible exact List.Subset.trans (by decide) hT
    | intro _
    | with_reducible (first | assumption | apply advanceRun_follows | apply enterLogged_follows
                            | apply publishVersion_follows | apply stopRuns_follows | apply foldl_follows
                            | apply ite_follows)
    | dsimp only | split

theorem refreshViews_follows {z : State} {T : List Field} {s : State} (hT : [.learn] ⊆ T) (hz : z.follows T s) :
    z.follows T (refreshViews s) := by
  unfold refreshViews
  repeat' first
    | with_reducible exact List.Subset.trans (by decide) hT
    | intro _
    | with_reducible (first | assumption | apply modLearn_follows | apply ite_follows)
    | dsimp only | split

theorem driftEvent_follows {z : State} {T : List Field} {s : State} {d : Nat} {ws : List Window} (hT : [.out, .host, .events, .counters] ⊆ T) (hz : z.follows T s) :
    z.follows T (driftEvent s d ws) := by
  unfold driftEvent
  repeat' first
    | with_reducible exact List.Subset.trans (by decide) hT
    | intro _
    | with_reducible (first | assumption | apply raiseEvent_follows | apply ite_follows)
    | dsimp only | split

theorem settleWindow_follows {z : State} {T : List Field} {s : State} {w : Window} (hT : [.out, .host, .events, .counters, .colls, .learn] ⊆ T) (hz : z.follows T s) :
    z.follows T (settleWindow s w) := by
  unfold settleWindow
  repeat' first
    | with_reducible exact List.Subset.trans (by decide) hT
    | intro _
    | with_reducible (first | assumption | apply bumpN_follows | apply updColl_follows | apply updRun_follows
                            | apply ite_follows)
    | dsimp only | split

theorem execDriftWindowEnd_follows {z fin : State} {T : List Field} {s : State} (hT : [.out, .host, .events, .counters, .colls, .learn] ⊆ T) (e : execDriftWindowEnd s = .next fin) (hz : z.follows T s) :
    z.follows T fin := by
  unfold execDriftWindowEnd at e
  injection e with e
  subst e
  repeat' first
    | with_reducible exact List.Subset.trans (by decide) hT
    | intro _
    | with_reducible (first | assumption | apply modLearn_follows | apply driftEvent_follows
                            | apply settleWindow_follows | apply foldl_follows | apply ite_follows)
    | dsimp only | split

theorem cutColl_follows {z : State} {T : List Field} {s : State} {id : Nat} (hT : [.out, .free, .host, .queues, .events, .counters, .flash, .pools, .streams, .search, .fabric] ⊆ T) (hz : z.follows T s) :
    z.follows T (cutColl s id) := by
  unfold cutColl
  repeat' first
    | with_reducible exact List.Subset.trans (by decide) hT
    | intro _
    | with_reducible (first | assumption | apply answerRead_follows | apply detachQuery_follows
                            | apply foldl_follows | apply ite_follows)
    | dsimp only | split

theorem decideDetach_follows {z : State} {T : List Field} {isDelete : Bool} {s : State} {c : Cmd} (hT : [.out, .free, .host, .queues, .events, .counters, .flash, .colls, .pools, .streams, .search, .fabric] ⊆ T) (hz : z.follows T s) :
    z.follows T (decideDetach isDelete s c) := by
  unfold decideDetach
  repeat' first
    | with_reducible exact List.Subset.trans (by decide) hT
    | intro _
    | with_reducible (first | assumption | apply beginDetach_follows | apply cutColl_follows
                            | apply replyRefuse_follows | apply running_follows | apply updColl_follows
                            | apply ite_follows)
    | dsimp only | split

theorem execCollectionDetach_follows {z fin : State} {T : List Field} {c : Capsule} {s : State} (hT : [.out, .free, .power, .host, .queues, .events, .counters, .loader, .flash, .colls, .pools, .streams, .search, .fabric] ⊆ T) (e : execCollectionDetach c s = .next fin) (hz : z.follows T s) :
    z.follows T fin := by
  unfold execCollectionDetach at e
  injection e with e
  subst e
  repeat' first
    | with_reducible exact List.Subset.trans (by decide) hT
    | intro _
    | with_reducible (first | assumption | apply decideDetach_follows | apply receive_follows | apply ite_follows)
    | dsimp only | split

theorem execCollectionDelete_follows {z fin : State} {T : List Field} {c : Capsule} {s : State} (hT : [.out, .free, .power, .host, .queues, .events, .counters, .loader, .flash, .colls, .pools, .streams, .search, .fabric] ⊆ T) (e : execCollectionDelete c s = .next fin) (hz : z.follows T s) :
    z.follows T fin := by
  unfold execCollectionDelete at e
  injection e with e
  subst e
  repeat' first
    | with_reducible exact List.Subset.trans (by decide) hT
    | intro _
    | with_reducible (first | assumption | apply decideDetach_follows | apply receive_follows | apply ite_follows)
    | dsimp only | split

theorem dropKey_follows {z : State} {T : List Field} {s : State} {id : Nat} (hT : [.locket] ⊆ T) (hz : z.follows T s) :
    z.follows T (dropKey s id) := by
  unfold dropKey
  repeat' first
    | with_reducible exact List.Subset.trans (by decide) hT
    | intro _
    | with_reducible (first | assumption | apply modLocket_follows | apply ite_follows)
    | exact ⟨rfl, rfl⟩
    | dsimp only | split

theorem removeColl_follows {z : State} {T : List Field} {s : State} {id : Nat} {c : Coll} (hT : [.locket, .queues, .counters, .loader, .flash, .colls, .pools, .learn] ⊆ T) (hz : z.follows T s) :
    z.follows T (removeColl s id c) := by
  unfold removeColl
  repeat' first
    | with_reducible exact List.Subset.trans (by decide) hT
    | intro _
    | with_reducible (first | assumption | apply modFlash_follows | apply modPools_follows
                            | apply dropCounts_follows | apply dropKey_follows | apply dropObjects_follows
                            | apply ite_follows)
    | dsimp only | split
    | (simp only [follows_mk]; apply keeps_of) | with_reducible exact Or.inr rfl
    | exact Or.inl (hT (by decide)) | exact Or.inl ⟨hT (by decide), rfl, rfl⟩
    | exact Or.inl ⟨hT (by decide), fun h => h⟩ | (refine Or.inl ⟨hT (by decide), ?_⟩)

theorem endWork_follows {z : State} {T : List Field} {s : State} {id : Nat} {c : Coll} {r : CmdRef} {isDelete : Bool} (hT : [.out, .locket, .host, .queues, .events, .counters, .loader, .flash, .colls, .pools, .learn] ⊆ T) (hz : z.follows T s) :
    z.follows T (endWork s id c r isDelete) := by
  unfold endWork
  repeat' first
    | with_reducible exact List.Subset.trans (by decide) hT
    | intro _
    | with_reducible (first | assumption | apply answer_follows | apply releaseTiers_follows
                            | apply removeColl_follows | apply updColl_follows | apply ite_follows)
    | dsimp only | split

theorem execCollectionWorkEnd_follows {z fin : State} {T : List Field} {coll : Nat} {s : State} (hT : [.out, .locket, .host, .queues, .events, .counters, .loader, .flash, .colls, .pools, .learn] ⊆ T) (e : execCollectionWorkEnd coll s = .next fin) (hz : z.follows T s) :
    z.follows T fin := by
  unfold execCollectionWorkEnd at e
  injection e with e
  subst e
  repeat' first
    | with_reducible exact List.Subset.trans (by decide) hT
    | intro _
    | with_reducible (first | assumption | apply endWork_follows | apply ite_follows)
    | dsimp only | split

theorem decideOp_follows {z : State} {T : List Field} {s : State} {c : Cmd} (hT : Field.but [.board] ⊆ T) (hz : z.follows T s) :
    z.follows T (decideOp s c) := by
  unfold decideOp
  repeat' first
    | with_reducible exact List.Subset.trans (by decide) hT
    | intro _
    | with_reducible (first | assumption | apply decideAttach_follows | apply decideAttest_follows
                            | apply decideCreate_follows | apply decideDelete_follows | apply decideDetach_follows
                            | apply decideEventArm_follows | apply decideFilterDrop_follows
                            | apply decideFilterPut_follows | apply decideFirmwareLoad_follows
                            | apply decideFlush_follows | apply decideIdentify_follows | apply decideItem_follows
                            | apply decideKeyLoad_follows | apply decideLearnStart_follows
                            | apply decideLearnStop_follows | apply decideMergeHint_follows
                            | apply decideMgmtRead_follows | apply decideMgmtWrite_follows
                            | apply decidePowerState_follows | apply decidePromote_follows
                            | apply decideQueueCreate_follows | apply decideQueueDelete_follows
                            | apply decideReadItem_follows | apply decideSearch_follows
                            | apply decideSettingLoad_follows | apply replyRefuse_follows | apply ite_follows)
    | dsimp only | split

theorem execCommandReady_follows {z fin : State} {T : List Field} {queue tag : Nat} {s : State} (hT : Field.but [.board] ⊆ T) (e : execCommandReady queue tag s = .next fin) (hz : z.follows T s) :
    z.follows T fin := by
  unfold execCommandReady at e
  injection e with e
  subst e
  repeat' first
    | with_reducible exact List.Subset.trans (by decide) hT
    | intro _
    | with_reducible (first | assumption | apply decideOp_follows | apply ite_follows)
    | dsimp only | split

theorem heardOn_follows {z : State} {T : List Field} {s : State} {id port : Nat} (hT : [.host] ⊆ T) (hz : z.follows T s) :
    z.follows T (heardOn s id port) := by
  unfold heardOn
  repeat' first
    | with_reducible exact List.Subset.trans (by decide) hT
    | intro _
    | with_reducible (first | assumption | apply updConn_follows | apply ite_follows)
    | dsimp only | split

theorem bindQueueZero_follows {z : State} {T : List Field} {s : State} {id : Nat} (hT : [.host, .queues] ⊆ T) (hz : z.follows T s) :
    z.follows T (bindQueueZero s id) := by
  unfold bindQueueZero
  repeat' first
    | with_reducible exact List.Subset.trans (by decide) hT
    | intro _
    | with_reducible (first | assumption | apply modHost_follows | apply modQueues_follows | apply ite_follows)
    | dsimp only | split

theorem nakConnect_follows {z : State} {T : List Field} {s : State} {d : ConnectDg} {reason : Nat} (hT : [.out, .host] ⊆ T) (hz : z.follows T s) :
    z.follows T (nakConnect s d reason) := by
  unfold nakConnect
  repeat' first
    | with_reducible exact List.Subset.trans (by decide) hT
    | intro _
    | with_reducible (first | assumption | apply emit_follows | apply sendLoose_follows | apply ite_follows)
    | dsimp only | split

theorem acceptConn_follows {z : State} {T : List Field} {s : State} {d : ConnectDg} (hT : [.out, .free, .host, .queues] ⊆ T) (hz : z.follows T s) :
    z.follows T (acceptConn s d) := by
  unfold acceptConn
  repeat' first
    | with_reducible exact List.Subset.trans (by decide) hT
    | intro _
    | with_reducible (first | assumption | apply bindQueueZero_follows | apply emit_follows
                            | apply nakConnect_follows | apply sendDatagram_follows | apply setConn_follows
                            | apply ite_follows)
    | dsimp only | split
    | (simp only [follows_mk]; apply keeps_of) | with_reducible exact Or.inr rfl
    | exact Or.inl (hT (by decide)) | exact Or.inl ⟨hT (by decide), rfl, rfl⟩
    | exact Or.inl ⟨hT (by decide), fun h => h⟩ | (refine Or.inl ⟨hT (by decide), ?_⟩)

theorem execConnect_follows {z fin : State} {T : List Field} {d : ConnectDg} {s : State} (hT : [.out, .free, .host, .queues] ⊆ T) (e : execConnect d s = .next fin) (hz : z.follows T s) :
    z.follows T fin := by
  unfold execConnect at e
  injection e with e
  subst e
  repeat' first
    | with_reducible exact List.Subset.trans (by decide) hT
    | intro _
    | with_reducible (first | assumption | apply acceptConn_follows | apply ite_follows)
    | dsimp only | split

theorem execQueue0Rebind_follows {z fin : State} {T : List Field} {conn : Nat} {s : State} (hT : [.host, .queues] ⊆ T) (e : execQueue0Rebind conn s = .next fin) (hz : z.follows T s) :
    z.follows T fin := by
  unfold execQueue0Rebind at e
  injection e with e
  subst e
  repeat' first
    | with_reducible exact List.Subset.trans (by decide) hT
    | intro _
    | with_reducible (first | assumption | apply modHost_follows | apply modQueues_follows | apply ite_follows)
    | dsimp only | split

theorem sendAck_follows {z : State} {T : List Field} {s : State} {id : Nat} {seq : BitVec 32} (hT : [.out, .host] ⊆ T) (hz : z.follows T s) :
    z.follows T (sendAck s id seq) := by
  unfold sendAck
  repeat' first
    | with_reducible exact List.Subset.trans (by decide) hT
    | intro _
    | with_reducible (first | assumption | apply emit_follows | apply sendDatagram_follows | apply ite_follows)
    | dsimp only | split

theorem sendNak_follows {z : State} {T : List Field} {s : State} {id : Nat} {seq : BitVec 32} {reason : Nat} (hT : [.out, .host] ⊆ T) (hz : z.follows T s) :
    z.follows T (sendNak s id seq reason) := by
  unfold sendNak
  repeat' first
    | with_reducible exact List.Subset.trans (by decide) hT
    | intro _
    | with_reducible (first | assumption | apply emit_follows | apply sendDatagram_follows | apply ite_follows)
    | dsimp only | split

theorem takeCapsule_follows {z : State} {T : List Field} {s : State} {port conn : Nat} {seq : BitVec 32} {bs : List Byte} (hT : Field.but [.board] ⊆ T) (hz : z.follows T s) :
    z.follows T (takeCapsule s port conn seq bs) := by
  unfold takeCapsule
  repeat' first
    | with_reducible exact List.Subset.trans (by decide) hT
    | intro _
    | with_reducible (first | assumption | apply decideOp_follows | apply receive_follows | apply sendAck_follows
                            | apply ite_follows)
    | dsimp only | split

theorem takeSegment_follows {z : State} {T : List Field} {s : State} {d : DataDg} {c : Conn} (hT : Field.but [.board] ⊆ T) (hz : z.follows T s) :
    z.follows T (takeSegment s d c) := by
  unfold takeSegment
  repeat' first
    | with_reducible exact List.Subset.trans (by decide) hT
    | intro _
    | with_reducible (first | assumption | apply sendAck_follows | apply setConn_follows | apply takeCapsule_follows
                            | apply updPort_follows | apply ite_follows)
    | dsimp only | split

theorem takeData_follows {z : State} {T : List Field} {s : State} {d : DataDg} (hT : Field.but [.board] ⊆ T) (hz : z.follows T s) :
    z.follows T (takeData s d) := by
  unfold takeData
  repeat' first
    | with_reducible exact List.Subset.trans (by decide) hT
    | intro _
    | with_reducible (first | assumption | apply ackUpTo_follows | apply bump_follows | apply emit_follows
                            | apply heardOn_follows | apply sendAck_follows | apply sendLoose_follows
                            | apply sendNak_follows | apply takeSegment_follows | apply ite_follows)
    | dsimp only | split

theorem execData_follows {z fin : State} {T : List Field} {d : DataDg} {s : State} (hT : Field.but [.board] ⊆ T) (e : execData d s = .next fin) (hz : z.follows T s) :
    z.follows T fin := by
  unfold execData at e
  injection e with e
  subst e
  repeat' first
    | with_reducible exact List.Subset.trans (by decide) hT
    | intro _
    | with_reducible (first | assumption | apply takeData_follows | apply ite_follows)
    | dsimp only | split

theorem takeAck_follows {z : State} {T : List Field} {s : State} {port conn : Nat} {seq : BitVec 32} (hT : [.host, .events] ⊆ T) (hz : z.follows T s) :
    z.follows T (takeAck s port conn seq) := by
  unfold takeAck
  repeat' first
    | with_reducible exact List.Subset.trans (by decide) hT
    | intro _
    | with_reducible (first | assumption | apply ackUpTo_follows | apply heardOn_follows | apply ite_follows)
    | dsimp only | split

theorem execAck_follows {z fin : State} {T : List Field} {port conn : Nat} {ackSeq : BitVec 32} {s : State} (hT : [.host, .events] ⊆ T) (e : execAck port conn ackSeq s = .next fin) (hz : z.follows T s) :
    z.follows T fin := by
  unfold execAck at e
  injection e with e
  subst e
  repeat' first
    | with_reducible exact List.Subset.trans (by decide) hT
    | intro _
    | with_reducible (first | assumption | apply takeAck_follows | apply ite_follows)
    | dsimp only | split

theorem takeClose_follows {z : State} {T : List Field} {s : State} {port conn : Nat} (hT : [.host] ⊆ T) (hz : z.follows T s) :
    z.follows T (takeClose s port conn) := by
  unfold takeClose
  repeat' first
    | with_reducible exact List.Subset.trans (by decide) hT
    | intro _
    | with_reducible (first | assumption | apply heardOn_follows | apply updConn_follows | apply ite_follows)
    | dsimp only | split

theorem execClose_follows {z fin : State} {T : List Field} {port conn : Nat} {s : State} (hT : [.host] ⊆ T) (e : execClose port conn s = .next fin) (hz : z.follows T s) :
    z.follows T fin := by
  unfold execClose at e
  injection e with e
  subst e
  repeat' first
    | with_reducible exact List.Subset.trans (by decide) hT
    | intro _
    | with_reducible (first | assumption | apply takeClose_follows | apply ite_follows)
    | dsimp only | split

theorem closeNow_follows {z : State} {T : List Field} {s : State} {id : Nat} {c : Conn} (hT : [.out, .host, .queues, .events, .counters, .loader] ⊆ T) (hz : z.follows T s) :
    z.follows T (closeNow s id c) := by
  unfold closeNow
  repeat' first
    | with_reducible exact List.Subset.trans (by decide) hT
    | intro _
    | with_reducible (first | assumption | apply modHost_follows | apply ackEvents_follows | apply failConn_follows
                            | apply orphan_follows | apply setConn_follows | apply ite_follows)
    | exact Nat.le_trans (Nat.sub_le _ _) (by assumption)
    | dsimp only | split

theorem execCloseTakesEffect_follows {z fin : State} {T : List Field} {conn : Nat} {s : State} (hT : [.out, .host, .queues, .events, .counters, .loader] ⊆ T) (e : execCloseTakesEffect conn s = .next fin) (hz : z.follows T s) :
    z.follows T fin := by
  unfold execCloseTakesEffect at e
  injection e with e
  subst e
  repeat' first
    | with_reducible exact List.Subset.trans (by decide) hT
    | intro _
    | with_reducible (first | assumption | apply closeNow_follows | apply ite_follows)
    | dsimp only | split

theorem retransmit_follows {z : State} {T : List Field} {s : State} {id : Nat} {c : Conn} (hT : [.out, .host, .queues, .events, .counters, .loader] ⊆ T) (hz : z.follows T s) :
    z.follows T (retransmit s id c) := by
  unfold retransmit
  repeat' first
    | with_reducible exact List.Subset.trans (by decide) hT
    | intro _
    | with_reducible (first | assumption | apply failConn_follows | apply resendKept_follows | apply setConn_follows
                            | apply ite_follows)
    | dsimp only | split

theorem execReplyRetransmit_follows {z fin : State} {T : List Field} {conn : Nat} {s : State} (hT : [.out, .host, .queues, .events, .counters, .loader] ⊆ T) (e : execReplyRetransmit conn s = .next fin) (hz : z.follows T s) :
    z.follows T fin := by
  unfold execReplyRetransmit at e
  injection e with e
  subst e
  repeat' first
    | with_reducible exact List.Subset.trans (by decide) hT
    | intro _
    | with_reducible (first | assumption | apply retransmit_follows | apply ite_follows)
    | dsimp only | split

theorem sourceTime_follows {z : State} {T : List Field} {s : State} {offsetNs : Int} {fabricNs : Nat} (hT : [.time] ⊆ T) (hz : z.follows T s) :
    z.follows T (sourceTime s offsetNs fabricNs) := by
  unfold sourceTime
  repeat' first
    | with_reducible exact List.Subset.trans (by decide) hT
    | intro _
    | with_reducible (first | assumption | apply modTime_follows | apply ite_follows)
    | dsimp only | split

theorem takePtp_follows {z : State} {T : List Field} {s : State} {port : Nat} {offsetNs : Int} {fabricNs : Nat} (hT : [.out, .time, .loader, .fabric] ⊆ T) (hz : z.follows T s) :
    z.follows T (takePtp s port offsetNs fabricNs) := by
  unfold takePtp
  repeat' first
    | with_reducible exact List.Subset.trans (by decide) hT
    | intro _
    | with_reducible (first | assumption | apply checkDiscovery_follows | apply sourceTime_follows
                            | apply ite_follows)
    | dsimp only | split

theorem execPtpMessage_follows {z fin : State} {T : List Field} {port : Nat} {offsetNs : Int} {fabricNs : Nat} {s : State} (hT : [.out, .time, .loader, .fabric] ⊆ T) (e : execPtpMessage port offsetNs fabricNs s = .next fin) (hz : z.follows T s) :
    z.follows T fin := by
  unfold execPtpMessage at e
  injection e with e
  subst e
  repeat' first
    | with_reducible exact List.Subset.trans (by decide) hT
    | intro _
    | with_reducible (first | assumption | apply takePtp_follows | apply ite_follows)
    | dsimp only | split

theorem takeReune_follows {z : State} {T : List Field} {s : State} {f : Frame} {src : BitVec 128} {srcPort : Nat} {bs : List Byte} (hT : Field.but [.board] ⊆ T) (hz : z.follows T s) :
    z.follows T (takeReune s f src srcPort bs) := by
  unfold takeReune
  repeat' first
    | with_reducible exact List.Subset.trans (by decide) hT
    | intro _
    | with_reducible (first | assumption | apply acceptConn_follows | apply takeAck_follows
                            | apply takeClose_follows | apply takeData_follows | apply ite_follows)
    | dsimp only | split

theorem takeFrame_follows {z : State} {T : List Field} {s : State} {f : Frame} (hT : Field.but [.board] ⊆ T) (hz : z.follows T s) :
    z.follows T (takeFrame s f) := by
  unfold takeFrame
  repeat' first
    | with_reducible exact List.Subset.trans (by decide) hT
    | intro _
    | with_reducible (first | assumption | apply bump_follows | apply emit_follows | apply sendFrame_follows
                            | apply takePtp_follows | apply takeReune_follows | apply ite_follows)
    | dsimp only | split

theorem execEthernetFrame_follows {z fin : State} {T : List Field} {f : Frame} {s : State} (hT : Field.but [.board] ⊆ T) (e : execEthernetFrame f s = .next fin) (hz : z.follows T s) :
    z.follows T fin := by
  unfold execEthernetFrame at e
  injection e with e
  subst e
  repeat' first
    | with_reducible exact List.Subset.trans (by decide) hT
    | intro _
    | with_reducible (first | assumption | apply bump_follows | apply takeFrame_follows | apply ite_follows)
    | dsimp only | split

theorem execHostPortDown_follows {z fin : State} {T : List Field} {port : Nat} {s : State} (hT : Field.but [.free, .time, .locket, .facetRam, .board] ⊆ T) (e : execHostPortDown port s = .next fin) (hz : z.follows T s) :
    z.follows T fin := by
  unfold execHostPortDown at e
  injection e with e
  subst e
  repeat' first
    | with_reducible exact List.Subset.trans (by decide) hT
    | intro _
    | with_reducible (first | assumption | apply portDown_follows | apply updPort_follows | apply ite_follows)
    | dsimp only | split

theorem execHostPortUp_follows {z fin : State} {T : List Field} {port : Nat} {s : State} (hT : [.host, .collectors] ⊆ T) (e : execHostPortUp port s = .next fin) (hz : z.follows T s) :
    z.follows T fin := by
  unfold execHostPortUp at e
  injection e with e
  subst e
  repeat' first
    | with_reducible exact List.Subset.trans (by decide) hT
    | intro _
    | with_reducible (first | assumption | apply dropPins_follows | apply updPort_follows | apply ite_follows)
    | dsimp only | split

theorem cageOut_follows {z : State} {T : List Field} {s : State} {p : Nat} (hT : Field.but [.free, .time, .locket, .facetRam, .board] ⊆ T) (hz : z.follows T s) :
    z.follows T (cageOut s p) := by
  unfold cageOut
  repeat' first
    | with_reducible exact List.Subset.trans (by decide) hT
    | intro _
    | with_reducible (first | assumption | apply portDown_follows | apply updPort_follows | apply ite_follows)
    | dsimp only | split

theorem execOsfpCageOvercurrent_follows {z fin : State} {T : List Field} {port : Nat} {s : State} (hT : Field.but [.free, .time, .locket, .facetRam, .board] ⊆ T) (e : execOsfpCageOvercurrent port s = .next fin) (hz : z.follows T s) :
    z.follows T fin := by
  unfold execOsfpCageOvercurrent at e
  injection e with e
  subst e
  repeat' first
    | with_reducible exact List.Subset.trans (by decide) hT
    | intro _
    | with_reducible (first | assumption | apply cageOut_follows | apply ite_follows)
    | dsimp only | split

theorem execOsfpModuleRemoved_follows {z fin : State} {T : List Field} {port : Nat} {s : State} (hT : Field.but [.free, .time, .locket, .facetRam, .board] ⊆ T) (e : execOsfpModuleRemoved port s = .next fin) (hz : z.follows T s) :
    z.follows T fin := by
  unfold execOsfpModuleRemoved at e
  injection e with e
  subst e
  repeat' first
    | with_reducible exact List.Subset.trans (by decide) hT
    | intro _
    | with_reducible (first | assumption | apply cageOut_follows | apply ite_follows)
    | dsimp only | split

theorem execOsfpModuleInserted_follows {z fin : State} {T : List Field} {port : Nat} {supported : Bool} {s : State} (hT : [.host] ⊆ T) (e : execOsfpModuleInserted port supported s = .next fin) (hz : z.follows T s) :
    z.follows T fin := by
  unfold execOsfpModuleInserted at e
  injection e with e
  subst e
  repeat' first
    | with_reducible exact List.Subset.trans (by decide) hT
    | intro _
    | with_reducible (first | assumption | apply updPort_follows | apply ite_follows)
    | dsimp only | split

theorem updBlock_follows {z : State} {T : List Field} {s : State} {c n : Nat} {f : Block → Block} (hT : [.flash] ⊆ T) (hz : z.follows T s) :
    z.follows T (updBlock s c n f) := by
  unfold updBlock
  repeat' first
    | with_reducible exact List.Subset.trans (by decide) hT
    | intro _
    | with_reducible (first | assumption | apply modFlash_follows | apply ite_follows)
    | dsimp only | split

theorem journalUnits_follows {z : State} {T : List Field} {s : State} (hT : [.flash, .pools] ⊆ T) (hz : z.follows T s) :
    z.follows T (journalUnits s) := by
  unfold journalUnits
  repeat' first
    | with_reducible exact List.Subset.trans (by decide) hT
    | intro _
    | with_reducible (first | assumption | apply modFlash_follows | apply modPools_follows | apply ite_follows)
    | dsimp only | split

theorem zeroFill_follows {z : State} {T : List Field} {s : State} {coll : Nat} {page : Nat} {rs : List WriteRec} (hT : [.colls] ⊆ T) (hz : z.follows T s) :
    z.follows T (zeroFill s coll page rs) := by
  unfold zeroFill
  repeat' first
    | with_reducible exact List.Subset.trans (by decide) hT
    | intro _
    | with_reducible (first | assumption | apply updColl_follows | apply ite_follows)
    | dsimp only | split

theorem drainUnit_follows {z : State} {T : List Field} {s : State} {coll page chan block : Nat} {rs : List WriteRec} (hT : [.out, .host, .events, .counters, .flash, .colls, .pools] ⊆ T) (hz : z.follows T s) :
    z.follows T (drainUnit s coll page chan block rs) := by
  unfold drainUnit
  repeat' first
    | with_reducible exact List.Subset.trans (by decide) hT
    | intro _
    | with_reducible (first | assumption | apply modFlash_follows | apply countBlockRead_follows
                            | apply journalUnits_follows | apply raiseEvent_follows | apply zeroFill_follows
                            | apply ite_follows)
    | dsimp only | split

theorem execUnitDrain_follows {z fin : State} {T : List Field} {coll page chan block : Nat} {s : State} (hT : [.out, .host, .events, .counters, .flash, .colls, .pools] ⊆ T) (e : execUnitDrain coll page chan block s = .next fin) (hz : z.follows T s) :
    z.follows T fin := by
  unfold execUnitDrain at e
  injection e with e
  subst e
  repeat' first
    | with_reducible exact List.Subset.trans (by decide) hT
    | intro _
    | with_reducible (first | assumption | apply drainUnit_follows | apply ite_follows)
    | dsimp only | split

theorem moveUnits_follows {z : State} {T : List Field} {s : State} {wear : Bool} {p : Unit64 → Bool} (hT : [.flash] ⊆ T) (hz : z.follows T s) :
    z.follows T (moveUnits s wear p) := by
  unfold moveUnits
  repeat' first
    | with_reducible exact List.Subset.trans (by decide) hT
    | intro _
    | with_reducible (first | assumption | apply modFlash_follows | apply ite_follows)
    | dsimp only | split

theorem wearEvents_follows {z : State} {T : List Field} {s : State} {c : Nat} (hT : [.out, .host, .events, .counters, .flash] ⊆ T) (hz : z.follows T s) :
    z.follows T (wearEvents s c) := by
  unfold wearEvents
  repeat' first
    | with_reducible exact List.Subset.trans (by decide) hT
    | intro _
    | with_reducible (first | assumption | apply raiseEvent_follows | apply updFlashCh_follows | apply ite_follows)
    | dsimp only | split

theorem eraseBlock_follows {z : State} {T : List Field} {s : State} {c n : Nat} (hT : [.out, .host, .events, .counters, .flash] ⊆ T) (hz : z.follows T s) :
    z.follows T (eraseBlock s c n) := by
  unfold eraseBlock
  repeat' first
    | with_reducible exact List.Subset.trans (by decide) hT
    | intro _
    | with_reducible (first | assumption | apply updBlock_follows | apply wearEvents_follows | apply ite_follows)
    | dsimp only | split

theorem execWearLevelling_follows {z fin : State} {T : List Field} {c : Nat} {s : State} (hT : [.flash] ⊆ T) (e : execWearLevelling c s = .next fin) (hz : z.follows T s) :
    z.follows T fin := by
  unfold execWearLevelling at e
  injection e with e
  subst e
  repeat' first
    | with_reducible exact List.Subset.trans (by decide) hT
    | intro _
    | with_reducible (first | assumption | apply moveUnits_follows | apply foldl_follows | apply ite_follows)
    | dsimp only | split

theorem execReadDisturbRefresh_follows {z fin : State} {T : List Field} {c block : Nat} {s : State} (hT : [.flash] ⊆ T) (e : execReadDisturbRefresh c block s = .next fin) (hz : z.follows T s) :
    z.follows T fin := by
  unfold execReadDisturbRefresh at e
  injection e with e
  subst e
  repeat' first
    | with_reducible exact List.Subset.trans (by decide) hT
    | intro _
    | with_reducible (first | assumption | apply moveUnits_follows | apply ite_follows)
    | dsimp only | split

theorem execRetentionScrub_follows {z fin : State} {T : List Field} {c block : Nat} {weak : List Nat} {s : State} (hT : [.flash] ⊆ T) (e : execRetentionScrub c block weak s = .next fin) (hz : z.follows T s) :
    z.follows T fin := by
  unfold execRetentionScrub at e
  injection e with e
  subst e
  repeat' first
    | with_reducible exact List.Subset.trans (by decide) hT
    | intro _
    | with_reducible (first | assumption | apply moveUnits_follows | apply updBlock_follows | apply ite_follows)
    | dsimp only | split

theorem execFreeBlockCollection_follows {z fin : State} {T : List Field} {c : Nat} {s : State} (hT : [.out, .host, .events, .counters, .flash] ⊆ T) (e : execFreeBlockCollection c s = .next fin) (hz : z.follows T s) :
    z.follows T fin := by
  unfold execFreeBlockCollection at e
  injection e with e
  subst e
  repeat' first
    | with_reducible exact List.Subset.trans (by decide) hT
    | intro _
    | with_reducible (first | assumption | apply eraseBlock_follows | apply moveUnits_follows
                            | apply updBlock_follows | apply ite_follows)
    | dsimp only | split

theorem execRelocationComplete_follows {z fin : State} {T : List Field} {unit chan block : Nat} {s : State} (hT : [.out, .host, .events, .counters, .flash] ⊆ T) (e : execRelocationComplete unit chan block s = .next fin) (hz : z.follows T s) :
    z.follows T fin := by
  unfold execRelocationComplete at e
  injection e with e
  subst e
  repeat' first
    | with_reducible exact List.Subset.trans (by decide) hT
    | intro _
    | with_reducible (first | assumption | apply countBlockRead_follows | apply eraseBlock_follows
                            | apply programUnit_follows | apply ite_follows)
    | dsimp only | split

theorem ladderFails_follows {z : State} {T : List Field} {s : State} {c : Nat} {coll : Nat} {page : Nat} (hT : Field.but [.free, .time, .locket, .facetRam, .board] ⊆ T) (hz : z.follows T s) :
    z.follows T (ladderFails s c coll page) := by
  unfold ladderFails
  repeat' first
    | with_reducible exact List.Subset.trans (by decide) hT
    | intro _
    | with_reducible (first | assumption | apply modFlash_follows | apply lostRead_follows | apply ite_follows)
    | dsimp only | split

theorem execRecoveryLadderEnd_follows {z fin : State} {T : List Field} {c coll page : Nat} {r : LadderEnd} {s : State} (hT : Field.but [.free, .time, .locket, .facetRam, .board] ⊆ T) (e : execRecoveryLadderEnd c coll page r s = .next fin) (hz : z.follows T s) :
    z.follows T fin := by
  unfold execRecoveryLadderEnd at e
  injection e with e
  subst e
  repeat' first
    | with_reducible exact List.Subset.trans (by decide) hT
    | intro _
    | with_reducible (first | assumption | apply bump_follows | apply bumpN_follows | apply ladderFails_follows
                            | apply ite_follows)
    | dsimp only | split

end Sys2Proof.Machine
end

