-- ==== Sys2Proof/Laws/FollowsFabric.lean ====
section
/-! SUPPORT. What the operations of the fabric, time and the bead edge may change: one lemma
`<operation>_follows` for each, to be cited in place of its definition (`State.follows`). -/

set_option linter.unreachableTactic false
set_option linter.unusedTactic false

namespace Sys2Proof.Machine

theorem dropLinkPins_follows {z : State} {T : List Field} {s : State} (hT : [.collectors] ⊆ T) (hz : z.follows T s) :
    z.follows T (dropLinkPins s) := by
  unfold dropLinkPins
  repeat' first
    | with_reducible exact List.Subset.trans (by decide) hT
    | intro _
    | with_reducible (first | assumption | apply dropPins_follows | apply ite_follows)
    | dsimp only | split

theorem endLoopback_follows {z : State} {T : List Field} {s : State} {l : Nat} (hT : [.fabric] ⊆ T) (hz : z.follows T s) :
    z.follows T (endLoopback s l) := by
  unfold endLoopback
  repeat' first
    | with_reducible exact List.Subset.trans (by decide) hT
    | intro _
    | with_reducible (first | assumption | apply updLink_follows | apply ite_follows)
    | dsimp only | split

theorem enterIdent_follows {z : State} {T : List Field} {s : State} {l : Nat} {peer : BitVec 128} (hT : [.out, .free, .fabric] ⊆ T) (hz : z.follows T s) :
    z.follows T (enterIdent s l peer) := by
  unfold enterIdent
  repeat' first
    | with_reducible exact List.Subset.trans (by decide) hT
    | intro _
    | with_reducible (first | assumption | apply drawNat_follows | apply emit_follows | apply updLink_follows
                            | apply ite_follows)
    | dsimp only | split

theorem execLinkTrainingComplete_follows {z fin : State} {T : List Field} {l : Nat} {peer : Option (BitVec 128)} {s : State} (hT : Field.but [.time, .locket, .facetRam, .board] ⊆ T) (e : execLinkTrainingComplete l peer s = .next fin) (hz : z.follows T s) :
    z.follows T fin := by
  unfold execLinkTrainingComplete at e
  injection e with e
  subst e
  repeat' first
    | with_reducible exact List.Subset.trans (by decide) hT
    | intro _
    | with_reducible (first | assumption | apply checkDiscovery_follows | apply enterIdent_follows
                            | apply linkDown_follows | apply ite_follows)
    | dsimp only | split

theorem takeIdent_follows {z : State} {T : List Field} {s : State} {l : Nat} {m : IdentMsg} (hT : Field.but [.free, .time, .locket, .facetRam, .board] ⊆ T) (hz : z.follows T s) :
    z.follows T (takeIdent s l m) := by
  unfold takeIdent
  repeat' first
    | with_reducible exact List.Subset.trans (by decide) hT
    | intro _
    | with_reducible (first | assumption | apply checkDiscovery_follows | apply raiseCond_follows
                            | apply updLink_follows | apply ite_follows)
    | dsimp only | split

theorem execIdent_follows {z fin : State} {T : List Field} {l : Nat} {m : IdentMsg} {s : State} (hT : Field.but [.free, .time, .locket, .facetRam, .board] ⊆ T) (e : execIdent l m s = .next fin) (hz : z.follows T s) :
    z.follows T fin := by
  unfold execIdent at e
  injection e with e
  subst e
  repeat' first
    | with_reducible exact List.Subset.trans (by decide) hT
    | intro _
    | with_reducible (first | assumption | apply takeIdent_follows | apply ite_follows)
    | dsimp only | split

theorem activateLinks_follows {z : State} {T : List Field} {s : State} (hT : [.out, .loader, .collectors, .fabric] ⊆ T) (hz : z.follows T s) :
    z.follows T (activateLinks s) := by
  unfold activateLinks
  repeat' first
    | with_reducible exact List.Subset.trans (by decide) hT
    | intro _
    | with_reducible (first | assumption | apply checkDiscovery_follows | apply dropLinkPins_follows
                            | apply endLoopback_follows | apply originate_follows | apply updLink_follows
                            | apply foldl_follows | apply ite_follows)
    | dsimp only | split

theorem execDiscoveryTimeout_follows {z fin : State} {T : List Field} {s : State} (hT : Field.but [.free, .time, .locket, .facetRam, .board] ⊆ T) (e : execDiscoveryTimeout s = .next fin) (hz : z.follows T s) :
    z.follows T fin := by
  unfold execDiscoveryTimeout at e
  injection e with e
  subst e
  repeat' first
    | with_reducible exact List.Subset.trans (by decide) hT
    | intro _
    | with_reducible (first | assumption | apply checkDiscovery_follows | apply linkDown_follows
                            | apply foldl_follows | apply ite_follows)
    | dsimp only | split

theorem execLinkDown_follows {z fin : State} {T : List Field} {l : Nat} {s : State} (hT : Field.but [.free, .time, .locket, .facetRam, .board] ⊆ T) (e : execLinkDown l s = .next fin) (hz : z.follows T s) :
    z.follows T fin := by
  unfold execLinkDown at e
  injection e with e
  subst e
  repeat' first
    | with_reducible exact List.Subset.trans (by decide) hT
    | intro _
    | with_reducible (first | assumption | apply checkDiscovery_follows | apply linkDown_follows | apply ite_follows)
    | dsimp only | split

theorem execLinkRetrainTimer_follows {z fin : State} {T : List Field} {l : Nat} {s : State} (hT : [.fabric] ⊆ T) (e : execLinkRetrainTimer l s = .next fin) (hz : z.follows T s) :
    z.follows T fin := by
  unfold execLinkRetrainTimer at e
  injection e with e
  subst e
  repeat' first
    | with_reducible exact List.Subset.trans (by decide) hT
    | intro _
    | with_reducible (first | assumption | apply updLink_follows | apply ite_follows)
    | dsimp only | split

theorem takeCredit_follows {z : State} {T : List Field} {s : State} {l : Nat} {ack : BitVec 16} {cls buf n : Nat} (hT : [.out, .fabric] ⊆ T) (hz : z.follows T s) :
    z.follows T (takeCredit s l ack cls buf n) := by
  unfold takeCredit
  repeat' first
    | with_reducible exact List.Subset.trans (by decide) hT
    | intro _
    | with_reducible (first | assumption | apply drainWait_follows | apply updLink_follows | apply ite_follows)
    | dsimp only | split

theorem execCredit_follows {z fin : State} {T : List Field} {l : Nat} {ackSeq : BitVec 16} {cls buf : BitVec 2} {n : BitVec 12} {s : State} (hT : [.out, .fabric] ⊆ T) (e : execCredit l ackSeq cls buf n s = .next fin) (hz : z.follows T s) :
    z.follows T fin := by
  unfold execCredit at e
  injection e with e
  subst e
  repeat' first
    | with_reducible exact List.Subset.trans (by decide) hT
    | intro _
    | with_reducible (first | assumption | apply takeCredit_follows | apply ite_follows)
    | dsimp only | split

theorem takeRetry_follows {z : State} {T : List Field} {s : State} {l : Nat} {seq : BitVec 16} (hT : Field.but [.free, .time, .locket, .facetRam, .board] ⊆ T) (hz : z.follows T s) :
    z.follows T (takeRetry s l seq) := by
  unfold takeRetry
  repeat' first
    | with_reducible exact List.Subset.trans (by decide) hT
    | intro _
    | with_reducible (first | assumption | apply bump_follows | apply checkDiscovery_follows | apply emit_follows
                            | apply linkDown_follows | apply updLink_follows | apply foldl_follows
                            | apply ite_follows)
    | dsimp only | split

theorem execRetry_follows {z fin : State} {T : List Field} {l : Nat} {seq : BitVec 16} {s : State} (hT : Field.but [.free, .time, .locket, .facetRam, .board] ⊆ T) (e : execRetry l seq s = .next fin) (hz : z.follows T s) :
    z.follows T fin := by
  unfold execRetry at e
  injection e with e
  subst e
  repeat' first
    | with_reducible exact List.Subset.trans (by decide) hT
    | intro _
    | with_reducible (first | assumption | apply takeRetry_follows | apply ite_follows)
    | dsimp only | split

theorem execFlitError_follows {z fin : State} {T : List Field} {l : Nat} {uncorrectable : Bool} {s : State} (hT : [.out, .host, .events, .counters, .fabric] ⊆ T) (e : execFlitError l uncorrectable s = .next fin) (hz : z.follows T s) :
    z.follows T fin := by
  unfold execFlitError at e
  injection e with e
  subst e
  repeat' first
    | with_reducible exact List.Subset.trans (by decide) hT
    | intro _
    | with_reducible (first | assumption | apply bump_follows | apply emit_follows | apply updLink_follows
                            | apply ite_follows)
    | dsimp only | split

theorem flitsIn_follows {z : State} {T : List Field} {s : State} {l : Nat} {b : MsgBody} (hT : [.fabric] ⊆ T) (hz : z.follows T s) :
    z.follows T (flitsIn s l b) := by
  unfold flitsIn
  repeat' first
    | with_reducible exact List.Subset.trans (by decide) hT
    | intro _
    | with_reducible (first | assumption | apply updLink_follows | apply ite_follows)
    | dsimp only | split

theorem noteChange_follows {z : State} {T : List Field} {s : State} {e : Elem} {repair : Bool} (hT : [.fabric] ⊆ T) (hz : z.follows T s) :
    z.follows T (noteChange s e repair) := by
  unfold noteChange
  repeat' first
    | with_reducible exact List.Subset.trans (by decide) hT
    | intro _
    | with_reducible (first | assumption | apply modFabric_follows | apply ite_follows)
    | dsimp only | split

theorem applyNotice_follows {z : State} {T : List Field} {s : State} {h : HeldNotice} (hT : Field.but [.free, .time, .locket, .facetRam, .board] ⊆ T) (hz : z.follows T s) :
    z.follows T (applyNotice s h) := by
  unfold applyNotice
  repeat' first
    | with_reducible exact List.Subset.trans (by decide) hT
    | intro _
    | with_reducible (first | assumption | apply dropPins_follows | apply noteChange_follows
                            | apply raiseCond_follows | apply ite_follows)
    | dsimp only | split

theorem applyDue_follows {z : State} {T : List Field} {s : State} {b : Nat} (hT : Field.but [.free, .time, .locket, .facetRam, .board] ⊆ T) (hz : z.follows T s) :
    z.follows T (applyDue s b) := by
  unfold applyDue
  repeat' first
    | with_reducible exact List.Subset.trans (by decide) hT
    | intro _
    | with_reducible (first | assumption | apply modFabric_follows | apply applyNotice_follows | apply foldl_follows
                            | apply ite_follows)
    | dsimp only | split

theorem takeNotice_follows {z : State} {T : List Field} {s : State} {l : Nat} {n : Notice} {repair : Bool} (hT : Field.but [.free, .time, .locket, .facetRam, .board] ⊆ T) (hz : z.follows T s) :
    z.follows T (takeNotice s l n repair) := by
  unfold takeNotice
  repeat' first
    | with_reducible exact List.Subset.trans (by decide) hT
    | intro _
    | with_reducible (first | assumption | apply modFabric_follows | apply applyNotice_follows | apply bump_follows
                            | apply flood_follows | apply ite_follows)
    | dsimp only | split

theorem execFaultNotice_follows {z fin : State} {T : List Field} {l : Nat} {n : Notice} {s : State} (hT : Field.but [.free, .time, .locket, .facetRam, .board] ⊆ T) (e : execFaultNotice l n s = .next fin) (hz : z.follows T s) :
    z.follows T fin := by
  unfold execFaultNotice at e
  injection e with e
  subst e
  repeat' first
    | with_reducible exact List.Subset.trans (by decide) hT
    | intro _
    | with_reducible (first | assumption | apply flitsIn_follows | apply takeNotice_follows | apply ite_follows)
    | dsimp only | split

theorem execRepairNotice_follows {z fin : State} {T : List Field} {l : Nat} {n : Notice} {s : State} (hT : Field.but [.free, .time, .locket, .facetRam, .board] ⊆ T) (e : execRepairNotice l n s = .next fin) (hz : z.follows T s) :
    z.follows T fin := by
  unfold execRepairNotice at e
  injection e with e
  subst e
  repeat' first
    | with_reducible exact List.Subset.trans (by decide) hT
    | intro _
    | with_reducible (first | assumption | apply flitsIn_follows | apply takeNotice_follows | apply ite_follows)
    | dsimp only | split

theorem joinQuery_follows {z : State} {T : List Field} {s : State} {h : MsgHdr} {range : Bool} {c : Capsule} {got : Nat} (hT : [.colls, .pools, .search] ⊆ T) (hz : z.follows T s) :
    z.follows T (joinQuery s h range c got) := by
  unfold joinQuery
  repeat' first
    | with_reducible exact List.Subset.trans (by decide) hT
    | intro _
    | with_reducible (first | assumption | apply enterQuery_follows | apply ite_follows)
    | dsimp only | split

theorem joinOrHold_follows {z : State} {T : List Field} {s : State} {h : MsgHdr} {range : Bool} {c : Capsule} (hT : [.power, .colls, .pools, .search, .fabric] ⊆ T) (hz : z.follows T s) :
    z.follows T (joinOrHold s h range c) := by
  unfold joinOrHold
  repeat' first
    | with_reducible exact List.Subset.trans (by decide) hT
    | intro _
    | with_reducible (first | assumption | apply modFabric_follows | apply joinQuery_follows | apply wakeUp_follows
                            | apply ite_follows)
    | dsimp only | split

theorem joinAsleep_follows {z : State} {T : List Field} {s : State} (hT : [.colls, .pools, .search, .fabric] ⊆ T) (hz : z.follows T s) :
    z.follows T (joinAsleep s) := by
  unfold joinAsleep
  repeat' first
    | with_reducible exact List.Subset.trans (by decide) hT
    | intro _
    | with_reducible (first | assumption | apply modFabric_follows | apply joinQuery_follows | apply foldl_follows
                            | apply ite_follows)
    | dsimp only | split

theorem takeQuery_follows {z : State} {T : List Field} {s : State} {h : MsgHdr} {range : Bool} {c : Capsule} (hT : [.out, .power, .host, .events, .counters, .colls, .pools, .search, .fabric] ⊆ T) (hz : z.follows T s) :
    z.follows T (takeQuery s h range c) := by
  unfold takeQuery
  repeat' first
    | with_reducible exact List.Subset.trans (by decide) hT
    | intro _
    | with_reducible (first | assumption | apply joinOrHold_follows | apply passQuery_follows | apply ite_follows)
    | dsimp only | split

theorem sendBundle_follows {z : State} {T : List Field} {s : State} {b : Bundle} {body : MsgBody} {kids : List (BitVec 20)} (hT : [.out, .host, .events, .counters, .fabric] ⊆ T) (hz : z.follows T s) :
    z.follows T (sendBundle s b body kids) := by
  unfold sendBundle
  repeat' first
    | with_reducible exact List.Subset.trans (by decide) hT
    | intro _
    | with_reducible (first | assumption | apply nextHop_follows | apply foldl_follows | apply ite_follows)
    | dsimp only | split

theorem updBranch_follows {z : State} {T : List Field} {s : State} {b : Bundle} {child : BitVec 20} {f : Branch → Branch} (hT : [.fabric] ⊆ T) (hz : z.follows T s) :
    z.follows T (updBranch s b child f) := by
  unfold updBranch
  repeat' first
    | with_reducible exact List.Subset.trans (by decide) hT
    | intro _
    | with_reducible (first | assumption | apply modFabric_follows | apply ite_follows)
    | dsimp only | split

theorem dropBundle_follows {z : State} {T : List Field} {s : State} {b : Bundle} {child : BitVec 20} (hT : [.out, .host, .events, .counters, .fabric] ⊆ T) (hz : z.follows T s) :
    z.follows T (dropBundle s b child) := by
  unfold dropBundle
  repeat' first
    | with_reducible exact List.Subset.trans (by decide) hT
    | intro _
    | with_reducible (first | assumption | apply modFabric_follows | apply bump_follows | apply sendBundle_follows
                            | apply updBranch_follows | apply ite_follows)
    | dsimp only | split

theorem replayBundle_follows {z : State} {T : List Field} {child : BitVec 20} {s : State} {b : Bundle} (hT : [.out, .host, .events, .counters, .fabric] ⊆ T) (hz : z.follows T s) :
    z.follows T (replayBundle child s b) := by
  unfold replayBundle
  repeat' first
    | with_reducible exact List.Subset.trans (by decide) hT
    | intro _
    | with_reducible (first | assumption | apply dropBundle_follows | apply nextHop_follows
                            | apply sendBundle_follows | apply foldl_follows | apply ite_follows)
    | dsimp only | split

theorem closeBundle_follows {z : State} {T : List Field} {s : State} {p : Bundle → Bool} (hT : [.out, .host, .events, .counters, .fabric] ⊆ T) (hz : z.follows T s) :
    z.follows T (closeBundle s p) := by
  unfold closeBundle
  repeat' first
    | with_reducible exact List.Subset.trans (by decide) hT
    | intro _
    | with_reducible (first | assumption | apply modFabric_follows | apply replayBundle_follows
                            | apply sendBundle_follows | apply foldl_follows | apply ite_follows)
    | dsimp only | split

theorem takeBundleEnd_follows {z : State} {T : List Field} {s : State} {h : MsgHdr} (hT : [.out, .host, .events, .counters, .fabric] ⊆ T) (hz : z.follows T s) :
    z.follows T (takeBundleEnd s h) := by
  unfold takeBundleEnd
  repeat' first
    | with_reducible exact List.Subset.trans (by decide) hT
    | intro _
    | with_reducible (first | assumption | apply closeBundle_follows | apply nextHop_follows | apply ite_follows)
    | dsimp only | split

theorem takeBundleAck_follows {z : State} {T : List Field} {s : State} {h : MsgHdr} (hT : [.fabric] ⊆ T) (hz : z.follows T s) :
    z.follows T (takeBundleAck s h) := by
  unfold takeBundleAck
  repeat' first
    | with_reducible exact List.Subset.trans (by decide) hT
    | intro _
    | with_reducible (first | assumption | apply modFabric_follows | apply ite_follows)
    | dsimp only | split

theorem takeBundleDrop_follows {z : State} {T : List Field} {s : State} {h : MsgHdr} (hT : [.fabric] ⊆ T) (hz : z.follows T s) :
    z.follows T (takeBundleDrop s h) := by
  unfold takeBundleDrop
  repeat' first
    | with_reducible exact List.Subset.trans (by decide) hT
    | intro _
    | with_reducible (first | assumption | apply modFabric_follows | apply ite_follows)
    | dsimp only | split

theorem execExitComplete_follows {z fin : State} {T : List Field} {s : State} (hT : [.power, .colls, .pools, .search, .fabric] ⊆ T) (e : execExitComplete s = .next fin) (hz : z.follows T s) :
    z.follows T fin := by
  unfold execExitComplete at e
  injection e with e
  subst e
  repeat' first
    | with_reducible exact List.Subset.trans (by decide) hT
    | intro _
    | with_reducible (first | assumption | apply modPower_follows | apply joinAsleep_follows | apply ite_follows)
    | dsimp only | split

theorem takeList_follows {z : State} {T : List Field} {s : State} {h : MsgHdr} {b : ListBody} (hT : [.free, .search, .fabric] ⊆ T) (hz : z.follows T s) :
    z.follows T (takeList s h b) := by
  unfold takeList
  repeat' first
    | with_reducible exact List.Subset.trans (by decide) hT
    | intro _
    | with_reducible (first | assumption | apply mapQueries_follows | apply noteFrom_follows | apply foldl_follows
                            | apply ite_follows)
    | dsimp only | split

theorem addRow_follows {z : State} {T : List Field} {acc : State × List (Nat × List Byte)} {slot : Nat} {it : Item}
    {p : Place} (hT : [.free] ⊆ T) (hz : z.follows T acc.1) : z.follows T (addRow acc slot it p).1 := by
  cases p
  case flash => exact drawBool_follows (List.Subset.trans (by decide) hT) hz
  all_goals exact hz

theorem readRow_follows {z : State} {T : List Field} {acc : State × List (Nat × List Byte)} {slot : Nat}
    (hT : [.free] ⊆ T) (hz : z.follows T acc.1) : z.follows T (readRow acc slot).1 := by
  unfold readRow
  split
  · exact hz
  · split
    · exact hz
    · exact addRow_follows (List.Subset.trans (by decide) hT) hz

theorem takeGatherReq_follows {z : State} {T : List Field} {s : State} {h : MsgHdr} {slots : List Nat} (hT : [.out, .free, .host, .events, .counters, .fabric] ⊆ T) (hz : z.follows T s) :
    z.follows T (takeGatherReq s h slots) := by
  have h1 : ∀ (xs : List Nat) (a : State × List (Nat × List Byte)), z.follows T a.1 → z.follows T (xs.foldl readRow a).1 := by
    intro xs
    induction xs with
    | nil => intro a h; exact h
    | cons x xs ih => intro a h; exact ih _ (readRow_follows (List.Subset.trans (by decide) hT) h)
  exact nextHop_follows (List.Subset.trans (by decide) hT) (h1 _ _ hz)

theorem takeGatherRows_follows {z : State} {T : List Field} {s : State} {h : MsgHdr} {rows : List (Nat × List Byte)} (hT : [.search] ⊆ T) (hz : z.follows T s) :
    z.follows T (takeGatherRows s h rows) := by
  unfold takeGatherRows
  repeat' first
    | with_reducible exact List.Subset.trans (by decide) hT
    | intro _
    | with_reducible (first | assumption | apply mapQueries_follows | apply ite_follows)
    | dsimp only | split

theorem actOn_follows {z : State} {T : List Field} {s : State} {h : MsgHdr} {b : MsgBody} (hT : [.out, .free, .power, .host, .events, .counters, .colls, .pools, .search, .fabric] ⊆ T)
    (hz : z.follows T s) : z.follows T (actOn s h b) := by
  cases b
  all_goals
    unfold actOn
    repeat' first
      | with_reducible exact List.Subset.trans (by decide) hT
      | intro _
      | with_reducible (first | assumption | apply modFabric_follows | apply takeQuery_follows
                              | apply takeBundleEnd_follows | apply takeBundleAck_follows | apply takeBundleDrop_follows
                              | apply takeList_follows | apply takeGatherReq_follows | apply takeGatherRows_follows)
      | dsimp only | split

theorem actEarly_follows {z : State} {T : List Field} {s : State} (hT : [.out, .free, .power, .host, .events, .counters, .colls, .pools, .search, .fabric] ⊆ T) (hz : z.follows T s) :
    z.follows T (actEarly s) := by
  unfold actEarly
  repeat' first
    | with_reducible exact List.Subset.trans (by decide) hT
    | intro _
    | with_reducible (first | assumption | apply modFabric_follows | apply actOn_follows | apply joinAsleep_follows
                            | apply foldl_follows | apply ite_follows)
    | dsimp only | split

theorem arrive_follows {z : State} {T : List Field} {s : State} {l : Nat} {h : MsgHdr} {b : MsgBody} (hT : [.out, .free, .power, .host, .events, .counters, .colls, .pools, .search, .fabric] ⊆ T) (hz : z.follows T s) :
    z.follows T (arrive s l h b) := by
  unfold arrive
  repeat' first
    | with_reducible exact List.Subset.trans (by decide) hT
    | intro _
    | with_reducible (first | assumption | apply modFabric_follows | apply actOn_follows | apply bump_follows
                            | apply flitsIn_follows | apply nextHop_follows | apply ite_follows)
    | dsimp only | split

theorem execMgmtAccess_follows {z fin : State} {T : List Field} {l : Nat} {h : MsgHdr} {body : List Byte} {s : State} (hT : [.out, .free, .power, .host, .events, .counters, .colls, .pools, .search, .fabric] ⊆ T) (e : execMgmtAccess l h body s = .next fin) (hz : z.follows T s) :
    z.follows T fin := by
  unfold execMgmtAccess at e
  injection e with e
  subst e
  repeat' first
    | with_reducible exact List.Subset.trans (by decide) hT
    | intro _
    | with_reducible (first | assumption | apply arrive_follows | apply ite_follows)
    | dsimp only | split

theorem execQuery_follows {z fin : State} {T : List Field} {l : Nat} {h : MsgHdr} {range : Bool} {c : Capsule} {s : State} (hT : [.out, .free, .power, .host, .events, .counters, .colls, .pools, .search, .fabric] ⊆ T) (e : execQuery l h range c s = .next fin) (hz : z.follows T s) :
    z.follows T fin := by
  unfold execQuery at e
  injection e with e
  subst e
  repeat' first
    | with_reducible exact List.Subset.trans (by decide) hT
    | intro _
    | with_reducible (first | assumption | apply arrive_follows | apply ite_follows)
    | dsimp only | split

theorem execBundleEnd_follows {z fin : State} {T : List Field} {l : Nat} {h : MsgHdr} {s : State} (hT : [.out, .free, .power, .host, .events, .counters, .colls, .pools, .search, .fabric] ⊆ T) (e : execBundleEnd l h s = .next fin) (hz : z.follows T s) :
    z.follows T fin := by
  unfold execBundleEnd at e
  injection e with e
  subst e
  repeat' first
    | with_reducible exact List.Subset.trans (by decide) hT
    | intro _
    | with_reducible (first | assumption | apply arrive_follows | apply ite_follows)
    | dsimp only | split

theorem execBundleAck_follows {z fin : State} {T : List Field} {l : Nat} {h : MsgHdr} {s : State} (hT : [.out, .free, .power, .host, .events, .counters, .colls, .pools, .search, .fabric] ⊆ T) (e : execBundleAck l h s = .next fin) (hz : z.follows T s) :
    z.follows T fin := by
  unfold execBundleAck at e
  injection e with e
  subst e
  repeat' first
    | with_reducible exact List.Subset.trans (by decide) hT
    | intro _
    | with_reducible (first | assumption | apply arrive_follows | apply ite_follows)
    | dsimp only | split

theorem execBundleDrop_follows {z fin : State} {T : List Field} {l : Nat} {h : MsgHdr} {s : State} (hT : [.out, .free, .power, .host, .events, .counters, .colls, .pools, .search, .fabric] ⊆ T) (e : execBundleDrop l h s = .next fin) (hz : z.follows T s) :
    z.follows T fin := by
  unfold execBundleDrop at e
  injection e with e
  subst e
  repeat' first
    | with_reducible exact List.Subset.trans (by decide) hT
    | intro _
    | with_reducible (first | assumption | apply arrive_follows | apply ite_follows)
    | dsimp only | split

theorem execList_follows {z fin : State} {T : List Field} {l : Nat} {h : MsgHdr} {b : ListBody} {s : State} (hT : [.out, .free, .power, .host, .events, .counters, .colls, .pools, .search, .fabric] ⊆ T) (e : execList l h b s = .next fin) (hz : z.follows T s) :
    z.follows T fin := by
  unfold execList at e
  injection e with e
  subst e
  repeat' first
    | with_reducible exact List.Subset.trans (by decide) hT
    | intro _
    | with_reducible (first | assumption | apply arrive_follows | apply ite_follows)
    | dsimp only | split

theorem execGatherReq_follows {z fin : State} {T : List Field} {l : Nat} {h : MsgHdr} {slots : List Nat} {s : State} (hT : [.out, .free, .power, .host, .events, .counters, .colls, .pools, .search, .fabric] ⊆ T) (e : execGatherReq l h slots s = .next fin) (hz : z.follows T s) :
    z.follows T fin := by
  unfold execGatherReq at e
  injection e with e
  subst e
  repeat' first
    | with_reducible exact List.Subset.trans (by decide) hT
    | intro _
    | with_reducible (first | assumption | apply arrive_follows | apply ite_follows)
    | dsimp only | split

theorem execGatherRows_follows {z fin : State} {T : List Field} {l : Nat} {h : MsgHdr} {rows : List (Nat × List Byte)} {s : State} (hT : [.out, .free, .power, .host, .events, .counters, .colls, .pools, .search, .fabric] ⊆ T) (e : execGatherRows l h rows s = .next fin) (hz : z.follows T s) :
    z.follows T fin := by
  unfold execGatherRows at e
  injection e with e
  subst e
  repeat' first
    | with_reducible exact List.Subset.trans (by decide) hT
    | intro _
    | with_reducible (first | assumption | apply arrive_follows | apply ite_follows)
    | dsimp only | split

theorem reach_follows {z : State} {T : List Field} {s : State} {before : Nat} (hT : [.time] ⊆ T) (hz : z.follows T s) :
    z.follows T (reach s before) := by
  unfold reach
  repeat' first
    | with_reducible exact List.Subset.trans (by decide) hT
    | intro _
    | with_reducible (first | assumption | apply modTime_follows | apply ite_follows)
    | dsimp only | split

theorem cutPoint_follows {z : State} {T : List Field} {s : State} (hT : [.out, .free, .time, .host, .queues, .events, .counters, .flash, .pools, .streams, .search, .fabric] ⊆ T) (hz : z.follows T s) :
    z.follows T (cutPoint s) := by
  unfold cutPoint
  repeat' first
    | with_reducible exact List.Subset.trans (by decide) hT
    | intro _
    | with_reducible (first | assumption | apply modTime_follows | apply cutQueries_follows | apply reach_follows
                            | apply ite_follows)
    | dsimp only | split

theorem execCutPoint_follows {z fin : State} {T : List Field} {s : State} (hT : [.out, .free, .time, .host, .queues, .events, .counters, .flash, .pools, .streams, .search, .fabric] ⊆ T) (e : execCutPoint s = .next fin) (hz : z.follows T s) :
    z.follows T fin := by
  unfold execCutPoint at e
  injection e with e
  subst e
  repeat' first
    | with_reducible exact List.Subset.trans (by decide) hT
    | intro _
    | with_reducible (first | assumption | apply cutPoint_follows | apply ite_follows)
    | dsimp only | split

theorem admissionGap_follows {z : State} {T : List Field} {s : State} (hT : [.out, .free, .time, .host, .queues, .events, .counters, .flash, .pools, .streams, .search, .fabric] ⊆ T) (hz : z.follows T s) :
    z.follows T (admissionGap s) := by
  unfold admissionGap
  repeat' first
    | with_reducible exact List.Subset.trans (by decide) hT
    | intro _
    | with_reducible (first | assumption | apply modTime_follows | apply closeBundle_follows
                            | apply cutPoint_follows | apply reach_follows | apply ite_follows)
    | dsimp only | split

theorem execAdmissionGap_follows {z fin : State} {T : List Field} {s : State} (hT : [.out, .free, .time, .host, .queues, .events, .counters, .flash, .pools, .streams, .search, .fabric] ⊆ T) (e : execAdmissionGap s = .next fin) (hz : z.follows T s) :
    z.follows T fin := by
  unfold execAdmissionGap at e
  injection e with e
  subst e
  repeat' first
    | with_reducible exact List.Subset.trans (by decide) hT
    | intro _
    | with_reducible (first | assumption | apply admissionGap_follows | apply ite_follows)
    | dsimp only | split

theorem execMulticastWindowClose_follows {z fin : State} {T : List Field} {tree : Nat} {s : State} (hT : [.time, .fabric] ⊆ T) (e : execMulticastWindowClose tree s = .next fin) (hz : z.follows T s) :
    z.follows T fin := by
  unfold execMulticastWindowClose at e
  injection e with e
  subst e
  repeat' first
    | with_reducible exact List.Subset.trans (by decide) hT
    | intro _
    | with_reducible (first | assumption | apply modFabric_follows | apply reach_follows | apply ite_follows)
    | dsimp only | split

theorem enterHoldover_follows {z : State} {T : List Field} {s : State} (hT : [.out, .time, .host, .events, .counters] ⊆ T) (hz : z.follows T s) :
    z.follows T (enterHoldover s) := by
  unfold enterHoldover
  repeat' first
    | with_reducible exact List.Subset.trans (by decide) hT
    | intro _
    | with_reducible (first | assumption | apply modTime_follows | apply raiseEvent_follows | apply ite_follows)
    | dsimp only | split

theorem execHoldover_follows {z fin : State} {T : List Field} {s : State} (hT : [.out, .time, .host, .events, .counters] ⊆ T) (e : execHoldover s = .next fin) (hz : z.follows T s) :
    z.follows T fin := by
  unfold execHoldover at e
  injection e with e
  subst e
  repeat' first
    | with_reducible exact List.Subset.trans (by decide) hT
    | intro _
    | with_reducible (first | assumption | apply enterHoldover_follows | apply ite_follows)
    | dsimp only | split

theorem takePps_follows {z : State} {T : List Field} {s : State} {offsetNs : Int} {widthNs : Nat} (hT : [.out, .time, .host, .events, .counters, .loader, .fabric] ⊆ T) (hz : z.follows T s) :
    z.follows T (takePps s offsetNs widthNs) := by
  unfold takePps
  repeat' first
    | with_reducible exact List.Subset.trans (by decide) hT
    | intro _
    | with_reducible (first | assumption | apply modTime_follows | apply checkDiscovery_follows
                            | apply enterHoldover_follows | apply sourceTime_follows | apply ite_follows)
    | dsimp only | split

theorem execPpsInEdge_follows {z fin : State} {T : List Field} {offsetNs : Int} {widthNs : Nat} {s : State} (hT : [.out, .time, .host, .events, .counters, .loader, .fabric] ⊆ T) (e : execPpsInEdge offsetNs widthNs s = .next fin) (hz : z.follows T s) :
    z.follows T fin := by
  unfold execPpsInEdge at e
  injection e with e
  subst e
  repeat' first
    | with_reducible exact List.Subset.trans (by decide) hT
    | intro _
    | with_reducible (first | assumption | apply takePps_follows | apply ite_follows)
    | dsimp only | split

theorem exchange_follows {z : State} {T : List Field} {s : State} {l : Nat} {offsetNs : Int} {fabricNs : Nat} (hT : Field.but [.free, .locket, .facetRam, .board] ⊆ T) (hz : z.follows T s) :
    z.follows T (exchange s l offsetNs fabricNs) := by
  unfold exchange
  repeat' first
    | with_reducible exact List.Subset.trans (by decide) hT
    | intro _
    | with_reducible (first | assumption | apply modTime_follows | apply checkDiscovery_follows
                            | apply raiseCond_follows | apply sourceTime_follows | apply ite_follows)
    | dsimp only | split

theorem execLinkTimeExchange_follows {z fin : State} {T : List Field} {l : Nat} {offsetNs : Int} {fabricNs : Nat} {s : State} (hT : Field.but [.free, .locket, .facetRam, .board] ⊆ T) (e : execLinkTimeExchange l offsetNs fabricNs s = .next fin) (hz : z.follows T s) :
    z.follows T fin := by
  unfold execLinkTimeExchange at e
  injection e with e
  subst e
  repeat' first
    | with_reducible exact List.Subset.trans (by decide) hT
    | intro _
    | with_reducible (first | assumption | apply exchange_follows | apply ite_follows)
    | dsimp only | split

theorem takeUpRates_follows {z : State} {T : List Field} {s : State} (hT : Field.but [.free, .time, .locket, .facetRam, .board] ⊆ T) (hz : z.follows T s) :
    z.follows T (takeUpRates s) := by
  unfold takeUpRates
  repeat' first
    | with_reducible exact List.Subset.trans (by decide) hT
    | intro _
    | with_reducible (first | assumption | apply portDown_follows | apply updPort_follows | apply foldl_follows
                            | apply ite_follows)
    | dsimp only | split

theorem takeUpPorts_follows {z : State} {T : List Field} {s : State} (hT : [.host] ⊆ T) (hz : z.follows T s) :
    z.follows T (takeUpPorts s) := by
  unfold takeUpPorts
  repeat' first
    | with_reducible exact List.Subset.trans (by decide) hT
    | intro _
    | with_reducible (first | assumption | apply modHost_follows | apply ite_follows)
    | dsimp only | split

theorem freeConns_follows {z : State} {T : List Field} {s : State} (hT : [.host] ⊆ T) (hz : z.follows T s) :
    z.follows T (freeConns s) := by
  unfold freeConns
  repeat' first
    | with_reducible exact List.Subset.trans (by decide) hT
    | intro _
    | with_reducible (first | assumption | apply modHost_follows | apply ite_follows)
    | dsimp only | split

theorem intervalActions_follows {z : State} {T : List Field} {s : State} (hT : Field.but [.free, .time, .locket, .facetRam, .board] ⊆ T) (hz : z.follows T s) :
    z.follows T (intervalActions s) := by
  unfold intervalActions
  repeat' first
    | with_reducible exact List.Subset.trans (by decide) hT
    | intro _
    | with_reducible (first | assumption | apply modCores_follows | apply activateLinks_follows
                            | apply freeConns_follows | apply takeUpPorts_follows | apply takeUpRates_follows
                            | apply ite_follows)
    | dsimp only | split

theorem execBringUpInterval_follows {z fin : State} {T : List Field} {s : State} (hT : Field.but [.free, .locket, .facetRam, .board] ⊆ T) (e : execBringUpInterval s = .next fin) (hz : z.follows T s) :
    z.follows T fin := by
  unfold execBringUpInterval at e
  injection e with e
  subst e
  repeat' first
    | with_reducible exact List.Subset.trans (by decide) hT
    | intro _
    | with_reducible (first | assumption | apply modTime_follows | apply intervalActions_follows | apply ite_follows)
    | dsimp only | split

theorem newBead_follows {z : State} {T : List Field} {s : State} {b : Nat} (hT : [.time, .queues, .collectors, .pools, .fabric] ⊆ T) (hz : z.follows T s) :
    z.follows T (newBead s b) := by
  unfold newBead
  repeat' first
    | with_reducible exact List.Subset.trans (by decide) hT
    | intro _
    | with_reducible (first | assumption | apply modFabric_follows | apply modPools_follows
                            | apply modQueues_follows | apply modTime_follows | apply dropPins_follows
                            | apply ite_follows)
    | dsimp only | split

theorem hbmEdge_follows {z : State} {T : List Field} {s : State} (hT : [.hbm] ⊆ T) (hz : z.follows T s) :
    z.follows T (hbmEdge s) := by
  unfold hbmEdge
  repeat' first
    | with_reducible exact List.Subset.trans (by decide) hT
    | intro _
    | with_reducible (first | assumption | apply modHbm_follows | apply chanReturn_follows | apply foldl_follows
                            | apply ite_follows)
    | dsimp only | split

theorem mapEdge_follows {z : State} {T : List Field} {s : State} (hT : [.flash] ⊆ T) (hz : z.follows T s) :
    z.follows T (mapEdge s) := by
  unfold mapEdge
  repeat' first
    | with_reducible exact List.Subset.trans (by decide) hT
    | intro _
    | with_reducible (first | assumption | apply modFlash_follows | apply foldl_follows | apply ite_follows)
    | dsimp only | split

theorem releases_follows {z : State} {T : List Field} {s : State} (hT : [.out, .locket, .host, .queues, .events, .counters, .loader, .facets, .near, .hbm, .flash, .pools, .search] ⊆ T) (hz : z.follows T s) :
    z.follows T (releases s) := by
  unfold releases
  repeat' first
    | with_reducible exact List.Subset.trans (by decide) hT
    | intro _
    | with_reducible (first | assumption | apply modFlash_follows | apply modNear_follows | apply modSearch_follows
                            | apply hbmEdge_follows | apply mapEdge_follows | apply partialRelease_follows
                            | apply ite_follows)
    | dsimp only | split
    | (simp only [follows_mk]; apply keeps_of) | with_reducible exact Or.inr rfl
    | exact Or.inl (hT (by decide)) | exact Or.inl ⟨hT (by decide), rfl, rfl⟩
    | exact Or.inl ⟨hT (by decide), fun h => h⟩ | (refine Or.inl ⟨hT (by decide), ?_⟩)

theorem substitute_follows {z : State} {T : List Field} {s : State} {lf : Nat × Nat} (hT : [.loader, .facets] ⊆ T) (hz : z.follows T s) :
    z.follows T (substitute s lf) := by
  unfold substitute
  repeat' first
    | with_reducible exact List.Subset.trans (by decide) hT
    | intro _
    | with_reducible (first | assumption | apply modLoader_follows | apply updFacet_follows | apply ite_follows)
    | dsimp only | split

theorem settingEdge_follows {z : State} {T : List Field} {s : State} (hT : [.loader, .facets] ⊆ T) (hz : z.follows T s) :
    z.follows T (settingEdge s) := by
  unfold settingEdge
  repeat' first
    | with_reducible exact List.Subset.trans (by decide) hT
    | intro _
    | with_reducible (first | assumption | apply modLoader_follows | apply substitute_follows | apply foldl_follows
                            | apply ite_follows)
    | dsimp only | split

theorem shedFacets_follows {z : State} {T : List Field} {s : State} (hT : [.facets] ⊆ T) (hz : z.follows T s) :
    z.follows T (shedFacets s) := by
  unfold shedFacets
  repeat' first
    | with_reducible exact List.Subset.trans (by decide) hT
    | intro _
    | with_reducible (first | assumption | apply ite_follows)
    | dsimp only | split
    | (simp only [follows_mk]; apply keeps_of) | with_reducible exact Or.inr rfl
    | exact Or.inl (hT (by decide)) | exact Or.inl ⟨hT (by decide), rfl, rfl⟩
    | exact Or.inl ⟨hT (by decide), fun h => h⟩ | (refine Or.inl ⟨hT (by decide), ?_⟩)

theorem shedEdge_follows {z : State} {T : List Field} {s : State} (hT : [.out, .power, .host, .events, .counters, .facets] ⊆ T) (hz : z.follows T s) :
    z.follows T (shedEdge s) := by
  unfold shedEdge
  repeat' first
    | with_reducible exact List.Subset.trans (by decide) hT
    | intro _
    | with_reducible (first | assumption | apply modPower_follows | apply clearSteps_follows
                            | apply shedFacets_follows | apply ite_follows)
    | dsimp only | split

theorem detachedEdge_follows {z : State} {T : List Field} {s : State} {id : Nat} (hT : [.out, .host, .queues, .events, .counters, .flash, .colls, .pools, .streams] ⊆ T) (hz : z.follows T s) :
    z.follows T (detachedEdge s id) := by
  unfold detachedEdge
  repeat' first
    | with_reducible exact List.Subset.trans (by decide) hT
    | intro _
    | with_reducible (first | assumption | apply endTasks_follows | apply refuse_follows | apply updColl_follows
                            | apply ite_follows)
    | dsimp only | split

theorem foldedShares_follows {z : State} {T : List Field} {s : State} {was : Tab Coll} (hT : [.pools] ⊆ T) (hz : z.follows T s) :
    z.follows T (foldedShares s was) := by
  unfold foldedShares
  repeat' first
    | with_reducible exact List.Subset.trans (by decide) hT
    | intro _
    | with_reducible (first | assumption | apply modPools_follows | apply ite_follows)
    | dsimp only | split

theorem stopMerges_follows {z : State} {T : List Field} {s : State} {p : Coll → Bool} (hT : [.colls, .streams] ⊆ T) (hz : z.follows T s) :
    z.follows T (stopMerges s p) := by
  unfold stopMerges
  repeat' first
    | with_reducible exact List.Subset.trans (by decide) hT
    | intro _
    | with_reducible (first | assumption | apply endTasks_follows | apply updColl_follows | apply foldl_follows
                            | apply ite_follows)
    | dsimp only | split

theorem partialEdge_follows {z : State} {T : List Field} {s : State} {b : Nat} (hT : [.out, .host, .events, .counters, .loader, .colls, .streams, .learn] ⊆ T) (hz : z.follows T s) :
    z.follows T (partialEdge s b) := by
  unfold partialEdge
  repeat' first
    | with_reducible exact List.Subset.trans (by decide) hT
    | intro _
    | with_reducible (first | assumption | apply modLoader_follows | apply dropMicroBatches_follows
                            | apply stopMerges_follows | apply foldl_follows | apply ite_follows)
    | dsimp only | split

theorem startMerge_getD_follows {z s : State} {T : List Field} {id b : Nat} (hT : [.colls, .streams] ⊆ T) (hz : z.follows T s) :
    z.follows T ((startMerge s id b).getD s) := by
  cases e : startMerge s id b
  · exact hz
  · exact startMerge_follows hT hz e

theorem triggerEdge_follows {z : State} {T : List Field} {s : State} {b : Nat} (hT : [.colls, .streams] ⊆ T) (hz : z.follows T s) :
    z.follows T (triggerEdge s b) := by
  unfold triggerEdge
  repeat' first
    | with_reducible exact List.Subset.trans (by decide) hT
    | intro _
    | with_reducible (first | assumption | apply foldl_follows | apply startMerge_getD_follows | apply ite_follows)
    | exact startMerge_follows (List.Subset.trans (by decide) hT) (by with_reducible assumption) (by assumption)
    | dsimp only | split

theorem retireEdge_follows {z : State} {T : List Field} {s : State} {id : Nat} (hT : [.counters, .colls, .learn] ⊆ T) (hz : z.follows T s) :
    z.follows T (retireEdge s id) := by
  unfold retireEdge
  repeat' first
    | with_reducible exact List.Subset.trans (by decide) hT
    | intro _
    | with_reducible (first | assumption | apply dropCounts_follows | apply setColl_follows | apply ite_follows)
    | dsimp only | split

theorem epochEdge_follows {z : State} {T : List Field} {b : Nat} {s : State} {id : Nat} (hT : [.out, .host, .queues, .events, .counters, .flash, .colls, .pools, .streams, .learn] ⊆ T) (hz : z.follows T s) :
    z.follows T (epochEdge b s id) := by
  unfold epochEdge
  repeat' first
    | with_reducible exact List.Subset.trans (by decide) hT
    | intro _
    | with_reducible (first | assumption | apply endPromoted_follows | apply publishEpoch_follows
                            | apply ite_follows)
    | dsimp only | split

theorem collEdge_follows {z : State} {T : List Field} {s : State} {b : Nat} (hT : [.out, .free, .host, .queues, .events, .counters, .flash, .colls, .pools, .streams, .learn] ⊆ T) (hz : z.follows T s) :
    z.follows T (collEdge s b) := by
  unfold collEdge
  repeat' first
    | with_reducible exact List.Subset.trans (by decide) hT
    | intro _
    | with_reducible (first | assumption | apply epochEdge_follows | apply publishMerge_follows
                            | apply retireEdge_follows | apply stopMerges_follows | apply triggerEdge_follows
                            | apply foldl_follows | apply ite_follows)
    | dsimp only | split

theorem branchEdge_follows {z : State} {T : List Field} {b : Nat} {s : State} {k : Nat × BitVec 20 × BitVec 20} (hT : [.out, .host, .events, .counters, .fabric] ⊆ T) (hz : z.follows T s) :
    z.follows T (branchEdge b s k) := by
  unfold branchEdge
  repeat' first
    | with_reducible exact List.Subset.trans (by decide) hT
    | intro _
    | with_reducible (first | assumption | apply bump_follows | apply dropBundle_follows
                            | apply replayBundle_follows | apply updBranch_follows | apply foldl_follows
                            | apply ite_follows)
    | dsimp only | split

theorem pruneBundles_follows {z : State} {T : List Field} {s : State} {b : Nat} (hT : [.fabric] ⊆ T) (hz : z.follows T s) :
    z.follows T (pruneBundles s b) := by
  unfold pruneBundles
  repeat' first
    | with_reducible exact List.Subset.trans (by decide) hT
    | intro _
    | with_reducible (first | assumption | apply modFabric_follows | apply ite_follows)
    | dsimp only | split

theorem branchesEdge_follows {z : State} {T : List Field} {s : State} {b : Nat} (hT : [.out, .host, .events, .counters, .fabric] ⊆ T) (hz : z.follows T s) :
    z.follows T (branchesEdge s b) := by
  unfold branchesEdge
  repeat' first
    | with_reducible exact List.Subset.trans (by decide) hT
    | intro _
    | with_reducible (first | assumption | apply branchEdge_follows | apply pruneBundles_follows
                            | apply foldl_follows | apply ite_follows)
    | dsimp only | split

theorem packageEdge_follows {z : State} {T : List Field} {pkgMw : Nat} {s : State} (hT : [.power] ⊆ T) (hz : z.follows T s) :
    z.follows T (packageEdge pkgMw s) := by
  unfold packageEdge
  repeat' first
    | with_reducible exact List.Subset.trans (by decide) hT
    | intro _
    | with_reducible (first | assumption | apply modPower_follows | apply ite_follows)
    | dsimp only | split

theorem unitsEdge_follows {z : State} {T : List Field} {s : State} (hT : Field.but [.free, .time, .facetRam, .board] ⊆ T) (hz : z.follows T s) :
    z.follows T (unitsEdge s) := by
  unfold unitsEdge
  repeat' first
    | with_reducible exact List.Subset.trans (by decide) hT
    | intro _
    | with_reducible (first | assumption | apply intervalActions_follows | apply releases_follows
                            | apply settingEdge_follows | apply shedEdge_follows | apply ite_follows)
    | dsimp only | split

theorem collsEdge_follows {z : State} {T : List Field} {s : State} {b : Nat} (hT : [.out, .free, .host, .queues, .events, .counters, .loader, .flash, .colls, .pools, .streams, .learn] ⊆ T) (hz : z.follows T s) :
    z.follows T (collsEdge s b) := by
  unfold collsEdge
  repeat' first
    | with_reducible exact List.Subset.trans (by decide) hT
    | intro _
    | with_reducible (first | assumption | apply collEdge_follows | apply detachedEdge_follows
                            | apply foldedShares_follows | apply freeAll_follows | apply mapColls_follows
                            | apply partialEdge_follows | apply foldl_follows | apply ite_follows)
    | dsimp only | split

theorem launchEdge_follows {z : State} {T : List Field} {s : State} {b : Nat} {ord : List Nat} (hT : Field.but [.time, .locket, .facetRam, .board] ⊆ T) (hz : z.follows T s) :
    z.follows T (launchEdge s b ord) := by
  unfold launchEdge
  repeat' first
    | with_reducible exact List.Subset.trans (by decide) hT
    | intro _
    | with_reducible (first | assumption | apply modPools_follows | apply issueAll_follows
                            | apply launchQueries_follows | apply mapColls_follows | apply refreshViews_follows
                            | apply rerankFetched_follows | apply scoreHeld_follows | apply foldl_follows
                            | apply ite_follows)
    | dsimp only | split

theorem beadEdge_follows {z : State} {T : List Field} {pkgMw : Nat} {ord : List Nat} {s : State} (hT : Field.but [.facetRam, .board] ⊆ T) (hz : z.follows T s) :
    z.follows T (beadEdge pkgMw ord s) := by
  unfold beadEdge
  repeat' first
    | with_reducible exact List.Subset.trans (by decide) hT
    | intro _
    | with_reducible (first | assumption | apply actEarly_follows | apply admissionGap_follows
                            | apply applyDue_follows | apply branchesEdge_follows | apply collsEdge_follows
                            | apply launchEdge_follows | apply learnEdge_follows | apply newBead_follows
                            | apply packageEdge_follows | apply repliesDue_follows | apply unitsEdge_follows
                            | apply ite_follows)
    | dsimp only | split

theorem execBeadEdge_follows {z fin : State} {T : List Field} {pkgMw : Nat} {ord : List Nat} {s : State} (hT : Field.but [.facetRam, .board] ⊆ T) (e : execBeadEdge pkgMw ord s = .next fin) (hz : z.follows T s) :
    z.follows T fin := by
  unfold execBeadEdge at e
  injection e with e
  subst e
  repeat' first
    | with_reducible exact List.Subset.trans (by decide) hT
    | intro _
    | with_reducible (first | assumption | apply beadEdge_follows | apply ite_follows)
    | dsimp only | split

end Sys2Proof.Machine
end

