-- ==== Sys2Proof/Laws/Frames.lean ====
section
/-! SUPPORT. The fields that the most used operations leave as they are, one lemma per operation and field. -/

namespace Sys2Proof.Machine

@[simp] theorem bumpQuiet_frame (s : State) (a n : Nat) :
    (bumpQuiet s a n).2.out = s.out ∧ (bumpQuiet s a n).2.free = s.free ∧ (bumpQuiet s a n).2.time = s.time ∧
      (bumpQuiet s a n).2.power = s.power ∧ (bumpQuiet s a n).2.cores = s.cores ∧
      (bumpQuiet s a n).2.locket = s.locket ∧ (bumpQuiet s a n).2.host = s.host ∧
      (bumpQuiet s a n).2.queues = s.queues ∧ (bumpQuiet s a n).2.events = s.events ∧
      (bumpQuiet s a n).2.loader = s.loader ∧ (bumpQuiet s a n).2.facets = s.facets ∧
      (bumpQuiet s a n).2.facetRam = s.facetRam ∧ (bumpQuiet s a n).2.collectors = s.collectors ∧
      (bumpQuiet s a n).2.near = s.near ∧ (bumpQuiet s a n).2.hbm = s.hbm ∧ (bumpQuiet s a n).2.flash = s.flash ∧
      (bumpQuiet s a n).2.colls = s.colls ∧ (bumpQuiet s a n).2.pools = s.pools ∧
      (bumpQuiet s a n).2.streams = s.streams ∧ (bumpQuiet s a n).2.search = s.search ∧
      (bumpQuiet s a n).2.fabric = s.fabric ∧ (bumpQuiet s a n).2.learn = s.learn ∧
      (bumpQuiet s a n).2.board = s.board := by
  have g : s.follows ([.counters]) (bumpQuiet s a n).2 :=
    bumpQuiet_follows (List.Subset.refl _) (State.follows_refl _ s)
  have h := g.frame
  refine ⟨h .out ?_, h .free ?_, h .time ?_, h .power ?_, h .cores ?_, h .locket ?_, h .host ?_, h .queues ?_,
    h .events ?_, h .loader ?_, h .facets ?_, h .facetRam ?_, h .collectors ?_, h .near ?_, h .hbm ?_, h .flash ?_,
    h .colls ?_, h .pools ?_, h .streams ?_, h .search ?_, h .fabric ?_, h .learn ?_, h .board ?_⟩ <;> decide

@[simp] theorem raiseEvent_frame (s : State) (code : BitVec 16) (args : List Byte) :
    (raiseEvent s code args).free = s.free ∧ (raiseEvent s code args).time = s.time ∧
      (raiseEvent s code args).power = s.power ∧ (raiseEvent s code args).cores = s.cores ∧
      (raiseEvent s code args).locket = s.locket ∧ (raiseEvent s code args).queues = s.queues ∧
      (raiseEvent s code args).loader = s.loader ∧ (raiseEvent s code args).facets = s.facets ∧
      (raiseEvent s code args).facetRam = s.facetRam ∧ (raiseEvent s code args).collectors = s.collectors ∧
      (raiseEvent s code args).near = s.near ∧ (raiseEvent s code args).hbm = s.hbm ∧
      (raiseEvent s code args).flash = s.flash ∧ (raiseEvent s code args).colls = s.colls ∧
      (raiseEvent s code args).pools = s.pools ∧ (raiseEvent s code args).streams = s.streams ∧
      (raiseEvent s code args).search = s.search ∧ (raiseEvent s code args).fabric = s.fabric ∧
      (raiseEvent s code args).learn = s.learn ∧ (raiseEvent s code args).board = s.board := by
  have g : s.follows ([.out, .host, .events, .counters]) (raiseEvent s code args) :=
    raiseEvent_follows (List.Subset.refl _) (State.follows_refl _ s)
  have h := g.frame
  refine ⟨h .free ?_, h .time ?_, h .power ?_, h .cores ?_, h .locket ?_, h .queues ?_, h .loader ?_, h .facets ?_,
    h .facetRam ?_, h .collectors ?_, h .near ?_, h .hbm ?_, h .flash ?_, h .colls ?_, h .pools ?_, h .streams ?_,
    h .search ?_, h .fabric ?_, h .learn ?_, h .board ?_⟩ <;> decide

@[simp] theorem bumpN_frame (s : State) (a n : Nat) :
    (bumpN s a n).free = s.free ∧ (bumpN s a n).time = s.time ∧ (bumpN s a n).power = s.power ∧
      (bumpN s a n).cores = s.cores ∧ (bumpN s a n).locket = s.locket ∧ (bumpN s a n).queues = s.queues ∧
      (bumpN s a n).loader = s.loader ∧ (bumpN s a n).facets = s.facets ∧ (bumpN s a n).facetRam = s.facetRam ∧
      (bumpN s a n).collectors = s.collectors ∧ (bumpN s a n).near = s.near ∧ (bumpN s a n).hbm = s.hbm ∧
      (bumpN s a n).flash = s.flash ∧ (bumpN s a n).colls = s.colls ∧ (bumpN s a n).pools = s.pools ∧
      (bumpN s a n).streams = s.streams ∧ (bumpN s a n).search = s.search ∧ (bumpN s a n).fabric = s.fabric ∧
      (bumpN s a n).learn = s.learn ∧ (bumpN s a n).board = s.board := by
  have g : s.follows ([.out, .host, .events, .counters]) (bumpN s a n) :=
    bumpN_follows (List.Subset.refl _) (State.follows_refl _ s)
  have h := g.frame
  refine ⟨h .free ?_, h .time ?_, h .power ?_, h .cores ?_, h .locket ?_, h .queues ?_, h .loader ?_, h .facets ?_,
    h .facetRam ?_, h .collectors ?_, h .near ?_, h .hbm ?_, h .flash ?_, h .colls ?_, h .pools ?_, h .streams ?_,
    h .search ?_, h .fabric ?_, h .learn ?_, h .board ?_⟩ <;> decide

@[simp] theorem bump_frame (s : State) (a : Nat) :
    (bump s a).free = s.free ∧ (bump s a).time = s.time ∧ (bump s a).power = s.power ∧ (bump s a).cores = s.cores ∧
      (bump s a).locket = s.locket ∧ (bump s a).queues = s.queues ∧ (bump s a).loader = s.loader ∧
      (bump s a).facets = s.facets ∧ (bump s a).facetRam = s.facetRam ∧ (bump s a).collectors = s.collectors ∧
      (bump s a).near = s.near ∧ (bump s a).hbm = s.hbm ∧ (bump s a).flash = s.flash ∧ (bump s a).colls = s.colls ∧
      (bump s a).pools = s.pools ∧ (bump s a).streams = s.streams ∧ (bump s a).search = s.search ∧
      (bump s a).fabric = s.fabric ∧ (bump s a).learn = s.learn ∧ (bump s a).board = s.board := by
  have g : s.follows ([.out, .host, .events, .counters]) (bump s a) :=
    bump_follows (List.Subset.refl _) (State.follows_refl _ s)
  have h := g.frame
  refine ⟨h .free ?_, h .time ?_, h .power ?_, h .cores ?_, h .locket ?_, h .queues ?_, h .loader ?_, h .facets ?_,
    h .facetRam ?_, h .collectors ?_, h .near ?_, h .hbm ?_, h .flash ?_, h .colls ?_, h .pools ?_, h .streams ?_,
    h .search ?_, h .fabric ?_, h .learn ?_, h .board ?_⟩ <;> decide

@[simp] theorem updCmd_frame (s : State) (q t : Nat) (f : Cmd → Cmd) :
    (updCmd s q t f).out = s.out ∧ (updCmd s q t f).free = s.free ∧ (updCmd s q t f).time = s.time ∧
      (updCmd s q t f).power = s.power ∧ (updCmd s q t f).cores = s.cores ∧ (updCmd s q t f).locket = s.locket ∧
      (updCmd s q t f).host = s.host ∧ (updCmd s q t f).events = s.events ∧ (updCmd s q t f).counters = s.counters ∧
      (updCmd s q t f).loader = s.loader ∧ (updCmd s q t f).facets = s.facets ∧
      (updCmd s q t f).facetRam = s.facetRam ∧ (updCmd s q t f).collectors = s.collectors ∧
      (updCmd s q t f).near = s.near ∧ (updCmd s q t f).hbm = s.hbm ∧ (updCmd s q t f).flash = s.flash ∧
      (updCmd s q t f).colls = s.colls ∧ (updCmd s q t f).pools = s.pools ∧ (updCmd s q t f).streams = s.streams ∧
      (updCmd s q t f).search = s.search ∧ (updCmd s q t f).fabric = s.fabric ∧ (updCmd s q t f).learn = s.learn ∧
      (updCmd s q t f).board = s.board := by
  have g : s.follows ([.queues]) (updCmd s q t f) :=
    updCmd_follows (List.Subset.refl _) (State.follows_refl _ s)
  have h := g.frame
  refine ⟨h .out ?_, h .free ?_, h .time ?_, h .power ?_, h .cores ?_, h .locket ?_, h .host ?_, h .events ?_,
    h .counters ?_, h .loader ?_, h .facets ?_, h .facetRam ?_, h .collectors ?_, h .near ?_, h .hbm ?_, h .flash ?_,
    h .colls ?_, h .pools ?_, h .streams ?_, h .search ?_, h .fabric ?_, h .learn ?_, h .board ?_⟩ <;> decide

@[simp] theorem transmit_frame (s : State) (r : CmdRef) (st : BitVec 16) (area : BitVec 320) (body : List Byte) :
    (transmit s r st area body).free = s.free ∧ (transmit s r st area body).time = s.time ∧
      (transmit s r st area body).power = s.power ∧ (transmit s r st area body).cores = s.cores ∧
      (transmit s r st area body).locket = s.locket ∧ (transmit s r st area body).queues = s.queues ∧
      (transmit s r st area body).loader = s.loader ∧ (transmit s r st area body).facets = s.facets ∧
      (transmit s r st area body).facetRam = s.facetRam ∧ (transmit s r st area body).collectors = s.collectors ∧
      (transmit s r st area body).near = s.near ∧ (transmit s r st area body).hbm = s.hbm ∧
      (transmit s r st area body).flash = s.flash ∧ (transmit s r st area body).colls = s.colls ∧
      (transmit s r st area body).pools = s.pools ∧ (transmit s r st area body).streams = s.streams ∧
      (transmit s r st area body).search = s.search ∧ (transmit s r st area body).fabric = s.fabric ∧
      (transmit s r st area body).learn = s.learn ∧ (transmit s r st area body).board = s.board := by
  have g : s.follows ([.out, .host, .events, .counters]) (transmit s r st area body) :=
    transmit_follows (List.Subset.refl _) (State.follows_refl _ s)
  have h := g.frame
  refine ⟨h .free ?_, h .time ?_, h .power ?_, h .cores ?_, h .locket ?_, h .queues ?_, h .loader ?_, h .facets ?_,
    h .facetRam ?_, h .collectors ?_, h .near ?_, h .hbm ?_, h .flash ?_, h .colls ?_, h .pools ?_, h .streams ?_,
    h .search ?_, h .fabric ?_, h .learn ?_, h .board ?_⟩ <;> decide

@[simp] theorem freeTag_frame (s : State) (q t : Nat) :
    (freeTag s q t).out = s.out ∧ (freeTag s q t).free = s.free ∧ (freeTag s q t).time = s.time ∧
      (freeTag s q t).power = s.power ∧ (freeTag s q t).cores = s.cores ∧ (freeTag s q t).locket = s.locket ∧
      (freeTag s q t).host = s.host ∧ (freeTag s q t).events = s.events ∧ (freeTag s q t).counters = s.counters ∧
      (freeTag s q t).loader = s.loader ∧ (freeTag s q t).facets = s.facets ∧ (freeTag s q t).facetRam = s.facetRam ∧
      (freeTag s q t).collectors = s.collectors ∧ (freeTag s q t).near = s.near ∧ (freeTag s q t).hbm = s.hbm ∧
      (freeTag s q t).flash = s.flash ∧ (freeTag s q t).colls = s.colls ∧ (freeTag s q t).pools = s.pools ∧
      (freeTag s q t).streams = s.streams ∧ (freeTag s q t).search = s.search ∧ (freeTag s q t).fabric = s.fabric ∧
      (freeTag s q t).learn = s.learn ∧ (freeTag s q t).board = s.board := by
  have g : s.follows ([.queues]) (freeTag s q t) :=
    freeTag_follows (List.Subset.refl _) (State.follows_refl _ s)
  have h := g.frame
  refine ⟨h .out ?_, h .free ?_, h .time ?_, h .power ?_, h .cores ?_, h .locket ?_, h .host ?_, h .events ?_,
    h .counters ?_, h .loader ?_, h .facets ?_, h .facetRam ?_, h .collectors ?_, h .near ?_, h .hbm ?_, h .flash ?_,
    h .colls ?_, h .pools ?_, h .streams ?_, h .search ?_, h .fabric ?_, h .learn ?_, h .board ?_⟩ <;> decide

@[simp] theorem closeOne_frame (s : State) (conn : Nat) :
    (closeOne s conn).out = s.out ∧ (closeOne s conn).free = s.free ∧ (closeOne s conn).time = s.time ∧
      (closeOne s conn).power = s.power ∧ (closeOne s conn).cores = s.cores ∧ (closeOne s conn).locket = s.locket ∧
      (closeOne s conn).queues = s.queues ∧ (closeOne s conn).events = s.events ∧
      (closeOne s conn).counters = s.counters ∧ (closeOne s conn).loader = s.loader ∧
      (closeOne s conn).facets = s.facets ∧ (closeOne s conn).facetRam = s.facetRam ∧
      (closeOne s conn).collectors = s.collectors ∧ (closeOne s conn).near = s.near ∧ (closeOne s conn).hbm = s.hbm ∧
      (closeOne s conn).flash = s.flash ∧ (closeOne s conn).colls = s.colls ∧ (closeOne s conn).pools = s.pools ∧
      (closeOne s conn).streams = s.streams ∧ (closeOne s conn).search = s.search ∧
      (closeOne s conn).fabric = s.fabric ∧ (closeOne s conn).learn = s.learn ∧
      (closeOne s conn).board = s.board := by
  have g : s.follows ([.host]) (closeOne s conn) :=
    closeOne_follows (List.Subset.refl _) (State.follows_refl _ s)
  have h := g.frame
  refine ⟨h .out ?_, h .free ?_, h .time ?_, h .power ?_, h .cores ?_, h .locket ?_, h .queues ?_, h .events ?_,
    h .counters ?_, h .loader ?_, h .facets ?_, h .facetRam ?_, h .collectors ?_, h .near ?_, h .hbm ?_, h .flash ?_,
    h .colls ?_, h .pools ?_, h .streams ?_, h .search ?_, h .fabric ?_, h .learn ?_, h .board ?_⟩ <;> decide

@[simp] theorem answer_frame (s : State) (q t : Nat) (st : BitVec 16) (area : BitVec 320) (body : List Byte) :
    (answer s q t st area body).free = s.free ∧ (answer s q t st area body).time = s.time ∧
      (answer s q t st area body).power = s.power ∧ (answer s q t st area body).cores = s.cores ∧
      (answer s q t st area body).locket = s.locket ∧ (answer s q t st area body).loader = s.loader ∧
      (answer s q t st area body).facets = s.facets ∧ (answer s q t st area body).facetRam = s.facetRam ∧
      (answer s q t st area body).collectors = s.collectors ∧ (answer s q t st area body).near = s.near ∧
      (answer s q t st area body).hbm = s.hbm ∧ (answer s q t st area body).colls = s.colls ∧
      (answer s q t st area body).streams = s.streams ∧ (answer s q t st area body).search = s.search ∧
      (answer s q t st area body).fabric = s.fabric ∧ (answer s q t st area body).learn = s.learn ∧
      (answer s q t st area body).board = s.board := by
  have g : s.follows ([.out, .host, .queues, .events, .counters, .flash, .pools]) (answer s q t st area body) :=
    answer_follows (List.Subset.refl _) (State.follows_refl _ s)
  have h := g.frame
  refine ⟨h .free ?_, h .time ?_, h .power ?_, h .cores ?_, h .locket ?_, h .loader ?_, h .facets ?_, h .facetRam ?_,
    h .collectors ?_, h .near ?_, h .hbm ?_, h .colls ?_, h .streams ?_, h .search ?_, h .fabric ?_, h .learn ?_,
    h .board ?_⟩ <;> decide

@[simp] theorem ok_frame (s : State) (q t : Nat) (area : BitVec 320) :
    (ok s q t area).free = s.free ∧ (ok s q t area).time = s.time ∧ (ok s q t area).power = s.power ∧
      (ok s q t area).cores = s.cores ∧ (ok s q t area).locket = s.locket ∧ (ok s q t area).loader = s.loader ∧
      (ok s q t area).facets = s.facets ∧ (ok s q t area).facetRam = s.facetRam ∧
      (ok s q t area).collectors = s.collectors ∧ (ok s q t area).near = s.near ∧ (ok s q t area).hbm = s.hbm ∧
      (ok s q t area).colls = s.colls ∧ (ok s q t area).streams = s.streams ∧ (ok s q t area).search = s.search ∧
      (ok s q t area).fabric = s.fabric ∧ (ok s q t area).learn = s.learn ∧ (ok s q t area).board = s.board := by
  have g : s.follows ([.out, .host, .queues, .events, .counters, .flash, .pools]) (ok s q t area) :=
    ok_follows (List.Subset.refl _) (State.follows_refl _ s)
  have h := g.frame
  refine ⟨h .free ?_, h .time ?_, h .power ?_, h .cores ?_, h .locket ?_, h .loader ?_, h .facets ?_, h .facetRam ?_,
    h .collectors ?_, h .near ?_, h .hbm ?_, h .colls ?_, h .streams ?_, h .search ?_, h .fabric ?_, h .learn ?_,
    h .board ?_⟩ <;> decide

@[simp] theorem refuse_frame (s : State) (q t : Nat) (st : BitVec 16) :
    (refuse s q t st).free = s.free ∧ (refuse s q t st).time = s.time ∧ (refuse s q t st).power = s.power ∧
      (refuse s q t st).cores = s.cores ∧ (refuse s q t st).locket = s.locket ∧ (refuse s q t st).loader = s.loader ∧
      (refuse s q t st).facets = s.facets ∧ (refuse s q t st).facetRam = s.facetRam ∧
      (refuse s q t st).collectors = s.collectors ∧ (refuse s q t st).near = s.near ∧ (refuse s q t st).hbm = s.hbm ∧
      (refuse s q t st).colls = s.colls ∧ (refuse s q t st).streams = s.streams ∧
      (refuse s q t st).search = s.search ∧ (refuse s q t st).fabric = s.fabric ∧ (refuse s q t st).learn = s.learn ∧
      (refuse s q t st).board = s.board := by
  have g : s.follows ([.out, .host, .queues, .events, .counters, .flash, .pools]) (refuse s q t st) :=
    refuse_follows (List.Subset.refl _) (State.follows_refl _ s)
  have h := g.frame
  refine ⟨h .free ?_, h .time ?_, h .power ?_, h .cores ?_, h .locket ?_, h .loader ?_, h .facets ?_, h .facetRam ?_,
    h .collectors ?_, h .near ?_, h .hbm ?_, h .colls ?_, h .streams ?_, h .search ?_, h .fabric ?_, h .learn ?_,
    h .board ?_⟩ <;> decide

@[simp] theorem extendMeas_frame (s : State) (i : Nat) (d : BitVec 256) :
    (extendMeas s i d).out = s.out ∧ (extendMeas s i d).free = s.free ∧ (extendMeas s i d).time = s.time ∧
      (extendMeas s i d).power = s.power ∧ (extendMeas s i d).cores = s.cores ∧ (extendMeas s i d).host = s.host ∧
      (extendMeas s i d).queues = s.queues ∧ (extendMeas s i d).events = s.events ∧
      (extendMeas s i d).counters = s.counters ∧ (extendMeas s i d).loader = s.loader ∧
      (extendMeas s i d).facets = s.facets ∧ (extendMeas s i d).facetRam = s.facetRam ∧
      (extendMeas s i d).collectors = s.collectors ∧ (extendMeas s i d).near = s.near ∧
      (extendMeas s i d).hbm = s.hbm ∧ (extendMeas s i d).flash = s.flash ∧ (extendMeas s i d).colls = s.colls ∧
      (extendMeas s i d).pools = s.pools ∧ (extendMeas s i d).streams = s.streams ∧
      (extendMeas s i d).search = s.search ∧ (extendMeas s i d).fabric = s.fabric ∧
      (extendMeas s i d).learn = s.learn ∧ (extendMeas s i d).board = s.board := by
  have g : s.follows ([.locket]) (extendMeas s i d) :=
    extendMeas_follows (List.Subset.refl _) (State.follows_refl _ s)
  have h := g.frame
  refine ⟨h .out ?_, h .free ?_, h .time ?_, h .power ?_, h .cores ?_, h .host ?_, h .queues ?_, h .events ?_,
    h .counters ?_, h .loader ?_, h .facets ?_, h .facetRam ?_, h .collectors ?_, h .near ?_, h .hbm ?_, h .flash ?_,
    h .colls ?_, h .pools ?_, h .streams ?_, h .search ?_, h .fabric ?_, h .learn ?_, h .board ?_⟩ <;> decide

@[simp] theorem updFacet_frame (s : State) (f : Nat) (g : Facet → Facet) :
    (updFacet s f g).out = s.out ∧ (updFacet s f g).free = s.free ∧ (updFacet s f g).time = s.time ∧
      (updFacet s f g).power = s.power ∧ (updFacet s f g).cores = s.cores ∧ (updFacet s f g).locket = s.locket ∧
      (updFacet s f g).host = s.host ∧ (updFacet s f g).queues = s.queues ∧ (updFacet s f g).events = s.events ∧
      (updFacet s f g).counters = s.counters ∧ (updFacet s f g).loader = s.loader ∧
      (updFacet s f g).facetRam = s.facetRam ∧ (updFacet s f g).collectors = s.collectors ∧
      (updFacet s f g).near = s.near ∧ (updFacet s f g).hbm = s.hbm ∧ (updFacet s f g).flash = s.flash ∧
      (updFacet s f g).colls = s.colls ∧ (updFacet s f g).pools = s.pools ∧ (updFacet s f g).streams = s.streams ∧
      (updFacet s f g).search = s.search ∧ (updFacet s f g).fabric = s.fabric ∧ (updFacet s f g).learn = s.learn ∧
      (updFacet s f g).board = s.board := by
  have g : s.follows ([.facets]) (updFacet s f g) :=
    updFacet_follows (List.Subset.refl _) (State.follows_refl _ s)
  have h := g.frame
  refine ⟨h .out ?_, h .free ?_, h .time ?_, h .power ?_, h .cores ?_, h .locket ?_, h .host ?_, h .queues ?_,
    h .events ?_, h .counters ?_, h .loader ?_, h .facetRam ?_, h .collectors ?_, h .near ?_, h .hbm ?_, h .flash ?_,
    h .colls ?_, h .pools ?_, h .streams ?_, h .search ?_, h .fabric ?_, h .learn ?_, h .board ?_⟩ <;> decide

@[simp] theorem settleRings_frame (s : State) :
    (settleRings s).out = s.out ∧ (settleRings s).free = s.free ∧ (settleRings s).time = s.time ∧
      (settleRings s).power = s.power ∧ (settleRings s).cores = s.cores ∧ (settleRings s).locket = s.locket ∧
      (settleRings s).host = s.host ∧ (settleRings s).queues = s.queues ∧ (settleRings s).events = s.events ∧
      (settleRings s).counters = s.counters ∧ (settleRings s).loader = s.loader ∧ (settleRings s).facets = s.facets ∧
      (settleRings s).facetRam = s.facetRam ∧ (settleRings s).collectors = s.collectors ∧
      (settleRings s).near = s.near ∧ (settleRings s).hbm = s.hbm ∧ (settleRings s).flash = s.flash ∧
      (settleRings s).colls = s.colls ∧ (settleRings s).pools = s.pools ∧ (settleRings s).search = s.search ∧
      (settleRings s).fabric = s.fabric ∧ (settleRings s).learn = s.learn ∧ (settleRings s).board = s.board := by
  have g : s.follows ([.streams]) (settleRings s) :=
    settleRings_follows (List.Subset.refl _) (State.follows_refl _ s)
  have h := g.frame
  refine ⟨h .out ?_, h .free ?_, h .time ?_, h .power ?_, h .cores ?_, h .locket ?_, h .host ?_, h .queues ?_,
    h .events ?_, h .counters ?_, h .loader ?_, h .facets ?_, h .facetRam ?_, h .collectors ?_, h .near ?_, h .hbm ?_,
    h .flash ?_, h .colls ?_, h .pools ?_, h .search ?_, h .fabric ?_, h .learn ?_, h .board ?_⟩ <;> decide

@[simp] theorem stopStreams_frame (s : State) (p : Stream → Bool) :
    (stopStreams s p).free = s.free ∧ (stopStreams s p).time = s.time ∧ (stopStreams s p).power = s.power ∧
      (stopStreams s p).cores = s.cores ∧ (stopStreams s p).locket = s.locket ∧ (stopStreams s p).queues = s.queues ∧
      (stopStreams s p).loader = s.loader ∧ (stopStreams s p).facets = s.facets ∧
      (stopStreams s p).facetRam = s.facetRam ∧ (stopStreams s p).collectors = s.collectors ∧
      (stopStreams s p).near = s.near ∧ (stopStreams s p).hbm = s.hbm ∧ (stopStreams s p).flash = s.flash ∧
      (stopStreams s p).colls = s.colls ∧ (stopStreams s p).pools = s.pools ∧ (stopStreams s p).search = s.search ∧
      (stopStreams s p).fabric = s.fabric ∧ (stopStreams s p).learn = s.learn ∧
      (stopStreams s p).board = s.board := by
  have g : s.follows ([.out, .host, .events, .counters, .streams]) (stopStreams s p) :=
    stopStreams_follows (List.Subset.refl _) (State.follows_refl _ s)
  have h := g.frame
  refine ⟨h .free ?_, h .time ?_, h .power ?_, h .cores ?_, h .locket ?_, h .queues ?_, h .loader ?_, h .facets ?_,
    h .facetRam ?_, h .collectors ?_, h .near ?_, h .hbm ?_, h .flash ?_, h .colls ?_, h .pools ?_, h .search ?_,
    h .fabric ?_, h .learn ?_, h .board ?_⟩ <;> decide

@[simp] theorem cancelTasks_frame (s : State) (p : Task → Bool) :
    (cancelTasks s p).free = s.free ∧ (cancelTasks s p).time = s.time ∧ (cancelTasks s p).power = s.power ∧
      (cancelTasks s p).cores = s.cores ∧ (cancelTasks s p).locket = s.locket ∧ (cancelTasks s p).queues = s.queues ∧
      (cancelTasks s p).loader = s.loader ∧ (cancelTasks s p).facets = s.facets ∧
      (cancelTasks s p).facetRam = s.facetRam ∧ (cancelTasks s p).collectors = s.collectors ∧
      (cancelTasks s p).near = s.near ∧ (cancelTasks s p).hbm = s.hbm ∧ (cancelTasks s p).flash = s.flash ∧
      (cancelTasks s p).colls = s.colls ∧ (cancelTasks s p).pools = s.pools ∧ (cancelTasks s p).search = s.search ∧
      (cancelTasks s p).fabric = s.fabric ∧ (cancelTasks s p).learn = s.learn ∧
      (cancelTasks s p).board = s.board := by
  have g : s.follows ([.out, .host, .events, .counters, .streams]) (cancelTasks s p) :=
    cancelTasks_follows (List.Subset.refl _) (State.follows_refl _ s)
  have h := g.frame
  refine ⟨h .free ?_, h .time ?_, h .power ?_, h .cores ?_, h .locket ?_, h .queues ?_, h .loader ?_, h .facets ?_,
    h .facetRam ?_, h .collectors ?_, h .near ?_, h .hbm ?_, h .flash ?_, h .colls ?_, h .pools ?_, h .search ?_,
    h .fabric ?_, h .learn ?_, h .board ?_⟩ <;> decide

@[simp] theorem ownerAborted_frame (cause : Nat) (s : State) (t : Task) :
    (ownerAborted cause s t).free = s.free ∧ (ownerAborted cause s t).time = s.time ∧
      (ownerAborted cause s t).power = s.power ∧ (ownerAborted cause s t).cores = s.cores ∧
      (ownerAborted cause s t).locket = s.locket ∧ (ownerAborted cause s t).loader = s.loader ∧
      (ownerAborted cause s t).facets = s.facets ∧ (ownerAborted cause s t).facetRam = s.facetRam ∧
      (ownerAborted cause s t).collectors = s.collectors ∧ (ownerAborted cause s t).near = s.near ∧
      (ownerAborted cause s t).hbm = s.hbm ∧ (ownerAborted cause s t).streams = s.streams ∧
      (ownerAborted cause s t).fabric = s.fabric ∧ (ownerAborted cause s t).board = s.board := by
  have g : s.follows ([.out, .host, .queues, .events, .counters, .flash, .colls, .pools, .search, .learn]) (ownerAborted cause s t) :=
    ownerAborted_follows (List.Subset.refl _) (State.follows_refl _ s)
  have h := g.frame
  refine ⟨h .free ?_, h .time ?_, h .power ?_, h .cores ?_, h .locket ?_, h .loader ?_, h .facets ?_, h .facetRam ?_,
    h .collectors ?_, h .near ?_, h .hbm ?_, h .streams ?_, h .fabric ?_, h .board ?_⟩ <;> decide

@[simp] theorem abortTask_frame (s : State) (tid : Nat) :
    (abortTask s tid).free = s.free ∧ (abortTask s tid).time = s.time ∧ (abortTask s tid).power = s.power ∧
      (abortTask s tid).cores = s.cores ∧ (abortTask s tid).locket = s.locket ∧ (abortTask s tid).loader = s.loader ∧
      (abortTask s tid).facets = s.facets ∧ (abortTask s tid).facetRam = s.facetRam ∧
      (abortTask s tid).collectors = s.collectors ∧ (abortTask s tid).near = s.near ∧ (abortTask s tid).hbm = s.hbm ∧
      (abortTask s tid).fabric = s.fabric ∧ (abortTask s tid).board = s.board := by
  have g : s.follows ([.out, .host, .queues, .events, .counters, .flash, .colls, .pools, .streams, .search, .learn]) (abortTask s tid) :=
    abortTask_follows (List.Subset.refl _) (State.follows_refl _ s)
  have h := g.frame
  refine ⟨h .free ?_, h .time ?_, h .power ?_, h .cores ?_, h .locket ?_, h .loader ?_, h .facets ?_, h .facetRam ?_,
    h .collectors ?_, h .near ?_, h .hbm ?_, h .fabric ?_, h .board ?_⟩ <;> decide

@[simp] theorem setChan_frame (s : State) (ch : Nat) (v : HbmChan) :
    (setChan s ch v).out = s.out ∧ (setChan s ch v).free = s.free ∧ (setChan s ch v).time = s.time ∧
      (setChan s ch v).power = s.power ∧ (setChan s ch v).cores = s.cores ∧ (setChan s ch v).locket = s.locket ∧
      (setChan s ch v).host = s.host ∧ (setChan s ch v).queues = s.queues ∧ (setChan s ch v).events = s.events ∧
      (setChan s ch v).counters = s.counters ∧ (setChan s ch v).loader = s.loader ∧
      (setChan s ch v).facets = s.facets ∧ (setChan s ch v).facetRam = s.facetRam ∧
      (setChan s ch v).collectors = s.collectors ∧ (setChan s ch v).near = s.near ∧ (setChan s ch v).flash = s.flash ∧
      (setChan s ch v).colls = s.colls ∧ (setChan s ch v).pools = s.pools ∧ (setChan s ch v).streams = s.streams ∧
      (setChan s ch v).search = s.search ∧ (setChan s ch v).fabric = s.fabric ∧ (setChan s ch v).learn = s.learn ∧
      (setChan s ch v).board = s.board := by
  have g : s.follows ([.hbm]) (setChan s ch v) :=
    setChan_follows (List.Subset.refl _) (State.follows_refl _ s)
  have h := g.frame
  refine ⟨h .out ?_, h .free ?_, h .time ?_, h .power ?_, h .cores ?_, h .locket ?_, h .host ?_, h .queues ?_,
    h .events ?_, h .counters ?_, h .loader ?_, h .facets ?_, h .facetRam ?_, h .collectors ?_, h .near ?_,
    h .flash ?_, h .colls ?_, h .pools ?_, h .streams ?_, h .search ?_, h .fabric ?_, h .learn ?_,
    h .board ?_⟩ <;> decide

@[simp] theorem updChan_frame (s : State) (ch : Nat) (f : HbmChan → HbmChan) :
    (updChan s ch f).out = s.out ∧ (updChan s ch f).free = s.free ∧ (updChan s ch f).time = s.time ∧
      (updChan s ch f).power = s.power ∧ (updChan s ch f).cores = s.cores ∧ (updChan s ch f).locket = s.locket ∧
      (updChan s ch f).host = s.host ∧ (updChan s ch f).queues = s.queues ∧ (updChan s ch f).events = s.events ∧
      (updChan s ch f).counters = s.counters ∧ (updChan s ch f).loader = s.loader ∧
      (updChan s ch f).facets = s.facets ∧ (updChan s ch f).facetRam = s.facetRam ∧
      (updChan s ch f).collectors = s.collectors ∧ (updChan s ch f).near = s.near ∧ (updChan s ch f).flash = s.flash ∧
      (updChan s ch f).colls = s.colls ∧ (updChan s ch f).pools = s.pools ∧ (updChan s ch f).streams = s.streams ∧
      (updChan s ch f).search = s.search ∧ (updChan s ch f).fabric = s.fabric ∧ (updChan s ch f).learn = s.learn ∧
      (updChan s ch f).board = s.board := by
  have g : s.follows ([.hbm]) (updChan s ch f) :=
    updChan_follows (List.Subset.refl _) (State.follows_refl _ s)
  have h := g.frame
  refine ⟨h .out ?_, h .free ?_, h .time ?_, h .power ?_, h .cores ?_, h .locket ?_, h .host ?_, h .queues ?_,
    h .events ?_, h .counters ?_, h .loader ?_, h .facets ?_, h .facetRam ?_, h .collectors ?_, h .near ?_,
    h .flash ?_, h .colls ?_, h .pools ?_, h .streams ?_, h .search ?_, h .fabric ?_, h .learn ?_,
    h .board ?_⟩ <;> decide

@[simp] theorem discardReads_frame (s : State) (chs : List Nat) (hot : Bool) :
    (discardReads s chs hot).free = s.free ∧ (discardReads s chs hot).time = s.time ∧
      (discardReads s chs hot).power = s.power ∧ (discardReads s chs hot).cores = s.cores ∧
      (discardReads s chs hot).locket = s.locket ∧ (discardReads s chs hot).loader = s.loader ∧
      (discardReads s chs hot).facets = s.facets ∧ (discardReads s chs hot).facetRam = s.facetRam ∧
      (discardReads s chs hot).collectors = s.collectors ∧ (discardReads s chs hot).near = s.near ∧
      (discardReads s chs hot).hbm = s.hbm ∧ (discardReads s chs hot).fabric = s.fabric ∧
      (discardReads s chs hot).board = s.board := by
  have g : s.follows ([.out, .host, .queues, .events, .counters, .flash, .colls, .pools, .streams, .search, .learn]) (discardReads s chs hot) :=
    discardReads_follows (List.Subset.refl _) (State.follows_refl _ s)
  have h := g.frame
  refine ⟨h .free ?_, h .time ?_, h .power ?_, h .cores ?_, h .locket ?_, h .loader ?_, h .facets ?_, h .facetRam ?_,
    h .collectors ?_, h .near ?_, h .hbm ?_, h .fabric ?_, h .board ?_⟩ <;> decide

@[simp] theorem dropChans_frame (s : State) (chs : List Nat) (hot : Bool) :
    (dropChans s chs hot).out = s.out ∧ (dropChans s chs hot).free = s.free ∧ (dropChans s chs hot).time = s.time ∧
      (dropChans s chs hot).power = s.power ∧ (dropChans s chs hot).cores = s.cores ∧
      (dropChans s chs hot).locket = s.locket ∧ (dropChans s chs hot).host = s.host ∧
      (dropChans s chs hot).queues = s.queues ∧ (dropChans s chs hot).events = s.events ∧
      (dropChans s chs hot).counters = s.counters ∧ (dropChans s chs hot).loader = s.loader ∧
      (dropChans s chs hot).facets = s.facets ∧ (dropChans s chs hot).facetRam = s.facetRam ∧
      (dropChans s chs hot).collectors = s.collectors ∧ (dropChans s chs hot).near = s.near ∧
      (dropChans s chs hot).hbm = s.hbm ∧ (dropChans s chs hot).flash = s.flash ∧
      (dropChans s chs hot).pools = s.pools ∧ (dropChans s chs hot).streams = s.streams ∧
      (dropChans s chs hot).search = s.search ∧ (dropChans s chs hot).fabric = s.fabric ∧
      (dropChans s chs hot).learn = s.learn ∧ (dropChans s chs hot).board = s.board := by
  have g : s.follows ([.colls]) (dropChans s chs hot) :=
    dropChans_follows (List.Subset.refl _) (State.follows_refl _ s)
  have h := g.frame
  refine ⟨h .out ?_, h .free ?_, h .time ?_, h .power ?_, h .cores ?_, h .locket ?_, h .host ?_, h .queues ?_,
    h .events ?_, h .counters ?_, h .loader ?_, h .facets ?_, h .facetRam ?_, h .collectors ?_, h .near ?_, h .hbm ?_,
    h .flash ?_, h .pools ?_, h .streams ?_, h .search ?_, h .fabric ?_, h .learn ?_, h .board ?_⟩ <;> decide

@[simp] theorem mapOutCore_frame (s : State) (chs : List Nat) (fault hot : Bool) :
    (mapOutCore s chs fault hot).free = s.free ∧ (mapOutCore s chs fault hot).time = s.time ∧
      (mapOutCore s chs fault hot).power = s.power ∧ (mapOutCore s chs fault hot).cores = s.cores ∧
      (mapOutCore s chs fault hot).locket = s.locket ∧ (mapOutCore s chs fault hot).loader = s.loader ∧
      (mapOutCore s chs fault hot).facets = s.facets ∧ (mapOutCore s chs fault hot).facetRam = s.facetRam ∧
      (mapOutCore s chs fault hot).collectors = s.collectors ∧ (mapOutCore s chs fault hot).near = s.near ∧
      (mapOutCore s chs fault hot).fabric = s.fabric ∧ (mapOutCore s chs fault hot).board = s.board := by
  have g : s.follows ([.out, .host, .queues, .events, .counters, .hbm, .flash, .colls, .pools, .streams, .search, .learn]) (mapOutCore s chs fault hot) :=
    mapOutCore_follows (List.Subset.refl _) (State.follows_refl _ s)
  have h := g.frame
  refine ⟨h .free ?_, h .time ?_, h .power ?_, h .cores ?_, h .locket ?_, h .loader ?_, h .facets ?_, h .facetRam ?_,
    h .collectors ?_, h .near ?_, h .fabric ?_, h .board ?_⟩ <;> decide

@[simp] theorem ackEvents_frame (s : State) (conn : Nat) (p : EventRec → Bool) :
    (ackEvents s conn p).out = s.out ∧ (ackEvents s conn p).free = s.free ∧ (ackEvents s conn p).time = s.time ∧
      (ackEvents s conn p).power = s.power ∧ (ackEvents s conn p).cores = s.cores ∧
      (ackEvents s conn p).locket = s.locket ∧ (ackEvents s conn p).host = s.host ∧
      (ackEvents s conn p).queues = s.queues ∧ (ackEvents s conn p).counters = s.counters ∧
      (ackEvents s conn p).loader = s.loader ∧ (ackEvents s conn p).facets = s.facets ∧
      (ackEvents s conn p).facetRam = s.facetRam ∧ (ackEvents s conn p).collectors = s.collectors ∧
      (ackEvents s conn p).near = s.near ∧ (ackEvents s conn p).hbm = s.hbm ∧ (ackEvents s conn p).flash = s.flash ∧
      (ackEvents s conn p).colls = s.colls ∧ (ackEvents s conn p).pools = s.pools ∧
      (ackEvents s conn p).streams = s.streams ∧ (ackEvents s conn p).search = s.search ∧
      (ackEvents s conn p).fabric = s.fabric ∧ (ackEvents s conn p).learn = s.learn ∧
      (ackEvents s conn p).board = s.board := by
  have g : s.follows ([.events]) (ackEvents s conn p) :=
    ackEvents_follows (List.Subset.refl _) (State.follows_refl _ s)
  have h := g.frame
  refine ⟨h .out ?_, h .free ?_, h .time ?_, h .power ?_, h .cores ?_, h .locket ?_, h .host ?_, h .queues ?_,
    h .counters ?_, h .loader ?_, h .facets ?_, h .facetRam ?_, h .collectors ?_, h .near ?_, h .hbm ?_, h .flash ?_,
    h .colls ?_, h .pools ?_, h .streams ?_, h .search ?_, h .fabric ?_, h .learn ?_, h .board ?_⟩ <;> decide

@[simp] theorem dropObjects_frame (s : State) (p : OpenObj → Bool) :
    (dropObjects s p).out = s.out ∧ (dropObjects s p).free = s.free ∧ (dropObjects s p).time = s.time ∧
      (dropObjects s p).power = s.power ∧ (dropObjects s p).cores = s.cores ∧ (dropObjects s p).locket = s.locket ∧
      (dropObjects s p).host = s.host ∧ (dropObjects s p).events = s.events ∧
      (dropObjects s p).counters = s.counters ∧ (dropObjects s p).facets = s.facets ∧
      (dropObjects s p).facetRam = s.facetRam ∧ (dropObjects s p).collectors = s.collectors ∧
      (dropObjects s p).near = s.near ∧ (dropObjects s p).hbm = s.hbm ∧ (dropObjects s p).flash = s.flash ∧
      (dropObjects s p).colls = s.colls ∧ (dropObjects s p).pools = s.pools ∧ (dropObjects s p).streams = s.streams ∧
      (dropObjects s p).search = s.search ∧ (dropObjects s p).fabric = s.fabric ∧ (dropObjects s p).learn = s.learn ∧
      (dropObjects s p).board = s.board := by
  have g : s.follows ([.queues, .loader]) (dropObjects s p) :=
    dropObjects_follows (List.Subset.refl _) (State.follows_refl _ s)
  have h := g.frame
  refine ⟨h .out ?_, h .free ?_, h .time ?_, h .power ?_, h .cores ?_, h .locket ?_, h .host ?_, h .events ?_,
    h .counters ?_, h .facets ?_, h .facetRam ?_, h .collectors ?_, h .near ?_, h .hbm ?_, h .flash ?_, h .colls ?_,
    h .pools ?_, h .streams ?_, h .search ?_, h .fabric ?_, h .learn ?_, h .board ?_⟩ <;> decide

@[simp] theorem orphan_frame (s : State) (conn : Nat) :
    (orphan s conn).out = s.out ∧ (orphan s conn).free = s.free ∧ (orphan s conn).time = s.time ∧
      (orphan s conn).power = s.power ∧ (orphan s conn).cores = s.cores ∧ (orphan s conn).locket = s.locket ∧
      (orphan s conn).events = s.events ∧ (orphan s conn).counters = s.counters ∧ (orphan s conn).facets = s.facets ∧
      (orphan s conn).facetRam = s.facetRam ∧ (orphan s conn).collectors = s.collectors ∧
      (orphan s conn).near = s.near ∧ (orphan s conn).hbm = s.hbm ∧ (orphan s conn).flash = s.flash ∧
      (orphan s conn).colls = s.colls ∧ (orphan s conn).pools = s.pools ∧ (orphan s conn).streams = s.streams ∧
      (orphan s conn).search = s.search ∧ (orphan s conn).fabric = s.fabric ∧ (orphan s conn).learn = s.learn ∧
      (orphan s conn).board = s.board := by
  have g : s.follows ([.host, .queues, .loader]) (orphan s conn) :=
    orphan_follows (List.Subset.refl _) (State.follows_refl _ s)
  have h := g.frame
  refine ⟨h .out ?_, h .free ?_, h .time ?_, h .power ?_, h .cores ?_, h .locket ?_, h .events ?_, h .counters ?_,
    h .facets ?_, h .facetRam ?_, h .collectors ?_, h .near ?_, h .hbm ?_, h .flash ?_, h .colls ?_, h .pools ?_,
    h .streams ?_, h .search ?_, h .fabric ?_, h .learn ?_, h .board ?_⟩ <;> decide

@[simp] theorem failConn_frame (s : State) (id cause : Nat) :
    (failConn s id cause).free = s.free ∧ (failConn s id cause).time = s.time ∧
      (failConn s id cause).power = s.power ∧ (failConn s id cause).cores = s.cores ∧
      (failConn s id cause).locket = s.locket ∧ (failConn s id cause).facets = s.facets ∧
      (failConn s id cause).facetRam = s.facetRam ∧ (failConn s id cause).collectors = s.collectors ∧
      (failConn s id cause).near = s.near ∧ (failConn s id cause).hbm = s.hbm ∧
      (failConn s id cause).flash = s.flash ∧ (failConn s id cause).colls = s.colls ∧
      (failConn s id cause).pools = s.pools ∧ (failConn s id cause).streams = s.streams ∧
      (failConn s id cause).search = s.search ∧ (failConn s id cause).fabric = s.fabric ∧
      (failConn s id cause).learn = s.learn ∧ (failConn s id cause).board = s.board := by
  have g : s.follows ([.out, .host, .queues, .events, .counters, .loader]) (failConn s id cause) :=
    failConn_follows (List.Subset.refl _) (State.follows_refl _ s)
  have h := g.frame
  refine ⟨h .free ?_, h .time ?_, h .power ?_, h .cores ?_, h .locket ?_, h .facets ?_, h .facetRam ?_,
    h .collectors ?_, h .near ?_, h .hbm ?_, h .flash ?_, h .colls ?_, h .pools ?_, h .streams ?_, h .search ?_,
    h .fabric ?_, h .learn ?_, h .board ?_⟩ <;> decide

@[simp] theorem moveConn_frame (s : State) (id : Nat) (a : BitVec 128) (u : Nat) :
    (moveConn s id a u).free = s.free ∧ (moveConn s id a u).time = s.time ∧ (moveConn s id a u).power = s.power ∧
      (moveConn s id a u).cores = s.cores ∧ (moveConn s id a u).locket = s.locket ∧
      (moveConn s id a u).queues = s.queues ∧ (moveConn s id a u).loader = s.loader ∧
      (moveConn s id a u).facets = s.facets ∧ (moveConn s id a u).facetRam = s.facetRam ∧
      (moveConn s id a u).collectors = s.collectors ∧ (moveConn s id a u).near = s.near ∧
      (moveConn s id a u).hbm = s.hbm ∧ (moveConn s id a u).flash = s.flash ∧ (moveConn s id a u).colls = s.colls ∧
      (moveConn s id a u).pools = s.pools ∧ (moveConn s id a u).streams = s.streams ∧
      (moveConn s id a u).search = s.search ∧ (moveConn s id a u).fabric = s.fabric ∧
      (moveConn s id a u).learn = s.learn ∧ (moveConn s id a u).board = s.board := by
  have g : s.follows ([.out, .host, .events, .counters]) (moveConn s id a u) :=
    moveConn_follows (List.Subset.refl _) (State.follows_refl _ s)
  have h := g.frame
  refine ⟨h .free ?_, h .time ?_, h .power ?_, h .cores ?_, h .locket ?_, h .queues ?_, h .loader ?_, h .facets ?_,
    h .facetRam ?_, h .collectors ?_, h .near ?_, h .hbm ?_, h .flash ?_, h .colls ?_, h .pools ?_, h .streams ?_,
    h .search ?_, h .fabric ?_, h .learn ?_, h .board ?_⟩ <;> decide

@[simp] theorem portDownCore_frame (s : State) (p : Nat) :
    (portDownCore s p).free = s.free ∧ (portDownCore s p).time = s.time ∧ (portDownCore s p).power = s.power ∧
      (portDownCore s p).cores = s.cores ∧ (portDownCore s p).locket = s.locket ∧
      (portDownCore s p).facets = s.facets ∧ (portDownCore s p).facetRam = s.facetRam ∧
      (portDownCore s p).collectors = s.collectors ∧ (portDownCore s p).near = s.near ∧
      (portDownCore s p).hbm = s.hbm ∧ (portDownCore s p).flash = s.flash ∧ (portDownCore s p).colls = s.colls ∧
      (portDownCore s p).pools = s.pools ∧ (portDownCore s p).streams = s.streams ∧
      (portDownCore s p).search = s.search ∧ (portDownCore s p).fabric = s.fabric ∧
      (portDownCore s p).learn = s.learn ∧ (portDownCore s p).board = s.board := by
  have g : s.follows ([.out, .host, .queues, .events, .counters, .loader]) (portDownCore s p) :=
    portDownCore_follows (List.Subset.refl _) (State.follows_refl _ s)
  have h := g.frame
  refine ⟨h .free ?_, h .time ?_, h .power ?_, h .cores ?_, h .locket ?_, h .facets ?_, h .facetRam ?_,
    h .collectors ?_, h .near ?_, h .hbm ?_, h .flash ?_, h .colls ?_, h .pools ?_, h .streams ?_, h .search ?_,
    h .fabric ?_, h .learn ?_, h .board ?_⟩ <;> decide

@[simp] theorem ackUpTo_frame (s : State) (id : Nat) (seq : BitVec 32) :
    (ackUpTo s id seq).out = s.out ∧ (ackUpTo s id seq).free = s.free ∧ (ackUpTo s id seq).time = s.time ∧
      (ackUpTo s id seq).power = s.power ∧ (ackUpTo s id seq).cores = s.cores ∧ (ackUpTo s id seq).locket = s.locket ∧
      (ackUpTo s id seq).queues = s.queues ∧ (ackUpTo s id seq).counters = s.counters ∧
      (ackUpTo s id seq).loader = s.loader ∧ (ackUpTo s id seq).facets = s.facets ∧
      (ackUpTo s id seq).facetRam = s.facetRam ∧ (ackUpTo s id seq).collectors = s.collectors ∧
      (ackUpTo s id seq).near = s.near ∧ (ackUpTo s id seq).hbm = s.hbm ∧ (ackUpTo s id seq).flash = s.flash ∧
      (ackUpTo s id seq).colls = s.colls ∧ (ackUpTo s id seq).pools = s.pools ∧
      (ackUpTo s id seq).streams = s.streams ∧ (ackUpTo s id seq).search = s.search ∧
      (ackUpTo s id seq).fabric = s.fabric ∧ (ackUpTo s id seq).learn = s.learn ∧
      (ackUpTo s id seq).board = s.board := by
  have g : s.follows ([.host, .events]) (ackUpTo s id seq) :=
    ackUpTo_follows (List.Subset.refl _) (State.follows_refl _ s)
  have h := g.frame
  refine ⟨h .out ?_, h .free ?_, h .time ?_, h .power ?_, h .cores ?_, h .locket ?_, h .queues ?_, h .counters ?_,
    h .loader ?_, h .facets ?_, h .facetRam ?_, h .collectors ?_, h .near ?_, h .hbm ?_, h .flash ?_, h .colls ?_,
    h .pools ?_, h .streams ?_, h .search ?_, h .fabric ?_, h .learn ?_, h .board ?_⟩ <;> decide

@[simp] theorem sendFlit_frame (s : State) (l : Nat) (f : Flit) :
    (sendFlit s l f).free = s.free ∧ (sendFlit s l f).time = s.time ∧ (sendFlit s l f).power = s.power ∧
      (sendFlit s l f).cores = s.cores ∧ (sendFlit s l f).locket = s.locket ∧ (sendFlit s l f).host = s.host ∧
      (sendFlit s l f).queues = s.queues ∧ (sendFlit s l f).events = s.events ∧
      (sendFlit s l f).counters = s.counters ∧ (sendFlit s l f).loader = s.loader ∧
      (sendFlit s l f).facets = s.facets ∧ (sendFlit s l f).facetRam = s.facetRam ∧
      (sendFlit s l f).collectors = s.collectors ∧ (sendFlit s l f).near = s.near ∧ (sendFlit s l f).hbm = s.hbm ∧
      (sendFlit s l f).flash = s.flash ∧ (sendFlit s l f).colls = s.colls ∧ (sendFlit s l f).pools = s.pools ∧
      (sendFlit s l f).streams = s.streams ∧ (sendFlit s l f).search = s.search ∧ (sendFlit s l f).learn = s.learn ∧
      (sendFlit s l f).board = s.board := by
  have g : s.follows ([.out, .fabric]) (sendFlit s l f) :=
    sendFlit_follows (List.Subset.refl _) (State.follows_refl _ s)
  have h := g.frame
  refine ⟨h .free ?_, h .time ?_, h .power ?_, h .cores ?_, h .locket ?_, h .host ?_, h .queues ?_, h .events ?_,
    h .counters ?_, h .loader ?_, h .facets ?_, h .facetRam ?_, h .collectors ?_, h .near ?_, h .hbm ?_, h .flash ?_,
    h .colls ?_, h .pools ?_, h .streams ?_, h .search ?_, h .learn ?_, h .board ?_⟩ <;> decide

@[simp] theorem sendOn_frame (s : State) (l buf : Nat) (h : MsgHdr) (b : MsgBody) :
    (sendOn s l buf h b).free = s.free ∧ (sendOn s l buf h b).time = s.time ∧ (sendOn s l buf h b).power = s.power ∧
      (sendOn s l buf h b).cores = s.cores ∧ (sendOn s l buf h b).locket = s.locket ∧
      (sendOn s l buf h b).host = s.host ∧ (sendOn s l buf h b).queues = s.queues ∧
      (sendOn s l buf h b).events = s.events ∧ (sendOn s l buf h b).counters = s.counters ∧
      (sendOn s l buf h b).loader = s.loader ∧ (sendOn s l buf h b).facets = s.facets ∧
      (sendOn s l buf h b).facetRam = s.facetRam ∧ (sendOn s l buf h b).collectors = s.collectors ∧
      (sendOn s l buf h b).near = s.near ∧ (sendOn s l buf h b).hbm = s.hbm ∧ (sendOn s l buf h b).flash = s.flash ∧
      (sendOn s l buf h b).colls = s.colls ∧ (sendOn s l buf h b).pools = s.pools ∧
      (sendOn s l buf h b).streams = s.streams ∧ (sendOn s l buf h b).search = s.search ∧
      (sendOn s l buf h b).learn = s.learn ∧ (sendOn s l buf h b).board = s.board := by
  have g : s.follows ([.out, .fabric]) (sendOn s l buf h b) :=
    sendOn_follows (List.Subset.refl _) (State.follows_refl _ s)
  have h := g.frame
  refine ⟨h .free ?_, h .time ?_, h .power ?_, h .cores ?_, h .locket ?_, h .host ?_, h .queues ?_, h .events ?_,
    h .counters ?_, h .loader ?_, h .facets ?_, h .facetRam ?_, h .collectors ?_, h .near ?_, h .hbm ?_, h .flash ?_,
    h .colls ?_, h .pools ?_, h .streams ?_, h .search ?_, h .learn ?_, h .board ?_⟩ <;> decide

@[simp] theorem forwardTo_frame (s : State) (here t : Nat) (m0 : MsgHdr) (b : MsgBody) :
    (forwardTo s here t m0 b).free = s.free ∧ (forwardTo s here t m0 b).time = s.time ∧
      (forwardTo s here t m0 b).power = s.power ∧ (forwardTo s here t m0 b).cores = s.cores ∧
      (forwardTo s here t m0 b).locket = s.locket ∧ (forwardTo s here t m0 b).host = s.host ∧
      (forwardTo s here t m0 b).queues = s.queues ∧ (forwardTo s here t m0 b).events = s.events ∧
      (forwardTo s here t m0 b).counters = s.counters ∧ (forwardTo s here t m0 b).loader = s.loader ∧
      (forwardTo s here t m0 b).facets = s.facets ∧ (forwardTo s here t m0 b).facetRam = s.facetRam ∧
      (forwardTo s here t m0 b).collectors = s.collectors ∧ (forwardTo s here t m0 b).near = s.near ∧
      (forwardTo s here t m0 b).hbm = s.hbm ∧ (forwardTo s here t m0 b).flash = s.flash ∧
      (forwardTo s here t m0 b).colls = s.colls ∧ (forwardTo s here t m0 b).pools = s.pools ∧
      (forwardTo s here t m0 b).streams = s.streams ∧ (forwardTo s here t m0 b).search = s.search ∧
      (forwardTo s here t m0 b).learn = s.learn ∧ (forwardTo s here t m0 b).board = s.board := by
  have g : s.follows ([.out, .fabric]) (forwardTo s here t m0 b) :=
    forwardTo_follows (List.Subset.refl _) (State.follows_refl _ s)
  have h := g.frame
  refine ⟨h .free ?_, h .time ?_, h .power ?_, h .cores ?_, h .locket ?_, h .host ?_, h .queues ?_, h .events ?_,
    h .counters ?_, h .loader ?_, h .facets ?_, h .facetRam ?_, h .collectors ?_, h .near ?_, h .hbm ?_, h .flash ?_,
    h .colls ?_, h .pools ?_, h .streams ?_, h .search ?_, h .learn ?_, h .board ?_⟩ <;> decide

@[simp] theorem linkDownCore_frame (s : State) (l : Nat) :
    (linkDownCore s l).free = s.free ∧ (linkDownCore s l).time = s.time ∧ (linkDownCore s l).power = s.power ∧
      (linkDownCore s l).cores = s.cores ∧ (linkDownCore s l).locket = s.locket ∧ (linkDownCore s l).host = s.host ∧
      (linkDownCore s l).queues = s.queues ∧ (linkDownCore s l).events = s.events ∧
      (linkDownCore s l).counters = s.counters ∧ (linkDownCore s l).loader = s.loader ∧
      (linkDownCore s l).facets = s.facets ∧ (linkDownCore s l).facetRam = s.facetRam ∧
      (linkDownCore s l).collectors = s.collectors ∧ (linkDownCore s l).near = s.near ∧
      (linkDownCore s l).hbm = s.hbm ∧ (linkDownCore s l).flash = s.flash ∧ (linkDownCore s l).colls = s.colls ∧
      (linkDownCore s l).pools = s.pools ∧ (linkDownCore s l).streams = s.streams ∧
      (linkDownCore s l).search = s.search ∧ (linkDownCore s l).learn = s.learn ∧
      (linkDownCore s l).board = s.board := by
  have g : s.follows ([.out, .fabric]) (linkDownCore s l) :=
    linkDownCore_follows (List.Subset.refl _) (State.follows_refl _ s)
  have h := g.frame
  refine ⟨h .free ?_, h .time ?_, h .power ?_, h .cores ?_, h .locket ?_, h .host ?_, h .queues ?_, h .events ?_,
    h .counters ?_, h .loader ?_, h .facets ?_, h .facetRam ?_, h .collectors ?_, h .near ?_, h .hbm ?_, h .flash ?_,
    h .colls ?_, h .pools ?_, h .streams ?_, h .search ?_, h .learn ?_, h .board ?_⟩ <;> decide

@[simp] theorem updLink_frame (s : State) (l : Nat) (f : Link → Link) :
    (updLink s l f).out = s.out ∧ (updLink s l f).free = s.free ∧ (updLink s l f).time = s.time ∧
      (updLink s l f).power = s.power ∧ (updLink s l f).cores = s.cores ∧ (updLink s l f).locket = s.locket ∧
      (updLink s l f).host = s.host ∧ (updLink s l f).queues = s.queues ∧ (updLink s l f).events = s.events ∧
      (updLink s l f).counters = s.counters ∧ (updLink s l f).loader = s.loader ∧ (updLink s l f).facets = s.facets ∧
      (updLink s l f).facetRam = s.facetRam ∧ (updLink s l f).collectors = s.collectors ∧
      (updLink s l f).near = s.near ∧ (updLink s l f).hbm = s.hbm ∧ (updLink s l f).flash = s.flash ∧
      (updLink s l f).colls = s.colls ∧ (updLink s l f).pools = s.pools ∧ (updLink s l f).streams = s.streams ∧
      (updLink s l f).search = s.search ∧ (updLink s l f).learn = s.learn ∧ (updLink s l f).board = s.board := by
  have g : s.follows ([.fabric]) (updLink s l f) :=
    updLink_follows (List.Subset.refl _) (State.follows_refl _ s)
  have h := g.frame
  refine ⟨h .out ?_, h .free ?_, h .time ?_, h .power ?_, h .cores ?_, h .locket ?_, h .host ?_, h .queues ?_,
    h .events ?_, h .counters ?_, h .loader ?_, h .facets ?_, h .facetRam ?_, h .collectors ?_, h .near ?_, h .hbm ?_,
    h .flash ?_, h .colls ?_, h .pools ?_, h .streams ?_, h .search ?_, h .learn ?_, h .board ?_⟩ <;> decide

@[simp] theorem updFlashCh_frame (s : State) (c : Nat) (f : FlashCh → FlashCh) :
    (updFlashCh s c f).out = s.out ∧ (updFlashCh s c f).free = s.free ∧ (updFlashCh s c f).time = s.time ∧
      (updFlashCh s c f).power = s.power ∧ (updFlashCh s c f).cores = s.cores ∧ (updFlashCh s c f).locket = s.locket ∧
      (updFlashCh s c f).host = s.host ∧ (updFlashCh s c f).queues = s.queues ∧ (updFlashCh s c f).events = s.events ∧
      (updFlashCh s c f).counters = s.counters ∧ (updFlashCh s c f).loader = s.loader ∧
      (updFlashCh s c f).facets = s.facets ∧ (updFlashCh s c f).facetRam = s.facetRam ∧
      (updFlashCh s c f).collectors = s.collectors ∧ (updFlashCh s c f).near = s.near ∧
      (updFlashCh s c f).hbm = s.hbm ∧ (updFlashCh s c f).colls = s.colls ∧ (updFlashCh s c f).pools = s.pools ∧
      (updFlashCh s c f).streams = s.streams ∧ (updFlashCh s c f).search = s.search ∧
      (updFlashCh s c f).fabric = s.fabric ∧ (updFlashCh s c f).learn = s.learn ∧
      (updFlashCh s c f).board = s.board := by
  have g : s.follows ([.flash]) (updFlashCh s c f) :=
    updFlashCh_follows (List.Subset.refl _) (State.follows_refl _ s)
  have h := g.frame
  refine ⟨h .out ?_, h .free ?_, h .time ?_, h .power ?_, h .cores ?_, h .locket ?_, h .host ?_, h .queues ?_,
    h .events ?_, h .counters ?_, h .loader ?_, h .facets ?_, h .facetRam ?_, h .collectors ?_, h .near ?_, h .hbm ?_,
    h .colls ?_, h .pools ?_, h .streams ?_, h .search ?_, h .fabric ?_, h .learn ?_, h .board ?_⟩ <;> decide

@[simp] theorem setBank_frame (s : State) (b : Nat) (v : Bank) :
    (setBank s b v).out = s.out ∧ (setBank s b v).free = s.free ∧ (setBank s b v).time = s.time ∧
      (setBank s b v).power = s.power ∧ (setBank s b v).cores = s.cores ∧ (setBank s b v).locket = s.locket ∧
      (setBank s b v).host = s.host ∧ (setBank s b v).queues = s.queues ∧ (setBank s b v).events = s.events ∧
      (setBank s b v).counters = s.counters ∧ (setBank s b v).loader = s.loader ∧ (setBank s b v).facets = s.facets ∧
      (setBank s b v).facetRam = s.facetRam ∧ (setBank s b v).collectors = s.collectors ∧
      (setBank s b v).hbm = s.hbm ∧ (setBank s b v).flash = s.flash ∧ (setBank s b v).colls = s.colls ∧
      (setBank s b v).pools = s.pools ∧ (setBank s b v).streams = s.streams ∧ (setBank s b v).search = s.search ∧
      (setBank s b v).fabric = s.fabric ∧ (setBank s b v).learn = s.learn ∧ (setBank s b v).board = s.board := by
  have g : s.follows ([.near]) (setBank s b v) :=
    setBank_follows (List.Subset.refl _) (State.follows_refl _ s)
  have h := g.frame
  refine ⟨h .out ?_, h .free ?_, h .time ?_, h .power ?_, h .cores ?_, h .locket ?_, h .host ?_, h .queues ?_,
    h .events ?_, h .counters ?_, h .loader ?_, h .facets ?_, h .facetRam ?_, h .collectors ?_, h .hbm ?_,
    h .flash ?_, h .colls ?_, h .pools ?_, h .streams ?_, h .search ?_, h .fabric ?_, h .learn ?_,
    h .board ?_⟩ <;> decide

@[simp] theorem fenceBank_frame (s : State) (b : Nat) :
    (fenceBank s b).free = s.free ∧ (fenceBank s b).time = s.time ∧ (fenceBank s b).power = s.power ∧
      (fenceBank s b).cores = s.cores ∧ (fenceBank s b).locket = s.locket ∧ (fenceBank s b).queues = s.queues ∧
      (fenceBank s b).loader = s.loader ∧ (fenceBank s b).facets = s.facets ∧ (fenceBank s b).facetRam = s.facetRam ∧
      (fenceBank s b).collectors = s.collectors ∧ (fenceBank s b).hbm = s.hbm ∧ (fenceBank s b).flash = s.flash ∧
      (fenceBank s b).pools = s.pools ∧ (fenceBank s b).search = s.search ∧ (fenceBank s b).fabric = s.fabric ∧
      (fenceBank s b).learn = s.learn ∧ (fenceBank s b).board = s.board := by
  have g : s.follows ([.out, .host, .events, .counters, .near, .colls, .streams]) (fenceBank s b) :=
    fenceBank_follows (List.Subset.refl _) (State.follows_refl _ s)
  have h := g.frame
  refine ⟨h .free ?_, h .time ?_, h .power ?_, h .cores ?_, h .locket ?_, h .queues ?_, h .loader ?_, h .facets ?_,
    h .facetRam ?_, h .collectors ?_, h .hbm ?_, h .flash ?_, h .pools ?_, h .search ?_, h .fabric ?_, h .learn ?_,
    h .board ?_⟩ <;> decide

@[simp] theorem facetLost_frame (s : State) (f : Nat) :
    (facetLost s f).free = s.free ∧ (facetLost s f).time = s.time ∧ (facetLost s f).power = s.power ∧
      (facetLost s f).cores = s.cores ∧ (facetLost s f).locket = s.locket ∧ (facetLost s f).loader = s.loader ∧
      (facetLost s f).facets = s.facets ∧ (facetLost s f).facetRam = s.facetRam ∧
      (facetLost s f).collectors = s.collectors ∧ (facetLost s f).near = s.near ∧ (facetLost s f).hbm = s.hbm ∧
      (facetLost s f).fabric = s.fabric ∧ (facetLost s f).board = s.board := by
  have g : s.follows ([.out, .host, .queues, .events, .counters, .flash, .colls, .pools, .streams, .search, .learn]) (facetLost s f) :=
    facetLost_follows (List.Subset.refl _) (State.follows_refl _ s)
  have h := g.frame
  refine ⟨h .free ?_, h .time ?_, h .power ?_, h .cores ?_, h .locket ?_, h .loader ?_, h .facets ?_, h .facetRam ?_,
    h .collectors ?_, h .near ?_, h .hbm ?_, h .fabric ?_, h .board ?_⟩ <;> decide

@[simp] theorem fenceFacet_frame (s : State) (f reason : Nat) :
    (fenceFacet s f reason).free = s.free ∧ (fenceFacet s f reason).time = s.time ∧
      (fenceFacet s f reason).power = s.power ∧ (fenceFacet s f reason).cores = s.cores ∧
      (fenceFacet s f reason).locket = s.locket ∧ (fenceFacet s f reason).facetRam = s.facetRam ∧
      (fenceFacet s f reason).collectors = s.collectors ∧ (fenceFacet s f reason).near = s.near ∧
      (fenceFacet s f reason).hbm = s.hbm ∧ (fenceFacet s f reason).fabric = s.fabric ∧
      (fenceFacet s f reason).board = s.board := by
  have g : s.follows ([.out, .host, .queues, .events, .counters, .loader, .facets, .flash, .colls, .pools, .streams, .search, .learn]) (fenceFacet s f reason) :=
    fenceFacet_follows (List.Subset.refl _) (State.follows_refl _ s)
  have h := g.frame
  refine ⟨h .free ?_, h .time ?_, h .power ?_, h .cores ?_, h .locket ?_, h .facetRam ?_, h .collectors ?_,
    h .near ?_, h .hbm ?_, h .fabric ?_, h .board ?_⟩ <;> decide

@[simp] theorem raiseSrc_frame (s : State) (col src : Nat) (u : UnitName) :
    (raiseSrc s col src u).free = s.free ∧ (raiseSrc s col src u).time = s.time ∧
      (raiseSrc s col src u).locket = s.locket ∧ (raiseSrc s col src u).facetRam = s.facetRam ∧
      (raiseSrc s col src u).board = s.board := by
  have g : s.follows (Field.but [.free, .time, .locket, .facetRam, .board]) (raiseSrc s col src u) :=
    raiseSrc_follows (List.Subset.refl _) (State.follows_refl _ s)
  have h := g.frame
  refine ⟨h .free ?_, h .time ?_, h .locket ?_, h .facetRam ?_, h .board ?_⟩ <;> decide

@[simp] theorem clearStatus_frame (s : State) (col : Nat) (mask : BitVec 64) :
    (clearStatus s col mask).out = s.out ∧ (clearStatus s col mask).free = s.free ∧
      (clearStatus s col mask).time = s.time ∧ (clearStatus s col mask).power = s.power ∧
      (clearStatus s col mask).cores = s.cores ∧ (clearStatus s col mask).locket = s.locket ∧
      (clearStatus s col mask).host = s.host ∧ (clearStatus s col mask).queues = s.queues ∧
      (clearStatus s col mask).events = s.events ∧ (clearStatus s col mask).counters = s.counters ∧
      (clearStatus s col mask).loader = s.loader ∧ (clearStatus s col mask).facets = s.facets ∧
      (clearStatus s col mask).facetRam = s.facetRam ∧ (clearStatus s col mask).near = s.near ∧
      (clearStatus s col mask).hbm = s.hbm ∧ (clearStatus s col mask).flash = s.flash ∧
      (clearStatus s col mask).colls = s.colls ∧ (clearStatus s col mask).pools = s.pools ∧
      (clearStatus s col mask).streams = s.streams ∧ (clearStatus s col mask).search = s.search ∧
      (clearStatus s col mask).fabric = s.fabric ∧ (clearStatus s col mask).learn = s.learn ∧
      (clearStatus s col mask).board = s.board := by
  have g : s.follows ([.collectors]) (clearStatus s col mask) :=
    clearStatus_follows (List.Subset.refl _) (State.follows_refl _ s)
  have h := g.frame
  refine ⟨h .out ?_, h .free ?_, h .time ?_, h .power ?_, h .cores ?_, h .locket ?_, h .host ?_, h .queues ?_,
    h .events ?_, h .counters ?_, h .loader ?_, h .facets ?_, h .facetRam ?_, h .near ?_, h .hbm ?_, h .flash ?_,
    h .colls ?_, h .pools ?_, h .streams ?_, h .search ?_, h .fabric ?_, h .learn ?_, h .board ?_⟩ <;> decide

@[simp] theorem dropPins_frame (s : State) (col : Nat) (mask : BitVec 64) :
    (dropPins s col mask).out = s.out ∧ (dropPins s col mask).free = s.free ∧ (dropPins s col mask).time = s.time ∧
      (dropPins s col mask).power = s.power ∧ (dropPins s col mask).cores = s.cores ∧
      (dropPins s col mask).locket = s.locket ∧ (dropPins s col mask).host = s.host ∧
      (dropPins s col mask).queues = s.queues ∧ (dropPins s col mask).events = s.events ∧
      (dropPins s col mask).counters = s.counters ∧ (dropPins s col mask).loader = s.loader ∧
      (dropPins s col mask).facets = s.facets ∧ (dropPins s col mask).facetRam = s.facetRam ∧
      (dropPins s col mask).near = s.near ∧ (dropPins s col mask).hbm = s.hbm ∧
      (dropPins s col mask).flash = s.flash ∧ (dropPins s col mask).colls = s.colls ∧
      (dropPins s col mask).pools = s.pools ∧ (dropPins s col mask).streams = s.streams ∧
      (dropPins s col mask).search = s.search ∧ (dropPins s col mask).fabric = s.fabric ∧
      (dropPins s col mask).learn = s.learn ∧ (dropPins s col mask).board = s.board := by
  have g : s.follows ([.collectors]) (dropPins s col mask) :=
    dropPins_follows (List.Subset.refl _) (State.follows_refl _ s)
  have h := g.frame
  refine ⟨h .out ?_, h .free ?_, h .time ?_, h .power ?_, h .cores ?_, h .locket ?_, h .host ?_, h .queues ?_,
    h .events ?_, h .counters ?_, h .loader ?_, h .facets ?_, h .facetRam ?_, h .near ?_, h .hbm ?_, h .flash ?_,
    h .colls ?_, h .pools ?_, h .streams ?_, h .search ?_, h .fabric ?_, h .learn ?_, h .board ?_⟩ <;> decide

@[simp] theorem startFlush_frame (s : State) :
    (startFlush s).free = s.free ∧ (startFlush s).time = s.time ∧ (startFlush s).cores = s.cores ∧
      (startFlush s).locket = s.locket ∧ (startFlush s).loader = s.loader ∧ (startFlush s).facets = s.facets ∧
      (startFlush s).facetRam = s.facetRam ∧ (startFlush s).collectors = s.collectors ∧ (startFlush s).near = s.near ∧
      (startFlush s).hbm = s.hbm ∧ (startFlush s).colls = s.colls ∧ (startFlush s).search = s.search ∧
      (startFlush s).fabric = s.fabric ∧ (startFlush s).learn = s.learn ∧ (startFlush s).board = s.board := by
  have g : s.follows ([.out, .power, .host, .queues, .events, .counters, .flash, .pools, .streams]) (startFlush s) :=
    startFlush_follows (List.Subset.refl _) (State.follows_refl _ s)
  have h := g.frame
  refine ⟨h .free ?_, h .time ?_, h .cores ?_, h .locket ?_, h .loader ?_, h .facets ?_, h .facetRam ?_,
    h .collectors ?_, h .near ?_, h .hbm ?_, h .colls ?_, h .search ?_, h .fabric ?_, h .learn ?_,
    h .board ?_⟩ <;> decide

@[simp] theorem shutDown_frame (s : State) :
    (shutDown s).free = s.free ∧ (shutDown s).time = s.time ∧ (shutDown s).cores = s.cores ∧
      (shutDown s).locket = s.locket ∧ (shutDown s).loader = s.loader ∧ (shutDown s).facets = s.facets ∧
      (shutDown s).facetRam = s.facetRam ∧ (shutDown s).collectors = s.collectors ∧ (shutDown s).near = s.near ∧
      (shutDown s).hbm = s.hbm ∧ (shutDown s).colls = s.colls ∧ (shutDown s).search = s.search ∧
      (shutDown s).fabric = s.fabric ∧ (shutDown s).learn = s.learn ∧ (shutDown s).board = s.board := by
  have g : s.follows ([.out, .power, .host, .queues, .events, .counters, .flash, .pools, .streams]) (shutDown s) :=
    shutDown_follows (List.Subset.refl _) (State.follows_refl _ s)
  have h := g.frame
  refine ⟨h .free ?_, h .time ?_, h .cores ?_, h .locket ?_, h .loader ?_, h .facets ?_, h .facetRam ?_,
    h .collectors ?_, h .near ?_, h .hbm ?_, h .colls ?_, h .search ?_, h .fabric ?_, h .learn ?_,
    h .board ?_⟩ <;> decide

@[simp] theorem replyRefuse_frame (s : State) (c : Cmd) (st : BitVec 16) :
    (replyRefuse s c st).free = s.free ∧ (replyRefuse s c st).time = s.time ∧ (replyRefuse s c st).power = s.power ∧
      (replyRefuse s c st).cores = s.cores ∧ (replyRefuse s c st).locket = s.locket ∧
      (replyRefuse s c st).loader = s.loader ∧ (replyRefuse s c st).facets = s.facets ∧
      (replyRefuse s c st).facetRam = s.facetRam ∧ (replyRefuse s c st).collectors = s.collectors ∧
      (replyRefuse s c st).near = s.near ∧ (replyRefuse s c st).hbm = s.hbm ∧ (replyRefuse s c st).colls = s.colls ∧
      (replyRefuse s c st).streams = s.streams ∧ (replyRefuse s c st).search = s.search ∧
      (replyRefuse s c st).fabric = s.fabric ∧ (replyRefuse s c st).learn = s.learn ∧
      (replyRefuse s c st).board = s.board := by
  have g : s.follows ([.out, .host, .queues, .events, .counters, .flash, .pools]) (replyRefuse s c st) :=
    replyRefuse_follows (List.Subset.refl _) (State.follows_refl _ s)
  have h := g.frame
  refine ⟨h .free ?_, h .time ?_, h .power ?_, h .cores ?_, h .locket ?_, h .loader ?_, h .facets ?_, h .facetRam ?_,
    h .collectors ?_, h .near ?_, h .hbm ?_, h .colls ?_, h .streams ?_, h .search ?_, h .fabric ?_, h .learn ?_,
    h .board ?_⟩ <;> decide

@[simp] theorem replyOk_frame (s : State) (c : Cmd) (area : BitVec 320) (body : List Byte) :
    (replyOk s c area body).free = s.free ∧ (replyOk s c area body).time = s.time ∧
      (replyOk s c area body).power = s.power ∧ (replyOk s c area body).cores = s.cores ∧
      (replyOk s c area body).locket = s.locket ∧ (replyOk s c area body).loader = s.loader ∧
      (replyOk s c area body).facets = s.facets ∧ (replyOk s c area body).facetRam = s.facetRam ∧
      (replyOk s c area body).collectors = s.collectors ∧ (replyOk s c area body).near = s.near ∧
      (replyOk s c area body).hbm = s.hbm ∧ (replyOk s c area body).colls = s.colls ∧
      (replyOk s c area body).streams = s.streams ∧ (replyOk s c area body).search = s.search ∧
      (replyOk s c area body).fabric = s.fabric ∧ (replyOk s c area body).learn = s.learn ∧
      (replyOk s c area body).board = s.board := by
  have g : s.follows ([.out, .host, .queues, .events, .counters, .flash, .pools]) (replyOk s c area body) :=
    replyOk_follows (List.Subset.refl _) (State.follows_refl _ s)
  have h := g.frame
  refine ⟨h .free ?_, h .time ?_, h .power ?_, h .cores ?_, h .locket ?_, h .loader ?_, h .facets ?_, h .facetRam ?_,
    h .collectors ?_, h .near ?_, h .hbm ?_, h .colls ?_, h .streams ?_, h .search ?_, h .fabric ?_, h .learn ?_,
    h .board ?_⟩ <;> decide

end Sys2Proof.Machine
end

