-- ==== Sys2Proof/Laws/State.lean ====
section
/-! SUPPORT. What each update of one subsystem reads back as, field by field. -/

namespace Sys2Proof.Machine

@[simp] theorem modTime_pending (s : State) (f : TimeBase → TimeBase) : (s.modTime f).pending = s.pending := rfl
@[simp] theorem modTime_out (s : State) (f : TimeBase → TimeBase) : (s.modTime f).out = s.out := rfl
@[simp] theorem modTime_free (s : State) (f : TimeBase → TimeBase) : (s.modTime f).free = s.free := rfl
@[simp] theorem modTime_time (s : State) (f : TimeBase → TimeBase) : (s.modTime f).time = f s.time := rfl
@[simp] theorem modTime_power (s : State) (f : TimeBase → TimeBase) : (s.modTime f).power = s.power := rfl
@[simp] theorem modTime_cores (s : State) (f : TimeBase → TimeBase) : (s.modTime f).cores = s.cores := rfl
@[simp] theorem modTime_locket (s : State) (f : TimeBase → TimeBase) : (s.modTime f).locket = s.locket := rfl
@[simp] theorem modTime_host (s : State) (f : TimeBase → TimeBase) : (s.modTime f).host = s.host := rfl
@[simp] theorem modTime_queues (s : State) (f : TimeBase → TimeBase) : (s.modTime f).queues = s.queues := rfl
@[simp] theorem modTime_events (s : State) (f : TimeBase → TimeBase) : (s.modTime f).events = s.events := rfl
@[simp] theorem modTime_counters (s : State) (f : TimeBase → TimeBase) : (s.modTime f).counters = s.counters := rfl
@[simp] theorem modTime_loader (s : State) (f : TimeBase → TimeBase) : (s.modTime f).loader = s.loader := rfl
@[simp] theorem modTime_facets (s : State) (f : TimeBase → TimeBase) : (s.modTime f).facets = s.facets := rfl
@[simp] theorem modTime_facetRam (s : State) (f : TimeBase → TimeBase) : (s.modTime f).facetRam = s.facetRam := rfl
@[simp] theorem modTime_collectors (s : State) (f : TimeBase → TimeBase) : (s.modTime f).collectors = s.collectors := rfl
@[simp] theorem modTime_near (s : State) (f : TimeBase → TimeBase) : (s.modTime f).near = s.near := rfl
@[simp] theorem modTime_hbm (s : State) (f : TimeBase → TimeBase) : (s.modTime f).hbm = s.hbm := rfl
@[simp] theorem modTime_flash (s : State) (f : TimeBase → TimeBase) : (s.modTime f).flash = s.flash := rfl
@[simp] theorem modTime_colls (s : State) (f : TimeBase → TimeBase) : (s.modTime f).colls = s.colls := rfl
@[simp] theorem modTime_pools (s : State) (f : TimeBase → TimeBase) : (s.modTime f).pools = s.pools := rfl
@[simp] theorem modTime_streams (s : State) (f : TimeBase → TimeBase) : (s.modTime f).streams = s.streams := rfl
@[simp] theorem modTime_search (s : State) (f : TimeBase → TimeBase) : (s.modTime f).search = s.search := rfl
@[simp] theorem modTime_fabric (s : State) (f : TimeBase → TimeBase) : (s.modTime f).fabric = s.fabric := rfl
@[simp] theorem modTime_learn (s : State) (f : TimeBase → TimeBase) : (s.modTime f).learn = s.learn := rfl
@[simp] theorem modTime_board (s : State) (f : TimeBase → TimeBase) : (s.modTime f).board = s.board := rfl

@[simp] theorem modPower_pending (s : State) (f : Power → Power) : (s.modPower f).pending = s.pending := rfl
@[simp] theorem modPower_out (s : State) (f : Power → Power) : (s.modPower f).out = s.out := rfl
@[simp] theorem modPower_free (s : State) (f : Power → Power) : (s.modPower f).free = s.free := rfl
@[simp] theorem modPower_time (s : State) (f : Power → Power) : (s.modPower f).time = s.time := rfl
@[simp] theorem modPower_power (s : State) (f : Power → Power) : (s.modPower f).power = f s.power := rfl
@[simp] theorem modPower_cores (s : State) (f : Power → Power) : (s.modPower f).cores = s.cores := rfl
@[simp] theorem modPower_locket (s : State) (f : Power → Power) : (s.modPower f).locket = s.locket := rfl
@[simp] theorem modPower_host (s : State) (f : Power → Power) : (s.modPower f).host = s.host := rfl
@[simp] theorem modPower_queues (s : State) (f : Power → Power) : (s.modPower f).queues = s.queues := rfl
@[simp] theorem modPower_events (s : State) (f : Power → Power) : (s.modPower f).events = s.events := rfl
@[simp] theorem modPower_counters (s : State) (f : Power → Power) : (s.modPower f).counters = s.counters := rfl
@[simp] theorem modPower_loader (s : State) (f : Power → Power) : (s.modPower f).loader = s.loader := rfl
@[simp] theorem modPower_facets (s : State) (f : Power → Power) : (s.modPower f).facets = s.facets := rfl
@[simp] theorem modPower_facetRam (s : State) (f : Power → Power) : (s.modPower f).facetRam = s.facetRam := rfl
@[simp] theorem modPower_collectors (s : State) (f : Power → Power) : (s.modPower f).collectors = s.collectors := rfl
@[simp] theorem modPower_near (s : State) (f : Power → Power) : (s.modPower f).near = s.near := rfl
@[simp] theorem modPower_hbm (s : State) (f : Power → Power) : (s.modPower f).hbm = s.hbm := rfl
@[simp] theorem modPower_flash (s : State) (f : Power → Power) : (s.modPower f).flash = s.flash := rfl
@[simp] theorem modPower_colls (s : State) (f : Power → Power) : (s.modPower f).colls = s.colls := rfl
@[simp] theorem modPower_pools (s : State) (f : Power → Power) : (s.modPower f).pools = s.pools := rfl
@[simp] theorem modPower_streams (s : State) (f : Power → Power) : (s.modPower f).streams = s.streams := rfl
@[simp] theorem modPower_search (s : State) (f : Power → Power) : (s.modPower f).search = s.search := rfl
@[simp] theorem modPower_fabric (s : State) (f : Power → Power) : (s.modPower f).fabric = s.fabric := rfl
@[simp] theorem modPower_learn (s : State) (f : Power → Power) : (s.modPower f).learn = s.learn := rfl
@[simp] theorem modPower_board (s : State) (f : Power → Power) : (s.modPower f).board = s.board := rfl

@[simp] theorem modCores_pending (s : State) (f : Cores → Cores) : (s.modCores f).pending = s.pending := rfl
@[simp] theorem modCores_out (s : State) (f : Cores → Cores) : (s.modCores f).out = s.out := rfl
@[simp] theorem modCores_free (s : State) (f : Cores → Cores) : (s.modCores f).free = s.free := rfl
@[simp] theorem modCores_time (s : State) (f : Cores → Cores) : (s.modCores f).time = s.time := rfl
@[simp] theorem modCores_power (s : State) (f : Cores → Cores) : (s.modCores f).power = s.power := rfl
@[simp] theorem modCores_cores (s : State) (f : Cores → Cores) : (s.modCores f).cores = f s.cores := rfl
@[simp] theorem modCores_locket (s : State) (f : Cores → Cores) : (s.modCores f).locket = s.locket := rfl
@[simp] theorem modCores_host (s : State) (f : Cores → Cores) : (s.modCores f).host = s.host := rfl
@[simp] theorem modCores_queues (s : State) (f : Cores → Cores) : (s.modCores f).queues = s.queues := rfl
@[simp] theorem modCores_events (s : State) (f : Cores → Cores) : (s.modCores f).events = s.events := rfl
@[simp] theorem modCores_counters (s : State) (f : Cores → Cores) : (s.modCores f).counters = s.counters := rfl
@[simp] theorem modCores_loader (s : State) (f : Cores → Cores) : (s.modCores f).loader = s.loader := rfl
@[simp] theorem modCores_facets (s : State) (f : Cores → Cores) : (s.modCores f).facets = s.facets := rfl
@[simp] theorem modCores_facetRam (s : State) (f : Cores → Cores) : (s.modCores f).facetRam = s.facetRam := rfl
@[simp] theorem modCores_collectors (s : State) (f : Cores → Cores) : (s.modCores f).collectors = s.collectors := rfl
@[simp] theorem modCores_near (s : State) (f : Cores → Cores) : (s.modCores f).near = s.near := rfl
@[simp] theorem modCores_hbm (s : State) (f : Cores → Cores) : (s.modCores f).hbm = s.hbm := rfl
@[simp] theorem modCores_flash (s : State) (f : Cores → Cores) : (s.modCores f).flash = s.flash := rfl
@[simp] theorem modCores_colls (s : State) (f : Cores → Cores) : (s.modCores f).colls = s.colls := rfl
@[simp] theorem modCores_pools (s : State) (f : Cores → Cores) : (s.modCores f).pools = s.pools := rfl
@[simp] theorem modCores_streams (s : State) (f : Cores → Cores) : (s.modCores f).streams = s.streams := rfl
@[simp] theorem modCores_search (s : State) (f : Cores → Cores) : (s.modCores f).search = s.search := rfl
@[simp] theorem modCores_fabric (s : State) (f : Cores → Cores) : (s.modCores f).fabric = s.fabric := rfl
@[simp] theorem modCores_learn (s : State) (f : Cores → Cores) : (s.modCores f).learn = s.learn := rfl
@[simp] theorem modCores_board (s : State) (f : Cores → Cores) : (s.modCores f).board = s.board := rfl

@[simp] theorem modLocket_pending (s : State) (f : Locket → Locket) : (s.modLocket f).pending = s.pending := rfl
@[simp] theorem modLocket_out (s : State) (f : Locket → Locket) : (s.modLocket f).out = s.out := rfl
@[simp] theorem modLocket_free (s : State) (f : Locket → Locket) : (s.modLocket f).free = s.free := rfl
@[simp] theorem modLocket_time (s : State) (f : Locket → Locket) : (s.modLocket f).time = s.time := rfl
@[simp] theorem modLocket_power (s : State) (f : Locket → Locket) : (s.modLocket f).power = s.power := rfl
@[simp] theorem modLocket_cores (s : State) (f : Locket → Locket) : (s.modLocket f).cores = s.cores := rfl
@[simp] theorem modLocket_locket (s : State) (f : Locket → Locket) : (s.modLocket f).locket = f s.locket := rfl
@[simp] theorem modLocket_host (s : State) (f : Locket → Locket) : (s.modLocket f).host = s.host := rfl
@[simp] theorem modLocket_queues (s : State) (f : Locket → Locket) : (s.modLocket f).queues = s.queues := rfl
@[simp] theorem modLocket_events (s : State) (f : Locket → Locket) : (s.modLocket f).events = s.events := rfl
@[simp] theorem modLocket_counters (s : State) (f : Locket → Locket) : (s.modLocket f).counters = s.counters := rfl
@[simp] theorem modLocket_loader (s : State) (f : Locket → Locket) : (s.modLocket f).loader = s.loader := rfl
@[simp] theorem modLocket_facets (s : State) (f : Locket → Locket) : (s.modLocket f).facets = s.facets := rfl
@[simp] theorem modLocket_facetRam (s : State) (f : Locket → Locket) : (s.modLocket f).facetRam = s.facetRam := rfl
@[simp] theorem modLocket_collectors (s : State) (f : Locket → Locket) : (s.modLocket f).collectors = s.collectors := rfl
@[simp] theorem modLocket_near (s : State) (f : Locket → Locket) : (s.modLocket f).near = s.near := rfl
@[simp] theorem modLocket_hbm (s : State) (f : Locket → Locket) : (s.modLocket f).hbm = s.hbm := rfl
@[simp] theorem modLocket_flash (s : State) (f : Locket → Locket) : (s.modLocket f).flash = s.flash := rfl
@[simp] theorem modLocket_colls (s : State) (f : Locket → Locket) : (s.modLocket f).colls = s.colls := rfl
@[simp] theorem modLocket_pools (s : State) (f : Locket → Locket) : (s.modLocket f).pools = s.pools := rfl
@[simp] theorem modLocket_streams (s : State) (f : Locket → Locket) : (s.modLocket f).streams = s.streams := rfl
@[simp] theorem modLocket_search (s : State) (f : Locket → Locket) : (s.modLocket f).search = s.search := rfl
@[simp] theorem modLocket_fabric (s : State) (f : Locket → Locket) : (s.modLocket f).fabric = s.fabric := rfl
@[simp] theorem modLocket_learn (s : State) (f : Locket → Locket) : (s.modLocket f).learn = s.learn := rfl
@[simp] theorem modLocket_board (s : State) (f : Locket → Locket) : (s.modLocket f).board = s.board := rfl

@[simp] theorem modHost_pending (s : State) (f : HostIf → HostIf) : (s.modHost f).pending = s.pending := rfl
@[simp] theorem modHost_out (s : State) (f : HostIf → HostIf) : (s.modHost f).out = s.out := rfl
@[simp] theorem modHost_free (s : State) (f : HostIf → HostIf) : (s.modHost f).free = s.free := rfl
@[simp] theorem modHost_time (s : State) (f : HostIf → HostIf) : (s.modHost f).time = s.time := rfl
@[simp] theorem modHost_power (s : State) (f : HostIf → HostIf) : (s.modHost f).power = s.power := rfl
@[simp] theorem modHost_cores (s : State) (f : HostIf → HostIf) : (s.modHost f).cores = s.cores := rfl
@[simp] theorem modHost_locket (s : State) (f : HostIf → HostIf) : (s.modHost f).locket = s.locket := rfl
@[simp] theorem modHost_host (s : State) (f : HostIf → HostIf) : (s.modHost f).host = f s.host := rfl
@[simp] theorem modHost_queues (s : State) (f : HostIf → HostIf) : (s.modHost f).queues = s.queues := rfl
@[simp] theorem modHost_events (s : State) (f : HostIf → HostIf) : (s.modHost f).events = s.events := rfl
@[simp] theorem modHost_counters (s : State) (f : HostIf → HostIf) : (s.modHost f).counters = s.counters := rfl
@[simp] theorem modHost_loader (s : State) (f : HostIf → HostIf) : (s.modHost f).loader = s.loader := rfl
@[simp] theorem modHost_facets (s : State) (f : HostIf → HostIf) : (s.modHost f).facets = s.facets := rfl
@[simp] theorem modHost_facetRam (s : State) (f : HostIf → HostIf) : (s.modHost f).facetRam = s.facetRam := rfl
@[simp] theorem modHost_collectors (s : State) (f : HostIf → HostIf) : (s.modHost f).collectors = s.collectors := rfl
@[simp] theorem modHost_near (s : State) (f : HostIf → HostIf) : (s.modHost f).near = s.near := rfl
@[simp] theorem modHost_hbm (s : State) (f : HostIf → HostIf) : (s.modHost f).hbm = s.hbm := rfl
@[simp] theorem modHost_flash (s : State) (f : HostIf → HostIf) : (s.modHost f).flash = s.flash := rfl
@[simp] theorem modHost_colls (s : State) (f : HostIf → HostIf) : (s.modHost f).colls = s.colls := rfl
@[simp] theorem modHost_pools (s : State) (f : HostIf → HostIf) : (s.modHost f).pools = s.pools := rfl
@[simp] theorem modHost_streams (s : State) (f : HostIf → HostIf) : (s.modHost f).streams = s.streams := rfl
@[simp] theorem modHost_search (s : State) (f : HostIf → HostIf) : (s.modHost f).search = s.search := rfl
@[simp] theorem modHost_fabric (s : State) (f : HostIf → HostIf) : (s.modHost f).fabric = s.fabric := rfl
@[simp] theorem modHost_learn (s : State) (f : HostIf → HostIf) : (s.modHost f).learn = s.learn := rfl
@[simp] theorem modHost_board (s : State) (f : HostIf → HostIf) : (s.modHost f).board = s.board := rfl

@[simp] theorem modQueues_pending (s : State) (f : Queues → Queues) : (s.modQueues f).pending = s.pending := rfl
@[simp] theorem modQueues_out (s : State) (f : Queues → Queues) : (s.modQueues f).out = s.out := rfl
@[simp] theorem modQueues_free (s : State) (f : Queues → Queues) : (s.modQueues f).free = s.free := rfl
@[simp] theorem modQueues_time (s : State) (f : Queues → Queues) : (s.modQueues f).time = s.time := rfl
@[simp] theorem modQueues_power (s : State) (f : Queues → Queues) : (s.modQueues f).power = s.power := rfl
@[simp] theorem modQueues_cores (s : State) (f : Queues → Queues) : (s.modQueues f).cores = s.cores := rfl
@[simp] theorem modQueues_locket (s : State) (f : Queues → Queues) : (s.modQueues f).locket = s.locket := rfl
@[simp] theorem modQueues_host (s : State) (f : Queues → Queues) : (s.modQueues f).host = s.host := rfl
@[simp] theorem modQueues_queues (s : State) (f : Queues → Queues) : (s.modQueues f).queues = f s.queues := rfl
@[simp] theorem modQueues_events (s : State) (f : Queues → Queues) : (s.modQueues f).events = s.events := rfl
@[simp] theorem modQueues_counters (s : State) (f : Queues → Queues) : (s.modQueues f).counters = s.counters := rfl
@[simp] theorem modQueues_loader (s : State) (f : Queues → Queues) : (s.modQueues f).loader = s.loader := rfl
@[simp] theorem modQueues_facets (s : State) (f : Queues → Queues) : (s.modQueues f).facets = s.facets := rfl
@[simp] theorem modQueues_facetRam (s : State) (f : Queues → Queues) : (s.modQueues f).facetRam = s.facetRam := rfl
@[simp] theorem modQueues_collectors (s : State) (f : Queues → Queues) : (s.modQueues f).collectors = s.collectors := rfl
@[simp] theorem modQueues_near (s : State) (f : Queues → Queues) : (s.modQueues f).near = s.near := rfl
@[simp] theorem modQueues_hbm (s : State) (f : Queues → Queues) : (s.modQueues f).hbm = s.hbm := rfl
@[simp] theorem modQueues_flash (s : State) (f : Queues → Queues) : (s.modQueues f).flash = s.flash := rfl
@[simp] theorem modQueues_colls (s : State) (f : Queues → Queues) : (s.modQueues f).colls = s.colls := rfl
@[simp] theorem modQueues_pools (s : State) (f : Queues → Queues) : (s.modQueues f).pools = s.pools := rfl
@[simp] theorem modQueues_streams (s : State) (f : Queues → Queues) : (s.modQueues f).streams = s.streams := rfl
@[simp] theorem modQueues_search (s : State) (f : Queues → Queues) : (s.modQueues f).search = s.search := rfl
@[simp] theorem modQueues_fabric (s : State) (f : Queues → Queues) : (s.modQueues f).fabric = s.fabric := rfl
@[simp] theorem modQueues_learn (s : State) (f : Queues → Queues) : (s.modQueues f).learn = s.learn := rfl
@[simp] theorem modQueues_board (s : State) (f : Queues → Queues) : (s.modQueues f).board = s.board := rfl

@[simp] theorem modLoader_pending (s : State) (f : Loader → Loader) : (s.modLoader f).pending = s.pending := rfl
@[simp] theorem modLoader_out (s : State) (f : Loader → Loader) : (s.modLoader f).out = s.out := rfl
@[simp] theorem modLoader_free (s : State) (f : Loader → Loader) : (s.modLoader f).free = s.free := rfl
@[simp] theorem modLoader_time (s : State) (f : Loader → Loader) : (s.modLoader f).time = s.time := rfl
@[simp] theorem modLoader_power (s : State) (f : Loader → Loader) : (s.modLoader f).power = s.power := rfl
@[simp] theorem modLoader_cores (s : State) (f : Loader → Loader) : (s.modLoader f).cores = s.cores := rfl
@[simp] theorem modLoader_locket (s : State) (f : Loader → Loader) : (s.modLoader f).locket = s.locket := rfl
@[simp] theorem modLoader_host (s : State) (f : Loader → Loader) : (s.modLoader f).host = s.host := rfl
@[simp] theorem modLoader_queues (s : State) (f : Loader → Loader) : (s.modLoader f).queues = s.queues := rfl
@[simp] theorem modLoader_events (s : State) (f : Loader → Loader) : (s.modLoader f).events = s.events := rfl
@[simp] theorem modLoader_counters (s : State) (f : Loader → Loader) : (s.modLoader f).counters = s.counters := rfl
@[simp] theorem modLoader_loader (s : State) (f : Loader → Loader) : (s.modLoader f).loader = f s.loader := rfl
@[simp] theorem modLoader_facets (s : State) (f : Loader → Loader) : (s.modLoader f).facets = s.facets := rfl
@[simp] theorem modLoader_facetRam (s : State) (f : Loader → Loader) : (s.modLoader f).facetRam = s.facetRam := rfl
@[simp] theorem modLoader_collectors (s : State) (f : Loader → Loader) : (s.modLoader f).collectors = s.collectors := rfl
@[simp] theorem modLoader_near (s : State) (f : Loader → Loader) : (s.modLoader f).near = s.near := rfl
@[simp] theorem modLoader_hbm (s : State) (f : Loader → Loader) : (s.modLoader f).hbm = s.hbm := rfl
@[simp] theorem modLoader_flash (s : State) (f : Loader → Loader) : (s.modLoader f).flash = s.flash := rfl
@[simp] theorem modLoader_colls (s : State) (f : Loader → Loader) : (s.modLoader f).colls = s.colls := rfl
@[simp] theorem modLoader_pools (s : State) (f : Loader → Loader) : (s.modLoader f).pools = s.pools := rfl
@[simp] theorem modLoader_streams (s : State) (f : Loader → Loader) : (s.modLoader f).streams = s.streams := rfl
@[simp] theorem modLoader_search (s : State) (f : Loader → Loader) : (s.modLoader f).search = s.search := rfl
@[simp] theorem modLoader_fabric (s : State) (f : Loader → Loader) : (s.modLoader f).fabric = s.fabric := rfl
@[simp] theorem modLoader_learn (s : State) (f : Loader → Loader) : (s.modLoader f).learn = s.learn := rfl
@[simp] theorem modLoader_board (s : State) (f : Loader → Loader) : (s.modLoader f).board = s.board := rfl

@[simp] theorem modNear_pending (s : State) (f : NearMem → NearMem) : (s.modNear f).pending = s.pending := rfl
@[simp] theorem modNear_out (s : State) (f : NearMem → NearMem) : (s.modNear f).out = s.out := rfl
@[simp] theorem modNear_free (s : State) (f : NearMem → NearMem) : (s.modNear f).free = s.free := rfl
@[simp] theorem modNear_time (s : State) (f : NearMem → NearMem) : (s.modNear f).time = s.time := rfl
@[simp] theorem modNear_power (s : State) (f : NearMem → NearMem) : (s.modNear f).power = s.power := rfl
@[simp] theorem modNear_cores (s : State) (f : NearMem → NearMem) : (s.modNear f).cores = s.cores := rfl
@[simp] theorem modNear_locket (s : State) (f : NearMem → NearMem) : (s.modNear f).locket = s.locket := rfl
@[simp] theorem modNear_host (s : State) (f : NearMem → NearMem) : (s.modNear f).host = s.host := rfl
@[simp] theorem modNear_queues (s : State) (f : NearMem → NearMem) : (s.modNear f).queues = s.queues := rfl
@[simp] theorem modNear_events (s : State) (f : NearMem → NearMem) : (s.modNear f).events = s.events := rfl
@[simp] theorem modNear_counters (s : State) (f : NearMem → NearMem) : (s.modNear f).counters = s.counters := rfl
@[simp] theorem modNear_loader (s : State) (f : NearMem → NearMem) : (s.modNear f).loader = s.loader := rfl
@[simp] theorem modNear_facets (s : State) (f : NearMem → NearMem) : (s.modNear f).facets = s.facets := rfl
@[simp] theorem modNear_facetRam (s : State) (f : NearMem → NearMem) : (s.modNear f).facetRam = s.facetRam := rfl
@[simp] theorem modNear_collectors (s : State) (f : NearMem → NearMem) : (s.modNear f).collectors = s.collectors := rfl
@[simp] theorem modNear_near (s : State) (f : NearMem → NearMem) : (s.modNear f).near = f s.near := rfl
@[simp] theorem modNear_hbm (s : State) (f : NearMem → NearMem) : (s.modNear f).hbm = s.hbm := rfl
@[simp] theorem modNear_flash (s : State) (f : NearMem → NearMem) : (s.modNear f).flash = s.flash := rfl
@[simp] theorem modNear_colls (s : State) (f : NearMem → NearMem) : (s.modNear f).colls = s.colls := rfl
@[simp] theorem modNear_pools (s : State) (f : NearMem → NearMem) : (s.modNear f).pools = s.pools := rfl
@[simp] theorem modNear_streams (s : State) (f : NearMem → NearMem) : (s.modNear f).streams = s.streams := rfl
@[simp] theorem modNear_search (s : State) (f : NearMem → NearMem) : (s.modNear f).search = s.search := rfl
@[simp] theorem modNear_fabric (s : State) (f : NearMem → NearMem) : (s.modNear f).fabric = s.fabric := rfl
@[simp] theorem modNear_learn (s : State) (f : NearMem → NearMem) : (s.modNear f).learn = s.learn := rfl
@[simp] theorem modNear_board (s : State) (f : NearMem → NearMem) : (s.modNear f).board = s.board := rfl

@[simp] theorem modHbm_pending (s : State) (f : Hbm → Hbm) : (s.modHbm f).pending = s.pending := rfl
@[simp] theorem modHbm_out (s : State) (f : Hbm → Hbm) : (s.modHbm f).out = s.out := rfl
@[simp] theorem modHbm_free (s : State) (f : Hbm → Hbm) : (s.modHbm f).free = s.free := rfl
@[simp] theorem modHbm_time (s : State) (f : Hbm → Hbm) : (s.modHbm f).time = s.time := rfl
@[simp] theorem modHbm_power (s : State) (f : Hbm → Hbm) : (s.modHbm f).power = s.power := rfl
@[simp] theorem modHbm_cores (s : State) (f : Hbm → Hbm) : (s.modHbm f).cores = s.cores := rfl
@[simp] theorem modHbm_locket (s : State) (f : Hbm → Hbm) : (s.modHbm f).locket = s.locket := rfl
@[simp] theorem modHbm_host (s : State) (f : Hbm → Hbm) : (s.modHbm f).host = s.host := rfl
@[simp] theorem modHbm_queues (s : State) (f : Hbm → Hbm) : (s.modHbm f).queues = s.queues := rfl
@[simp] theorem modHbm_events (s : State) (f : Hbm → Hbm) : (s.modHbm f).events = s.events := rfl
@[simp] theorem modHbm_counters (s : State) (f : Hbm → Hbm) : (s.modHbm f).counters = s.counters := rfl
@[simp] theorem modHbm_loader (s : State) (f : Hbm → Hbm) : (s.modHbm f).loader = s.loader := rfl
@[simp] theorem modHbm_facets (s : State) (f : Hbm → Hbm) : (s.modHbm f).facets = s.facets := rfl
@[simp] theorem modHbm_facetRam (s : State) (f : Hbm → Hbm) : (s.modHbm f).facetRam = s.facetRam := rfl
@[simp] theorem modHbm_collectors (s : State) (f : Hbm → Hbm) : (s.modHbm f).collectors = s.collectors := rfl
@[simp] theorem modHbm_near (s : State) (f : Hbm → Hbm) : (s.modHbm f).near = s.near := rfl
@[simp] theorem modHbm_hbm (s : State) (f : Hbm → Hbm) : (s.modHbm f).hbm = f s.hbm := rfl
@[simp] theorem modHbm_flash (s : State) (f : Hbm → Hbm) : (s.modHbm f).flash = s.flash := rfl
@[simp] theorem modHbm_colls (s : State) (f : Hbm → Hbm) : (s.modHbm f).colls = s.colls := rfl
@[simp] theorem modHbm_pools (s : State) (f : Hbm → Hbm) : (s.modHbm f).pools = s.pools := rfl
@[simp] theorem modHbm_streams (s : State) (f : Hbm → Hbm) : (s.modHbm f).streams = s.streams := rfl
@[simp] theorem modHbm_search (s : State) (f : Hbm → Hbm) : (s.modHbm f).search = s.search := rfl
@[simp] theorem modHbm_fabric (s : State) (f : Hbm → Hbm) : (s.modHbm f).fabric = s.fabric := rfl
@[simp] theorem modHbm_learn (s : State) (f : Hbm → Hbm) : (s.modHbm f).learn = s.learn := rfl
@[simp] theorem modHbm_board (s : State) (f : Hbm → Hbm) : (s.modHbm f).board = s.board := rfl

@[simp] theorem modFlash_pending (s : State) (f : Flash → Flash) : (s.modFlash f).pending = s.pending := rfl
@[simp] theorem modFlash_out (s : State) (f : Flash → Flash) : (s.modFlash f).out = s.out := rfl
@[simp] theorem modFlash_free (s : State) (f : Flash → Flash) : (s.modFlash f).free = s.free := rfl
@[simp] theorem modFlash_time (s : State) (f : Flash → Flash) : (s.modFlash f).time = s.time := rfl
@[simp] theorem modFlash_power (s : State) (f : Flash → Flash) : (s.modFlash f).power = s.power := rfl
@[simp] theorem modFlash_cores (s : State) (f : Flash → Flash) : (s.modFlash f).cores = s.cores := rfl
@[simp] theorem modFlash_locket (s : State) (f : Flash → Flash) : (s.modFlash f).locket = s.locket := rfl
@[simp] theorem modFlash_host (s : State) (f : Flash → Flash) : (s.modFlash f).host = s.host := rfl
@[simp] theorem modFlash_queues (s : State) (f : Flash → Flash) : (s.modFlash f).queues = s.queues := rfl
@[simp] theorem modFlash_events (s : State) (f : Flash → Flash) : (s.modFlash f).events = s.events := rfl
@[simp] theorem modFlash_counters (s : State) (f : Flash → Flash) : (s.modFlash f).counters = s.counters := rfl
@[simp] theorem modFlash_loader (s : State) (f : Flash → Flash) : (s.modFlash f).loader = s.loader := rfl
@[simp] theorem modFlash_facets (s : State) (f : Flash → Flash) : (s.modFlash f).facets = s.facets := rfl
@[simp] theorem modFlash_facetRam (s : State) (f : Flash → Flash) : (s.modFlash f).facetRam = s.facetRam := rfl
@[simp] theorem modFlash_collectors (s : State) (f : Flash → Flash) : (s.modFlash f).collectors = s.collectors := rfl
@[simp] theorem modFlash_near (s : State) (f : Flash → Flash) : (s.modFlash f).near = s.near := rfl
@[simp] theorem modFlash_hbm (s : State) (f : Flash → Flash) : (s.modFlash f).hbm = s.hbm := rfl
@[simp] theorem modFlash_flash (s : State) (f : Flash → Flash) : (s.modFlash f).flash = f s.flash := rfl
@[simp] theorem modFlash_colls (s : State) (f : Flash → Flash) : (s.modFlash f).colls = s.colls := rfl
@[simp] theorem modFlash_pools (s : State) (f : Flash → Flash) : (s.modFlash f).pools = s.pools := rfl
@[simp] theorem modFlash_streams (s : State) (f : Flash → Flash) : (s.modFlash f).streams = s.streams := rfl
@[simp] theorem modFlash_search (s : State) (f : Flash → Flash) : (s.modFlash f).search = s.search := rfl
@[simp] theorem modFlash_fabric (s : State) (f : Flash → Flash) : (s.modFlash f).fabric = s.fabric := rfl
@[simp] theorem modFlash_learn (s : State) (f : Flash → Flash) : (s.modFlash f).learn = s.learn := rfl
@[simp] theorem modFlash_board (s : State) (f : Flash → Flash) : (s.modFlash f).board = s.board := rfl

@[simp] theorem modPools_pending (s : State) (f : Pools → Pools) : (s.modPools f).pending = s.pending := rfl
@[simp] theorem modPools_out (s : State) (f : Pools → Pools) : (s.modPools f).out = s.out := rfl
@[simp] theorem modPools_free (s : State) (f : Pools → Pools) : (s.modPools f).free = s.free := rfl
@[simp] theorem modPools_time (s : State) (f : Pools → Pools) : (s.modPools f).time = s.time := rfl
@[simp] theorem modPools_power (s : State) (f : Pools → Pools) : (s.modPools f).power = s.power := rfl
@[simp] theorem modPools_cores (s : State) (f : Pools → Pools) : (s.modPools f).cores = s.cores := rfl
@[simp] theorem modPools_locket (s : State) (f : Pools → Pools) : (s.modPools f).locket = s.locket := rfl
@[simp] theorem modPools_host (s : State) (f : Pools → Pools) : (s.modPools f).host = s.host := rfl
@[simp] theorem modPools_queues (s : State) (f : Pools → Pools) : (s.modPools f).queues = s.queues := rfl
@[simp] theorem modPools_events (s : State) (f : Pools → Pools) : (s.modPools f).events = s.events := rfl
@[simp] theorem modPools_counters (s : State) (f : Pools → Pools) : (s.modPools f).counters = s.counters := rfl
@[simp] theorem modPools_loader (s : State) (f : Pools → Pools) : (s.modPools f).loader = s.loader := rfl
@[simp] theorem modPools_facets (s : State) (f : Pools → Pools) : (s.modPools f).facets = s.facets := rfl
@[simp] theorem modPools_facetRam (s : State) (f : Pools → Pools) : (s.modPools f).facetRam = s.facetRam := rfl
@[simp] theorem modPools_collectors (s : State) (f : Pools → Pools) : (s.modPools f).collectors = s.collectors := rfl
@[simp] theorem modPools_near (s : State) (f : Pools → Pools) : (s.modPools f).near = s.near := rfl
@[simp] theorem modPools_hbm (s : State) (f : Pools → Pools) : (s.modPools f).hbm = s.hbm := rfl
@[simp] theorem modPools_flash (s : State) (f : Pools → Pools) : (s.modPools f).flash = s.flash := rfl
@[simp] theorem modPools_colls (s : State) (f : Pools → Pools) : (s.modPools f).colls = s.colls := rfl
@[simp] theorem modPools_pools (s : State) (f : Pools → Pools) : (s.modPools f).pools = f s.pools := rfl
@[simp] theorem modPools_streams (s : State) (f : Pools → Pools) : (s.modPools f).streams = s.streams := rfl
@[simp] theorem modPools_search (s : State) (f : Pools → Pools) : (s.modPools f).search = s.search := rfl
@[simp] theorem modPools_fabric (s : State) (f : Pools → Pools) : (s.modPools f).fabric = s.fabric := rfl
@[simp] theorem modPools_learn (s : State) (f : Pools → Pools) : (s.modPools f).learn = s.learn := rfl
@[simp] theorem modPools_board (s : State) (f : Pools → Pools) : (s.modPools f).board = s.board := rfl

@[simp] theorem modStreams_pending (s : State) (f : Streams → Streams) : (s.modStreams f).pending = s.pending := rfl
@[simp] theorem modStreams_out (s : State) (f : Streams → Streams) : (s.modStreams f).out = s.out := rfl
@[simp] theorem modStreams_free (s : State) (f : Streams → Streams) : (s.modStreams f).free = s.free := rfl
@[simp] theorem modStreams_time (s : State) (f : Streams → Streams) : (s.modStreams f).time = s.time := rfl
@[simp] theorem modStreams_power (s : State) (f : Streams → Streams) : (s.modStreams f).power = s.power := rfl
@[simp] theorem modStreams_cores (s : State) (f : Streams → Streams) : (s.modStreams f).cores = s.cores := rfl
@[simp] theorem modStreams_locket (s : State) (f : Streams → Streams) : (s.modStreams f).locket = s.locket := rfl
@[simp] theorem modStreams_host (s : State) (f : Streams → Streams) : (s.modStreams f).host = s.host := rfl
@[simp] theorem modStreams_queues (s : State) (f : Streams → Streams) : (s.modStreams f).queues = s.queues := rfl
@[simp] theorem modStreams_events (s : State) (f : Streams → Streams) : (s.modStreams f).events = s.events := rfl
@[simp] theorem modStreams_counters (s : State) (f : Streams → Streams) : (s.modStreams f).counters = s.counters := rfl
@[simp] theorem modStreams_loader (s : State) (f : Streams → Streams) : (s.modStreams f).loader = s.loader := rfl
@[simp] theorem modStreams_facets (s : State) (f : Streams → Streams) : (s.modStreams f).facets = s.facets := rfl
@[simp] theorem modStreams_facetRam (s : State) (f : Streams → Streams) : (s.modStreams f).facetRam = s.facetRam := rfl
@[simp] theorem modStreams_collectors (s : State) (f : Streams → Streams) : (s.modStreams f).collectors = s.collectors := rfl
@[simp] theorem modStreams_near (s : State) (f : Streams → Streams) : (s.modStreams f).near = s.near := rfl
@[simp] theorem modStreams_hbm (s : State) (f : Streams → Streams) : (s.modStreams f).hbm = s.hbm := rfl
@[simp] theorem modStreams_flash (s : State) (f : Streams → Streams) : (s.modStreams f).flash = s.flash := rfl
@[simp] theorem modStreams_colls (s : State) (f : Streams → Streams) : (s.modStreams f).colls = s.colls := rfl
@[simp] theorem modStreams_pools (s : State) (f : Streams → Streams) : (s.modStreams f).pools = s.pools := rfl
@[simp] theorem modStreams_streams (s : State) (f : Streams → Streams) : (s.modStreams f).streams = f s.streams := rfl
@[simp] theorem modStreams_search (s : State) (f : Streams → Streams) : (s.modStreams f).search = s.search := rfl
@[simp] theorem modStreams_fabric (s : State) (f : Streams → Streams) : (s.modStreams f).fabric = s.fabric := rfl
@[simp] theorem modStreams_learn (s : State) (f : Streams → Streams) : (s.modStreams f).learn = s.learn := rfl
@[simp] theorem modStreams_board (s : State) (f : Streams → Streams) : (s.modStreams f).board = s.board := rfl

@[simp] theorem modSearch_pending (s : State) (f : Search → Search) : (s.modSearch f).pending = s.pending := rfl
@[simp] theorem modSearch_out (s : State) (f : Search → Search) : (s.modSearch f).out = s.out := rfl
@[simp] theorem modSearch_free (s : State) (f : Search → Search) : (s.modSearch f).free = s.free := rfl
@[simp] theorem modSearch_time (s : State) (f : Search → Search) : (s.modSearch f).time = s.time := rfl
@[simp] theorem modSearch_power (s : State) (f : Search → Search) : (s.modSearch f).power = s.power := rfl
@[simp] theorem modSearch_cores (s : State) (f : Search → Search) : (s.modSearch f).cores = s.cores := rfl
@[simp] theorem modSearch_locket (s : State) (f : Search → Search) : (s.modSearch f).locket = s.locket := rfl
@[simp] theorem modSearch_host (s : State) (f : Search → Search) : (s.modSearch f).host = s.host := rfl
@[simp] theorem modSearch_queues (s : State) (f : Search → Search) : (s.modSearch f).queues = s.queues := rfl
@[simp] theorem modSearch_events (s : State) (f : Search → Search) : (s.modSearch f).events = s.events := rfl
@[simp] theorem modSearch_counters (s : State) (f : Search → Search) : (s.modSearch f).counters = s.counters := rfl
@[simp] theorem modSearch_loader (s : State) (f : Search → Search) : (s.modSearch f).loader = s.loader := rfl
@[simp] theorem modSearch_facets (s : State) (f : Search → Search) : (s.modSearch f).facets = s.facets := rfl
@[simp] theorem modSearch_facetRam (s : State) (f : Search → Search) : (s.modSearch f).facetRam = s.facetRam := rfl
@[simp] theorem modSearch_collectors (s : State) (f : Search → Search) : (s.modSearch f).collectors = s.collectors := rfl
@[simp] theorem modSearch_near (s : State) (f : Search → Search) : (s.modSearch f).near = s.near := rfl
@[simp] theorem modSearch_hbm (s : State) (f : Search → Search) : (s.modSearch f).hbm = s.hbm := rfl
@[simp] theorem modSearch_flash (s : State) (f : Search → Search) : (s.modSearch f).flash = s.flash := rfl
@[simp] theorem modSearch_colls (s : State) (f : Search → Search) : (s.modSearch f).colls = s.colls := rfl
@[simp] theorem modSearch_pools (s : State) (f : Search → Search) : (s.modSearch f).pools = s.pools := rfl
@[simp] theorem modSearch_streams (s : State) (f : Search → Search) : (s.modSearch f).streams = s.streams := rfl
@[simp] theorem modSearch_search (s : State) (f : Search → Search) : (s.modSearch f).search = f s.search := rfl
@[simp] theorem modSearch_fabric (s : State) (f : Search → Search) : (s.modSearch f).fabric = s.fabric := rfl
@[simp] theorem modSearch_learn (s : State) (f : Search → Search) : (s.modSearch f).learn = s.learn := rfl
@[simp] theorem modSearch_board (s : State) (f : Search → Search) : (s.modSearch f).board = s.board := rfl

@[simp] theorem modFabric_pending (s : State) (f : Fabric → Fabric) : (s.modFabric f).pending = s.pending := rfl
@[simp] theorem modFabric_out (s : State) (f : Fabric → Fabric) : (s.modFabric f).out = s.out := rfl
@[simp] theorem modFabric_free (s : State) (f : Fabric → Fabric) : (s.modFabric f).free = s.free := rfl
@[simp] theorem modFabric_time (s : State) (f : Fabric → Fabric) : (s.modFabric f).time = s.time := rfl
@[simp] theorem modFabric_power (s : State) (f : Fabric → Fabric) : (s.modFabric f).power = s.power := rfl
@[simp] theorem modFabric_cores (s : State) (f : Fabric → Fabric) : (s.modFabric f).cores = s.cores := rfl
@[simp] theorem modFabric_locket (s : State) (f : Fabric → Fabric) : (s.modFabric f).locket = s.locket := rfl
@[simp] theorem modFabric_host (s : State) (f : Fabric → Fabric) : (s.modFabric f).host = s.host := rfl
@[simp] theorem modFabric_queues (s : State) (f : Fabric → Fabric) : (s.modFabric f).queues = s.queues := rfl
@[simp] theorem modFabric_events (s : State) (f : Fabric → Fabric) : (s.modFabric f).events = s.events := rfl
@[simp] theorem modFabric_counters (s : State) (f : Fabric → Fabric) : (s.modFabric f).counters = s.counters := rfl
@[simp] theorem modFabric_loader (s : State) (f : Fabric → Fabric) : (s.modFabric f).loader = s.loader := rfl
@[simp] theorem modFabric_facets (s : State) (f : Fabric → Fabric) : (s.modFabric f).facets = s.facets := rfl
@[simp] theorem modFabric_facetRam (s : State) (f : Fabric → Fabric) : (s.modFabric f).facetRam = s.facetRam := rfl
@[simp] theorem modFabric_collectors (s : State) (f : Fabric → Fabric) : (s.modFabric f).collectors = s.collectors := rfl
@[simp] theorem modFabric_near (s : State) (f : Fabric → Fabric) : (s.modFabric f).near = s.near := rfl
@[simp] theorem modFabric_hbm (s : State) (f : Fabric → Fabric) : (s.modFabric f).hbm = s.hbm := rfl
@[simp] theorem modFabric_flash (s : State) (f : Fabric → Fabric) : (s.modFabric f).flash = s.flash := rfl
@[simp] theorem modFabric_colls (s : State) (f : Fabric → Fabric) : (s.modFabric f).colls = s.colls := rfl
@[simp] theorem modFabric_pools (s : State) (f : Fabric → Fabric) : (s.modFabric f).pools = s.pools := rfl
@[simp] theorem modFabric_streams (s : State) (f : Fabric → Fabric) : (s.modFabric f).streams = s.streams := rfl
@[simp] theorem modFabric_search (s : State) (f : Fabric → Fabric) : (s.modFabric f).search = s.search := rfl
@[simp] theorem modFabric_fabric (s : State) (f : Fabric → Fabric) : (s.modFabric f).fabric = f s.fabric := rfl
@[simp] theorem modFabric_learn (s : State) (f : Fabric → Fabric) : (s.modFabric f).learn = s.learn := rfl
@[simp] theorem modFabric_board (s : State) (f : Fabric → Fabric) : (s.modFabric f).board = s.board := rfl

@[simp] theorem modLearn_pending (s : State) (f : Learn → Learn) : (s.modLearn f).pending = s.pending := rfl
@[simp] theorem modLearn_out (s : State) (f : Learn → Learn) : (s.modLearn f).out = s.out := rfl
@[simp] theorem modLearn_free (s : State) (f : Learn → Learn) : (s.modLearn f).free = s.free := rfl
@[simp] theorem modLearn_time (s : State) (f : Learn → Learn) : (s.modLearn f).time = s.time := rfl
@[simp] theorem modLearn_power (s : State) (f : Learn → Learn) : (s.modLearn f).power = s.power := rfl
@[simp] theorem modLearn_cores (s : State) (f : Learn → Learn) : (s.modLearn f).cores = s.cores := rfl
@[simp] theorem modLearn_locket (s : State) (f : Learn → Learn) : (s.modLearn f).locket = s.locket := rfl
@[simp] theorem modLearn_host (s : State) (f : Learn → Learn) : (s.modLearn f).host = s.host := rfl
@[simp] theorem modLearn_queues (s : State) (f : Learn → Learn) : (s.modLearn f).queues = s.queues := rfl
@[simp] theorem modLearn_events (s : State) (f : Learn → Learn) : (s.modLearn f).events = s.events := rfl
@[simp] theorem modLearn_counters (s : State) (f : Learn → Learn) : (s.modLearn f).counters = s.counters := rfl
@[simp] theorem modLearn_loader (s : State) (f : Learn → Learn) : (s.modLearn f).loader = s.loader := rfl
@[simp] theorem modLearn_facets (s : State) (f : Learn → Learn) : (s.modLearn f).facets = s.facets := rfl
@[simp] theorem modLearn_facetRam (s : State) (f : Learn → Learn) : (s.modLearn f).facetRam = s.facetRam := rfl
@[simp] theorem modLearn_collectors (s : State) (f : Learn → Learn) : (s.modLearn f).collectors = s.collectors := rfl
@[simp] theorem modLearn_near (s : State) (f : Learn → Learn) : (s.modLearn f).near = s.near := rfl
@[simp] theorem modLearn_hbm (s : State) (f : Learn → Learn) : (s.modLearn f).hbm = s.hbm := rfl
@[simp] theorem modLearn_flash (s : State) (f : Learn → Learn) : (s.modLearn f).flash = s.flash := rfl
@[simp] theorem modLearn_colls (s : State) (f : Learn → Learn) : (s.modLearn f).colls = s.colls := rfl
@[simp] theorem modLearn_pools (s : State) (f : Learn → Learn) : (s.modLearn f).pools = s.pools := rfl
@[simp] theorem modLearn_streams (s : State) (f : Learn → Learn) : (s.modLearn f).streams = s.streams := rfl
@[simp] theorem modLearn_search (s : State) (f : Learn → Learn) : (s.modLearn f).search = s.search := rfl
@[simp] theorem modLearn_fabric (s : State) (f : Learn → Learn) : (s.modLearn f).fabric = s.fabric := rfl
@[simp] theorem modLearn_learn (s : State) (f : Learn → Learn) : (s.modLearn f).learn = f s.learn := rfl
@[simp] theorem modLearn_board (s : State) (f : Learn → Learn) : (s.modLearn f).board = s.board := rfl

@[simp] theorem emit_pending (s : State) (o : Out) : (emit s o).pending = s.pending := rfl
@[simp] theorem emit_out (s : State) (o : Out) : (emit s o).out = o :: s.out := rfl
@[simp] theorem emit_free (s : State) (o : Out) : (emit s o).free = s.free := rfl
@[simp] theorem emit_time (s : State) (o : Out) : (emit s o).time = s.time := rfl
@[simp] theorem emit_power (s : State) (o : Out) : (emit s o).power = s.power := rfl
@[simp] theorem emit_cores (s : State) (o : Out) : (emit s o).cores = s.cores := rfl
@[simp] theorem emit_locket (s : State) (o : Out) : (emit s o).locket = s.locket := rfl
@[simp] theorem emit_host (s : State) (o : Out) : (emit s o).host = s.host := rfl
@[simp] theorem emit_queues (s : State) (o : Out) : (emit s o).queues = s.queues := rfl
@[simp] theorem emit_events (s : State) (o : Out) : (emit s o).events = s.events := rfl
@[simp] theorem emit_counters (s : State) (o : Out) : (emit s o).counters = s.counters := rfl
@[simp] theorem emit_loader (s : State) (o : Out) : (emit s o).loader = s.loader := rfl
@[simp] theorem emit_facets (s : State) (o : Out) : (emit s o).facets = s.facets := rfl
@[simp] theorem emit_facetRam (s : State) (o : Out) : (emit s o).facetRam = s.facetRam := rfl
@[simp] theorem emit_collectors (s : State) (o : Out) : (emit s o).collectors = s.collectors := rfl
@[simp] theorem emit_near (s : State) (o : Out) : (emit s o).near = s.near := rfl
@[simp] theorem emit_hbm (s : State) (o : Out) : (emit s o).hbm = s.hbm := rfl
@[simp] theorem emit_flash (s : State) (o : Out) : (emit s o).flash = s.flash := rfl
@[simp] theorem emit_colls (s : State) (o : Out) : (emit s o).colls = s.colls := rfl
@[simp] theorem emit_pools (s : State) (o : Out) : (emit s o).pools = s.pools := rfl
@[simp] theorem emit_streams (s : State) (o : Out) : (emit s o).streams = s.streams := rfl
@[simp] theorem emit_search (s : State) (o : Out) : (emit s o).search = s.search := rfl
@[simp] theorem emit_fabric (s : State) (o : Out) : (emit s o).fabric = s.fabric := rfl
@[simp] theorem emit_learn (s : State) (o : Out) : (emit s o).learn = s.learn := rfl
@[simp] theorem emit_board (s : State) (o : Out) : (emit s o).board = s.board := rfl

@[simp] theorem setConn_pending (s : State) (c : Nat) (v : Conn) : (setConn s c v).pending = s.pending := rfl
@[simp] theorem setConn_out (s : State) (c : Nat) (v : Conn) : (setConn s c v).out = s.out := rfl
@[simp] theorem setConn_free (s : State) (c : Nat) (v : Conn) : (setConn s c v).free = s.free := rfl
@[simp] theorem setConn_time (s : State) (c : Nat) (v : Conn) : (setConn s c v).time = s.time := rfl
@[simp] theorem setConn_power (s : State) (c : Nat) (v : Conn) : (setConn s c v).power = s.power := rfl
@[simp] theorem setConn_cores (s : State) (c : Nat) (v : Conn) : (setConn s c v).cores = s.cores := rfl
@[simp] theorem setConn_locket (s : State) (c : Nat) (v : Conn) : (setConn s c v).locket = s.locket := rfl
@[simp] theorem setConn_host (s : State) (c : Nat) (v : Conn) : (setConn s c v).host = { s.host with conns := s.host.conns.put c v } := rfl
@[simp] theorem setConn_queues (s : State) (c : Nat) (v : Conn) : (setConn s c v).queues = s.queues := rfl
@[simp] theorem setConn_events (s : State) (c : Nat) (v : Conn) : (setConn s c v).events = s.events := rfl
@[simp] theorem setConn_counters (s : State) (c : Nat) (v : Conn) : (setConn s c v).counters = s.counters := rfl
@[simp] theorem setConn_loader (s : State) (c : Nat) (v : Conn) : (setConn s c v).loader = s.loader := rfl
@[simp] theorem setConn_facets (s : State) (c : Nat) (v : Conn) : (setConn s c v).facets = s.facets := rfl
@[simp] theorem setConn_facetRam (s : State) (c : Nat) (v : Conn) : (setConn s c v).facetRam = s.facetRam := rfl
@[simp] theorem setConn_collectors (s : State) (c : Nat) (v : Conn) : (setConn s c v).collectors = s.collectors := rfl
@[simp] theorem setConn_near (s : State) (c : Nat) (v : Conn) : (setConn s c v).near = s.near := rfl
@[simp] theorem setConn_hbm (s : State) (c : Nat) (v : Conn) : (setConn s c v).hbm = s.hbm := rfl
@[simp] theorem setConn_flash (s : State) (c : Nat) (v : Conn) : (setConn s c v).flash = s.flash := rfl
@[simp] theorem setConn_colls (s : State) (c : Nat) (v : Conn) : (setConn s c v).colls = s.colls := rfl
@[simp] theorem setConn_pools (s : State) (c : Nat) (v : Conn) : (setConn s c v).pools = s.pools := rfl
@[simp] theorem setConn_streams (s : State) (c : Nat) (v : Conn) : (setConn s c v).streams = s.streams := rfl
@[simp] theorem setConn_search (s : State) (c : Nat) (v : Conn) : (setConn s c v).search = s.search := rfl
@[simp] theorem setConn_fabric (s : State) (c : Nat) (v : Conn) : (setConn s c v).fabric = s.fabric := rfl
@[simp] theorem setConn_learn (s : State) (c : Nat) (v : Conn) : (setConn s c v).learn = s.learn := rfl
@[simp] theorem setConn_board (s : State) (c : Nat) (v : Conn) : (setConn s c v).board = s.board := rfl

@[simp] theorem setColl_pending (s : State) (c : Nat) (v : Coll) : (setColl s c v).pending = s.pending := rfl
@[simp] theorem setColl_out (s : State) (c : Nat) (v : Coll) : (setColl s c v).out = s.out := rfl
@[simp] theorem setColl_free (s : State) (c : Nat) (v : Coll) : (setColl s c v).free = s.free := rfl
@[simp] theorem setColl_time (s : State) (c : Nat) (v : Coll) : (setColl s c v).time = s.time := rfl
@[simp] theorem setColl_power (s : State) (c : Nat) (v : Coll) : (setColl s c v).power = s.power := rfl
@[simp] theorem setColl_cores (s : State) (c : Nat) (v : Coll) : (setColl s c v).cores = s.cores := rfl
@[simp] theorem setColl_locket (s : State) (c : Nat) (v : Coll) : (setColl s c v).locket = s.locket := rfl
@[simp] theorem setColl_host (s : State) (c : Nat) (v : Coll) : (setColl s c v).host = s.host := rfl
@[simp] theorem setColl_queues (s : State) (c : Nat) (v : Coll) : (setColl s c v).queues = s.queues := rfl
@[simp] theorem setColl_events (s : State) (c : Nat) (v : Coll) : (setColl s c v).events = s.events := rfl
@[simp] theorem setColl_counters (s : State) (c : Nat) (v : Coll) : (setColl s c v).counters = s.counters := rfl
@[simp] theorem setColl_loader (s : State) (c : Nat) (v : Coll) : (setColl s c v).loader = s.loader := rfl
@[simp] theorem setColl_facets (s : State) (c : Nat) (v : Coll) : (setColl s c v).facets = s.facets := rfl
@[simp] theorem setColl_facetRam (s : State) (c : Nat) (v : Coll) : (setColl s c v).facetRam = s.facetRam := rfl
@[simp] theorem setColl_collectors (s : State) (c : Nat) (v : Coll) : (setColl s c v).collectors = s.collectors := rfl
@[simp] theorem setColl_near (s : State) (c : Nat) (v : Coll) : (setColl s c v).near = s.near := rfl
@[simp] theorem setColl_hbm (s : State) (c : Nat) (v : Coll) : (setColl s c v).hbm = s.hbm := rfl
@[simp] theorem setColl_flash (s : State) (c : Nat) (v : Coll) : (setColl s c v).flash = s.flash := rfl
@[simp] theorem setColl_colls (s : State) (c : Nat) (v : Coll) : (setColl s c v).colls = s.colls.put c v := rfl
@[simp] theorem setColl_pools (s : State) (c : Nat) (v : Coll) : (setColl s c v).pools = s.pools := rfl
@[simp] theorem setColl_streams (s : State) (c : Nat) (v : Coll) : (setColl s c v).streams = s.streams := rfl
@[simp] theorem setColl_search (s : State) (c : Nat) (v : Coll) : (setColl s c v).search = s.search := rfl
@[simp] theorem setColl_fabric (s : State) (c : Nat) (v : Coll) : (setColl s c v).fabric = s.fabric := rfl
@[simp] theorem setColl_learn (s : State) (c : Nat) (v : Coll) : (setColl s c v).learn = s.learn := rfl
@[simp] theorem setColl_board (s : State) (c : Nat) (v : Coll) : (setColl s c v).board = s.board := rfl

@[simp] theorem updColl_pending (s : State) (c : Nat) (f : Coll → Coll) : (updColl s c f).pending = s.pending := rfl
@[simp] theorem updColl_out (s : State) (c : Nat) (f : Coll → Coll) : (updColl s c f).out = s.out := rfl
@[simp] theorem updColl_free (s : State) (c : Nat) (f : Coll → Coll) : (updColl s c f).free = s.free := rfl
@[simp] theorem updColl_time (s : State) (c : Nat) (f : Coll → Coll) : (updColl s c f).time = s.time := rfl
@[simp] theorem updColl_power (s : State) (c : Nat) (f : Coll → Coll) : (updColl s c f).power = s.power := rfl
@[simp] theorem updColl_cores (s : State) (c : Nat) (f : Coll → Coll) : (updColl s c f).cores = s.cores := rfl
@[simp] theorem updColl_locket (s : State) (c : Nat) (f : Coll → Coll) : (updColl s c f).locket = s.locket := rfl
@[simp] theorem updColl_host (s : State) (c : Nat) (f : Coll → Coll) : (updColl s c f).host = s.host := rfl
@[simp] theorem updColl_queues (s : State) (c : Nat) (f : Coll → Coll) : (updColl s c f).queues = s.queues := rfl
@[simp] theorem updColl_events (s : State) (c : Nat) (f : Coll → Coll) : (updColl s c f).events = s.events := rfl
@[simp] theorem updColl_counters (s : State) (c : Nat) (f : Coll → Coll) : (updColl s c f).counters = s.counters := rfl
@[simp] theorem updColl_loader (s : State) (c : Nat) (f : Coll → Coll) : (updColl s c f).loader = s.loader := rfl
@[simp] theorem updColl_facets (s : State) (c : Nat) (f : Coll → Coll) : (updColl s c f).facets = s.facets := rfl
@[simp] theorem updColl_facetRam (s : State) (c : Nat) (f : Coll → Coll) : (updColl s c f).facetRam = s.facetRam := rfl
@[simp] theorem updColl_collectors (s : State) (c : Nat) (f : Coll → Coll) : (updColl s c f).collectors = s.collectors := rfl
@[simp] theorem updColl_near (s : State) (c : Nat) (f : Coll → Coll) : (updColl s c f).near = s.near := rfl
@[simp] theorem updColl_hbm (s : State) (c : Nat) (f : Coll → Coll) : (updColl s c f).hbm = s.hbm := rfl
@[simp] theorem updColl_flash (s : State) (c : Nat) (f : Coll → Coll) : (updColl s c f).flash = s.flash := rfl
@[simp] theorem updColl_colls (s : State) (c : Nat) (f : Coll → Coll) : (updColl s c f).colls = s.colls.upd c f := rfl
@[simp] theorem updColl_pools (s : State) (c : Nat) (f : Coll → Coll) : (updColl s c f).pools = s.pools := rfl
@[simp] theorem updColl_streams (s : State) (c : Nat) (f : Coll → Coll) : (updColl s c f).streams = s.streams := rfl
@[simp] theorem updColl_search (s : State) (c : Nat) (f : Coll → Coll) : (updColl s c f).search = s.search := rfl
@[simp] theorem updColl_fabric (s : State) (c : Nat) (f : Coll → Coll) : (updColl s c f).fabric = s.fabric := rfl
@[simp] theorem updColl_learn (s : State) (c : Nat) (f : Coll → Coll) : (updColl s c f).learn = s.learn := rfl
@[simp] theorem updColl_board (s : State) (c : Nat) (f : Coll → Coll) : (updColl s c f).board = s.board := rfl

@[simp] theorem setCounter_pending (s : State) (a : Nat) (c : EvCounter) : (setCounter s a c).pending = s.pending := rfl
@[simp] theorem setCounter_out (s : State) (a : Nat) (c : EvCounter) : (setCounter s a c).out = s.out := rfl
@[simp] theorem setCounter_free (s : State) (a : Nat) (c : EvCounter) : (setCounter s a c).free = s.free := rfl
@[simp] theorem setCounter_time (s : State) (a : Nat) (c : EvCounter) : (setCounter s a c).time = s.time := rfl
@[simp] theorem setCounter_power (s : State) (a : Nat) (c : EvCounter) : (setCounter s a c).power = s.power := rfl
@[simp] theorem setCounter_cores (s : State) (a : Nat) (c : EvCounter) : (setCounter s a c).cores = s.cores := rfl
@[simp] theorem setCounter_locket (s : State) (a : Nat) (c : EvCounter) : (setCounter s a c).locket = s.locket := rfl
@[simp] theorem setCounter_host (s : State) (a : Nat) (c : EvCounter) : (setCounter s a c).host = s.host := rfl
@[simp] theorem setCounter_queues (s : State) (a : Nat) (c : EvCounter) : (setCounter s a c).queues = s.queues := rfl
@[simp] theorem setCounter_events (s : State) (a : Nat) (c : EvCounter) : (setCounter s a c).events = s.events := rfl
@[simp] theorem setCounter_counters (s : State) (a : Nat) (c : EvCounter) : (setCounter s a c).counters = { s.counters with counts := s.counters.counts.put a c } := rfl
@[simp] theorem setCounter_loader (s : State) (a : Nat) (c : EvCounter) : (setCounter s a c).loader = s.loader := rfl
@[simp] theorem setCounter_facets (s : State) (a : Nat) (c : EvCounter) : (setCounter s a c).facets = s.facets := rfl
@[simp] theorem setCounter_facetRam (s : State) (a : Nat) (c : EvCounter) : (setCounter s a c).facetRam = s.facetRam := rfl
@[simp] theorem setCounter_collectors (s : State) (a : Nat) (c : EvCounter) : (setCounter s a c).collectors = s.collectors := rfl
@[simp] theorem setCounter_near (s : State) (a : Nat) (c : EvCounter) : (setCounter s a c).near = s.near := rfl
@[simp] theorem setCounter_hbm (s : State) (a : Nat) (c : EvCounter) : (setCounter s a c).hbm = s.hbm := rfl
@[simp] theorem setCounter_flash (s : State) (a : Nat) (c : EvCounter) : (setCounter s a c).flash = s.flash := rfl
@[simp] theorem setCounter_colls (s : State) (a : Nat) (c : EvCounter) : (setCounter s a c).colls = s.colls := rfl
@[simp] theorem setCounter_pools (s : State) (a : Nat) (c : EvCounter) : (setCounter s a c).pools = s.pools := rfl
@[simp] theorem setCounter_streams (s : State) (a : Nat) (c : EvCounter) : (setCounter s a c).streams = s.streams := rfl
@[simp] theorem setCounter_search (s : State) (a : Nat) (c : EvCounter) : (setCounter s a c).search = s.search := rfl
@[simp] theorem setCounter_fabric (s : State) (a : Nat) (c : EvCounter) : (setCounter s a c).fabric = s.fabric := rfl
@[simp] theorem setCounter_learn (s : State) (a : Nat) (c : EvCounter) : (setCounter s a c).learn = s.learn := rfl
@[simp] theorem setCounter_board (s : State) (a : Nat) (c : EvCounter) : (setCounter s a c).board = s.board := rfl

end Sys2Proof.Machine
end

