-- ==== Sys2Proof/Laws/Registers.lean ====
section
/-! SUPPORT. Reading back the units that are kept by index: facets, collectors, banks, channels, links and ports. -/

namespace Sys2Proof.Machine

theorem updAt_getD {α : Type} (xs : List α) (k : Nat) (f : α → α) (d : α) (h : k < xs.length) :
    (updAt xs k f).getD k d = f (xs.getD k d) := by
  induction xs generalizing k with
  | nil => simp at h
  | cons x r ih =>
    cases k with
    | zero => rfl
    | succ k => simp only [updAt, List.getD_cons_succ]; exact ih k (by simpa using h)

theorem updAt_getD_other {α : Type} (xs : List α) (k j : Nat) (f : α → α) (d : α) (h : j ≠ k) :
    (updAt xs k f).getD j d = xs.getD j d := by
  induction xs generalizing k j with
  | nil => rfl
  | cons x r ih =>
    cases k <;> cases j
    · exact absurd rfl h
    · rfl
    · rfl
    · simp only [updAt, List.getD_cons_succ]; exact ih _ _ (by omega)

@[simp] theorem updAt_length {α : Type} (xs : List α) (k : Nat) (f : α → α) : (updAt xs k f).length = xs.length := by
  induction xs generalizing k with
  | nil => rfl
  | cons x r ih => cases k <;> simp [updAt, ih]

theorem Tab.get_upd {α : Type} (t : Tab α) (k x : Nat) (f : α → α) :
    Tab.get (Tab.upd t k f) x = if x = k then (Tab.get t k).map f else Tab.get t x := by
  unfold Tab.upd
  cases e : Tab.get t k with
  | none =>
    dsimp only
    split
    · subst x; exact e
    · rfl
  | some v =>
    dsimp only
    split
    · subst x; exact Tab.get_put_same ..
    · exact Tab.get_put_other _ _ _ _ ‹_›

theorem Tab.getD_put {α : Type} (t : Tab α) (k x : Nat) (v d : α) : (Tab.put t k v).getD x d = if x = k then v else t.getD x d := by
  unfold Tab.getD
  split
  · subst x; rw [Tab.get_put_same]; rfl
  · rw [Tab.get_put_other _ _ _ _ ‹_›]

theorem getFacet_updFacet (s : State) (f g : Nat) (u : Facet → Facet) (h : f < s.facets.length) :
    getFacet (updFacet s f u) g = if g = f then u (getFacet s f) else getFacet s g := by
  unfold getFacet updFacet
  split
  · subst g; exact updAt_getD _ _ _ _ h
  · exact updAt_getD_other _ _ _ _ _ ‹_›

theorem getCol_updCol (s : State) (c d : Nat) (u : Collector → Collector) (h : c < s.collectors.length) :
    getCol (updCol s c u) d = if d = c then u (getCol s c) else getCol s d := by
  unfold getCol updCol
  split
  · subst d; exact updAt_getD _ _ _ _ h
  · exact updAt_getD_other _ _ _ _ _ ‹_›

theorem getBank_setBank (s : State) (b j : Nat) (v : Bank) :
    getBank (setBank s b v) j = if j = b then v else getBank s j := Tab.getD_put ..

theorem getChan_setChan (s : State) (ch j : Nat) (v : HbmChan) :
    getChan (setChan s ch v) j = if j = ch then v else getChan s j := Tab.getD_put ..

theorem getChan_updChan (s : State) (ch j : Nat) (u : HbmChan → HbmChan) :
    getChan (updChan s ch u) j = if j = ch then u (getChan s ch) else getChan s j := getChan_setChan ..

theorem getLink_updLink (s : State) (l j : Nat) (u : Link → Link) (h : l < s.fabric.links.length) :
    getLink (updLink s l u) j = if j = l then u (getLink s l) else getLink s j := by
  unfold getLink updLink
  split
  · subst j; exact updAt_getD _ _ _ _ h
  · exact updAt_getD_other _ _ _ _ _ ‹_›

theorem getFlashCh_updFlashCh (s : State) (c j : Nat) (u : FlashCh → FlashCh) (h : c < s.flash.chans.length) :
    getFlashCh (updFlashCh s c u) j = if j = c then u (getFlashCh s c) else getFlashCh s j := by
  unfold getFlashCh updFlashCh
  split
  · subst j; exact updAt_getD _ _ _ _ h
  · exact updAt_getD_other _ _ _ _ _ ‹_›

theorem getPort_updPort (s : State) (p j : Nat) (u : Port → Port) (h : p < s.host.ports.length) :
    getPort (updPort s p u) j = if j = p then u (getPort s p) else getPort s j := by
  unfold getPort updPort
  split
  · subst j; exact updAt_getD _ _ _ _ h
  · exact updAt_getD_other _ _ _ _ _ ‹_›

end Sys2Proof.Machine
end

