-- ==== Sys2Proof/Laws/Latch.lean ====
section
/-! SUPPORT. A source that is raised stays set: raising never clears a status bit (R339, R349). -/

namespace Sys2Proof.Machine
/-- Status bits of `s` still stand in `t`, in collectors of the same number. -/
structure State.latched (s t : State) : Prop where
  count : t.collectors.length = s.collectors.length
  bits : ∀ c i, (getCol s c).status.getLsbD i = true → (getCol t c).status.getLsbD i = true

theorem latched_refl (s : State) : s.latched s := ⟨rfl, fun _ _ h => h⟩
theorem latched_eq {z s t : State} (h : z.latched s) (e : t.collectors = s.collectors) : z.latched t := by
  refine ⟨by rw [e]; exact h.count, fun c i g => ?_⟩
  have := h.bits c i g
  unfold getCol at *
  rw [e]; exact this
theorem latched_frame {z s t : State} {T : List Field} (h : z.latched s) (g : s.follows T t) (hn : Field.collectors ∉ T) : z.latched t :=
  latched_eq h (g.frame .collectors hn)
theorem latched_updCol {z s : State} {c : Nat} {f : Collector → Collector} (h : z.latched s)
    (hf : ∀ x i, x.status.getLsbD i = true → (f x).status.getLsbD i = true) : z.latched (updCol s c f) := by
  refine ⟨by unfold updCol; simp [h.count], fun d i g => ?_⟩
  have := h.bits d i g
  by_cases hc : c < s.collectors.length
  · rw [getCol_updCol _ _ _ _ hc]
    split
    · subst d; exact hf _ _ this
    · exact this
  · have : getCol (updCol s c f) d = getCol s d := by
      unfold getCol updCol
      by_cases hd : d = c
      · subst d; simp [List.getD, List.getElem?_eq_none (show (updAt s.collectors c f).length ≤ c by simp; omega), List.getElem?_eq_none (show s.collectors.length ≤ c by omega)]
      · exact updAt_getD_other _ _ _ _ _ hd
    rw [this]; assumption
theorem latch_status (c : Collector) (mask : BitVec 64) (acc : Access) (time i : Nat) :
    (c.latch mask acc time).status.getLsbD i = (c.status.getLsbD i || mask.getLsbD i) := by
  simp only [Collector.latch]
  by_cases hn : mask &&& ~~~c.status = 0
  · simp only [hn, if_true]
    have := congrArg (fun x => x.getLsbD i) hn
    simp at this
    by_cases hi : i < 64
    · cases h1 : mask.getLsbD i <;> simp_all
    · simp [BitVec.getLsbD_of_ge _ _ (by omega : 64 ≤ i)]
  · simp only [hn, if_false]
    split <;> simp <;> (by_cases hi : i < 64 <;> cases h1 : mask.getLsbD i <;> cases h2 : c.status.getLsbD i <;> simp_all [BitVec.getLsbD_of_ge])
theorem latched_foldl {α : Type} {z : State} (f : State → α → State) (xs : List α) (hf : ∀ t x, z.latched t → z.latched (f t x)) :
    ∀ s, z.latched s → z.latched (xs.foldl f s) := by
  induction xs with
  | nil => intro s h; exact h
  | cons x xs ih => intro s h; exact ih _ (hf s x h)
theorem latched_fence {z : State} {raise : State → Nat → Nat → State} (hr : ∀ t a b, z.latched t → z.latched (raise t a b)) (s : State) (u : UnitName)
    (h : z.latched s) : z.latched (fenceUnit raise s u) := by
  cases u with
  | facet f => exact latched_eq h (by simp [fenceUnit])
  | scanner b =>
    simp only [fenceUnit]
    split
    · have : s.follows [.out, .host, .events, .counters, .near, .colls, .streams] (fenceBank s b) := fenceBank_follows (by decide) (State.follows_refl _ _)
      exact latched_frame h this (by decide)
    · exact h
  | dieClasp d =>
    have : s.follows
        [.out, .host, .queues, .events, .counters, .loader, .facets, .flash, .colls, .pools, .streams, .search, .learn]
        (fenceDie s d) := fenceDie_follows (by decide) (State.follows_refl _ _)
    exact latched_frame h this (by decide)
  | dieCtrl d =>
    have : s.follows
        [.out, .host, .queues, .events, .counters, .loader, .facets, .flash, .colls, .pools, .streams, .search, .learn]
        (fenceDie s d) := fenceDie_follows (by decide) (State.follows_refl _ _)
    exact latched_frame h this (by decide)
  | moduleClasp => exact latched_eq h rfl
  | core a => exact latched_eq h rfl
  | flash c => exact latched_eq h rfl
  | prong c => exact latched_eq h rfl
  | hbm ch =>
    simp only [fenceUnit]
    split
    · exact h
    · refine latched_foldl _ _ (fun t x ht => ?_) _ (hr _ _ _ (latched_eq h (by simp)))
      split <;> exact hr _ _ _ ht
  | link l =>
    simp only [fenceUnit]
    split
    · exact h
    · exact hr _ _ _ (latched_eq h (by simp))
  | port p =>
    simp only [fenceUnit]
    split
    · exact hr _ _ _ (latched_eq h (by simp))
    · exact h
  | nothing => exact h
theorem latched_raiseN (n : Nat) : ∀ {z s : State} {col : Nat} {m : BitVec 64} {acc : Access} {u : UnitName},
    z.latched s → z.latched (raiseN n s col m acc u) := by
  induction n with
  | zero => intro z s _ _ _ _ h; exact h
  | succ n ih =>
    intro z s col m acc u h
    unfold raiseN
    dsimp only
    have h2 : ∀ (k a b : Nat) (f : Collector → BitVec 64), z.latched (updCol (bumpN s a b) k fun x => { x.latch (m &&& BitVec.ofNat 64 (2 ^ sourceCount col - 1)) acc s.time.now with pins := f x }) := by
      intro k a b f
      refine latched_updCol (latched_eq h (by simp)) (fun x i hx => ?_)
      show (x.latch _ _ _).status.getLsbD i = true
      rw [latch_status, hx]; rfl
    generalize hu : updCol (bumpN s _ _) col _ = s2
    have h3 : z.latched s2 := by rw [← hu]; exact h2 _ _ _ _
    generalize hv : (if ((getCol s col).status != 0 || (List.filter (fun i => !(getCol s col).status.getLsbD i) (List.filter (fun i => (m &&& BitVec.ofNat 64 (2 ^ sourceCount col - 1)).getLsbD i) (List.range 64))).isEmpty) = true then s2 else _) = s3
    have h4 : z.latched s3 := by
      rw [← hv]
      repeat' split
      all_goals first | exact h3 | exact ih h3
    split
    · exact latched_eq h4 rfl
    · refine latched_foldl _ _ (fun t x ht => ?_) _ (latched_foldl _ _ (fun t x ht => ?_) _ h4)
      · split <;> split <;> first | exact ht | exact latched_eq ht rfl
      · have hf : ∀ v, z.latched (fenceUnit (fun t k i => raiseN n t k (bit64 i) (noAccess k i) .nothing) t v) := fun v => latched_fence (fun t a b hh => ih hh) t v ht
        have hs : ∀ (t : State) v, z.latched t → z.latched (startBlockReset t v) := by
          intro t v hh; cases v <;> first | exact hh | exact latched_eq hh rfl
        split <;> split <;> first | exact ht | exact hs _ _ (hf _) | exact hs _ _ ht | exact hf _
/-- Raised sources are set in their collector, and no status bit clears (R339). -/
theorem raiseMask_latched (s : State) (col : Nat) (mask : BitVec 64) (acc : Access) (u : UnitName) : s.latched (raiseMask s col mask acc u) :=
  latched_raiseN 6 (latched_refl s)
theorem raiseMask_sets (s : State) (col : Nat) (mask : BitVec 64) (acc : Access) (u : UnitName) (hc : col < s.collectors.length) (i : Nat)
    (hi : i < sourceCount col) (hm : mask.getLsbD i = true) : (getCol (raiseMask s col mask acc u) col).status.getLsbD i = true := by
  have h64 : sourceCount col ≤ 29 := by unfold sourceCount; split <;> omega
  have base : ∀ f, State.latched (updCol (bumpN s (repeatCnt col) 0) col f) (updCol (bumpN s (repeatCnt col) 0) col f) := fun f => latched_refl _
  have first : ∀ (a b : Nat) (f : Collector → BitVec 64), (getCol (updCol (bumpN s a b) col fun x => { x.latch (mask &&& BitVec.ofNat 64 (2 ^ sourceCount col - 1)) acc s.time.now with pins := f x }) col).status.getLsbD i = true := by
    intro a b f
    rw [getCol_updCol _ _ _ _ (by simpa using hc), if_pos rfl]
    show (Collector.latch _ _ _ _).status.getLsbD i = true
    rw [latch_status]
    simp only [BitVec.getLsbD_and, hm, BitVec.getLsbD_ofNat, Nat.testBit_two_pow_sub_one]
    simp; right; omega
  unfold raiseMask raiseN
  dsimp only
  generalize hu : updCol (bumpN s _ _) col _ = s2
  have h3 : (getCol s2 col).status.getLsbD i = true := by rw [← hu]; exact first _ _ _
  generalize hv : (if ((getCol s col).status != 0 || (List.filter (fun i => !(getCol s col).status.getLsbD i) (List.filter (fun i => (mask &&& BitVec.ofNat 64 (2 ^ sourceCount col - 1)).getLsbD i) (List.range 64))).isEmpty) = true then s2 else _) = s3
  have h4 : s2.latched s3 := by
    rw [← hv]
    repeat' split
    all_goals first | exact latched_refl _ | exact latched_raiseN _ (latched_refl _)
  refine State.latched.bits (s := s2) ?_ col i h3
  split
  · exact latched_eq h4 rfl
  · refine latched_foldl _ _ (fun t x ht => ?_) _ (latched_foldl _ _ (fun t x ht => ?_) _ h4)
    · split <;> split <;> first | exact ht | exact latched_eq ht rfl
    · have hf : ∀ v, s2.latched (fenceUnit (fun t k i => raiseN 5 t k (bit64 i) (noAccess k i) .nothing) t v) := fun v => latched_fence (fun t a b hh => latched_raiseN _ hh) t v ht
      have hs : ∀ (t : State) v, s2.latched t → s2.latched (startBlockReset t v) := by
        intro t v hh; cases v <;> first | exact hh | exact latched_eq hh rfl
      split <;> split <;> first | exact ht | exact hs _ _ (hf _) | exact hs _ _ ht | exact hf _
end Sys2Proof.Machine
end

