-- ==== Sys2Proof/WellFormed.lean ====
section
/-! DEFINITION. Which terms of `Instr` name a part the module has: 3 ports, 12 fabric links, 68 facets, 4 dies, 256 HBM
channels and 8 near-memory bank groups with adders, 64 flash channels, 2,048 banks, 8 HBM stacks, 73 collectors (chapter
18). -/

namespace Sys2Proof

def Sensor.wf : Sensor → Bool
  | .facet f => f < 68
  | .die d => d < 4
  | .hub => true
  | .flash c => c < 64

def UnitName.wf : UnitName → Bool
  | .facet f => f < 68
  | .scanner b => b < 2048
  | .dieClasp d => d < 4
  | .dieCtrl d => d < 4
  | .flash c => c < 64
  | .prong c => c < 64
  | .hbm ch => ch < 256
  | .link l => l < 12
  | .port p => p < 3
  | .moduleClasp | .core _ | .nothing => true

def ClaspStage.wf : ClaspStage → Bool
  | .die d => d < 4
  | .module | .fabric => true

def Elem.wf : Elem → Bool
  | .link _ l => l < 12
  | .module _ => true

/-- Connection identifiers are below 8,192 (R243). -/
def connOk (c : Nat) : Bool := c < 8192

/-- Queue numbers are below 32,768 and tags below 32 (R251). -/
def queueOk (q t : Nat) : Bool := q < 32768 && t < 32

def Capsule.wf (c : Capsule) : Bool := c.port < 3 && connOk c.conn

/-- The command names parts that exist. -/
def Instr.wf : Instr → Bool
  | .search c | .searchRange c | .readItem c | .insert c | .delete c | .upsert c | .flush c | .filterPut c
  | .filterDrop c | .learnStart c | .learnStop c | .epochPromote c | .mergeHint c | .identify c | .collectionCreate c
  | .collectionDelete c | .collectionAttach c | .collectionDetach c | .queueCreate c | .queueDelete c | .settingLoad c
  | .firmwareLoad c | .attest c | .powerState c | .keyLoad c | .mgmtRead c | .mgmtWrite c | .eventArm c => c.wf
  | .commandReady q t | .flushComplete q t => queueOk q t
  | .writeCommit q t _ _ => queueOk q t
  | .readItemReply q t _ => queueOk q t
  | .connect d => d.port < 3 && d.srcPort < 65536
  | .data d => d.port < 3 && connOk d.conn && d.srcPort < 65536
  | .ack p c _ => p < 3 && connOk c
  | .close p c => p < 3 && connOk c
  | .closeTakesEffect c | .replyRetransmit c | .queue0Rebind c => connOk c
  | .ethernetFrame f => f.port < 3
  | .ptpMessage p _ _ | .hostPortDown p | .hostPortUp p | .hostifLoopback p => p < 3
  | .osfpCageOvercurrent p | .osfpModuleRemoved p => p < 2
  | .hostifRateWrite p _ => p < 3
  | .hostifAddressWrite p _ _ => p < 3
  | .osfpModuleInserted p _ => p < 2
  | .railDroop r _ => r < 9
  | .hbmStackTempRise k _ | .hbmStackTempFall k _ => k < 8
  | .thermalCrossing x _ => x.wf
  | .hardwareTrip d => d < 4
  | .sourceLatch c _ _ u => c < 73 && u.wf
  | .collectorSelf c _ | .fcolStatusClear c _ | .fcolForce c _ => c < 73
  | .blockResetComplete u _ => u.wf
  | .facetFence f | .facetBist f | .facetBistDone f _ | .facetRelease f => f < 68
  | .nearmemMbist b | .nearmemMbistDone b _ | .nearmemReturn b => b < 2048
  | .hbmChRetrain c | .hbmRetrainStart c | .hbmRetrainEnd c _ | .hbmRetrainTimeout c | .hbmMbist c
  | .hbmMbistDone c _ | .hbmReturn c => c < 256
  | .flashChRetrain c | .flashIfRetrainStart c | .flashIfRetrainEnd c _ | .flashIfRetrainTimeout c | .flashScrub c
  | .flashBypass c | .flashReturn c _ | .flashProngTest c | .prongTestDone c _ | .wearLevelling c
  | .readDisturbRefresh c _ | .retentionScrub c _ _ | .freeBlockCollection c | .relocationComplete _ c _
  | .unitDrain _ _ c _ | .recoveryLadderEnd c _ _ _ => c < 64
  | .msaAdd c _ _ _ | .msaMin c _ _ _ | .msaMax c _ _ _ => c < 264
  | .claspMergeStart _ st _ => st.wf
  | .linkTimeExchange l _ _ | .linkTrainingComplete l _ | .ident l _ | .linkDown l | .linkRetrainTimer l | .retry l _
  | .flitError l _ | .mgmtAccess l _ _ | .query l _ _ _ | .bundleEnd l _ | .bundleAck l _ | .bundleDrop l _
  | .list l _ _ | .gatherReq l _ _ | .gatherRows l _ _ | .fabricLinkRetrain l | .fabricLoopback l
  | .fabricSetDown l | .credit l _ _ _ _ => l < 12
  | .faultNotice l n | .repairNotice l n => l < 12 && n.elem.wf
  | .collectionWorkEnd c | .pinnedCopyRestore c _ | .pageRefill c _ | .mergeBuildComplete c _ _
  | .signatureBuildComplete c _ _ | .installationComplete c _ => c < 4096
  | .learnSatClearOne q | .learnSatClearTensor q => q < 32768
  | .beadEdge _ _ | .admissionGap | .cutPoint | .multicastWindowClose _ | .ppsInEdge _ _ | .holdover
  | .bringUpInterval | .pwrEnRise | .powerGood _ | .pwrEnFall | .resetNLow _ | .resetNRelease | .inputStepFall _
  | .inputStepRise _ | .overvoltage _ | .holdupFlushComplete | .holdupMeasurement _ | .moduleReset | .pllUnlock _
  | .preparationEnd | .entryProperComplete | .exitComplete | .coreWatchdogExpiry _ _ | .coreReady _ | .coreStop _
  | .snap _ | .clear _ _ _ | .settingSpareHold _ | .nop _ | .seta _ _ _ | .adda _ _ _ _ | .sets _ _ _ | .loop _ _ _
  | .endl _ _ | .read _ _ _ _ | .gather _ _ _ _ _ | .skipmap _ _ _ | .tag _ _ _ | .bead _ _ | .write _ _
  | .msaop _ _ _ | .halt _ | .pieceComplete _ _ _ | .prongScreen _ _ | .prongGate _ _ | .prongPass _ _
  | .slotTake _ _ _ | .slotFinish _ | .compaction _ | .halfScaleRepeat _ _ | .repeatedPass _ | .searchReply _
  | .microBatchStart _ | .optimiserUpdate _ _ _ | .driftWindowEnd | .learnDriftWindowWrite _
  | .learnDriftLimitWrite _ | .partialSettingFence | .partialSettingRelease | .discoveryTimeout | .revokeSlot
  | .advanceLifecycle | .debugOpen | .setDebugLock | .hubHotClear | .boundaryScanInstruction _ | .fruAccess _ => true

end Sys2Proof
end

