-- ==== Sys2Proof/Laws/PerInstr.lean ====
section
/-! SUPPORT. The parts that a well-formed command names exist: one lemma per row of the table. -/

namespace Sys2Proof.Laws.Bounds

/-- The part a sensor belongs to, with the number of such parts. -/
def sensorParts : Sensor → List (Nat × Nat)
  | .facet f => [(f, 68)]
  | .die d => [(d, 4)]
  | .flash c => [(c, 64)]
  | .hub => []

/-- The unit of a source, with the number of such units. -/
def unitParts : UnitName → List (Nat × Nat)
  | .facet f => [(f, 68)]
  | .scanner b => [(b, 2048)]
  | .dieClasp d | .dieCtrl d => [(d, 4)]
  | .flash c | .prong c => [(c, 64)]
  | .hbm ch => [(ch, 256)]
  | .link l => [(l, 12)]
  | .port p => [(p, 3)]
  | .moduleClasp | .core _ | .nothing => []

def stageParts : ClaspStage → List (Nat × Nat)
  | .die d => [(d, 4)]
  | .module | .fabric => []

def elemParts : Elem → List (Nat × Nat)
  | .link _ l => [(l, 12)]
  | .module _ => []

/-- Every part a command names, with the number of such parts. -/
def parts : Instr → List (Nat × Nat)
  | .search c => [(c.port, 3), (c.conn, 8192)]
  | .searchRange c => [(c.port, 3), (c.conn, 8192)]
  | .readItem c => [(c.port, 3), (c.conn, 8192)]
  | .insert c => [(c.port, 3), (c.conn, 8192)]
  | .delete c => [(c.port, 3), (c.conn, 8192)]
  | .upsert c => [(c.port, 3), (c.conn, 8192)]
  | .flush c => [(c.port, 3), (c.conn, 8192)]
  | .filterPut c => [(c.port, 3), (c.conn, 8192)]
  | .filterDrop c => [(c.port, 3), (c.conn, 8192)]
  | .learnStart c => [(c.port, 3), (c.conn, 8192)]
  | .learnStop c => [(c.port, 3), (c.conn, 8192)]
  | .epochPromote c => [(c.port, 3), (c.conn, 8192)]
  | .mergeHint c => [(c.port, 3), (c.conn, 8192)]
  | .identify c => [(c.port, 3), (c.conn, 8192)]
  | .collectionCreate c => [(c.port, 3), (c.conn, 8192)]
  | .collectionDelete c => [(c.port, 3), (c.conn, 8192)]
  | .collectionAttach c => [(c.port, 3), (c.conn, 8192)]
  | .collectionDetach c => [(c.port, 3), (c.conn, 8192)]
  | .queueCreate c => [(c.port, 3), (c.conn, 8192)]
  | .queueDelete c => [(c.port, 3), (c.conn, 8192)]
  | .settingLoad c => [(c.port, 3), (c.conn, 8192)]
  | .firmwareLoad c => [(c.port, 3), (c.conn, 8192)]
  | .attest c => [(c.port, 3), (c.conn, 8192)]
  | .powerState c => [(c.port, 3), (c.conn, 8192)]
  | .keyLoad c => [(c.port, 3), (c.conn, 8192)]
  | .mgmtRead c => [(c.port, 3), (c.conn, 8192)]
  | .mgmtWrite c => [(c.port, 3), (c.conn, 8192)]
  | .eventArm c => [(c.port, 3), (c.conn, 8192)]
  | .commandReady queue tag => [(queue, 32768), (tag, 32)]
  | .writeCommit queue tag _ _ => [(queue, 32768), (tag, 32)]
  | .flushComplete queue tag => [(queue, 32768), (tag, 32)]
  | .collectionWorkEnd coll => [(coll, 4096)]
  | .connect d => [(d.port, 3), (d.srcPort, 65536)]
  | .data d => [(d.port, 3), (d.conn, 8192), (d.srcPort, 65536)]
  | .ack port conn _ => [(port, 3), (conn, 8192)]
  | .close port conn => [(port, 3), (conn, 8192)]
  | .closeTakesEffect conn => [(conn, 8192)]
  | .replyRetransmit conn => [(conn, 8192)]
  | .queue0Rebind conn => [(conn, 8192)]
  | .ethernetFrame f => [(f.port, 3)]
  | .ptpMessage port _ _ => [(port, 3)]
  | .hostPortDown port => [(port, 3)]
  | .hostPortUp port => [(port, 3)]
  | .osfpCageOvercurrent port => [(port, 2)]
  | .hostifRateWrite port _ => [(port, 3)]
  | .hostifAddressWrite port _ _ => [(port, 3)]
  | .hostifLoopback port => [(port, 3)]
  | .beadEdge _ _ => []
  | .admissionGap => []
  | .cutPoint => []
  | .multicastWindowClose _ => []
  | .ppsInEdge _ _ => []
  | .holdover => []
  | .linkTimeExchange link _ _ => [(link, 12)]
  | .bringUpInterval => []
  | .pwrEnRise => []
  | .powerGood _ => []
  | .pwrEnFall => []
  | .resetNLow _ => []
  | .resetNRelease => []
  | .inputStepFall _ => []
  | .inputStepRise _ => []
  | .overvoltage _ => []
  | .railDroop rail _ => [(rail, 9)]
  | .holdupFlushComplete => []
  | .holdupMeasurement _ => []
  | .moduleReset => []
  | .pllUnlock _ => []
  | .preparationEnd => []
  | .entryProperComplete => []
  | .exitComplete => []
  | .hbmStackTempRise stack _ => [(stack, 8)]
  | .hbmStackTempFall stack _ => [(stack, 8)]
  | .thermalCrossing s _ => sensorParts s
  | .hardwareTrip die => [(die, 4)]
  | .sourceLatch col _ _ unit => (col, 73) :: unitParts unit
  | .collectorSelf col _ => [(col, 73)]
  | .blockResetComplete unit _ => unitParts unit
  | .coreWatchdogExpiry _ _ => []
  | .coreReady _ => []
  | .coreStop _ => []
  | .snap _ => []
  | .clear _ _ _ => []
  | .fcolStatusClear col _ => [(col, 73)]
  | .fcolForce col _ => [(col, 73)]
  | .settingSpareHold _ => []
  | .facetFence f => [(f, 68)]
  | .facetBist f => [(f, 68)]
  | .facetBistDone f _ => [(f, 68)]
  | .facetRelease f => [(f, 68)]
  | .nearmemMbist b => [(b, 2048)]
  | .nearmemMbistDone b _ => [(b, 2048)]
  | .nearmemReturn b => [(b, 2048)]
  | .hbmChRetrain ch => [(ch, 256)]
  | .hbmRetrainStart ch => [(ch, 256)]
  | .hbmRetrainEnd ch _ => [(ch, 256)]
  | .hbmRetrainTimeout ch => [(ch, 256)]
  | .pinnedCopyRestore coll _ => [(coll, 4096)]
  | .pageRefill coll _ => [(coll, 4096)]
  | .hbmMbist ch => [(ch, 256)]
  | .hbmMbistDone ch _ => [(ch, 256)]
  | .hbmReturn ch => [(ch, 256)]
  | .flashChRetrain c => [(c, 64)]
  | .flashIfRetrainStart c => [(c, 64)]
  | .flashIfRetrainEnd c _ => [(c, 64)]
  | .flashIfRetrainTimeout c => [(c, 64)]
  | .flashScrub c => [(c, 64)]
  | .flashBypass c => [(c, 64)]
  | .flashReturn c _ => [(c, 64)]
  | .flashProngTest c => [(c, 64)]
  | .prongTestDone c _ => [(c, 64)]
  | .wearLevelling c => [(c, 64)]
  | .readDisturbRefresh c _ => [(c, 64)]
  | .retentionScrub c _ _ => [(c, 64)]
  | .freeBlockCollection c => [(c, 64)]
  | .relocationComplete _ chan _ => [(chan, 64)]
  | .unitDrain _ _ chan _ => [(chan, 64)]
  | .recoveryLadderEnd c _ _ _ => [(c, 64)]
  | .nop _ => []
  | .seta _ _ _ => []
  | .adda _ _ _ _ => []
  | .sets _ _ _ => []
  | .loop _ _ _ => []
  | .endl _ _ => []
  | .read _ _ _ _ => []
  | .gather _ _ _ _ _ => []
  | .skipmap _ _ _ => []
  | .tag _ _ _ => []
  | .bead _ _ => []
  | .write _ _ => []
  | .msaop _ _ _ => []
  | .halt _ => []
  | .msaAdd ch _ _ _ => [(ch, 264)]
  | .msaMin ch _ _ _ => [(ch, 264)]
  | .msaMax ch _ _ _ => [(ch, 264)]
  | .pieceComplete _ _ _ => []
  | .prongScreen _ _ => []
  | .prongGate _ _ => []
  | .prongPass _ _ => []
  | .slotTake _ _ _ => []
  | .slotFinish _ => []
  | .compaction _ => []
  | .halfScaleRepeat _ _ => []
  | .repeatedPass _ => []
  | .claspMergeStart _ st _ => stageParts st
  | .searchReply _ => []
  | .readItemReply queue tag _ => [(queue, 32768), (tag, 32)]
  | .mergeBuildComplete coll _ _ => [(coll, 4096)]
  | .signatureBuildComplete coll _ _ => [(coll, 4096)]
  | .microBatchStart _ => []
  | .optimiserUpdate _ _ _ => []
  | .driftWindowEnd => []
  | .learnDriftWindowWrite _ => []
  | .learnDriftLimitWrite _ => []
  | .learnSatClearOne queue => [(queue, 32768)]
  | .learnSatClearTensor queue => [(queue, 32768)]
  | .partialSettingFence => []
  | .partialSettingRelease => []
  | .linkTrainingComplete l _ => [(l, 12)]
  | .ident l _ => [(l, 12)]
  | .discoveryTimeout => []
  | .linkDown l => [(l, 12)]
  | .linkRetrainTimer l => [(l, 12)]
  | .retry l _ => [(l, 12)]
  | .flitError l _ => [(l, 12)]
  | .faultNotice l n => (l, 12) :: elemParts n.elem
  | .repairNotice l n => (l, 12) :: elemParts n.elem
  | .mgmtAccess l _ _ => [(l, 12)]
  | .query l _ _ _ => [(l, 12)]
  | .bundleEnd l _ => [(l, 12)]
  | .bundleAck l _ => [(l, 12)]
  | .bundleDrop l _ => [(l, 12)]
  | .list l _ _ => [(l, 12)]
  | .gatherReq l _ _ => [(l, 12)]
  | .gatherRows l _ _ => [(l, 12)]
  | .fabricLinkRetrain l => [(l, 12)]
  | .fabricLoopback l => [(l, 12)]
  | .fabricSetDown l => [(l, 12)]
  | .revokeSlot => []
  | .advanceLifecycle => []
  | .debugOpen => []
  | .setDebugLock => []
  | .hubHotClear => []
  | .boundaryScanInstruction _ => []
  | .fruAccess _ => []
  | .osfpModuleInserted port _ => [(port, 2)]
  | .osfpModuleRemoved port => [(port, 2)]
  | .installationComplete coll _ => [(coll, 4096)]
  | .credit l _ _ _ _ => [(l, 12)]

/-- A well-formed command names parts that exist. -/
def Statement (i : Instr) : Prop := i.wf = true → ∀ x ∈ parts i, x.1 < x.2

theorem of_none {i : Instr} (hp : parts i = []) : Statement i := by
  intro _ x hx
  rw [hp] at hx
  cases hx

theorem of_one {i : Instr} {n k : Nat} (hw : i.wf = decide (n < k)) (hp : parts i = [(n, k)]) : Statement i := by
  intro h x hx
  rw [hw, decide_eq_true_eq] at h
  rw [hp, List.mem_singleton] at hx
  subst hx
  exact h

theorem of_two {i : Instr} {n k m j : Nat} (hw : i.wf = (decide (n < k) && decide (m < j)))
    (hp : parts i = [(n, k), (m, j)]) : Statement i := by
  intro h x hx
  rw [hw, Bool.and_eq_true, decide_eq_true_eq, decide_eq_true_eq] at h
  rw [hp] at hx
  rcases List.mem_cons.1 hx with rfl | hx
  · exact h.1
  · rw [List.mem_singleton] at hx
    subst hx
    exact h.2

theorem of_three {i : Instr} {n k m j p q : Nat} (hw : i.wf = (decide (n < k) && decide (m < j) && decide (p < q)))
    (hp : parts i = [(n, k), (m, j), (p, q)]) : Statement i := by
  intro h x hx
  rw [hw, Bool.and_eq_true, Bool.and_eq_true, decide_eq_true_eq, decide_eq_true_eq, decide_eq_true_eq] at h
  rw [hp] at hx
  rcases List.mem_cons.1 hx with rfl | hx
  · exact h.1.1
  · rcases List.mem_cons.1 hx with rfl | hx
    · exact h.1.2
    · rw [List.mem_singleton] at hx
      subst hx
      exact h.2

theorem unit_parts {u : UnitName} (h : u.wf = true) {x : Nat × Nat} (hx : x ∈ unitParts u) : x.1 < x.2 := by
  cases u <;> simp_all [unitParts, UnitName.wf]

theorem of_unit {i : Instr} {u : UnitName} (hw : i.wf = u.wf) (hp : parts i = unitParts u) : Statement i := by
  intro h x hx
  exact unit_parts (hw ▸ h) (hp ▸ hx)

theorem of_source {i : Instr} {u : UnitName} {n k : Nat} (hw : i.wf = (decide (n < k) && u.wf))
    (hp : parts i = (n, k) :: unitParts u) : Statement i := by
  intro h x hx
  rw [hw, Bool.and_eq_true, decide_eq_true_eq] at h
  rw [hp] at hx
  rcases List.mem_cons.1 hx with rfl | hx
  · exact h.1
  · exact unit_parts h.2 hx

theorem of_elem {i : Instr} {e : Elem} {n k : Nat} (hw : i.wf = (decide (n < k) && e.wf))
    (hp : parts i = (n, k) :: elemParts e) : Statement i := by
  intro h x hx
  rw [hw, Bool.and_eq_true, decide_eq_true_eq] at h
  rw [hp] at hx
  rcases List.mem_cons.1 hx with rfl | hx
  · exact h.1
  · obtain ⟨-, h2⟩ := h
    cases e <;> simp_all [elemParts, Elem.wf]

theorem of_sensor {i : Instr} {u : Sensor} (hw : i.wf = u.wf) (hp : parts i = sensorParts u) : Statement i := by
  intro h x hx
  rw [hw] at h
  rw [hp] at hx
  cases u <;> simp_all [sensorParts, Sensor.wf]

theorem of_stage {i : Instr} {u : ClaspStage} (hw : i.wf = u.wf) (hp : parts i = stageParts u) : Statement i := by
  intro h x hx
  rw [hw] at h
  rw [hp] at hx
  cases u <;> simp_all [stageParts, ClaspStage.wf]

theorem search (c : Capsule) : Statement (.search c) := of_two rfl rfl
theorem searchRange (c : Capsule) : Statement (.searchRange c) := of_two rfl rfl
theorem readItem (c : Capsule) : Statement (.readItem c) := of_two rfl rfl
theorem insert (c : Capsule) : Statement (.insert c) := of_two rfl rfl
theorem delete (c : Capsule) : Statement (.delete c) := of_two rfl rfl
theorem upsert (c : Capsule) : Statement (.upsert c) := of_two rfl rfl
theorem flush (c : Capsule) : Statement (.flush c) := of_two rfl rfl
theorem filterPut (c : Capsule) : Statement (.filterPut c) := of_two rfl rfl
theorem filterDrop (c : Capsule) : Statement (.filterDrop c) := of_two rfl rfl
theorem learnStart (c : Capsule) : Statement (.learnStart c) := of_two rfl rfl
theorem learnStop (c : Capsule) : Statement (.learnStop c) := of_two rfl rfl
theorem epochPromote (c : Capsule) : Statement (.epochPromote c) := of_two rfl rfl
theorem mergeHint (c : Capsule) : Statement (.mergeHint c) := of_two rfl rfl
theorem identify (c : Capsule) : Statement (.identify c) := of_two rfl rfl
theorem collectionCreate (c : Capsule) : Statement (.collectionCreate c) := of_two rfl rfl
theorem collectionDelete (c : Capsule) : Statement (.collectionDelete c) := of_two rfl rfl
theorem collectionAttach (c : Capsule) : Statement (.collectionAttach c) := of_two rfl rfl
theorem collectionDetach (c : Capsule) : Statement (.collectionDetach c) := of_two rfl rfl
theorem queueCreate (c : Capsule) : Statement (.queueCreate c) := of_two rfl rfl
theorem queueDelete (c : Capsule) : Statement (.queueDelete c) := of_two rfl rfl
theorem settingLoad (c : Capsule) : Statement (.settingLoad c) := of_two rfl rfl
theorem firmwareLoad (c : Capsule) : Statement (.firmwareLoad c) := of_two rfl rfl
theorem attest (c : Capsule) : Statement (.attest c) := of_two rfl rfl
theorem powerState (c : Capsule) : Statement (.powerState c) := of_two rfl rfl
theorem keyLoad (c : Capsule) : Statement (.keyLoad c) := of_two rfl rfl
theorem mgmtRead (c : Capsule) : Statement (.mgmtRead c) := of_two rfl rfl
theorem mgmtWrite (c : Capsule) : Statement (.mgmtWrite c) := of_two rfl rfl
theorem eventArm (c : Capsule) : Statement (.eventArm c) := of_two rfl rfl
theorem commandReady (queue : Nat) (tag : Nat) : Statement (.commandReady queue tag) := of_two rfl rfl
theorem writeCommit (queue : Nat) (tag : Nat) (slot : Nat) (ord : List Nat) : Statement (.writeCommit queue tag slot ord) :=
  of_two rfl rfl
theorem flushComplete (queue : Nat) (tag : Nat) : Statement (.flushComplete queue tag) := of_two rfl rfl
theorem collectionWorkEnd (coll : Nat) : Statement (.collectionWorkEnd coll) := of_one rfl rfl
theorem connect (d : ConnectDg) : Statement (.connect d) := of_two rfl rfl
theorem data (d : DataDg) : Statement (.data d) := of_three rfl rfl
theorem ack (port : Nat) (conn : Nat) (ackSeq : BitVec 32) : Statement (.ack port conn ackSeq) := of_two rfl rfl
theorem close (port : Nat) (conn : Nat) : Statement (.close port conn) := of_two rfl rfl
theorem closeTakesEffect (conn : Nat) : Statement (.closeTakesEffect conn) := of_one rfl rfl
theorem replyRetransmit (conn : Nat) : Statement (.replyRetransmit conn) := of_one rfl rfl
theorem queue0Rebind (conn : Nat) : Statement (.queue0Rebind conn) := of_one rfl rfl
theorem ethernetFrame (f : Frame) : Statement (.ethernetFrame f) := of_one rfl rfl
theorem ptpMessage (port : Nat) (offsetNs : Int) (fabricNs : Nat) : Statement (.ptpMessage port offsetNs fabricNs) :=
  of_one rfl rfl
theorem hostPortDown (port : Nat) : Statement (.hostPortDown port) := of_one rfl rfl
theorem hostPortUp (port : Nat) : Statement (.hostPortUp port) := of_one rfl rfl
theorem osfpCageOvercurrent (port : Nat) : Statement (.osfpCageOvercurrent port) := of_one rfl rfl
theorem hostifRateWrite (port : Nat) (rate : BitVec 2) : Statement (.hostifRateWrite port rate) := of_one rfl rfl
theorem hostifAddressWrite (port : Nat) (off : Nat) (v : BitVec 64) : Statement (.hostifAddressWrite port off v) :=
  of_one rfl rfl
theorem hostifLoopback (port : Nat) : Statement (.hostifLoopback port) := of_one rfl rfl
theorem beadEdge (pkgMw : Nat) (ord : List Nat) : Statement (.beadEdge pkgMw ord) := of_none rfl
theorem admissionGap : Statement (.admissionGap) := of_none rfl
theorem cutPoint : Statement (.cutPoint) := of_none rfl
theorem multicastWindowClose (tree : Nat) : Statement (.multicastWindowClose tree) := of_none rfl
theorem ppsInEdge (offsetNs : Int) (widthNs : Nat) : Statement (.ppsInEdge offsetNs widthNs) := of_none rfl
theorem holdover : Statement (.holdover) := of_none rfl
theorem linkTimeExchange (link : Nat) (offsetNs : Int) (fabricNs : Nat) : Statement (.linkTimeExchange link offsetNs fabricNs) :=
  of_one rfl rfl
theorem bringUpInterval : Statement (.bringUpInterval) := of_none rfl
theorem pwrEnRise : Statement (.pwrEnRise) := of_none rfl
theorem powerGood (mv : Nat) : Statement (.powerGood mv) := of_none rfl
theorem pwrEnFall : Statement (.pwrEnFall) := of_none rfl
theorem resetNLow (widthNs : Nat) : Statement (.resetNLow widthNs) := of_none rfl
theorem resetNRelease : Statement (.resetNRelease) := of_none rfl
theorem inputStepFall (mv : Nat) : Statement (.inputStepFall mv) := of_none rfl
theorem inputStepRise (mv : Nat) : Statement (.inputStepRise mv) := of_none rfl
theorem overvoltage (mv : Nat) : Statement (.overvoltage mv) := of_none rfl
theorem railDroop (rail : Nat) (droopPermille : Nat) : Statement (.railDroop rail droopPermille) := of_one rfl rfl
theorem holdupFlushComplete : Statement (.holdupFlushComplete) := of_none rfl
theorem holdupMeasurement (t100us : Nat) : Statement (.holdupMeasurement t100us) := of_none rfl
theorem moduleReset : Statement (.moduleReset) := of_none rfl
theorem pllUnlock (refLost : Bool) : Statement (.pllUnlock refLost) := of_none rfl
theorem preparationEnd : Statement (.preparationEnd) := of_none rfl
theorem entryProperComplete : Statement (.entryProperComplete) := of_none rfl
theorem exitComplete : Statement (.exitComplete) := of_none rfl
theorem hbmStackTempRise (stack : Nat) (t16 : Int) : Statement (.hbmStackTempRise stack t16) := of_one rfl rfl
theorem hbmStackTempFall (stack : Nat) (t16 : Int) : Statement (.hbmStackTempFall stack t16) := of_one rfl rfl
theorem thermalCrossing (s : Sensor) (t16 : Int) : Statement (.thermalCrossing s t16) := of_sensor rfl rfl
theorem hardwareTrip (die : Nat) : Statement (.hardwareTrip die) := of_one rfl rfl
theorem sourceLatch (col : Nat) (mask : BitVec 64) (acc : Access) (unit : UnitName) : Statement (.sourceLatch col mask acc unit) :=
  of_source rfl rfl
theorem collectorSelf (col : Nat) (reactionState : Bool) : Statement (.collectorSelf col reactionState) := of_one rfl rfl
theorem blockResetComplete (unit : UnitName) (pass : Bool) : Statement (.blockResetComplete unit pass) := of_unit rfl rfl
theorem coreWatchdogExpiry (a : Bool) (b : Bool) : Statement (.coreWatchdogExpiry a b) := of_none rfl
theorem coreReady (isA : Bool) : Statement (.coreReady isA) := of_none rfl
theorem coreStop (isA : Bool) : Statement (.coreStop isA) := of_none rfl
theorem snap (space : Nat) : Statement (.snap space) := of_none rfl
theorem clear (space : Nat) (off : Nat) (all : Bool) : Statement (.clear space off all) := of_none rfl
theorem fcolStatusClear (col : Nat) (mask : BitVec 64) : Statement (.fcolStatusClear col mask) := of_one rfl rfl
theorem fcolForce (col : Nat) (mask : BitVec 64) : Statement (.fcolForce col mask) := of_one rfl rfl
theorem settingSpareHold (hold : BitVec 4) : Statement (.settingSpareHold hold) := of_none rfl
theorem facetFence (f : Nat) : Statement (.facetFence f) := of_one rfl rfl
theorem facetBist (f : Nat) : Statement (.facetBist f) := of_one rfl rfl
theorem facetBistDone (f : Nat) (pass : Bool) : Statement (.facetBistDone f pass) := of_one rfl rfl
theorem facetRelease (f : Nat) : Statement (.facetRelease f) := of_one rfl rfl
theorem nearmemMbist (b : Nat) : Statement (.nearmemMbist b) := of_one rfl rfl
theorem nearmemMbistDone (b : Nat) (pass : Bool) : Statement (.nearmemMbistDone b pass) := of_one rfl rfl
theorem nearmemReturn (b : Nat) : Statement (.nearmemReturn b) := of_one rfl rfl
theorem hbmChRetrain (ch : Nat) : Statement (.hbmChRetrain ch) := of_one rfl rfl
theorem hbmRetrainStart (ch : Nat) : Statement (.hbmRetrainStart ch) := of_one rfl rfl
theorem hbmRetrainEnd (ch : Nat) (pass : Bool) : Statement (.hbmRetrainEnd ch pass) := of_one rfl rfl
theorem hbmRetrainTimeout (ch : Nat) : Statement (.hbmRetrainTimeout ch) := of_one rfl rfl
theorem pinnedCopyRestore (coll : Nat) (page : Nat) : Statement (.pinnedCopyRestore coll page) := of_one rfl rfl
theorem pageRefill (coll : Nat) (page : Nat) : Statement (.pageRefill coll page) := of_one rfl rfl
theorem hbmMbist (ch : Nat) : Statement (.hbmMbist ch) := of_one rfl rfl
theorem hbmMbistDone (ch : Nat) (pass : Bool) : Statement (.hbmMbistDone ch pass) := of_one rfl rfl
theorem hbmReturn (ch : Nat) : Statement (.hbmReturn ch) := of_one rfl rfl
theorem flashChRetrain (c : Nat) : Statement (.flashChRetrain c) := of_one rfl rfl
theorem flashIfRetrainStart (c : Nat) : Statement (.flashIfRetrainStart c) := of_one rfl rfl
theorem flashIfRetrainEnd (c : Nat) (pass : Bool) : Statement (.flashIfRetrainEnd c pass) := of_one rfl rfl
theorem flashIfRetrainTimeout (c : Nat) : Statement (.flashIfRetrainTimeout c) := of_one rfl rfl
theorem flashScrub (c : Nat) : Statement (.flashScrub c) := of_one rfl rfl
theorem flashBypass (c : Nat) : Statement (.flashBypass c) := of_one rfl rfl
theorem flashReturn (c : Nat) (rate : BitVec 2) : Statement (.flashReturn c rate) := of_one rfl rfl
theorem flashProngTest (c : Nat) : Statement (.flashProngTest c) := of_one rfl rfl
theorem prongTestDone (c : Nat) (pass : Bool) : Statement (.prongTestDone c pass) := of_one rfl rfl
theorem wearLevelling (c : Nat) : Statement (.wearLevelling c) := of_one rfl rfl
theorem readDisturbRefresh (c : Nat) (block : Nat) : Statement (.readDisturbRefresh c block) := of_one rfl rfl
theorem retentionScrub (c : Nat) (block : Nat) (weak : List Nat) : Statement (.retentionScrub c block weak) := of_one rfl rfl
theorem freeBlockCollection (c : Nat) : Statement (.freeBlockCollection c) := of_one rfl rfl
theorem relocationComplete (unit : Nat) (chan : Nat) (block : Nat) : Statement (.relocationComplete unit chan block) :=
  of_one rfl rfl
theorem unitDrain (coll : Nat) (page : Nat) (chan : Nat) (block : Nat) : Statement (.unitDrain coll page chan block) :=
  of_one rfl rfl
theorem recoveryLadderEnd (c : Nat) (coll : Nat) (page : Nat) (r : LadderEnd) : Statement (.recoveryLadderEnd c coll page r) :=
  of_one rfl rfl
theorem nop (sid : Nat) : Statement (.nop sid) := of_none rfl
theorem seta (sid : Nat) (x : BitVec 3) (imm : BitVec 48) : Statement (.seta sid x imm) := of_none rfl
theorem adda (sid : Nat) (x : BitVec 3) (y : BitVec 3) (imm : BitVec 48) : Statement (.adda sid x y imm) := of_none rfl
theorem sets (sid : Nat) (x : BitVec 3) (imm : BitVec 48) : Statement (.sets sid x imm) := of_none rfl
theorem loop (sid : Nat) (x : BitVec 3) (imm : BitVec 48) : Statement (.loop sid x imm) := of_none rfl
theorem endl (sid : Nat) (x : BitVec 3) : Statement (.endl sid x) := of_none rfl
theorem read (sid : Nat) (x : BitVec 3) (f : BitVec 4) (imm : BitVec 48) : Statement (.read sid x f imm) := of_none rfl
theorem gather (sid : Nat) (x : BitVec 3) (y : BitVec 3) (f : BitVec 4) (imm : BitVec 48) : Statement (.gather sid x y f imm) :=
  of_none rfl
theorem skipmap (sid : Nat) (y : BitVec 3) (imm : BitVec 48) : Statement (.skipmap sid y imm) := of_none rfl
theorem tag (sid : Nat) (f : BitVec 4) (imm : BitVec 48) : Statement (.tag sid f imm) := of_none rfl
theorem bead (sid : Nat) (imm : BitVec 48) : Statement (.bead sid imm) := of_none rfl
theorem write (sid : Nat) (x : BitVec 3) : Statement (.write sid x) := of_none rfl
theorem msaop (sid : Nat) (x : BitVec 3) (f : BitVec 4) : Statement (.msaop sid x f) := of_none rfl
theorem halt (sid : Nat) : Statement (.halt sid) := of_none rfl
theorem msaAdd (ch : Nat) (addr : Nat) (fmt : MsaFmt) (v : BitVec 64) : Statement (.msaAdd ch addr fmt v) := of_one rfl rfl
theorem msaMin (ch : Nat) (addr : Nat) (fmt : MsaFmt) (v : BitVec 64) : Statement (.msaMin ch addr fmt v) := of_one rfl rfl
theorem msaMax (ch : Nat) (addr : Nat) (fmt : MsaFmt) (v : BitVec 64) : Statement (.msaMax ch addr fmt v) := of_one rfl rfl
theorem pieceComplete (sid : Nat) (slot : Nat) (r : PieceResult) : Statement (.pieceComplete sid slot r) := of_none rfl
theorem prongScreen (sid : Nat) (slot : Nat) : Statement (.prongScreen sid slot) := of_none rfl
theorem prongGate (sid : Nat) (slot : Nat) : Statement (.prongGate sid slot) := of_none rfl
theorem prongPass (sid : Nat) (slot : Nat) : Statement (.prongPass sid slot) := of_none rfl
theorem slotTake (sid : Nat) (scale : Option (List Byte)) (ord : List Nat) : Statement (.slotTake sid scale ord) := of_none rfl
theorem slotFinish (sid : Nat) : Statement (.slotFinish sid) := of_none rfl
theorem compaction (qid : Nat) : Statement (.compaction qid) := of_none rfl
theorem halfScaleRepeat (qid : Nat) (ord : List Nat) : Statement (.halfScaleRepeat qid ord) := of_none rfl
theorem repeatedPass (qid : Nat) : Statement (.repeatedPass qid) := of_none rfl
theorem claspMergeStart (qid : Nat) (st : ClaspStage) (ties : List Nat) : Statement (.claspMergeStart qid st ties) :=
  of_stage rfl rfl
theorem searchReply (qid : Nat) : Statement (.searchReply qid) := of_none rfl
theorem readItemReply (queue : Nat) (tag : Nat) (uncorrectable : Bool) : Statement (.readItemReply queue tag uncorrectable) :=
  of_two rfl rfl
theorem mergeBuildComplete (coll : Nat) (aborted : Bool) (ord : List Nat) : Statement (.mergeBuildComplete coll aborted ord) :=
  of_one rfl rfl
theorem signatureBuildComplete (coll : Nat) (aborted : Bool) (ord : List Nat) : Statement (.signatureBuildComplete coll aborted ord) :=
  of_one rfl rfl
theorem microBatchStart (run : Nat) : Statement (.microBatchStart run) := of_none rfl
theorem optimiserUpdate (run : Nat) (aborted : Bool) (sid : Nat) : Statement (.optimiserUpdate run aborted sid) :=
  of_none rfl
theorem driftWindowEnd : Statement (.driftWindowEnd) := of_none rfl
theorem learnDriftWindowWrite (v : BitVec 64) : Statement (.learnDriftWindowWrite v) := of_none rfl
theorem learnDriftLimitWrite (v : BitVec 64) : Statement (.learnDriftLimitWrite v) := of_none rfl
theorem learnSatClearOne (queue : Nat) : Statement (.learnSatClearOne queue) := of_one rfl rfl
theorem learnSatClearTensor (queue : Nat) : Statement (.learnSatClearTensor queue) := of_one rfl rfl
theorem partialSettingFence : Statement (.partialSettingFence) := of_none rfl
theorem partialSettingRelease : Statement (.partialSettingRelease) := of_none rfl
theorem linkTrainingComplete (l : Nat) (peer : Option (BitVec 128)) : Statement (.linkTrainingComplete l peer) :=
  of_one rfl rfl
theorem ident (l : Nat) (m : IdentMsg) : Statement (.ident l m) := of_one rfl rfl
theorem discoveryTimeout : Statement (.discoveryTimeout) := of_none rfl
theorem linkDown (l : Nat) : Statement (.linkDown l) := of_one rfl rfl
theorem linkRetrainTimer (l : Nat) : Statement (.linkRetrainTimer l) := of_one rfl rfl
theorem retry (l : Nat) (seq : BitVec 16) : Statement (.retry l seq) := of_one rfl rfl
theorem flitError (l : Nat) (uncorrectable : Bool) : Statement (.flitError l uncorrectable) := of_one rfl rfl
theorem faultNotice (l : Nat) (n : Notice) : Statement (.faultNotice l n) := of_elem rfl rfl
theorem repairNotice (l : Nat) (n : Notice) : Statement (.repairNotice l n) := of_elem rfl rfl
theorem mgmtAccess (l : Nat) (h : MsgHdr) (body : List Byte) : Statement (.mgmtAccess l h body) := of_one rfl rfl
theorem query (l : Nat) (h : MsgHdr) (range : Bool) (c : Capsule) : Statement (.query l h range c) := of_one rfl rfl
theorem bundleEnd (l : Nat) (h : MsgHdr) : Statement (.bundleEnd l h) := of_one rfl rfl
theorem bundleAck (l : Nat) (h : MsgHdr) : Statement (.bundleAck l h) := of_one rfl rfl
theorem bundleDrop (l : Nat) (h : MsgHdr) : Statement (.bundleDrop l h) := of_one rfl rfl
theorem list (l : Nat) (h : MsgHdr) (b : ListBody) : Statement (.list l h b) := of_one rfl rfl
theorem gatherReq (l : Nat) (h : MsgHdr) (slots : List Nat) : Statement (.gatherReq l h slots) := of_one rfl rfl
theorem gatherRows (l : Nat) (h : MsgHdr) (rows : List (Nat × List Byte)) : Statement (.gatherRows l h rows) := of_one rfl rfl
theorem fabricLinkRetrain (l : Nat) : Statement (.fabricLinkRetrain l) := of_one rfl rfl
theorem fabricLoopback (l : Nat) : Statement (.fabricLoopback l) := of_one rfl rfl
theorem fabricSetDown (l : Nat) : Statement (.fabricSetDown l) := of_one rfl rfl
theorem revokeSlot : Statement (.revokeSlot) := of_none rfl
theorem advanceLifecycle : Statement (.advanceLifecycle) := of_none rfl
theorem debugOpen : Statement (.debugOpen) := of_none rfl
theorem setDebugLock : Statement (.setDebugLock) := of_none rfl
theorem hubHotClear : Statement (.hubHotClear) := of_none rfl
theorem boundaryScanInstruction (i : ScanInstr) : Statement (.boundaryScanInstruction i) := of_none rfl
theorem fruAccess (op : FruOp) : Statement (.fruAccess op) := of_none rfl
theorem osfpModuleInserted (port : Nat) (supported : Bool) : Statement (.osfpModuleInserted port supported) := of_one rfl rfl
theorem osfpModuleRemoved (port : Nat) : Statement (.osfpModuleRemoved port) := of_one rfl rfl
theorem installationComplete (coll : Nat) (page : Nat) : Statement (.installationComplete coll page) := of_one rfl rfl
theorem credit (l : Nat) (ackSeq : BitVec 16) (cls : BitVec 2) (buf : BitVec 2) (n : BitVec 12) : Statement (.credit l ackSeq cls buf n) :=
  of_one rfl rfl

end Sys2Proof.Laws.Bounds
end

