-- ==== Sys2Proof/Laws/Power.lean ====
section
/-! SUPPORT. What the flush, the shutdown and the shed steps leave in the power registers. -/

namespace Sys2Proof.Machine

theorem abandonPrep_power (u : State) : (abandonPrep u).power.flushing = u.power.flushing ∧ (abandonPrep u).power.inputMv = u.power.inputMv ∧
       (abandonPrep u).power.below = u.power.below ∧ (abandonPrep u).power.effective = u.power.effective ∧
       (abandonPrep u).power.overvolt = u.power.overvolt ∧ (abandonPrep u).power.errTrip = u.power.errTrip := by
  unfold abandonPrep
  split
  · dsimp only
    split
    · rename_i r hr
      have := (refuse_follows (T := [.out,.host,.queues,.events,.counters,.flash,.pools]) (z := u.modPower fun p => { p with preparing := false, target := p.pstate, psCmd := none }) (q := r.queue) (t := r.tag) (st := 0x0220) (by decide) (State.follows_refl _ _)).frame .power (by decide)
      simp only [State.same] at this
      rw [this]; exact ⟨rfl, rfl, rfl, rfl, rfl, rfl⟩
    · exact ⟨rfl, rfl, rfl, rfl, rfl, rfl⟩
  · exact ⟨rfl, rfl, rfl, rfl, rfl, rfl⟩
theorem startFlush_power (s : State) : (startFlush s).power.flushing = true ∧ (startFlush s).power.inputMv = s.power.inputMv ∧
   (startFlush s).power.below = s.power.below ∧ (startFlush s).power.effective = s.power.effective ∧ (startFlush s).power.overvolt = s.power.overvolt
   ∧ (startFlush s).power.errTrip = s.power.errTrip := by
  unfold startFlush
  split
  · rename_i h; exact ⟨h, rfl, rfl, rfl, rfl, rfl⟩
  · dsimp only
    generalize hu : cancelTasks _ _ = u
    have e : u.power = (s.modPower fun p => { p with flushing := true }).power := by
      have hf : State.follows (s.modPower fun p => { p with flushing := true }) [.out,.host,.queues,.events,.counters,.flash,.pools,.streams] u := by
        rw [← hu]
        exact cancelTasks_follows (by decide) (foldl_follows _ _ (fun t x h => refuse_follows (by decide) h) _ (raiseEvent_follows (by decide) (State.follows_refl _ _)))
      exact hf.frame .power (by decide)
    have := abandonPrep_power u
    rw [e] at this
    exact this
theorem stopForFlush_power (s : State) : (stopForFlush s).power.phase = .flushing ∧ (stopForFlush s).power.flushing = true ∧
   (stopForFlush s).power.inputMv = s.power.inputMv ∧ (stopForFlush s).power.below = s.power.below ∧
   (stopForFlush s).power.effective = s.power.effective ∧ (stopForFlush s).power.overvolt = s.power.overvolt :=
  ⟨rfl, rfl, rfl, rfl, rfl, rfl⟩
theorem shutDown_power (s : State) : (shutDown s).power.phase = .flushing ∧ (shutDown s).power.downAfter = true ∧ (shutDown s).power.flushing = true ∧ (shutDown s).power.inputMv = s.power.inputMv ∧
   (shutDown s).power.below = s.power.below ∧ (shutDown s).power.effective = s.power.effective ∧ (shutDown s).power.overvolt = s.power.overvolt
   ∧ (shutDown s).power.errTrip = s.power.errTrip := by
  have := startFlush_power s
  unfold shutDown stopForFlush State.modPower
  exact ⟨rfl, rfl, rfl, this.2⟩
theorem shedEvents_power (s : State) (xs : List Nat) (f : Nat → Nat) (d : Nat) : (xs.foldl (fun t i => shedEvent t (f i) d) s).power = s.power :=
  (foldl_follows (k := s) (T := [.out,.host,.events,.counters]) (fun t i => shedEvent t (f i) d) xs (fun t x h => shedEvent_follows (by decide) h) s (State.follows_refl _ _)).frame .power (by decide)
theorem enterSteps_power (s : State) (n5 d : Nat) :
    (enterSteps s n5 d).power.effective = max s.power.effective n5 ∧ (enterSteps s n5 d).power.inputMv = s.power.inputMv ∧
    (enterSteps s n5 d).power.below = s.power.below ∧ (enterSteps s n5 d).power.overvolt = s.power.overvolt ∧
    (s.power.effective < 4 → 4 ≤ n5 → (enterSteps s n5 d).power.flushing = true) ∧
    (s.power.effective < 5 → 5 ≤ n5 → (enterSteps s n5 d).power.phase = .flushing ∧ (enterSteps s n5 d).power.flushing = true) := by
  unfold enterSteps
  dsimp only
  split
  · rename_i h
    refine ⟨by omega, rfl, rfl, rfl, fun a b => by omega, fun a b => by omega⟩
  · rename_i h
    have e := shedEvents_power s (List.range (n5 - s.power.effective)) (fun i => s.power.effective + 1 + i) d
    generalize hs : List.foldl (fun t i => shedEvent t (s.power.effective + 1 + i) d) s (List.range (n5 - s.power.effective)) = s1 at e
    have hm : max s.power.effective n5 = n5 := by omega
    rw [hm]
    have hsf := startFlush_power (s1.modPower fun p => { p with effective := n5 })
    have hd := stopForFlush_power (startFlush (s1.modPower fun p => { p with effective := n5 }))
    have hd2 := stopForFlush_power (s1.modPower fun p => { p with effective := n5 })
    have hp : (s1.modPower fun p => { p with effective := n5 }).power = { s.power with effective := n5 } := by
      unfold State.modPower; rw [← e]
    rw [hp] at hsf hd2
    by_cases g4 : s.power.effective < 4 ∧ 4 ≤ n5 <;> by_cases g5 : 5 ≤ n5
    · simp [g4, g5, hd, hsf]
    · simp [g4, g5, hsf]
    · have : ¬ s.power.effective < 4 := by omega
      simp [this, g5, hd2]
    · have : ¬ (decide (s.power.effective < 4) && decide (4 ≤ n5)) = true := by simpa using g4
      rw [if_neg this, if_neg g5, hp]
      refine ⟨rfl, rfl, rfl, rfl, fun a b => absurd ⟨a, b⟩ g4, fun a b => absurd b g5⟩

end Sys2Proof.Machine
end

