-- ==== Sys2Proof/Laws/Sort.lean ====
section
/-! SUPPORT. What sorting gives: a permutation of the list, in order where the order is total and transitive. -/

namespace Sys2Proof.Machine

theorem insertBy_perm {α : Type} (le : α → α → Bool) (a : α) (xs : List α) : (insertBy le a xs).Perm (a :: xs) := by
  induction xs with
  | nil => exact List.Perm.refl _
  | cons b r ih =>
    simp only [insertBy]
    split
    · exact List.Perm.refl _
    · exact (ih.cons b).trans (List.Perm.swap a b r)

theorem sortBy_perm {α : Type} (le : α → α → Bool) (xs : List α) : (sortBy le xs).Perm xs := by
  induction xs with
  | nil => exact List.Perm.refl _
  | cons a r ih => exact (insertBy_perm le a _).trans (ih.cons a)

@[simp] theorem length_sortBy {α : Type} (le : α → α → Bool) (xs : List α) : (sortBy le xs).length = xs.length :=
  (sortBy_perm le xs).length_eq

@[simp] theorem mem_sortBy {α : Type} (le : α → α → Bool) (xs : List α) (x : α) : x ∈ sortBy le xs ↔ x ∈ xs :=
  (sortBy_perm le xs).mem_iff

theorem insertBy_pairwise {α : Type} {le : α → α → Bool} (total : ∀ a b, le a b = true ∨ le b a = true)
    (trans : ∀ a b c, le a b = true → le b c = true → le a c = true) (a : α) {xs : List α}
    (h : xs.Pairwise fun x y => le x y = true) : (insertBy le a xs).Pairwise fun x y => le x y = true := by
  induction xs with
  | nil => simp [insertBy]
  | cons b r ih =>
    obtain ⟨hb, hr⟩ := List.pairwise_cons.mp h
    simp only [insertBy]
    split
    · next hab => exact List.pairwise_cons.mpr ⟨fun c hc => by
        rcases List.mem_cons.mp hc with rfl | hc
        · exact hab
        · exact trans _ _ _ hab (hb _ hc), h⟩
    · next hab => exact List.pairwise_cons.mpr ⟨fun c hc => by
        rcases List.mem_cons.mp ((insertBy_perm le a r).mem_iff.mp hc) with rfl | hc
        · exact (total _ _).resolve_left hab
        · exact hb _ hc, ih hr⟩

theorem sortBy_pairwise {α : Type} {le : α → α → Bool} (total : ∀ a b, le a b = true ∨ le b a = true)
    (trans : ∀ a b c, le a b = true → le b c = true → le a c = true) (xs : List α) :
    (sortBy le xs).Pairwise fun x y => le x y = true := by
  induction xs with
  | nil => exact List.Pairwise.nil
  | cons a r ih => exact insertBy_pairwise total trans a ih

end Sys2Proof.Machine
end

