-- ==== Sys2Proof/Laws/Submit.lean ====
section
/-! SUPPORT. What the arrival of a capsule does before its command is decided, and what a reply leaves. -/

namespace Sys2Proof.Machine

/-- Queueing a capsule changes nothing but the host's connections, the queues and, on a wake-up, the power state's exit. -/
theorem queued_frame (op : BitVec 8) (c : Capsule) (s : State) :
    (queued op c s).out = s.out ∧ (queued op c s).free = s.free ∧ (queued op c s).time = s.time ∧
      (queued op c s).cores = s.cores ∧ (queued op c s).locket = s.locket ∧ (queued op c s).events = s.events ∧
      (queued op c s).counters = s.counters ∧ (queued op c s).loader = s.loader ∧ (queued op c s).facets = s.facets ∧
      (queued op c s).facetRam = s.facetRam ∧ (queued op c s).collectors = s.collectors ∧ (queued op c s).near = s.near ∧
      (queued op c s).hbm = s.hbm ∧ (queued op c s).flash = s.flash ∧ (queued op c s).colls = s.colls ∧
      (queued op c s).pools = s.pools ∧ (queued op c s).streams = s.streams ∧ (queued op c s).search = s.search ∧
      (queued op c s).fabric = s.fabric ∧ (queued op c s).learn = s.learn ∧ (queued op c s).board = s.board ∧
      (queued op c s).pending = s.pending := by
  unfold queued
  split
  · exact ⟨rfl, rfl, rfl, rfl, rfl, rfl, rfl, rfl, rfl, rfl, rfl, rfl, rfl, rfl, rfl, rfl, rfl, rfl, rfl, rfl, rfl, rfl⟩
  · dsimp only
    unfold wakeUp
    split <;> exact ⟨rfl, rfl, rfl, rfl, rfl, rfl, rfl, rfl, rfl, rfl, rfl, rfl, rfl, rfl, rfl, rfl, rfl, rfl, rfl, rfl, rfl, rfl⟩

/-- An arriving capsule that passes every check and need not wait is decided at once. -/
theorem receive_submits {op : BitVec 8} {c : Capsule} {s : State} (d : State → Cmd → State) (h : submits op c s) :
    receive op c d s = d (queued op c s) (arrival op c s) := by
  obtain ⟨h1, h2, h3, _, h4, h5⟩ := h
  unfold receive
  unfold queued at h5 ⊢
  unfold State.live at h2
  cases e : getConn s c.conn with
  | none => rw [e] at h2; cases h2
  | some k =>
    rw [e] at h2 h5
    simp only [Option.map_some, Option.some.injEq, Prod.mk.injEq] at h2
    have up : isUp s = true := by simp [isUp, h1]
    have a : headCheck (setConn s c.conn { k with open_ := k.open_ + 1 }) c = 0 := h3
    dsimp only at h5 ⊢
    rw [if_neg (by simp [up, h2]), if_neg (by rw [a]; decide)]
    have b : bodyCheck (State.modQueues (takeTag (setConn s c.conn { k with open_ := k.open_ + 1 }) c.queue.toNat c.tag.toNat)
        fun u => { u with cmds := u.cmds ++ [arrival op c s], arrivals := u.arrivals + 1 }) op c = 0 := h4
    have g : ∀ x : BitVec 16, x = 0 → ¬(x != 0) = true := by
      intro x hx
      rw [hx]
      decide
    exact (if_neg (g _ b)).trans (if_pos h5)

theorem findCmd_append {s t : State} {x : Cmd} (h : t.queues.cmds = s.queues.cmds ++ [x])
    (h0 : findCmd s x.ref.queue x.ref.tag = none) : findCmd t x.ref.queue x.ref.tag = some x := by
  unfold findCmd at *
  rw [h, List.find?_append, h0]
  simp [sameCmd]

/-- The command of an arriving capsule stands in its queue under its tag. -/
theorem queued_find {op : BitVec 8} {c : Capsule} {s : State} (h : s.live c.conn)
    (h0 : findCmd s c.queue.toNat c.tag.toNat = none) :
    findCmd (queued op c s) c.queue.toNat c.tag.toNat = some (arrival op c s) := by
  refine findCmd_append (x := arrival op c s) ?_ h0
  unfold queued
  unfold State.live at h
  cases e : getConn s c.conn with
  | none => rw [e] at h; cases h
  | some k =>
    dsimp only
    unfold wakeUp
    split <;> rfl

theorem queued_live {op : BitVec 8} {c : Capsule} {s : State} (h : s.live c.conn) : (queued op c s).live c.conn := by
  unfold queued
  unfold State.live at *
  cases e : getConn s c.conn with
  | none => rw [e] at h; cases h
  | some k =>
    rw [e] at h
    dsimp only
    have : ∀ x : State, getConn (wakeUp x op) c.conn = getConn x c.conn := by
      intro x
      unfold wakeUp
      split <;> rfl
    rw [this]
    show (getConn (setConn s c.conn _) c.conn).map _ = _
    rw [getConn_setConn, if_pos rfl]
    exact h

/-- Sending touches nothing but the host, the log, the counters and what was sent. -/
theorem transmit_queues (s : State) (r : CmdRef) (st : BitVec 16) (area : BitVec 320) (body : List Byte) :
    (transmit s r st area body).queues = s.queues := by
  unfold transmit
  split
  · rfl
  · split
    · rfl
    · rename_i c _ _
      have k : (keepSent s r.conn c c.admin (replyBytes r st area body) none).2.queues = s.queues :=
        (keepSent_follows (T := [.host]) (by decide) (State.follows_refl _ s)).frame .queues (by decide)
      dsimp only
      split
      · exact k
      · simp only [bump, bumpN_frame, emit, k]

/-- A reply on a live connection is sent, and its tag and its command are gone. -/
theorem answer_answered {s : State} {q t : Nat} {c : Cmd} (st : BitVec 16) (area : BitVec 320) (body : List Byte)
    (hf : findCmd s q t = some c) (hl : s.live c.ref.conn) : answered c.ref st area body (answer s q t st area body) := by
  have hc : c.ref.queue = q ∧ c.ref.tag = t := by
    have := List.find?_some hf
    simpa [sameCmd] using this
  refine ⟨answer_sends s q t st area body c hf hl, ?_, ?_⟩
  · rw [hc.1, hc.2]
    unfold findCmd
    rw [answer_cmds, List.find?_eq_none]
    intro x hx
    have := (List.mem_filter.mp hx).2
    simpa using this
  · intro u hu
    rw [hc.1] at hu
    rw [hc.2]
    unfold answer at hu
    rw [hf] at hu
    dsimp only at hu
    unfold freeTag at hu
    dsimp only at hu
    rw [Tab.get_upd, if_pos rfl] at hu
    revert hu
    generalize Tab.get _ q = o
    intro hu
    cases o with
    | none => cases hu
    | some v =>
      simp only [Option.map_some, Option.some.injEq] at hu
      rw [← hu]
      simp only [BitVec.getLsbD_and, BitVec.getLsbD_not, BitVec.getLsbD_ofNat, Nat.testBit_two_pow_self]
      by_cases g : t < 32
      · simp [g]
      · simp [g, BitVec.getLsbD_of_ge _ _ (Nat.le_of_not_lt g)]

end Sys2Proof.Machine
end

