-- ==== Sys2Proof/Machine/Stored.lean ====
section
/-! DEFINITION. What flash holds for a page of a collection range: its bytes, encrypted where the collection is (R219), and cut
into stripe-class fragments (R204) or protected by a parity unit (R200). The state holds the contents themselves as
items, entries and bitmaps, so the stored form is computed from it. -/

namespace Sys2Proof.Machine

def xorBytes (a b : List Byte) : List Byte := List.zipWith (· ^^^ ·) a b

/-- The byte-wise XOR of some units or fragments of `n` bytes. -/
def parityOf (n : Nat) (us : List (List Byte)) : List Byte := us.foldl xorBytes (List.replicate n 0)

/-! ## Parity stripes and fragments (R200, R204, R205) -/

/-- The parity unit of the 31 data units of a stripe (R200). -/
def parityUnit (us : List (List Byte)) : List Byte := parityOf pageSize us

/-- A unit rebuilt from the other 31 units of its stripe (R206, R208). -/
def rebuildUnit (others : List (List Byte)) : List Byte := parityOf pageSize others

def fragmentBytes : Nat := 4384

/-- Data fragment `i` of a page: 4,384 bytes, the fifteenth padded with zero bytes (R204). -/
def dataFragment (page : List Byte) (i : Nat) : List Byte :=
  let bs := (page.drop (fragmentBytes * i)).take fragmentBytes
  bs ++ List.replicate (fragmentBytes - bs.length) 0

/-- The 16 fragments of a stripe-class page, the parity fragment last (R204). -/
def fragmentsOf (page : List Byte) : List (List Byte) :=
  let ds := (List.range 15).map (dataFragment page)
  ds ++ [parityOf fragmentBytes ds]

/-- The page from its fragments of which at most one is missing (R205). -/
def rebuildPage (fs : List (Option (List Byte))) : List Byte :=
  let have_ := fs.filterMap id
  let fill := parityOf fragmentBytes have_
  (((fs.map fun f => f.getD fill).take 15).flatten).take pageSize

/-! ## Encryption (R219) -/

/-- Multiplication by x in GF(2^128), the block a little-endian number (IEEE 1619). -/
def gfDouble (t : Nat) : Nat := (2 * t % 2 ^ 128) ^^^ (if 2 ^ 127 ≤ t then 0x87 else 0)

/-- One SM4 block: bytes in, bytes out. -/
def sm4Bytes (key : BitVec 128) (bs : List Byte) : List Byte := beBytes 16 (Config.sm4 key (BitVec.ofNat 128 (beNat bs))).toNat

/-- The blocks of a data unit from tweak `t` on. -/
def xtsBlocks (key : BitVec 128) : Nat → List (List Byte) → List (List Byte)
  | _, [] => []
  | t, b :: bs => xorBytes (sm4Bytes key (xorBytes b (leBytes 16 t))) (leBytes 16 t) :: xtsBlocks key (gfDouble t) bs

/-- The tweak of a data unit: range offset >> 12 in bits [35:0], collection in bits [47:36]. -/
def tweakOf (coll off : Nat) : Nat := off / 4096 % 2 ^ 36 + coll % 2 ^ 12 * 2 ^ 36

/-- XTS-SM4 of one data unit of 4,096 bytes. -/
def xtsUnit (key : BitVec 256) (coll off : Nat) (bs : List Byte) : List Byte :=
  let t := leNat (sm4Bytes (keyHalves key).2 (leBytes 16 (tweakOf coll off)))
  (xtsBlocks (keyHalves key).1 t (chunks 16 bs)).flatten

/-! ## A page as it stands on flash -/

/-- The bytes of a page; what no content names reads as zero here (log entry 68). -/
def pageBytes (c : Coll) (page : Nat) : List Byte := (List.range pageSize).map fun i => (rangeByte c (page * pageSize + i)).getD 0

/-- The bytes of a page as they are programmed: encrypted data unit by data unit in an encrypted collection. -/
def storedPage (s : State) (coll : Nat) (c : Coll) (page : Nat) : List Byte :=
  let bs := pageBytes c page
  match s.locket.keys.get coll with
  | some k => if c.params.encrypted then ((chunks 4096 bs).zipIdx.map fun (u, i) => xtsUnit k coll (page * pageSize + 4096 * i) u).flatten else bs
  | none => bs

/-- The fragment of a stripe-class page on a channel (R204). -/
def storedFragment (s : State) (coll : Nat) (c : Coll) (page chan : Nat) : Option (List Byte) :=
  ((stripeGroup coll page).idxOf? chan).bind fun i => (fragmentsOf (storedPage s coll c page))[i]?

end Sys2Proof.Machine
end

