-- ==== Sys2Proof/Tests/Slice0.lean ====
section
/-! SUPPORT. Tests on small states. For each statement of Certificates/Slice0 that has hypotheses, one theorem shows a concrete
state and operands that meet them, for each clause, and what the command then does. Expected values are worked out from the rules
the statements cite. -/

set_option Elab.async false

namespace Sys2Proof.Tests
open Sys2Proof Sys2Proof.Machine

/-- A property of the next state, as a test evaluates it. -/
def after (i : Instr) (s : State) (p : State → Bool) : Bool :=
  match exec i s with
  | .next t => p t
  | _ => false

/-- The replies sent, newest first: queue, tag, status and parameter area. -/
def replies (t : State) : List (Nat × Nat × BitVec 16 × BitVec 320) :=
  t.out.filterMap fun o => match o with
    | .reply r st a _ => some (r.queue, r.tag, st, a)
    | _ => none

def enc0 : Encoder :=
  { inputDim := 2, layers := 0, wformat := 2, group := 0, out := [], trunk := [], actScale := [], weights := [], wScale := [],
    books := [], sigs := [0, 1], actOff := [], wOff := [] }

def params0 : CollParams :=
  { sketchBits := 64, subcodes := 8, log2Buckets := 1, metric := 0, vecFormat := 0, vecDims := 0, maxRow := 16, bridges := 4,
    filterSlots := 2, sideCap := 8, slotCap := 64, rdShare := 4, near := false, nearDie := 0, stripe := false, encrypted := false }

def att0 : AttachRec := ⟨7, 0, 1, 0, 0, 1000, 1000, 1000⟩

/-- Collection 5: one item of id 9 in slot 0, stamped in bead 2. -/
def coll0 : Coll :=
  { attached := true, params := params0, slotBase := 0, att := att0, keyCheck := 0, items := [(0, ⟨9, 2, none, [1, 2]⟩)]
    side := [⟨⟨0, 0, 3, [0, 0, 0, 0, 0, 0, 0, 1], []⟩, false, none⟩], sideLost := [], rewrites := [], segs := [], nextSeg := 0, tombs := [], recent := []
    clearing := [], filters := [], epochs := [⟨0, enc0, 0⟩], merge := none, promo := none, pages := [], work := none, thenDelete := none, relHeads := 0
    detachBead := 0, withdrawn := false, wantMerge := false, creditNear := 1000, creditHbm := 1000, creditFlash := 1000
    resident := 2, admittedInBead := 0, hbmPlacedNow := 0 }

def group1 : GroupRec := ⟨1, 0xFFFF, 2, 4, false, 0xFFFF⟩

/-- A full setting with one pipeline over all facets and no programs. -/
def setting0 : Setting :=
  { serial := 1, grouping := ⟨0, (List.range 64).map (fun i => 17 * (i / 16) + i % 16), [group1]⟩
    carve := ⟨[0, 0, 0, 0], 1024, 4096, 4096, 0, [0, 0, 0, 0], 2, 4, 16, 10, 1000, 16⟩, driftW := 4096, driftD := 64
    formats := [⟨1, 3, 0, 0, 16, 8, 20⟩], queues := [⟨16, 31, 0⟩], arithDiv := 8, nearDiv := 6, periodUs := 20, source := 1
    sourceArg := 0
    fabric := ⟨0x11, [4, 4, 1, 1, 1], [none, none], 16, 10, 77, List.replicate 12 0, [⟨3, [2], 4, 64, [(0x11, 7), (0x12, 8)]⟩]⟩
    reactions := [], shed := [(44000, 45000), (42500, 43500), (41000, 42000), (39500, 40500), (36000, 0)], programs := [], prongVersion := 0 }

def conn0 : Conn :=
  { admin := true, port := 0, openPort := 0, addr := 5, udp := 4000, home := (5, 4000), alt := none, rxNext := 1
    txNext := 1, asm := none, open_ := 0, closing := false, failed := false, closed := false, armed := 0, store := [] }

/-- A module past step 2, with nothing else. -/
def booted : State :=
  { State.reset with power := { Power.reset with phase := .up, pwrEn := true, powerGood := true, pllLocked := true } }

def ports0 : List Port := [{ Port.reset with pcs := true, state := 1, useIpv6 := 9, useIpv6ctl := 0x8000000000000000 }, Port.reset, { Port.reset with rate := 3 }]

/-- A module that serves: a setting, fabric time in bead 10, connection 1 with queues 0 and 20, and collection 5. -/
def serving : State :=
  { booted with
    time := { TimeBase.reset with held := true, started := true, now := 200500, periodUs := 20, source := 1 }
    host := { HostIf.reset with conns := [(1, conn0)], ports := ports0 }
    queues := { Queues.reset with queues := [(0, ⟨some 1, false, 0⟩), (20, ⟨some 1, false, 0⟩)] }
    loader := { Loader.reset with setting := some setting0, firmware := true, map := setting0.grouping.map, groups := [group1] }
    locket := { Locket.reset with idKey := some 3 }
    fabric := { Fabric.reset with addr := 0x11, assigned := true, len := [4, 4, 1, 1, 1] }
    flash := { Flash.reset with mapReady := true, chans := List.replicate 64 { FlashCh.reset with rate := 0 } }
    colls := [(5, coll0)] }

/-- A capsule on connection 1, tag 2, with the given parameter area and payload. -/
def capsule (q : BitVec 15) (coll : BitVec 12) (flags : BitVec 8) (deadline : BitVec 12) (k : BitVec 17) (area : BitVec 320)
    (body : List Byte) : Capsule :=
  ⟨0, 1, flags, 0, q, 2, coll, deadline, k, 0, BitVec.ofNat 32 body.length, 0xAB, area, body⟩

def admin (area : BitVec 320) (body : List Byte) : Capsule := capsule 0 0 0 0 0 area body
def dataCap (area : BitVec 320) (body : List Byte) : Capsule := capsule 20 5 0 0 0 area body

/-- `submits` as a test evaluates it. -/
def submitted (op : BitVec 8) (c : Capsule) (s : State) : Bool :=
  s.power.phase == .up && (getConn s c.conn).map (fun k => (k.failed, k.closed)) == some (false, false) && headCheck s c == 0 && (findCmd s c.queue.toNat c.tag.toNat).isNone &&
    bodyCheck s op c == 0 && cmdReady (queued op c s) (arrival op c s)

theorem submitted_submits {op : BitVec 8} {c : Capsule} {s : State} (h : submitted op c s = true) : submits op c s := by
  simp only [submitted, Bool.and_eq_true, beq_iff_eq, Option.isNone_iff_eq_none] at h
  exact ⟨h.1.1.1.1.1, (h.1.1.1.1.2 : s.live c.conn), h.1.1.1.2, h.1.1.2, h.1.2, h.2⟩

/-! ## Well-formed commands: an ill-formed term for each check -/

theorem test_wf_capsule : (Instr.flush (dataCap 0 [])).wf = true ∧ (Instr.flush { dataCap 0 [] with port := 3 }).wf = false ∧
    (Instr.flush { dataCap 0 [] with conn := 8192 }).wf = false := by decide
theorem test_wf_queues : (Instr.commandReady 32767 31).wf = true ∧ (Instr.commandReady 32768 0).wf = false ∧
    (Instr.writeCommit 0 32 0 []).wf = false ∧ (Instr.readItemReply 32768 0 false).wf = false ∧ (Instr.flushComplete 0 32).wf = false ∧
    (Instr.learnSatClearOne 32768).wf = false ∧ (Instr.learnSatClearTensor 32768).wf = false := by decide
theorem test_wf_ports : (Instr.connect ⟨2, 0, 0, 65535, false, false, 0, 0⟩).wf = true ∧
    (Instr.connect ⟨3, 0, 0, 0, false, false, 0, 0⟩).wf = false ∧ (Instr.connect ⟨0, 0, 0, 65536, false, false, 0, 0⟩).wf = false ∧
    (Instr.data ⟨3, 0, 0, 0, true, true, 0, 0, []⟩).wf = false ∧ (Instr.ack 0 8192 0).wf = false ∧ (Instr.close 3 0).wf = false ∧
    (Instr.replyRetransmit 8192).wf = false ∧ (Instr.hostPortDown 3).wf = false ∧ (Instr.hostifRateWrite 3 0).wf = false ∧
    (Instr.hostifAddressWrite 3 0 0).wf = false ∧ (Instr.osfpModuleRemoved 2).wf = false ∧ (Instr.osfpModuleInserted 2 true).wf = false := by
  decide
theorem test_wf_parts : (Instr.railDroop 9 0).wf = false ∧ (Instr.hbmStackTempRise 8 0).wf = false ∧
    (Instr.thermalCrossing (.facet 68) 0).wf = false ∧ (Instr.thermalCrossing (.die 4) 0).wf = false ∧
    (Instr.thermalCrossing (.flash 64) 0).wf = false ∧ (Instr.hardwareTrip 4).wf = false ∧ (Instr.collectorSelf 73 true).wf = false ∧
    (Instr.facetFence 68).wf = false ∧ (Instr.nearmemMbist 2048).wf = false ∧ (Instr.hbmMbist 256).wf = false ∧
    (Instr.flashScrub 64).wf = false ∧ (Instr.msaAdd 264 0 .int32 0).wf = false ∧ (Instr.claspMergeStart 0 (.die 4) []).wf = false ∧
    (Instr.linkDown 12).wf = false ∧ (Instr.collectionWorkEnd 4096).wf = false := by decide
theorem test_wf_units : (Instr.sourceLatch 72 0 (noAccess 72 0) (.facet 68)).wf = false ∧ (Instr.blockResetComplete (.scanner 2048) true).wf = false ∧
    (Instr.blockResetComplete (.dieClasp 4) true).wf = false ∧ (Instr.blockResetComplete (.dieCtrl 4) true).wf = false ∧
    (Instr.blockResetComplete (.flash 64) true).wf = false ∧ (Instr.blockResetComplete (.prong 64) true).wf = false ∧
    (Instr.blockResetComplete (.hbm 256) true).wf = false ∧ (Instr.blockResetComplete (.link 12) true).wf = false ∧
    (Instr.blockResetComplete (.port 3) true).wf = false ∧ (Instr.faultNotice 0 ⟨0, 0, .link 0 12, 0⟩).wf = false := by decide
theorem test_no_word_spells_a_command : decodeTableWord 32 0 = none ∧ booted.withFetchWord 32 0 = booted := ⟨rfl, rfl⟩

/-! ## The queue and the clock -/

theorem test_step_front : step { booted with pending := [.pwrEnFall, .hubHotClear] } =
    exec .pwrEnFall { booted with pending := [.hubHotClear] } := rfl
theorem test_step_idle : step State.reset = .next State.reset := rfl
theorem test_idle_time : serving.pending = [] ∧ serving.time.held = true ∧ serving.time.now % periodNs serving + 2000 < periodNs serving ∧
    (idleTick serving).time.now = 200501 := by decide +kernel
theorem test_idle_stops_at_cut : (idleTick { serving with time := { serving.time with now := 217999 } }).time.now = 218000 ∧
    (idleTick { serving with time := { serving.time with now := 218000 } }).time.now = 218000 := by decide +kernel

/-! ## Power-up and supply -/

def starting : State := { State.reset with power := { Power.reset with phase := .starting, pwrEn := true, errBoot := true } }
def flushingDown : State :=
  { booted with power := { booted.power with phase := .flushing, flushing := true, downAfter := true, pwrEn := false } }

theorem test_pwrEn : after .pwrEnRise State.reset (fun t => t.power.phase == .starting && errN t) = true ∧
    after .pwrEnFall starting (fun t => t.power.phase == .off) = true ∧
    after .pwrEnFall booted (fun t => t.power.phase == .flushing && t.power.downAfter) = true := by decide +kernel
theorem test_powerGood : fusesOk starting.locket = true ∧
    after (.powerGood 40000) starting (fun t => t.power.phase == .up && t.power.inputMv == 40000 && !errN t) = true ∧
    after (.powerGood 39999) starting (fun t => t.power.phase == .starting) = true ∧
    after (.powerGood 48000) { starting with power := { starting.power with resetN := false } } (fun t => t.power.phase == .inReset) = true ∧
    after (.powerGood 48000) { starting with locket := { starting.locket with copy := { Fuses.reset with part := 1 } } }
      (fun t => t.power.phase == .failed && errN t) = true := by decide +kernel
theorem test_resetN : after (.resetNLow 999) booted (fun t => t == booted) = true ∧
    after (.resetNLow 1000) booted (fun t => t.power.resetAfter) = true ∧
    after .resetNRelease { booted with power := { booted.power with phase := .inReset, resetN := false } }
      (fun t => t.power.phase == .up && t.power.resetN) = true := by decide +kernel
theorem test_input_falls : after (.inputStepFall 39499) serving (fun t => t.power.effective == 4 && t.power.flushing) = true ∧
    after (.inputStepFall 44000) serving (fun t => t.power.inputMv == 44000 && t.power.effective == 0) = true ∧
    after (.inputStepFall 35999) serving (fun t => t.power.effective == 5 && t.power.phase == .flushing && t.power.downAfter) = true := by decide +kernel
theorem test_input_rises : after (.inputStepRise 60000) { serving with power := { serving.power with below := [true, true, true, true, true], effective := 5 } }
    (fun t => t.power.below == [false, false, false, false, true] && t.power.effective == 5) = true := by decide +kernel
theorem test_overvoltage : after (.overvoltage 62001) serving (fun t => t.power.overvolt && t.power.effective == 5 && t.power.phase == .flushing) = true ∧
    after (.overvoltage 62000) serving (fun t => t.power.effective == 0) = true := by decide +kernel
theorem test_railDroop : after (.railDroop 8 0) serving (fun t => t.power.rails == List.replicate 9 0) = true ∧
    after (.railDroop 8 100) serving (fun t => decide (0 < t.power.rails.getD 8 0) && (getCol t 72).status.getLsbD 27) = true := by decide +kernel
theorem test_holdup : after .holdupFlushComplete { serving with power := { serving.power with flushing := true } }
      (fun t => !t.power.flushing && t.flash.wbuf == [] && t.colls == serving.colls) = true ∧
    after .holdupFlushComplete flushingDown (fun t => t.power.shutdownRecord && t.power.phase == .off) = true ∧
    after .holdupFlushComplete { flushingDown with power := { flushingDown.power with pwrEn := true } } (fun t => t.power.phase == .starting) = true ∧
    after (.holdupMeasurement 400) serving (fun t => t.power.holdup == 400 && !t.power.holdupLow) = true ∧
    after (.holdupMeasurement 399) serving (fun t => t.power.holdupLow && (getCol t 72).status.getLsbD 10) = true := by decide +kernel
theorem test_moduleReset : after .moduleReset { serving with power := { serving.power with resetDue := true } }
      (fun t => t.power.phase == .up && !t.power.resetDue && t.loader.setting.isNone && t.host.conns == [] && !t.time.held &&
        (getColl t 5).map Coll.attached == some false) = true ∧
    after (.pllUnlock true) serving (fun t => (getCol t 72).status.getLsbD 22 && t.power.resetDue && !t.time.held) = true ∧
    after (.pllUnlock false) serving (fun t => t.power.resetDue && t.time.held) = true := by decide +kernel
theorem test_power_states : after .preparationEnd { serving with power := { serving.power with preparing := true, target := 1, prepBead := 9 } }
      (fun t => t.power.entering && !t.power.preparing) = true ∧
    workInFlight { serving with power := { serving.power with preparing := true, target := 1, prepBead := 9 } } = false ∧
    after .entryProperComplete { serving with power := { serving.power with entering := true, target := 2 } }
      (fun t => t.power.pstate == 2 && !t.power.entering) = true ∧
    after .entryProperComplete { serving with power := { serving.power with entering := true, target := 2, psCmd := some ⟨0x8B, 0, 2, 1, 0, 0, 0⟩ } }
      (fun t => t.power.pstate == 2 && t.power.psCmd.isNone) = true ∧
    after .exitComplete { serving with power := { serving.power with exiting := true, pstate := 1, target := 1 } } (fun t => t.power.pstate == 0) = true ∧
    after .hubHotClear { serving with power := { serving.power with hubHot := true, hubTemp := 1599 } } (fun t => !t.power.hubHot) = true ∧
    after .hubHotClear { serving with power := { serving.power with hubHot := true, hubTemp := 1600 } } (fun t => t.power.hubHot) = true := by
  decide +kernel
theorem test_heat : heatTaken 0 1359 = 0 ∧ after (.hbmStackTempRise 7 1359) serving (fun t => (t.hbm.hbmStacks.getD 7 ⟨0, 0, false⟩).temp == 1359) = true ∧
    after (.hbmStackTempFall 0 100) { serving with hbm := { serving.hbm with hbmStacks := List.replicate 8 ⟨1500, 2, false⟩ } }
      (fun t => t.hbm.hbmStacks.getD 0 ⟨0, 0, false⟩ == ⟨100, 0, false⟩) = true ∧
    after (.thermalCrossing (.flash 63) 1360) serving (fun t => (getFlashCh t 63).hot80 && (getFlashCh t 63).hot85 && thermN t) = true ∧
    after (.hardwareTrip 3) serving (fun t => t.power.errTrip && errN t && t.power.phase == .flushing) = true := by decide +kernel

/-! ## Collectors, fences and tests of units -/

def withCol (n : Nat) (c : Collector) : State := { serving with collectors := updAt serving.collectors n fun _ => c }
def withFacet (f : Nat) (x : Facet) : State := updFacet serving f fun _ => x
def acc1 : Access := ⟨4, 0x123456789, 0x8012⟩

def captured : Collector :=
  { Collector.reset true with
    status := 0x30, source := 4, valid := true, overflow := true, access := 4, master := 0x8012
    capAddr := 0x123456789, capTime := 77 }
theorem test_capture_detail : (getCol State.reset 72).latch 0x30 acc1 77 = captured := by decide +kernel
theorem test_capture_first : (Collector.reset false).latch 0x20 acc1 77 = { Collector.reset false with status := 0x20, source := 5, valid := true } := by
  decide +kernel
theorem test_capture_frozen : ({ Collector.reset true with status := 8, source := 3, valid := true, capTime := 5 } : Collector).latch 4 acc1 9 =
    { Collector.reset true with status := 12, source := 3, valid := true, capTime := 5, overflow := true } ∧
    ({ Collector.reset true with status := 8, source := 3, valid := true } : Collector).latch 8 acc1 9 =
      { Collector.reset true with status := 8, source := 3, valid := true } ∧
    rearm { Collector.reset true with status := 8, valid := true } = { Collector.reset true with status := 8, valid := true } ∧
    (rearm { Collector.reset true with mode := false, valid := true, overflow := true, capAddr := 7 }) = Collector.reset false ∧
    (rearm { Collector.reset true with valid := true, source := 5, capAddr := 7 }) = { Collector.reset true with source := 5, capAddr := 7 } := by decide +kernel
theorem test_sourceLatch : serving.collectors.length = 73 ∧ after (.sourceLatch 72 (bit64 11) (noAccess 72 11) .nothing) serving
      (fun t => (getCol t 72).status.getLsbD 11 && (getCol t 72).source == 11) = true ∧
    after (.sourceLatch 0 1 acc1 (.facet 0)) serving (fun t => (getCol t 0).status.getLsbD 0) = true := by decide +kernel
theorem test_fcolForce : (∀ i : Fin 64, isSummary 72 i = true → (bit64 12).getLsbD i = false) ∧
    after (.fcolForce 72 (bit64 12)) serving (fun t => (getCol t 72).status.getLsbD 12 && (getCol t 72).master == 0xFFFF &&
      !(getCol t 72).pins.getLsbD 12) = true := by decide +kernel
theorem test_statusClear : after (.fcolStatusClear 72 0xFFFFFFFFFFFFFFFF) (withCol 72 { Collector.reset true with status := 0x800, pins := 0 })
      (fun t => (getCol t 72).status == 0) = true ∧
    after (.fcolStatusClear 72 0xFFFFFFFFFFFFFFFF) (withCol 72 { Collector.reset true with status := 0x400800, pins := 0x400000 })
      (fun t => (getCol t 72).status == 0x400000) = true := by decide +kernel
theorem test_collectorSelf : after (.collectorSelf 67 true) serving (fun t => (getFacet t 67).fenced && (getFacet t 67).safe &&
      (getCol t 67).status.getLsbD 10) = true ∧
    after (.collectorSelf 68 false) serving (fun t => (getCol t 68).status.getLsbD 25) = true ∧
    after (.collectorSelf 72 false) serving (fun t => (getCol t 72).status.getLsbD 28) = true ∧
    after (.collectorSelf 72 true) serving (fun t => (getCol t 72).defaultsOnly) = true := by decide +kernel
theorem test_facetFence : after (.facetFence 67) serving (fun t => (getFacet t 67).fenced && (getFacet t 67).reason == 3 &&
      !(getFacet t 66).fenced) = true ∧
    after (.facetBist 0) serving (fun t => (getFacet t 0).fenced && (getFacet t 0).bistRun && !(getFacet t 1).fenced) = true := by decide +kernel
theorem test_facetBistDone : after (.facetBistDone 3 true) (withFacet 3 { Facet.reset with fenced := true, bistRun := true, safe := true })
      (fun t => (getFacet t 3) == { Facet.reset with fenced := true, bistPass := true }) = true ∧
    after (.facetBistDone 3 false) (withFacet 3 { Facet.reset with fenced := true, bistRun := true })
      (fun t => (getCol t 3).status.getLsbD 9 && !(getFacet t 3).bistPass) = true := by decide +kernel
theorem test_facetRelease : after (.facetRelease 3) (withFacet 3 { Facet.reset with fenced := true, bistPass := true, reason := 2 })
      (fun t => (getFacet t 3).release && (getFacet t 3).fenced) = true ∧
    after (.facetRelease 3) (withFacet 3 { Facet.reset with fenced := true }) (fun t => !(getFacet t 3).release) = true ∧
    (let s := withFacet 3 { Facet.reset with fenced := true, bistPass := true, reason := 2 }
     after (.facetRelease 3) { s with power := { s.power with effective := 2 } } (fun t => !(getFacet t 3).release)) = true := by decide +kernel
theorem test_blockReset : after (.blockResetComplete .moduleClasp true) { serving with search := { serving.search with claspOut := true } }
      (fun t => t.search.claspRet && t.search.claspOut) = true ∧
    after (.blockResetComplete (.facet 0) true) (withFacet 0 { Facet.reset with fenced := true, bistRun := true, blockRun := true })
      (fun t => (getFacet t 0).bistPass && (getFacet t 0).release) = true ∧
    after (.settingSpareHold 15) serving (fun t => t.loader.holdNext == some 15) = true := by decide +kernel

/-! ## Memories -/

def withBank (b : Bank) : State := { serving with near := { serving.near with banks := [(7, b)] } }
def withChan (c : HbmChan) : State := { serving with hbm := { serving.hbm with chans := [(255, c)] } }
def withFlash (c : FlashCh) : State := { serving with flash := { serving.flash with chans := updAt serving.flash.chans 63 fun _ => c } }

theorem test_nearmem : after (.nearmemMbist 7) serving (fun t => (getBank t 7).state == 2 && (getBank t 8).state == 0) = true ∧
    after (.nearmemMbistDone 7 true) (withBank { Bank.reset with state := 2 }) (fun t => getBank t 7 == ⟨1, true, false⟩) = true ∧
    after (.nearmemMbistDone 7 false) (withBank { Bank.reset with state := 2 }) (fun t => getBank t 7 == ⟨1, false, false⟩) = true ∧
    after (.nearmemReturn 7) (withBank ⟨1, true, false⟩) (fun t => getBank t 7 == ⟨1, true, true⟩) = true := by decide +kernel
theorem test_hbm_retrain : after (.hbmRetrainStart 255) serving (fun t => getChan t 255 == { HbmChan.reset with state := 1 }) = true ∧
    after (.hbmChRetrain 0) serving (fun t => getChan t 0 == { HbmChan.reset with state := 1 }) = true ∧
    after (.hbmRetrainEnd 255 true) (withChan { HbmChan.reset with state := 1, queued := [.msa ⟨0, 8, .int64, 5, none⟩] })
      (fun t => getChan t 255 == HbmChan.reset) = true ∧
    after (.hbmRetrainEnd 255 false) (withChan { HbmChan.reset with state := 1 }) (fun t => (getChan t 255).state == 2) = true ∧
    after (.hbmRetrainTimeout 255) (withChan { HbmChan.reset with state := 1 }) (fun t => (getChan t 255).state == 2) = true := by decide +kernel
theorem test_hbm_mbist : stackStep serving 7 ≠ 3 ∧ chanOut (withChan { HbmChan.reset with state := 2 }) 255 = true ∧
    after (.hbmMbist 255) (withChan { HbmChan.reset with state := 2 }) (fun t => (getChan t 255).state == 3 && (getChan t 254).state == 0) = true ∧
    after (.hbmMbistDone 255 true) (withChan { HbmChan.reset with state := 3 }) (fun t => (getChan t 255).state == 2 && (getChan t 255).mbistPass) = true ∧
    after (.hbmReturn 255) (withChan { HbmChan.reset with state := 2, mbistPass := true }) (fun t => (getChan t 255).ret) = true := by decide +kernel

/-- Collection 5 with a pinned page that lost a copy, a page to refill and a page not resident. -/
def paged : Coll :=
  { coll0 with hbmPlacedNow := 4, att := { att0 with hbmPlaced := 4 }, pages := [⟨0, .directory, 0, [.hbm 3], none, false, false, true, 9, none, 1⟩,
      ⟨70, .sketches, 0, [], none, true, false, false, 9, none, 1⟩, ⟨71, .codes, 0, [], none, false, false, false, 0, none, 1⟩] }
def pagedS : State := { serving with colls := [(5, paged)] }
def refillS : State := { serving with colls := [(5, { paged with pages := paged.pages.drop 1 })] }

theorem test_page_copies : (findPage paged 0).map (fun p => (p.copyLost, p.incoming)) = some (true, none) ∧
    (hbmChannel pagedS paged.params.hbmSet 5 0 1 (some 0)).isSome = true ∧
    after (.pinnedCopyRestore 5 0) pagedS (fun t => ((getColl t 5).bind fun c => (findPage c 0).bind Page.incoming).isSome) = true ∧
    refillPaused pagedS 5 70 = false ∧ (placeLoc pagedS 5 paged 70).isSome = true ∧
    refillPaused pagedS 5 71 = false ∧ (placeLoc pagedS 5 paged 71).isSome = true ∧
    after (.installationComplete 5 71) pagedS (fun t => (((getColl t 5).bind fun c => findPage c 71).map fun p =>
      (p.incoming.isSome, p.lastUse)) == some (true, 10)) = true := by decide +kernel
theorem test_page_refill : nextRefill refillS = some (5, 70) ∧
    after (.pageRefill 5 70) refillS (fun t => ((getColl t 5).bind fun c => (findPage c 70).bind Page.incoming).isSome) = true := by decide +kernel
theorem test_flash_service : after (.flashIfRetrainStart 63) serving (fun t => (getFlashCh t 63).state == 1) = true ∧
    after (.flashChRetrain 63) serving (fun t => (getFlashCh t 63).state == 1) = true ∧
    after (.flashIfRetrainEnd 63 true) (withFlash { FlashCh.reset with state := 1 }) (fun t => (getFlashCh t 63).state == 0) = true ∧
    after (.flashIfRetrainEnd 63 false) (withFlash { FlashCh.reset with state := 1, rate := 1 })
      (fun t => (getFlashCh t 63).state == 3) = true ∧
    after (.flashIfRetrainTimeout 63) (withFlash { FlashCh.reset with state := 1 }) (fun t => (getFlashCh t 63).state == 3) = true ∧
    after (.flashScrub 63) serving (fun t => (getFlashCh t 63).state == 2) = true ∧
    after (.flashBypass 63) serving (fun t => (getFlashCh t 63).state == 3) = true ∧
    after (.flashReturn 63 2) (withFlash { FlashCh.reset with state := 3 }) (fun t => (getFlashCh t 63).ret && (getFlashCh t 63).rate == 2) = true ∧
    after (.flashProngTest 63) serving (fun t => (getFlashCh t 63).prongTest) = true ∧
    after (.prongTestDone 63 true) (withFlash { FlashCh.reset with prongTest := true, prongFenced := true })
      (fun t => (getFlashCh t 63).prongClear && (getFlashCh t 63).prongFenced) = true ∧
    after (.prongTestDone 63 false) (withFlash { FlashCh.reset with prongTest := true })
      (fun t => (getFlashCh t 63).prongFenced && (getCol t 72).status.getLsbD 9) = true := by decide +kernel

/-! ## Links, cores, counters, locket, board -/

def withLink (l : Nat) (x : Link) : State := { serving with fabric := { serving.fabric with links := updAt serving.fabric.links l fun _ => x } }
def lowCores (a b : Bool) : State := { serving with cores := { serving.cores with aIn := a, bIn := b } }
/-- A token whose ACTION field is `n`, naming root slot 2, which does not exist. -/
def withToken (n : Nat) : State :=
  { serving with locket := { serving.locket with token := BitVec.ofNat 64 (n * 2 ^ 32 + 2 ^ 41) :: List.replicate 23 0 } }

theorem test_link_service : linkEnabled serving 0 = true ∧
    after (.fabricLinkRetrain 0) serving (fun t => (getLink t 0).state == linkTraining) = true ∧
    linkUp serving 0 = false ∧ after (.fabricLoopback 0) serving (fun t => (getLink t 0).state == linkLoop) = true ∧
    after (.fabricSetDown 0) (withLink 0 { Link.reset with state := linkActive }) (fun t => (getLink t 0).state == linkIsDown) = true ∧
    (getPort serving 1).pcs = false ∧ after (.hostifLoopback 1) serving (fun t => (getPort t 1).state == 4) = true := by decide +kernel
theorem test_cores : after (.coreWatchdogExpiry true true) serving (fun t => t.power.resetDue && errN t) = true ∧
    after (.coreWatchdogExpiry true false) serving (fun t => (getCol t 72).status.getLsbD 16) = true ∧
    after (.coreWatchdogExpiry false true) serving (fun t => (getCol t 72).status.getLsbD 17) = true ∧
    after (.coreReady true) (lowCores false true) (fun t => t.cores.aReady && !t.cores.aIn) = true ∧
    after (.coreReady false) (lowCores true false) (fun t => t.cores.bReady && !t.cores.bIn) = true ∧
    after (.coreStop true) serving (fun t => !t.cores.aIn) = true ∧ after (.coreStop false) serving (fun t => !t.cores.bIn) = true ∧
    after (.coreStop true) (lowCores true false) (fun t => t.cores.aIn) = true := by decide +kernel

def counted : State :=
  { serving with counters := { serving.counters with counts := [(0x70110, ⟨2 ^ 48 - 1, true⟩), (0x70118, ⟨3, false⟩), (0x81018, ⟨4, false⟩)] } }

theorem test_counters : countUp ⟨2 ^ 48 - 2, false⟩ 5 = (true, ⟨2 ^ 48 - 1, true⟩) ∧ countUp ⟨7, false⟩ 5 = (false, ⟨12, false⟩) := by decide +kernel
theorem test_snap_clear : (spaceOf 0x70100).isSome = true ∧ Tab.wf counted.counters.counts = true ∧
    after (.snap 0x70100) counted (fun t => t.counters.snaps.getD 0x70118 ⟨0, false⟩ == ⟨3, false⟩ &&
      t.counters.snaps.getD 0x81018 ⟨0, false⟩ == ⟨0, false⟩) = true ∧
    after (.clear 0x70100 0x110 false) counted (fun t => counterAt t 0x70110 == ⟨0, false⟩ && counterAt t 0x70118 == ⟨3, false⟩) = true ∧
    after (.clear 0x70100 0 true) counted (fun t => counterAt t 0x70118 == ⟨0, false⟩ && counterAt t 0x81018 == ⟨4, false⟩) = true := by decide +kernel
theorem test_locket_commands : (∀ n : Fin 5, fieldB (tokenBytes (withToken n)) 4 1 = n.val) ∧ serving.locket.lifecycle ≠ 7 ∧
    after .revokeSlot (withToken 1) (fun t => t.locket.tokenResult == 2 && t.locket.tokenAction == 1 && t.locket.fuses == Fuses.reset) = true ∧
    after .advanceLifecycle (withToken 2) (fun t => t.locket.tokenAction == 2 && t.locket.fuses == Fuses.reset) = true ∧
    after .debugOpen (withToken 3) (fun t => t.locket.tokenAction == 3 && !t.locket.debugOpened) = true ∧
    after .setDebugLock (withToken 4) (fun t => t.locket.tokenAction == 4 && t.locket.fuses == Fuses.reset) = true := by decide +kernel
theorem test_board : after (.boundaryScanInstruction .idcode) booted (fun t => t.board.scan == .idcode && !t.out.isEmpty) = true ∧
    after (.boundaryScanInstruction .extest) booted (fun t => t.board.scan == .bypass) = true ∧
    after (.boundaryScanInstruction .extest) { booted with power := { booted.power with phase := .inReset } } (fun t => t.board.scan == .extest) = true ∧
    after (.boundaryScanInstruction .wrapper) booted (fun t => t.board.scan == .bypass) = true := by decide +kernel
theorem test_fru : (exec (.fruAccess (.read 3)) { booted with board := { booted.board with fru := [(3, 9)] } } |>
    fun o => match o with | .next t => t.out == [.fru 9] | _ => false) = true := by decide +kernel

/-! ## Beads and time -/

def at_ (f : TimeBase → TimeBase) : State := { serving with time := f serving.time }
def noTime : State := at_ fun t => { t with held := false, now := 0 }
def read0 (dl : Nat) : ReadItem :=
  { ref := ⟨3, 20, 2, 1, 5, 1, 0xAB⟩, coll := 5, slot := 0, snap := 9, deadline := dl, want := 7, ready := 10 }

theorem test_cutPoint : beadsRun serving = true ∧ after .cutPoint serving (fun t => t.time.cut && t.time.now == 218000 && !t.time.gap) = true ∧
    after .cutPoint { serving with search := { serving.search with reads := [read0 11, { read0 10 with ref := ⟨3, 20, 3, 1, 5, 1, 0⟩ }] } } (fun t => t.search.reads == [read0 11]) = true := by
  decide +kernel
theorem test_admissionGap : after .admissionGap (at_ fun t => { t with cut := true }) (fun t => t.time.gap && t.time.now == 219000) = true ∧
    after .admissionGap serving (fun t => t.time.gap && t.time.cut) = true ∧
    after .admissionGap { at_ (fun t => { t with cut := true }) with fabric := { serving.fabric with bundles := [⟨3, 0x11, 10, false, true, 64, [], []⟩] } }
      (fun t => t.fabric.bundles.all Bundle.closed) = true := by decide +kernel
theorem test_multicastWindowClose : (treeRec serving 3).isSome = true ∧
    after (.multicastWindowClose 3) serving (fun t => t.fabric.closed == [3] && t.time.now == 216000) = true ∧
    after (.multicastWindowClose 3) { serving with fabric := { serving.fabric with bundles := [⟨3, 0x11, 10, false, true, 65536, [], []⟩] } }
      (fun t => t.fabric.closed == [3] && t.time.now == 200500) = true := by decide +kernel
theorem test_beadEdge : 0 < serving.time.periodUs ∧ after (.beadEdge 500000 []) (at_ fun t => { t with cut := true, gap := true, nbrNow := 7 })
    (fun t => t.time.now == 220000 && !t.time.cut && !t.time.gap && t.time.nbrMax == 7 && t.time.nbrNow == 0) = true := by decide +kernel
theorem test_ptp : (getPort noTime 0).pcs = true ∧
    after (.ptpMessage 0 0 123456) { at_ (fun t => { t with held := false, source := 0 }) with out := [] }
      (fun t => t.time.held && t.time.now == 123456) = true ∧
    after (.ptpMessage 0 (-200000) 5) (at_ fun t => { t with source := 0 })
      (fun t => t.time.now == 200500 && t.time.srcOffset == -200000 && t.time.slew == -100000) = true := by decide +kernel
theorem test_pps : ppsGood noTime 5 1000 = true ∧ after (.ppsInEdge 5 1000) noTime (fun t => t.time.held && t.time.now == 0 && t.time.ppsSynced) = true ∧
    ppsGood (at_ fun t => { t with ppsSynced := true }) 1001 1000 = false ∧
    after (.ppsInEdge 1001 1000) (at_ fun t => { t with ppsSynced := true }) (fun t => t.time.ppsBad == 1 && !t.time.holdover) = true ∧
    after (.ppsInEdge 0 999) (at_ fun t => { t with ppsBad := 2 }) (fun t => t.time.ppsBad == 3 && t.time.holdover) = true := by decide +kernel
theorem test_holdover : after .holdover serving (fun t => t.time.holdover && t.events.log.map EventRec.code == [0x0201]) = true := by decide +kernel
theorem test_linkTime : linkUp (withLink 0 { Link.reset with state := linkActive }) 0 = true ∧
    after (.linkTimeExchange 0 500 9) (withLink 0 { Link.reset with state := linkActive }) (fun t => t.time.nbrNow == 500 && !t.time.skew) = true ∧
    after (.linkTimeExchange 0 (-501) 9) (withLink 0 { Link.reset with state := linkActive })
      (fun t => t.time.nbrNow == 501 && t.time.skew && t.time.now == 200500 && (getCol t 72).status.getLsbD 14) = true ∧
    after (.linkTimeExchange 0 3 77777) { withLink 0 { Link.reset with state := linkActive } with time := noTime.time }
      (fun t => t.time.held && t.time.now == 77777) = true := by decide +kernel
theorem test_bringUpInterval : after .bringUpInterval { noTime with host := { noTime.host with conns := [(1, conn0), (2, { conn0 with closed := true })] } }
    (fun t => t.time.intervals == 1 && t.host.conns.map Prod.fst == [1]) = true := by decide +kernel

/-! ## Registers and queues -/

def area24 (xs : List Byte) : BitVec 320 := BitVec.ofNat 320 (leNat xs)

theorem test_identify : submitted 0x80 (admin 0 []) serving = true ∧
    after (.identify (admin 0 [])) serving (fun t => (replies t).map (fun r => (r.1, r.2.1, r.2.2.1)) == [(0, 2, 0)] &&
      (findCmd t 0 2).isNone) = true := by decide +kernel
theorem test_attest : submitted 0x8A (admin (area24 [0xFF]) (List.replicate 32 7)) serving = true ∧ serving.locket.idKey = some 3 := by decide +kernel
theorem test_mgmtRead : submitted 0x8D (admin (area24 [0, 0, 3, 0, 1]) []) serving = true := by decide +kernel
theorem test_mgmtRead_reply : rangeBad (queued 0x8D (admin (area24 [0, 0, 0x21, 0, 1]) []) serving) (arrival 0x8D (admin (area24 [0, 0, 0x21, 0, 1]) []) serving) = none ∧
    after (.mgmtRead (admin (area24 [0, 0, 0x21, 0, 1]) [])) serving (fun t => (replies t).map (fun r => r.2.2.1) == [0]) = true := by decide +kernel
def mgmtW : Capsule := admin (area24 [0, 0, 0x21, 0, 1]) [0x00, 0x01, 0, 0, 0, 0, 0, 0]
theorem test_mgmtWrite : submitted 0x8E mgmtW serving = true ∧ rangeBad (queued 0x8E mgmtW serving) (arrival 0x8E mgmtW serving) = none ∧
    stopsLastCore (queued 0x8E mgmtW serving) (arrival 0x8E mgmtW serving) = false ∧
    after (.mgmtWrite mgmtW) serving (fun t => t.learn.nextW == some 256 && (replies t).map (fun r => r.2.2.1) == [0]) = true := by decide +kernel
theorem test_learn_registers : after (.learnDriftWindowWrite 64) serving (fun t => t.learn.nextW == some 64 && t.learn.driftW == 4096) = true ∧
    after (.learnDriftWindowWrite 63) serving (fun t => t.learn.nextW == none) = true ∧
    after (.learnDriftWindowWrite 65536) serving (fun t => t.learn.nextW == some 65536) = true ∧
    after (.learnDriftLimitWrite 1) serving (fun t => t.learn.nextD == some 1) = true ∧
    after (.learnDriftLimitWrite 0x10000) serving (fun t => t.learn.nextD == none) = true := by decide +kernel
def withSat : State :=
  { serving with counters := { serving.counters with sat := [(satSelKey 0, ⟨9, false⟩), (satSelKey 0 + 1, ⟨8, false⟩), (satSelKey 0 + 65536, ⟨7, false⟩)] } }
theorem test_learn_sat : after (.learnSatClearOne 0) withSat (fun t => t.counters.sat == [(satSelKey 0 + 1, ⟨8, false⟩), (satSelKey 0 + 65536, ⟨7, false⟩)]) = true ∧
    after (.learnSatClearTensor 0) withSat (fun t => t.counters.sat == [(satSelKey 0 + 65536, ⟨7, false⟩)]) = true := by decide +kernel
theorem test_queueCreate : submitted 0x85 (admin (area24 [31, 0, 1, 0]) []) serving = true ∧ queuePermitted serving 31 = true ∧ queuePermitted serving 32 = false ∧
    after (.queueCreate (admin (area24 [31, 0, 1, 0]) [])) serving (fun t => t.queues.queues.get 31 == some ⟨some 1, false, 0⟩) = true ∧
    after (.queueCreate (admin (area24 [15, 0, 1, 0]) [])) serving (fun t => t.queues.queues.get 15 == some ⟨some 1, false, 0⟩) = true ∧
    after (.queueCreate (admin (area24 [20, 0, 1, 0]) [])) serving (fun t => (replies t).map (fun r => r.2.2.1) == [0x0218]) = true := by decide +kernel
theorem test_queueDelete : submitted 0x86 (admin (area24 [20]) []) serving = true ∧ Tab.wf serving.queues.queues = true ∧
    after (.queueDelete (admin (area24 [20]) [])) serving (fun t => t.queues.queues.get 20 == none && (replies t).map (fun r => r.2.2.1) == [0]) = true := by decide +kernel
theorem test_eventArm : submitted 0x8F (admin (area24 [0, 1]) []) serving = true ∧
    (serving.host.conns.countP fun (i, k) => i != 1 && k.armed != 0) < 4 ∧
    after (.eventArm (admin (area24 [0, 1]) [])) serving (fun t => (getConn t 1).map Conn.armed == some 0x100) = true := by decide +kernel
theorem test_keyLoad : submitted 0x8C (capsule 0 6 0 0 0 0 (1 :: List.replicate 31 0)) serving = true ∧ inUse serving 6 = false ∧
    after (.keyLoad (capsule 0 6 0 0 0 0 (1 :: List.replicate 31 0))) serving (fun t => (t.locket.keys.get 6).isSome) = true ∧
    after (.keyLoad (capsule 0 6 0 0 0 0 (List.replicate 32 1))) serving (fun t => (replies t).map (fun r => r.2.2.1) == [0x0403]) = true := by decide +kernel
theorem test_powerState : submitted 0x8B (admin 0 []) serving = true ∧ submitted 0x8B (admin 3 []) serving = true ∧
    after (.powerState (admin 0 [])) serving (fun t => (replies t).map (fun r => (r.2.2.1, areaField r.2.2.2 24 1, areaField r.2.2.2 32 8)) == [(0, 0, 10)]) = true ∧
    after (.powerState (admin 3 [])) serving (fun t => t.power.preparing && t.power.target == 3 && t.out.isEmpty) = true := by decide +kernel
def heldCmd : Cmd := ⟨refOf 0x80 (admin 0 []), admin 0 [], 0, .held, 0⟩
def holding (gap : Bool) : State :=
  { (at_ fun t => { t with gap := gap }) with queues := { serving.queues with cmds := [heldCmd], arrivals := 1 } }
theorem test_commandReady : cmdReady (holding false) heldCmd = true ∧ cmdReady (holding true) heldCmd = false ∧
    after (.commandReady 0 2) (holding false) (fun t => (replies t).length == 1 && (findCmd t 0 2).isNone) = true ∧
    after (.commandReady 0 2) (holding true) (fun t => t == holding true) = true := by decide +kernel

/-! ## Writes -/

/-- Pre-encoded item `id`, with no bridges and no row. -/
def item (id : Byte) : Capsule := capsule 20 5 1 0 0 (area24 [id]) ([1, 0, 0, 0, 0, 0, 0, 0] ++ List.replicate 8 3)
def putPart (fin : Bool) : Capsule := capsule 20 5 (if fin then 0x40 else 0) 0 0 (area24 ([0, 0, 0, 0, 0, 0, 0, 0] ++ [if fin then 1 else 2])) [0xF0]
def admittedCmd (op : BitVec 8) (c : Capsule) : Cmd := ⟨refOf op c, c, 0, .admitted 10, 512⟩
def committing (op : BitVec 8) (c : Capsule) (k : Coll) : State :=
  { serving with queues := { serving.queues with cmds := [admittedCmd op c], arrivals := 1 }, colls := [(5, k)] }
def statuses (t : State) : List (BitVec 16) := (replies t).map fun r => r.2.2.1
def coll5 (t : State) (p : Coll → Bool) : Bool := match getColl t 5 with | some k => p k | none => false

theorem test_insert_admitted : submitted 0x10 (item 11) serving = true ∧ writeStatus serving (item 11) = 0 ∧ flashShort serving = false ∧
    (parseItem coll0 (item 11)).toOption.isSome = true ∧ fitsBuffer serving (writeResv params0 0x10 (item 11)) = true ∧
    after (.insert (item 11)) serving (fun t => (findCmd t 20 2).map Cmd.stage == some (.admitted 10) && t.out.isEmpty) = true ∧
    after (.upsert (item 9)) serving (fun t => (findCmd t 20 2).map Cmd.stage == some (.admitted 10)) = true := by decide +kernel
theorem test_delete_admitted : submitted 0x11 (dataCap (area24 [9]) []) serving = true ∧
    after (.delete (dataCap (area24 [9]) [])) serving (fun t => (findCmd t 20 2).map Cmd.stage == some (.admitted 10)) = true := by decide +kernel
theorem test_filter_parts : submitted 0x20 (putPart true) serving = true ∧ submitted 0x20 (putPart false) serving = true ∧
    (takePart serving (arrival 0x20 (putPart true) serving) 0).isSome = true ∧
    filterBusy serving (arrival 0x20 (putPart true) serving) 0 = false ∧
    after (.filterPut (putPart true)) serving (fun t => (findCmd t 20 2).map Cmd.stage == some (.admitted 10) && t.out.isEmpty) = true ∧
    after (.filterPut (putPart false)) serving (fun t => t.queues.objects.length == 1 && statuses t == [0]) = true ∧
    submitted 0x21 (dataCap (area24 [1]) []) serving = true ∧
    after (.filterDrop (dataCap (area24 [1]) [])) serving (fun t => (findCmd t 20 2).map Cmd.stage == some (.admitted 10)) = true := by decide +kernel
theorem test_insert_commits : (admittedCmd 0x10 (item 11)).uncommitted = true ∧ liveSlot coll0 11 = none ∧ (epochOf coll0 0).isSome = true ∧
    capacityCheck coll0 true false 3 = none ∧ freeSlot coll0 3 = some 3 ∧ after (.writeCommit 20 2 3 []) (committing 0x10 (item 11) coll0)
      (fun t => statuses t == [0] && coll5 t fun k => (k.items.get 3).map Item.stamp == some 10 && k.side.length == 2) = true := by decide +kernel
theorem test_upsert_replaces : liveSlot coll0 9 = some 0 ∧ after (.writeCommit 20 2 63 []) (committing 0x12 (item 9) coll0)
    (fun t => statuses t == [0] && coll5 t fun k => k.recent == [(0, 10)] && (k.items.get 63).isSome) = true := by decide +kernel
theorem test_insert_twice : after (.writeCommit 20 2 63 []) (committing 0x10 (item 9) coll0)
    (fun t => statuses t == [0x0112] && coll5 t fun k => k.items == coll0.items) = true := by decide +kernel
theorem test_delete_commits : rdFull coll0 = false ∧ after (.writeCommit 20 2 0 []) (committing 0x11 (dataCap (area24 [9]) []) coll0)
      (fun t => statuses t == [0] && coll5 t fun k => k.recent == [(0, 10)]) = true ∧
    after (.writeCommit 20 2 0 []) (committing 0x11 (dataCap (area24 [10]) []) coll0)
      (fun t => statuses t == [0] && coll5 t fun k => k == coll0) = true := by decide +kernel
def staged : OpenObj := ⟨20, 0x20, 5, 1, 1, [0xF0], some 2⟩
theorem test_filter_commits :
    after (.writeCommit 20 2 0 []) { committing 0x20 (putPart true) coll0 with queues := { serving.queues with cmds := [admittedCmd 0x20 (putPart true)], objects := [staged] } }
      (fun t => statuses t == [0] && coll5 t fun k => k.filters == [⟨1, 10, none, false, 0xF0⟩]) = true ∧
    after (.writeCommit 20 2 0 []) (committing 0x21 (dataCap (area24 [1]) []) { coll0 with filters := [⟨1, 4, none, false, 1⟩] })
      (fun t => statuses t == [0] && coll5 t fun k => k.filters == [⟨1, 4, some 10, false, 1⟩]) = true := by decide +kernel
def rec1 : WriteRec := ⟨0, 5, 0, 64, 9, .delete 0, 128, true, []⟩
def buffered : State := { serving with flash := { serving.flash with wbuf := [rec1], nextRec := 1 } }
theorem test_flush : submitted 0x13 (dataCap 0 []) serving = true ∧ decide (serving.power.effective < 3) = true ∧ (getColl serving 5).isSome = true ∧ pendingBelow serving 5 0 = false ∧ pendingBelow buffered 5 1 = true ∧
    after (.flush (dataCap 0 [])) serving (fun t => statuses t == [0]) = true ∧
    after (.flush (dataCap 0 [])) buffered (fun t => (findCmd t 20 2).map Cmd.stage == some (.flushing 1)) = true ∧
    after (.flushComplete 20 2) { serving with queues := { serving.queues with cmds := [⟨refOf 0x13 (dataCap 0 []), dataCap 0 [], 0, .flushing 1, 0⟩] } }
      (fun t => statuses t == [0]) = true := by decide +kernel
theorem test_mergeHint : submitted 0x40 (dataCap 0 []) serving = true ∧ (startMerge (queued 0x40 (dataCap 0 []) serving) 5 10).isSome = true ∧
    after (.mergeHint (dataCap 0 [])) serving (fun t => statuses t == [0] && coll5 t fun k => k.merge.map Merge.trigger == some 10) = true ∧
    after (.mergeHint (dataCap 0 [])) { serving with colls := [(5, { coll0 with merge := some ⟨8, 0, [], [], false, 0⟩ })] }
      (fun t => (replies t).map (fun r => (areaField r.2.2.2 24 1, areaField r.2.2.2 32 8)) == [(0, 8)]) = true := by decide +kernel

/-! ## Learning commands -/

def f32 (w : Nat) : F32 := BitVec.ofNat 32 w
def runP : RunParams := runParams (area24 [0, 2, 4, 1, 0, 0, 2] )
def enc1 : Encoder := { enc0 with actScale := [0x3F80], weights := [[1, 2]], wScale := [[0x3F80]], books := [[[0, 0]]] }
def run0 : Run := { newRun 1 5 runP enc1 false with pairs := [([0x3F800000, 0], [0, 0x3F800000])] }
def learning (r : Run) : State := { serving with learn := { serving.learn with runs := [r], nextRun := 2 } }
/-- LEARN_START of mode 0: every parameter at its default, FP32 pairs. -/
def startCap : Capsule := dataCap (area24 ([0, 0xFF, 0xFF, 0xFF, 0xFF, 0xFF, 0, 0] ++ List.replicate 24 0xFF ++ List.replicate 8 0)) (leBytes 4 0x3F800000 ++ leBytes 12 1)
def moreCap : Capsule := dataCap (area24 ([1, 0, 0, 0, 0, 0, 0, 0] ++ List.replicate 24 0 ++ [1])) (List.replicate 16 0)

theorem test_learnStart : submitted 0x30 startCap serving = true ∧ runRangeBad startCap.area (runParams startCap.area) = false ∧
    (parsePairs coll0 0 startCap.body).toOption.map (fun x => (x.1.length, x.2)) = some (1, 0) ∧
    learnBytes enc0 (runParams startCap.area).n (runParams startCap.area).u (inputDim coll0) ≤ hbmScratchFree serving ∧
    after (.learnStart startCap) serving (fun t => statuses t == [0] && t.learn.runs.map (fun r => (r.id, r.coll, r.newest, r.pairs.length, r.p.n, r.p.u)) == [(1, 5, 1, 1, 256, 4)]) = true := by
  decide +kernel
theorem test_learnMore : submitted 0x30 moreCap (learning run0) = true ∧
    after (.learnStart moreCap) (learning run0) (fun t => statuses t == [0] && t.learn.runs.map (fun r => r.pairs.length) == [2]) = true := by decide +kernel
theorem test_learnStop : submitted 0x31 (dataCap 1 []) (learning run0) = true ∧
    after (.learnStop (dataCap 1 [])) (learning run0) (fun t => statuses t == [0] && t.learn.runs.map Run.stopAtEdge == [some 1] &&
      t.learn.runs.map Run.active == [true]) = true := by decide +kernel
theorem test_epochPromote : submitted 0x32 (dataCap (area24 [1, 0, 0, 0, 1]) []) (learning run0) = true ∧ heldVersion run0 1 = some run0.enc ∧
    after (.epochPromote (dataCap (area24 [1, 0, 0, 0, 1]) [])) (learning run0) (fun t => t.out.isEmpty &&
      coll5 t fun k => (k.promo.map Promotion.admission) == some 10 && k.epochs.length == 1) = true := by decide +kernel

/-! ## Collections -/

def image0 : List Byte := [16, 0, 0, 1, 0] ++ List.replicate 27 0 ++ [0x80, 0x3F, 0, 0, 0, 0, 0, 0] ++ List.replicate 1024 0 ++
  (List.replicate 64 [0x80, 0x3F]).flatten ++ List.replicate 8192 0 ++ List.replicate 8192 0
def createBlock : List Byte := [64, 0, 8, 10, 0, 0, 0, 0, 16, 0, 4, 2, 1, 0, 0, 0, 1, 0, 0, 0, 1] ++ List.replicate 43 0
def attachBytes : List Byte := leBytes 4 7 ++ leBytes 2 0 ++ leBytes 2 1 ++ leBytes 4 0 ++ leBytes 4 0 ++ leBytes 12 0 ++ leBytes 4 0
def createCap : Capsule := { capsule 0 6 0 0 0 0 (createBlock ++ attachBytes ++ image0) with len := 17672 }
theorem test_create_parses : (parseCreate createBlock).toOption.isSome = true ∧ attachBytes.length = 32 := by decide +kernel
theorem test_image_parses : ((parseCreate createBlock).toOption.bind fun p => (parseImage p none true image0).toOption.map fun x => (x.1.inputDim, x.2)) =
    some (16, []) := by decide +kernel
theorem test_create : createCap.body.length = 17672 ∧ submitted 0x81 createCap serving = true ∧ (formatOf serving 1).isSome = true ∧
    after (.collectionCreate createCap) serving (fun t => statuses t == [0] && (getColl t 6).map (fun d => (d.attached, d.params.sketchBits, d.slotBase)) ==
      some (true, 64, 64)) = true := by decide +kernel
def detached : Coll := { coll0 with attached := false, params := { params0 with log2Buckets := 10, rdShare := 4096, sideCap := 65536, slotCap := 65536 }
                                    epochs := [⟨0, { enc0 with wformat := 1 }, 0⟩] }
theorem test_attach : submitted 0x83 (capsule 0 5 0 0 0 0 attachBytes) { serving with colls := [(5, detached)] } = true ∧
    after (.collectionAttach (capsule 0 5 0 0 0 0 attachBytes)) { serving with colls := [(5, detached)] } (fun t => statuses t == [0] &&
      coll5 t fun d => d.attached && d.att == parseAttach attachBytes && d.items == coll0.items && d.creditNear == 0) = true := by decide +kernel
def adminColl : Capsule := capsule 0 5 0 0 0 0 []
theorem test_detach : submitted 0x84 adminColl serving = true ∧ after (.collectionDetach adminColl) serving (fun t => t.out.isEmpty &&
      coll5 t fun d => !d.attached && d.detachBead == 10 && d.work.map Prod.snd == some false) = true ∧
    after (.collectionDelete adminColl) serving (fun t => t.out.isEmpty && coll5 t fun d => !d.attached && d.work.map Prod.snd == some true) = true := by decide +kernel
def ending (del : Bool) : State :=
  { serving with
    queues := { serving.queues with cmds := [⟨refOf 0x84 adminColl, adminColl, 0, .running, 0⟩] }
    colls := [(5, { coll0 with attached := false, work := some (refOf 0x84 adminColl, del) })], locket := { serving.locket with keys := [(5, 1)] } }
theorem test_workEnd : (getColl (ending false) 5).map (collBusy (ending false) 5) = some false ∧ Tab.wf (ending true).colls = true ∧
    after (.collectionWorkEnd 5) (ending false) (fun t => statuses t == [0] && coll5 t fun d => d.work.isNone && d.items == coll0.items) = true ∧
    after (.collectionWorkEnd 5) (ending true) (fun t => statuses t == [0] && (getColl t 5).isNone && t.locket.keys == [] &&
      t.pools.relSlots == [(0, 64)]) = true := by decide +kernel

/-! ## Transport -/

def dg (port : Nat) (adm : Bool) : ConnectDg := ⟨port, if port = 0 then 9 else 0, 77, 4001, adm, port == 0, 88, 4002⟩
def sent1 : List Seg := [⟨3, [7]⟩]
def sent2 : List Seg := [⟨1, [7]⟩, ⟨2, [8]⟩]
def withConn (f : Conn → Conn) : State := { serving with host := { serving.host with conns := [(1, f conn0)], storeUsed := 200 } }
/-- Connections `i` to `i + n - 1`. -/
def connsFrom : Nat → Nat → Tab Conn
  | 0, _ => []
  | n + 1, i => (i, conn0) :: connsFrom n (i + 1)
def fullHouse : State := { serving with host := { serving.host with conns := connsFrom maxConns 0 } }

theorem get_connsFrom (n i j : Nat) (h : i ≤ j ∧ j < i + n) : Tab.get (connsFrom n i) j = some conn0 := by
  induction n generalizing i with
  | zero => omega
  | succ n ih =>
    simp only [connsFrom, Tab.get]
    split
    · rfl
    · exact ih _ (by omega)

theorem free_none (t : Tab Conn) (n i : Nat) (h : ∀ j, i ≤ j → j < i + n → (Tab.get t j).isSome = true) : Tab.freeFrom t n i = none := by
  induction n generalizing i with
  | zero => rfl
  | succ n ih =>
    simp only [Tab.freeFrom]
    have h0 := h i (Nat.le_refl _) (by omega)
    cases hg : Tab.get t i with
    | none => rw [hg] at h0; cases h0
    | some c => exact ih _ fun j hj hk => h j (by omega) (by omega)

theorem test_no_free_conn : Tab.freeFrom fullHouse.host.conns maxConns 0 = none :=
  free_none _ _ _ fun j _ hj => by rw [show fullHouse.host.conns = connsFrom maxConns 0 from rfl, get_connsFrom _ _ _ (by omega)]; rfl

theorem test_connect : Tab.freeFrom serving.host.conns maxConns 0 = some 0 ∧
    after (.connect (dg 0 false)) serving (fun t => (getConn t 0).map (fun k => (k.admin, k.port, k.addr, k.udp, k.alt)) == some (false, 0, 77, 4001, some (88, 4002)) &&
      t.queues == serving.queues) = true ∧
    adminGranted serving (dg 0 true) = false ∧ adminGranted serving (dg 2 true) = true ∧
    after (.connect (dg 0 true)) serving (fun t => t.out == [.nakConnect 0 4] && (getConn t 0).isNone) = true ∧
    after (.connect (dg 2 true)) { serving with queues := Queues.reset } (fun t => t.queues.queues.get 0 == some ⟨some 0, false, 0⟩) = true := by decide +kernel
theorem test_close : after (.close 0 1) serving (fun t => (getConn t 1).map Conn.closing == some true && t.queues == serving.queues) = true ∧
    after (.closeTakesEffect 1) (withConn fun k => { k with closing := true, store := [⟨5, 1, 200, 0, some 3, sent1⟩] })
      (fun t => (getConn t 1).map Conn.closed == some true && t.host.storeUsed == 0 && t.queues.queues.all fun x => x.2.conn.isNone) = true ∧
    after (.closeTakesEffect 1) (withConn fun k => { k with closing := true, store := [⟨5, 1, 200, 0, none, sent1⟩] })
      (fun t => (getConn t 1).map (fun k => (k.failed, k.store)) == some (true, []) && t.queues.queues.all fun x => x.2.conn.isNone) = true := by decide +kernel
theorem test_retransmit : after (.replyRetransmit 1) (withConn fun k => { k with store := [⟨5, 1, 200, 1, none, sent1⟩] })
      (fun t => t.out == [.resend 1 5] && (getConn t 1).map Conn.store == some [⟨5, 1, 200, 2, none, sent1⟩]) = true ∧
    after (.replyRetransmit 1) (withConn fun k => { k with store := [⟨5, 1, 200, 2, none, sent1⟩] })
      (fun t => (getConn t 1).map (fun k => (k.failed, k.store)) == some (true, []) && t.queues.queues.all fun x => x.2.conn.isNone) = true := by decide +kernel
theorem test_rebind : after (.queue0Rebind 7) { serving with queues := { serving.queues with queues := [(0, ⟨none, true, 0⟩)] }, host := { serving.host with next0 := some 7, orphan0 := true } }
    (fun t => t.queues.queues.get 0 == some ⟨some 7, false, 0⟩ && t.host.next0.isNone && !t.host.orphan0) = true := by decide +kernel

def seg (seq : BitVec 32) (f l : Bool) (bs : List Byte) : DataDg := ⟨0, 5, 4000, 1, f, l, seq, 0, bs⟩
def fullBuffer : State := { serving with host := { serving.host with ports := updAt ports0 0 fun p => { p with rxMgmt := 2 ^ 19 - 1 } } }
/-- IDENTIFY on queue 0 with tag 2, as 64 bytes. -/
def identifyBytes : List Byte := [0x80, 0, 0, 0, 0, 0, 1, 0] ++ List.replicate 56 0
theorem test_data_nak : liveConn serving 9 = none ∧ after (.data { seg 1 true true [] with conn := 9 }) serving (fun t => t.out == [.nak 9 1 3]) = true ∧
    after (.data (seg 3 true true [])) serving (fun t => t.out == [.nak 1 1 1]) = true ∧
    after (.data (seg 0 true true [])) serving (fun t => t.out == [.ack 1 0] && (counterAt t dupCnt).val == 1) = true ∧
    after (.data (seg 1 true true [1, 2])) fullBuffer (fun t => t.out == [.nak 1 1 2]) = true ∧
    after (.data (seg 1 true false [1])) fullBuffer (fun t => (getConn t 1).map Conn.asm == some (some [1])) = true := by decide +kernel
theorem test_data_capsule : (parseCapsule 0 1 identifyBytes).2.tag = 2 ∧
    after (.data (seg 1 true true identifyBytes)) serving (fun t => t.out.length == 2 && (replies t).map (fun r => (r.1, r.2.1, r.2.2.1)) == [(0, 2, 0)]) = true ∧
    after (.data (seg 1 false true (identifyBytes.drop 20))) (withConn fun k => { k with asm := some (identifyBytes.take 20) })
      (fun t => (replies t).map (fun r => (r.1, r.2.1, r.2.2.1)) == [(0, 2, 0)]) = true := by decide +kernel
theorem test_ack : after (.ack 0 1 6) (withConn fun k => { k with store := [⟨5, 2, 200, 0, none, sent2⟩] })
      (fun t => (getConn t 1).map Conn.store == some [] && t.host.storeUsed == 0) = true ∧
    after (.ack 0 1 5) (withConn fun k => { k with store := [⟨5, 2, 200, 0, none, sent2⟩] })
      (fun t => (getConn t 1).map Conn.store == some [⟨6, 1, 200, 0, none, [⟨2, [8]⟩]⟩]) = true := by decide +kernel

/-! ## Ports and frames -/

theorem test_port_down : after (.hostPortDown 0) serving (fun t => !(getPort t 0).pcs && (getConn t 1).map Conn.failed == some true) = true ∧
    after (.hostPortDown 0) (withConn fun k => { k with alt := some (9, 4009), store := [⟨5, 1, 200, 0, none, sent1⟩] })
      (fun t => (getConn t 1).map (fun k => (k.failed, k.port, k.addr, k.udp)) == some (false, 1, 9, 4009) && t.out.contains (.resend 1 5)) = true := by decide +kernel
theorem test_port_up : (getPort serving 1).state = 0 ∧ after (.hostPortUp 1) serving (fun t => (getPort t 1).pcs && (getPort t 1).state == 1 &&
      t.host.conns == serving.host.conns) = true ∧
    portsOut { serving with host := HostIf.reset } = true ∧
    after (.osfpModuleInserted 1 false) serving (fun t => (getPort t 1).state == 2) = true ∧
    after (.osfpModuleInserted 1 true) serving (fun t => (getPort t 1).state == 0) = true ∧
    after (.osfpModuleRemoved 0) serving (fun t => (getPort t 0).state == 3 && !(getPort t 0).pcs) = true ∧
    after (.osfpCageOvercurrent 0) serving (fun t => (getPort t 0).state == 3 && !(getPort t 0).pcs) = true := by decide +kernel
theorem test_port_registers : after (.hostifRateWrite 0 1) serving (fun t => (getPort t 0).rate == 1 && (getPort t 0).useRate == 0 && (getPort t 0).pcs) = true ∧
    after (.hostifRateWrite 0 0) serving (fun t => t == serving) = true ∧
    after (.hostifAddressWrite 2 0x00 0x20060000) serving (fun t => (getPort t 2).vlanEn && (getPort t 2).vlanId == 3) = true ∧
    after (.hostifAddressWrite 2 0x10 0xFFFFFFFFFFFFFFFF) serving (fun t => (getPort t 2).ipv4 == 0x8000003FFFFFFFFF && (getPort t 2).useIpv4 == 0) = true ∧
    after (.hostifAddressWrite 0 0x28 0xFFFFFFFFFFFFFFFF) serving (fun t => (getPort t 0).ipv6ctl == 0x80000000000000FF) = true ∧
    after (.hostifAddressWrite 0 0x18 1) serving (fun t => (getPort t 0).ipv6 == BitVec.ofNat 128 (2 ^ 120)) = true ∧
    after (.hostifAddressWrite 0 0x20 1) serving (fun t => (getPort t 0).ipv6 == BitVec.ofNat 128 (2 ^ 56)) = true := by decide +kernel

def frame (n ip : Nat) (fcs fr us : Bool) (k : FrameKind) : Frame := ⟨0, n, fcs, none, if us then 0 else 2, ip, fr, match k with | .arp => mapV4 0 | _ => 9, k⟩
def ipOn : State := { serving with host := { serving.host with ports := updAt ports0 0 fun p => { p with useIpv4 := 0x8000000000000000 } } }
/-- A datagram of a type on connection 1. -/
def reune (ty : Byte) : FrameKind := .udp false true false 46200 5 4000 ([1, 0, ty, 3, 1, 0, 0, 0, 0, 0, 0, 0, 0, 0, 0, 0] ++ identifyBytes)
theorem test_frames_dropped : after (.ethernetFrame (frame 64 0 false false true .nonIp)) serving (fun t => (counterAt t (rxErrCnt 0)).val == 1) = true ∧
    after (.ethernetFrame (frame 9216 1501 true true true .otherIp)) serving (fun t => (counterAt t (oversizeCnt 0)).val == 1 && (counterAt t (fragCnt 0)).val == 0) = true ∧
    after (.ethernetFrame (frame 9216 1500 true true true .otherIp)) serving (fun t => (counterAt t (fragCnt 0)).val == 1) = true ∧
    after (.ethernetFrame (frame 64 46 true false false (reune 6))) serving (fun t => t == serving) = true ∧
    after (.ethernetFrame (frame 64 46 true false true (.udp true false false 46200 5 4000 []))) serving (fun t => (counterAt t (rxErrCnt 0)).val == 1) = true := by decide +kernel
theorem test_frames_answered : after (.ethernetFrame (frame 64 0 true false true .arp)) ipOn (fun t => t.out == [.arpReply 0]) = true ∧
    after (.ethernetFrame (frame 64 0 true false true .arp)) serving (fun t => t.out == []) = true ∧
    after (.ethernetFrame (frame 100 64 true false true .neighbour)) serving (fun t => t.out == [.neighbourReply 0]) = true ∧
    after (.ethernetFrame (frame 100 64 true false true .echo)) serving (fun t => t.out == [.echoReply 0]) = true ∧
    after (.ethernetFrame (frame 100 64 true false true (.ptp 7 9))) (at_ fun t => { t with source := 0 }) (fun t => t.time.srcOffset == 7) = true ∧
    after (.ethernetFrame (frame 200 150 true false true (reune 3))) serving (fun t => (replies t).length == 1) = true ∧
    after (.ethernetFrame (frame 200 150 true false true (reune 4))) serving (fun t => t.out == []) = true ∧
    after (.ethernetFrame (frame 200 150 true false true (reune 6))) serving (fun t => (getConn t 1).map Conn.closing == some true) = true := by decide +kernel

/-! ## Stream programs -/

/-- A word of a stream program from its opcode, X, F or Y in bits 48 up, and IMM. -/
def word (op x fy imm : Nat) : BitVec 64 := BitVec.ofNat 64 (op * 2 ^ 58 + x * 2 ^ 55 + fy * 2 ^ 48 + imm)
def stream0 (ws : List (BitVec 64)) : Stream :=
  { sid := 4, tid := 2, die := 0, consumer := 1, facet := 0, coll := none, words := ws, pc := 0, a := [0x1000, 7, 0, 0, 0, 0, 0, 0]
    s := [0x800, 0, 0, 0, 0, 0, 0, 0], c := [2, 0, 0, 0, 0, 0, 0, 0], loops := [], seq := 0, launch := 10, bead := 10, skipLeft := 0, skipAt := 0
    skipJ := 0, pair := none, input := none, ext := [(0x30, 100), (2, 0)], extAt := 7, slotBytes := 2048, ring := [Slot.empty, Slot.empty], head := 0
    tail := 0, waiting := [], halted := false, stopped := false }
def task0 (k : TaskKind) (qs : List Nat) : Task := ⟨2, k, 5, 65535, qs, none, [], [], 0, false, false, []⟩
def streaming (r : Stream) : State :=
  { serving with
    streams := { Streams.reset with streams := [r, { r with sid := 5, ring := r.ring.map fun _ => Slot.empty, head := 0, tail := 0 }], tasks := [task0 (.microBatch 1 0) []], nextSid := 6, nextTid := 3 }
    pools := { serving.pools with learn := 65536 } }
def runs (w : BitVec 64) (i : Instr) (p : Stream → Bool) : Bool :=
  nextWord (streaming (stream0 [w])) (stream0 [w]) == some w.toNat && after i (streaming (stream0 [w])) fun t => match getStream t 4 with | some r => p r | none => false

/-- The heads and lists of every segment lie in their regions (R38, R168). -/
theorem test_regions : params0.kindOf (headPage params0 65534) = some .heads ∧
    params0.kindOf (params0.regionBase .sketches) = some .sketches ∧ params0.kindOf (params0.regionBase .codes - 1) = some .sketches := by
  decide +kernel
theorem test_stream_registers : runs (word 0 0 0 0) (.nop 4) (fun r => r.pc == 1) = true ∧
    runs (word 1 7 0 (2 ^ 48 - 1)) (.seta 4 7 0xFFFFFFFFFFFF) (fun r => r.a.getD 7 0 == 0xFFFFFFFFFFFF && r.pc == 1) = true ∧
    runs (word 2 0 0x10 0xFFFFFFFFFFFF) (.adda 4 0 1 0xFFFFFFFFFFFF) (fun r => r.a.getD 0 0 == 6 && r.pc == 1) = true ∧
    runs (word 3 2 0 9) (.sets 4 2 9) (fun r => r.s.getD 2 0 == 9) = true ∧
    runs (word 4 3 0 (2 ^ 24 + 5)) (.loop 4 3 0x1000005) (fun r => r.c.getD 3 0 == 5 && r.loops == [(3, 1)]) = true ∧
    runs (word 10 0 0x00 3) (.skipmap 4 0 3) (fun r => r.skipLeft == 3 && r.skipAt == 0x1000 && r.skipJ == 0) = true ∧
    runs (word 11 0 1 0x50007) (.tag 4 1 0x50007) (fun r => r.seq == 7 && r.pair == some 5) = true ∧
    runs (word 12 0 0 0x1003) (.bead 4 0x1003) (fun r => r.bead == 13) = true := by decide +kernel
theorem test_endl : after (.endl 4 0) (streaming { stream0 [word 5 0 0 0] with loops := [(0, 0)] }) (fun t => (getStream t 4).map (fun r => (r.c.getD 0 0, r.pc, r.loops)) == some (1, 0, [(0, 0)])) = true ∧
    after (.endl 4 0) (streaming { stream0 [word 5 0 0 0] with c := [1], loops := [(0, 0)] }) (fun t => (getStream t 4).map (fun r => (r.c.getD 0 0, r.pc, r.loops)) == some (0, 1, [])) = true := by decide +kernel
theorem test_read : runs (word 8 0 0 3000) (.read 4 0 0 3000) (fun r => r.a.getD 0 0 == 0x1800 && r.head == 2 && r.ring.map (fun x => (x.off, x.len)) == [(0x1000, 2048), (0x1800, 952)]) = true ∧
    after (.read 4 0 0 3000) (streaming { stream0 [word 8 0 0 3000] with coll := some 5, skipLeft := 2, skipAt := regionOff params0 .tombstones }) (fun t =>
      (getStream t 4).map (fun r => (r.head, r.skipLeft, r.skipJ, r.a.getD 0 0)) == some (0, 1, 1, 0x1800)) = true ∧
    (bitmapBit (streaming { stream0 [] with coll := some 5 }) { stream0 [] with coll := some 5 } (regionOff params0 .tombstones) 0).1 = false ∧
    (bitmapBit { streaming (stream0 []) with colls := [(5, { coll0 with tombs := [0] })] } { stream0 [] with coll := some 5 } (regionOff params0 .tombstones) 0).1 = true := by decide +kernel
theorem test_gather : runs (word 9 0 0x14 1) (.gather 4 0 1 4 1) (fun r => r.ring.map (fun x => (x.off, x.len)) == [(0x30, 100), (0, 0)]) = true ∧
    runs (word 9 0 0x10 (2 + 7 * 2 ^ 24)) (.gather 4 0 1 0 0x7000002) (fun r => r.waiting.map (fun x => (x.off, x.len)) == [] && r.ring.map (fun x => x.len) == [128, 128]) = true := by decide +kernel
theorem test_pieces : piecesOf (stream0 []) 1 65000 3000 = [⟨65000, 536, 1, 10⟩, ⟨65536, 2048, 1, 10⟩, ⟨67584, 416, 1, 10⟩] := by decide +kernel
def fullSlot (d : SlotData) : Slot := { Slot.empty with st := .full, len := 4, data := d }
def feeding (w : BitVec 64) (a0 : BitVec 48) : State :=
  { streaming (stream0 []) with streams := { Streams.reset with streams := [{ stream0 [w] with input := some 5, a := [a0] },
      { stream0 [] with sid := 5, ring := [fullSlot (.bytes [1, 2, 3, 4])], head := 1 }], tasks := [task0 (.microBatch 1 0) []] } }
theorem test_write : (inputOf (feeding (word 16 0 0 0) 0) { stream0 [word 16 0 0 0] with input := some 5 }).bind tailFull = some (fullSlot (.bytes [1, 2, 3, 4])) ∧
    after (.write 4 0) (feeding (word 16 0 0 0) 0) (fun t => (getStream t 4).map (fun r => (r.pc, r.a)) == some (1, [0x800]) &&
      (getStream t 5).map (fun r => (r.tail, r.ring.map Slot.st)) == some (1, [.free])) = true ∧
    writable (feeding (word 16 0 0 0) 0) (stream0 []) 65533 4 = false ∧ writable (feeding (word 16 0 0 0) 0) (stream0 []) 65532 4 = true ∧
    after (.write 4 0) (feeding (word 16 0 0 0) 65533) (fun t => t.streams.tasks.all Task.aborted || t.streams.streams.all Stream.stopped) = true := by decide +kernel
theorem test_msaop : insnOp (word 17 0 3 0).toNat = 17 ∧ insnF (word 17 0 3 0).toNat = 3 ∧
    after (.msaop 4 0 3) (feeding (word 17 0 3 0) 65533) (fun t => t.streams.tasks.all Task.aborted || t.streams.streams.all Stream.stopped) = true := by decide +kernel
theorem test_halt : insnOp (word 63 0 0 0).toNat = 63 ∧ after (.halt 4) (streaming (stream0 [word 63 0 0 0])) (fun t => (getStream t 4).isNone && (getStream t 5).isSome) = true ∧
    after (.halt 4) (streaming { stream0 [word 63 0 0 0] with ring := [fullSlot .none], head := 1 }) (fun t => (getStream t 4).map (fun r => (r.halted, r.pc)) == some (true, 1)) = true := by decide +kernel

/-! ## Adders -/

theorem test_adders : msaElem 0 .int32 0x7FFFFFFF 1 = (0x80000000, true) ∧ (msaElem 1 .int32 0xFFFFFFFF 1).1 = 0xFFFFFFFF ∧
    (msaElem 2 .int64 0xFFFFFFFFFFFFFFFF 1).1 = 1 ∧ (msaElem 0 .fp32 0x3F800000 0x40000000).1 = 0x40400000 ∧
    (msaElem 0 .bf16 0x3F80 0x3F80).1 = 0x4000 ∧ (msaElem 1 .fp32 0x80000000 0).1 = 0x80000000 := by decide +kernel
theorem test_msa : serving.memOk = true ∧ after (.msaAdd 255 8 .int64 5) serving (fun t => t.hbm.scratch.readBytes (scratchAddr 255 8) 8 == [5, 0, 0, 0, 0, 0, 0, 0] &&
      t.counters == serving.counters) = true ∧
    after (.msaMin 0 0 .int32 0xFFFFFFFF) serving (fun t => t.hbm.scratch.readBytes (scratchAddr 0 0) 5 == [255, 255, 255, 255, 0]) = true ∧
    after (.msaMax 263 4 .bf16 0x3F80) serving (fun t => t.near.bytes.readBytes (7 * 2 ^ 32 + 4) 3 == [0x80, 0x3F, 0] && t.hbm == serving.hbm) = true ∧
    after (.msaAdd 255 8 .int64 5) (withChan { HbmChan.reset with state := 1 }) (fun t => (getChan t 255).queued == [.msa ⟨0, 8, .int64, 5, none⟩]) = true ∧
    after (.msaAdd 255 8 .int64 5) (withChan { HbmChan.reset with state := 2 }) (fun t => t.hbm == (withChan { HbmChan.reset with state := 2 }).hbm) = true := by decide +kernel
theorem test_msa_wraps : after (.msaAdd 255 0 .int32 1) { serving with hbm := { serving.hbm with scratch := [(scratchAddr 255 0, 255), (scratchAddr 255 0 + 1, 255), (scratchAddr 255 0 + 2, 255), (scratchAddr 255 0 + 3, 127)] } }
    (fun t => (counterAt t (msaOvfCnt 7)).val == 1 && t.hbm.scratch == [(scratchAddr 255 0 + 3, 128)]) = true := by decide +kernel

/-! ## Slots -/

/-- The sketch stream of query 8 over the side list of collection 5, with one slot. -/
def slotStream (x : Slot) (pair : Option Nat) : Stream := { stream0 [] with coll := some 5, ring := [x], head := 1, pair := pair }
def slots (x : Slot) (k : TaskKind) (pair : Option Nat) : State :=
  { serving with streams := { Streams.reset with streams := [slotStream x pair], tasks := [task0 k []], nextSid := 5, nextTid := 3 } }
def issued (tier mode chan : Nat) : Slot := { Slot.empty with st := .issued, mode := mode, tier := tier, chan := chan, outstanding := true, data := .raw [0] }
def slot0 (t : State) (p : Slot → Bool) : Bool := match (getStream t 4).bind fun r => slotAt r 0 with | some x => p x | none => false
theorem test_pieceComplete : answers serving (slotStream (issued 1 0 9) none) (issued 1 0 9) = true ∧ unreadable serving (slotStream (issued 1 0 9) none) (issued 1 0 9) = false ∧
    after (.pieceComplete 4 0 .ok) (slots (issued 1 0 9) .sketch none) (fun t => slot0 t fun x => x.st == .full && !x.outstanding && x.data == .entries [0]) = true ∧
    after (.pieceComplete 4 0 .uncorrectable) (slots (issued 2 0 9) .sketch none) (fun t => (getStream t 4).map (fun r => r.tail) != some 0) = true ∧
    after (.pieceComplete 4 0 .ok) (slots (issued 2 1 9) .sketch none) (fun t => slot0 t fun x => x.st == .issued) = true := by decide +kernel
theorem test_prongs : after (.prongScreen 4 0) (slots (issued 2 1 9) .sketch none) (fun t => slot0 t fun x => x.data == .survivors [0] [] && x.atDevice) = true ∧
    after (.prongGate 4 0) (slots (issued 2 2 9) .code none) (fun t => slot0 t fun x => x.data == .entries []) = true ∧
    after (.prongPass 4 0) (slots (issued 2 0 9) .code none) (fun t => slot0 t fun x => x.data == .entries [0] && !x.raw) = true ∧
    after (.prongPass 4 0) { slots (issued 2 1 63) .sketch none with flash := (withFlash { FlashCh.reset with prongFenced := true }).flash }
      (fun t => slot0 t fun x => x.data == .raw [0] && x.raw) = true := by decide +kernel
theorem test_slotTake : stageOpen (slots (fullSlot (.entries [0])) .row none) (task0 .row []) = true ∧
    after (.slotTake 4 none []) (slots (fullSlot (.entries [0])) .row none) (fun t => (slot0 t fun x => x.st == .taken && x.data == .entries [0]) && t.streams.tasks.map Task.dealt == [0]) = true ∧
    after (.slotFinish 4) (slots { fullSlot .none with st := .taken } .row none) (fun t => (getStream t 4).map (fun r => r.tail) == some 1) = true ∧
    after (.slotFinish 4) (slots { fullSlot (.entries [0]) with st := .taken } .row none) (fun t => t.streams.tasks.map Task.dealt == [1]) = true := by
  decide +kernel
/-- A scale block of 264 bytes with one scale. -/
def block1 (n : BitVec 16) : List Byte := scaleBytes ⟨n, 0, 1, 0, [0x3F80]⟩
theorem test_scale_block : (block1 1).length = 264 ∧ (block1 0x102).take 10 = [2, 1, 0, 1, 0, 0, 0, 0, 0x80, 0x3F] ∧
    (scaleBlockOf (block1 0x102)).seq = 0x102 ∧ (scaleBlockOf (block1 1)).scales.take 2 = [0x3F80, 0] := by decide +kernel
theorem test_slotTake_scale : isDataStream (slots (fullSlot .none) .row (some 1)) (slotStream (fullSlot .none) (some 1)) = true ∧
    scaleMatches (slots (fullSlot .none) .row (some 1)) (task0 .row []) (fullSlot .none) (scaleBlockOf (block1 0)) = true ∧
    after (.slotTake 4 (some (block1 0)) []) (slots (fullSlot .none) .row (some 1)) (fun t => slot0 t fun x => x.st == .taken) = true ∧
    after (.slotTake 4 (some (block1 1)) []) (slots (fullSlot .none) .row (some 1)) (fun t => (getCol t 0).status.getLsbD 6) = true := by decide +kernel

/-! ## Queries -/

def qp0 : QParams :=
  { range := false, k := 2, probe := 2, thr := 64, bw := 0, rr := 0, radius := 0, fast := false, payload := false, log := false, fOr := false
    fids := [], emb := [], pre := true }
def qcap : Capsule := capsule 20 5 1 4 2 0 []
def query0 (st : QStage) : Query :=
  { qid := 8, ref := refOf 1 qcap, local_ := true, coll := 5, snap := 6, deadline := 20, start := 6, late := false, p := qp0, deny := []
    codes := [⟨0, 0, [], false⟩], tier := 0, gatherBeads := 0, dropGather := false, dropBridge := false, dropRerank := false, stage := st
    segs := [⟨65535, 0, [], [], [], [], false, false, false, none⟩], parts := [], dies := [], runThr := none, emitted := [], exhausted := false
    since := 6, takeOver := [], reps := []
    final := [], finalCut := [], merged := false, dedup := 0, inRadius := 0, overflow := false, bridgeTargets := [], fetched := [], rows := [], toGather := []
    selectCut := false, tieUnknown := false, tree := 0, fan := [], members := [], pos := 0, oldFaults := [], root := 0x11, serial := 3
    lists := [], folded := none, candBytes := 0, gatherBytes := 0 }
def searching (q : Query) : State :=
  { serving with
    search := { serving.search with queries := [q], nextQid := 9 }
    queues := { serving.queues with cmds := [⟨refOf 1 qcap, qcap, 0, .running, 0⟩], arrivals := 1 } }
def scored (id : Nat) (d : F32) (slot : Nat) : Scored :=
  { dist := d, itemId := BitVec.ofNat 64 id, slot := slot, epoch := 0, seg := 65535, module := 0x11, notReranked := false, bridged := false, side := true
    payMissing := false }
def query8 (t : State) (p : Query → Bool) : Bool := match findQuery t 8 with | some q => p q | none => false
def qPass : Query := { query0 .scanning with p := { qp0 with k := 1025 } }
def crowd : List Scored := (List.range 4).map fun i => scored (i % 2) (0x3F800000 + BitVec.ofNat 32 i) i

theorem test_merge : (mergeLists 2 [[scored 1 5 3, scored 2 7 1], [scored 1 4 9, scored 3 6 2]] []).kept.map Scored.slot = [9, 2] ∧
    (mergeLists 3 [[scored 1 5 3], [scored 1 5 2]] []).dups = 1 ∧ (mergeLists 3 [[scored 1 5 3], [scored 1 5 2]] []).kept.map Scored.slot = [2] := by
  decide +kernel
theorem test_compaction_due : bufferFull { qPass with parts := [⟨0, [], List.replicate 65600 (scored 1 5 0), [], []⟩] } = true := by
  have h : ({ qPass with parts := [⟨0, [], List.replicate 65600 (scored 1 5 0), [], []⟩] } : Query).records = List.replicate 65600 (scored 1 5 0) := by
    exact List.append_nil _
  rw [bufferFull, h, List.length_replicate]; decide +kernel
theorem test_halfScale : after (.halfScaleRepeat 8 []) (searching { query0 .scanning with reps := [⟨3, 65535, [], 0⟩] })
    (fun t => (query8 t fun q => q.reps == []) && (counterAt t (adcHalfCnt 3)).val == 1) = true ∧
    after (.halfScaleRepeat 8 []) (searching { query0 .scanning with reps := [⟨3, 65535, [], 2⟩] }) (fun t => (counterAt t (adcFp16Cnt 3)).val == 1) = true := by
  decide +kernel
theorem test_passes : scanOver qPass = true ∧ after (.repeatedPass 8) (searching { qPass with parts := [⟨0, [], crowd, [], []⟩] })
      (fun t => query8 t fun q => q.emitted.map Scored.slot == [0, 1] && !q.exhausted) = true ∧
    after (.repeatedPass 8) (searching { qPass with parts := [⟨0, [], crowd, [], []⟩], emitted := crowd.take 2, exhausted := true })
      (fun t => query8 t fun q => q.final.map Scored.slot == [0, 1] && q.stage == .done) = true := by decide +kernel
theorem test_clasps : listReady (query0 .scanning) = true ∧
    after (.claspMergeStart 8 (.die 3) []) (searching { query0 .scanning with parts := [⟨67, [scored 1 5 0], [], [], []⟩, ⟨0, [], [], [], []⟩] })
      (fun t => query8 t fun q => q.dies.map Part.facet == [3] && q.parts.map Part.facet == [0]) = true ∧
    after (.claspMergeStart 8 .module []) (searching { query0 .scanning with dies := [⟨0, [scored 1 5 0, scored 2 4 1, scored 3 9 2], [], [], []⟩] })
      (fun t => query8 t fun q => q.final.map Scored.slot == [1, 0] && q.stage == .done) = true := by decide +kernel
/-- At the root of tree 3 with module 0x12 as its child. -/
def qTree (st : QStage) : Query := { query0 st with tree := 3, fan := [2], members := [(0x11, 7), (0x12, 8)] }
def list1 : ListBody :=
  { entries := [⟨4, 3, 1, 0x12, 0, false, false, false, false⟩], cutTies := 0, missed := [], dedup := 0, inRadius := 0, foldI := 0, foldS := 0
    shards := [⟨8, 0x12, 1, 1, []⟩], members := [], selectCut := false, overflow := false }
theorem test_fabric_clasp : (qTree .clasping).kids ≠ [] ∧ fabricReady serving { qTree .clasping with lists := [(0x12, 9, list1)] } = true ∧
    fabricReady serving (qTree .clasping) = false ∧ fabricReady serving { qTree .clasping with deadline := 10 } = true ∧
    after (.claspMergeStart 8 .fabric []) (searching { qTree .clasping with final := [scored 1 5 0], lists := [(0x12, 9, list1)] })
      (fun t => query8 t fun q => q.stage == .done && (q.folded.map fun b => (b.entries.map ListEntry.slot, b.foldI, b.foldS)) == some ([1, 0], 2, 2)) = true := by
  decide +kernel
theorem test_searchReply : min (needsUntil (query0 .done) 0) 20 ≤ beadNow serving ∧ after (.searchReply 8) (searching { query0 .done with final := [scored 9 0x3F800000 0] })
    (fun t => (replies t).map (fun r => (r.1, r.2.1, r.2.2.1)) == [(20, 2, 0)] && t.search.queries == []) = true := by decide +kernel
theorem test_coverage : coverage 0 0 = 65536 ∧ coverage 0 5 = 0 ∧ coverage 1 100000 = 1 ∧ coverage 1 3 = 21845 := by decide
def reading (r : ReadItem) : State := { searching (query0 .done) with search := { serving.search with reads := [r] } }
theorem test_readItemReply : lostPart (reading { read0 10 with ref := refOf 3 (dataCap 0 []) }) { read0 10 with ref := refOf 3 (dataCap 0 []) } = none ∧
    after (.readItemReply 20 2 false) (reading { read0 10 with ref := refOf 3 (dataCap 0 []) })
      (fun t => statuses t == [0] && t.search.reads == []) = true ∧
    after (.readItemReply 20 2 true) (reading { read0 11 with ref := refOf 3 (dataCap 0 []) }) (fun t => statuses t == [0x0302]) = true ∧
    after (.readItemReply 20 2 false) (reading { read0 11 with ready := 11 }) (fun t => t.out == []) = true := by decide +kernel

/-! ## Admission of reads -/

/-- Host codes for one epoch, k and D. -/
def searchCap (range : Bool) (k : BitVec 17) (d : BitVec 12) : Capsule :=
  capsule 20 5 1 d k (BitVec.ofNat 320 (64 * 2 ^ 16 + (if range then 0x3F800000 * 2 ^ 64 else 0) + 2 ^ 192)) (List.replicate 4112 0)
def body0 : Option QueryBody := (searchChecks serving coll0 false (searchCap false 2 4)).toOption
def built (op : BitVec 8) (c : Capsule) (k : Coll) (b : QueryBody) : Query :=
  buildQuery (queued op c serving) k (refOf op c) true 10 10 c.deadline.toNat 0x11 0 (queryParams (op == 2) 2 c (emptyQuery b)) b
theorem test_search : submitted 1 (searchCap false 2 4) serving = true ∧ admitStatus serving = 0 ∧ body0.isSome = true ∧
    (body0.map fun b => reserveBad (queued 1 (searchCap false 2 4) serving) coll0 (built 1 (searchCap false 2 4) coll0 b)) = some none ∧
    after (.search (searchCap false 2 4)) serving (fun t => t.search.queries.map (fun q => (q.qid, q.snap, q.deadline, q.stage, q.p.k)) == [(0, 10, 13, .admitted, 2)] &&
      t.search.serial == 1 && t.out == []) = true := by decide +kernel
theorem test_searchRange : submitted 2 (searchCap true 1 3) serving = true ∧ (searchChecks serving coll0 true (searchCap true 1 3)).toOption.isSome = true ∧
    after (.searchRange (searchCap true 1 3)) serving (fun t => t.search.queries.map (fun q => (q.p.range, q.p.radius, q.deadline)) == [(true, 0x3F800000, 12)]) = true := by decide +kernel
theorem test_search_refused : after (.search (searchCap false 2 2)) serving (fun t => statuses t == [0x0109]) = true ∧
    after (.search (searchCap false 0 4)) serving (fun t => statuses t == [0x0108]) = true := by decide +kernel
def sel4 : State := { serving with pools := { serving.pools with sel := List.replicate 4 (1, 1024) } }
theorem test_reservations : reserveBad sel4 coll0 (query0 .admitted) = some 0x0212 ∧
    after (.search (searchCap false 2 4)) sel4 (fun t => statuses t == [0x0212] && t.search == sel4.search && t.pools == sel4.pools) = true := by decide +kernel
def noScratch (n : Nat) : State :=
  { serving with pools := { serving.pools with cand := hbmScratchFree serving - n } }
/-- A flash segment that its credit does not pay for. -/
def poor : Coll := { coll0 with segs := [⟨0, 0, 1, none, [(0, [⟨0, 0, 3, [], []⟩])], 70, 90, 64⟩], creditFlash := 15, resident := 2 }
theorem test_reservation_order : creditFits poor (built 1 (searchCap false 2 14) poor ⟨[], [⟨0, 0, [], false⟩], none⟩) = false ∧
    (let q := built 1 (searchCap false 1025 4) coll0 ⟨[], [], none⟩; q.candBytes = 24 * 64 * 1025 ∧ hbmScratchFree (noScratch (q.candBytes - 1)) < q.candBytes ∧
      q.candBytes ≤ hbmScratchFree (noScratch q.candBytes)) ∧
    after (.search (searchCap false 1025 4)) (noScratch 1574399) (fun t => statuses t == [0x0213]) = true ∧
    after (.search (searchCap false 1025 4)) (noScratch 1574400) (fun t => statuses t == []) = true ∧
    after (.search { searchCap false 1025 4 with flags := 5 }) (noScratch 1574400) (fun t => statuses t == [0x0214]) = true := by decide +kernel
theorem test_readItem : submitted 3 (capsule 20 5 0 3 0 (area24 [9, 0, 0, 0, 0, 0, 0, 0, 7]) []) serving = true ∧ resolveAt coll0 9 10 = some 0 ∧
    after (.readItem (capsule 20 5 0 3 0 (area24 [9, 0, 0, 0, 0, 0, 0, 0, 7]) [])) serving (fun t => t.search.reads.map (fun r => (r.slot, r.snap, r.deadline)) == [(0, 10, 12)]) = true ∧
    resolveAt coll0 8 10 = none ∧ after (.readItem (capsule 20 5 0 3 0 (area24 [8]) [])) serving (fun t => statuses t == [0x0207] && t.search == serving.search) = true := by decide +kernel

/-! ## Links and flits -/

def active : Link := { Link.reset with state := linkActive }
def linked (f : Link → Link) : State := withLink 1 (f active)
def link1 (t : State) (p : Link → Bool) : Bool := p (getLink t 1)
def ident0 : IdentMsg := ⟨5, 0, [], 0x10, 0, 20, 77, 0, 0x11, 0⟩
def revoked : State := { withLink 1 { Link.reset with state := linkIdent } with locket := { serving.locket with fuses := { Fuses.reset with revoked := 3 } } }
def flit (n : BitVec 16) : Flit := ⟨n, 1, 0, true, true⟩

theorem test_training : after (.linkTrainingComplete 11 (some 9)) (withLink 11 { Link.reset with state := linkTraining })
      (fun t => (getLink t 11).state == linkIdent && t.out.length == 2) = true ∧
    after (.linkTrainingComplete 11 none) (withLink 11 { Link.reset with state := linkTraining }) (fun t => (getLink t 11).state == linkIsDown) = true := by decide +kernel
theorem test_ident_fails : identCause revoked 1 ident0 = 1 ∧ (actionsOf revoked 72 12).1 &&& (actFence ||| actBlockReset) = 0 ∧
    after (.ident 1 ident0) revoked (fun t => (getLink t 1).state == linkMismatch && (getLink t 1).cause == 1 && (getCol t 72).status.getLsbD 12) = true := by decide +kernel
theorem test_linkDown : after (.linkDown 1) (linked fun k => { k with replay := [flit 0] }) (fun t => (link1 t fun k => k.state == linkIsDown && k.replay == []) &&
      (getCol t 72).status.getLsbD 11 && knownFault t (.link 0x11 1)) = true ∧
    after (.linkRetrainTimer 1) (withLink 1 { Link.reset with state := linkIsDown }) (fun t => link1 t fun k => k.state == linkTraining) = true ∧
    after .discoveryTimeout { withLink 1 { Link.reset with state := linkTraining } with loader := { serving.loader with discovering := true } }
      (fun t => link1 t fun k => k.state == linkIsDown) = true := by decide +kernel
theorem test_credit : after (.credit 1 4 1 0 3) (linked fun k => { k with replay := [flit 3, flit 4, flit 5], credit := [192, 32, 32, 1470, 32, 32, 1984, 32, 32] })
      (fun t => (link1 t fun k => k.replay == [flit 5] && k.credit.getD 3 0 == 1472 && k.credit.getD 0 0 == 192) && t.out == []) = true ∧
    after (.credit 1 4 1 0 1) (linked fun k => { k with replay := [flit 4], waitq := [flit 0], txSeq := 9, credit := [192, 32, 32, 0, 32, 32, 1984, 32, 32] })
      (fun t => (link1 t fun k => k.replay == [flit 9] && k.credit.getD 3 0 == 0 && k.txSeq == 10 && k.waitq == []) && t.out == [.flit 1 9 1 0]) = true := by decide +kernel
theorem test_retry : after (.retry 1 4) (linked fun k => { k with replay := [flit 3, flit 4, flit 5] })
      (fun t => (link1 t fun k => k.replay == [flit 4, flit 5] && k.retries == 1) && t.out == [.flit 1 5 1 0, .flit 1 4 1 0]) = true ∧
    after (.retry 1 4) (linked fun k => { k with replay := [flit 4], retries := 14 }) (fun t => link1 t fun k => k.state == linkActive && k.retries == 15) = true ∧
    after (.retry 1 4) (linked fun k => { k with replay := [flit 4], retries := 15 }) (fun t => link1 t fun k => k.state == linkIsDown) = true := by decide +kernel
theorem test_flitError : after (.flitError 1 false) (linked id) (fun t => t.out == [.retryFlit 1 0] && (link1 t fun k => k.awaitRetry) && t.counters == serving.counters) = true ∧
    after (.flitError 1 true) (linked fun k => { k with awaitRetry := true }) (fun t => t.out == [] && (counterAt t (fecUncorrCnt 1)).val == 1) = true := by decide +kernel

/-! ## Notices and messages -/

def fault0 (b : Nat) : Notice := ⟨0x12, 4, .module 0x13, b⟩
def seen (f : Fabric → Fabric) : State := { linked id with fabric := f (linked id).fabric }
theorem test_notices : after (.faultNotice 1 (fault0 11)) (linked id) (fun t => t.fabric.faults == [] && t.fabric.notices == [⟨fault0 11, false⟩] && t.fabric.seen == [(0x12, 4, false)]) = true ∧
    after (.faultNotice 1 (fault0 10)) (linked id) (fun t => t.fabric.faults == [.module 0x13] && (counterAt t lateNoticeCnt).val == 1) = true ∧
    after (.repairNotice 1 (fault0 10)) (seen fun r => { r with faults := [.module 0x13] }) (fun t => t.fabric.faults == []) = true ∧
    after (.repairNotice 1 (fault0 11)) (seen fun r => { r with seen := [(0x12, 4, false)] }) (fun t => t.fabric.notices.length == 1) = true ∧
    after (.faultNotice 1 (fault0 10)) (seen fun r => { r with seen := [(0x12, 4, false)] }) (fun t => t.fabric.faults == [] && t.fabric.notices == [] && t.out == []) = true := by decide +kernel
/-- A message of bead `b` from module 0x12 to an endpoint of this module. -/
def hdr (ep b : Nat) : MsgHdr :=
  { dest := BitVec.ofNat 24 (ep * 2 ^ 20 + 0x11), src := 0x12, detours := 0, waypoints := 0, wpOn := false, revDim := 7, waypoint := 0, bead := b, bundle := b
    qroot := 0x12, qserial := 3, tree := 3 }
def treed (f : Fabric → Fabric) : State := { seen f with colls := [(5, { coll0 with att := { att0 with tree := 3 } })] }
theorem test_routing : after (.mgmtAccess 1 { hdr 0 10 with dest := 0x10 } [1]) (linked id) (fun t => t.out.any (fun o => match o with | .msg 1 _ _ => true | _ => false)) = true ∧
    after (.mgmtAccess 1 (hdr 5 10) [1]) (linked id) (fun t => (counterAt t routeDropCnt).val == 1 && t.fabric.inbox == []) = true ∧
    after (.mgmtAccess 1 (hdr 14 10) [1]) (linked id) (fun t => (counterAt t routeDropCnt).val == 1) = true ∧
    after (.bundleAck 1 (hdr 1 11)) (linked id) (fun t => t.fabric.early == [(hdr 1 11, .bundleAck)]) = true ∧
    after (.mgmtAccess 1 (hdr 0 11) [1, 2]) (linked id) (fun t => t.fabric.inbox == [[1, 2]]) = true := by decide +kernel
theorem test_query_joins : (parseQuery coll0 (searchCap false 2 9)).toOption.isSome = true ∧
    after (.query 1 (hdr 1 10) false (searchCap false 2 9)) (treed id) (fun t => t.search.queries.map (fun q => (q.root, q.serial, q.snap, q.local_, q.deadline)) == [(0x12, 3, 10, false, 17)]) = true ∧
    after (.query 1 (hdr 1 10) false (searchCap false 2 9)) (treed fun r => { r with bundles := [⟨3, 0x12, 10, false, true, 96, [(hdr 1 10, false, qcap)], []⟩] })
      (fun t => t.search.queries == []) = true := by decide +kernel
theorem test_bundles : (treeBy serving 3).isSome = true ∧ after (.bundleEnd 1 (hdr 1 10)) (treed id) (fun t => t.out.length == 2) = true ∧
    after (.bundleEnd 1 (hdr 1 10)) (treed fun r => { r with bundles := [⟨3, 0x12, 10, false, true, 96, [], []⟩] }) (fun t => t.fabric.bundles.all Bundle.closed) = true ∧
    after (.bundleAck 1 (hdr 1 10)) (treed fun r => { r with bundles := [⟨3, 0x12, 10, true, true, 96, [], [0x12, 0x13]⟩, ⟨3, 0x12, 9, true, true, 96, [], [0x12]⟩] })
      (fun t => t.fabric.bundles.map Bundle.unacked == [[0x13], [0x12]]) = true ∧
    after (.bundleDrop 1 (hdr 1 10)) (treed id) (fun t => t.fabric.dropped == [(10, 0x12)]) = true := by decide +kernel
def listening (q : Query) : State := { treed id with search := { serving.search with queries := [q] } }
theorem test_list : (qTree .scanning).childAddrs = [0x12] ∧ after (.list 1 { hdr 2 10 with qroot := 0x11 } list1) (listening (qTree .scanning))
      (fun t => query8 t fun q => q.lists == [(0x12, 10, list1)]) = true ∧
    after (.list 1 { hdr 2 10 with qroot := 0x11 } list1) (listening (qTree .done)) (fun t => query8 t fun q => q.lists == []) = true := by decide +kernel
theorem test_gather_messages : after (.gatherReq 1 (hdr 3 10) [0, 7]) { treed id with flash := { serving.flash with units := [] } }
      (fun t => t.out.any fun o => match o with | .msg _ h (.gatherRows rs) => rs == [(0, [1, 2])] && h.dest == 0x300012 && h.tree == 3 | _ => false) = true ∧
    after (.gatherRows 1 { hdr 3 10 with qroot := 0x11 } [(4, [9]), (6, [1])]) (listening { qTree .gathering with toGather := [(4, 0x12), (5, 0x12)] })
      (fun t => query8 t fun q => q.rows == [(4, 0x12, [9])] && q.toGather == [(5, 0x12)] && q.stage == .gathering) = true ∧
    after (.gatherRows 1 { hdr 3 10 with qroot := 0x11 } [(4, [9])]) (listening { qTree .gathering with toGather := [(4, 0x12)] })
      (fun t => query8 t fun q => q.stage == .done) = true := by decide +kernel

/-! ## Loads -/

def loadCap (fin : Bool) (bs : List Byte) : Capsule :=
  capsule 0 0 (if fin then 0x40 else 0) 0 0 (BitVec.ofNat 320 ((if fin then bs.length else bs.length + 1) * 2 ^ 64)) bs
def bare : State := { serving with loader := { serving.loader with firmware := false } }
theorem test_firmwareLoad : submitted 0x89 (loadCap true [1]) serving = true ∧ after (.firmwareLoad (loadCap true [1])) serving (fun t => statuses t == [0x021C]) = true ∧
    (takePart (queued 0x89 (loadCap true [1]) bare) (arrival 0x89 (loadCap true [1]) bare) 0).isSome = true ∧
    after (.firmwareLoad (loadCap false [1])) bare (fun t => statuses t == [0] && t.queues.objects.length == 1 && t.loader.staging == 1) = true ∧
    parseFirmware [1] = none ∧ after (.firmwareLoad (loadCap true [1])) bare (fun t => statuses t == [0x0108] && !t.loader.firmware) = true := by decide +kernel
theorem test_settingLoad : submitted 0x88 (loadCap true [1]) serving = true ∧ parseHead [1] = none ∧
    after (.settingLoad (loadCap false [1])) serving (fun t => statuses t == [0] && t.queues.objects.length == 1 && t.loader.setting == serving.loader.setting) = true ∧
    after (.settingLoad (loadCap true [1])) serving (fun t => statuses t == [0x0108] && t.loader.setting == serving.loader.setting) = true := by decide +kernel

/-! ## A whole firmware image and a whole setting (R315 to R328, R370), written out. SM3 and SM2 are uninterpreted (log entry
4), so no closed state can be shown in which a signature verifies: the clauses under signatureStatus = 0, tokenResult = 1 and
identCause = 0 have no evaluated witness here. A root digest of zero makes the refusals evaluate. -/

def pad (n : Nat) : List Byte := List.replicate n 0
def bytesOf (xs : List (Nat × Nat)) : List Byte := (xs.map fun x => leBytes x.1 x.2).flatten
def unrooted (s : State) : State := { s with locket := { s.locket with fuses := { s.locket.fuses with root0 := 0, root1 := 0 } } }
def fwImage : List Byte :=
  bytesOf [(4, 0x57464E58), (2, 1), (1, 0), (1, 1), (4, 256), (2, 1), (2, 0xFFFF), (4, 7)] ++ pad 108 ++
    bytesOf [(2, 0x80), (2, 0), (4, 144), (4, 48), (4, 0)] ++ pad 112
theorem test_firmware_image : parseFirmware fwImage = some (1, 7) ∧ parseFirmware (fwImage.set 20 1) = none ∧
    after (.firmwareLoad (loadCap true fwImage)) (unrooted bare) (fun t => statuses t == [0x0404] && !t.loader.firmware) = true := by decide +kernel

def sections0 : List (Nat × List Byte) := [
  (1, bytesOf [(2, 1), (6, 0)] ++ ((List.range 64).map fun l => (BitVec.ofNat 8 (l / 16 * 17 + l % 16) : Byte)) ++
      bytesOf [(2, 3), (2, 0xFFFF), (2, 2), (1, 0), (1, 0), (2, 0xFFFF), (6, 0)]),
  (2, bytesOf [(8, 196), (2, 1024), (2, 31744), (28, 0)]), (3, bytesOf [(2, 1), (14, 0), (2, 3), (1, 3), (3, 0), (2, 0)]),
  (4, bytesOf [(2, 1), (6, 0), (2, 16), (2, 16), (4, 0)]), (6, bytesOf [(2, 100), (6, 0)]), (7, bytesOf [(4, 0x11), (5, 0x0101010202)] ++ pad 223),
  (10, bytesOf [(8, 1), (8, 1 + 2 * 128), (8, 0x3F * 2 ^ 58)]), (11, bytesOf [(4, 0), (4, 9)])]
def sections1 : List (Nat × List Byte) := sections0.set 2 (3, bytesOf [(2, 1), (14, 0), (2, 3), (1, 3), (1, 1), (1, 2), (1, 16), (1, 8), (1, 20)])
def offsets : Nat → List (Nat × List Byte) → List Byte
  | _, [] => []
  | o, (t, bs) :: r => bytesOf [(4, t), (4, o), (4, bs.length), (4, 0)] ++ offsets (o + bs.length) r
def settingOf (secs : List (Nat × List Byte)) : List Byte :=
  let body := (secs.map Prod.snd).flatten
  bytesOf [(4, 0x4D4C4E58), (2, 1), (1, 0), (1, 0), (4, 128 + 16 * secs.length + body.length + 64), (2, secs.length), (2, 0xFFFF), (8, 33)] ++ pad 104 ++
    offsets (128 + 16 * secs.length) secs ++ body ++ pad 64
def settingCap (bs : List Byte) : Capsule := { loadCap true bs with area := BitVec.ofNat 320 (bs.length * 2 ^ 64 + 0xFFFF * 2 ^ 128) }
theorem test_setting_image : ((parseHead (settingOf sections1)).map fun h => (presenceOk h, h.serial, h.group)) = some (true, 33, 0xFFFF) ∧
    (((parseHead (settingOf sections1)).bind (parseSetting 20)).map fun t => (t.periodUs, t.carve.hbmScratch, t.arithDiv, t.prongVersion, t.formats)) =
      some (100, 1024, 8, 9, [⟨3, 3, 1, 2, 16, 8, 20⟩]) ∧
    ((parseHead (settingOf sections0)).bind (parseSetting 20)) = none ∧ ((parseHead (settingOf sections1)).bind (parseSetting 1)) = none := by decide +kernel
theorem test_setting_unsigned : after (.settingLoad (settingCap (settingOf sections1))) (unrooted serving)
    (fun t => statuses t == [0x0404] && t.loader.setting == serving.loader.setting) = true := by decide +kernel

def part0 (st : PartialStep) : PartialRun := ⟨⟨0x88, 0, 2, 1, 0, 0, 0⟩, { group1 with rounds := 8 }, (List.range 64).map (fun i => 17 * (i / 16) + i % 16), 5, st, 10⟩
def parting (st : PartialStep) : State := { serving with loader := { serving.loader with part := some (part0 st) } }
theorem test_partial : pipelineBusy (parting .drain) 1 = false ∧ (facetsOf (parting .drain) 1).length = 64 ∧
    after .partialSettingFence (parting .drain) (fun t => t.facets.countP Facet.fenced == 64 && (t.loader.part.map PartialRun.step) == some .fenced) = true ∧
    pipelineBusy { parting .drain with search := (listening (query0 .scanning)).search } 1 = true ∧
    after .partialSettingRelease (parting .fenced) (fun t => t.loader.part.map PartialRun.step == some .loaded && t.loader.partialCnt == 0) = true ∧
    (let t := partialRelease (parting .loaded)
     t.loader.part = none ∧ t.loader.partialCnt = 1 ∧ t.loader.digest = serving.loader.digest) ∧
    after .partialSettingFence (parting .drain) (fun t => t.loader.groups.map (fun g => g.rounds) == [8]) = true := by decide +kernel

/-! ## Flash units -/

def unit0 (p : Nat) : Unit64 := ⟨5, p, 3, 40, false, false, false, none, []⟩
def block0 (n e : Nat) : Block := ⟨3, n, e, 0, true, false, false⟩
def flashing (us : List Unit64) (bs : List Block) : State :=
  { serving with flash := { serving.flash with units := us, blocks := bs, wbuf := [⟨4, 5, 90 * 65536, 64, 9, .row 0, 4096, true, []⟩] } }
theorem test_unitDrain : mayProgram (flashing [] []) 5 90 3 41 false = true ∧ ((flashing [] []).flash.wbuf.map WriteRec.pages) = [[90]] ∧
    after (.unitDrain 5 90 3 41) (flashing [] []) (fun t => findUnit t 5 90 == some ⟨5, 90, 3, 41, false, false, false, none, []⟩ && t.flash.wbuf == [] && t.flash.journal.length == 1) = true := by decide +kernel
def movingS : State := flashing [{ unit0 90 with moving := true }] [{ block0 40 7 with collecting := true }]
theorem test_relocation : relocPaused movingS 3 = false ∧ mayProgram movingS 5 90 4 12 false = true ∧
    after (.relocationComplete 0 4 12) movingS (fun t => findUnit t 5 90 == some ⟨5, 90, 4, 12, false, false, false, none, []⟩ && t.flash.journal.length == 1 &&
      (findBlock t 3 40).map (fun b => (b.erase, b.full)) == some (8, false)) = true := by decide +kernel
def worn : State := flashing [unit0 90, { unit0 91 with block := 41 }] [block0 40 7, block0 41 508]
theorem test_background : background worn 3 = true ∧ leastBlock Block.erase ((usedBlocks worn 3).filter fun b => 0 < validUnits worn 3 b.num) = some (block0 40 7) ∧
    after (.wearLevelling 3) worn (fun t => t.flash.units.map (fun u => (u.moving, u.worn)) == [(true, true), (false, false)]) = true ∧
    after (.wearLevelling 3) (flashing [unit0 90, { unit0 91 with block := 41 }] [block0 40 7, block0 41 507]) (fun t => t.flash.units.all fun u => !u.moving) = true ∧
    after (.readDisturbRefresh 3 41) (flashing [{ unit0 91 with block := 41 }] [{ block0 41 1 with reads := 1000 }]) (fun t => t.flash.units.all Unit64.moving) = true ∧
    disturbLimit worn = 1000 ∧
    after (.readDisturbRefresh 3 41) (flashing [{ unit0 91 with block := 41 }] [{ block0 41 1 with reads := 999 }]) (fun t => t.flash.units.all fun u => !u.moving) = true ∧
    after (.retentionScrub 3 40 [0]) worn (fun t => t.flash.units.map Unit64.moving == [true, false] && findBlock t 3 40 == some { block0 40 7 with seen := true, reads := 1 }) = true ∧
    after (.freeBlockCollection 3) worn (fun t => t.flash.units.map Unit64.moving == [true, false] && (findBlock t 3 40).map Block.collecting == some true) = true ∧
    after (.freeBlockCollection 3) (flashing [] [block0 40 7]) (fun t => findBlock t 3 40 == some ⟨3, 40, 8, 0, false, false, false⟩) = true := by decide +kernel
def laddered (r : LadderEnd) (p : State → Bool) : Bool := after (.recoveryLadderEnd 3 5 90 r) (flashing [unit0 90] []) p
theorem test_ladder : laddered ⟨3, false, false, true⟩ (fun t => (counterAt t (flashRetryCnt 3)).val == 3 && (counterAt t (flashSoftCnt 3)).val == 0) = true ∧
    laddered ⟨8, true, false, true⟩ (fun t => (counterAt t (flashSoftCnt 3)).val == 1 && (counterAt t (flashRebuildCnt 3)).val == 0) = true ∧
    laddered ⟨8, true, true, true⟩ (fun t => (counterAt t (flashRebuildCnt 3)).val == 1) = true ∧ stripePage (flashing [unit0 90] []) 5 90 = false ∧
    laddered ⟨8, true, true, false⟩ (fun t => findUnit t 5 90 == some { unit0 90 with lost := true } && (getCol t 72).status.getLsbD 8) = true := by decide +kernel

/-! ## Learning, builds -/

def run2 : Run := { run0 with active := true, p := { run0.p with n := 1, u := 1 }, pairs := run0.pairs ++ run0.pairs }
def ready : Run := { run2 with accumulated := 1, pending := none }
theorem test_microBatch : learningRuns (learning run2) run2 = true ∧
    after (.microBatchStart 1) (learning run2) (fun t => t.learn.runs.map (fun r => (r.pairs.length, r.mbs.length, r.nextMb)) == [(1, 1, run2.nextMb + 1)] &&
      t.streams.tasks.length == 1) = true ∧
    after (.microBatchStart 1) (learning { run2 with pairs := [] }) (fun t => t == learning { run2 with pairs := [] }) = true := by decide +kernel
def updating : State := { learning ready with streams := { Streams.reset with tasks := [task0 (.update 1) []] } }
theorem test_update_abort : updateTask updating 1 = true ∧ getTask updating 2 = some (task0 (.update 1) []) ∧
    after (.optimiserUpdate 1 true 0) (learning ready) (fun t => t == learning ready) = true ∧ after (.optimiserUpdate 1 true 0) updating (fun t => t.learn.runs.map (fun r => (r.accumulated, r.pending.isNone)) == [(0, true)] &&
      (counterAt t updateAbortCnt).val == 1) = true := by decide +kernel
def skewable : State := { updating with streams := { updating.streams with streams := [{ stream0 [] with tid := 2 }] } }
theorem test_update_skew : skewable.streams.streams.find? (fun x => x.tid == 2 && x.sid == 4) = some { stream0 [] with tid := 2 } ∧
    skewable.streams.streams.find? (fun x => x.tid == 2 && x.sid == 5) = none ∧
    after (.optimiserUpdate 1 true 4) skewable (fun t => (getCol t (physOf skewable (stream0 []).facet)).status.getLsbD 6 && (counterAt t updateAbortCnt).val == 1) = true ∧
    after (.optimiserUpdate 1 true 5) skewable (fun t => !(getCol t (physOf skewable (stream0 []).facet)).status.getLsbD 6 && (counterAt t updateAbortCnt).val == 1) = true := by decide +kernel
def windowed (nz : Bool) (start : Nat) : State :=
  { serving with learn := { serving.learn with windowStart := start, driftW := 4, nextD := some 9, windows := [⟨5, false, 0, 1, 0, 0, 6, nz, 0, 0, 0⟩] } }
theorem test_driftWindow : after .driftWindowEnd (windowed true 7) (fun t => t.learn.windowStart == 7) = true ∧
    after .driftWindowEnd (windowed true 6) (fun t => t.learn.windowStart == 10 && t.learn.driftD == 9 && t.learn.windows.map (fun w => (w.encoded, w.clipped)) == [(0, 0)]) = true ∧
    (settleGroup enc0 ⟨5, false, 0, 1, 0, 0, 6, false, 0, 0, 0⟩).actOff = [0] ∧ (settleGroup enc0 ⟨5, false, 0, 1, 0, 0, 6, true, 0, 0, 0⟩).actOff = [] := by decide +kernel

def mergingC : Coll := { coll0 with merge := some ⟨9, 0, [], [], false, 0⟩, side := coll0.side.map fun x => { x with taken := true } }
theorem test_mergeBuild : after (.mergeBuildComplete 5 true []) { serving with colls := [(5, mergingC)] } (fun t => ((getColl t 5).map fun c => (c.merge, c.side.map fun x => x.taken)) == some (none, [false])) = true ∧
    after (.mergeBuildComplete 5 false []) { serving with colls := [(5, mergingC)] } (fun t => ((getColl t 5).bind Coll.merge).map (fun m => (m.built, m.items.length)) == some (true, 1)) = true := by decide +kernel
def promoS : State :=
  { (committing 0x32 adminColl { coll0 with promo := some ⟨refOf 0x32 adminColl, enc1, 1, 9, false⟩ }) with learn := (learning run0).learn }
theorem test_signatureBuild : newestEpoch coll0 = some ⟨0, enc0, 0⟩ ∧ (findCmd promoS 0 2).map Cmd.ref = some (refOf 0x32 adminColl) ∧
    after (.signatureBuildComplete 5 true []) promoS (fun t => statuses t == [0x0301] && (getColl t 5).map Coll.promo == some none) = true := by decide +kernel
theorem test_majority : majority 3 [5, 4, 2, 4] = 4 ∧ majority 3 [5, 5, 2] = 5 := by decide +kernel

/-! ## Rules -/

def onPort2 (q : BitVec 15) (c : Capsule) : Capsule := { c with port := 2, queue := q }
theorem test_wrongPort : after (.search (onPort2 20 (searchCap false 2 4))) serving (fun t => statuses t == [0x0119] && t.search == serving.search) = true ∧
    after (.mgmtWrite (onPort2 16 mgmtW)) serving (fun t => statuses t == [0x0119]) = true ∧
    headCheck serving (onPort2 0 (searchCap false 2 4)) = 0 ∧ bodyCheck serving 1 (onPort2 0 (searchCap false 2 4)) ∈ ([0x0102, 0x0105] : List (BitVec 16)) := by decide +kernel
def noCredit : State := { serving with colls := [(5, poor)] }
def fullRings : State := { serving with pools := { serving.pools with rings := [(0, 2 ^ 40)] } }
theorem test_reservation_first : after (.search (searchCap false 2 14)) noCredit (fun t => statuses t == [0x0210]) = true ∧
    after (.search (searchCap false 2 14)) { noCredit with pools := fullRings.pools } (fun t => statuses t == [0x0210]) = true ∧
    after (.search (searchCap false 2 4)) fullRings (fun t => statuses t == [0x0211] && t.pools == fullRings.pools) = true ∧
    after (.search (searchCap false 2 4)) { fullRings with pools := { fullRings.pools with sel := sel4.pools.sel } } (fun t => statuses t == [0x0211]) = true := by decide +kernel
def dbgRead : Capsule := admin (area24 [0, 0x41, 0x0B, 0, 1]) []
def dbgWrite : Capsule := admin (area24 [0, 0x41, 0x0B, 0, 1]) [8, 0, 0, 0, 0, 0, 0, 0]
def unlocked : State := { serving with locket := { serving.locket with debugOpened := true } }
theorem test_debugRegisters : submitted 0x8D dbgRead serving = true ∧ regAddrs (arrival 0x8D dbgRead serving) = [0xB4100] ∧ debugLockOpen serving = false ∧
    after (.mgmtRead dbgRead) serving (fun t => statuses t == [0x0407]) = true ∧ after (.mgmtWrite dbgWrite) serving (fun t => statuses t == [0x0407] && t.near == serving.near) = true ∧
    after (.mgmtRead dbgRead) unlocked (fun t => statuses t == [0]) = true ∧
    after (.mgmtWrite dbgWrite) unlocked (fun t => statuses t == [0] && t.near.dbgAddr == 8) = true := by decide +kernel
theorem test_debugRegisters_facets : isDebugReg 0x102000 = true ∧ isDebugReg (0x24C000 + 0x2008) = true ∧ isDebugReg 0x102010 = false ∧ isDebugReg 0x101FF8 = false := by decide +kernel
theorem test_selectPerQueue : readReg (writeReg serving 3 0x70000 0x18005) 3 0x70000 = some 5 ∧ readReg (writeReg serving 3 0x70000 5) 15 0x70000 = some 0 ∧
    readReg (writeReg serving 0 0x210030 (2 ^ 60 + 7)) 0 0x210030 = some 7 := by decide +kernel
theorem test_tokenPermitted : tokenPermitted serving 2 0 0 = false ∧ tokenPermitted serving 2 3 0 = true ∧ tokenPermitted serving 2 4 0 = false ∧
    tokenPermitted { serving with locket := { serving.locket with fuses := { serving.locket.fuses with lifecycle := 7 } } } 2 7 0 = false := by decide +kernel

/-! ## Premises of the statements that the tests above do not evaluate -/

theorem test_premises : serving.locket.lifecycle ≠ 0 ∧ serving.locket.lifecycle ≠ 3 ∧ (withToken 1).collectors.length = 73 ∧
    pipelineClosed serving coll0.att.pipeline = false ∧ (getLink (withLink 1 { Link.reset with state := linkIsDown }) 1).stay = false ∧
    linkEnabled (withLink 1 { Link.reset with state := linkIsDown }) 1 = true ∧ (movingS.flash.units.map (mayMove movingS)) = [true] ∧
    (flashing [] []).flash.wbuf.map WriteRec.drained = [[]] := by decide +kernel
theorem test_query_premises : (treed id).time.held = true ∧ admitStatus (treed id) = 0 ∧ decidesNow (treed id) = true ∧
    pipelineClosed (treed id) 1 = false ∧ (treed id).fabric.bundles.any (sameQuery (hdr 1 10)) = false ∧
    (match parseQuery coll0 (searchCap false 2 9), getColl (treed id) 5 with
      | .ok b, some k => (reserveBad (treed id) k (buildQuery (treed id) k ⟨1, 0, 0, 0, 5, 1, 0xAB⟩ false 10 10 9 0x12 3
          (queryParams false (groupProbe (treed id) k.att.pipeline) (searchCap false 2 9) (emptyQuery b)) b)).isNone
      | _, _ => false) = true := by decide +kernel
theorem test_exit_sleepers : after .exitComplete { serving with power := { serving.power with exiting := true, pstate := 1, target := 1, frozen := some (freeze serving) } }
      (fun t => t.power == serving.power && t.search == serving.search && t.colls == serving.colls) = true ∧
    after .entryProperComplete { serving with power := { serving.power with entering := true, target := 2 } }
      (fun t => t.power.frozen == some (freeze serving) && !t.power.exiting) = true := by decide +kernel
theorem test_own_sources : (ownSources 72 0xFFFFFFFFFFFFFFFF).getLsbD 11 = true ∧
    ((List.range 64).all fun i => (ownSources 72 0xFFFFFFFFFFFFFFFF).getLsbD i == !isSummary 72 i) = true := by decide +kernel
theorem test_drain_thin : thinOf (flashing [] []) 5 90 = none ∧ findUnit (flashing [unit0 90] []) 5 90 = some (unit0 90) := by decide +kernel

/-! ## Premises of the clauses beside the main ones -/

def retrainingS : State := withLink 0 { Link.reset with state := linkTraining, retrain := true }
def looping : State := withLink 0 { Link.reset with state := linkLoop }
theorem test_service_in_progress : (getLink retrainingS 0).retraining = true ∧ after (.fabricLinkRetrain 0) retrainingS (fun t => t == retrainingS) = true ∧
    after (.fabricLinkRetrain 0) serving (fun t => (getLink t 0).retraining) = true ∧
    after (.fabricLoopback 0) looping (fun t => t == looping) = true ∧
    (let s := updPort serving 1 fun r => { r with state := 4 }; after (.hostifLoopback 1) s (fun t => t == s)) = true ∧
    (({ FlashCh.reset with state := 3, ret := true } : FlashCh).edge false).state = 0 ∧ (({ FlashCh.reset with state := 3 } : FlashCh).edge false).state = 3 := by
  decide +kernel
theorem test_neighbour_source : after (.linkTimeExchange 0 (-7) 9) { withLink 0 { Link.reset with state := linkActive } with time := { serving.time with source := 2, sourceArg := 0 } }
      (fun t => t.time.srcOffset == -7 && t.time.slew == -7 && t.time.now == 200500) = true ∧
    (getPort noTime 0).useRate = (getPort noTime 0).rate ∧ after .bringUpInterval { noTime with host := { noTime.host with ports := ports0.map fun p => { p with ipv6 := 3, pcs := false } } }
      (fun t => (getPort t 0).useIpv6 == 3) = true := by decide +kernel
def lowState (n : BitVec 2) : State := { serving with power := { serving.power with pstate := n, frozen := some (freeze serving) } }
theorem test_powerState_low : submitted 0x8B (admin 1 []) (lowState 1) = true ∧ submitted 0x8B (admin 0 []) (lowState 1) = true ∧
    after (.powerState (admin 1 [])) (lowState 1) (fun t => statuses t == [0] && !t.power.exiting) = true ∧
    after (.powerState (admin 0 [])) (lowState 1) (fun t => statuses t == [0] && t.power.exiting) = true ∧
    (let s := { holding false with queues := { (holding false).queues with cmds := [{ heldCmd with stage := .running }] } }
     after (.commandReady 0 2) s (fun t => t == s)) = true := by decide +kernel
def shedRun : Run := { run0 with active := false, held := true, stopCause := 2 }
theorem test_learn_resumes : canResume (learning shedRun) shedRun = true ∧ submitted 0x30 moreCap (learning shedRun) = true ∧
    findRun (learning shedRun) 2 = none ∧
    after (.learnStart moreCap) (learning shedRun) (fun t => statuses t == [0] && t.learn.runs.map (fun r => (r.active, r.pairs.length)) == [(true, 2)]) = true := by
  decide +kernel
def leaving : State := { serving with colls := [(5, { coll0 with attached := false, work := some (refOf 0x84 { adminColl with tag := 3 }, false) })] }
theorem test_delete_after_detach : submitted 0x82 adminColl leaving = true ∧
    after (.collectionDelete adminColl) leaving (fun t => t.out.isEmpty && coll5 t fun d => d.thenDelete == some (refOf 0x82 adminColl) && d.work.map Prod.snd == some false) = true := by
  decide +kernel
theorem test_connect_elsewhere : (getPort serving 0).answersAt 9 = true ∧ (getPort serving 0).answersAt 8 = false ∧ toBoot serving (dg 0 false) = false ∧
    after (.connect { dg 0 false with dst := 8 }) serving (fun t => t == serving) = true ∧
    toBoot serving { dg 0 false with dst := 0 } = true ∧ after (.connect { dg 0 false with dst := 0 }) serving (fun t => t.out == [.nakConnect 0 3]) = true := by decide +kernel
def pausing : State := updPort serving 0 fun p => { p with pfc := true }
theorem test_pause : after (.ethernetFrame (frame 64 0 true false true (.pause true 100001))) pausing (fun t => (counterAt t (mgmtPauseCnt 0)).val == 1) = true ∧
    after (.ethernetFrame (frame 64 0 true false true (.pause true 100000))) pausing (fun t => t == pausing) = true ∧
    after (.ethernetFrame (frame 64 0 true false true (.pause false 100001))) pausing (fun t => t == pausing) = true ∧
    after (.ethernetFrame { frame 100 64 true false true .echo with dst := 8 }) serving (fun t => t == serving) = true ∧
    after (.ethernetFrame (frame 100 64 true false true (.udp true true false 46201 5 4000 []))) serving (fun t => t == serving) = true ∧
    after (.ethernetFrame (frame 9217 64 true false true .echo)) serving (fun t => t == serving) = true := by decide +kernel
/-- What leaves the ports: a NAK in UDP, with its checksum (R240) and, over IPv4, Don't Fragment (R237). -/
theorem test_sent : (sendUdp ipOn 0 false (mapV4 0x01020304) 4001 [1, 2, 3]).host.sent =
      [⟨0, none, true, .udp ⟨mapV4 0, mapV4 0x01020304, 46200, 4001, BitVec.ofNat 16 (65535 - (0x0102 + 0x0304 + 17 + 11 + 46200 + 4001 + 11 + 0x0102 + 0x0300)), [1, 2, 3]⟩⟩] ∧
    after (.data { seg 1 true true [] with conn := 9 }) serving (fun t => t.host.sent.map (fun x => (x.port, x.tag, x.dontFragment)) == [(0, none, false)]) = true ∧
    ({ Port.reset with useVlan := 0x1003, usePcp := 0x1E } : Port).tagOf true = some 0xC003 := by decide +kernel

theorem test_endl_outside : after (.endl 4 0) (streaming (stream0 [word 5 0 0 0])) (fun t => (getStream t 4).map (fun r => (r.c.getD 0 0, r.pc, r.loops)) == some (1, 1, [])) = true ∧
    ((getStream (streaming (stream0 [])) 4).bind (nextWord (streaming (stream0 [])))) = none := by decide +kernel
theorem test_skipmap_takes : after (.read 4 0 0 3000) { streaming { stream0 [word 8 0 0 3000] with coll := some 5, skipLeft := 2, skipAt := regionOff params0 .tombstones } with
        colls := [(5, { coll0 with tombs := [0] })] } (fun t =>
      (getStream t 4).map (fun r => (r.skipLeft, r.skipJ, r.head)) == some (1, 1, 2)) = true := by decide +kernel
/-- A stream that adds or writes to its own scratch page, with `d` at the tail of its input. -/
def scratching (w : BitVec 64) (d : SlotData) : State :=
  { streaming (stream0 []) with streams := { Streams.reset with streams := [{ stream0 [w] with input := some 5, a := [0x100] },
      { stream0 [] with sid := 5, ring := [fullSlot d], head := 1 }], tasks := [task0 (.microBatch 1 0) []] } }
/-- The channel of that page; its frame is open (log entry 45). -/
def chan100 : Nat := (scratchPlace (scratching 0 .none) 2 0x100).1
def retrainPage : State := updChan (scratching (word 16 0 0 0) (.bytes [1, 2, 3, 4])) chan100 fun c => { c with state := 1 }
theorem test_write_scratch : writable (scratching (word 16 0 0 0) (.bytes [1, 2, 3, 4])) (stream0 []) 0x100 4 = true ∧
    after (.write 4 0) (scratching (word 16 0 0 0) (.bytes [1, 2, 3, 4])) (fun t => (getStream t 4).map Stream.pc == some 1) = true ∧
    after (.write 4 0) retrainPage (fun t => t.hbm.scratch == [] && (getChan t chan100).queued.length == 1) = true ∧
    (inputOf (streaming (stream0 [])) (stream0 [])).bind tailFull = none ∧
    after (.write 4 0) (streaming (stream0 [word 16 0 0 0])) (fun t => t == streaming (stream0 [word 16 0 0 0])) = true := by decide +kernel
def lostPage : State := updChan (scratching (word 17 0 0 0) (.bytes [1, 0, 0, 0, 2, 0, 0, 0])) chan100 fun c => { c with state := 2 }
theorem test_msaop_lost (fmt : MsaFmt) : msaLost (scratching (word 17 0 0 0) (.bytes [1, 0, 0, 0, 2, 0, 0, 0])) (stream0 []) fmt 0x100 [1, 0, 0, 0, 2, 0, 0, 0] = false ∧
    msaLost lostPage (stream0 []) fmt 0x100 [1, 0, 0, 0, 2, 0, 0, 0] = true := by cases fmt <;> decide +kernel
theorem test_msaop_passes : after (.msaop 4 0 0) (scratching (word 17 0 0 0) (.entries [])) (fun t => t.hbm.scratch == [] && (getStream t 4).map Stream.pc == some 1) = true := by
  decide +kernel
theorem test_slots_served : served (slots (issued 1 0 9) .sketch none) (slotStream (issued 1 0 9) none) (task0 .sketch []) (issued 1 0 9) = true ∧
    served (slots (issued 2 1 9) .sketch none) (slotStream (issued 2 1 9) none) (task0 .sketch []) (issued 2 1 9) = true ∧
    arrived (slots (issued 1 0 9) .sketch none) (slotStream (issued 1 0 9) none) (task0 .sketch []) (issued 1 0 9) = some (.entries [0]) ∧
    arrived (slots (issued 2 1 9) .sketch none) (slotStream (issued 2 1 9) none) (task0 .sketch []) (issued 2 1 9) = none := by decide +kernel
def outS : State := { slots (issued 1 0 9) .sketch none with hbm := { Hbm.reset with chans := [(9, { HbmChan.reset with state := 1 })] } }
def voided : Slot := { issued 1 0 9 with st := .void }
theorem test_slots_wait : answers outS (slotStream (issued 1 0 9) none) (issued 1 0 9) = false ∧ after (.pieceComplete 4 0 .ok) outS (fun t => t == outS) = true ∧
    after (.pieceComplete 4 0 .ok) (slots voided .sketch none) (fun t => (getStream t 4).all fun r => r.tail == 1 || r.ring.all fun x => !x.outstanding) = true ∧
    after (.prongGate 4 0) { slots (issued 2 2 63) .code none with flash := (withFlash { FlashCh.reset with prongFenced := true }).flash } (fun t => slot0 t fun x => x.data == .raw [0]) = true ∧
    after (.prongPass 4 0) { slots (issued 2 2 63) .code none with flash := (withFlash { FlashCh.reset with prongFenced := true }).flash }
      (fun t => slot0 t fun x => x.data == .entries [] && !x.raw) = true := by decide +kernel
theorem test_slotTake_waits : after (.slotTake 4 none []) (slots (fullSlot .none) .row (some 1)) (fun t => t == slots (fullSlot .none) .row (some 1)) = true ∧
    tailFull (slotStream (issued 1 0 9) none) = none ∧
    (let s := slots { fullSlot (.entries [0]) with st := .taken } .row none
     let s1 : State := { s with streams := { s.streams with tasks := s.streams.tasks.map fun k => { k with aborted := true } } }
     after (.slotFinish 4) s1 (fun t => t.streams.tasks.all fun k => k.dealt == 0)) = true ∧
    (let s := searching { query0 .scanning with start := 10 }
     stageOpen s (task0 .sketch [8]) = false ∧ stageOpen (searching (query0 .scanning)) (task0 .sketch [8]) = true) := by decide +kernel

theorem test_pass_premises : passOpen (searching qPass) qPass = true ∧ mergeBead qPass ≤ beadNow serving ∧ bufferFull (query0 .scanning) = false ∧
    passOpen (searching { qPass with exhausted := true }) { qPass with exhausted := true } = true ∧
    (query0 .scanning).p.passes = false ∧ after (.repeatedPass 8) (searching (query0 .scanning)) (fun t => t == searching (query0 .scanning)) = true ∧
    after (.compaction 8) (searching (query0 .scanning)) (fun t => t == searching (query0 .scanning)) = true ∧
    after (.halfScaleRepeat 8 []) (searching (query0 .scanning)) (fun t => t == searching (query0 .scanning)) = true := by decide +kernel
def claspOutS (q : Query) : State := { searching q with search := { (searching q).search with claspOut := true } }
def early : Query := { query0 .scanning with start := 10, parts := [⟨0, [scored 1 5 0], [], [], []⟩] }
def readyQ : Query := { query0 .ready with final := [scored 1 5 0, scored 2 5 1] }
theorem test_clasp_premises : mergeBead (query0 .scanning) ≤ beadNow serving ∧ beadNow serving < mergeBead early ∧
    after (.claspMergeStart 8 .module []) (claspOutS (query0 .scanning)) (fun t => t == claspOutS (query0 .scanning)) = true ∧
    after (.claspMergeStart 8 (.die 0) []) (searching early) (fun t => t == searching early) = true ∧
    mergeBead readyQ ≤ beadNow serving ∧ after (.claspMergeStart 8 .module [1, 0]) (searching readyQ) (fun t => query8 t fun q => q.stage == .done) = true ∧
    fetchOver { query0 .reranking with since := 6 } = true ∧ mergeBead { query0 .reranking with since := 6 } ≤ beadNow serving ∧
    after (.claspMergeStart 8 .module []) (searching { query0 .reranking with since := 6, final := [scored 1 5 0] }) (fun t => query8 t fun q => q.stage == .done) = true := by decide +kernel
/-- Module 0x11 as the child of root 0x12. -/
def member : Query := { qTree .clasping with local_ := false, members := [(0x12, 8), (0x11, 7), (0x13, 9)], pos := 1, root := 0x12, fan := [1, 1], lists := [(0x13, 9, { list1 with shards := [] })] }
theorem test_member_list : member.kids ≠ [] ∧ fabricReady (searching member) member = true ∧
    after (.claspMergeStart 8 .fabric []) { searching member with fabric := (treed id).fabric }
      (fun t => t.search.queries == [] && t.out.any fun o => match o with | .msg _ h (.list b) => h.dest == 0x200012 && b.entries.length == 1 | _ => false) = true ∧
    after (.claspMergeStart 8 .fabric []) (searching { member with lists := [] }) (fun t => query8 t fun q => q.folded.isNone) = true := by decide +kernel
theorem test_reply_order : nextReply (searching (query0 .done)) = some (query0 .done) ∧
    (let s := searching { query0 .done with qid := 9, deadline := 19 }
     let t := { s with search := { s.search with queries := [query0 .done, { query0 .done with qid := 9, deadline := 19 }] } }
     (nextReply t).map Query.qid = some 9 ∧ after (.searchReply 8) t (fun u => u == t) = true) ∧
    nextReply (searching (query0 .scanning)) = none ∧
    (let s := { searching { query0 .done with start := 10 } with colls := [(5, { coll0 with attached := false })] }
     isDetached s 5 = true ∧ nextReply s = some { query0 .done with start := 10 }) := by decide +kernel
def lostRow : Unit64 := ⟨5, coll0.params.regionBase .rows, 3, 40, true, false, false, none, []⟩
theorem test_read_premises : (lostPart { reading (read0 11) with flash := { serving.flash with units := [lostRow] } } (read0 11)).map Prod.fst = some 3 ∧
    after (.readItemReply 20 2 false) { reading { read0 11 with ref := refOf 3 (dataCap 0 []) } with flash := { serving.flash with units := [lostRow] } }
      (fun t => statuses t == [0x0302] && t.search.reads == []) = true ∧
    after (.readItemReply 20 2 false) { reading (read0 10) with time := { serving.time with cut := true } } (fun t => t.search.reads == [read0 10]) = true := by decide +kernel

def activating : State := withLink 1 { Link.reset with state := linkIdent, activate := true }
theorem test_link_premises : (getLink (activateLinks activating) 1).state = linkActive ∧ after (.ident 1 ident0) activating (fun t => t == activating) = true ∧
    after (.linkDown 1) (withLink 1 { Link.reset with state := linkIsDown }) (fun t => t == withLink 1 { Link.reset with state := linkIsDown }) = true ∧
    after (.linkTrainingComplete 1 (some 9)) activating (fun t => t == activating) = true ∧ after .discoveryTimeout serving (fun t => t == serving) = true ∧
    after (.linkRetrainTimer 1) (withLink 1 { Link.reset with state := linkIsDown, stay := true }) (fun t => (getLink t 1).state == linkIsDown) = true ∧
    serving.fabric.links.length = 12 ∧ (getCol revoked 72).pins.getLsbD 12 = false := by decide +kernel
theorem test_flit_premises : Link.reset.credit.length = 9 ∧ after (.credit 1 4 1 0 3) serving (fun t => t == serving) = true ∧ after (.retry 1 4) serving (fun t => t == serving) = true ∧
    after (.retry 1 6) (linked fun k => { k with replay := [flit 3, flit 4] }) (fun t => t == linked fun k => { k with replay := [flit 3, flit 4] }) = true ∧
    after (.credit 1 9 3 0 3) (linked fun k => { k with replay := [flit 3] }) (fun t => link1 t fun k => k.replay == [flit 3] && k.credit == Link.reset.credit) = true := by decide +kernel
def manyFaults : State := seen fun r => { r with faults := List.replicate maxFaults (.module 0x99) }
theorem test_notice_premises : after (.faultNotice 1 (fault0 10)) manyFaults (fun t => t.fabric.faults == manyFaults.fabric.faults) = true ∧
    after (.faultNotice 1 (fault0 10)) serving (fun t => t == serving) = true ∧
    (applyDue (seen fun r => { r with notices := [⟨fault0 10, false⟩] }) 10).fabric.faults = [.module 0x13] ∧
    (applyDue (seen fun r => { r with notices := [⟨fault0 10, true⟩], faults := [.module 0x13] }) 10).fabric.faults = [] := by decide +kernel
def lowTree : State := { treed id with power := { serving.power with pstate := 1 } }
theorem test_message_premises : decidesNow lowTree = false ∧ after (.query 1 (hdr 1 10) false (searchCap false 2 9)) lowTree
      (fun t => t.fabric.asleep.map (fun x => x.2.2.2) == [10] && t.search == lowTree.search) = true ∧
    after (.query 1 (hdr 1 10) false (searchCap false 2 9)) { treed id with colls := [(5, coll0)] } (fun t => t.search == serving.search) = true ∧
    after (.query 1 (hdr 1 10) false (searchCap false 2 9)) { treed id with pools := sel4.pools } (fun t => t.search == serving.search) = true ∧
    treeBy serving 9 = none ∧ after (.bundleEnd 1 { hdr 1 10 with tree := 9 }) (linked id) (fun t => t.out == (flitsIn (linked id) 1 .bundleEnd).out) = true ∧
    listFor { hdr 2 10 with qroot := 0x11 } (qTree .scanning) = true ∧ (qTree .scanning).pastMerge = false ∧ (qTree .done).pastMerge = true ∧
    after (.list 1 { hdr 2 10 with qroot := 0x11 } list1) (listening { qTree .scanning with lists := [(0x12, 9, list1)] }) (fun t => query8 t fun q => q.lists == [(0x12, 9, list1)]) = true ∧
    after (.gatherRows 1 (hdr 3 10) [(4, [9])]) (listening { qTree .gathering with toGather := [(4, 0x12)] }) (fun t => query8 t fun q => q.toGather == [(4, 0x12)]) = true ∧
    after (.mgmtAccess 1 (hdr 1 10) [1]) (linked id) (fun t => t.fabric.inbox == [] && t.counters == serving.counters) = true := by decide +kernel
theorem test_load_premises : submitted 0x89 { loadCap true [1] with area := BitVec.ofNat 320 ((2 ^ 24 + 1) * 2 ^ 64) } bare = true ∧
    after (.firmwareLoad { loadCap true [1] with area := BitVec.ofNat 320 ((2 ^ 24 + 1) * 2 ^ 64) }) bare (fun t => statuses t == [0x0108]) = true ∧
    submitted 0x88 { loadCap true [1] with area := BitVec.ofNat 320 ((2 ^ 26 + 1) * 2 ^ 64) } serving = true ∧
    after (.settingLoad { loadCap true [1] with area := BitVec.ofNat 320 ((2 ^ 26 + 1) * 2 ^ 64) }) serving (fun t => statuses t == [0x0108]) = true ∧
    (takePart (queued 0x89 { loadCap true [1] with area := BitVec.ofNat 320 (5 + 9 * 2 ^ 64) } bare) (arrival 0x89 { loadCap true [1] with area := BitVec.ofNat 320 (5 + 9 * 2 ^ 64) } bare) 0).isNone = true ∧
    after (.firmwareLoad { loadCap true [1] with area := BitVec.ofNat 320 (5 + 9 * 2 ^ 64) }) bare (fun t => statuses t == [0x0117]) = true ∧
    after (.settingLoad { loadCap true [1] with area := BitVec.ofNat 320 (5 + 9 * 2 ^ 64) }) serving (fun t => statuses t == [0x0117]) = true := by decide +kernel

/-- A record over two pages. -/
def wideS : State :=
  { serving with flash := { serving.flash with wbuf := [⟨4, 5, 91 * 65536 - 16, 64, 9, .row 0, 4096, true, []⟩] } }
theorem test_drain_premises : (wideS.flash.wbuf.map WriteRec.pages) = [[90, 91]] ∧ channelFree wideS 3 = true ∧ mayProgram wideS 5 90 3 41 false = true ∧
    after (.unitDrain 5 90 3 41) wideS (fun t => (findUnit t 5 90).isNone && t.flash.fresh.length == 1 && t.flash.journal == []) = true ∧
    (match exec (.unitDrain 5 90 3 41) wideS with
      | .next u => after (.unitDrain 5 91 4 42) u fun t => (findUnit t 5 90).isSome && (findUnit t 5 91).isSome && t.flash.fresh == [] && t.flash.journal.length == 1 &&
          t.flash.wbuf == []
      | _ => false) = true ∧
    after (.unitDrain 5 89 3 41) wideS (fun t => t == wideS) = true := by decide +kernel
/-- Collection 5 as a stripe collection, with a unit of its directory. -/
def striped (bad : List Nat) : State :=
  { serving with colls := [(5, { coll0 with params := { params0 with stripe := true } })]
                 flash := { serving.flash with units := [⟨5, 0, stripeChannel 5 0 0, 40, false, false, false, none, bad⟩] } }
def frag (n : Nat) : Nat := stripeChannel 5 0 n
theorem test_stripe_ladder : stripePage (striped []) 5 0 = true ∧ frag 1 ∈ stripeGroup 5 0 ∧ bypassed (striped []) (frag 1) = false ∧
    after (.recoveryLadderEnd (frag 1) 5 0 ⟨8, true, true, false⟩) (striped []) (fun t => (findUnit t 5 0).map (fun u => (u.lost, u.bad)) == some (false, [frag 1]) &&
      (getCol t 72).status == 0) = true ∧
    after (.recoveryLadderEnd (frag 2) 5 0 ⟨8, true, true, false⟩) (striped [frag 1]) (fun t => (findUnit t 5 0).map Unit64.lost == some true &&
      (getCol t 72).status.getLsbD 8) = true ∧
    after (.recoveryLadderEnd (frag 1) 5 0 ⟨8, true, true, true⟩) (striped []) (fun t => (counterAt t (flashSoftCnt (frag 1))).val == 1 && (counterAt t (flashRebuildCnt (frag 1))).val == 0) = true ∧
    (let s := updFlashCh (flashing [unit0 90] []) 3 fun x => { x with state := 3 }
     after (.recoveryLadderEnd 3 5 90 ⟨8, true, true, true⟩) s (fun t => (counterAt t (flashRebuildCnt 3)).val == 1 && (counterAt t (flashSoftCnt 3)).val == 0)) = true ∧
    after (.recoveryLadderEnd 9 5 90 ⟨8, true, true, false⟩) (flashing [unit0 90] []) (fun t => t == flashing [unit0 90] []) = true := by decide +kernel
def mb0 (st : MbStage) : MicroBatch := ⟨1, 1, st, ⟨run2.pairs.take 1, [], run2.enc, run2.copy.map Trained.w, 0⟩⟩
def gradRun : Run := { run2 with mbs := [mb0 .weightGrads], nextMb := 2 }
theorem test_update : after (.optimiserUpdate 1 false 0) updating (fun t => t.learn.runs.map (fun r => (r.accumulated, r.acc, r.pending.isSome, r.newest)) == [(0, [], true, 1)] &&
      t.streams.tasks == []) = true ∧
    run2.stopAtEdge = none ∧ run2.active = true ∧ ready.pending = none ∧
    after (.optimiserUpdate 1 false 0) (learning { ready with stopAtEdge := some 1 }) (fun t => t == learning { ready with stopAtEdge := some 1 }) = true := by decide +kernel
theorem test_stage_ends : ((findRun (endStage (learning gradRun) gradRun coll0 (mb0 .weightGrads)) 1).map fun r => (r.accumulated, r.mbs)) = some (1, []) := by decide +kernel
def updated : Run := { ready with pending := some ⟨{ enc1 with weights := [[3, 4]] }, []⟩ }
theorem test_publishes : (match findRun (publishVersion (learning updated) updated) 1 with
    | some r => r.newest == 2 && r.previous == 1 && r.enc.weights == [[3, 4]] && r.prevEnc.weights == run2.enc.weights && r.pending.isNone
    | none => false) = true := by decide +kernel
theorem test_builds_idle : after (.mergeBuildComplete 5 false []) serving (fun t => t == serving) = true ∧ after (.signatureBuildComplete 5 false []) serving (fun t => t == serving) = true ∧
    after (.mergeBuildComplete 5 false []) { serving with colls := [(5, { mergingC with merge := some ⟨9, 0, [], [], true, 0⟩ })] }
      (fun t => t == { serving with colls := [(5, { mergingC with merge := some ⟨9, 0, [], [], true, 0⟩ })] }) = true ∧
    after (.signatureBuildComplete 5 false []) promoS (fun t => ((getColl t 5).bind Coll.promo).map Promotion.built == some true && t.out == []) = true ∧
    (match getColl promoS 5 with
      | some c => c.promo.map fun p => (sampleOf c ⟨0, enc0, 0⟩ p.enc p.admission run0.pairs []).length
      | none => none) ≠ none := by decide +kernel

end Sys2Proof.Tests
end

/-! The frame of every command (O6): the rules `exec<Command>_follows` of the rows, put together over the table. -/

namespace Sys2Proof.Machine

/-- One command of the table takes a state to one that follows it: only the fields of `touched` change, the queue stands,
fuses at most burn further, and the memories and the stores of fixed size keep their form. Each row is its own rule. -/
theorem exec_follows {c : Instr} {s t : State} (e : exec c s = .next t) : s.follows (touched c) t := by
  have start : s.follows (touched c) s := State.follows_refl _ s
  cases c with
  | search => exact execSearch_follows (List.Subset.refl _) e start
  | searchRange => exact execSearchRange_follows (List.Subset.refl _) e start
  | readItem => exact execReadItem_follows (List.Subset.refl _) e start
  | insert => exact execInsert_follows (List.Subset.refl _) e start
  | delete => exact execDelete_follows (List.Subset.refl _) e start
  | upsert => exact execUpsert_follows (List.Subset.refl _) e start
  | flush => exact execFlush_follows (List.Subset.refl _) e start
  | filterPut => exact execFilterPut_follows (List.Subset.refl _) e start
  | filterDrop => exact execFilterDrop_follows (List.Subset.refl _) e start
  | learnStart => exact execLearnStart_follows (List.Subset.refl _) e start
  | learnStop => exact execLearnStop_follows (List.Subset.refl _) e start
  | epochPromote => exact execEpochPromote_follows (List.Subset.refl _) e start
  | mergeHint => exact execMergeHint_follows (List.Subset.refl _) e start
  | identify => exact execIdentify_follows (List.Subset.refl _) e start
  | collectionCreate => exact execCollectionCreate_follows (List.Subset.refl _) e start
  | collectionDelete => exact execCollectionDelete_follows (List.Subset.refl _) e start
  | collectionAttach => exact execCollectionAttach_follows (List.Subset.refl _) e start
  | collectionDetach => exact execCollectionDetach_follows (List.Subset.refl _) e start
  | queueCreate => exact execQueueCreate_follows (List.Subset.refl _) e start
  | queueDelete => exact execQueueDelete_follows (List.Subset.refl _) e start
  | settingLoad => exact execSettingLoad_follows (List.Subset.refl _) e start
  | firmwareLoad => exact execFirmwareLoad_follows (List.Subset.refl _) e start
  | attest => exact execAttest_follows (List.Subset.refl _) e start
  | powerState => exact execPowerState_follows (List.Subset.refl _) e start
  | keyLoad => exact execKeyLoad_follows (List.Subset.refl _) e start
  | mgmtRead => exact execMgmtRead_follows (List.Subset.refl _) e start
  | mgmtWrite => exact execMgmtWrite_follows (List.Subset.refl _) e start
  | eventArm => exact execEventArm_follows (List.Subset.refl _) e start
  | commandReady => exact execCommandReady_follows (List.Subset.refl _) e start
  | writeCommit => exact execWriteCommit_follows (List.Subset.refl _) e start
  | flushComplete => exact execFlushComplete_follows (List.Subset.refl _) e start
  | collectionWorkEnd => exact execCollectionWorkEnd_follows (List.Subset.refl _) e start
  | connect => exact execConnect_follows (List.Subset.refl _) e start
  | data => exact execData_follows (List.Subset.refl _) e start
  | ack => exact execAck_follows (List.Subset.refl _) e start
  | close => exact execClose_follows (List.Subset.refl _) e start
  | closeTakesEffect => exact execCloseTakesEffect_follows (List.Subset.refl _) e start
  | replyRetransmit => exact execReplyRetransmit_follows (List.Subset.refl _) e start
  | queue0Rebind => exact execQueue0Rebind_follows (List.Subset.refl _) e start
  | ethernetFrame => exact execEthernetFrame_follows (List.Subset.refl _) e start
  | ptpMessage => exact execPtpMessage_follows (List.Subset.refl _) e start
  | hostPortDown => exact execHostPortDown_follows (List.Subset.refl _) e start
  | hostPortUp => exact execHostPortUp_follows (List.Subset.refl _) e start
  | osfpCageOvercurrent => exact execOsfpCageOvercurrent_follows (List.Subset.refl _) e start
  | hostifRateWrite => exact execHostifRateWrite_follows (List.Subset.refl _) e start
  | hostifAddressWrite => exact execHostifAddressWrite_follows (List.Subset.refl _) e start
  | hostifLoopback => exact execHostifLoopback_follows (List.Subset.refl _) e start
  | beadEdge => exact execBeadEdge_follows (List.Subset.refl _) e start
  | admissionGap => exact execAdmissionGap_follows (List.Subset.refl _) e start
  | cutPoint => exact execCutPoint_follows (List.Subset.refl _) e start
  | multicastWindowClose => exact execMulticastWindowClose_follows (List.Subset.refl _) e start
  | ppsInEdge => exact execPpsInEdge_follows (List.Subset.refl _) e start
  | holdover => exact execHoldover_follows (List.Subset.refl _) e start
  | linkTimeExchange => exact execLinkTimeExchange_follows (List.Subset.refl _) e start
  | bringUpInterval => exact execBringUpInterval_follows (List.Subset.refl _) e start
  | pwrEnRise => exact execPwrEnRise_follows (List.Subset.refl _) e start
  | powerGood => exact execPowerGood_follows (List.Subset.refl _) e start
  | pwrEnFall => exact execPwrEnFall_follows (List.Subset.refl _) e start
  | resetNLow => exact execResetNLow_follows (List.Subset.refl _) e start
  | resetNRelease => exact execResetNRelease_follows (List.Subset.refl _) e start
  | inputStepFall => exact execInputStepFall_follows (List.Subset.refl _) e start
  | inputStepRise => exact execInputStepRise_follows (List.Subset.refl _) e start
  | overvoltage => exact execOvervoltage_follows (List.Subset.refl _) e start
  | railDroop => exact execRailDroop_follows (List.Subset.refl _) e start
  | holdupFlushComplete => exact execHoldupFlushComplete_follows (List.Subset.refl _) e start
  | holdupMeasurement => exact execHoldupMeasurement_follows (List.Subset.refl _) e start
  | moduleReset => exact execModuleReset_follows (List.Subset.refl _) e start
  | pllUnlock => exact execPllUnlock_follows (List.Subset.refl _) e start
  | preparationEnd => exact execPreparationEnd_follows (List.Subset.refl _) e start
  | entryProperComplete => exact execEntryProperComplete_follows (List.Subset.refl _) e start
  | exitComplete => exact execExitComplete_follows (List.Subset.refl _) e start
  | hbmStackTempRise => exact execHbmStackTempRise_follows (List.Subset.refl _) e start
  | hbmStackTempFall => exact execHbmStackTempFall_follows (List.Subset.refl _) e start
  | thermalCrossing => exact execThermalCrossing_follows (List.Subset.refl _) e start
  | hardwareTrip die => exact execHardwareTrip_follows (_die := die) (List.Subset.refl _) e start
  | sourceLatch => exact execSourceLatch_follows (List.Subset.refl _) e start
  | collectorSelf => exact execCollectorSelf_follows (List.Subset.refl _) e start
  | blockResetComplete => exact execBlockResetComplete_follows (List.Subset.refl _) e start
  | coreWatchdogExpiry => exact execCoreWatchdogExpiry_follows (List.Subset.refl _) e start
  | coreReady => exact execCoreReady_follows (List.Subset.refl _) e start
  | coreStop => exact execCoreStop_follows (List.Subset.refl _) e start
  | snap => exact execSnap_follows (List.Subset.refl _) e start
  | clear => exact execClear_follows (List.Subset.refl _) e start
  | fcolStatusClear => exact execFcolStatusClear_follows (List.Subset.refl _) e start
  | fcolForce => exact execFcolForce_follows (List.Subset.refl _) e start
  | settingSpareHold => exact execSettingSpareHold_follows (List.Subset.refl _) e start
  | facetFence => exact execFacetFence_follows (List.Subset.refl _) e start
  | facetBist => exact execFacetBist_follows (List.Subset.refl _) e start
  | facetBistDone => exact execFacetBistDone_follows (List.Subset.refl _) e start
  | facetRelease => exact execFacetRelease_follows (List.Subset.refl _) e start
  | nearmemMbist => exact execNearmemMbist_follows (List.Subset.refl _) e start
  | nearmemMbistDone => exact execNearmemMbistDone_follows (List.Subset.refl _) e start
  | nearmemReturn => exact execNearmemReturn_follows (List.Subset.refl _) e start
  | hbmChRetrain => exact execHbmChRetrain_follows (List.Subset.refl _) e start
  | hbmRetrainStart => exact execHbmRetrainStart_follows (List.Subset.refl _) e start
  | hbmRetrainEnd => exact execHbmRetrainEnd_follows (List.Subset.refl _) e start
  | hbmRetrainTimeout => exact execHbmRetrainTimeout_follows (List.Subset.refl _) e start
  | pinnedCopyRestore => exact execPinnedCopyRestore_follows (List.Subset.refl _) e start
  | pageRefill => exact execPageRefill_follows (List.Subset.refl _) e start
  | hbmMbist => exact execHbmMbist_follows (List.Subset.refl _) e start
  | hbmMbistDone => exact execHbmMbistDone_follows (List.Subset.refl _) e start
  | hbmReturn => exact execHbmReturn_follows (List.Subset.refl _) e start
  | flashChRetrain => exact execFlashChRetrain_follows (List.Subset.refl _) e start
  | flashIfRetrainStart => exact execFlashIfRetrainStart_follows (List.Subset.refl _) e start
  | flashIfRetrainEnd => exact execFlashIfRetrainEnd_follows (List.Subset.refl _) e start
  | flashIfRetrainTimeout => exact execFlashIfRetrainTimeout_follows (List.Subset.refl _) e start
  | flashScrub => exact execFlashScrub_follows (List.Subset.refl _) e start
  | flashBypass => exact execFlashBypass_follows (List.Subset.refl _) e start
  | flashReturn => exact execFlashReturn_follows (List.Subset.refl _) e start
  | flashProngTest => exact execFlashProngTest_follows (List.Subset.refl _) e start
  | prongTestDone => exact execProngTestDone_follows (List.Subset.refl _) e start
  | wearLevelling => exact execWearLevelling_follows (List.Subset.refl _) e start
  | readDisturbRefresh => exact execReadDisturbRefresh_follows (List.Subset.refl _) e start
  | retentionScrub => exact execRetentionScrub_follows (List.Subset.refl _) e start
  | freeBlockCollection => exact execFreeBlockCollection_follows (List.Subset.refl _) e start
  | relocationComplete => exact execRelocationComplete_follows (List.Subset.refl _) e start
  | unitDrain => exact execUnitDrain_follows (List.Subset.refl _) e start
  | recoveryLadderEnd => exact execRecoveryLadderEnd_follows (List.Subset.refl _) e start
  | nop => exact execNop_follows (List.Subset.refl _) e start
  | seta => exact execSeta_follows (List.Subset.refl _) e start
  | adda => exact execAdda_follows (List.Subset.refl _) e start
  | sets => exact execSets_follows (List.Subset.refl _) e start
  | loop => exact execLoop_follows (List.Subset.refl _) e start
  | endl => exact execEndl_follows (List.Subset.refl _) e start
  | read => exact execRead_follows (List.Subset.refl _) e start
  | gather => exact execGather_follows (List.Subset.refl _) e start
  | skipmap => exact execSkipmap_follows (List.Subset.refl _) e start
  | tag => exact execTag_follows (List.Subset.refl _) e start
  | bead => exact execBead_follows (List.Subset.refl _) e start
  | write => exact execWrite_follows (List.Subset.refl _) e start
  | msaop => exact execMsaop_follows (List.Subset.refl _) e start
  | halt => exact execHalt_follows (List.Subset.refl _) e start
  | msaAdd => exact execMsaAdd_follows (List.Subset.refl _) e start
  | msaMin => exact execMsaMin_follows (List.Subset.refl _) e start
  | msaMax => exact execMsaMax_follows (List.Subset.refl _) e start
  | pieceComplete => exact execPieceComplete_follows (List.Subset.refl _) e start
  | prongScreen => exact execProngScreen_follows (List.Subset.refl _) e start
  | prongGate => exact execProngGate_follows (List.Subset.refl _) e start
  | prongPass => exact execProngPass_follows (List.Subset.refl _) e start
  | slotTake => exact execSlotTake_follows (List.Subset.refl _) e start
  | slotFinish => exact execSlotFinish_follows (List.Subset.refl _) e start
  | compaction => exact execCompaction_follows (List.Subset.refl _) e start
  | halfScaleRepeat => exact execHalfScaleRepeat_follows (List.Subset.refl _) e start
  | repeatedPass => exact execRepeatedPass_follows (List.Subset.refl _) e start
  | claspMergeStart => exact execClaspMergeStart_follows (List.Subset.refl _) e start
  | searchReply => exact execSearchReply_follows (List.Subset.refl _) e start
  | readItemReply => exact execReadItemReply_follows (List.Subset.refl _) e start
  | mergeBuildComplete => exact execMergeBuildComplete_follows (List.Subset.refl _) e start
  | signatureBuildComplete => exact execSignatureBuildComplete_follows (List.Subset.refl _) e start
  | microBatchStart => exact execMicroBatchStart_follows (List.Subset.refl _) e start
  | optimiserUpdate => exact execOptimiserUpdate_follows (List.Subset.refl _) e start
  | driftWindowEnd => exact execDriftWindowEnd_follows (List.Subset.refl _) e start
  | learnDriftWindowWrite => exact execLearnDriftWindowWrite_follows (List.Subset.refl _) e start
  | learnDriftLimitWrite => exact execLearnDriftLimitWrite_follows (List.Subset.refl _) e start
  | learnSatClearOne => exact execLearnSatClearOne_follows (List.Subset.refl _) e start
  | learnSatClearTensor => exact execLearnSatClearTensor_follows (List.Subset.refl _) e start
  | partialSettingFence => exact execPartialSettingFence_follows (List.Subset.refl _) e start
  | partialSettingRelease => exact execPartialSettingRelease_follows (List.Subset.refl _) e start
  | linkTrainingComplete => exact execLinkTrainingComplete_follows (List.Subset.refl _) e start
  | ident => exact execIdent_follows (List.Subset.refl _) e start
  | discoveryTimeout => exact execDiscoveryTimeout_follows (List.Subset.refl _) e start
  | linkDown => exact execLinkDown_follows (List.Subset.refl _) e start
  | linkRetrainTimer => exact execLinkRetrainTimer_follows (List.Subset.refl _) e start
  | retry => exact execRetry_follows (List.Subset.refl _) e start
  | flitError => exact execFlitError_follows (List.Subset.refl _) e start
  | faultNotice => exact execFaultNotice_follows (List.Subset.refl _) e start
  | repairNotice => exact execRepairNotice_follows (List.Subset.refl _) e start
  | mgmtAccess => exact execMgmtAccess_follows (List.Subset.refl _) e start
  | query => exact execQuery_follows (List.Subset.refl _) e start
  | bundleEnd => exact execBundleEnd_follows (List.Subset.refl _) e start
  | bundleAck => exact execBundleAck_follows (List.Subset.refl _) e start
  | bundleDrop => exact execBundleDrop_follows (List.Subset.refl _) e start
  | list => exact execList_follows (List.Subset.refl _) e start
  | gatherReq => exact execGatherReq_follows (List.Subset.refl _) e start
  | gatherRows => exact execGatherRows_follows (List.Subset.refl _) e start
  | fabricLinkRetrain => exact execFabricLinkRetrain_follows (List.Subset.refl _) e start
  | fabricLoopback => exact execFabricLoopback_follows (List.Subset.refl _) e start
  | fabricSetDown => exact execFabricSetDown_follows (List.Subset.refl _) e start
  | revokeSlot => exact execRevokeSlot_follows (List.Subset.refl _) e start
  | advanceLifecycle => exact execAdvanceLifecycle_follows (List.Subset.refl _) e start
  | debugOpen => exact execDebugOpen_follows (List.Subset.refl _) e start
  | setDebugLock => exact execSetDebugLock_follows (List.Subset.refl _) e start
  | hubHotClear => exact execHubHotClear_follows (List.Subset.refl _) e start
  | boundaryScanInstruction => exact execBoundaryScanInstruction_follows (List.Subset.refl _) e start
  | fruAccess => exact execFruAccess_follows (List.Subset.refl _) e start
  | osfpModuleInserted => exact execOsfpModuleInserted_follows (List.Subset.refl _) e start
  | osfpModuleRemoved => exact execOsfpModuleRemoved_follows (List.Subset.refl _) e start
  | installationComplete => exact execInstallationComplete_follows (List.Subset.refl _) e start
  | credit => exact execCredit_follows (List.Subset.refl _) e start

/-- Settles O6: `exec_follows`, of which a frame is the queue and the fields. -/
theorem commandFrames : Obligations.CommandFrames := by
  unfold Obligations.CommandFrames
  intro c s t e
  have h : s.follows (touched c) t := exec_follows e
  exact ⟨h.queue, h.frame⟩

end Sys2Proof.Machine

/-! The queue and the management port (O1, O56): a step runs the front command, and a capsule that fails the checks before
its tag is refused and leaves the module's work as it stands (R15, R16, R252). -/

namespace Sys2Proof.Machine

/-! ## A step -/

theorem step_of_front {c : Instr} {rest : List Instr} {s : State} (h : s.pending = c :: rest) :
    step s = exec c { s with pending := rest } := by
  unfold step
  rw [h]

theorem step_of_empty {s : State} (h : s.pending = []) : step s = .next (idleTick s) := by
  unfold step
  rw [h]

/-- Settles O1: the two cases of the queue. -/
theorem stepRunsFront : Obligations.StepRunsFront :=
  ⟨fun _ _ _ => step_of_front, fun _ => step_of_empty⟩

/-! ## Capsules refused before they hold a tag -/

theorem live_iff {s : State} {c : Nat} :
    s.live c ↔ ∃ k, getConn s c = some k ∧ k.failed = false ∧ k.closed = false := by
  simp [State.live]

/-- One more open command on a live connection leaves it live. -/
theorem live_setConn {s : State} {c : Nat} {k : Conn} (n : Nat) (hf : k.failed = false) (hc : k.closed = false) :
    (setConn s c { k with open_ := n }).live c :=
  live_iff.mpr ⟨_, (getConn_setConn ..).trans (if_pos rfl), hf, hc⟩

theorem live_bump {s : State} {a c : Nat} (h : s.live c) : (bump s a).live c :=
  (bumpN_conn s a 1 c).trans h

/-- What the refusal of a capsule without a tag does: it sends the status, and the commands, the collections and the
searches stand. -/
theorem refuseRaw_sends {s : State} {r : CmdRef} (st : BitVec 16) (h : s.live r.conn) :
    .reply r st 0 [] ∈ (refuseRaw s r st).out ∧ (refuseRaw s r st).queues = s.queues ∧
      (refuseRaw s r st).colls = s.colls ∧ (refuseRaw s r st).search = s.search := by
  refine ⟨?_, by simp [refuseRaw], by simp [refuseRaw], by simp [refuseRaw]⟩
  rw [refuseRaw, (closeOne_frame _ _).1]
  exact transmit_live _ _ _ _ _ (live_bump h)

/-- The checks before the tag read the queues alone. -/
theorem headCheck_setConn (s : State) (n : Nat) (k : Conn) (c : Capsule) : headCheck (setConn s n k) c = headCheck s c := rfl

/-- A capsule on a live connection that fails a check before its tag is answered with that status, and the commands, the
collections and the searches stand (R252). -/
theorem receive_refuses {op : BitVec 8} {c : Capsule} {s : State} {st : BitVec 16} (d : State → Cmd → State)
    (up : s.power.phase = .up) (live : s.live c.conn) (bad : headCheck s c = st) (hst : st ≠ 0) :
    .reply (refOf op c) st 0 [] ∈ (receive op c d s).out ∧ (receive op c d s).queues = s.queues ∧
      (receive op c d s).colls = s.colls ∧ (receive op c d s).search = s.search := by
  obtain ⟨k, hk, hf, hc⟩ := live_iff.mp live
  have e : receive op c d s = refuseRaw (setConn s c.conn { k with open_ := k.open_ + 1 }) (refOf op c) st := by
    unfold receive
    rw [hk]
    dsimp only
    rw [if_neg (by simp [isUp, up, hf, hc]), headCheck_setConn, bad, if_pos (by simpa using hst)]
  rw [e]
  exact refuseRaw_sends (r := refOf op c) st (live_setConn _ hf hc)

/-! ## The management port -/

/-- On port 2, beyond queue 15, the first check is WRONG_PORT (R16). -/
theorem headCheck_wrongPort {s : State} {c : Capsule} (hp : c.port = 2) (hq : 15 < c.queue.toNat) : headCheck s c = 0x0119 := by
  simp [headCheck, hp, hq]

/-- The commands of the data queues, with their opcodes. -/
def dataRows (c : Capsule) : List (Instr × BitVec 8) :=
  [(.search c, 0x01), (.searchRange c, 0x02), (.readItem c, 0x03), (.insert c, 0x10), (.delete c, 0x11), (.upsert c, 0x12),
    (.flush c, 0x13), (.filterPut c, 0x20), (.filterDrop c, 0x21), (.learnStart c, 0x30), (.learnStop c, 0x31),
    (.epochPromote c, 0x32), (.mergeHint c, 0x40)]

/-- The administrative commands, with their opcodes. -/
def adminRows (c : Capsule) : List (Instr × BitVec 8) :=
  [(.identify c, 0x80), (.collectionCreate c, 0x81), (.collectionDelete c, 0x82), (.collectionAttach c, 0x83),
    (.collectionDetach c, 0x84), (.queueCreate c, 0x85), (.queueDelete c, 0x86), (.settingLoad c, 0x88), (.firmwareLoad c, 0x89),
    (.attest c, 0x8A), (.powerState c, 0x8B), (.keyLoad c, 0x8C), (.mgmtRead c, 0x8D), (.mgmtWrite c, 0x8E), (.eventArm c, 0x8F)]

/-- Every capsule row is received under its opcode and decided by a rule of its own. -/
theorem exec_capsule {i : Instr} {op : BitVec 8} {c : Capsule} (h : (i, op) ∈ dataRows c ++ adminRows c) :
    ∃ d, ∀ s, exec i s = .next (receive op c d s) := by
  have rows : ∀ r ∈ dataRows c ++ adminRows c, ∃ d, ∀ s, exec r.1 s = .next (receive r.2 c d s) := by
    simp only [dataRows, adminRows, List.cons_append, List.nil_append, List.forall_mem_cons]
    repeat' apply And.intro
    case right => exact List.forall_mem_nil _
    all_goals exact ⟨_, fun _ => rfl⟩
  exact rows _ h

theorem dataRows_op {i : Instr} {op : BitVec 8} {c : Capsule} (h : (i, op) ∈ dataRows c) :
    opAssigned op = true ∧ isAdminOp op = false := by
  have all : ∀ o ∈ (dataRows c).map Prod.snd, opAssigned o = true ∧ isAdminOp o = false := by
    simp only [dataRows, List.map]
    decide
  exact all _ (List.mem_map_of_mem h)

/-- A command of the data queues that names an administrative one fails check 4 or check 5 of R252. -/
theorem bodyCheck_dataRow {i : Instr} {op : BitVec 8} {c : Capsule} (s : State) (h : (i, op) ∈ dataRows c)
    (hq : c.queue.toNat ≤ 15) : bodyCheck s op c ∈ [0x0102, 0x0105] := by
  obtain ⟨assigned, data⟩ := dataRows_op h
  have admin : c.queue.toNat < 16 := by omega
  cases reserved : reservedOk op c <;> simp [bodyCheck, assigned, data, reserved, admin]

/-- A capsule row on port 2 beyond queue 15 is answered WRONG_PORT, and the commands, the collections and the searches
stand. -/
theorem capsule_wrongPort {i : Instr} {op : BitVec 8} {c : Capsule} {s : State} (h : (i, op) ∈ dataRows c ++ adminRows c)
    (up : s.power.phase = .up) (live : s.live c.conn) (hp : c.port = 2) (hq : 15 < c.queue.toNat) :
    completes i s fun t => .reply (refOf op c) 0x0119 0 [] ∈ t.out ∧ t.queues = s.queues ∧ t.colls = s.colls ∧
      t.search = s.search := by
  obtain ⟨d, hd⟩ := exec_capsule h
  exact ⟨_, hd s, receive_refuses d up live (headCheck_wrongPort hp hq) (by decide)⟩

/-- Settles O56: `capsule_wrongPort` for every row, and `bodyCheck_dataRow` for the queues below 16. -/
theorem wrongPort : Obligations.WrongPort := by
  unfold Obligations.WrongPort
  refine ⟨fun s c hp hq => ⟨headCheck_wrongPort hp hq, by decide⟩, fun i op c s up live hp row => ⟨fun hq => ?_, fun hq _ =>
    bodyCheck_dataRow s row hq⟩, fun i op c s up live hp hq row => ?_⟩
  · obtain ⟨t, e, sent, queues, colls, search⟩ := capsule_wrongPort (List.mem_append_left _ row) up live hp hq
    exact ⟨t, e, sent, by rw [queues], by rw [queues], colls, search⟩
  · obtain ⟨t, e, sent, queues, -, -⟩ := capsule_wrongPort (List.mem_append_right _ row) up live hp hq
    exact ⟨t, e, sent, by rw [queues]⟩

end Sys2Proof.Machine

/-! Counters (O19): what counting, SNAP and CLEAR leave in the tables of the counters (R26, R350, R351). -/

namespace Sys2Proof.Machine

/-! ## Tables under a filter of their keys -/

/-- A filter that looks at the key alone keeps or drops an entry whole. -/
theorem Tab.getD_filter_key {α : Type} (p : Nat → Bool) (t : Tab α) (x : Nat) (d : α) :
    Tab.getD (t.filter fun y => p y.1) x d = if p x then Tab.getD t x d else d := by
  induction t with
  | nil => simp [Tab.getD, Tab.get]
  | cons y r ih =>
    obtain ⟨k, v⟩ := y
    unfold Tab.getD at *
    by_cases hx : x = k
    · subst hx
      cases hp : p x <;> simp_all [Tab.get]
    · cases hp : p k <;> simp_all [Tab.get]

/-- Below its first key a table holds nothing. -/
theorem Tab.get_below {α : Type} {t : Tab α} {lo x : Nat} (w : Tab.risingFrom lo t = true) (h : x < lo) : Tab.get t x = none := by
  induction t generalizing lo with
  | nil => rfl
  | cons y r ih =>
    obtain ⟨k, v⟩ := y
    simp only [Tab.risingFrom, Bool.and_eq_true, decide_eq_true_eq] at w
    obtain ⟨first, rest⟩ := w
    rw [Tab.get, if_neg (by omega)]
    exact ih rest (by omega)

/-- Putting every entry of a table with rising keys into another: the entries put stand, and the other keys read as they
did. -/
theorem Tab.getD_foldl_put {α : Type} {es : Tab α} {lo : Nat} (w : Tab.risingFrom lo es = true) (t : Tab α) (x : Nat) (d : α) :
    Tab.getD (es.foldl (fun u y => Tab.put u y.1 y.2) t) x d = (Tab.get es x).getD (Tab.getD t x d) := by
  induction es generalizing t lo with
  | nil => rfl
  | cons y r ih =>
    obtain ⟨k, v⟩ := y
    simp only [Tab.risingFrom, Bool.and_eq_true, decide_eq_true_eq] at w
    obtain ⟨-, rest⟩ := w
    rw [List.foldl_cons, ih rest, Tab.getD_put, Tab.get]
    split
    · next hx => rw [Tab.get_below rest (by omega)]; rfl
    · rfl

/-- A filter keeps the keys rising. -/
theorem Tab.risingFrom_filter {α : Type} (p : Nat × α → Bool) {t : Tab α} {lo : Nat} (w : Tab.risingFrom lo t = true) :
    Tab.risingFrom lo (t.filter p) = true := by
  have weaken : ∀ {r : Tab α} {a b : Nat}, a ≤ b → Tab.risingFrom b r = true → Tab.risingFrom a r = true := by
    intro r a b h w
    cases r with
    | nil => rfl
    | cons y r =>
      simp only [Tab.risingFrom, Bool.and_eq_true, decide_eq_true_eq] at *
      exact ⟨by omega, w.2⟩
  induction t generalizing lo with
  | nil => rfl
  | cons y r ih =>
    simp only [Tab.risingFrom, Bool.and_eq_true, decide_eq_true_eq] at w
    obtain ⟨first, rest⟩ := w
    rw [List.filter_cons]
    split
    · simp only [Tab.risingFrom, Bool.and_eq_true, decide_eq_true_eq]
      exact ⟨first, ih rest⟩
    · exact ih (weaken (by omega) rest)

/-! ## Counting, SNAP and CLEAR -/

/-- Counting adds up to 2^48 − 1, and SAT stands from there on (R350). -/
theorem countUp_spec (c : EvCounter) (n : Nat) : (countUp c n).2.val = min (c.val + n) (2 ^ 48 - 1) ∧
    ((countUp c n).2.sat = true ↔ c.sat = true ∨ 2 ^ 48 - 1 ≤ c.val + n) := by
  simp only [countUp, counterMax, Bool.or_eq_true, beq_iff_eq]
  exact ⟨by omega, or_congr_right (by omega)⟩

/-- SNAP copies the counters of its space and changes none (R26, R350). -/
theorem snapSpace_spec {s : State} {a lo hi base : Nat} (sp : spaceOf a = some (lo, hi, base))
    (w : Tab.wf s.counters.counts = true) : (snapSpace s a).counters.counts = s.counters.counts ∧
      ∀ x, lo ≤ x → x ≤ hi → (snapSpace s a).counters.snaps.getD x ⟨0, false⟩ = s.counters.counts.getD x ⟨0, false⟩ := by
  unfold snapSpace
  rw [sp]
  refine ⟨rfl, fun x hlo hhi => ?_⟩
  have within : (decide (lo ≤ x) && decide (x ≤ hi)) = true := by simp [hlo, hhi]
  have old : ∀ t : Tab EvCounter, Tab.getD (t.filter fun y => !inRange lo hi y) x ⟨0, false⟩ = ⟨0, false⟩ := fun t =>
    (Tab.getD_filter_key (fun k => !(lo ≤ k && k ≤ hi)) t x _).trans (if_neg (by simp [within]))
  have taken : ∀ t : Tab EvCounter, Tab.getD (t.filter (inRange lo hi)) x ⟨0, false⟩ = Tab.getD t x ⟨0, false⟩ := fun t =>
    (Tab.getD_filter_key (fun k => lo ≤ k && k ≤ hi) t x _).trans (if_pos within)
  refine (Tab.getD_foldl_put (Tab.risingFrom_filter _ w) _ x _).trans ?_
  rw [old]
  exact taken _

/-- CLEAR zeroes the counter at its offset, or every counter of its space, and no other (R351). -/
theorem counterAt_clearSpace {s : State} {a lo hi base : Nat} (sp : spaceOf a = some (lo, hi, base)) (off : Nat) (all : Bool)
    (x : Nat) : counterAt (clearSpace s a off all) x =
      if lo ≤ x ∧ x ≤ hi ∧ (all = true ∨ x = base + off) then ⟨0, false⟩ else counterAt s x := by
  unfold clearSpace
  rw [sp]
  refine (Tab.getD_filter_key (fun k => !((lo ≤ k && k ≤ hi) && (all || k == base + off))) s.counters.counts x _).trans ?_
  have hit : ((decide (lo ≤ x) && decide (x ≤ hi)) && (all || x == base + off)) = true ↔
      lo ≤ x ∧ x ≤ hi ∧ (all = true ∨ x = base + off) := by simp [and_assoc]
  by_cases h : lo ≤ x ∧ x ≤ hi ∧ (all = true ∨ x = base + off)
  · rw [if_pos h, hit.mpr h]
    rfl
  · rw [if_neg h, Bool.eq_false_iff.mpr (mt hit.mp h)]
    rfl

/-- Settles O19: `countUp_spec`, and SNAP and CLEAR of a module that runs. -/
theorem counterRegisters : Obligations.CounterRegisters := by
  unfold Obligations.CounterRegisters
  refine ⟨fun c n _ => countUp_spec c n, fun s a lo hi base up sp w => ⟨snapSpace s a, ?_, snapSpace_spec sp w⟩,
    fun s a off lo hi base all up sp => ⟨clearSpace s a off all, ?_, counterAt_clearSpace sp off all⟩⟩
  · simp [exec, execSnap, isUp, up]
  · simp [exec, execClear, isUp, up]

end Sys2Proof.Machine

/-! Facet service (O14): what a fence, a self-test, a release and a block reset leave in each facet (R22, R23, R346, R353). -/

namespace Sys2Proof.Machine

/-! ## Facets after a fence and a test -/

theorem getFacet_congr {s t : State} (h : t.facets = s.facets) (f : Nat) : getFacet t f = getFacet s f := by
  unfold getFacet
  rw [h]

/-- The reasons of a fence that is for a fault: the fault itself, the safe state and a failed test (R346). -/
def faultReason (reason : Nat) : Bool := reason == 1 || reason == 4 || reason == 6

/-- A facet as a fence leaves it: a fence for no fault keeps the reason of one that stands (R22, R346). -/
def Facet.fence (reason : Nat) (x : Facet) : Facet :=
  { x with fenced := true, release := false, reason := if x.fenced && !faultReason reason then x.reason else reason,
           bistPass := x.bistPass && !faultReason reason }

theorem updAt_congr {α : Type} {xs : List α} {k : Nat} {f g : α → α} (d : α) (h : f (xs.getD k d) = g (xs.getD k d)) :
    updAt xs k f = updAt xs k g := by
  induction xs generalizing k with
  | nil => rfl
  | cons x r ih =>
    cases k with
    | zero => simpa [updAt] using h
    | succ k => simpa [updAt] using ih (by simpa using h)

/-- A fence changes the facets as `Facet.fence` changes the one it names. -/
theorem fenceFacet_facets (s : State) (f reason : Nat) :
    (fenceFacet s f reason).facets = (updFacet s f (Facet.fence reason)).facets := by
  simp only [fenceFacet, apply_ite State.facets, modLoader_facets, updFacet, facetLost_frame, ite_self]
  exact updAt_congr Facet.reset rfl

theorem getFacet_fenceFacet {s : State} {f : Nat} (reason g : Nat) (h : f < s.facets.length) :
    getFacet (fenceFacet s f reason) g = if g = f then (getFacet s f).fence reason else getFacet s g :=
  (getFacet_congr (fenceFacet_facets s f reason) g).trans (getFacet_updFacet s f g _ h)

/-- A facet as a service BIST finds it: fenced, its test running, its release withdrawn (R353). -/
def Facet.underBist (x : Facet) : Facet := { if x.fenced then x else x.fence 3 with bistRun := true, release := false }

theorem getFacet_startFacetBist {s : State} {f : Nat} (g : Nat) (h : f < s.facets.length) :
    getFacet (startFacetBist s f) g = if g = f then (getFacet s f).underBist else getFacet s g := by
  unfold startFacetBist Facet.underBist
  cases was : (getFacet s f).fenced
  · have count : f < (fenceFacet s f 3).facets.length := by rw [fenceFacet_facets]; simpa [updFacet] using h
    simp only [Bool.false_eq_true, if_false]
    rw [getFacet_updFacet _ _ _ _ count, getFacet_fenceFacet 3 f h, getFacet_fenceFacet 3 g h]
    split <;> simp [*]
  · simp only [if_true]
    rw [getFacet_updFacet _ _ _ _ h]

/-- A facet as a test that it passed leaves it (R346, R349). -/
def Facet.tested (x : Facet) : Facet := { x with bistRun := false, blockRun := false, bistPass := true, safe := false }

theorem facetTested_facets (s : State) (f : Nat) : (facetTested s f true).facets = (updFacet s f Facet.tested).facets := by
  simp only [facetTested, if_true, dropPins_frame]
  rfl

theorem getFacet_facetTested {s : State} {f : Nat} (g : Nat) (h : f < s.facets.length) :
    getFacet (facetTested s f true) g = if g = f then (getFacet s f).tested else getFacet s g :=
  (getFacet_congr (facetTested_facets s f) g).trans (getFacet_updFacet s f g _ h)

/-- In P0 no unit is stopped by the power state. -/
theorem unitStops_awake {s : State} (h : s.power.pstate = 0) (kind : Nat) : unitStops s kind = false := by
  simp [unitStops, h]

/-! ## The commands of a module that runs -/

/-- A release without BIST_PASS, or of a facet that a shed step in force idles, is ignored (R353, R390). -/
theorem exec_facetRelease_ignored {s : State} {f : Nat} (h : (getFacet s f).bistPass = false ∨ shedIdles s f = true) :
    exec (.facetRelease f) s = .next s := by
  rcases h with h | h <;> simp [exec, execFacetRelease, h]

section
variable {s : State} {f : Nat} (up : s.power.phase = .up)
include up

theorem exec_facetFence (awake : s.power.pstate = 0) (unfenced : (getFacet s f).fenced = false) :
    exec (.facetFence f) s = .next (fenceFacet s f 3) := by
  simp [exec, execFacetFence, isUp, up, unitStops_awake awake, unfenced]

theorem exec_facetBist (awake : s.power.pstate = 0) (idle : (getFacet s f).bistRun = false) :
    exec (.facetBist f) s = .next (startFacetBist s f) := by
  simp [exec, execFacetBist, isUp, up, unitStops_awake awake, idle]

theorem exec_facetBistDone (pass : Bool) (runs : (getFacet s f).bistRun = true) (service : (getFacet s f).blockRun = false) :
    exec (.facetBistDone f pass) s = .next (facetTested s f pass) := by
  simp [exec, execFacetBistDone, isUp, up, runs, service]

theorem exec_facetRelease (awake : s.power.pstate = 0) (out : (getFacet s f).fenced = true)
    (passed : (getFacet s f).bistPass = true) (idle : (getFacet s f).bistRun = false) (used : shedIdles s f = false) :
    exec (.facetRelease f) s = .next (updFacet s f fun x => { x with release := true }) := by
  simp [exec, execFacetRelease, isUp, up, unitStops_awake awake, out, passed, idle, used]

theorem exec_blockReset_moduleClasp (out : s.search.claspOut = true) : exec (.blockResetComplete .moduleClasp true) s =
    .next (dropPins (s.modSearch fun r => { r with claspRet := true }) 72 (bit64 26)) := by
  simp [exec, execBlockResetComplete, isUp, up, out]

theorem exec_blockReset_facet (runs : (getFacet s f).blockRun = true) : exec (.blockResetComplete (.facet f) true) s =
    .next (updFacet (facetTested s f true) f fun x => { x with release := true }) := by
  simp [exec, execBlockResetComplete, isUp, up, runs]

theorem exec_settingSpareHold (h : BitVec 4) :
    exec (.settingSpareHold h) s = .next { s with loader := { s.loader with holdNext := some h } } := by
  simp [exec, execSettingSpareHold, isUp, up, State.modLoader]

end

/-- A facet whose block reset passes has BIST_PASS and is released at the next edge (R346). -/
theorem getFacet_blockReset {s : State} {f : Nat} (h : f < s.facets.length) :
    getFacet (updFacet (facetTested s f true) f fun x => { x with release := true }) f =
      { (getFacet s f).tested with release := true } := by
  have count : f < (facetTested s f true).facets.length := by rw [facetTested_facets]; simpa [updFacet] using h
  rw [getFacet_updFacet _ _ _ _ count, if_pos rfl, getFacet_facetTested f h, if_pos rfl]

/-- Settles O14: each clause is the command's own rule with what it leaves in the facet it names. -/
theorem facetService : Obligations.FacetService := by
  unfold Obligations.FacetService
  refine ⟨fun s f up awake hf unfenced => ⟨_, exec_facetFence up awake unfenced, ?_⟩,
    fun s f up awake hf idle => ⟨_, exec_facetBist up awake idle, ?_⟩,
    fun s f up hf runs service => ⟨_, exec_facetBistDone up true runs service, ?_⟩,
    fun s f up runs service => exec_facetBistDone up false runs service,
    fun s f up awake out passed idle used => exec_facetRelease up awake out passed idle used,
    fun s f _ h => exec_facetRelease_ignored h,
    fun s up out => ⟨_, exec_blockReset_moduleClasp up out, ?_⟩,
    fun s f up hf runs => ⟨_, exec_blockReset_facet up runs, ?_⟩,
    fun s h up => exec_settingSpareHold up h⟩
  · have other (g : Nat) (hg : g ≠ f) : getFacet (fenceFacet s f 3) g = getFacet s g :=
      (getFacet_fenceFacet 3 g hf).trans (if_neg hg)
    beta_reduce
    rw [getFacet_fenceFacet 3 f hf, if_pos rfl]
    exact ⟨rfl, by simp [Facet.fence, unfenced], rfl, other⟩
  · have other (g : Nat) (hg : g ≠ f) : getFacet (startFacetBist s f) g = getFacet s g :=
      (getFacet_startFacetBist g hf).trans (if_neg hg)
    beta_reduce
    rw [getFacet_startFacetBist f hf, if_pos rfl]
    refine ⟨?_, rfl, other⟩
    cases was : (getFacet s f).fenced <;> simp [Facet.underBist, Facet.fence, was]
  · beta_reduce
    rw [getFacet_facetTested f hf, if_pos rfl]
    exact ⟨rfl, rfl, rfl, rfl⟩
  · simp [out]
  · beta_reduce
    rw [getFacet_blockReset hf]
    exact ⟨rfl, rfl⟩

end Sys2Proof.Machine

/-! Partial settings (O50): while a partial setting is loaded its facets are only ever fenced and the map only loses spares
that fail their test, and the release at the edge ends the load (R23, R333, R334, R335). -/

namespace Sys2Proof.Machine

/-! ## Facets that are only fenced -/

/-- From `s` to `t` facets are only fenced, and of the setting in force the map alone changes, where it loses a spare. -/
structure State.fencesOn (s t : State) : Prop where
  part : t.loader.part = s.loader.part
  groups : t.loader.groups = s.loader.groups
  map : ∀ l, physOf t l = physOf s l ∨ physOf t l = 0xFF ∧ physOf s l % 17 = 16
  count : t.facets.length = s.facets.length
  fenced : ∀ f, (getFacet s f).fenced = true → (getFacet t f).fenced = true

section
variable {s t u : State}

theorem fencesOn_of_same (hl : t.loader = s.loader) (hf : t.facets = s.facets) : s.fencesOn t where
  part := by rw [hl]
  groups := by rw [hl]
  map l := .inl (by rw [physOf, hl]; rfl)
  count := by rw [hf]
  fenced f h := (getFacet_congr hf f).symm ▸ h

theorem fencesOn_refl (s : State) : s.fencesOn s := fencesOn_of_same rfl rfl

theorem State.fencesOn.trans (h : s.fencesOn t) (g : t.fencesOn u) : s.fencesOn u where
  part := g.part.trans h.part
  groups := g.groups.trans h.groups
  map l := by have := h.map l; have := g.map l; omega
  count := g.count.trans h.count
  fenced f x := g.fenced f (h.fenced f x)

theorem fencesOn_updFacet (f : Nat) {v : Facet → Facet} (hv : ∀ x, x.fenced = true → (v x).fenced = true) :
    s.fencesOn (updFacet s f v) where
  part := rfl
  groups := rfl
  map _ := .inl rfl
  count := updAt_length ..
  fenced g h := by
    by_cases count : f < s.facets.length
    · rw [getFacet_updFacet _ _ _ _ count]
      split
      · subst g; exact hv _ h
      · exact h
    · by_cases hg : g = f
      · subst g
        simp [getFacet, count, Facet.reset] at h
      · exact (congrArg Facet.fenced (updAt_getD_other _ _ _ _ _ hg)).trans h

/-- The logical facet of a physical one is mapped to it. -/
theorem physOf_logicalOf {f : Nat} (h : logicalOf s f ≠ 0xFF) : physOf s (logicalOf s f) = f := by
  unfold logicalOf at *
  split at h
  · next l hl => simpa [hl] using List.find?_some hl
  · exact absurd rfl h

theorem updAt_const_getD (xs : List Nat) (k : Nat) (v : Nat) (l : Nat) :
    (updAt xs k fun _ => v).getD l v = if l = k then v else xs.getD l v := by
  split
  · subst l
    by_cases h : k < xs.length
    · exact updAt_getD _ _ _ _ h
    · simp [h]
  · exact updAt_getD_other _ _ _ _ _ ‹_›

/-- What a fence does to the setting in force: a facet that newly fails is substituted at the next edge, and a spare that
fails leaves its logical facet unassigned (R335). -/
theorem fenceFacet_loader (s : State) (f reason : Nat) : (fenceFacet s f reason).loader =
    if !faultReason reason || ((getFacet s f).fenced && faultReason (getFacet s f).reason) || logicalOf s f = 0xFF then s.loader
    else if f % 17 = 16 then { s.loader with map := updAt s.loader.map (logicalOf s f) fun _ => 0xFF }
    else { s.loader with pending := s.loader.pending ++ [(logicalOf s f, f)] } := by
  simp only [fenceFacet, apply_ite State.loader, modLoader_loader, updFacet_frame, facetLost_frame, ite_self]
  rfl

/-- A fence for no fault leaves the setting as it is. -/
theorem fenceFacet_loader_of_order {reason : Nat} (h : faultReason reason = false) (s : State) (f : Nat) :
    (fenceFacet s f reason).loader = s.loader := by
  rw [fenceFacet_loader, h]
  rfl

theorem fencesOn_fenceFacet (s : State) (f reason : Nat) : s.fencesOn (fenceFacet s f reason) := by
  have facets : s.fencesOn (updFacet s f (Facet.fence reason)) := fencesOn_updFacet f fun _ _ => rfl
  have same {l : Loader} (e : (fenceFacet s f reason).loader = l) (part : l.part = s.loader.part) (groups : l.groups = s.loader.groups)
      (map : ∀ i, l.map.getD i 0xFF = physOf s i ∨ l.map.getD i 0xFF = 0xFF ∧ physOf s i % 17 = 16) :
      s.fencesOn (fenceFacet s f reason) := by
    subst e
    exact ⟨part, groups, map, (congrArg List.length (fenceFacet_facets s f reason)).trans facets.count,
      fun g h => (congrArg Facet.fenced (getFacet_congr (fenceFacet_facets s f reason) g)).trans (facets.fenced g h)⟩
  have e := fenceFacet_loader s f reason
  split at e
  · exact same e rfl rfl fun _ => .inl rfl
  · next failed =>
    have mapped : physOf s (logicalOf s f) = f := physOf_logicalOf fun h => failed (by simp [h])
    split at e
    · next spare =>
      refine same e rfl rfl fun i => ?_
      by_cases hi : i = logicalOf s f
      · exact .inr ⟨(updAt_const_getD ..).trans (if_pos hi), by rw [hi, mapped, spare]⟩
      · exact .inl ((updAt_const_getD ..).trans (if_neg hi))
    · exact same e rfl rfl fun _ => .inl rfl

theorem fencesOn_foldl {α : Type} {z : State} {f : State → α → State} {xs : List α}
    (hf : ∀ t, ∀ x ∈ xs, z.fencesOn t → z.fencesOn (f t x)) : ∀ s, z.fencesOn s → z.fencesOn (xs.foldl f s) := by
  induction xs with
  | nil => exact fun _ h => h
  | cons x xs ih =>
    exact fun s h => ih (fun t y hy => hf t y (List.mem_cons_of_mem _ hy)) _ (hf s x (List.mem_cons_self ..) h)

/-! ## Reactions to a facet's own source -/

/-- The unit is a facet or none. -/
def ofFacet : UnitName → Bool
  | .facet _ | .nothing => true
  | _ => false

theorem bit64_getLsbD {n i : Nat} (h : (bit64 n).getLsbD i = true) : i = n := by
  simp only [bit64, BitVec.getLsbD_ofNat, Nat.testBit_two_pow, Bool.and_eq_true, decide_eq_true_eq] at h
  exact h.2.symm

/-- A facet's first error is a summary source of its die (R339). -/
theorem isSummary_die {col : Nat} (facet : col < 68) : isSummary (68 + col / 17) (col % 17) = true := by
  have level : levelOf (68 + col / 17) = 1 := by rw [levelOf, if_neg (by omega), if_pos (by omega)]
  simp only [isSummary, level, decide_eq_true_eq]
  omega

/-- A die's first error is a summary source of the module (R339). -/
theorem isSummary_module {col : Nat} (die : col < 72) : isSummary 72 (col - 68) = true := by
  have level : levelOf 72 = 2 := rfl
  simp only [isSummary, level, decide_eq_true_eq]
  omega

/-- A summary source takes no unit out (R339). -/
theorem unitOf_summary {col src : Nat} (h : isSummary col src = true) : unitOf col src .nothing = .nothing := by
  unfold isSummary levelOf at h
  unfold unitOf
  by_cases facet : col < 68
  · simp [facet] at h
  · by_cases die : col < 72
    · simp only [facet, die, if_true, if_false, decide_eq_true_eq] at h ⊢
      split
      case h_3 => rfl
      all_goals omega
    · simp only [facet, die, if_false, decide_eq_true_eq] at h ⊢
      split
      case h_6 => rfl
      all_goals omega

theorem fencesOn_fenceUnit {z : State} {un : UnitName} (raise : State → Nat → Nat → State) (hu : ofFacet un = true) (h : z.fencesOn s) :
    z.fencesOn (fenceUnit raise s un) := by
  cases un with
  | facet f => exact h.trans (fencesOn_fenceFacet s f 1)
  | nothing => exact h
  | _ => cases hu

theorem fencesOn_startBlockReset {z : State} {un : UnitName} (hu : ofFacet un = true) (h : z.fencesOn s) :
    z.fencesOn (startBlockReset s un) := by
  cases un with
  | facet f => exact h.trans (fencesOn_updFacet f fun _ hx => hx)
  | nothing => exact h
  | _ => cases hu

/-- Raising sources whose units are facets only fences facets, whatever reactions the setting gives them (R343, R344). -/
theorem fencesOn_raiseN (n : Nat) : ∀ {z s : State} {col : Nat} {mask : BitVec 64} {acc : Access} {un : UnitName},
    (∀ i, mask.getLsbD i = true → ofFacet (unitOf col i un) = true) → z.fencesOn s → z.fencesOn (raiseN n s col mask acc un) := by
  induction n with
  | zero => exact fun _ h => h
  | succ n ih =>
    intro z s col mask acc un hu h
    have above {t : State} {k i : Nat} (hk : isSummary k i = true) (ht : z.fencesOn t) :
        z.fencesOn (raiseN n t k (bit64 i) (noAccess k i) .nothing) :=
      ih (fun j hj => by rw [bit64_getLsbD hj, unitOf_summary hk]; rfl) ht
    unfold raiseN
    extract_lets mask1 c srcs new s1 held s2 s3 acts reset
    have h2 : z.fencesOn s2 := h.trans (fencesOn_of_same (by simp [s2, s1, updCol]) (by simp [s2, s1, updCol]))
    have h3 : z.fencesOn s3 := by
      dsimp only [s3]
      split
      · exact h2
      · split
        · next facet => exact above (isSummary_die facet) h2
        · split
          · next die => exact above (isSummary_module die) h2
          · exact h2
    have unit (x : Nat × Nat × Bool) (hx : x ∈ acts) : ofFacet (unitOf col x.1 un) = true := by
      obtain ⟨i, hi, rfl⟩ := List.mem_map.mp hx
      have bit : mask1.getLsbD i = true := (List.mem_filter.mp (List.mem_filter.mp hi).1).2
      exact hu i (by simp only [mask1, BitVec.getLsbD_and, Bool.and_eq_true] at bit; exact bit.1)
    split
    · exact h3.trans (fencesOn_of_same rfl rfl)
    · next raise s4 _ =>
      have h4 : z.fencesOn s4 := by
        refine fencesOn_foldl (fun t x hx ht => ?_) _ h3
        have ht1 := fencesOn_fenceUnit raise (unit x hx) ht
        dsimp only
        split <;> split
        · exact fencesOn_startBlockReset (unit x hx) ht1
        · exact fencesOn_startBlockReset (unit x hx) ht
        · exact ht1
        · exact ht
      refine fencesOn_foldl (fun t x hx ht => ?_) _ h4
      dsimp only
      split <;> split <;> exact ht.trans (fencesOn_of_same rfl rfl)

theorem fencesOn_raiseSrc_facet (s : State) (f : Nat) : s.fencesOn (raiseSrc s f 9 (.facet f)) := by
  refine fencesOn_raiseN 6 (fun i hi => ?_) (fencesOn_refl s)
  rw [bit64_getLsbD hi]
  unfold unitOf
  split
  · rfl
  · split <;> rfl

end

/-! ## The load -/

theorem fencesOn_loadBist (s : State) (f : Nat) : s.fencesOn (loadBist s f) := by
  have drawn : s.fencesOn { s with free := s.free + 1 } := fencesOn_of_same rfl rfl
  unfold loadBist drawBool
  dsimp only
  split
  · exact drawn.trans ((fencesOn_fenceFacet _ f 6).trans (fencesOn_raiseSrc_facet _ f))
  · exact drawn.trans (fencesOn_updFacet f fun _ hx => hx)

/-- A fold of steps that only fence, each of which fences its own facet, leaves every facet of its list fenced. -/
theorem foldl_fences {f : State → Nat → State} (keeps : ∀ (t : State) x, t.fencesOn (f t x))
    (sets : ∀ (t : State) x, x < t.facets.length → (getFacet (f t x) x).fenced = true) (xs : List Nat) (s : State) :
    s.fencesOn (xs.foldl f s) ∧ ∀ x ∈ xs, x < s.facets.length → (getFacet (xs.foldl f s) x).fenced = true := by
  induction xs generalizing s with
  | nil => exact ⟨fencesOn_refl s, fun x hx => nomatch hx⟩
  | cons y ys ih =>
    obtain ⟨rest, all⟩ := ih (f s y)
    refine ⟨(keeps s y).trans rest, fun x hx count => ?_⟩
    rcases List.mem_cons.mp hx with rfl | hx
    · exact rest.fenced _ (sets s x count)
    · exact all x hx (by rw [(keeps s y).count]; exact count)

/-- A facet fenced for a partial setting is fenced (R334 step 2). -/
theorem fenceGroup_spec (fs : List Nat) (s : State) :
    let u := fs.foldl (fun t f => fenceFacet t f 5) s
    u.loader = s.loader ∧ s.fencesOn u ∧ ∀ f ∈ fs, f < s.facets.length → (getFacet u f).fenced = true := by
  have loader : ∀ t : State, (fs.foldl (fun t f => fenceFacet t f 5) t).loader = t.loader := by
    induction fs with
    | nil => exact fun _ => rfl
    | cons f fs ih => exact fun t => (ih _).trans (fenceFacet_loader_of_order rfl t f)
  refine ⟨loader s, foldl_fences (fun t f => fencesOn_fenceFacet t f 5) (fun t f count => ?_) fs s⟩
  rw [getFacet_fenceFacet 5 f count, if_pos rfl]
  rfl

/-- A newly mapped facet stands fenced behind its test, whatever the test gives (R334 step 3). -/
def mapFacet (t : State) (f : Nat) : State := loadBist (updFacet t f fun x => { x with fenced := true, reason := 5 }) f

theorem mapFacets_spec (fs : List Nat) (s : State) :
    s.fencesOn (fs.foldl mapFacet s) ∧ ∀ f ∈ fs, f < s.facets.length → (getFacet (fs.foldl mapFacet s) f).fenced = true := by
  refine foldl_fences (fun t f => (fencesOn_updFacet f fun _ _ => rfl).trans (fencesOn_loadBist _ f)) (fun t f count => ?_) fs s
  refine (fencesOn_loadBist _ f).fenced f ?_
  rw [getFacet_updFacet _ _ _ _ count, if_pos rfl]

/-- The setting in force with the record and the map of a partial setting in it. -/
def loadedGroups (s : State) (p : PartialRun) : State :=
  s.modLoader fun l => { l with
    map := p.map, groups := s.loader.groups.map fun g => if g.id = p.group.id then p.group else g
    part := some { p with step := .fenced } }

/-- The physical facets of a pipeline. -/
def groupPhys (s : State) (g : Nat) : List Nat := (facetsOf s g).map (physOf s)

theorem partialLoad_eq (s : State) (p : PartialRun) : partialLoad s p = freshReactions
    (((groupPhys (loadedGroups s p) p.group.id).filter fun f => f != 0xFF && !(groupPhys s p.group.id).contains f).foldl mapFacet
      (loadedGroups s p)) := rfl

/-- The loaded record is that of its pipeline, where the setting in force has the pipeline. -/
theorem groupOf_loadedGroups {s : State} {p : PartialRun} (h : groupOf s p.group.id ≠ none) :
    groupOf (loadedGroups s p) p.group.id = some p.group := by
  have id_kept (g : GroupRec) : ((if g.id = p.group.id then p.group else g).id == p.group.id) = (g.id == p.group.id) := by
    split <;> simp [*]
  obtain ⟨g, hg⟩ := Option.ne_none_iff_exists'.mp h
  have same : g.id = p.group.id := by simpa [groupOf] using List.find?_some hg
  unfold groupOf at *
  show List.find? _ (s.loader.groups.map fun g => if g.id = p.group.id then p.group else g) = _
  rw [List.find?_map, show ((fun r : GroupRec => r.id == p.group.id) ∘ fun g => if g.id = p.group.id then p.group else g) =
    fun r => r.id == p.group.id from funext id_kept, hg]
  simp [same]

theorem mem_groupPhys {s : State} {g l : Nat} (r : GroupRec) (hr : groupOf s g = some r) (hl : l < 64)
    (quad : hasQuad r (quadOf l) = true) : physOf s l ∈ groupPhys s g := by
  refine List.mem_map_of_mem ?_
  rw [facetsOf, hr]
  exact List.mem_filter.mpr ⟨List.mem_range.mpr hl, quad⟩

/-- A partial setting loaded: its record and map are in force but for spares that fail, and both the facets that were fenced
and those it newly maps are fenced (R334 step 3). -/
theorem partialLoad_spec (s : State) (p : PartialRun) :
    (loadedGroups s p).fencesOn (partialLoad s p) ∧
      ∀ l, l < 64 → groupOf s p.group.id ≠ none → hasQuad p.group (quadOf l) = true → p.map.getD l 0xFF ≠ 0xFF →
        p.map.getD l 0xFF < s.facets.length → p.map.getD l 0xFF ∉ groupPhys s p.group.id →
        (getFacet (partialLoad s p) (p.map.getD l 0xFF)).fenced = true := by
  rw [partialLoad_eq]
  obtain ⟨fences, all⟩ := mapFacets_spec ((groupPhys (loadedGroups s p) p.group.id).filter fun f =>
    f != 0xFF && !(groupPhys s p.group.id).contains f) (loadedGroups s p)
  refine ⟨fences.trans (fencesOn_of_same rfl rfl), fun l hl group quad assigned count new => ?_⟩
  refine all _ (List.mem_filter.mpr ⟨mem_groupPhys p.group (groupOf_loadedGroups group) hl quad, ?_⟩) count
  rw [bne_iff_ne.mpr assigned, Bool.true_and, Bool.not_eq_true', ← Bool.not_eq_true, List.contains_iff_mem]
  exact new

/-! ## The steps of a partial setting -/

/-- The state in which the fence of a partial setting ends: its group is fenced, then it is loaded. -/
def partialFenced (s : State) (p : PartialRun) : State :=
  partialLoad (((groupPhys s p.group.id).filter (· != 0xFF)).foldl (fun t f => fenceFacet t f 5) s) p

theorem exec_partialFence {s : State} {p : PartialRun} (up : s.power.phase = .up) (hp : s.loader.part = some p)
    (drain : p.step = .drain) (idle : pipelineBusy s p.group.id = false) :
    exec .partialSettingFence s = .next (partialFenced s p) := by
  simp only [exec, execPartialSettingFence, hp]
  rw [if_pos (by simp [isUp, up, drain, idle])]
  rfl

theorem exec_partialFence_waits {s : State} (h : ∀ p, s.loader.part = some p → p.step ≠ .drain ∨ pipelineBusy s p.group.id = true) :
    exec .partialSettingFence s = .next s := by
  simp only [exec, execPartialSettingFence]
  split
  · next p hp => rcases h p hp with g | g <;> simp [g]
  · rfl

theorem exec_partialRelease_waits {s : State} (h : ∀ p, s.loader.part = some p → p.step ≠ .fenced) :
    exec .partialSettingRelease s = .next s := by
  simp only [exec, execPartialSettingRelease]
  split
  · next p hp => simp [h p hp]
  · rfl

theorem exec_partialRelease {s : State} {p : PartialRun} (up : s.power.phase = .up) (hp : s.loader.part = some p)
    (fenced : p.step = .fenced) : exec .partialSettingRelease s =
      .next { s with loader := { s.loader with part := some { p with step := .loaded } } } := by
  simp only [exec, execPartialSettingRelease, hp]
  rw [if_pos (by simp [isUp, up, fenced])]
  rfl

/-- What the fence of a partial setting leaves (R334 steps 2 and 3). -/
theorem partialFenced_spec {s : State} (p : PartialRun) (count : s.facets.length = 68) :
    (partialFenced s p).loader.part = some { p with step := .fenced } ∧
    (∀ l, (partialFenced s p).loader.map.getD l 0xFF = p.map.getD l 0xFF ∨
      (partialFenced s p).loader.map.getD l 0xFF = 0xFF ∧ p.map.getD l 0xFF % 17 = 16) ∧
    (partialFenced s p).loader.groups = s.loader.groups.map (fun g => if g.id = p.group.id then p.group else g) ∧
    (∀ l ∈ facetsOf s p.group.id, physOf s l < 68 → (getFacet (partialFenced s p) (physOf s l)).fenced = true) ∧
    (groupOf s p.group.id ≠ none → ∀ l, l < 64 → hasQuad p.group (quadOf l) = true → p.map.getD l 0xFF < 68 →
      (getFacet (partialFenced s p) (p.map.getD l 0xFF)).fenced = true) := by
  unfold partialFenced
  obtain ⟨loader, fences, all⟩ := fenceGroup_spec ((groupPhys s p.group.id).filter (· != 0xFF)) s
  generalize hu : ((groupPhys s p.group.id).filter (· != 0xFF)).foldl (fun t f => fenceFacet t f 5) s = u at loader fences all ⊢
  obtain ⟨loads, maps⟩ := partialLoad_spec u p
  have phys : groupPhys u p.group.id = groupPhys s p.group.id := by
    unfold groupPhys facetsOf groupOf physOf
    rw [loader]
  have old (f : Nat) (hf : f ∈ groupPhys s p.group.id) (lt : f < 68) : (getFacet (partialLoad u p) f).fenced = true :=
    loads.fenced f (all f (List.mem_filter.mpr ⟨hf, by simp; omega⟩) (by omega))
  refine ⟨loads.part, loads.map, loads.groups.trans ?_, fun l hl lt => old _ (List.mem_map_of_mem hl) lt,
    fun group l hl quad lt => ?_⟩
  · show u.loader.groups.map _ = _
    rw [loader]
  · by_cases known : p.map.getD l 0xFF ∈ groupPhys s p.group.id
    · exact old _ known lt
    · exact maps l hl (by rw [groupOf, loader]; exact group) quad (by omega) (by rw [fences.count]; omega) (phys ▸ known)

/-! ## The edge of the release -/

/-- The state in which a partial setting is released, before its command is answered. -/
def partialReleased (s : State) (p : PartialRun) : State :=
  extendMeas ((releasePartial s).modLoader fun l => { l with part := none, partialCnt := l.partialCnt + 1 }) 3 p.digest

theorem partialRelease_eq {s : State} {p : PartialRun} (hp : s.loader.part = some p) (loaded : p.step = .loaded) :
    partialRelease s = answer (partialReleased s p) p.ref.queue p.ref.tag 0 (loadArea 3 p.digest) [] := by
  unfold partialRelease
  rw [hp]
  exact if_pos (by simp [loaded])

/-- An answered command is in its queue no more. -/
theorem findCmd_answer (s : State) (q t : Nat) (st : BitVec 16) (area : BitVec 320) (body : List Byte) :
    findCmd (answer s q t st area body) q t = none := by
  rw [findCmd, answer_cmds, List.find?_eq_none]
  intro x hx
  simpa using (List.mem_filter.mp hx).2

/-- Settles O50: the steps wait for their moment; the fence is `partialFenced_spec`, and the release answers the command on
`partialReleased`. -/
theorem partialSteps : Obligations.PartialSteps := by
  unfold Obligations.PartialSteps
  refine ⟨fun s h => exec_partialFence_waits fun p hp => .inl (h p hp), fun s h => exec_partialRelease_waits h,
    fun s p up hp => ⟨fun drain => ⟨fun busy => ?_, fun idle count => ?_⟩, exec_partialRelease up hp, fun loaded => ?_⟩⟩
  · refine exec_partialFence_waits fun p' hp' => .inr ?_
    obtain rfl : p = p' := Option.some.inj (hp.symm.trans hp')
    exact busy
  · exact ⟨_, exec_partialFence up hp drain idle, partialFenced_spec p count⟩
  · rw [partialRelease_eq hp loaded]
    simp only [answer_frame]
    refine ⟨rfl, rfl, rfl, rfl, rfl, ?_, rfl, findCmd_answer .., fun m hm ref live => ?_⟩
    · simp [partialReleased, releasePartial]
    · rw [← ref] at live
      have := answer_answered (s := partialReleased s p) (c := m) 0 (loadArea 3 p.digest) [] hm live
      rwa [ref] at this

end Sys2Proof.Machine

/-! The rules that the collection commands share: what a command reads of the state it is decided on, what stands after an
answer, and which operations send no reply. -/

namespace Sys2Proof.Machine

/-! ## Tables with a key removed -/

theorem Tab.get_del_other {α : Type} {x y : Nat} (t : Tab α) (h : x ≠ y) : Tab.get (Tab.del t y) x = Tab.get t x := by
  induction t with
  | nil => rfl
  | cons e r ih =>
    obtain ⟨k, v⟩ := e
    unfold Tab.del
    split
    · next hy => rw [Tab.get, if_neg (by omega)]
    · rw [Tab.get, Tab.get, ih]

theorem Tab.get_del_of_rising {α : Type} {t : Tab α} {lo : Nat} (w : Tab.risingFrom lo t = true) (y : Nat) :
    Tab.get (Tab.del t y) y = none := by
  induction t generalizing lo with
  | nil => rfl
  | cons e r ih =>
    obtain ⟨k, v⟩ := e
    simp only [Tab.risingFrom, Bool.and_eq_true, decide_eq_true_eq] at w
    obtain ⟨-, rest⟩ := w
    unfold Tab.del
    split
    · next hy => exact Tab.get_below rest (by omega)
    · next hy => rw [Tab.get, if_neg hy, ih rest]

theorem Tab.get_del_same {α : Type} {t : Tab α} (w : Tab.wf t = true) (y : Nat) : Tab.get (Tab.del t y) y = none :=
  Tab.get_del_of_rising w y

theorem Tab.risingFrom_put {α : Type} {t : Tab α} {lo k : Nat} (v : α) (w : Tab.risingFrom lo t = true) (h : lo ≤ k) :
    Tab.risingFrom lo (Tab.put t k v) = true := by
  induction t generalizing lo with
  | nil => simp [Tab.put, Tab.risingFrom, h]
  | cons e r ih =>
    obtain ⟨a, u⟩ := e
    simp only [Tab.risingFrom, Bool.and_eq_true, decide_eq_true_eq] at w
    obtain ⟨first, rest⟩ := w
    unfold Tab.put
    split
    · next lt => simp [Tab.risingFrom, h, rest]; omega
    · split
      · next eq => subst eq; simp [Tab.risingFrom, h, rest]
      · next lt ne => simp [Tab.risingFrom, first, ih rest (by omega)]

theorem Tab.wf_upd {α : Type} {t : Tab α} (w : Tab.wf t = true) (k : Nat) (f : α → α) : Tab.wf (Tab.upd t k f) = true := by
  unfold Tab.upd
  split
  · exact Tab.risingFrom_put _ w (Nat.zero_le k)
  · exact w

/-! ## Commands and collections after a change -/

@[simp] theorem getColl_setColl_same (s : State) (a : Nat) (v : Coll) : getColl (setColl s a v) a = some v :=
  Tab.get_put_same ..

theorem getColl_updColl (s : State) (a b : Nat) (f : Coll → Coll) :
    getColl (updColl s a f) b = if b = a then (getColl s a).map f else getColl s b := by
  have := Tab.get_upd s.colls a b f
  unfold getColl
  exact this

theorem getColl_congr {s t : State} (h : t.colls = s.colls) (id : Nat) : getColl t id = getColl s id := by
  unfold getColl
  rw [h]

theorem findCmd_congr {s t : State} (h : t.queues.cmds = s.queues.cmds) (q g : Nat) : findCmd t q g = findCmd s q g := by
  unfold findCmd
  rw [h]

theorem live_congr {s t : State} {c : Nat} (h : t.host = s.host) : t.live c ↔ s.live c := by
  unfold State.live getConn
  rw [h]

theorem beadNow_of_follows {s t : State} {T : List Field} (f : s.follows T t) (time : Field.time ∉ T) : beadNow t = beadNow s := by
  have same : t.time = s.time := f.frame .time time
  unfold beadNow periodNs
  rw [same]

theorem getColl_of_follows {s t : State} {T : List Field} (f : s.follows T t) (colls : Field.colls ∉ T) (id : Nat) :
    getColl t id = getColl s id :=
  getColl_congr (f.frame .colls colls) id

theorem findCmd_ref {s : State} {q g : Nat} {c : Cmd} (h : findCmd s q g = some c) : c.ref.queue = q ∧ c.ref.tag = g := by
  simpa [sameCmd] using List.find?_some h

/-- A change of a command that keeps its reference reads back under its tag. -/
theorem findCmd_updCmd {f : Cmd → Cmd} (keep : ∀ x, (f x).ref = x.ref) (s : State) (q g : Nat) :
    findCmd (updCmd s q g f) q g = (findCmd s q g).map f := by
  have same : (sameCmd q g ∘ fun x => if sameCmd q g x then f x else x) = sameCmd q g := by
    funext x
    dsimp only [Function.comp]
    split
    · simp only [sameCmd, keep]
    · rfl
  show (s.queues.cmds.map _).find? _ = _
  rw [List.find?_map, same]
  unfold findCmd
  cases h : s.queues.cmds.find? (sameCmd q g) with
  | none => rfl
  | some x => simp [List.find?_some h]

theorem countAdmit_cmds (s : State) (q : Nat) : (countAdmit s q).queues.cmds = s.queues.cmds := by
  unfold countAdmit
  simp

theorem countAdmit_objects (s : State) (q : Nat) : (countAdmit s q).queues.objects = s.queues.objects := by
  unfold countAdmit
  simp

/-- A command that runs on stands in its queue, running. -/
theorem findCmd_running {s : State} {c : Cmd} (found : findCmd s c.ref.queue c.ref.tag = some c) :
    findCmd (running s c) c.ref.queue c.ref.tag = some { c with stage := .running } := by
  unfold running
  rw [findCmd_updCmd (f := fun x => { x with stage := .running }) fun _ => rfl, findCmd_congr (countAdmit_cmds s _), found]
  rfl

/-! ## What an answer leaves -/

/-- An answer gives back the command's reservation and leaves everything else that flash and the pools hold. -/
theorem answer_stores (s : State) (q g : Nat) (st : BitVec 16) (area : BitVec 320) (body : List Byte) :
    ∃ n, (answer s q g st area body).flash = { s.flash with reserved := s.flash.reserved - n } ∧
      (answer s q g st area body).pools = { s.pools with relBuf := s.pools.relBuf + n } := by
  unfold answer
  split
  · exact ⟨0, rfl, rfl⟩
  · next c _ =>
    have frame : s.follows [.out, .host, .queues, .events, .counters]
        (freeTag (closeOne (transmit (countReply s c st) c.ref st area body) c.ref.conn) q g) :=
      freeTag_follows (by decide) (closeOne_follows (by decide) (transmit_follows (by decide)
        (countReply_follows (by decide) (State.follows_refl _ s))))
    have flash : (freeTag (closeOne (transmit (countReply s c st) c.ref st area body) c.ref.conn) q g).flash = s.flash :=
      frame.frame .flash (by decide)
    have pools : (freeTag (closeOne (transmit (countReply s c st) c.ref st area body) c.ref.conn) q g).pools = s.pools :=
      frame.frame .pools (by decide)
    exact ⟨c.resv, by dsimp only; rw [flash], by dsimp only; rw [pools]⟩

theorem countReply_objects (s : State) (c : Cmd) (st : BitVec 16) : (countReply s c st).queues.objects = s.queues.objects := by
  unfold countReply
  split
  · simp
  · split
    · exact countAdmit_objects ..
    · rfl

theorem answer_objects (s : State) (q g : Nat) (st : BitVec 16) (area : BitVec 320) (body : List Byte) :
    (answer s q g st area body).queues.objects = s.queues.objects := by
  unfold answer
  split
  · rfl
  · next c _ =>
    show (closeOne (transmit (countReply s c st) c.ref st area body) c.ref.conn).queues.objects = _
    simp [countReply_objects]

/-- A command stands in its queue and its connection is live, so that it can be answered. -/
def State.answerable (s : State) (c : Cmd) : Prop := findCmd s c.ref.queue c.ref.tag = some c ∧ s.live c.ref.conn

theorem State.answerable.of_follows {s t : State} {c : Cmd} {T : List Field} (h : s.answerable c) (f : s.follows T t)
    (queues : Field.queues ∉ T) (host : Field.host ∉ T) : t.answerable c := by
  have sameQueues : t.queues = s.queues := f.frame .queues queues
  obtain ⟨found, live⟩ := h
  exact ⟨(findCmd_congr (congrArg _ sameQueues) ..).trans found, (live_congr (f.frame .host host)).mpr live⟩

theorem State.answerable.ok {s : State} {c : Cmd} (h : s.answerable c) (area : BitVec 320) (body : List Byte) :
    answered c.ref 0 area body (replyOk s c area body) :=
  answer_answered 0 area body h.1 h.2

theorem getColl_replyOk (s : State) (c : Cmd) (area : BitVec 320) (body : List Byte) (id : Nat) :
    getColl (replyOk s c area body) id = getColl s id :=
  getColl_congr (by simp) id

theorem State.answerable.refused {s : State} {c : Cmd} (h : s.answerable c) (st : BitVec 16) :
    answered c.ref st 0 [] (replyRefuse s c st) :=
  answer_answered st 0 [] h.1 h.2

/-! ## Operations that send no reply -/

theorem noReply_refl (s : State) : noReply s s := fun _ _ _ _ h => h

theorem noReply.trans {s t u : State} (h : noReply s t) (g : noReply t u) : noReply s u :=
  fun r st a b m => h r st a b (g r st a b m)

theorem noReply_of_out {s t : State} (h : t.out = s.out) : noReply s t := by
  intro r st a b m
  rwa [h] at m

/-- What leaves is no reply. -/
theorem noReply_emit {s : State} {o : Out} (h : ∀ r st a b, o ≠ .reply r st a b) : noReply s (emit s o) := by
  intro r st a b m
  rcases List.mem_cons.mp m with e | m
  · exact absurd e.symm (h r st a b)
  · exact m

theorem noReply_foldl {α : Type} {f : State → α → State} (step : ∀ t x, noReply t (f t x)) (xs : List α) (s : State) :
    noReply s (xs.foldl f s) := by
  induction xs generalizing s with
  | nil => exact noReply_refl s
  | cons x xs ih => exact (step s x).trans (ih _)

theorem noReply_raiseEvent (s : State) (code : BitVec 16) (args : List Byte) : noReply s (raiseEvent s code args) := by
  have deliver (bs : List Byte) (q : BitVec 32) (t : State) (id : Nat) : noReply t (deliverTo bs q t id) := by
    unfold deliverTo
    split
    · exact noReply_refl t
    · exact (noReply_of_out (keepSent_out ..)).trans (noReply_emit nofun)
  have log : noReply s (logEvent s code args).2 := by
    unfold logEvent
    split
    · exact (noReply_of_out (by rfl)).trans (noReply_foldl (deliver _ _) _ _)
    · exact noReply_of_out rfl
  unfold raiseEvent
  dsimp only
  split
  · exact log
  · exact log.trans (noReply_of_out (by simp))

theorem noReply_bump (s : State) (a : Nat) : noReply s (bump s a) := by
  have quiet : noReply s (bumpQuiet s a 1).2 := noReply_of_out (by simp)
  unfold bump bumpN
  split
  · exact noReply_refl s
  · dsimp only
    split
    · exact quiet.trans (noReply_raiseEvent _ _ _)
    · exact quiet

theorem noReply_countAdmit (s : State) (q : Nat) : noReply s (countAdmit s q) :=
  (noReply_bump s queueAdmitCnt).trans (noReply_of_out rfl)

theorem noReply_running (s : State) (c : Cmd) : noReply s (running s c) :=
  (noReply_countAdmit s c.ref.queue).trans (noReply_of_out rfl)

/-! ## Connections stay as live -/

theorem live_raiseEvent (s : State) (code : BitVec 16) (args : List Byte) (c : Nat) :
    (raiseEvent s code args).live c ↔ s.live c := by
  unfold State.live
  rw [raiseEvent_conn]

theorem live_countAdmit (s : State) (q c : Nat) : (countAdmit s q).live c ↔ s.live c := by
  unfold State.live
  rw [← bumpN_conn s queueAdmitCnt 1 c]
  rfl

theorem live_foldl {α : Type} {f : State → α → State} {c : Nat} (step : ∀ t x, (f t x).live c ↔ t.live c) (xs : List α) (s : State) :
    (xs.foldl f s).live c ↔ s.live c := by
  induction xs generalizing s with
  | nil => exact Iff.rfl
  | cons x xs ih => exact (ih _).trans (step s x)

/-- Counting an encode may raise events; every connection stays as live as it was. -/
theorem live_countEpoch (s : State) (coll : Nat) (ep : Epoch) (ord : List Nat) (xs : List Num) (c : Nat) :
    (countEpoch s coll ep ord xs).live c ↔ s.live c := by
  refine live_foldl (fun t x => ?_) _ s
  unfold countAt addSat
  split
  · exact Iff.rfl
  · dsimp only
    split
    · exact live_raiseEvent ..
    · exact Iff.rfl

/-! ## The state a submitted command is decided on -/

/-- A submitted command is decided on a state that differs from the one it arrived in by its connections, its queue and its
tag, and by the exit from a low power state. -/
theorem queued_eq (op : BitVec 8) (c : Capsule) (s : State) : ∃ h q l n e, queued op c s =
    { s with host := h, queues := { s.queues with queues := q, cmds := l, arrivals := n }, power := { s.power with exiting := e } } := by
  unfold queued
  split
  · exact ⟨s.host, _, _, _, s.power.exiting, rfl⟩
  · unfold wakeUp
    split
    · exact ⟨_, _, _, _, s.power.exiting, rfl⟩
    · dsimp only [State.modPower]
      split
      · exact ⟨_, _, _, _, true, rfl⟩
      · exact ⟨_, _, _, _, s.power.exiting, rfl⟩

section
variable {op : BitVec 8} {c : Capsule} {s : State}

theorem queued_colls : (queued op c s).colls = s.colls := by
  obtain ⟨h, q, l, n, e, eq⟩ := queued_eq op c s
  rw [eq]

theorem queued_getColl (id : Nat) : getColl (queued op c s) id = getColl s id := getColl_congr queued_colls id

theorem queued_out : (queued op c s).out = s.out := (queued_frame op c s).1

theorem queued_beadNow : beadNow (queued op c s) = beadNow s := by
  obtain ⟨h, q, l, n, e, eq⟩ := queued_eq op c s
  rw [eq]
  rfl

theorem submits_found (h : submits op c s) : findCmd (queued op c s) c.queue.toNat c.tag.toNat = some (arrival op c s) := by
  obtain ⟨-, live, -, fresh, -⟩ := h
  exact queued_find live fresh

theorem submits_answerable (h : submits op c s) : (queued op c s).answerable (arrival op c s) := by
  refine ⟨submits_found h, ?_⟩
  obtain ⟨-, live, -⟩ := h
  exact queued_live live

/-- A submitted command completes as its decision leaves the module. -/
theorem completes_submits {i : Instr} {d : State → Cmd → State} {P : State → Prop} (row : exec i s = .next (receive op c d s))
    (h : submits op c s) (post : P (d (queued op c s) (arrival op c s))) : completes i s P :=
  ⟨_, row, by rw [receive_submits d h]; exact post⟩

end

end Sys2Proof.Machine

/-! Admission of writes (O27): what a write that nothing refuses reserves, and the parts of a FILTER_PUT before its last
(R48, R209, R278, R279, R410). -/

namespace Sys2Proof.Machine

/-- A command stands admitted in state `t`: it waits for its commit with `n` bytes of the buffer, and neither the collections
nor the buffer's records have changed. -/
def State.admits (s : State) (c : Cmd) (n : Nat) (t : State) : Prop :=
  findCmd t c.ref.queue c.ref.tag = some { c with stage := .admitted (beadNow s), resv := n } ∧
    t.flash.reserved = s.flash.reserved + n ∧ t.colls = s.colls ∧ t.flash.wbuf = s.flash.wbuf

/-- A write whose records fit is admitted with them (R209, R410). -/
theorem admitWrite_admits {s : State} {c : Cmd} {n : Nat} (found : findCmd s c.ref.queue c.ref.tag = some c)
    (fits : fitsBuffer s n = true) : s.admits c n (admitWrite s c n) := by
  unfold admitWrite
  rw [if_pos fits]
  have counted : findCmd (countAdmit s c.ref.queue) c.ref.queue c.ref.tag = some c :=
    (findCmd_congr (countAdmit_cmds ..) ..).trans found
  have reserved : findCmd (reserveFor (countAdmit s c.ref.queue) c n) c.ref.queue c.ref.tag = some { c with resv := n } := by
    show findCmd (updCmd _ _ _ _) _ _ = _
    rw [findCmd_updCmd (f := fun x => { x with resv := n }) fun _ => rfl, counted]
    rfl
  refine ⟨?_, ?_, ?_, ?_⟩
  · rw [findCmd_updCmd (f := fun x => { x with stage := .admitted (beadNow s) }) fun _ => rfl, reserved]
    rfl
  all_goals simp [reserveFor, countAdmit]

/-- What a write's launch of its encode leaves: everything but the streams. -/
theorem State.admits.launchTensor {s t : State} {c : Cmd} {n : Nat} (h : s.admits c n t) (k : TaskKind) (coll facet : Nat) :
    s.admits c n (launchTensor t k coll facet) := by
  have frame : t.follows [.streams] (Machine.launchTensor t k coll facet) :=
    launchTensor_follows (List.Subset.refl _) (State.follows_refl _ t)
  have queues : (Machine.launchTensor t k coll facet).queues = t.queues := frame.frame .queues (by decide)
  have flash : (Machine.launchTensor t k coll facet).flash = t.flash := frame.frame .flash (by decide)
  have colls : (Machine.launchTensor t k coll facet).colls = t.colls := frame.frame .colls (by decide)
  obtain ⟨found, reserved, same, wbuf⟩ := h
  exact ⟨(findCmd_congr (congrArg _ queues) ..).trans found, by rw [flash, reserved], by rw [colls, same], by rw [flash, wbuf]⟩

section
variable {s : State} {c : Cmd} {k : Coll}

/-- An INSERT or UPSERT that nothing refuses is admitted; its encode, if it needs one, is under way (R40, R48). -/
theorem decideItem_admits (found : findCmd s c.ref.queue c.ref.tag = some c) (status : writeStatus s c.cap = 0)
    (hk : getColl s c.ref.coll = some k) (parsed : ∃ b, parseItem k c.cap = .ok b)
    (open_ : preEncoded c.ref.flags = false → pipelineClosed s k.att.pipeline = false) (room : flashShort s = false)
    (fits : fitsBuffer s (writeResv k.params c.ref.op c.cap) = true) :
    s.admits c (writeResv k.params c.ref.op c.cap) (decideItem s c) := by
  obtain ⟨b, parsed⟩ := parsed
  have admits := admitWrite_admits found fits
  have unclosed : (!preEncoded c.ref.flags && pipelineClosed s k.att.pipeline) = false := by
    cases h : preEncoded c.ref.flags <;> simp_all
  unfold decideItem
  simp only [status, hk, parsed, room, unclosed, bne_self_eq_false, Bool.false_eq_true, if_false]
  split
  · exact admits.launchTensor ..
  · exact admits

/-- A DELETE that nothing refuses is admitted (R45, R48). -/
theorem decideDelete_admits (found : findCmd s c.ref.queue c.ref.tag = some c) (status : writeStatus s c.cap = 0)
    (hk : getColl s c.ref.coll = some k) (id : areaField c.cap.area 24 8 ≠ 2 ^ 64 - 1) (body : c.cap.body = [])
    (fits : fitsBuffer s (writeResv k.params 0x11 c.cap) = true) :
    s.admits c (writeResv k.params 0x11 c.cap) (decideDelete s c) := by
  have admits := admitWrite_admits found fits
  unfold decideDelete
  simp only [status, hk, id, body]
  exact admits

/-- A FILTER_DROP that nothing refuses is admitted (R48, R64). -/
theorem decideFilterDrop_admits (found : findCmd s c.ref.queue c.ref.tag = some c) (status : writeStatus s c.cap = 0)
    (hk : getColl s c.ref.coll = some k) (slot : areaField c.cap.area 24 2 < k.params.filterSlots) (body : c.cap.body = [])
    (fits : fitsBuffer s pubBare = true) : s.admits c pubBare (decideFilterDrop s c) := by
  have admits := admitWrite_admits found fits
  unfold decideFilterDrop
  simp only [status, hk, body, Nat.not_le.mpr slot]
  exact admits

/-- A part of a FILTER_PUT is of its object's opcode (R278). -/
theorem takePart_op {target : Nat} {o : OpenObj} (h : takePart s c target = some o) : o.op = c.ref.op := by
  unfold takePart at h
  dsimp only at h
  split at h
  · split at h
    · cases h; rfl
    · cases h
  · next x found =>
    have inQueue := List.find?_some found
    split at h
    · cases h
      simp only [OpenObj.openIn, Bool.and_eq_true, beq_iff_eq] at inQueue
      exact inQueue.1.2
    · cases h

/-- Staging a part of a FILTER_PUT changes the queue's open objects alone (R215, R278). -/
theorem stagePart_filter {o : OpenObj} (op : o.op = 0x20) (n : Nat) : stagePart s o n =
    s.modQueues fun u => { u with objects := (u.objects.filter fun x => !x.openIn o.queue o.op) ++ [o] } :=
  if_pos op

section
variable {o : OpenObj} (hk : getColl s c.ref.coll = some k) (slot : areaField c.cap.area 40 2 < k.params.filterSlots)
  (size : areaField c.cap.area 32 8 ≤ k.params.slotCap / 8) (idle : filterBusy s c (areaField c.cap.area 40 2) = false)
  (room : flashShort s = false) (op : c.ref.op = 0x20) (taken : takePart s c (areaField c.cap.area 40 2) = some o)
include hk slot size idle room op taken

/-- The final part of a FILTER_PUT that nothing refuses is admitted as a write (R279). -/
theorem decideFilterPut_admits (found : findCmd s c.ref.queue c.ref.tag = some c) (last : isFinal c.ref.flags = true)
    (status : writeStatus s c.cap = 0) (fits : fitsBuffer s pubExtent = true) : s.admits c pubExtent (decideFilterPut s c) := by
  have staged : decideFilterPut s c = admitWrite (stagePart s { o with final := some c.ref.tag } c.cap.body.length) c pubExtent := by
    simp [decideFilterPut, last, status, hk, idle, room, taken, fits, Nat.not_le.mpr slot, Nat.not_lt.mpr size]
  rw [staged, stagePart_filter (o := { o with final := some c.ref.tag }) ((takePart_op taken).trans op)]
  exact admitWrite_admits found fits

/-- An earlier part of a FILTER_PUT that nothing refuses is staged and replied to (R278). -/
theorem decideFilterPut_stages (ask : s.answerable c)
    (part : isFinal c.ref.flags = false) (attached : k.attached = true) :
    let t := decideFilterPut s c
    o ∈ t.queues.objects ∧ answered c.ref 0 0 [] t ∧ t.colls = s.colls := by
  have staged : decideFilterPut s c = replyOk (stagePart s o c.cap.body.length) c 0 [] := by
    simp [decideFilterPut, part, collStatus, attached, hk, idle, room, taken, Nat.not_le.mpr slot, Nat.not_lt.mpr size]
  have parts := stagePart_filter (s := s) ((takePart_op taken).trans op) c.cap.body.length
  have asked : (stagePart s o c.cap.body.length).answerable c := by rw [parts]; exact ask
  rw [staged]
  refine ⟨?_, asked.ok 0 [], by simp [parts]⟩
  show o ∈ (answer _ _ _ _ _ _).queues.objects
  rw [answer_objects, parts]
  exact List.mem_append_right _ (List.mem_singleton_self o)

end

end

/-! ## The obligation -/

section
variable {op : BitVec 8} {c : Capsule} {s : State}

theorem queued_writeStatus : writeStatus (queued op c s) c = writeStatus s c := by
  obtain ⟨h, q, l, n, e, eq⟩ := queued_eq op c s
  rw [eq]
  rfl

theorem queued_flashShort : flashShort (queued op c s) = flashShort s := by
  obtain ⟨h, q, l, n, e, eq⟩ := queued_eq op c s
  rw [eq]
  rfl

theorem queued_pipelineClosed (g : Nat) : pipelineClosed (queued op c s) g = pipelineClosed s g := by
  obtain ⟨h, q, l, n, e, eq⟩ := queued_eq op c s
  rw [eq]
  rfl

theorem queued_fitsBuffer (n : Nat) : fitsBuffer (queued op c s) n = fitsBuffer s n := by
  obtain ⟨h, q, l, n, e, eq⟩ := queued_eq op c s
  rw [eq]
  rfl

theorem queued_filterBusy (m : Cmd) (f : Nat) : filterBusy (queued op c s) m f = filterBusy s m f := by
  obtain ⟨h, q, l, n, e, eq⟩ := queued_eq op c s
  rw [eq]
  rfl

theorem queued_takePart (m : Cmd) (f : Nat) : takePart (queued op c s) m f = takePart s m f := by
  obtain ⟨h, q, l, n, e, eq⟩ := queued_eq op c s
  rw [eq]
  rfl

/-- What the decision of a submitted write leaves, told from the state it arrived in. -/
theorem State.admits.of_queued {n : Nat} {t : State} (h : (queued op c s).admits (arrival op c s) n t) :
    findCmd t c.queue.toNat c.tag.toNat = some { arrival op c s with stage := .admitted (beadNow s), resv := n } ∧
      t.flash.reserved = s.flash.reserved + n ∧ t.colls = s.colls ∧ t.flash.wbuf = s.flash.wbuf := by
  obtain ⟨found, reserved, colls, wbuf⟩ := h
  have flash : (queued op c s).flash = s.flash := by
    obtain ⟨h, q, l, n, e, eq⟩ := queued_eq op c s
    rw [eq]
  rw [queued_beadNow] at found
  exact ⟨found, by rw [reserved, flash], by rw [colls, queued_colls], by rw [wbuf, flash]⟩

end

/-- Settles O27: each row's decision, on the state it is decided on. -/
theorem writesAdmitted : Obligations.WritesAdmitted := by
  unfold Obligations.WritesAdmitted
  intro op i c s k row sub hk m n raw room item del put drop
  have found := submits_found sub
  have hk' : getColl (queued op c s) c.coll.toNat = some k := (queued_getColl _).trans hk
  simp only [List.mem_cons, Prod.mk.injEq, List.not_mem_nil, or_false] at row
  refine ⟨fun status fits final => ?_, fun o isPut part attached taken => ?_⟩
  · have status' : writeStatus (queued op c s) c = 0 := queued_writeStatus.trans status
    have fits' : fitsBuffer (queued op c s) n = true := (queued_fitsBuffer n).trans fits
    have items (h : op = 0x10 ∨ op = 0x12) : (queued op c s).admits m n (decideItem (queued op c s) m) := by
      obtain ⟨parsed, closed⟩ := item h
      refine decideItem_admits (c := m) found status' hk' parsed (fun (pre : preEncoded c.flags = false) => ?_)
        (queued_flashShort.trans (room (h.imp_right .inl))) fits'
      refine (queued_pipelineClosed _).trans (closed ?_)
      rcases h with rfl | rfl <;> simp [raw, pre]
    rcases row with ⟨rfl, rfl⟩ | ⟨rfl, rfl⟩ | ⟨rfl, rfl⟩ | ⟨rfl, rfl⟩ | ⟨rfl, rfl⟩
    · exact completes_submits (d := decideItem) rfl sub (items (.inl rfl)).of_queued
    · exact completes_submits (d := decideItem) rfl sub (items (.inr rfl)).of_queued
    · obtain ⟨id, body⟩ := del rfl
      exact completes_submits (d := decideDelete) rfl sub (decideDelete_admits (c := m) found status' hk' id body fits').of_queued
    · obtain ⟨slot, size, idle⟩ := put rfl
      obtain ⟨last, isSome⟩ := final rfl
      obtain ⟨o, taken⟩ := Option.isSome_iff_exists.mp isSome
      exact completes_submits (d := decideFilterPut) rfl sub (decideFilterPut_admits (c := m) hk' slot size
        ((queued_filterBusy ..).trans idle) (queued_flashShort.trans (room (.inr (.inr rfl)))) rfl
        ((queued_takePart ..).trans taken) found last status' fits').of_queued
    · obtain ⟨slot, body⟩ := drop rfl
      exact completes_submits (d := decideFilterDrop) rfl sub (decideFilterDrop_admits (c := m) found status' hk' slot body fits').of_queued
  · subst isPut
    obtain ⟨slot, size, idle⟩ := put rfl
    obtain rfl : i = .filterPut c := by simpa using row
    obtain ⟨staged, replied, colls⟩ := decideFilterPut_stages (c := m) hk' slot size ((queued_filterBusy ..).trans idle)
      (queued_flashShort.trans (room (.inr (.inr rfl)))) rfl ((queued_takePart ..).trans taken) (submits_answerable sub) part attached
    exact completes_submits (d := decideFilterPut) rfl sub ⟨staged, replied, colls.trans queued_colls⟩

end Sys2Proof.Machine

/-! Commits, FLUSH and MERGE_HINT (O28): what a write leaves in its collection when it commits (R42, R45, R48, R50, R51, R64),
and the commands that wait for the buffer or begin a merge (R212, R276, R277). -/

namespace Sys2Proof.Machine

/-! ## What a commit leaves in its collection -/

/-- A delete adds a tombstone with its stamp (R45). -/
theorem getColl_commitDelete {s : State} {id slot : Nat} {k : Coll} (hk : getColl s id = some k) :
    getColl (commitDelete s id slot) id = some { k with recent := k.recent ++ [(slot, beadNow s)] } := by
  have upd : getColl (updColl s id fun c => { c with recent := c.recent ++ [(slot, beadNow s)] }) id =
      some { k with recent := k.recent ++ [(slot, beadNow s)] } := by
    rw [getColl_updColl, if_pos rfl, hk]
    rfl
  unfold commitDelete
  dsimp only
  rw [upd]
  exact upd

/-- An insert adds its item and its side-list entry (R42, R48). -/
theorem getColl_commitInsert {s : State} {id : Nat} {item : BitVec 64} {e : Entry} {vec : Option (List Byte)} {row : List Byte}
    {k : Coll} (hk : getColl s id = some k) :
    ∃ lost, getColl (commitInsert s id item e vec row) id = some { k with
      items := k.items.put e.slot ⟨item, beadNow s, vec, row⟩, side := k.side ++ [⟨e, false, none⟩], sideLost := lost } := by
  unfold commitInsert
  rw [hk]
  dsimp only
  split <;> split <;> exact ⟨_, getColl_setColl_same ..⟩

/-- The encode of a raw item counts in its epoch's windows (R150). -/
def countItem (s : State) (coll : Nat) (k : Coll) (ep : Epoch) (ord : List Nat) (i : ItemBody) : State :=
  match i.raw with
  | some (fmt, bs) => countEpoch s coll ep ord ((prepared k.params.metric ord (embNums fmt bs)).getD (embNums fmt bs))
  | none => s

/-- The item that an UPSERT replaces gets its tombstone. -/
def dropOld (s : State) (coll : Nat) : Option Nat → State
  | some o => commitDelete s coll o
  | none => s

/-- An INSERT or UPSERT of an entry, with the delete of the item it replaces. -/
def itemWritten (s : State) (coll : Nat) (k : Coll) (ep : Epoch) (ord : List Nat) (i : ItemBody) (e : Entry) : State :=
  dropOld (commitInsert (countItem s coll k ep ord i) coll i.id e (itemCodes k.params ep ord i).2.2.2 i.row) coll (liveSlot k i.id)

theorem countItem_follows (s : State) (coll : Nat) (k : Coll) (ep : Epoch) (ord : List Nat) (i : ItemBody) :
    s.follows [.out, .host, .events, .counters, .learn] (countItem s coll k ep ord i) := by
  unfold countItem
  split
  · exact countEpoch_follows (List.Subset.refl _) (State.follows_refl _ s)
  · exact State.follows_refl _ s

theorem countItem_answerable {s : State} {c : Cmd} (h : s.answerable c) (coll : Nat) (k : Coll) (ep : Epoch) (ord : List Nat)
    (i : ItemBody) : (countItem s coll k ep ord i).answerable c := by
  obtain ⟨found, live⟩ := h
  have queues : (countItem s coll k ep ord i).queues = s.queues := (countItem_follows ..).frame .queues (by decide)
  refine ⟨(findCmd_congr (congrArg _ queues) ..).trans found, ?_⟩
  unfold countItem
  split
  · exact (live_countEpoch ..).mpr live
  · exact live

theorem dropOld_follows (s : State) (id : Nat) (old : Option Nat) : s.follows [.flash, .colls] (dropOld s id old) := by
  cases old with
  | none => exact State.follows_refl _ s
  | some o => exact commitDelete_follows (List.Subset.refl _) (State.follows_refl _ s)

theorem getColl_dropOld {s : State} {id : Nat} {k : Coll} (hk : getColl s id = some k) (old : Option Nat) :
    getColl (dropOld s id old) id =
      some { k with recent := k.recent ++ (match old with | some o => [(o, beadNow s)] | none => []) } := by
  cases old with
  | none => rw [dropOld, hk, List.append_nil]
  | some o => exact getColl_commitDelete hk

section
variable {s : State} {c : Cmd} {k : Coll}

theorem itemWritten_answerable (h : s.answerable c) (coll : Nat) (k : Coll) (ep : Epoch) (ord : List Nat) (i : ItemBody)
    (e : Entry) : (itemWritten s coll k ep ord i e).answerable c :=
  ((countItem_answerable h coll k ep ord i).of_follows (commitInsert_follows (List.Subset.refl _) (State.follows_refl _ _))
    (by decide) (by decide)).of_follows (dropOld_follows ..) (by decide) (by decide)

/-- The item, its side-list entry and the tombstone of its predecessor, all stamped with this bead (R42, R45, R48). -/
theorem getColl_itemWritten {coll : Nat} (hk : getColl s coll = some k) (ep : Epoch) (ord : List Nat) (i : ItemBody) (e : Entry) :
    ∃ d, getColl (itemWritten s coll k ep ord i e) coll = some d ∧
      d.items.get e.slot = some ⟨i.id, beadNow s, (itemCodes k.params ep ord i).2.2.2, i.row⟩ ∧
      d.side = k.side ++ [⟨e, false, none⟩] ∧
      d.recent = k.recent ++ (match liveSlot k i.id with | some o => [(o, beadNow s)] | none => []) := by
  have counted := countItem_follows s coll k ep ord i
  have bead := beadNow_of_follows counted (by decide)
  obtain ⟨lost, inserted⟩ := getColl_commitInsert (item := i.id) (e := e) (vec := (itemCodes k.params ep ord i).2.2.2) (row := i.row)
    ((getColl_of_follows counted (by decide) coll).trans hk)
  have later : beadNow (commitInsert (countItem s coll k ep ord i) coll i.id e (itemCodes k.params ep ord i).2.2.2 i.row) = beadNow s :=
    (beadNow_of_follows (commitInsert_follows (List.Subset.refl _) (State.follows_refl _ _)) (by decide)).trans bead
  refine ⟨_, getColl_dropOld inserted _, ?_, rfl, ?_⟩
  · rw [← bead]
    exact Tab.get_put_same ..
  · rw [← later]

/-- An INSERT of a new item, and an UPSERT, that pass the checks of the commit give the item its entry and reply (R48, R51,
R52, R276). -/
theorem applyItem_eq {want slot : Nat} {ord : List Nat} {i : ItemBody} {ep : Epoch} (row : c.ref.op = 0x10 ∨ c.ref.op = 0x12)
    (parsed : parseItem k c.cap = .ok i) (newest : newestEpoch k = some ep)
    (epoch : i.raw.isNone = true → (epochOf k i.epoch).isSome = true) (fresh : c.ref.op = 0x10 → liveSlot k i.id = none)
    (room : capacityCheck k true (c.ref.op == 0x12 && (liveSlot k i.id).isSome) want = none) (free : freeSlot k want = some slot) :
    ∃ br, applyItem s c k want ord =
      let codes := itemCodes k.params ep ord i
      replyOk (markWrite (itemWritten s c.ref.coll k ep ord i ⟨slot, codes.1, codes.2.1, codes.2.2.1, br⟩) c) c
        (writeArea slot (beadNow s) codes.1 br.length (if (liveSlot k i.id).isSome then 1 else 0) (liveSlot k i.id)) [] := by
  have known : (i.raw.isNone && (epochOf k i.epoch).isNone) = false := by
    cases h : i.raw.isNone with
    | false => rfl
    | true => simpa using epoch h
  unfold applyItem itemWritten
  simp only [parsed, newest, known, room, free]
  rcases row with op | op
  · rw [fresh op] at room ⊢
    exact ⟨_, by simp [op, dropOld]; rfl⟩
  · cases old : liveSlot k i.id with
    | none => exact ⟨_, by simp [op, dropOld]; rfl⟩
    | some o => exact ⟨_, by simp [op, dropOld]; rfl⟩

/-- The reply of a write marks its bead in the queue and changes no collection. -/
theorem replyOk_markWrite (ask : s.answerable c) (area : BitVec 320) :
    answered c.ref 0 area [] (replyOk (markWrite s c) c area []) ∧ (replyOk (markWrite s c) c area []).colls = s.colls :=
  ⟨State.answerable.ok (s := markWrite s c) ask area [], by simp [markWrite]⟩

/-! ## The other writes -/

/-- A DELETE of an item that is there leaves its tombstone, one that finds none changes nothing; both reply (R45, R51). -/
theorem applyDelete_found {slot : Nat} (hs : liveSlot k (BitVec.ofNat 64 (areaField c.cap.area 24 8)) = some slot)
    (room : rdFull k = false) : applyDelete s c k =
      replyOk (markWrite (commitDelete s c.ref.coll slot) c) c (writeArea slot (beadNow s) 0 0 1 none) [] := by
  simp [applyDelete, hs, capacityCheck, room]

theorem applyDelete_absent (hs : liveSlot k (BitVec.ofNat 64 (areaField c.cap.area 24 8)) = none) :
    applyDelete s c k = replyOk (markWrite s c) c (writeArea 0 (beadNow s) 0 0 0 none) [] := by
  simp [applyDelete, hs]

/-- A collection with a new version of a filter (R64). -/
def putFilter (k : Coll) (o : OpenObj) (b : Nat) : Coll :=
  { endFilter k o.target b true with
    filters := (endFilter k o.target b true).filters ++ [⟨o.target, b, none, false, leNat o.bytes⟩] }

/-- A FILTER_PUT ends the version in force and begins its own (R64). -/
theorem applyFilterPut_commits {o : OpenObj} (ask : s.answerable c) (ho : s.queues.objects.find? (finalOf c) = some o) :
    let t := applyFilterPut s c k
    getColl t c.ref.coll = some (putFilter k o (beadNow s)) ∧ answered c.ref 0 (writeArea 0 (beadNow s) 0 0 0 none) [] t := by
  have put : ∃ u, (setColl (dropObjects s (finalOf c)) c.ref.coll (putFilter k o (beadNow s))).follows [.free, .flash] u ∧
      applyFilterPut s c k = replyOk (markWrite u c) c (writeArea 0 (beadNow s) 0 0 0 none) [] := by
    unfold applyFilterPut
    rw [ho]
    exact ⟨_, addRec_follows (by decide) (foldl_follows _ _ (fun _ _ h => placeFree_follows (List.Subset.refl _) h) _
      (State.follows_refl _ _)), rfl⟩
  obtain ⟨u, frame, eq⟩ := put
  have dropped : (setColl (dropObjects s (finalOf c)) c.ref.coll (putFilter k o (beadNow s))).answerable c := ask
  obtain ⟨replied, colls⟩ := replyOk_markWrite (dropped.of_follows frame (by decide) (by decide)) (writeArea 0 (beadNow s) 0 0 0 none)
  rw [eq]
  exact ⟨((getColl_congr colls _).trans (getColl_of_follows frame (by decide) _)).trans (getColl_setColl_same ..), replied⟩

/-- A FILTER_DROP ends the version in force (R64). -/
theorem applyFilterDrop_commits (ask : s.answerable c)
    (inForce : (k.filters.any fun v => v.id == areaField c.cap.area 24 2 && v.drop.isNone) = true) :
    let t := applyFilterDrop s c k
    getColl t c.ref.coll = some (endFilter k (areaField c.cap.area 24 2) (beadNow s) false) ∧
      answered c.ref 0 (writeArea 0 (beadNow s) 0 0 0 none) [] t := by
  have ended : ∃ r, applyFilterDrop s c k = replyOk (markWrite (addRec (setColl s c.ref.coll
      (endFilter k (areaField c.cap.area 24 2) (beadNow s) false)) r) c) c (writeArea 0 (beadNow s) 0 0 0 none) [] := by
    unfold applyFilterDrop
    dsimp only
    rw [if_pos inForce]
    exact ⟨_, rfl⟩
  obtain ⟨r, eq⟩ := ended
  obtain ⟨replied, colls⟩ := replyOk_markWrite (s := addRec (setColl s _ _) r) ask (writeArea 0 (beadNow s) 0 0 0 none)
  rw [eq]
  exact ⟨(getColl_congr colls _).trans (getColl_setColl_same ..), replied⟩

/-! ## WRITE_COMMIT -/

/-- The state an admitted write is applied to: its encode is over. -/
def commitBase (s : State) (c : Cmd) : State := endTasks s fun t => t.kind == .writeEncode c.ref.queue c.ref.tag

theorem commitBase_follows (s : State) (c : Cmd) : s.follows [.streams] (commitBase s c) :=
  endTasks_follows (List.Subset.refl _) (State.follows_refl _ s)

/-- An admitted write, applied by its opcode. -/
def applyRow (s : State) (c : Cmd) (k : Coll) (want : Nat) (ord : List Nat) : State :=
  if c.ref.op = 0x10 || c.ref.op = 0x12 then applyItem s c k want ord
  else if c.ref.op = 0x11 then applyDelete s c k
  else if c.ref.op = 0x20 then applyFilterPut s c k
  else applyFilterDrop s c k

theorem applyWrite_eq (hk : getColl s c.ref.coll = some k) (want : Nat) (ord : List Nat) :
    applyWrite s c want ord = applyRow (commitBase s c) c k want ord := by
  have base : getColl (commitBase s c) c.ref.coll = some k := (getColl_of_follows (commitBase_follows s c) (by decide) _).trans hk
  unfold applyWrite
  dsimp only
  rw [show endTasks s _ = commitBase s c from rfl, base]
  rfl

/-- An admitted write completes as its application leaves the module; the rest of its reservation is released (R410). -/
theorem completes_writeCommit {q g want : Nat} {ord : List Nat} {P : State → Prop} (up : s.power.phase = .up)
    (found : findCmd s q g = some c) (admitted : c.uncommitted = true) (hk : getColl s c.ref.coll = some k)
    (post : ∀ f, P ((applyRow (commitBase s c) c k want ord).modPools f)) : completes (.writeCommit q g want ord) s P := by
  refine ⟨_, ?_, post fun p => { p with relBuf := p.relBuf - (hostOcc (applyRow (commitBase s c) c k want ord) - hostOcc s) }⟩
  simp only [exec, execWriteCommit, found, isUp, up, admitted, commitWrite, applyWrite_eq hk]
  rfl

/-! ## FLUSH and MERGE_HINT -/

/-- A FLUSH that finds no record of its collection in the buffer replies at once (R212). -/
theorem decideFlush_idle (open_ : s.power.effective < 3) (hk : (getColl s c.ref.coll).isSome = true) (body : c.cap.body = [])
    (idle : pendingBelow s c.ref.coll s.flash.nextRec = false) : decideFlush s c = replyFlush s c := by
  obtain ⟨k, hk⟩ := Option.isSome_iff_exists.mp hk
  simp [decideFlush, Nat.not_le.mpr open_, hk, body, idle]

/-- A FLUSH that finds such records waits for those that are there (R212). -/
theorem decideFlush_waits (found : findCmd s c.ref.queue c.ref.tag = some c) (open_ : s.power.effective < 3)
    (hk : (getColl s c.ref.coll).isSome = true) (body : c.cap.body = [])
    (busy : pendingBelow s c.ref.coll s.flash.nextRec = true) :
    findCmd (decideFlush s c) c.ref.queue c.ref.tag = some { c with stage := .flushing s.flash.nextRec } := by
  obtain ⟨k, hk⟩ := Option.isSome_iff_exists.mp hk
  have waits : decideFlush s c = updCmd (countAdmit s c.ref.queue) c.ref.queue c.ref.tag
      fun x => { x with stage := .flushing s.flash.nextRec } := by
    simp [decideFlush, Nat.not_le.mpr open_, hk, body, busy]
  rw [waits, findCmd_updCmd (f := fun x => { x with stage := .flushing s.flash.nextRec }) fun _ => rfl,
    findCmd_congr (countAdmit_cmds s _), found]
  rfl

/-- A MERGE_HINT names the merge that is under way (R277). -/
theorem decideMergeHint_running {m : Merge} (awake : s.power.edgeStep = 0) (body : c.cap.body = [])
    (hk : getColl s c.ref.coll = some k) (attached : k.attached = true) (hm : k.merge = some m) :
    decideMergeHint s c = replyOk s c (hintArea 0 m.trigger) [] := by
  simp [decideMergeHint, awake, body, hk, collStatus, attached, hm]

/-- A MERGE_HINT starts a merge where none is under way and its heads fit (R277, R409). -/
theorem decideMergeHint_starts {u : State} (awake : s.power.edgeStep = 0) (body : c.cap.body = [])
    (hk : getColl s c.ref.coll = some k) (attached : k.attached = true) (hm : k.merge = none)
    (starts : startMerge s c.ref.coll (beadNow s) = some u) : decideMergeHint s c = replyOk u c (hintArea 1 (beadNow s)) [] := by
  simp [decideMergeHint, awake, body, hk, collStatus, attached, hm, starts]

/-- A merge that starts takes its entries, and its task is launched (R43). -/
theorem startMerge_begins {id b : Nat} {u : State} (hk : getColl s id = some k) (starts : startMerge s id b = some u) :
    (setColl s id (beginMerge k b)).follows [.streams] u := by
  unfold startMerge at starts
  rw [hk] at starts
  dsimp only at starts
  split at starts
  · cases starts
  · cases starts
    exact launchTensor_follows (List.Subset.refl _) (State.follows_refl _ _)

end

section
variable {op : BitVec 8} {c : Capsule} {s : State}

theorem queued_effective : (queued op c s).power.effective = s.power.effective := by
  obtain ⟨h, q, l, n, e, eq⟩ := queued_eq op c s
  rw [eq]

theorem queued_edgeStep : (queued op c s).power.edgeStep = s.power.edgeStep := by
  obtain ⟨h, q, l, n, e, eq⟩ := queued_eq op c s
  rw [eq]

theorem queued_nextRec : (queued op c s).flash.nextRec = s.flash.nextRec := by
  obtain ⟨h, q, l, n, e, eq⟩ := queued_eq op c s
  rw [eq]

theorem queued_pendingBelow (coll : Nat) : pendingBelow (queued op c s) coll (queued op c s).flash.nextRec =
    pendingBelow s coll s.flash.nextRec := by
  obtain ⟨h, q, l, n, e, eq⟩ := queued_eq op c s
  rw [eq]
  rfl

theorem queued_isSome (id : Nat) : (getColl (queued op c s) id).isSome = (getColl s id).isSome := by
  rw [queued_getColl]

end

/-! ## The obligation -/

/-- Settles O28: the commit of each write, then FLUSH and MERGE_HINT. -/
theorem writesAndFlushesEnd : Obligations.WritesAndFlushesEnd := by
  unfold Obligations.WritesAndFlushesEnd
  refine ⟨fun s q g want ord c k up found admitted live hk => ?_, fun c s sub open_ hk body => ⟨fun idle => ?_, fun busy => ?_⟩,
    fun s q g n c found stage live idle => ?_, fun c s k sub awake body hk attached => ⟨fun m hm => ?_, fun hm u starts => ?_⟩⟩
  · intro b id
    obtain ⟨hq, hg⟩ := findCmd_ref found
    have base : getColl (commitBase s c) c.ref.coll = some k := (getColl_of_follows (commitBase_follows s c) (by decide) _).trans hk
    have ask : (commitBase s c).answerable c :=
      State.answerable.of_follows ⟨by rw [hq, hg]; exact found, live⟩ (commitBase_follows s c) (by decide) (by decide)
    have bead : beadNow (commitBase s c) = b := beadNow_of_follows (commitBase_follows s c) (by decide)
    refine ⟨fun i ep slot op parsed newest epoch fresh room free => ?_, fun slot op item room => ?_, fun op absent => ?_,
      fun o op open_ => ?_, fun op inForce => ?_⟩
    all_goals refine completes_writeCommit up found admitted hk fun f => ?_
    · have row : applyRow (commitBase s c) c k want ord = applyItem (commitBase s c) c k want ord := if_pos (by simpa using op)
      obtain ⟨br, eq⟩ := applyItem_eq (s := commitBase s c) (ord := ord) op parsed newest epoch fresh room free
      obtain ⟨d, hd, items, side, recent⟩ := getColl_itemWritten base ep ord i ⟨slot, (itemCodes k.params ep ord i).1,
        (itemCodes k.params ep ord i).2.1, (itemCodes k.params ep ord i).2.2.1, br⟩
      obtain ⟨replied, colls⟩ := replyOk_markWrite (itemWritten_answerable ask c.ref.coll k ep ord i _)
        (writeArea slot b (itemCodes k.params ep ord i).1 br.length (if (liveSlot k i.id).isSome then 1 else 0) (liveSlot k i.id))
      rw [bead] at eq items recent
      rw [row, eq]
      exact ⟨d, _, (getColl_congr colls _).trans hd, rfl, items, side, rfl, rfl, recent, replied⟩
    · have row : applyRow (commitBase s c) c k want ord = applyDelete (commitBase s c) c k := by simp [applyRow, op]
      obtain ⟨replied, colls⟩ := replyOk_markWrite (ask.of_follows (commitDelete_follows (id := c.ref.coll) (slot := slot)
        (List.Subset.refl _) (State.follows_refl _ _)) (by decide) (by decide)) (writeArea slot b 0 0 1 none)
      rw [row, applyDelete_found item room, bead]
      exact ⟨⟨_, (getColl_congr colls _).trans (getColl_commitDelete base), by rw [bead], rfl, rfl⟩, replied⟩
    · have row : applyRow (commitBase s c) c k want ord = applyDelete (commitBase s c) c k := by simp [applyRow, op]
      obtain ⟨replied, colls⟩ := replyOk_markWrite ask (writeArea 0 b 0 0 0 none)
      rw [row, applyDelete_absent absent, bead]
      exact ⟨colls.trans ((commitBase_follows s c).frame .colls (by decide)), replied⟩
    · have row : applyRow (commitBase s c) c k want ord = applyFilterPut (commitBase s c) c k := by simp [applyRow, op]
      obtain ⟨put, replied⟩ := applyFilterPut_commits (k := k) ask open_
      rw [row]
      rw [bead] at put replied
      exact ⟨⟨_, put, rfl⟩, replied⟩
    · have row : applyRow (commitBase s c) c k want ord = applyFilterDrop (commitBase s c) c k := by simp [applyRow, op]
      obtain ⟨dropped, replied⟩ := applyFilterDrop_commits ask inForce
      rw [row]
      rw [bead] at dropped replied
      exact ⟨⟨_, dropped, rfl⟩, replied⟩
  · rw [← queued_effective (op := 0x13) (c := c)] at open_
    rw [← queued_pendingBelow (op := 0x13) (c := c)] at idle
    rw [← queued_beadNow (op := 0x13) (c := c)]
    refine completes_submits (d := decideFlush) rfl sub ?_
    rw [decideFlush_idle open_ ((queued_isSome _).trans hk) body idle]
    exact (submits_answerable sub).ok _ []
  · rw [← queued_effective (op := 0x13) (c := c)] at open_
    rw [← queued_pendingBelow (op := 0x13) (c := c)] at busy
    rw [← queued_nextRec (op := 0x13) (c := c)]
    exact completes_submits (d := decideFlush) rfl sub
      (decideFlush_waits (c := arrival 0x13 c s) (submits_found sub) open_ ((queued_isSome _).trans hk) body busy)
  · obtain ⟨hq, hg⟩ := findCmd_ref found
    refine ⟨replyFlush s c, ?_, State.answerable.ok ⟨by rw [hq, hg]; exact found, live⟩ _ []⟩
    simp [exec, execFlushComplete, found, stage, idle]
  · refine completes_submits (d := decideMergeHint) rfl sub ?_
    rw [decideMergeHint_running (c := arrival 0x40 c s) (queued_edgeStep.trans awake) body ((queued_getColl _).trans hk) attached hm]
    exact ⟨by simp [queued_colls], (submits_answerable sub).ok _ []⟩
  · have begun := startMerge_begins ((queued_getColl _).trans hk) starts
    refine completes_submits (d := decideMergeHint) rfl sub ?_
    rw [decideMergeHint_starts (c := arrival 0x40 c s) (queued_edgeStep.trans awake) body ((queued_getColl _).trans hk) attached hm
      (by rw [queued_beadNow]; exact starts), queued_beadNow]
    have asked : (setColl (queued 0x40 c s) c.coll.toNat (beginMerge k (beadNow s))).answerable (arrival 0x40 c s) :=
      submits_answerable sub
    refine ⟨?_, (asked.of_follows begun (by decide) (by decide)).ok _ []⟩
    rw [getColl_replyOk, getColl_of_follows begun (by decide), getColl_setColl_same]

end Sys2Proof.Machine

/-! COLLECTION_CREATE and COLLECTION_ATTACH (O30): what they leave under the collection's id and what they reply (R29, R31,
R283, R284). -/

namespace Sys2Proof.Machine

/-- A state holds a collection under an id, wherever its pages are. -/
def State.holds (s : State) (id : Nat) (c : Coll) : Prop :=
  ∃ ps r, getColl s id = some { c with pages := ps, resident := r }

theorem State.holds.updColl {s : State} {id : Nat} {c : Coll} (h : s.holds id c) {f : Coll → Coll}
    (keep : ∀ d, ∃ ps r, f d = { d with pages := ps, resident := r }) : (updColl s id f).holds id c := by
  obtain ⟨ps, r, h⟩ := h
  obtain ⟨qs, n, e⟩ := keep { c with pages := ps, resident := r }
  refine ⟨qs, n, ?_⟩
  rw [getColl_updColl, if_pos rfl, h, Option.map_some, e]

/-- Placing the pages of a collection changes nothing else of it (R170, R175). -/
theorem attachPages_holds {s : State} {id : Nat} {c : Coll} (h : getColl s id = some c) : (attachPages s id).holds id c := by
  unfold attachPages
  rw [h]
  dsimp only
  refine State.holds.updColl ?_ fun d => ⟨_, _, rfl⟩
  refine List.foldlRecOn (motive := fun t : State => t.holds id c) _ _ ?_ fun t ht x _ => ht.updColl fun d => ⟨_, _, rfl⟩
  exact ⟨_, _, getColl_setColl_same ..⟩

/-- A collection that is put under its id and whose pages are placed stands there when its command is answered. -/
theorem attached_replies {s : State} {c : Cmd} (ask : s.answerable c) (id : Nat) (n : Coll) (area : BitVec 320) :
    let t := replyOk (attachPages (setColl s id n) id) c area []
    t.holds id n ∧ answered c.ref 0 area [] t := by
  have put : (setColl s id n).answerable c := ask
  have frame := attachPages_follows (List.Subset.refl _) (State.follows_refl _ (setColl s id n)) (id := id)
  obtain ⟨ps, r, held⟩ := attachPages_holds (getColl_setColl_same s id n)
  exact ⟨⟨ps, r, (getColl_replyOk ..).trans held⟩, (put.of_follows frame (by decide) (by decide)).ok area []⟩

section
variable {s : State} {c : Cmd}

/-- A COLLECTION_CREATE whose checks pass and whose reservations fit leaves the new collection and replies (R31, R283). -/
theorem decideCreate_creates {p : CollParams} {enc : Encoder} {f : FormatRec} {base : Nat} {kc : BitVec 32}
    (absent : getColl s c.ref.coll = none) (length : 96 ≤ c.cap.body.length) (params : parseCreate (c.cap.body.take 64) = .ok p)
    (record : attachBad s p (sliceB c.cap.body 64 32) = none) (key : p.encrypted = true → (s.locket.keys.get c.ref.coll).isSome = true)
    (bare : s.locket.keys.get c.ref.coll = none → kc = 0)
    (keyed : ∀ v, s.locket.keys.get c.ref.coll = some v → kc = if p.encrypted then keyCheckOf v else 0)
    (image : parseImage p (if p.vecFormat = 0 then none else some p.vecDims) true (c.cap.body.drop 96) = .ok (enc, []))
    (format : formatOf s (parseAttach (sliceB c.cap.body 64 32)).pipeline = some f) (allowed : encoderAllowed f enc = true)
    (slots : findSlotBase s p.slotCap = some base)
    (fits : attachFits s (newColl p (parseAttach (sliceB c.cap.body 64 32)) base kc enc) = true)
    (flash : ceilDiv p.flashBytes pageSize ≤ flashFree s) :
    decideCreate s c = replyOk (attachPages (setColl s c.ref.coll
      (newColl p (parseAttach (sliceB c.cap.body 64 32)) base kc enc)) c.ref.coll) c
        (areaPut (areaPut 0 24 8 base) 32 8 p.flashPages) [] := by
  have room : (attachFits s (newColl p (parseAttach (sliceB c.cap.body 64 32)) base kc enc) &&
      decide (ceilDiv p.flashBytes pageSize ≤ flashFree s)) = true := by simp [fits, flash]
  unfold decideCreate
  simp only [absent, Option.isSome_none, Bool.false_eq_true, if_false, Nat.not_lt.mpr length, params, record]
  cases held : s.locket.keys.get c.ref.coll with
  | none =>
    have plain : p.encrypted = false := by simpa [held] using key
    simp only [plain, Bool.false_and, Bool.false_eq_true, if_false, image, List.isEmpty_nil, Bool.not_true, format, allowed, slots]
    rw [← bare held, if_pos room]
  | some v =>
    simp only [Option.isNone_some, Bool.and_false, Bool.false_eq_true, if_false, image, List.isEmpty_nil, Bool.not_true, format,
      allowed, slots]
    rw [← keyed v held, if_pos room]

/-- A detached collection as COLLECTION_ATTACH takes it up under a new record (R284). -/
def reattached (k : Coll) (a : AttachRec) : Coll :=
  { k with att := a, attached := true, sideLost := [], hbmPlacedNow := a.hbmPlaced, withdrawn := false, creditNear := 0,
           creditHbm := 0, creditFlash := 0, admittedInBead := 0 }

/-- A COLLECTION_ATTACH whose checks pass and whose reservations fit takes the collection up and replies (R284). -/
theorem decideAttach_attaches {k : Coll} {f : FormatRec} (hk : getColl s c.ref.coll = some k) (detached : k.attached = false)
    (idle : k.work = none) (length : c.cap.body.length = 32) (record : attachBad s k.params c.cap.body = none)
    (format : formatOf s (parseAttach c.cap.body).pipeline = some f)
    (allowed : (k.epochs.all fun e => encoderAllowed f e.enc) = true)
    (key : k.params.encrypted = true → (s.locket.keys.get c.ref.coll).map keyCheckOf = some k.keyCheck)
    (fits : attachFits s (reattached k (parseAttach c.cap.body)) = true) :
    decideAttach s c = replyOk (attachPages (setColl s c.ref.coll (reattached k (parseAttach c.cap.body))) c.ref.coll) c
      (attachArea (reattached k (parseAttach c.cap.body))) [] := by
  unfold reattached at fits ⊢
  have keyed : (k.params.encrypted && (s.locket.keys.get c.ref.coll).isNone) = false ∧
      (k.params.encrypted && (s.locket.keys.get c.ref.coll).map keyCheckOf != some k.keyCheck) = false := by
    cases encrypted : k.params.encrypted with
    | false => exact ⟨rfl, rfl⟩
    | true =>
      have check := key encrypted
      refine ⟨?_, by simp [check]⟩
      cases held : s.locket.keys.get c.ref.coll with
      | none => simp [held] at check
      | some v => rfl
  obtain ⟨present, checked⟩ := keyed
  have resting : (k.attached || k.work.isSome) = false := by simp [detached, idle]
  have free : lenBad c 32 = false := by simp [lenBad, length]
  unfold decideAttach
  simp only [hk, resting, free, firstBad, Bool.false_eq_true, if_false, record, format,
    allowed, Bool.not_true, present, checked, fits]

end

section
variable {op : BitVec 8} {c : Capsule} {s : State}

theorem queued_attachBad (p : CollParams) (bs : List Byte) : attachBad (queued op c s) p bs = attachBad s p bs := by
  obtain ⟨h, q, l, n, e, eq⟩ := queued_eq op c s
  rw [eq]
  rfl

theorem queued_formatOf (n : Nat) : formatOf (queued op c s) n = formatOf s n := by
  obtain ⟨h, q, l, n, e, eq⟩ := queued_eq op c s
  rw [eq]
  rfl

theorem queued_findSlotBase (n : Nat) : findSlotBase (queued op c s) n = findSlotBase s n := by
  obtain ⟨h, q, l, n, e, eq⟩ := queued_eq op c s
  rw [eq]
  rfl

theorem queued_attachFits (k : Coll) : attachFits (queued op c s) k = attachFits s k := by
  obtain ⟨h, q, l, n, e, eq⟩ := queued_eq op c s
  rw [eq]
  rfl

theorem queued_flashFree : flashFree (queued op c s) = flashFree s := by
  obtain ⟨h, q, l, n, e, eq⟩ := queued_eq op c s
  rw [eq]
  rfl

theorem queued_locket : (queued op c s).locket = s.locket := by
  obtain ⟨h, q, l, n, e, eq⟩ := queued_eq op c s
  rw [eq]

end

/-- Settles O30: both commands put the collection under its id and place its pages, which leaves its contents as they are, and
reply. -/
theorem collectionsBegin : Obligations.CollectionsBegin := by
  refine ⟨?_, ?_⟩
  · intro c s p enc f base sub id rec_ a key kc absent length params record keyed image format allowed slots fits flash
    have created : decideCreate (queued 0x81 c s) (arrival 0x81 c s) = replyOk (attachPages (setColl (queued 0x81 c s) id
        (newColl p a base kc enc)) id) (arrival 0x81 c s) (areaPut (areaPut 0 24 8 base) 32 8 p.flashPages) [] :=
      decideCreate_creates (c := arrival 0x81 c s) ((queued_getColl id).trans absent) length params
        ((queued_attachBad ..).trans record) (by rw [queued_locket]; exact keyed)
        (fun none => by rw [queued_locket] at none; simp only [kc, key]; rw [show s.locket.keys.get id = Option.none from none])
        (fun v some => by rw [queued_locket] at some; simp only [kc, key]; rw [show s.locket.keys.get id = Option.some v from some])
        image ((queued_formatOf _).trans format) allowed ((queued_findSlotBase _).trans slots) ((queued_attachFits _).trans fits)
        (by rw [queued_flashFree]; exact flash)
    refine completes_submits (d := decideCreate) rfl sub ?_
    rw [created]
    obtain ⟨⟨ps, r, held⟩, replied⟩ := attached_replies (submits_answerable sub) id (newColl p a base kc enc)
      (areaPut (areaPut 0 24 8 base) 32 8 p.flashPages)
    exact ⟨⟨_, held, rfl, rfl, rfl, rfl, rfl, rfl, rfl, rfl, rfl⟩, replied⟩
  · intro c s k f sub id a key n hk detached idle length record format allowed keyed fits
    have attached : decideAttach (queued 0x83 c s) (arrival 0x83 c s) = replyOk (attachPages (setColl (queued 0x83 c s) id
        (reattached k a)) id) (arrival 0x83 c s) (attachArea n) [] :=
      decideAttach_attaches (c := arrival 0x83 c s) ((queued_getColl id).trans hk) detached idle length
        ((queued_attachBad ..).trans record) ((queued_formatOf _).trans format) allowed (by rw [queued_locket]; exact keyed)
        ((queued_attachFits _).trans fits)
    refine completes_submits (d := decideAttach) rfl sub ?_
    rw [attached]
    obtain ⟨⟨ps, r, held⟩, replied⟩ := attached_replies (submits_answerable sub) id (reattached k a) (attachArea n)
    exact ⟨⟨_, held, rfl, rfl, rfl, rfl, rfl, rfl, rfl, rfl, rfl⟩, replied⟩

end Sys2Proof.Machine

/-! COLLECTION_DETACH, COLLECTION_DELETE and the end of their work (O31): the collection takes no command from the decision
on, and it leaves when nothing of it is open (R29, R30, R185, R219, R285). -/

namespace Sys2Proof.Machine

/-! ## The decision -/

/-- A collection that begins to leave: no command of it is admitted any more (R30). -/
def leaving (k : Coll) (r : CmdRef) (isDelete : Bool) (b : Nat) : Coll :=
  { k with attached := false, work := some (r, isDelete), detachBead := b }

section
variable {s : State} {c : Cmd} {k : Coll} {isDelete : Bool}

/-- A DETACH of an attached collection, or a DELETE, that finds no other on its way begins its work; past the cut point the
bead's searches and reads of the collection end with it (R30). -/
theorem decideDetach_begins (hk : getColl s c.ref.coll = some k) (attached : isDelete = false → k.attached = true)
    (work : k.work = none) (alone : k.thenDelete = none) (body : c.cap.body = []) : decideDetach isDelete s c =
      let s1 := beginDetach (running s c) c.ref.coll (some (c.ref, isDelete))
      if s.time.cut then cutColl s1 c.ref.coll else s1 := by
  cases isDelete with
  | false => simp [decideDetach, hk, work, alone, attached, firstBad, lenBad, body]
  | true => simp [decideDetach, hk, work, alone, firstBad, lenBad, body]

/-- A DELETE after a DETACH whose work has not ended waits for that end (R29). -/
theorem decideDetach_waits {r : CmdRef} (hk : getColl s c.ref.coll = some k) (work : k.work = some (r, false))
    (alone : k.thenDelete = none) (body : c.cap.body = []) :
    decideDetach true s c = updColl (running s c) c.ref.coll fun k => { k with thenDelete := some c.ref } := by
  simp [decideDetach, hk, work, alone, firstBad, lenBad, body]

theorem running_frame (s : State) (c : Cmd) : s.follows [.out, .host, .queues, .events, .counters] (running s c) :=
  running_follows (List.Subset.refl _) (State.follows_refl _ s)

theorem getColl_beginDetach (hk : getColl s c.ref.coll = some k) :
    getColl (beginDetach (running s c) c.ref.coll (some (c.ref, isDelete))) c.ref.coll =
      some (leaving k c.ref isDelete (beadNow s)) := by
  have bead : beadNow (running s c) = beadNow s := beadNow_of_follows (running_frame s c) (by decide)
  unfold beginDetach
  rw [getColl_updColl, if_pos rfl, getColl_of_follows (running_frame s c) (by decide), hk, bead]
  rfl

/-- What a DETACH or a DELETE leaves: the collection takes no command, nothing is answered before the cut point, and the
command runs. -/
theorem decideDetach_leaves (found : findCmd s c.ref.queue c.ref.tag = some c) (hk : getColl s c.ref.coll = some k)
    (attached : isDelete = false → k.attached = true) (work : k.work = none) (alone : k.thenDelete = none)
    (body : c.cap.body = []) :
    let t := decideDetach isDelete s c
    getColl t c.ref.coll = some (leaving k c.ref isDelete (beadNow s)) ∧
      (s.time.cut = false → noReply s t ∧ t.search = s.search ∧
        (findCmd t c.ref.queue c.ref.tag).map Cmd.stage = some .running) := by
  rw [decideDetach_begins hk attached work alone body]
  dsimp only
  have begun := getColl_beginDetach (isDelete := isDelete) hk
  cases cut : s.time.cut with
  | true =>
    refine ⟨?_, nofun⟩
    rw [if_pos rfl, getColl_of_follows (cutColl_follows (List.Subset.refl _) (State.follows_refl _ _)) (by decide), begun]
  | false =>
    refine ⟨begun, fun _ => ⟨noReply_running s c, (running_frame s c).frame .search (by decide), ?_⟩⟩
    rw [if_neg nofun]
    exact congrArg (Option.map Cmd.stage) (findCmd_running found)

end

/-! ## The end of the work -/

section
variable {s : State} {id : Nat} {k : Coll}

/-- The collection whose work has ended gives back its tiers and holds no page (R185). -/
def workEnded (s : State) (id : Nat) (k : Coll) : State :=
  updColl (if k.pages.isEmpty then s else releaseTiers s k) id fun c => { c with work := none, pages := [], hbmPlacedNow := 0 }

theorem workEnded_follows (s : State) (id : Nat) (k : Coll) : s.follows [.pools, .colls] (workEnded s id k) := by
  have tiers : s.follows [.pools, .colls] (if k.pages.isEmpty then s else releaseTiers s k) := by
    split
    · exact State.follows_refl _ s
    · exact releaseTiers_follows (by decide) (State.follows_refl _ s)
  exact updColl_follows (by decide) tiers

theorem workEnded_colls (s : State) (id : Nat) (k : Coll) : (workEnded s id k).colls =
    s.colls.upd id fun c => { c with work := none, pages := [], hbmPlacedNow := 0 } := by
  unfold workEnded
  split <;> rfl

theorem getColl_workEnded (hk : getColl s id = some k) :
    getColl (workEnded s id k) id = some { k with work := none, pages := [], hbmPlacedNow := 0 } := by
  unfold getColl at hk ⊢
  rw [workEnded_colls, Tab.get_upd, if_pos rfl, hk]
  rfl

/-- The work of a detach or a delete ends once nothing of the collection is open, and its command replies (R285). -/
theorem completes_workEnd {r : CmdRef} {isDelete : Bool} {P : State → Prop} (up : s.power.phase = .up)
    (hk : getColl s id = some k) (work : k.work = some (r, isDelete)) (alone : k.thenDelete = none)
    (idle : collBusy s id k = false)
    (post : P (answer (if isDelete then removeColl (workEnded s id k) id k else workEnded s id k) r.queue r.tag 0
      (areaPut 0 32 8 (beadNow s)) [])) : completes (.collectionWorkEnd id) s P := by
  refine ⟨_, ?_, post⟩
  simp only [exec, execCollectionWorkEnd, hk, work, isUp, up, idle, endWork, alone, Option.isSome_none, Bool.or_false]
  rfl

/-- Dropping a key and the counts of a collection touches the locket, the counters and the windows of learning. -/
theorem dropKey_dropCounts (s : State) (p : CountOf → Bool) (id : Nat) :
    s.follows [.counters, .learn, .locket] (dropKey (dropCounts s p) id) ∧
      (dropKey (dropCounts s p) id).locket.keys = s.locket.keys.del id := by
  have counts : s.follows [.counters, .learn, .locket] (dropCounts s p) := dropCounts_follows (by decide) (State.follows_refl _ s)
  refine ⟨dropKey_follows (by decide) counts, ?_⟩
  have same : (dropCounts s p).locket = s.locket :=
    (dropCounts_follows (List.Subset.refl _) (State.follows_refl _ s)).frame .locket (by decide)
  rw [← same]
  rfl

/-- What a delete frees from the next bead: pages of flash, slots, the recent-delete share. -/
def freedBy (k : Coll) (p : Pools) : Pools :=
  { p with
    relFlash := p.relFlash + ceilDiv k.params.flashBytes pageSize
    relSlots := p.relSlots ++ [(k.slotBase, k.params.slotCap)]
    relRd := p.relRd + (if k.recent.isEmpty then 0 else k.params.rdShare) }

/-- Flash and the write buffer without a collection. -/
def erased (id : Nat) (f : Flash) : Flash :=
  { f with
    units := f.units.filter fun u => u.coll != id
    fresh := f.fresh.filter fun u => u.coll != id
    wbuf := f.wbuf.filter fun r => r.coll != id
    after := f.after.filter fun r => r.coll != id }

theorem erased_units {id : Nat} {f : Flash} {u : Unit64} (h : u ∈ (erased id f).units) : u.coll ≠ id := by
  have := List.of_mem_filter h
  simpa using this

theorem erased_wbuf {id : Nat} {f : Flash} {r : WriteRec} (h : r ∈ (erased id f).wbuf) : r.coll ≠ id := by
  have := List.of_mem_filter h
  simpa using this

/-- The first half of a delete. -/
def storeReleased (s : State) (id : Nat) (k : Coll) : State := (s.modPools (freedBy k)).modFlash (erased id)

theorem modPools_modFlash (s : State) (f : Pools → Pools) (g : Flash → Flash) :
    ((s.modPools f).modFlash g).pools = f s.pools ∧ ((s.modPools f).modFlash g).flash = g s.flash := ⟨rfl, rfl⟩

/-- The second half: the collection leaves its table, its objects, its counts and its key with it. -/
def nameDropped (s : State) (id : Nat) : State :=
  let u := dropObjects s fun o => o.op == 0x20 && o.coll == id
  dropKey (dropCounts { u with colls := u.colls.del id } fun x => x.coll == id) id

theorem removeColl_eq (s : State) (id : Nat) (k : Coll) : removeColl s id k = nameDropped (storeReleased s id k) id := rfl

theorem nameDropped_drops (s : State) (id : Nat) : let t := nameDropped s id
    t.colls = s.colls.del id ∧ t.locket.keys = s.locket.keys.del id ∧ t.flash = s.flash ∧ t.pools = s.pools ∧
      t.queues.cmds = s.queues.cmds ∧ t.host = s.host := by
  unfold nameDropped
  extract_lets u
  have dropped : s.follows [.queues, .loader] u := dropObjects_follows (List.Subset.refl _) (State.follows_refl _ s)
  have cmds : u.queues.cmds = s.queues.cmds := by simp [u, dropObjects]
  have colls : u.colls = s.colls := dropped.frame .colls (by decide)
  have locket : u.locket = s.locket := dropped.frame .locket (by decide)
  clear_value u
  obtain ⟨frame, keys⟩ := dropKey_dropCounts { u with colls := u.colls.del id } (fun k => k.coll == id) id
  rw [← colls, ← locket, ← cmds]
  exact ⟨frame.frame .colls (by decide), keys, (frame.frame .flash (by decide)).trans (dropped.frame .flash (by decide)),
    (frame.frame .pools (by decide)).trans (dropped.frame .pools (by decide)),
    congrArg _ (frame.frame .queues (by decide)), (frame.frame .host (by decide)).trans (dropped.frame .host (by decide))⟩

theorem storeReleased_follows (s : State) (id : Nat) (k : Coll) : s.follows [.pools, .flash] (storeReleased s id k) :=
  modFlash_follows (by decide) (modPools_follows (by decide) (State.follows_refl _ s))

/-- What a delete leaves: the collection is gone from its table, the locket, flash and the write buffer, and its slots are kept
for the bead (R29, R185, R219). -/
theorem removeColl_removes (s : State) (id : Nat) (k : Coll) : let t := removeColl s id k
    t.colls = s.colls.del id ∧ t.locket.keys = s.locket.keys.del id ∧ (∀ u ∈ t.flash.units, u.coll ≠ id) ∧
      (∀ r ∈ t.flash.wbuf, r.coll ≠ id) ∧ (k.slotBase, k.params.slotCap) ∈ t.pools.relSlots := by
  rw [removeColl_eq]
  have frame := storeReleased_follows s id k
  have oldColls : (storeReleased s id k).colls = s.colls := frame.frame .colls (by decide)
  have oldLocket : (storeReleased s id k).locket = s.locket := frame.frame .locket (by decide)
  obtain ⟨colls, keys, flash, pools, -⟩ := nameDropped_drops (storeReleased s id k) id
  rw [oldColls] at colls
  rw [oldLocket] at keys
  obtain ⟨freed, kept⟩ := modPools_modFlash s (freedBy k) (erased id)
  refine ⟨colls, keys, fun u hu => ?_, fun r hr => ?_, ?_⟩
  · exact erased_units (f := s.flash) (by rwa [flash, storeReleased, kept] at hu)
  · exact erased_wbuf (f := s.flash) (by rwa [flash, storeReleased, kept] at hr)
  · rw [pools, storeReleased, freed]
    exact List.mem_append_right _ (List.mem_singleton.mpr rfl)

theorem removeColl_answerable {c : Cmd} (ask : s.answerable c) (id : Nat) (k : Coll) : (removeColl s id k).answerable c := by
  obtain ⟨found, live⟩ := ask.of_follows (storeReleased_follows s id k) (by decide) (by decide)
  rw [removeColl_eq]
  obtain ⟨-, -, -, -, cmds, host⟩ := nameDropped_drops (storeReleased s id k) id
  exact ⟨(findCmd_congr cmds ..).trans found, (live_congr host).mpr live⟩

end

section
variable {op : BitVec 8} {c : Capsule} {s : State}

theorem queued_cut : (queued op c s).time.cut = s.time.cut := by
  obtain ⟨h, q, l, n, e, eq⟩ := queued_eq op c s
  rw [eq]

theorem queued_search : (queued op c s).search = s.search := by
  obtain ⟨h, q, l, n, e, eq⟩ := queued_eq op c s
  rw [eq]

/-- What `decideDetach_leaves` says, told of the state the command was submitted in. -/
theorem submits_detach {isDelete : Bool} {k : Coll} (sub : submits op c s) (hk : getColl s c.coll.toNat = some k)
    (attached : isDelete = false → k.attached = true) (work : k.work = none) (alone : k.thenDelete = none)
    (body : c.body = []) :
    let t := decideDetach isDelete (queued op c s) (arrival op c s)
    getColl t c.coll.toNat = some (leaving k (refOf op c) isDelete (beadNow s)) ∧
      (s.time.cut = false → noReply s t ∧ t.search = s.search ∧
        (findCmd t c.queue.toNat c.tag.toNat).map Cmd.stage = some .running) := by
  obtain ⟨left, quiet⟩ := decideDetach_leaves (c := arrival op c s) (submits_found sub) ((queued_getColl _).trans hk) attached
    work alone body
  rw [queued_beadNow] at left
  rw [queued_cut, queued_search] at quiet
  refine ⟨left, fun cut => ?_⟩
  obtain ⟨silent, search, stage⟩ := quiet cut
  exact ⟨(noReply_of_out queued_out).trans silent, search, stage⟩

end

/-- Settles O31: the decision of a DETACH or a DELETE marks the collection as leaving and answers nothing before the cut
point; the end of its work answers the command, and after a delete nothing of the collection is left. -/
theorem collectionsEnd : Obligations.CollectionsEnd := by
  refine ⟨?_, ?_, ?_, ?_, ?_⟩
  · intro c s k sub hk attached work alone body
    exact completes_submits (d := decideDetach false) rfl sub (submits_detach sub hk (fun _ => attached) work alone body)
  · intro c s k sub hk work alone body
    exact completes_submits (d := decideDetach true) rfl sub (submits_detach sub hk nofun work alone body)
  · intro c s k r sub hk work alone body
    refine completes_submits (d := decideDetach true) rfl sub ?_
    rw [decideDetach_waits (c := arrival 0x82 c s) ((queued_getColl _).trans hk) work alone body]
    refine ⟨?_, congrArg (Option.map Cmd.stage) (findCmd_running (c := arrival 0x82 c s) (submits_found sub))⟩
    have stands := (getColl_of_follows (running_frame (queued 0x82 c s) (arrival 0x82 c s)) (by decide) _).trans
      ((queued_getColl c.coll.toNat).trans hk)
    exact (getColl_updColl ..).trans ((if_pos rfl).trans (congrArg (Option.map _) stands))
  · intro s id k m up hk work alone idle found live
    refine completes_workEnd up hk work alone idle ?_
    rw [if_neg nofun]
    have ended := workEnded_follows s id k
    have ask : s.answerable m := ⟨found, live⟩
    refine ⟨⟨_, (getColl_congr (by simp) id).trans (getColl_workEnded hk), rfl, rfl, rfl, rfl⟩, ?_, ?_⟩
    · have same : (workEnded s id k).locket = s.locket := ended.frame .locket (by decide)
      simp [same]
    · exact (ask.of_follows ended (by decide) (by decide)).ok _ []
  · intro s id k m up hk wf keysWf work alone idle found live
    refine completes_workEnd up hk work alone idle ?_
    rw [if_pos rfl]
    have ended := workEnded_follows s id k
    have ask : (workEnded s id k).answerable m := State.answerable.of_follows ⟨found, live⟩ ended (by decide) (by decide)
    obtain ⟨colls, keys, units, records, slots⟩ := removeColl_removes (workEnded s id k) id k
    obtain ⟨n, flash, pools⟩ := answer_stores (removeColl (workEnded s id k) id k) m.ref.queue m.ref.tag 0
      (areaPut 0 32 8 (beadNow s)) []
    have gone (x : Nat) : getColl (answer (removeColl (workEnded s id k) id k) m.ref.queue m.ref.tag 0
        (areaPut 0 32 8 (beadNow s)) []) x = ((workEnded s id k).colls.del id).get x := by
      rw [← colls]
      exact getColl_congr (by simp) x
    refine ⟨?_, ?_, fun x other => ?_, ?_, ?_, ?_, (removeColl_answerable ask id k).ok _ []⟩
    · rw [gone, workEnded_colls]
      exact Tab.get_del_same (Tab.wf_upd wf ..) id
    · have same : (workEnded s id k).locket = s.locket := ended.frame .locket (by decide)
      simp only [answer_frame, keys, same]
      exact Tab.get_del_same keysWf id
    · rw [gone, Tab.get_del_other _ other, workEnded_colls, Tab.get_upd, if_neg other]
      rfl
    · rw [flash]
      exact units
    · rw [flash]
      exact records
    · rw [pools]
      exact slots

end Sys2Proof.Machine

/-! Admission of SEARCH, SEARCH_RANGE and READ_ITEM (O43): the reservations they take, the snapshot they keep, and that nothing
replies yet (R49, R65, R105, R109, R188, R272, R273). -/

namespace Sys2Proof.Machine

/-! ## Messages on links are no replies -/

theorem noReply_ite {s a b : State} {p : Prop} [Decidable p] (ha : noReply s a) (hb : noReply s b) :
    noReply s (if p then a else b) := by
  split <;> assumption

theorem noReply_offerFlit (l : Nat) (s : State) (f : Flit) : noReply s (offerFlit l s f) :=
  noReply_ite (noReply_emit (s := updLink s l _) fun _ _ _ _ e => Out.noConfusion e) (noReply_of_out rfl)

theorem noReply_sendOn (s : State) (l buf : Nat) (h : MsgHdr) (b : MsgBody) : noReply s (sendOn s l buf h b) :=
  (noReply_emit fun _ _ _ _ e => Out.noConfusion e).trans (noReply_foldl (noReply_offerFlit l) _ _)

theorem noReply_forwardTo (s : State) (here t : Nat) (m : MsgHdr) (b : MsgBody) : noReply s (forwardTo s here t m b) := by
  have sent (l buf : Nat) (h : MsgHdr) : noReply s (sendOn s l buf h b) := noReply_sendOn s l buf h b
  unfold forwardTo
  split
  · exact noReply_refl s
  · refine noReply_ite (sent _ _ _) (noReply_ite (sent _ _ _) (noReply_ite (sent _ _ _) ?_))
    split
    · exact noReply_ite (sent _ _ _) (sent _ _ _)
    · exact sent _ _ _

theorem noReply_nextHop (s : State) (m : MsgHdr) (b : MsgBody) : noReply s (nextHop s m b) := by
  unfold nextHop
  refine noReply_ite ?_ (noReply_forwardTo s _ _ _ b)
  split
  · exact noReply_bump s _
  · exact (noReply_bump s _).trans (noReply_forwardTo _ _ _ _ b)

theorem noReply_passQuery (s : State) (t : TreeRec) (root : BitVec 20) (bead : Nat) (h : MsgHdr) (range : Bool) (c : Capsule) :
    noReply s (passQuery s t root bead h range c) := by
  unfold passQuery
  refine noReply.trans (noReply_ite ?_ ?_) (noReply_foldl (fun _ _ => noReply_nextHop _ _ _) _ _)
  · exact (noReply_ite (noReply_bump s _) (noReply_refl s)).trans (noReply_of_out rfl)
  · exact (noReply_ite (noReply_refl s) (noReply_bump s _)).trans (noReply_of_out rfl)

/-! ## The query as it is built -/

/-- Shortening a query's path keeps its identity, its snapshot and its stage (R109). -/
theorem shorten_keeps (b : Nat) (q : Query) : (shorten b q).qid = q.qid ∧ (shorten b q).ref = q.ref ∧ (shorten b q).coll = q.coll ∧
    (shorten b q).snap = q.snap ∧ (shorten b q).stage = q.stage := by
  unfold shorten
  dsimp only
  split_ifs <;> exact ⟨rfl, rfl, rfl, rfl, rfl⟩

/-- A query is built under the next id, admitted, with its snapshot (R105). -/
theorem buildQuery_keeps (s : State) (k : Coll) (ref : CmdRef) (isRoot : Bool) (got snap d : Nat) (root : BitVec 20)
    (serial : BitVec 32) (p : QParams) (b : QueryBody) : let q := buildQuery s k ref isRoot got snap d root serial p b
    q.qid = s.search.nextQid ∧ q.ref = ref ∧ q.coll = ref.coll ∧ q.snap = snap ∧ q.stage = .admitted := by
  unfold buildQuery
  exact shorten_keeps ..

/-! ## SEARCH and SEARCH_RANGE -/

/-- A query takes its place among the queries, with the next id and the next serial number (R105). -/
def seated (s : State) (q : Query) : State :=
  (s.modSearch fun r => { r with queries := r.queries ++ [q], nextQid := r.nextQid + 1 }).modSearch
    fun r => { r with serial := r.serial + 1 }

theorem seated_follows (s : State) (q : Query) : s.follows [.search] (seated s q) :=
  modSearch_follows (by decide) (modSearch_follows (by decide) (State.follows_refl _ s))

theorem seated_search (s : State) (q : Query) : (seated s q).search.queries = s.search.queries ++ [q] ∧
    (seated s q).search.nextQid = s.search.nextQid + 1 ∧ (seated s q).search.serial = s.search.serial + 1 := ⟨rfl, rfl, rfl⟩

/-- An admitted query: its mark in the queue, its command that runs, its reservations and its place among the queries. -/
def admitted (s : State) (c : Cmd) (q : Query) : State := seated (takeReservations (running (markRead s c) c) q.coll q) q

section
variable {s : State} {c : Cmd} {k : Coll}

/-- A search that nothing refuses enters, and on a tree it is passed on (R272). -/
theorem decideSearch_admits {range : Bool} {b : QueryBody} {q : Query} (open_ : admitStatus s = 0)
    (hk : getColl s c.ref.coll = some k) (attached : k.attached = true) (checks : searchChecks s k range c.cap = .ok b)
    (built : buildQuery s k c.ref true (beadNow s) (beadNow s) c.cap.deadline.toNat s.fabric.addr s.search.serial
      (queryParams range (groupProbe s k.att.pipeline) c.cap (emptyQuery b)) b = q) (fits : reserveBad s k q = none) :
    let t := decideSearch range s c
    (admitted s c q).follows [.out, .host, .events, .counters, .fabric] t ∧ noReply (admitted s c q) t := by
  have status : collStatus s c.ref.coll = 0 := by simp [collStatus, hk, attached]
  unfold decideSearch
  simp only [open_, status, hk, checks, bne_self_eq_false, Bool.false_eq_true, if_false, built, fits]
  split
  · split
    · exact ⟨State.follows_refl _ _, noReply_refl _⟩
    · exact ⟨passQuery_follows (List.Subset.refl _) (State.follows_refl _ _), noReply_passQuery _ _ _ _ _ _ _⟩
  · exact ⟨State.follows_refl _ _, noReply_refl _⟩

/-- A read command that runs: its mark stands in the queue, and it is counted as admitted. -/
theorem running_markRead_follows (s : State) (c : Cmd) :
    s.follows [.out, .host, .queues, .events, .counters] (running (markRead s c) c) :=
  running_follows (List.Subset.refl _) (markRead_follows (by decide) (State.follows_refl _ s))

theorem noReply_running_markRead (s : State) (c : Cmd) : noReply s (running (markRead s c) c) :=
  (noReply_of_out (t := markRead s c) rfl).trans (noReply_running _ c)

theorem findCmd_running_markRead (found : findCmd s c.ref.queue c.ref.tag = some c) :
    findCmd (running (markRead s c) c) c.ref.queue c.ref.tag = some { c with stage := .running } :=
  findCmd_running (s := markRead s c) found

/-- The reservations of a query count its buffers (R188) and touch collections and pools only. -/
theorem takeReservations_counts (s : State) (id : Nat) (q : Query) :
    (takeReservations s id q).pools.cand = s.pools.cand + q.candBytes ∧
      (takeReservations s id q).pools.gather = s.pools.gather + q.gatherBytes := ⟨rfl, rfl⟩

/-- What the admission of a query leaves (R105, R188, R272). -/
theorem admitted_enters (found : findCmd s c.ref.queue c.ref.tag = some c) (q : Query) : let t := admitted s c q
    t.search.queries = s.search.queries ++ [q] ∧ t.search.nextQid = s.search.nextQid + 1 ∧ t.search.serial = s.search.serial + 1 ∧
      t.pools.cand = s.pools.cand + q.candBytes ∧ t.pools.gather = s.pools.gather + q.gatherBytes ∧
      findCmd t c.ref.queue c.ref.tag = some { c with stage := .running } ∧ noReply s t := by
  have run := running_markRead_follows s c
  have reserved : (running (markRead s c) c).follows [.colls, .pools] (takeReservations (running (markRead s c) c) q.coll q) :=
    takeReservations_follows (List.Subset.refl _) (State.follows_refl _ _)
  have search : (takeReservations (running (markRead s c) c) q.coll q).search = s.search :=
    (reserved.frame .search (by decide)).trans (run.frame .search (by decide))
  have pools : (running (markRead s c) c).pools = s.pools := run.frame .pools (by decide)
  obtain ⟨cand, gather⟩ := takeReservations_counts (running (markRead s c) c) q.coll q
  have seat := seated_follows (takeReservations (running (markRead s c) c) q.coll q) q
  have out : (admitted s c q).out = (running (markRead s c) c).out := (seat.frame .out (by decide)).trans (reserved.frame .out (by decide))
  have queues : (admitted s c q).queues = (running (markRead s c) c).queues :=
    (seat.frame .queues (by decide)).trans (reserved.frame .queues (by decide))
  obtain ⟨queries, nextQid, serial⟩ := seated_search (takeReservations (running (markRead s c) c) q.coll q) q
  rw [search] at queries nextQid serial
  rw [← pools]
  refine ⟨queries, nextQid, serial, ?_, ?_, ?_, ?_⟩
  · exact (congrArg Pools.cand (seat.frame .pools (by decide))).trans cand
  · exact (congrArg Pools.gather (seat.frame .pools (by decide))).trans gather
  · exact (findCmd_congr (congrArg Queues.cmds queues) ..).trans (findCmd_running_markRead found)
  · exact (noReply_running_markRead s c).trans (noReply_of_out out)

/-! ## READ_ITEM -/

/-- A read takes its place among the reads (R273). -/
def readEntered (s : State) (c : Cmd) (r : ReadItem) : State :=
  (running (markRead s c) c).modSearch fun x => { x with reads := x.reads ++ [r] }

theorem readEntered_enters (found : findCmd s c.ref.queue c.ref.tag = some c) (r : ReadItem) :
    r ∈ (readEntered s c r).search.reads ∧
      (findCmd (readEntered s c r) c.ref.queue c.ref.tag).map Cmd.stage = some .running ∧ noReply s (readEntered s c r) := by
  have frame : (running (markRead s c) c).follows [.search] (readEntered s c r) :=
    modSearch_follows (List.Subset.refl _) (State.follows_refl _ _)
  have queues : (readEntered s c r).queues = (running (markRead s c) c).queues := frame.frame .queues (by decide)
  refine ⟨List.mem_append_right _ (List.mem_singleton.mpr rfl), ?_, ?_⟩
  · rw [findCmd_congr (congrArg Queues.cmds queues), findCmd_running_markRead found]
    rfl
  · exact (noReply_running_markRead s c).trans (noReply_of_out (frame.frame .out (by decide)))

/-- A READ_ITEM of an item that is there enters the reads: the checks before its item is looked up pass (R273). -/
theorem decideReadItem_eq (open_ : admitStatus s = 0) (hk : getColl s c.ref.coll = some k) (attached : k.attached = true)
    (deadline : 3 ≤ c.cap.deadline.toNat) (want : areaField c.cap.area 32 1 ≤ 15) (body : c.cap.body = []) {slot : Nat} {it : Item}
    (resolved : resolveAt k (BitVec.ofNat 64 (areaField c.cap.area 24 8)) (beadNow s) = some slot)
    (held : k.items.get slot = some it) :
    decideReadItem s c = readEntered s c ⟨c.ref, c.ref.coll, slot, beadNow s, beadNow s + c.cap.deadline.toNat - 1,
      BitVec.ofNat 4 (areaField c.cap.area 32 1),
      beadNow s + (if partOnFlash s c.ref.coll k slot (areaField c.cap.area 32 1) it then 3 else 2)⟩ := by
  have status : collStatus s c.ref.coll = 0 := by simp [collStatus, hk, attached]
  simp [decideReadItem, readEntered, open_, status, hk, Nat.not_lt.mpr deadline, Nat.not_lt.mpr want, body, resolved, held]

/-- A READ_ITEM whose id no visible item has is refused at once (R273). -/
theorem decideReadItem_absent (open_ : admitStatus s = 0) (hk : getColl s c.ref.coll = some k) (attached : k.attached = true)
    (deadline : 3 ≤ c.cap.deadline.toNat) (want : areaField c.cap.area 32 1 ≤ 15) (body : c.cap.body = [])
    (absent : resolveAt k (BitVec.ofNat 64 (areaField c.cap.area 24 8)) (beadNow s) = none) :
    decideReadItem s c = replyRefuse (countAdmit (markRead s c) c.ref.queue) c 0x0207 := by
  have status : collStatus s c.ref.coll = 0 := by simp [collStatus, hk, attached]
  simp [decideReadItem, open_, status, hk, Nat.not_lt.mpr deadline, Nat.not_lt.mpr want, body, absent]

theorem countAdmit_answerable (ask : s.answerable c) (q : Nat) : (countAdmit s q).answerable c := by
  obtain ⟨found, live⟩ := ask
  exact ⟨(findCmd_congr (countAdmit_cmds s q) ..).trans found, (live_countAdmit ..).mpr live⟩

end

section
variable {op : BitVec 8} {c : Capsule} {s : State}

theorem queued_admitStatus : admitStatus (queued op c s) = admitStatus s := by
  obtain ⟨h, q, l, n, e, eq⟩ := queued_eq op c s
  rw [eq]
  rfl

theorem queued_searchChecks (k : Coll) (range : Bool) : searchChecks (queued op c s) k range c = searchChecks s k range c := by
  obtain ⟨h, q, l, n, e, eq⟩ := queued_eq op c s
  rw [eq]
  rfl

theorem queued_groupProbe (n : Nat) : groupProbe (queued op c s) n = groupProbe s n := by
  obtain ⟨h, q, l, n, e, eq⟩ := queued_eq op c s
  rw [eq]
  rfl

theorem queued_pools : (queued op c s).pools = s.pools := by
  obtain ⟨h, q, l, n, e, eq⟩ := queued_eq op c s
  rw [eq]

theorem queued_fabric : (queued op c s).fabric = s.fabric := by
  obtain ⟨h, q, l, n, e, eq⟩ := queued_eq op c s
  rw [eq]

/-- A submitted search that nothing refuses is admitted (R272). -/
theorem submits_search {range : Bool} {k : Coll} {b : QueryBody} (sub : submits op c s) (open_ : admitStatus s = 0)
    (hk : getColl s c.coll.toNat = some k) (attached : k.attached = true) (checks : searchChecks s k range c = .ok b) :
    let s1 := queued op c s
    let p := queryParams range (groupProbe s k.att.pipeline) c (emptyQuery b)
    let q := buildQuery s1 k (refOf op c) true (beadNow s) (beadNow s) c.deadline.toNat s.fabric.addr s.search.serial p b
    reserveBad s1 k q = none → let t := decideSearch range s1 (arrival op c s)
      q ∈ t.search.queries ∧ q.qid = s.search.nextQid ∧ q.ref = refOf op c ∧ q.snap = beadNow s ∧ q.stage = .admitted ∧
      t.search.nextQid = s.search.nextQid + 1 ∧ t.search.serial = s.search.serial + 1 ∧
      t.pools.cand = s.pools.cand + q.candBytes ∧ t.pools.gather = s.pools.gather + q.gatherBytes ∧
      (findCmd t c.queue.toNat c.tag.toNat).map Cmd.stage = some .running ∧ noReply s t := by
  intro s1 p q fits t
  have search := queued_search (op := op) (c := c) (s := s)
  obtain ⟨qid, ref, -, snap, stage⟩ := buildQuery_keeps s1 k (refOf op c) true (beadNow s) (beadNow s) c.deadline.toNat
    s.fabric.addr s.search.serial p b
  have built : buildQuery s1 k (refOf op c) true (beadNow s1) (beadNow s1) c.deadline.toNat s1.fabric.addr s1.search.serial
      (queryParams range (groupProbe s1 k.att.pipeline) c (emptyQuery b)) b = q := by
    rw [queued_beadNow, queued_groupProbe, search, queued_fabric]
  obtain ⟨frame, quiet⟩ := decideSearch_admits (c := arrival op c s) (queued_admitStatus.trans open_)
    ((queued_getColl c.coll.toNat).trans hk) attached ((queued_searchChecks (op := op) k range).trans checks) built fits
  obtain ⟨queries, nextQid, serial, cand, gather, found, silent⟩ := admitted_enters (c := arrival op c s) (submits_found sub) q
  have sameSearch : t.search = (admitted s1 (arrival op c s) q).search := frame.frame .search (by decide)
  have samePools : t.pools = (admitted s1 (arrival op c s) q).pools := frame.frame .pools (by decide)
  have sameQueues : t.queues = (admitted s1 (arrival op c s) q).queues := frame.frame .queues (by decide)
  rw [sameSearch, samePools, queries, nextQid, serial, cand, gather, search, queued_pools]
  refine ⟨List.mem_append_right _ (List.mem_singleton.mpr rfl), ?_, ref, snap, stage, rfl, rfl, rfl, rfl, ?_, ?_⟩
  · rw [← search]
    exact qid
  · exact congrArg (Option.map Cmd.stage) ((findCmd_congr (congrArg Queues.cmds sameQueues) ..).trans found)
  · exact ((noReply_of_out queued_out).trans silent).trans quiet

end

/-- Settles O43: a search enters the queries with its reservations and a read enters the reads, each with the bead as its
snapshot; a read that finds no item is refused. -/
theorem readsAdmitted : Obligations.ReadsAdmitted := by
  refine ⟨?_, ?_⟩
  · intro range op i c s k b row sub open_ hk attached checks s1 p q fits
    have post := submits_search sub open_ hk attached checks fits
    simp only [List.mem_cons, Prod.mk.injEq, List.not_mem_nil, or_false] at row
    rcases row with ⟨rfl, rfl, rfl⟩ | ⟨rfl, rfl, rfl⟩
    · exact completes_submits (d := decideSearch false) rfl sub post
    · exact completes_submits (d := decideSearch true) rfl sub post
  · intro c s k sub open_ hk attached deadline want body id
    have opened := (queued_admitStatus (op := 0x03) (c := c)).trans open_
    have stands := (queued_getColl (op := 0x03) (c := c) c.coll.toNat).trans hk
    have bead := queued_beadNow (op := 0x03) (c := c) (s := s)
    refine ⟨fun slot it resolved held => ?_, fun absent => ?_⟩
    · refine completes_submits (d := decideReadItem) rfl sub ?_
      rw [decideReadItem_eq (c := arrival 0x03 c s) opened stands attached deadline want body (by rw [bead]; exact resolved) held, bead]
      obtain ⟨reads, stage, quiet⟩ := readEntered_enters (c := arrival 0x03 c s) (submits_found sub) _
      exact ⟨⟨_, reads, rfl, rfl, rfl, rfl, rfl, rfl, rfl⟩, stage, (noReply_of_out queued_out).trans quiet⟩
    · refine completes_submits (d := decideReadItem) rfl sub ?_
      rw [decideReadItem_absent (c := arrival 0x03 c s) opened stands attached deadline want body (by rw [bead]; exact absent)]
      have ask : (markRead (queued 0x03 c s) (arrival 0x03 c s)).answerable (arrival 0x03 c s) := submits_answerable sub
      have counted : (countAdmit (markRead (queued 0x03 c s) (arrival 0x03 c s)) (arrival 0x03 c s).ref.queue).search = s.search :=
        ((countAdmit_follows (List.Subset.refl _) (markRead_follows (by decide) (State.follows_refl _ _))).frame .search
          (by decide)).trans queued_search
      exact ⟨(countAdmit_answerable ask _).refused _, Eq.trans (by simp only [replyRefuse_frame]) counted⟩

end Sys2Proof.Machine

/-! Builds of merges and promotions that have ended (O55): the entries re-encoded, the signatures of the sample, and what an
abort leaves (R41, R43, R44, R149, R164, R165). -/

namespace Sys2Proof.Machine

/-! ## Signatures -/

/-- A fold that appends one signature a step keeps the signatures it has. -/
theorem foldl_prefix {α β : Type} {f : List Nat × β → α → List Nat × β} (grow : ∀ acc o, ∃ v, (f acc o).1 = acc.1 ++ [v])
    (os : List α) (acc : List Nat × β) : acc.1 <+: (os.foldl f acc).1 := by
  induction os generalizing acc with
  | nil => exact List.prefix_refl _
  | cons o os ih =>
    obtain ⟨v, hv⟩ := grow acc o
    exact (hv ▸ List.prefix_append acc.1 [v]).trans (ih (f acc o))

/-- Where such a fold finds a value it appends it, at the place of its step. -/
theorem foldl_given {β : Type} {f : List Nat × β → Option Nat → List Nat × β} (grow : ∀ acc o, ∃ v, (f acc o).1 = acc.1 ++ [v])
    (given : ∀ acc v, (f acc (some v)).1 = acc.1 ++ [v]) {os : List (Option Nat)} {acc : List Nat × β} {i v : Nat}
    (h : os[i]? = some (some v)) : (os.foldl f acc).1[acc.1.length + i]? = some v := by
  induction os generalizing acc i with
  | nil => simp at h
  | cons o os ih =>
    cases i with
    | zero =>
      obtain rfl : o = some v := by simpa using h
      have kept := foldl_prefix grow os (f acc (some v))
      rw [given] at kept
      exact List.prefix_iff_getElem?.mp kept acc.1.length (by simp) |>.trans (by simp)
    | succ i =>
      obtain ⟨w, hw⟩ := grow acc o
      have later := ih (acc := f acc o) (i := i) (by simpa using h)
      rw [hw, List.length_append, List.length_singleton] at later
      rwa [show acc.1.length + (i + 1) = acc.1.length + 1 + i by omega]

/-- A bucket that the sample reaches has the majority of its sketches as its signature (R149, R165). -/
theorem buildSignatures_majority {l buckets free b : Nat} {sample : List (Nat × Nat × Nat)} {xs : List Nat} (hb : b < buckets)
    (reached : xs ≠ []) (hxs : xs = (sample.filter fun x => x.1 == b).map fun x => x.2.2) :
    (buildSignatures l buckets free sample)[b]? = some (majority l xs) := by
  have sampled : sample.isEmpty = false := by
    cases sample with
    | nil => exact absurd hxs reached
    | cons x r => rfl
  unfold buildSignatures
  rw [if_neg (by simp [sampled])]
  dsimp only
  rw [← Nat.zero_add b]
  refine foldl_given (fun acc o => ?_) (fun acc v => rfl) ?_
  · cases o <;> exact ⟨_, rfl⟩
  · simp only [List.getElem?_map, List.getElem?_range hb, Option.map_some]
    rw [← hxs, if_neg (by simpa using reached)]

/-! ## MERGE_BUILD_COMPLETE -/

section
variable {s : State} {id : Nat} {c : Coll} {ord : List Nat}

/-- An aborted build ends the merge and its tasks (R43). -/
theorem mergeBuild_aborts {m : Merge} (up : s.power.phase = .up) (hc : getColl s id = some c) (attached : c.attached = true)
    (hm : c.merge = some m) (pending : m.built = false) : exec (.mergeBuildComplete id true ord) s =
      .next (endTasks (setColl s id (stopMerge c)) fun t => t.kind == .merge && t.coll == id) := by
  simp [exec, execMergeBuildComplete, hc, hm, isUp, up, attached, pending]

/-- The entries that a merge reads (R43). -/
def mergeEntries (c : Coll) (m : Merge) : List Entry :=
  ((c.side.filter fun x => x.taken && x.merged.isNone).map SideEntry.ent)
    ++ ((c.segs.filter fun g => m.segs.contains g.num).map Segment.entries).flatten

/-- A merge whose entries are read and re-encoded. -/
def mergeBuilt (c : Coll) (m : Merge) (ep : Epoch) (ord : List Nat) : Merge :=
  { m with built := true, items := (mergeEntries c m).map (mergeEntry c ep ord) }

/-- The encodes of a merge, counted under its epoch (R123, R150). -/
def mergeCounted (s : State) (id : Nat) (c : Coll) (m : Merge) (ep : Epoch) (ord : List Nat) : State :=
  (((mergeEntries c m).filter fun e => e.epoch != ep.num).filterMap fun e => (c.items.get e.slot).bind Item.vector).foldl
    (fun t v => countEpoch t id ep ord (storedNums c.params.vecFormat v)) s

/-- A build that ends well counts its encodes, and its merge waits for the edge (R44). -/
theorem mergeBuild_completes {m : Merge} {ep : Epoch} (up : s.power.phase = .up) (hc : getColl s id = some c)
    (attached : c.attached = true) (hm : c.merge = some m) (pending : m.built = false) (hep : epochOf c m.epoch = some ep) :
    exec (.mergeBuildComplete id false ord) s = .next (endTasks (setColl (mergeCounted s id c m ep ord) id
      { c with merge := some (mergeBuilt c m ep ord) }) fun t => t.kind == .merge && t.coll == id) := by
  simp only [exec, execMergeBuildComplete, hc, hm, isUp, up, attached, pending, hep]
  rfl

/-- Without a merge that is still to be built, or without its collection attached, the end of a build does nothing. -/
theorem mergeBuild_idle {a : Bool}
    (idle : ∀ c, getColl s id = some c → c.attached = false ∨ ∀ m, c.merge = some m → m.built = true) :
    exec (.mergeBuildComplete id a ord) s = .next s := by
  simp only [exec, execMergeBuildComplete]
  cases hc : getColl s id with
  | none => rfl
  | some c =>
    dsimp only
    cases hm : c.merge with
    | none => rfl
    | some m =>
      have skips : (!isUp s || !c.attached || m.built) = true := by
        rcases idle c hc with off | built
        · simp [off]
        · simp [built m hm]
      exact congrArg _ (if_pos skips)

/-! ## SIGNATURE_BUILD_COMPLETE -/

/-- The tasks of a promotion end with its build. -/
def promoEnded (s : State) (id : Nat) : State := endTasks s fun t => t.kind == .promote && t.coll == id

/-- An aborted build fails the promotion with ENCODE_ABORTED (R149). -/
theorem signatureBuild_aborts {p : Promotion} {old : Epoch} (up : s.power.phase = .up) (hc : getColl s id = some c)
    (hp : c.promo = some p) (newest : newestEpoch c = some old) (pending : p.built = false) :
    exec (.signatureBuildComplete id true ord) s =
      .next (refuse (updColl (promoEnded s id) id fun c => { c with promo := none }) p.ref.queue p.ref.tag 0x0301) := by
  simp only [exec, execSignatureBuildComplete, hc, hp, newest, isUp, up, pending]
  rfl

/-- The state in which signatures are written: free values are taken where there is no sample, and the encodes under the old
epoch are counted (R123, R150). -/
def sampleCounted (s : State) (id : Nat) (c : Coll) (old : Epoch) (pairs : List (List F32 × List F32)) (ord : List Nat)
    (sample : List (Nat × Nat × Nat)) : State :=
  let u := { promoEnded s id with free := s.free + if sample.isEmpty then c.params.buckets else 0 }
  if c.params.vecFormat = 0 then (samplePositives c pairs ord).foldl (fun t xs => countEpoch t id old ord xs) u else u

theorem getColl_sampleCounted (s : State) (id : Nat) (c : Coll) (old : Epoch) (pairs : List (List F32 × List F32))
    (ord : List Nat) (sample : List (Nat × Nat × Nat)) (x : Nat) :
    getColl (sampleCounted s id c old pairs ord sample) x = getColl s x := by
  unfold sampleCounted
  dsimp only
  split
  · exact getColl_of_follows (foldl_follows _ _ (fun _ _ h => countEpoch_follows (List.Subset.refl _) h) _ (State.follows_refl _ _))
      (by decide) x
  · rfl

/-- A build that ends well writes the signatures of its sample; the encodes of the sample are counted (R149, R164). -/
theorem signatureBuild_completes {p : Promotion} {old : Epoch} (up : s.power.phase = .up) (hc : getColl s id = some c)
    (hp : c.promo = some p) (newest : newestEpoch c = some old) (pending : p.built = false) :
    let pairs := (s.learn.runs.find? fun r => r.id == p.run).elim [] Run.pairs
    let sample := sampleOf c old p.enc p.admission pairs ord
    exec (.signatureBuildComplete id false ord) s = .next (updColl (sampleCounted s id c old pairs ord sample) id fun d =>
      { d with promo := some { p with
        enc := { p.enc with sigs := buildSignatures c.params.sketchBits c.params.buckets s.free sample }, built := true } }) := by
  simp only [exec, execSignatureBuildComplete, hc, hp, newest, isUp, up, pending]
  cases s.learn.runs.find? fun r => r.id == p.run <;> rfl

/-- Without a promotion that is still to be built the end of a build does nothing. -/
theorem signatureBuild_idle {a : Bool}
    (idle : ∀ c, getColl s id = some c → newestEpoch c = none ∨ ∀ p, c.promo = some p → p.built = true) :
    exec (.signatureBuildComplete id a ord) s = .next s := by
  simp only [exec, execSignatureBuildComplete]
  cases hc : getColl s id with
  | none => rfl
  | some c =>
    dsimp only
    cases hp : c.promo with
    | none => rfl
    | some p =>
      rcases idle c hc with none | built
      · simp only [none]
      · cases newestEpoch c with
        | none => rfl
        | some old => exact congrArg _ (if_pos (by simp [built p hp]))

end

/-- Settles O55: a build that has ended is written into its collection, an aborted one leaves none, and without one nothing
happens; signatures come from the sample bucket by bucket. -/
theorem buildsComplete : Obligations.BuildsComplete := by
  refine ⟨fun s id a ord => ⟨mergeBuild_idle, signatureBuild_idle⟩, ?_, ?_⟩
  · intro s id ord c m up hc attached hm pending
    refine ⟨⟨_, mergeBuild_aborts up hc attached hm pending, getColl_setColl_same .., ?_⟩, fun ep hep => ?_⟩
    · rintro k hk ⟨kind, coll⟩
      have other := List.of_mem_filter hk
      simp [kind, coll] at other
    · exact ⟨_, mergeBuild_completes up hc attached hm pending hep, getColl_setColl_same .., fun e same => if_pos same⟩
  · intro s id ord c p old up hc hp newest pending
    refine ⟨fun m found ref live => ⟨_, signatureBuild_aborts up hc hp newest pending, ?_, ?_⟩, ?_⟩
    · have asked : (updColl (promoEnded s id) id fun c => { c with promo := none }).answerable m :=
        State.answerable.of_follows ⟨by rw [ref]; exact found, by rw [ref]; exact live⟩
          (updColl_follows (T := [.streams, .colls]) (by decide) (endTasks_follows (by decide) (State.follows_refl _ s)))
          (by decide) (by decide)
      rw [← ref]
      exact asked.refused 0x0301
    · rw [getColl_congr (s := updColl (promoEnded s id) id fun c => { c with promo := none }) (by simp), getColl_updColl, if_pos rfl]
      exact congrArg _ (congrArg _ hc)
    · refine ⟨_, signatureBuild_completes up hc hp newest pending, ?_⟩
      dsimp only
      rw [getColl_updColl, if_pos rfl, getColl_sampleCounted, hc]
      exact ⟨_, rfl, fun b xs hb reached hxs => buildSignatures_majority hb reached hxs⟩

end Sys2Proof.Machine

/-! The stages of a query (O40): compaction, the repeats of code blocks, the passes over the candidate records and the merges
of the clasps, each as the next step of its query (R77, R84 to R86, R93, R109, R136, R311 to R313). -/

namespace Sys2Proof.Machine

/-! ## Queries by their id -/

theorem findQuery_congr {s t : State} (h : t.search = s.search) (id : Nat) : findQuery t id = findQuery s id := by
  unfold findQuery
  rw [h]

theorem findQuery_qid {s : State} {id : Nat} {q : Query} (h : findQuery s id = some q) : q.qid = id := by
  simpa using List.find?_some h

/-- A change that leaves a query its id is what its id finds. -/
theorem findQuery_updQuery {s : State} {id : Nat} {q : Query} {f : Query → Query} (h : findQuery s id = some q)
    (keeps : (f q).qid = q.qid) : findQuery (updQuery s id f) id = some (f q) := by
  have hq : q.qid = id := findQuery_qid h
  unfold findQuery updQuery at *
  dsimp only
  generalize s.search.queries = qs at h
  induction qs with
  | nil => cases h
  | cons x r ih =>
    by_cases hx : x.qid = id
    · obtain rfl : x = q := by simpa [hx] using h
      simp [hx, keeps]
    · simpa [hx] using ih (by simpa [hx] using h)

/-- A query that has left is found no more, whatever its tasks (R24, R185). -/
theorem findQuery_removeQuery (s : State) (q : Query) : findQuery (removeQuery s q) q.qid = none := by
  unfold removeQuery
  rw [findQuery_congr ((dropIdleTasks_follows (List.Subset.refl _) (State.follows_refl _ _)).frame .search (by decide))]
  simp [findQuery, State.modSearch, State.modPools]

/-! ## What a count leaves in the counters -/

theorem counterAt_setCounter (s : State) (a x : Nat) (c : EvCounter) :
    counterAt (setCounter s a c) x = if x = a then c else counterAt s x := Tab.getD_put ..

/-- An event counts nothing but its own loss. -/
theorem counterAt_raiseEvent (s : State) (code : BitVec 16) (args : List Byte) {x : Nat} (hx : x ≠ eventDropCnt) :
    counterAt (raiseEvent s code args) x = counterAt s x := by
  have logged : (logEvent s code args).2.counters = s.counters :=
    (logEvent_follows (List.Subset.refl _) (State.follows_refl _ s)).frame .counters (by decide)
  have same : counterAt (logEvent s code args).2 x = counterAt s x := by unfold counterAt; rw [logged]
  unfold raiseEvent
  dsimp only
  split
  · exact same
  · exact (counterAt_setCounter ..).trans ((if_neg hx).trans same)

/-- A count goes to the counter it names (R350). -/
theorem counterAt_bumpN (s : State) (a x : Nat) {n : Nat} (hn : n ≠ 0) (hx : x ≠ eventDropCnt) :
    counterAt (bumpN s a n) x = if x = a then (countUp (counterAt s a) n).2 else counterAt s x := by
  unfold bumpN
  rw [if_neg hn]
  dsimp only
  split
  · exact (counterAt_raiseEvent _ _ _ hx).trans (counterAt_setCounter ..)
  · exact counterAt_setCounter ..

theorem counterAt_bumpN_other (s : State) (n : Nat) {a x : Nat} (hx : x ≠ eventDropCnt) (other : x ≠ a) :
    counterAt (bumpN s a n) x = counterAt s x := by
  by_cases hn : n = 0
  · subst hn; rfl
  · rw [counterAt_bumpN s a x hn hx, if_neg other]

/-! ## What routing reads

A message leaves by the links as they stand and by the setting in force: states that agree in both send it alike (R301). -/

theorem expressOf_congr {s t : State} (loader : t.loader = s.loader) (i : Nat) : expressOf t i = expressOf s i := by
  unfold expressOf
  rw [loader]

section
variable {s t : State} (fabric : t.fabric = s.fabric)
include fabric

theorem getLink_congr (l : Nat) : getLink t l = getLink s l := by
  unfold getLink
  rw [fabric]

theorem linkUp_congr (l : Nat) : linkUp t l = linkUp s l := by
  unfold linkUp
  rw [getLink_congr fabric]

theorem lenOf_congr (d : Nat) : lenOf t d = lenOf s d := by
  unfold lenOf
  rw [fabric]

theorem stepDim_congr (a d : Nat) (plus : Bool) : stepDim t a d plus = stepDim s a d plus := by
  unfold stepDim
  rw [lenOf_congr fabric]

theorem dirPlus_congr (h d rev x : Nat) : dirPlus t h x d rev = dirPlus s h x d rev := by
  unfold dirPlus
  rw [lenOf_congr fabric]

theorem dimOrderLink_congr (h x rev : Nat) : dimOrderLink t h x rev = dimOrderLink s h x rev := by
  simp only [dimOrderLink, dirPlus_congr fabric]

theorem faulty_congr (h l far : Nat) : faulty t h l far = faulty s h l far := by
  unfold faulty
  rw [fabric]

theorem blockedN_congr (rev n h x : Nat) : blockedN t rev n h x = blockedN s rev n h x := by
  induction n generalizing rev h with
  | zero => rfl
  | succ n ih => simp only [blockedN, ih, dirPlus_congr fabric, stepDim_congr fabric, faulty_congr fabric]

theorem blocked_congr (h x rev : Nat) : blocked t h x rev = blocked s h x rev := blockedN_congr fabric rev 80 h x

theorem firstUp_congr (h x rev : Nat) : firstUp t h x rev = firstUp s h x rev := by
  simp only [firstUp, dimOrderLink_congr fabric, linkUp_congr fabric]

theorem escapeBuf_congr (src h d : Nat) (plus : Bool) : escapeBuf t src h d plus = escapeBuf s src h d plus := by
  unfold escapeBuf
  rw [lenOf_congr fabric]

theorem adaptiveOk_congr (l cls : Nat) : adaptiveOk t l cls = adaptiveOk s l cls := by
  unfold adaptiveOk
  rw [getLink_congr fabric]

theorem torusDist_congr (a b : Nat) : torusDist t a b = torusDist s a b := by
  simp only [torusDist, lenOf_congr fabric]

theorem sendFlit_fabric_congr (l : Nat) (f : Flit) : (sendFlit t l f).fabric = (sendFlit s l f).fabric := by
  simp only [sendFlit, emit, updLink, State.modFabric, getLink_congr fabric, fabric]

theorem offerFlit_fabric_congr (l : Nat) (f : Flit) : (offerFlit l t f).fabric = (offerFlit l s f).fabric := by
  simp only [offerFlit, apply_ite State.fabric, sendFlit_fabric_congr fabric, updLink, State.modFabric, getLink_congr fabric, fabric]

/-- A message changes the links by its flits alone. -/
theorem sendOn_fabric_congr (l buf : Nat) (h : MsgHdr) (b : MsgBody) : (sendOn t l buf h b).fabric = (sendOn s l buf h b).fabric := by
  unfold sendOn
  have start : (emit t (.msg l h b)).fabric = (emit s (.msg l h b)).fabric := fabric
  generalize emit t (.msg l h b) = t' at *
  generalize emit s (.msg l h b) = s' at *
  induction flitsOf b.cls buf b.bytes generalizing t' s' with
  | nil => exact start
  | cons f fs ih => exact ih _ _ (offerFlit_fabric_congr start l f)

section
variable (loader : t.loader = s.loader)
include loader

theorem farEnd_congr (l : Nat) : farEnd t l = farEnd s l := by
  simp only [farEnd, lenOf_congr fabric, stepDim_congr fabric, expressOf_congr loader, fabric]

theorem minimalLinks_congr (h x : Nat) : minimalLinks t h x = minimalLinks s h x := by
  simp only [minimalLinks, linkUp_congr fabric, farEnd_congr fabric loader, torusDist_congr fabric]

theorem chooseWaypoint_congr (h x : Nat) (m : MsgHdr) : chooseWaypoint t h x m = chooseWaypoint s h x m := by
  simp only [chooseWaypoint, blocked_congr fabric, firstUp_congr fabric, lenOf_congr fabric, stepDim_congr fabric,
    linkUp_congr fabric, expressOf_congr loader, fabric]

theorem forwardTo_fabric_congr (h x : Nat) (m : MsgHdr) (b : MsgBody) :
    (forwardTo t h x m b).fabric = (forwardTo s h x m b).fabric := by
  unfold forwardTo
  cases firstDim h x with
  | none => exact fabric
  | some d =>
    simp only [dirPlus_congr fabric, expressOf_congr loader, linkUp_congr fabric, adaptiveOk_congr fabric,
      minimalLinks_congr fabric loader, escapeBuf_congr fabric, apply_ite State.fabric, sendOn_fabric_congr fabric]
    cases (minimalLinks s h x).find? fun k => adaptiveOk s k b.cls with
    | none => simp only [sendOn_fabric_congr fabric]
    | some k => simp only [apply_ite State.fabric, sendOn_fabric_congr fabric]

/-- What a message does to the links. -/
theorem nextHop_fabric_congr (m : MsgHdr) (b : MsgBody) : (nextHop t m b).fabric = (nextHop s m b).fabric := by
  have counted (x : Nat) : (bump t x).fabric = (bump s x).fabric ∧ (bump t x).loader = (bump s x).loader := by simp [fabric, loader]
  simp only [nextHop, fabric, dimOrderLink_congr fabric, linkUp_congr fabric, blocked_congr fabric,
    chooseWaypoint_congr fabric loader, apply_ite State.fabric, forwardTo_fabric_congr fabric loader]
  refine congrArg (ite _ · _) ?_
  split
  · exact (counted _).1
  · exact forwardTo_fabric_congr (counted _).1 (counted _).2 _ _ _ _

end

end

/-! ## COMPACTION, HALF_SCALE_REPEAT and REPEATED_PASS -/

theorem compact_qid (q : Query) : (compact q).1.qid = q.qid := by
  unfold compact
  dsimp only
  split
  · split <;> rfl
  · rfl

section
variable {s : State} {qid : Nat} {q : Query} (hq : findQuery s qid = some q)
include hq

/-- A full buffer is compacted and the compaction counted (R85). -/
theorem compactQuery_compacts : findQuery (compactQuery s qid) qid = some (compact q).1 ∧
    (counterAt (compactQuery s qid) compactCnt).val = min (2 ^ 48 - 1) ((counterAt s compactCnt).val + 1) := by
  unfold compactQuery
  simp only [hq]
  constructor
  · rw [findQuery_congr (s := updQuery s qid fun _ => (compact q).1) (by simp)]
    exact findQuery_updQuery hq (compact_qid q)
  · rw [counterAt_bumpN_other _ _ (by decide) (by decide), bump, counterAt_bumpN _ _ _ (by decide) (by decide), if_pos rfl]
    rfl

theorem compaction_full (up : s.power.phase = .up) (full : bufferFull q = true) :
    exec (.compaction qid) s = .next (compactQuery s qid) := by
  simp [exec, execCompaction, hq, isUp, up, full]

theorem compaction_idle (free : bufferFull q = false) : exec (.compaction qid) s = .next s := by
  simp [exec, execCompaction, hq, free]

/-- A block is repeated one halving further, and with FP16 tables after two (R136). -/
theorem halfScaleRepeat_scores {r : Repeat} {rest : List Repeat} {c : Coll} (up : s.power.phase = .up) (reps : q.reps = r :: rest)
    (scanning : q.stage = .scanning) (hc : getColl s q.coll = some c) (ord : List Nat) : exec (.halfScaleRepeat qid ord) s =
      .next (scoreBlock c r.seg r.facet (r.halvings + 1) ord
        (updQuery (bump s (if r.halvings < 2 then adcHalfCnt r.facet else adcFp16Cnt r.facet)) qid fun q => { q with reps := rest })
        qid r.entries) := by
  simp [exec, execHalfScaleRepeat, hq, reps, hc, isUp, up, scanning]

/-- Without a block that overflowed, or once the scan is over, nothing is repeated. -/
theorem halfScaleRepeat_idle (idle : q.reps = [] ∨ q.stage ≠ .scanning) (ord : List Nat) :
    exec (.halfScaleRepeat qid ord) s = .next s := by
  simp only [exec, execHalfScaleRepeat, hq]
  rcases idle with none | ended
  · rw [none]
  · cases q.reps with
    | nil => rfl
    | cons r rest => cases getColl s q.coll <;> simp [ended]

theorem repeatedPass_emits (open_ : passOpen s q = true) (more : q.exhausted = false) :
    exec (.repeatedPass qid) s = .next (updQuery s qid fun _ => onePass q) := by
  simp [exec, execRepeatedPass, hq, open_, more]

theorem repeatedPass_ends (open_ : passOpen s q = true) (last : q.exhausted = true) : exec (.repeatedPass qid) s =
    .next (advance (drawOrd s).2 (endPasses true q).1 (endPasses true q).2 (drawOrd s).1) := by
  simp [exec, execRepeatedPass, hq, open_, last]

theorem repeatedPass_waits (closed : passOpen s q = false) : exec (.repeatedPass qid) s = .next s := by
  simp [exec, execRepeatedPass, hq, closed]

end

theorem passOpen_false {s : State} {q : Query} (h : q.stage ≠ .scanning ∨ q.p.passes = false ∨ scanOver q = false ∨
    beadNow s < mergeBead q ∨ s.search.claspOut = true) : passOpen s q = false := by
  rcases h with h | h | h | h | h <;> simp [passOpen, h]

/-! ## CLASP_MERGE_START -/

section
variable {s : State} {qid : Nat} {q : Query} (hq : findQuery s qid = some q) (ties : List Nat)
include hq

theorem claspMergeStart_out (st : ClaspStage) (out : s.search.claspOut = true) : exec (.claspMergeStart qid st ties) s = .next s := by
  simp [exec, execClaspMergeStart, hq, out]

section
variable (up : s.power.phase = .up) (in_ : s.search.claspOut = false)
include up in_

theorem claspMergeStart_die_merges {d : Nat} (ready : listReady q = true) (bead : mergeBead q ≤ beadNow s)
    (held : (q.parts.any fun x => x.facet / 17 == d) = true) : exec (.claspMergeStart qid (.die d) ties) s =
      .next (bumpN (updQuery s qid fun _ => (dieMerge d q).1) dedupCnt (dieMerge d q).2) := by
  simp only [exec, execClaspMergeStart, hq, isUp, up, in_, ready, bead, held]
  rfl

theorem claspMergeStart_die_waits {d : Nat}
    (idle : listReady q = false ∨ beadNow s < mergeBead q ∨ (q.parts.any fun x => x.facet / 17 == d) = false) :
    exec (.claspMergeStart qid (.die d) ties) s = .next s := by
  have idle : (listReady q && decide (mergeBead q ≤ beadNow s) && q.parts.any fun x => x.facet / 17 == d) = false := by
    rcases idle with h | h | h
    · rw [h, Bool.false_and, Bool.false_and]
    · rw [decide_eq_false (Nat.not_le.mpr h), Bool.and_false, Bool.false_and]
    · rw [h, Bool.and_false]
  simp only [exec, execClaspMergeStart, hq, isUp, up, in_, idle]
  rfl

/-- The module clasp, by its bead: the die lists while a stage collects them, then what the later stages left (R77, R93). -/
theorem claspMergeStart_module : exec (.claspMergeStart qid .module ties) s =
    .next (if beadNow s < mergeBead q then s
      else if listReady q && q.parts.isEmpty then advance s (moduleMerge q).1 (moduleMerge q).2 ties
      else if (q.stage == .reranking && fetchOver q) || q.stage == .ready then advance s q 0 ties else s) := by
  simp [exec, execClaspMergeStart, hq, isUp, up, in_]

theorem claspMergeStart_module_early (early : beadNow s < mergeBead q) : exec (.claspMergeStart qid .module ties) s = .next s := by
  rw [claspMergeStart_module hq ties up in_, if_pos early]

theorem claspMergeStart_module_merges (bead : mergeBead q ≤ beadNow s) (ready : listReady q = true) (parts : q.parts = []) :
    exec (.claspMergeStart qid .module ties) s = .next (advance s (moduleMerge q).1 (moduleMerge q).2 ties) := by
  rw [claspMergeStart_module hq ties up in_, if_neg (by omega), if_pos (by simp [ready, parts])]

theorem claspMergeStart_module_moves_on (bead : mergeBead q ≤ beadNow s)
    (later : (q.stage = .reranking ∧ fetchOver q = true) ∨ q.stage = .ready) :
    exec (.claspMergeStart qid .module ties) s = .next (advance s q 0 ties) := by
  have collected : listReady q = false := by rcases later with ⟨h, -⟩ | h <;> simp [listReady, h]
  rw [claspMergeStart_module hq ties up in_, if_neg (by omega), if_neg (by simp [collected]), if_pos (by simpa using later)]

theorem claspMergeStart_fabric (clasping : q.stage = .clasping) (kids : q.kids ≠ []) :
    exec (.claspMergeStart qid .fabric ties) s = .next (if fabricReady s q then finishStage s qid ties else s) := by
  simp [exec, execClaspMergeStart, hq, isUp, up, in_, clasping, kids]

end

end

/-! ## The end of the fabric stage -/

/-- A query whose gather was dropped for its deadline returns its entries without their rows (R110). -/
def Query.withoutRows (q : Query) : Query :=
  if q.p.payload && q.dropGather then { q with final := q.final.map fun e => { e with payMissing := true } } else q

/-- Leaving out the rows changes the entries alone. -/
theorem Query.withoutRows_eq (q : Query) : ∃ es, q.withoutRows = { q with final := es } := by
  unfold withoutRows
  split <;> exact ⟨_, rfl⟩

section
variable {s : State} {qid : Nat} {q : Query} (hq : findQuery s qid = some q) (ties : List Nat)
include hq

theorem finishStage_eq : finishStage s qid ties =
    let x := q.withoutRows
    let b := foldLists s x ties
    let s1 := bumpN s dedupCnt b.2
    if x.local_ then
      let gathers := x.p.payload && !x.dropGather && b.1.entries.any fun e => !e.payMissing
      updQuery s1 qid fun _ => { x with folded := some b.1, stage := if gathers then .selecting else .done }
    else
      removeQuery (nextHop s1 (queryHdr s1 (addrAt x.members (parentOf x.fan x.pos)) 2 2 x.root x.serial x.tree) (.list b.1)) x := by
  unfold finishStage
  rw [hq]
  rfl

/-- The root keeps the folded list for the gather and the reply (R311). -/
theorem finishStage_root (root : q.local_ = true) :
    let b := (foldLists s q.withoutRows ties).1
    let gathers := q.p.payload && !q.dropGather && b.entries.any fun e => !e.payMissing
    findQuery (finishStage s qid ties) qid =
      some { q.withoutRows with folded := some b, stage := if gathers then .selecting else .done } := by
  obtain ⟨es, he⟩ := q.withoutRows_eq
  rw [finishStage_eq hq, he]
  dsimp only
  rw [if_pos root]
  exact findQuery_updQuery ((findQuery_congr (by simp) qid).trans hq) rfl

/-- Another member sends the folded list to its parent, and the query leaves the module (R311). -/
theorem finishStage_member (member : q.local_ = false) :
    findQuery (finishStage s qid ties) qid = none ∧ (finishStage s qid ties).fabric =
      (nextHop s (queryHdr s (addrAt q.members (parentOf q.fan q.pos)) 2 2 q.root q.serial q.tree)
        (.list (foldLists s q.withoutRows ties).1)).fabric := by
  obtain ⟨es, he⟩ := q.withoutRows_eq
  rw [finishStage_eq hq, he]
  dsimp only
  rw [if_neg (by simp [member])]
  have removed (u : State) (x : Query) : (removeQuery u x).fabric = u.fabric :=
    (removeQuery_follows (List.Subset.refl _) (State.follows_refl _ u)).frame .fabric (by decide)
  have header (n : Nat) (dest : BitVec 20) : queryHdr (bumpN s dedupCnt n) dest 2 2 q.root q.serial q.tree =
      queryHdr s dest 2 2 q.root q.serial q.tree := by simp [queryHdr, mkHdr, beadNow, periodNs]
  constructor
  · rw [← findQuery_qid hq]
    exact findQuery_removeQuery _ { q with final := es }
  · rw [removed, header]
    exact nextHop_fabric_congr (by simp) (by simp) _ _

end

/-! ## The obligation -/

/-- Settles O40: each command by its own rule, on the query that its id finds. -/
theorem queryStagesAdvance : Obligations.QueryStagesAdvance := by
  unfold Obligations.QueryStagesAdvance
  intro s qid q up hq
  refine ⟨fun full => ?_, fun free => ?_, fun ord => ⟨fun r rest c reps scanning hc => ?_, fun idle => ?_⟩,
    fun open_ => ⟨fun more => ?_, fun last => ?_⟩, fun closed => ?_, fun st ties out => ?_, fun d ties in_ => ⟨?_, ?_⟩,
    fun ties in_ => ⟨fun early => ?_, fun bead => ⟨fun ready parts => ?_, fun later => ?_⟩⟩,
    fun ties in_ clasping kids => ⟨fun waits => ?_, fun ready => ?_⟩⟩
  · exact ⟨_, compaction_full hq up full, compactQuery_compacts hq⟩
  · exact compaction_idle hq free
  · exact halfScaleRepeat_scores hq up reps scanning hc ord
  · exact halfScaleRepeat_idle hq idle ord
  · exact ⟨_, repeatedPass_emits hq open_ more, findQuery_updQuery hq rfl⟩
  · exact repeatedPass_ends hq open_ last
  · exact repeatedPass_waits hq (passOpen_false closed)
  · exact claspMergeStart_out hq ties st out
  · intro ready bead held
    exact ⟨_, claspMergeStart_die_merges hq ties up in_ ready bead held,
      (findQuery_congr (s := updQuery s qid fun _ => (dieMerge d q).1) (by simp) qid).trans (findQuery_updQuery hq rfl)⟩
  · exact claspMergeStart_die_waits hq ties up in_
  · exact claspMergeStart_module_early hq ties up in_ early
  · exact claspMergeStart_module_merges hq ties up in_ bead ready parts
  · exact claspMergeStart_module_moves_on hq ties up in_ bead later
  · rw [claspMergeStart_fabric hq ties up in_ clasping kids, if_neg (by simp [waits])]
  · refine ⟨finishStage s qid ties, ?_, finishStage_member hq ties, finishStage_root hq ties⟩
    rw [claspMergeStart_fabric hq ties up in_ clasping kids, if_pos ready]

end Sys2Proof.Machine

/-! The merges of the stages (O41): the first entry of each item id in the order of distance, module and slot, cut to the
length of the stage (R81, R87 to R89, R93). -/

namespace Sys2Proof.Machine

/-! ## The orders of entries -/

theorem keyLt_iff {a b : Int × Nat} : keyLt a b = true ↔ a.1 < b.1 ∨ a.1 = b.1 ∧ a.2 < b.2 := by simp [keyLt]

/-- Entries stand by distance, then item id, module and slot (R81, R87). -/
theorem Scored.le_iff {a b : Scored} : a.le b = true ↔ f32Key a.dist < f32Key b.dist ∨ f32Key a.dist = f32Key b.dist ∧
    (a.itemId.toNat < b.itemId.toNat ∨ a.itemId = b.itemId ∧
      (a.module.toNat < b.module.toNat ∨ a.module = b.module ∧ a.slot ≤ b.slot)) := by
  simp [Scored.le, keyLt_iff, Scored.key, ← BitVec.toNat_inj, and_assoc, and_or_left, or_assoc]

theorem Scored.le_total (a b : Scored) : a.le b = true ∨ b.le a = true := by
  simp only [Scored.le_iff, ← BitVec.toNat_inj]
  omega

theorem Scored.le_trans (a b c : Scored) (ab : a.le b = true) (bc : b.le c = true) : a.le c = true := by
  simp only [Scored.le_iff, ← BitVec.toNat_inj] at *
  omega

theorem Scored.dist_le {a b : Scored} (h : a.le b = true) : f32Key a.dist ≤ f32Key b.dist := by
  rw [Scored.le_iff] at h
  omega

theorem Scored.keyLt_of_le {a b : Scored} (h : a.le b = true) (ne : a.itemId ≠ b.itemId) : keyLt a.key b.key = true := by
  simp only [Scored.le_iff, ne, false_and, or_false] at h
  exact keyLt_iff.mpr h

/-- The final stage orders by distance, then as the free order says, then by item id (R89). -/
theorem tieLe_iff {ties : List Nat} {a b : Scored} : tieLe ties a b = true ↔ f32Key a.dist < f32Key b.dist ∨
    f32Key a.dist = f32Key b.dist ∧ (ties.idxOf a.slot < ties.idxOf b.slot ∨
      ties.idxOf a.slot = ties.idxOf b.slot ∧ a.itemId.toNat ≤ b.itemId.toNat) := by
  unfold tieLe
  split
  · next same => simp [same]
  · next other => simp [other]

theorem tieLe_total (ties : List Nat) (a b : Scored) : tieLe ties a b = true ∨ tieLe ties b a = true := by
  simp only [tieLe_iff]
  omega

theorem tieLe_trans (ties : List Nat) (a b c : Scored) (ab : tieLe ties a b = true) (bc : tieLe ties b c = true) :
    tieLe ties a c = true := by
  rw [tieLe_iff] at *
  omega

theorem dist_le_of_tieLe {ties : List Nat} {a b : Scored} (h : tieLe ties a b = true) : f32Key a.dist ≤ f32Key b.dist := by
  rw [tieLe_iff] at h
  omega

/-! ## Deduplication -/

theorem nodup_eraseDups {α : Type} [BEq α] [LawfulBEq α] (xs : List α) : xs.eraseDups.Nodup := by
  match xs with
  | [] => exact List.nodup_nil
  | x :: r =>
    have shorter : (r.filter fun b => !b == x).length ≤ r.length := List.length_filter_le _ _
    rw [List.eraseDups_cons, List.nodup_cons]
    exact ⟨by simp [List.mem_eraseDups], nodup_eraseDups _⟩
termination_by xs.length

/-- Lists with the same elements have as many different ones. -/
theorem length_eraseDups_of_perm {α : Type} [BEq α] [LawfulBEq α] {xs ys : List α} (h : xs.Perm ys) :
    xs.eraseDups.length = ys.eraseDups.length :=
  ((List.perm_ext_iff_of_nodup (nodup_eraseDups xs) (nodup_eraseDups ys)).mpr fun x => by
    rw [List.mem_eraseDups, List.mem_eraseDups, h.mem_iff]).length_eq

/-- The item ids of the first entries are the item ids, each once. -/
theorem firstOfEach_itemIds (seen es : List Scored) : (firstOfEach seen es).map Scored.itemId =
    List.eraseDupsBy.loop (· == ·) (es.map Scored.itemId) (seen.map Scored.itemId) := by
  induction es generalizing seen with
  | nil => exact List.map_reverse
  | cons e r ih =>
    have again : (seen.map Scored.itemId).any (e.itemId == ·) = seen.any fun x => x.itemId == e.itemId := by
      simp [List.any_map, Function.comp_def, Bool.beq_comm (a := e.itemId)]
    rw [firstOfEach, List.map_cons, List.eraseDupsBy.loop, again]
    cases seen.any fun x => x.itemId == e.itemId with
    | true => exact ih seen
    | false => exact ih (e :: seen)

theorem firstOfEach_sublist (seen es : List Scored) : (firstOfEach seen es).Sublist (seen.reverse ++ es) := by
  induction es generalizing seen with
  | nil => simp [firstOfEach]
  | cons e r ih =>
    rw [firstOfEach]
    split
    · exact (ih seen).trans ((List.sublist_cons_self e r).append_left _)
    · simpa using ih (e :: seen)

/-- Of a list in order, every entry has one that is kept for its item id and stands no later. -/
theorem exists_firstOfEach {seen es : List Scored} (order : (seen.reverse ++ es).Pairwise fun a b => a.le b = true)
    {x : Scored} (hx : x ∈ seen.reverse ++ es) : ∃ d ∈ firstOfEach seen es, d.itemId = x.itemId ∧ d.le x = true := by
  induction es generalizing seen x with
  | nil => exact ⟨x, by simpa [firstOfEach] using hx, rfl, (x.le_total x).elim id id⟩
  | cons e r ih =>
    rw [firstOfEach]
    split
    · next again =>
      obtain ⟨y, hy, same⟩ : ∃ y ∈ seen, y.itemId = e.itemId := by simpa using again
      have rest {x} := ih (x := x) (order.sublist ((List.sublist_cons_self e r).append_left _))
      by_cases hxe : x = e
      · obtain ⟨d, hd, id_, before⟩ := rest (List.mem_append_left _ (List.mem_reverse.mpr hy))
        have ye : y.le e = true := (List.pairwise_append.mp order).2.2 y (List.mem_reverse.mpr hy) e List.mem_cons_self
        exact ⟨d, hd, by rw [id_, same, hxe], hxe ▸ d.le_trans y e before ye⟩
      · exact rest (by simpa [hxe] using hx)
    · exact ih (by simpa using order) (by simpa using hx)

section
variable (es : List Scored)

theorem sorted_scored : (sortBy Scored.le es).Pairwise fun a b => a.le b = true :=
  sortBy_pairwise Scored.le_total Scored.le_trans es

theorem dedupe_sublist : (dedupe es).Sublist (sortBy Scored.le es) := firstOfEach_sublist [] _

theorem dedupe_pairwise : (dedupe es).Pairwise fun a b => a.le b = true := (sorted_scored es).sublist (dedupe_sublist es)

theorem dedupe_itemIds : (dedupe es).map Scored.itemId = ((sortBy Scored.le es).map Scored.itemId).eraseDups :=
  firstOfEach_itemIds [] _

theorem nodup_dedupe : ((dedupe es).map Scored.itemId).Nodup := dedupe_itemIds es ▸ nodup_eraseDups _

theorem length_dedupe : (dedupe es).length = (es.map Scored.itemId).eraseDups.length := by
  rw [← List.length_map (f := Scored.itemId), dedupe_itemIds]
  exact length_eraseDups_of_perm ((sortBy_perm Scored.le es).map _)

theorem exists_dedupe {x : Scored} (hx : x ∈ es) : ∃ d ∈ dedupe es, d.itemId = x.itemId ∧ d.le x = true :=
  exists_firstOfEach (sorted_scored es) ((mem_sortBy Scored.le es x).mpr hx)

end

/-- What deduplication keeps for an item id stands before every entry with that id (R88). -/
theorem dedupe_first {es : List Scored} {e : Scored} (he : e ∈ dedupe es) :
    e ∈ es ∧ ∀ x ∈ es, x.itemId = e.itemId → e.le x = true := by
  refine ⟨(mem_sortBy Scored.le es e).mp ((dedupe_sublist es).subset he), fun x hx same => ?_⟩
  obtain ⟨d, hd, id_, before⟩ := exists_dedupe es hx
  exact List.inj_on_of_nodup_map (nodup_dedupe es) hd he (id_.trans same) ▸ before

/-! ## A list cut to the length of its stage -/

section
variable {all ds : List Scored} (perm : ds.Perm (dedupe all))
include perm

theorem length_take_dedupe (n : Nat) : (ds.take n).length = min n (all.map Scored.itemId).eraseDups.length := by
  rw [List.length_take, perm.length_eq, length_dedupe]

theorem nodup_take_dedupe (n : Nat) : ((ds.take n).map Scored.itemId).Nodup :=
  ((perm.map _).nodup_iff.mpr (nodup_dedupe all)).sublist ((List.take_sublist n ds).map _)

/-- An entry whose item is left out is no nearer than one that is kept (R88). -/
theorem take_dedupe_nearest (near : ds.Pairwise fun a b => f32Key a.dist ≤ f32Key b.dist) {n : Nat} {e k : Scored} (he : e ∈ all)
    (out : e.itemId ∉ (ds.take n).map Scored.itemId) (hk : k ∈ ds.take n) : f32Key k.dist ≤ f32Key e.dist := by
  obtain ⟨d, hd, same, before⟩ := exists_dedupe all he
  have dropped : d ∈ ds.drop n := by
    have hds : d ∈ ds.take n ++ ds.drop n := (List.take_append_drop n ds).symm ▸ perm.mem_iff.mpr hd
    exact (List.mem_append.mp hds).resolve_left fun kept => out (same ▸ List.mem_map_of_mem kept)
  have parted := List.pairwise_append.mp ((List.take_append_drop n ds).symm ▸ near)
  exact (parted.2.2 k hk d dropped).trans (Scored.dist_le before)

/-- What a stage that cuts the deduplicated entries keeps, where the nearer ones stand first (R88, R93). -/
theorem take_dedupe_spec (near : ds.Pairwise fun a b => f32Key a.dist ≤ f32Key b.dist) (n : Nat) :
    (ds.take n).length = min n (all.map Scored.itemId).eraseDups.length ∧ ((ds.take n).map Scored.itemId).Nodup ∧
    (ds.take n).Pairwise (fun a b => f32Key a.dist ≤ f32Key b.dist) ∧
    (∀ e ∈ ds.take n, e ∈ all ∧ ∀ x ∈ all, x.itemId = e.itemId → e.le x = true) ∧
    (∀ e ∈ all, e.itemId ∉ (ds.take n).map Scored.itemId → ∀ k ∈ ds.take n, f32Key k.dist ≤ f32Key e.dist) ∧
    all.length - ds.length = all.length - (all.map Scored.itemId).eraseDups.length :=
  ⟨length_take_dedupe perm n, nodup_take_dedupe perm n, near.sublist (List.take_sublist n ds),
    fun _ he => dedupe_first (perm.mem_iff.mp (List.mem_of_mem_take he)),
    fun _ he out _ hk => take_dedupe_nearest perm near he out hk, by rw [perm.length_eq, length_dedupe]⟩

end

/-- Settles O41: both stages cut the deduplicated entries, in an order with the nearer ones first. -/
theorem mergedLists : Obligations.MergedLists := by
  unfold Obligations.MergedLists
  intro ties n lists cuts all ids
  have order := dedupe_pairwise all
  refine ⟨fun m hm => ?_, ?_⟩
  · rcases List.mem_pair.mp hm with rfl | rfl
    · exact take_dedupe_spec (List.Perm.refl _) (order.imp Scored.dist_le) n
    · have tied := sortBy_pairwise (tieLe_total ties) (tieLe_trans ties) (dedupe all)
      exact take_dedupe_spec (sortBy_perm _ _) (tied.imp dist_le_of_tieLe) n
  · have distinct : (dedupe all).Pairwise fun a b => a.itemId ≠ b.itemId := List.pairwise_map.mp (nodup_dedupe all)
    exact ((order.and distinct).imp fun h => Scored.keyLt_of_le h.1 h.2).sublist (List.take_sublist n _)

end Sys2Proof.Machine

/-! What the endpoints of a module do with their messages (O47): each kind of message by its own rule, on the state in which
its flits have come in (R97, R104, R292, R307 to R311, R313). -/

namespace Sys2Proof.Machine

/-! ## What sending leaves in the fabric -/

/-- Of the fabric at most the links are touched. -/
def State.onlyLinks (s t : State) : Prop := t.fabric = { s.fabric with links := t.fabric.links }

theorem onlyLinks_of_fabric {s t : State} (h : t.fabric = s.fabric) : s.onlyLinks t := by
  unfold State.onlyLinks
  rw [h]

theorem onlyLinks_refl (s : State) : s.onlyLinks s := rfl

theorem State.onlyLinks.trans {s t u : State} (h : s.onlyLinks t) (g : t.onlyLinks u) : s.onlyLinks u := by
  unfold State.onlyLinks at *
  rw [g, h]

theorem State.onlyLinks.addr {s t : State} (h : s.onlyLinks t) : t.fabric.addr = s.fabric.addr := by rw [h]
theorem State.onlyLinks.bundles {s t : State} (h : s.onlyLinks t) : t.fabric.bundles = s.fabric.bundles := by rw [h]

theorem onlyLinks_ite {s a b : State} {p : Prop} [Decidable p] (ha : s.onlyLinks a) (hb : s.onlyLinks b) :
    s.onlyLinks (if p then a else b) := by
  split <;> assumption

theorem onlyLinks_foldl {α : Type} {f : State → α → State} (step : ∀ (t : State) x, t.onlyLinks (f t x)) (xs : List α) (s : State) :
    s.onlyLinks (xs.foldl f s) := by
  induction xs generalizing s with
  | nil => exact onlyLinks_refl s
  | cons x xs ih => exact (step s x).trans (ih _)

theorem onlyLinks_bump (s : State) (a : Nat) : s.onlyLinks (bump s a) := onlyLinks_of_fabric (by simp)

theorem onlyLinks_offerFlit (l : Nat) (s : State) (f : Flit) : s.onlyLinks (offerFlit l s f) := onlyLinks_ite rfl rfl

theorem onlyLinks_sendOn (s : State) (l buf : Nat) (h : MsgHdr) (b : MsgBody) : s.onlyLinks (sendOn s l buf h b) :=
  (onlyLinks_of_fabric (t := emit s (.msg l h b)) rfl).trans (onlyLinks_foldl (onlyLinks_offerFlit l) _ _)

theorem onlyLinks_forwardTo (s : State) (here t : Nat) (m : MsgHdr) (b : MsgBody) : s.onlyLinks (forwardTo s here t m b) := by
  have sent (l buf : Nat) (h : MsgHdr) : s.onlyLinks (sendOn s l buf h b) := onlyLinks_sendOn s l buf h b
  unfold forwardTo
  split
  · exact onlyLinks_refl s
  · refine onlyLinks_ite (sent _ _ _) (onlyLinks_ite (sent _ _ _) (onlyLinks_ite (sent _ _ _) ?_))
    split
    · exact onlyLinks_ite (sent _ _ _) (sent _ _ _)
    · exact sent _ _ _

/-- A message on its way touches the links alone (R301). -/
theorem onlyLinks_nextHop (s : State) (m : MsgHdr) (b : MsgBody) : s.onlyLinks (nextHop s m b) := by
  unfold nextHop
  refine onlyLinks_ite ?_ (onlyLinks_forwardTo s _ _ _ b)
  split
  · exact onlyLinks_bump s _
  · exact (onlyLinks_bump s _).trans (onlyLinks_forwardTo _ _ _ _ b)

theorem onlyLinks_sendBundle (s : State) (b : Bundle) (body : MsgBody) (kids : List (BitVec 20)) :
    s.onlyLinks (sendBundle s b body kids) :=
  onlyLinks_foldl (fun _ _ => onlyLinks_nextHop _ _ _) kids s

/-! ## Passing a query on -/

/-- The module but for what it sends: what leaves with its counts, the links and the bundles are those of `u`. -/
def State.sending (s u : State) : State :=
  { s with out := u.out, host := u.host, events := u.events, counters := u.counters
           fabric := { s.fabric with links := u.fabric.links, bundles := u.fabric.bundles } }

theorem sending_of_follows {s t : State} (h : s.follows [.out, .host, .events, .counters, .fabric] t)
    (fabric : t.fabric = { s.fabric with links := t.fabric.links, bundles := t.fabric.bundles }) : t = s.sending t := by
  have same (p : Field) (hp : p ∉ [Field.out, .host, .events, .counters, .fabric]) : State.same p s t := h.frame p hp
  unfold State.sending
  rw [← fabric, ← same .free (by decide), ← same .time (by decide), ← same .power (by decide), ← same .cores (by decide),
    ← same .locket (by decide), ← same .queues (by decide), ← same .loader (by decide), ← same .facets (by decide),
    ← same .facetRam (by decide), ← same .collectors (by decide), ← same .near (by decide), ← same .hbm (by decide),
    ← same .flash (by decide), ← same .colls (by decide), ← same .pools (by decide), ← same .streams (by decide),
    ← same .search (by decide), ← same .learn (by decide), ← same .board (by decide), ← h.queue]

/-- A query passed on is noted in its bundle and sent on the links (R307, R309). -/
theorem passQuery_fabric (s : State) (t : TreeRec) (root : BitVec 20) (bead : Nat) (h : MsgHdr) (range : Bool) (c : Capsule) :
    let u := passQuery s t root bead h range c
    u.fabric = { s.fabric with links := u.fabric.links, bundles := u.fabric.bundles } := by
  have counted (p : Prop) [Decidable p] : (if p then bump s replayFullCnt else s).fabric = s.fabric := by split <;> simp
  have passed (p : Prop) [Decidable p] : (if p then s else bump s replayFullCnt).fabric = s.fabric := by split <;> simp
  have sent {v u : State} (start : v.fabric = { s.fabric with bundles := v.fabric.bundles }) (sends : v.onlyLinks u) :
      u.fabric = { s.fabric with links := u.fabric.links, bundles := u.fabric.bundles } := by
    rw [sends.bundles, sends, start]
  unfold passQuery
  dsimp only
  refine sent ?_ (onlyLinks_foldl (fun _ _ => onlyLinks_nextHop _ _ _) _ _)
  split
  · simp only [modFabric_fabric, counted]
  · simp only [modFabric_fabric, passed]

/-- A new query of a bundle is taken up or held as the module stands, but for what passing it on sends (R307). -/
theorem takeQuery_new {s : State} {l : Nat} {b : MsgBody} {h : MsgHdr} (range : Bool) (c : Capsule)
    (new : s.fabric.bundles.any (sameQuery h) = false) :
    ∃ u, takeQuery (flitsIn s l b) h range c = joinOrHold (s.sending u) h range c := by
  have here : flitsIn s l b = s.sending (flitsIn s l b) := rfl
  have unseen : ¬ (flitsIn s l b).fabric.bundles.any (sameQuery h) = true := ne_true_of_eq_false new
  rw [takeQuery, if_neg unseen]
  dsimp only
  split
  · next t _ =>
    have follows : s.follows [.out, .host, .events, .counters, .fabric] (passQuery (flitsIn s l b) t h.qroot h.bundle h range c) :=
      passQuery_follows (List.Subset.refl _) (flitsIn_follows (by decide) (State.follows_refl _ s))
    exact ⟨_, congrArg (joinOrHold · h range c) (sending_of_follows follows (passQuery_fabric ..))⟩
  · exact ⟨_, congrArg (joinOrHold · h range c) here⟩

/-- A query of a lower power state waits with the bead of its receipt (R261). -/
theorem joinOrHold_holds {s : State} {h : MsgHdr} {range : Bool} {c : Capsule} (low : decidesNow s = false) :
    (joinOrHold s h range c).fabric.asleep = s.fabric.asleep ++ [(h, range, c, beadNow s)] ∧
      (joinOrHold s h range c).search = s.search := by
  have wake (t : State) : t.follows [.power] (wakeUp t 0x01) := wakeUp_follows (List.Subset.refl _) (State.follows_refl _ t)
  rw [joinOrHold, if_neg (ne_true_of_eq_false low)]
  exact ⟨congrArg Fabric.asleep ((wake _).frame .fabric (by decide)), (wake _).frame .search (by decide)⟩

theorem joinOrHold_joins {s : State} {h : MsgHdr} {range : Bool} {c : Capsule} (awake : decidesNow s = true) :
    joinOrHold s h range c = joinQuery s h range c (beadNow s) := by
  rw [joinOrHold, if_pos awake]

/-! ## A query of another root -/

/-- The query that a member builds of a QUERY message (R307, R310). -/
def memberQuery (s : State) (k : Coll) (h : MsgHdr) (range : Bool) (c : Capsule) (b : QueryBody) (got : Nat) : Query :=
  buildQuery s k ⟨if range then 2 else 1, 0, 0, 0, c.coll.toNat, c.flags, c.cookie⟩ false got h.bundle c.deadline.toNat
    h.qroot h.qserial (queryParams range (groupProbe s k.att.pipeline) c (emptyQuery b)) b

theorem shorten_keeps_root (b : Nat) (q : Query) :
    (shorten b q).root = q.root ∧ (shorten b q).serial = q.serial ∧ (shorten b q).local_ = q.local_ := by
  unfold shorten
  dsimp only
  split_ifs <;> exact ⟨rfl, rfl, rfl⟩

/-- A member's query is that of its root, with the bead of its bundle as its snapshot. -/
theorem memberQuery_keeps (s : State) (k : Coll) (h : MsgHdr) (range : Bool) (c : Capsule) (b : QueryBody) (got : Nat) :
    let q := memberQuery s k h range c b got
    q.snap = h.bundle ∧ q.root = h.qroot ∧ q.serial = h.qserial ∧ q.local_ = false := by
  refine ⟨(buildQuery_keeps ..).2.2.2.1, ?_⟩
  unfold memberQuery buildQuery
  exact shorten_keeps_root ..

section
variable {s : State} {h : MsgHdr} {c : Capsule} (range : Bool) (got : Nat)

/-- A query whose collection is not attached here under its tree runs nowhere here (log entry 62). -/
theorem joinQuery_elsewhere
    (absent : ∀ k, getColl s c.coll.toNat = some k → k.attached = false ∨ k.att.tree % 4096 ≠ h.tree.toNat) :
    joinQuery s h range c got = s := by
  unfold joinQuery
  split
  · rfl
  · next k hk => exact if_pos (by rcases absent k hk with h | h <;> simp [h])

/-- A query that admission is open for enters, where its reservations fit (R310, log entry 62). -/
theorem joinQuery_open {k : Coll} {b : QueryBody} (hk : getColl s c.coll.toNat = some k) (attached : k.attached = true)
    (tree : k.att.tree % 4096 = h.tree.toNat) (open_ : admitStatus s = 0) (pipeline : pipelineClosed s k.att.pipeline = false)
    (parsed : parseQuery k c = .ok b) : joinQuery s h range c got =
      if (reserveBad s k (memberQuery s k h range c b got)).isSome then s else enterQuery s (memberQuery s k h range c b got) := by
  simp only [joinQuery, hk, open_, attached, tree, pipeline, parsed, bne_self_eq_false, Bool.not_true, Bool.or_self,
    Bool.false_eq_true, if_false]
  rfl

end

theorem enterQuery_queries (s : State) (q : Query) : (enterQuery s q).search.queries = s.search.queries ++ [q] := rfl

section
variable {s : State} {l : Nat} {m : MsgBody} {h : MsgHdr} {range : Bool} {c : Capsule}
  (new : s.fabric.bundles.any (sameQuery h) = false)
include new

/-- A query that a lower power state holds waits (R261). -/
theorem takeQuery_waits (low : decidesNow s = false) : let t := takeQuery (flitsIn s l m) h range c
    t.fabric.asleep = s.fabric.asleep ++ [(h, range, c, beadNow s)] ∧ t.search = s.search := by
  obtain ⟨u, hu⟩ := takeQuery_new (l := l) (b := m) range c new
  rw [hu]
  exact joinOrHold_holds (s := s.sending u) low

variable (awake : decidesNow s = true)
include awake

theorem takeQuery_joins : ∃ u, takeQuery (flitsIn s l m) h range c = joinQuery (s.sending u) h range c (beadNow s) := by
  obtain ⟨u, hu⟩ := takeQuery_new (l := l) (b := m) range c new
  exact ⟨u, hu.trans (joinOrHold_joins (s := s.sending u) awake)⟩

theorem takeQuery_elsewhere
    (absent : ∀ k, getColl s c.coll.toNat = some k → k.attached = false ∨ k.att.tree % 4096 ≠ h.tree.toNat) :
    (takeQuery (flitsIn s l m) h range c).search = s.search := by
  obtain ⟨u, hu⟩ := takeQuery_joins (l := l) (m := m) (range := range) (c := c) new awake
  rw [hu, joinQuery_elsewhere (s := s.sending u) range (beadNow s) absent]
  rfl

variable {k : Coll} {b : QueryBody} (hk : getColl s c.coll.toNat = some k) (attached : k.attached = true)
  (tree : k.att.tree % 4096 = h.tree.toNat) (open_ : admitStatus s = 0) (pipeline : pipelineClosed s k.att.pipeline = false)
  (parsed : parseQuery k c = .ok b)
include hk attached tree open_ pipeline parsed

/-- What passing the query on sends changes nothing of how it joins here. -/
theorem takeQuery_open : let q := memberQuery s k h range c b (beadNow s)
    ∃ u, takeQuery (flitsIn s l m) h range c = if (reserveBad s k q).isSome then s.sending u else enterQuery (s.sending u) q := by
  obtain ⟨u, hu⟩ := takeQuery_joins (l := l) (m := m) (range := range) (c := c) new awake
  exact ⟨u, hu.trans (joinQuery_open (s := s.sending u) range (beadNow s) hk attached tree open_ pipeline parsed)⟩

/-- A query whose reservations fit joins the queries here (R310). -/
theorem takeQuery_enters (fits : reserveBad s k (memberQuery s k h range c b (beadNow s)) = none) :
    (takeQuery (flitsIn s l m) h range c).search.queries = s.search.queries ++ [memberQuery s k h range c b (beadNow s)] := by
  obtain ⟨u, joins⟩ := takeQuery_open (l := l) (m := m) (range := range) new awake hk attached tree open_ pipeline parsed
  rw [joins, fits]
  exact enterQuery_queries (s.sending u) _

/-- A query that finds no room for its reservations runs nowhere here (log entry 62). -/
theorem takeQuery_short (short : reserveBad s k (memberQuery s k h range c b (beadNow s)) ≠ none) :
    (takeQuery (flitsIn s l m) h range c).search = s.search := by
  obtain ⟨u, joins⟩ := takeQuery_open (l := l) (m := m) (range := range) new awake hk attached tree open_ pipeline parsed
  rw [joins, if_pos (Option.isSome_iff_ne_none.mpr short)]
  rfl

end

/-! ## The end of a bundle -/

/-- Every copy of the bundle of a message is closed. -/
def bundleClosed (h : MsgHdr) (s : State) : Prop := ∀ b ∈ s.fabric.bundles, isBundle h b = true → b.closed = true

section
variable {h : MsgHdr} {s t : State}

theorem bundleClosed_of_bundles (same : t.fabric.bundles = s.fabric.bundles) (closed : bundleClosed h s) : bundleClosed h t := by
  unfold bundleClosed
  rwa [same]

/-- A change of the bundles that keeps what names them and closes none of them again leaves a closed bundle closed. -/
theorem bundleClosed_map {f : Bundle → Bundle} (bundles : t.fabric.bundles = s.fabric.bundles.map f)
    (name : ∀ b, isBundle h (f b) = isBundle h b) (kept : ∀ b, (f b).closed = b.closed) (closed : bundleClosed h s) :
    bundleClosed h t := by
  intro b hb named
  rw [bundles] at hb
  obtain ⟨x, hx, rfl⟩ := List.mem_map.mp hb
  exact (kept x).trans (closed x hx (name x ▸ named))

theorem bundleClosed_sendBundle (b : Bundle) (body : MsgBody) (kids : List (BitVec 20)) (closed : bundleClosed h s) :
    bundleClosed h (sendBundle s b body kids) :=
  bundleClosed_of_bundles (onlyLinks_sendBundle s b body kids).bundles closed

theorem bundleClosed_dropBundle (b : Bundle) (child : BitVec 20) (closed : bundleClosed h s) :
    bundleClosed h (dropBundle s b child) := by
  unfold dropBundle
  refine bundleClosed_of_bundles (onlyLinks_bump _ _).bundles (bundleClosed_sendBundle _ _ _ ?_)
  refine bundleClosed_map rfl (fun x => ?_) (fun x => ?_) closed <;> split <;> rfl

theorem bundleClosed_replayBundle (child : BitVec 20) (b : Bundle) (closed : bundleClosed h s) :
    bundleClosed h (replayBundle child s b) := by
  unfold replayBundle
  split
  · have sends := onlyLinks_foldl (f := fun t (x : MsgHdr × Bool × Capsule) => nextHop t (readdress t x.1 child 1) (.query x.2.1 x.2.2))
      (fun _ _ => onlyLinks_nextHop _ _ _) b.queries s
    exact bundleClosed_sendBundle _ _ _ (bundleClosed_of_bundles sends.bundles closed)
  · exact bundleClosed_dropBundle b child closed

theorem bundleClosed_foldl {α : Type} {f : State → α → State} (step : ∀ t x, bundleClosed h t → bundleClosed h (f t x))
    (xs : List α) (closed : bundleClosed h s) : bundleClosed h (xs.foldl f s) := by
  induction xs generalizing s with
  | nil => exact closed
  | cons x xs ih => exact ih (step s x closed)

theorem bundleClosed_closeBundle (s : State) : bundleClosed h (closeBundle s (isBundle h)) := by
  have marked : bundleClosed h (s.modFabric fun r =>
      { r with bundles := r.bundles.map fun b => if isBundle h b then { b with closed := true } else b }) := by
    intro b hb named
    obtain ⟨x, -, rfl⟩ := List.mem_map.mp hb
    by_cases hx : isBundle h x = true
    · rw [if_pos hx]
    · rw [if_neg hx] at named
      exact absurd named hx
  unfold closeBundle
  exact bundleClosed_foldl (fun t b closed => bundleClosed_foldl (fun u k => bundleClosed_replayBundle k b) _
    (bundleClosed_sendBundle _ _ _ closed)) _ marked

/-- Where no bundle is held, the end of one closes nothing. -/
theorem closeBundle_of_none (none_ : s.fabric.bundles = []) (p : Bundle → Bool) : closeBundle s p = s := by
  have empty : s = { s with fabric := { s.fabric with bundles := [] } } := by rw [← none_]
  simp only [closeBundle, none_, State.modFabric, List.filter_nil, List.map_nil, List.foldl_nil]
  exact empty.symm

end

/-! ## Lists and rows -/

/-- A list reaches the queries that it is for, and the root's table of counts beside them (R114, R311). -/
theorem takeList_queries (s : State) (h : MsgHdr) (b : ListBody) : (takeList s h b).search.queries = s.search.queries.map fun q =>
    if listFor h q && !q.pastMerge && !q.lists.any fun x => x.1 == hdrSrc h then
      { q with lists := q.lists ++ [(hdrSrc h, h.bead, b)] } else q := by
  unfold takeList
  dsimp only
  exact congrArg Search.queries ((foldl_follows (fun t q => noteFrom q t (hdrSrc h, h.bead, b)) _
    (fun t q => noteFrom_follows (T := [.free, .fabric]) (List.Subset.refl _)) _ (State.follows_refl _ _)).frame .search (by decide))

/-- The list of a child is kept until this stage merges (R311). -/
theorem takeList_keeps {s : State} {h : MsgHdr} {q : Query} (b : ListBody) (hq : q ∈ s.search.queries) (for_ : listFor h q = true)
    (early : q.pastMerge = false) (new : ∀ x ∈ q.lists, x.1 ≠ hdrSrc h) :
    { q with lists := q.lists ++ [(hdrSrc h, h.bead, b)] } ∈ (takeList s h b).search.queries := by
  have unlisted : (q.lists.any fun x => x.1 == hdrSrc h) = false := by simpa using new
  rw [takeList_queries]
  exact List.mem_map.mpr ⟨q, hq, if_pos (by simp [for_, early, unlisted])⟩

/-- A list that comes late, or again, changes no query (R313). -/
theorem takeList_late {s : State} {h : MsgHdr} (b : ListBody)
    (late : ∀ q ∈ s.search.queries, listFor h q = false ∨ q.pastMerge = true ∨ ∃ x ∈ q.lists, x.1 = hdrSrc h) :
    (takeList s h b).search.queries = s.search.queries := by
  refine (takeList_queries s h b).trans ((List.map_congr_left fun q hq => if_neg fun takes => ?_).trans (List.map_id _))
  obtain ⟨⟨for_, early⟩, new⟩ : (listFor h q = true ∧ q.pastMerge = false) ∧ ∀ x ∈ q.lists, x.1 ≠ hdrSrc h := by simpa using takes
  rcases late q hq with other | merged | ⟨x, hx, listed⟩
  · simp [for_] at other
  · simp [early] at merged
  · exact new x hx listed

/-- A query of this module that gathers the rows a message brings (R97). -/
def asksRows (s : State) (h : MsgHdr) (q : Query) : Bool :=
  q.local_ && q.stage == .gathering && q.serial == h.qserial && h.qroot == s.fabric.addr

theorem takeGatherRows_search (s : State) (h : MsgHdr) (rows : List (Nat × List Byte)) : (takeGatherRows s h rows).search =
    { s.search with queries := s.search.queries.map fun q => if asksRows s h q then addRows (hdrSrc h) rows q else q } := rfl

theorem asksRows_iff {s : State} {h : MsgHdr} {q : Query} : asksRows s h q = true ↔
    q.local_ = true ∧ q.stage = .gathering ∧ q.serial = h.qserial ∧ h.qroot = s.fabric.addr := by
  simp [asksRows, and_assoc]

/-- A query is done when no row is left to gather (R97). -/
theorem addRows_stage {s : State} {h : MsgHdr} {q : Query} (rows : List (Nat × List Byte)) (asks : asksRows s h q = true) :
    (addRows (hdrSrc h) rows q).stage = if (addRows (hdrSrc h) rows q).toGather = [] then .done else .gathering := by
  obtain ⟨-, gathering, -⟩ := asksRows_iff.mp asks
  rw [← gathering]
  exact if_congr List.isEmpty_iff rfl rfl

/-- Rows that no query asked for change none. -/
theorem takeGatherRows_unasked {s : State} {h : MsgHdr} (rows : List (Nat × List Byte))
    (unasked : ∀ q ∈ s.search.queries, ¬ asksRows s h q = true) : (takeGatherRows s h rows).search = s.search := by
  rw [takeGatherRows_search, List.map_congr_left fun q hq => if_neg (unasked q hq), List.map_id']

/-! ## Delivery -/

/-- A message for an endpoint of this module acts at once when its bead has begun (R104, R292). -/
theorem arrive_here {s : State} {l ep : Nat} {h : MsgHdr} (up : s.power.phase = .up) (linked : (getLink s l).state = linkActive)
    (few : ep < 16) (dest : h.dest = BitVec.ofNat 24 (ep * 2 ^ 20 + s.fabric.addr.toNat)) (b : MsgBody) (kind : ep = endpointOf b)
    (begun : tooEarly s h b = false) : arrive s l h b = actOn (flitsIn s l b) h b := by
  have small := s.fabric.addr.isLt
  have addr : h.dest.setWidth 20 = s.fabric.addr := by
    apply BitVec.eq_of_toNat_eq
    rw [dest, BitVec.toNat_setWidth, BitVec.toNat_ofNat]
    omega
  have endpoint : h.dest.toNat / 2 ^ 20 = ep := by
    rw [dest, BitVec.toNat_ofNat]
    omega
  have assigned : (decide (5 ≤ endpointOf b) && decide (endpointOf b ≤ 14)) = false := by cases b <;> rfl
  have inside : (!isUp s || !linkUp s l) = false := by simp [isUp, up, linkUp, linked]
  simp only [arrive, inside, addr, bne_self_eq_false, endpoint, kind, assigned, begun, Bool.false_eq_true, if_false]

/-! ## The messages of an endpoint -/

section
variable {s : State} {l : Nat} {h : MsgHdr}

/-- A bundle's end is acknowledged to the parent before it closes the bundle here (R309). -/
theorem takeBundleEnd_of_tree {b : MsgBody} {r : TreeRec} (tree : treeBy s h.tree.toNat = some r) :
    let ms := membersFrom s r h.qroot h.bundle
    let s1 := flitsIn s l b
    takeBundleEnd s1 h = closeBundle (nextHop s1 { queryHdr s1 (addrAt ms (parentOf r.fan (posOf ms s.fabric.addr))) 1 1 h.qroot 0
      r.id with bundle := h.bundle } .bundleAck) (isBundle h) := by
  have tree1 : treeBy (flitsIn s l b) h.tree.toNat = some r := tree
  unfold takeBundleEnd
  dsimp only
  rw [tree1]
  rfl

theorem takeBundleEnd_closes {b : MsgBody} (tree : (treeBy s h.tree.toNat).isSome = true) :
    bundleClosed h (takeBundleEnd (flitsIn s l b) h) := by
  obtain ⟨r, hr⟩ := Option.isSome_iff_exists.mp tree
  rw [takeBundleEnd_of_tree hr]
  exact bundleClosed_closeBundle _

/-- A member that holds no bundle acknowledges the end alone. -/
theorem takeBundleEnd_unheld {b : MsgBody} {r : TreeRec} (tree : treeBy s h.tree.toNat = some r) (unheld : s.fabric.bundles = []) :
    let ms := membersFrom s r h.qroot h.bundle
    let s1 := flitsIn s l b
    takeBundleEnd s1 h = nextHop s1 { queryHdr s1 (addrAt ms (parentOf r.fan (posOf ms s.fabric.addr))) 1 1 h.qroot 0 r.id with
      bundle := h.bundle } .bundleAck := by
  intro ms s1
  have kept (m : MsgHdr) : (nextHop s1 m .bundleAck).fabric.bundles = [] :=
    (onlyLinks_nextHop s1 m .bundleAck).bundles.trans unheld
  exact (takeBundleEnd_of_tree tree).trans (closeBundle_of_none (kept _) _)

theorem takeBundleEnd_elsewhere {b : MsgBody} (none_ : treeBy s h.tree.toNat = none) :
    takeBundleEnd (flitsIn s l b) h = flitsIn s l b := by
  have none1 : treeBy (flitsIn s l b) h.tree.toNat = none := none_
  unfold takeBundleEnd
  rw [none1]

end

/-- Settles O47: a message whose bead has begun acts at once, and each kind by its own rule. -/
theorem messagesHere : Obligations.MessagesHere := by
  unfold Obligations.MessagesHere
  intro s l h ep up linked few dest
  have acts {i : Instr} {b : MsgBody} (row : exec i s = .next (arrive s l h b)) (endpoint : ep = endpointOf b)
      (begun : tooEarly s h b = false) : exec i s = .next (actOn (flitsIn s l b) h b) :=
    row.trans (congrArg _ (arrive_here up linked few dest b endpoint begun))
  refine ⟨fun bs endpoint => ⟨_, acts rfl endpoint rfl, rfl⟩, fun bead held => ?_⟩
  have begun (b : MsgBody) : tooEarly s h b = false := by simp [tooEarly, held, bead]
  refine ⟨fun range c endpoint => ?_, fun endpoint => ⟨_, acts rfl endpoint (begun _), takeBundleEnd_closes⟩,
    fun endpoint none_ => ?_, fun r endpoint tree unheld => ?_, fun endpoint => ⟨_, acts rfl endpoint (begun _), rfl⟩,
    fun endpoint => ⟨_, acts rfl endpoint (begun _), rfl⟩, fun b endpoint => ⟨fun q hq for_ early new => ?_, fun late => ?_⟩,
    fun slots endpoint => acts (b := .gatherReq slots) rfl endpoint (begun _),
    fun rows endpoint => ⟨fun q hq asks => ?_, fun unasked => ?_⟩⟩
  · have run := acts (i := .query l h range c) rfl endpoint (begun _)
    refine ⟨fun again => run.trans (congrArg _ (if_pos again)), fun new => ?_⟩
    exact ⟨fun low => ⟨_, run, takeQuery_waits new low⟩, fun awake absent => ⟨_, run, takeQuery_elsewhere new awake absent⟩,
      fun k b hk attached tree open_ awake pipeline parsed =>
        ⟨fun fits => ⟨_, run, takeQuery_enters new awake hk attached tree open_ pipeline parsed fits,
            memberQuery_keeps s k h range c b (beadNow s)⟩,
          fun short => ⟨_, run, takeQuery_short new awake hk attached tree open_ pipeline parsed short⟩⟩⟩
  · exact (acts (b := .bundleEnd) rfl endpoint (begun _)).trans (congrArg _ (takeBundleEnd_elsewhere none_))
  · exact (acts (b := .bundleEnd) rfl endpoint (begun _)).trans (congrArg _ (takeBundleEnd_unheld tree unheld))
  · exact ⟨_, acts (b := .list b) rfl endpoint (begun _), takeList_keeps (s := flitsIn s l (.list b)) b hq for_ early new⟩
  · exact ⟨_, acts (b := .list b) rfl endpoint (begun _), takeList_late (s := flitsIn s l (.list b)) b late⟩
  · exact ⟨_, acts (b := .gatherRows rows) rfl endpoint (begun _), addRows (hdrSrc h) rows q,
      List.mem_map.mpr ⟨q, hq, if_pos (asksRows_iff.mpr asks)⟩, rfl, rfl, rfl, addRows_stage rows (asksRows_iff.mpr asks)⟩
  · exact ⟨_, acts (b := .gatherRows rows) rfl endpoint (begun _),
      takeGatherRows_unasked (s := flitsIn s l (.gatherRows rows)) rows fun q hq asks => unasked q hq (asksRows_iff.mp asks)⟩

end Sys2Proof.Machine

/-! Notices and routing (O46): what a notice leaves in the fabric and in the counters, and where a message that arrives goes
(R103, R104, R292, R301, R303, R304). -/

namespace Sys2Proof.Machine

/-! ## What a fold of changes keeps -/

theorem foldl_keeps {α β : Type} {g : State → β} {f : State → α → State} {xs : List α} (step : ∀ t, ∀ x ∈ xs, g (f t x) = g t)
    (s : State) : g (xs.foldl f s) = g s := by
  induction xs generalizing s with
  | nil => rfl
  | cons x xs ih => exact (ih (fun t y hy => step t y (List.mem_cons_of_mem _ hy)) _).trans (step s x (List.mem_cons_self ..))

/-! ## Counts and sources of a notice -/

/-- An event counts in the counters only where the log has no room for it (R264). -/
theorem raiseEvent_counters (s : State) (code : BitVec 16) (args : List Byte) : (raiseEvent s code args).counters =
    if s.events.log.length < maxEvents then s.counters else (bumpQuiet s eventDropCnt 1).2.counters := by
  have logged : (logEvent s code args).2.counters = s.counters :=
    (logEvent_follows (List.Subset.refl _) (State.follows_refl _ s)).frame .counters (by decide)
  have fits : (logEvent s code args).1 = decide (s.events.log.length < maxEvents) := by
    unfold logEvent
    split <;> simp [*]
  simp only [raiseEvent, fits, decide_eq_true_eq, apply_ite State.counters, logged]
  simp only [bumpQuiet, counterAt, setCounter_counters, logged]

/-- What a count leaves in the counters rests on the counters and the event log alone (R264, R350). -/
theorem bump_counters_congr {s t : State} (counters : t.counters = s.counters) (events : t.events = s.events) (a : Nat) :
    (bump t a).counters = (bump s a).counters := by
  have count (x : Nat) : (bumpQuiet t x 1).1 = (bumpQuiet s x 1).1 ∧
      (bumpQuiet t x 1).2.counters = (bumpQuiet s x 1).2.counters := by
    simp [bumpQuiet, counterAt, counters]
  have log (u : State) (x : Nat) : (bumpQuiet u x 1).2.events = u.events := by simp
  have dropped : (bumpQuiet (bumpQuiet t a 1).2 eventDropCnt 1).2.counters =
      (bumpQuiet (bumpQuiet s a 1).2 eventDropCnt 1).2.counters := by
    simp [bumpQuiet, counterAt, counters]
  simp only [bump, bumpN, if_neg Nat.one_ne_zero, apply_ite State.counters, raiseEvent_counters, log, events, (count a).1,
    (count a).2, dropped]

/-- A source of the module that names no unit takes nothing out, so that the links stand (R344, R345). -/
theorem raiseN_fabric (n : Nat) {mask : BitVec 64} (none_ : ∀ i, mask.getLsbD i = true → unitOf 72 i .nothing = .nothing)
    (s : State) (acc : Access) : (raiseN n s 72 mask acc .nothing).fabric = s.fabric := by
  cases n with
  | zero => rfl
  | succ n =>
    unfold raiseN
    extract_lets mask1 c srcs new s1 held s2 s3 acts reset
    have h3 : s3.fabric = s.fabric := by
      have h2 : s2.fabric = s.fabric := by simp [s2, s1, updCol]
      dsimp only [s3]
      split
      · exact h2
      · exact h2
    have unit (x : Nat × Nat × Bool) (hx : x ∈ acts) : unitOf 72 x.1 .nothing = .nothing := by
      obtain ⟨i, hi, rfl⟩ := List.mem_map.mp hx
      have bit : mask1.getLsbD i = true := (List.mem_filter.mp (List.mem_filter.mp hi).1).2
      exact none_ i (by simp only [mask1, BitVec.getLsbD_and, Bool.and_eq_true] at bit; exact bit.1)
    split
    · exact h3
    · next raise s4 _ =>
      have h4 : s4.fabric = s3.fabric := by
        refine foldl_keeps (g := State.fabric) (fun t x hx => ?_) s3
        simp only [unit x hx]
        split <;> split <;> rfl
      refine (foldl_keeps (g := State.fabric) (fun t x _ => ?_) s4).trans (h4.trans h3)
      dsimp only
      split <;> split <;> rfl

/-- The source of a full fault set leaves the fabric as it stands (R304). -/
theorem raiseCond_faultsFull_fabric (s : State) : (raiseCond s 72 13 .nothing).fabric = s.fabric := by
  unfold raiseCond
  split
  · rfl
  · exact raiseN_fabric 6 (fun i hi => by rw [bit64_getLsbD hi]; rfl) s _

/-! ## Applying a notice -/

theorem applyNotice_notices (s : State) (h : HeldNotice) : (applyNotice s h).fabric.notices = s.fabric.notices := by
  unfold applyNotice
  dsimp only
  split
  · split <;> split <;> rfl
  · split
    · rfl
    · split
      · rw [raiseCond_faultsFull_fabric]
      · rfl

/-- A repair takes its element out of the fault set and counts nothing (R303). -/
theorem applyNotice_repair (s : State) (n : Notice) :
    (applyNotice s ⟨n, true⟩).fabric.faults = s.fabric.faults.filter (· != n.elem) ∧
      (applyNotice s ⟨n, true⟩).counters = s.counters := by
  by_cases known : s.fabric.faults.contains n.elem = true
  · simp only [applyNotice, known, if_true]
    split <;> exact ⟨rfl, rfl⟩
  · have absent : s.fabric.faults.filter (· != n.elem) = s.fabric.faults :=
      List.filter_eq_self.mpr fun e he => by
        rw [bne_iff_ne]
        rintro rfl
        exact known (List.contains_iff_mem.mpr he)
    simp only [applyNotice, known, if_true, Bool.false_eq_true, if_false, absent]
    exact ⟨by split <;> rfl, by split <;> rfl⟩

/-- A new fault enters the set while it has room and counts nothing (R304). -/
theorem applyNotice_fault {s : State} {n : Notice} (new : s.fabric.faults.contains n.elem = false)
    (room : s.fabric.faults.length < maxFaults) : (applyNotice s ⟨n, false⟩).fabric.faults = s.fabric.faults ++ [n.elem] ∧
      (applyNotice s ⟨n, false⟩).counters = s.counters := by
  simp only [applyNotice, new, if_neg (Nat.not_le.mpr room), Bool.false_eq_true, if_false]
  exact ⟨rfl, rfl⟩

/-- A fault that finds the set full is not applied (R304). -/
theorem applyNotice_fault_full {s : State} {n : Notice} (full : maxFaults ≤ s.fabric.faults.length) :
    (applyNotice s ⟨n, false⟩).fabric.faults = s.fabric.faults := by
  simp only [applyNotice, Bool.false_eq_true, if_false, if_pos full, raiseCond_faultsFull_fabric, ite_self,
    apply_ite State.fabric]

/-- Notices that are due leave the held ones, and each is applied (R303). -/
theorem applyDue_notices (s : State) (b : Nat) :
    (applyDue s b).fabric.notices = s.fabric.notices.filter fun h => b < h.n.effBead :=
  foldl_keeps (g := fun t => t.fabric.notices) (fun t h _ => applyNotice_notices t h) _

theorem applyDue_single {s : State} {b : Nat} {h : HeldNotice} (held : s.fabric.notices = [h]) (due : h.n.effBead ≤ b) :
    applyDue s b = applyNotice (s.modFabric fun r => { r with notices := r.notices.filter fun h => b < h.n.effBead }) h := by
  simp only [applyDue, held, List.filter_cons, due, decide_true, if_true, List.filter_nil, List.foldl_cons, List.foldl_nil]

/-! ## A notice arrives -/

theorem onlyLinks_flood (s : State) (n : Notice) (repair : Bool) (from_ : Option Nat) : s.onlyLinks (flood s n repair from_) :=
  onlyLinks_foldl (fun _ _ => onlyLinks_sendOn ..) _ s

/-- The module once a new notice is noted and sent on (R303). -/
def noticed (s : State) (l : Nat) (n : Notice) (repair : Bool) : State :=
  flood (s.modFabric fun r => { r with seen := r.seen ++ [(n.origin, n.num, repair)] }) n repair (some l)

/-- Of the fabric, noting a notice changes what has been seen and the links. -/
theorem noticed_fabric (s : State) (l : Nat) (n : Notice) (repair : Bool) : (noticed s l n repair).fabric =
    { s.fabric with seen := s.fabric.seen ++ [(n.origin, n.num, repair)], links := (noticed s l n repair).fabric.links } :=
  onlyLinks_flood ..

theorem noticed_follows (s : State) (l : Nat) (n : Notice) (repair : Bool) : s.follows [.out, .fabric] (noticed s l n repair) :=
  flood_follows (List.Subset.refl _) (modFabric_follows (by decide) (State.follows_refl _ s))

theorem takeNotice_seen {s : State} {n : Notice} {repair : Bool}
    (seen : s.fabric.seen.contains (n.origin, n.num, repair) = true) (l : Nat) : takeNotice s l n repair = s :=
  if_pos seen

section
variable {s : State} {n : Notice} {repair : Bool} (new : s.fabric.seen.contains (n.origin, n.num, repair) = false) (l : Nat)
include new

theorem takeNotice_early (early : beadNow s < n.effBead) : takeNotice s l n repair =
    (noticed s l n repair).modFabric fun r => { r with notices := r.notices ++ [⟨n, repair⟩] } := by
  unfold takeNotice
  rw [if_neg (ne_true_of_eq_false new)]
  dsimp only
  exact if_neg (Nat.not_le.mpr early)

theorem takeNotice_late (late : n.effBead ≤ beadNow s) :
    takeNotice s l n repair = applyNotice (bump (noticed s l n repair) lateNoticeCnt) ⟨n, repair⟩ := by
  unfold takeNotice
  rw [if_neg (ne_true_of_eq_false new)]
  dsimp only
  exact if_pos late

/-- A notice that comes late is applied at once to the fault set as it stands, and counted (R303). -/
theorem takeNotice_late_applies (late : n.effBead ≤ beadNow s) :
    ∃ u, takeNotice (flitsIn s l (noticeBody repair n)) l n repair = applyNotice u ⟨n, repair⟩ ∧
      u.fabric.faults = s.fabric.faults ∧ u.counters = (bump s lateNoticeCnt).counters := by
  have came : s.follows [.out, .fabric] (flitsIn s l (noticeBody repair n)) :=
    flitsIn_follows (by decide) (State.follows_refl _ s)
  have sends := noticed_follows (flitsIn s l (noticeBody repair n)) l n repair
  refine ⟨_, takeNotice_late (s := flitsIn s l (noticeBody repair n)) new l late, ?_, ?_⟩
  · rw [(onlyLinks_bump _ _), noticed_fabric]
    rfl
  · exact bump_counters_congr ((sends.frame .counters (by decide)).trans (came.frame .counters (by decide)))
      ((sends.frame .events (by decide)).trans (came.frame .events (by decide))) _

end

/-- Either kind of notice is taken when its link is ACTIVE. -/
theorem exec_notice {i : Instr} {repair : Bool} {l : Nat} {n : Notice}
    (row : (i, repair) ∈ [(Instr.faultNotice l n, false), (.repairNotice l n, true)]) (s : State) : exec i s =
      .next (if isUp s && linkUp s l then takeNotice (flitsIn s l (noticeBody repair n)) l n repair else s) := by
  simp only [List.mem_cons, Prod.mk.injEq, List.not_mem_nil, or_false] at row
  rcases row with ⟨rfl, rfl⟩ | ⟨rfl, rfl⟩ <;> rfl

section
variable {s : State} {l : Nat} {n : Notice} {repair : Bool} {i : Instr}
  (row : (i, repair) ∈ [(Instr.faultNotice l n, false), (.repairNotice l n, true)])
include row

theorem exec_notice_unlinked (down : (getLink s l).state ≠ linkActive) : exec i s = .next s := by
  simp [exec_notice row, linkUp, down]

variable (up : s.power.phase = .up) (linked : (getLink s l).state = linkActive)
include up linked

theorem exec_notice_linked : exec i s = .next (takeNotice (flitsIn s l (noticeBody repair n)) l n repair) := by
  simp [exec_notice row, isUp, up, linkUp, linked]

/-- A notice seen before changes nothing but the count of its flits (R303). -/
theorem completes_notice_seen (seen : s.fabric.seen.contains (n.origin, n.num, repair) = true) :
    completes i s fun t => t.fabric.faults = s.fabric.faults ∧ t.fabric.notices = s.fabric.notices ∧ t.out = s.out ∧
      t.counters = s.counters := by
  refine ⟨_, exec_notice_linked row up linked, ?_⟩
  rw [takeNotice_seen (s := flitsIn s l (noticeBody repair n)) seen]
  exact ⟨rfl, rfl, rfl, rfl⟩

variable (new : s.fabric.seen.contains (n.origin, n.num, repair) = false)
include new

/-- A new notice is held for its effective bead (R303). -/
theorem completes_notice_early (early : beadNow s < n.effBead) :
    completes i s fun t => t.fabric.faults = s.fabric.faults ∧ t.fabric.notices = s.fabric.notices ++ [⟨n, repair⟩] ∧
      t.fabric.seen.contains (n.origin, n.num, repair) = true := by
  refine ⟨_, exec_notice_linked row up linked, ?_⟩
  rw [takeNotice_early (s := flitsIn s l (noticeBody repair n)) new l early]
  dsimp only
  rw [modFabric_fabric, noticed_fabric]
  refine ⟨rfl, rfl, ?_⟩
  simp

end

/-! ## A message arrives -/

theorem endpointOf_assigned (b : MsgBody) : endpointOf b < 5 ∨ endpointOf b = 15 := by
  cases b <;> simp [endpointOf]

section
variable {s : State} {l ep : Nat} {h : MsgHdr} {b : MsgBody}

theorem arrive_unlinked (down : (getLink s l).state ≠ linkActive) : arrive s l h b = s := by
  simp [arrive, linkUp, down]

/-- The address and the endpoint that a destination names (R292). -/
theorem dest_names {addr : BitVec 20} (few : ep < 16) (dest : h.dest = BitVec.ofNat 24 (ep * 2 ^ 20 + addr.toNat)) :
    h.dest.setWidth 20 = addr ∧ h.dest.toNat / 2 ^ 20 = ep := by
  have small := addr.isLt
  refine ⟨BitVec.eq_of_toNat_eq ?_, ?_⟩
  · rw [dest, BitVec.toNat_setWidth, BitVec.toNat_ofNat]
    omega
  · rw [dest, BitVec.toNat_ofNat]
    omega

variable (up : s.power.phase = .up) (linked : (getLink s l).state = linkActive)
include up linked

theorem arrive_elsewhere (other : h.dest.setWidth 20 ≠ s.fabric.addr) : arrive s l h b = nextHop (flitsIn s l b) h b := by
  simp [arrive, isUp, up, linkUp, linked, other]

variable (few : ep < 16) (dest : h.dest = BitVec.ofNat 24 (ep * 2 ^ 20 + s.fabric.addr.toNat))
include few dest

/-- What an endpoint of this module does with a message (R103, R104, R292). -/
theorem arrive_at : arrive s l h b =
    if 5 ≤ ep ∧ ep ≤ 14 then bump (flitsIn s l b) routeDropCnt
    else if ep ≠ endpointOf b then flitsIn s l b
    else if tooEarly s h b then (flitsIn s l b).modFabric fun r => { r with early := r.early ++ [(h, b)] }
    else actOn (flitsIn s l b) h b := by
  obtain ⟨addr, endpoint⟩ := dest_names few dest
  have inside : (!isUp s || !linkUp s l) = false := by simp [isUp, up, linkUp, linked]
  simp only [arrive, inside, addr, bne_self_eq_false, endpoint, Bool.false_eq_true, if_false, Bool.and_eq_true,
    decide_eq_true_eq, bne_iff_ne]

/-- An endpoint that is not assigned drops the message and counts it (R292). -/
theorem arrive_unassigned (low : 5 ≤ ep) (high : ep ≤ 14) : arrive s l h b = bump (flitsIn s l b) routeDropCnt := by
  rw [arrive_at up linked few dest, if_pos ⟨low, high⟩]

/-- An assigned endpoint that does not take the type of the message ignores it (log entry 73). -/
theorem arrive_ignored (assigned : ep < 5 ∨ ep = 15) (other : ep ≠ endpointOf b) : arrive s l h b = flitsIn s l b := by
  rw [arrive_at up linked few dest, if_neg (by omega), if_pos other]

/-- A message that comes too early waits (R103, R104). -/
theorem arrive_waits (kind : ep = endpointOf b) (early : tooEarly s h b = true) :
    arrive s l h b = (flitsIn s l b).modFabric fun r => { r with early := r.early ++ [(h, b)] } := by
  have assigned := endpointOf_assigned b
  rw [arrive_at up linked few dest, if_neg (by omega), if_neg (not_not_intro kind), if_pos early]

end

/-! ## The obligation -/

/-- Settles O46: notices by the state in which they are applied, messages by what `arrive` does with their destination. -/
theorem noticesAndRouting : Obligations.NoticesAndRouting := by
  unfold Obligations.NoticesAndRouting
  refine ⟨fun s l n up => ⟨fun repair i row => ⟨exec_notice_unlinked row, fun linked =>
      ⟨completes_notice_seen row up linked, completes_notice_early row up linked⟩⟩,
      fun linked late => ⟨fun new unknown => ?_, fun new => ?_⟩⟩,
    fun s b => ⟨applyDue_notices s b, fun n repair held due => ?_⟩, fun s l h i b up kinds => ?_⟩
  · obtain ⟨u, run, faults, counters⟩ := takeNotice_late_applies (repair := false) new l late
    have row := exec_notice_linked (i := .faultNotice l n) (repair := false) (n := n) (by simp) up linked
    rw [run] at row
    refine ⟨fun room => ?_, fun full => ?_⟩
    · obtain ⟨enters, counts⟩ := applyNotice_fault (s := u) (n := n) (faults ▸ unknown) (faults ▸ room)
      exact ⟨_, row, faults ▸ enters, counts.trans counters⟩
    · exact ⟨_, row, (applyNotice_fault_full (faults ▸ full)).trans faults⟩
  · obtain ⟨u, run, faults, counters⟩ := takeNotice_late_applies (repair := true) new l late
    have row := exec_notice_linked (i := .repairNotice l n) (repair := true) (n := n) (by simp) up linked
    obtain ⟨leaves, counts⟩ := applyNotice_repair u n
    exact ⟨_, run ▸ row, faults ▸ leaves, counts.trans counters⟩
  · rw [applyDue_single held due]
    refine ⟨?_, ?_⟩
    · rintro rfl
      exact (applyNotice_repair _ n).1
    · rintro rfl unknown room
      have enters (u : State) (same : u.fabric.faults = s.fabric.faults) :
          (applyNotice u ⟨n, false⟩).fabric.faults = s.fabric.faults ++ [n.elem] :=
        same ▸ (applyNotice_fault (same ▸ unknown) (same ▸ room)).1
      exact enters _ rfl
  · have ⟨row, query⟩ : exec i s = .next (arrive s l h b) ∧
        ((∀ bs, b ≠ .mgmt bs) → tooEarly s h b = (!s.time.held || decide (beadNow s < h.bead))) := by
      rcases kinds with ⟨bs, rfl, rfl⟩ | ⟨r, c, rfl, rfl⟩ | ⟨rfl, rfl⟩ | ⟨rfl, rfl⟩ | ⟨rfl, rfl⟩ | ⟨m, rfl, rfl⟩ |
        ⟨m, rfl, rfl⟩ | ⟨m, rfl, rfl⟩
      · exact ⟨rfl, fun no => absurd rfl (no bs)⟩
      all_goals exact ⟨rfl, fun _ => rfl⟩
    rw [row]
    refine ⟨fun down => congrArg _ (arrive_unlinked down), fun linked =>
      ⟨fun other => congrArg _ (arrive_elsewhere up linked other), fun ep few dest =>
        ⟨fun low high => congrArg _ (arrive_unassigned up linked few dest low high),
        fun other assigned => congrArg _ (arrive_ignored up linked few dest assigned other), fun kind waits notMgmt => ?_⟩⟩⟩
    have early : tooEarly s h b = true := by
      rw [query notMgmt]
      rcases waits with bead | timeless
      · simp [bead]
      · simp [timeless]
    exact ⟨_, row.trans (congrArg _ (arrive_waits up linked few dest kind early)), rfl, rfl, rfl⟩

end Sys2Proof.Machine

/-! Sources of fabric time (O23): what a source gives a module that holds none and one that holds it, holdover, the offsets of
neighbours, and the intervals that stand for beads until time is held (R102, R103, R239, R299, R402). -/

namespace Sys2Proof.Machine

/-! ## Time given by the named source -/

theorem checkDiscovery_time (s : State) : (checkDiscovery s).time = s.time :=
  (checkDiscovery_follows (List.Subset.refl _) (State.follows_refl _ s)).frame .time (by decide)

/-- Time given by a source begins where none is held and is slewed, never stepped, where it is; the neighbours' offsets stand
(R102). -/
theorem sourceGiven_spec (s : State) (off : Int) (ns : Nat) : let t := checkDiscovery (sourceTime s off ns)
    t.time.held = true ∧ t.time.srcOffset = off ∧ t.time.holdover = false ∧
      t.time.now = (if s.time.held then s.time.now else ns) ∧
      (s.time.held = true → t.time.slew = max (-100000) (min 100000 off)) ∧
      t.time.nbrNow = s.time.nbrNow ∧ t.time.skew = s.time.skew := by
  dsimp only
  rw [checkDiscovery_time]
  cases held : s.time.held <;> simp [sourceTime, held]

section
variable {s : State} (up : s.power.phase = .up)
include up

theorem exec_ptpMessage {p : Nat} (few : p < 2) (linked : (getPort s p).pcs = true) (started : s.time.started = true)
    (ptp : s.time.source = 0) (named : s.time.sourceArg = p) (off : Int) (ns : Nat) :
    exec (.ptpMessage p off ns) s = .next (checkDiscovery (sourceTime s off ns)) := by
  simp [exec, execPtpMessage, takePtp, isUp, up, linked, started, ptp, named, few]

theorem exec_ppsInEdge (started : s.time.started = true) (pps : s.time.source = 1) (off : Int) (w : Nat) :
    exec (.ppsInEdge off w) s = .next (takePps s off w) := by
  simp [exec, execPpsInEdge, isUp, up, started, pps]

end

/-! ## PPS_IN and holdover -/

/-- An edge of PPS_IN in its place gives phase and rate (R402). -/
theorem takePps_good {s : State} {off : Int} {w : Nat} (good : ppsGood s off w = true) : let t := takePps s off w
    t.time.held = true ∧ t.time.ppsSynced = true ∧ t.time.ppsBad = 0 ∧ t.time.holdover = false ∧
      t.time.now = (if s.time.held then s.time.now else 0) := by
  simp only [takePps, good, if_true, checkDiscovery_time, modTime_time]
  cases held : s.time.held <;> simp [sourceTime, held]

/-- A failed source leaves the module counting on from its reference (R103). -/
theorem enterHoldover_time (s : State) : (enterHoldover s).time =
    if s.time.held && !s.time.holdover then { s.time with holdover := true, ppsSynced := false } else s.time := by
  unfold enterHoldover
  split <;> simp

/-- The third edge in a row out of its place fails the source (R402). -/
theorem takePps_bad {s : State} {off : Int} {w : Nat} (bad : ppsGood s off w = false) : let t := takePps s off w
    t.time.ppsBad = s.time.ppsBad + 1 ∧ t.time.now = s.time.now ∧
      t.time.holdover = (s.time.holdover || (s.time.held && decide (3 ≤ s.time.ppsBad + 1))) := by
  simp only [takePps, bad, Bool.false_eq_true, if_false, maxPpsBad]
  by_cases third : 3 ≤ s.time.ppsBad + 1
  · cases held : s.time.held <;> cases holdover : s.time.holdover <;> simp [third, enterHoldover_time, held, holdover]
  · simp [third]

/-- An event raised while the log has room stands in it (R264). -/
theorem raiseEvent_logged {s : State} (room : s.events.log.length < 512) (code : BitVec 16) (args : List Byte) :
    ∃ r ∈ (raiseEvent s code args).events.log, r.code = code := by
  have delivered (bs : List Byte) (n : BitVec 32) (t : State) (id : Nat) : (deliverTo bs n t id).events = t.events :=
    (deliverTo_follows (List.Subset.refl _) (State.follows_refl _ t)).frame .events (by decide)
  simp only [raiseEvent, logEvent, maxEvents, room, if_true]
  rw [foldl_keeps (g := State.events) fun t id _ => delivered _ _ t id]
  exact ⟨_, List.mem_append_right _ (List.mem_singleton_self _), rfl⟩

theorem enterHoldover_event {s : State} (held : s.time.held = true) (first : s.time.holdover = false)
    (room : s.events.log.length < 512) : ∃ r ∈ (enterHoldover s).events.log, r.code = 0x0201 := by
  simp only [enterHoldover, held, first, Bool.not_false, Bool.and_self, if_true]
  exact raiseEvent_logged (s := s.modTime _) room _ _

/-! ## Neighbours -/

theorem exec_linkTimeExchange {s : State} {l : Nat} (up : s.power.phase = .up) (linked : linkUp s l = true) (off : Int)
    (ns : Nat) :    exec (.linkTimeExchange l off ns) s = .next (exchange s l off ns) := by
  simp [exec, execLinkTimeExchange, isUp, up, linked]

/-- A neighbour gives time to a module that holds none and names no other link (R102). -/
theorem exchange_begins {s : State} {l : Nat} (free : s.time.held = false) (started : s.time.started = true)
    (named : s.time.source = 2 → s.time.sourceArg = l) (off : Int) (ns : Nat) :
    exchange s l off ns = checkDiscovery (sourceTime s off ns) := by
  by_cases link : s.time.source = 2
  · simp [exchange, free, started, link, named link]
  · simp [exchange, free, started, link]

/-- The time that a module which holds fabric time takes from a neighbour: that of the named link, if it is this one. -/
def fromNeighbour (s : State) (l : Nat) (off : Int) (ns : Nat) : State :=
  if s.time.started && (s.time.source == 2 && s.time.sourceArg == l) then checkDiscovery (sourceTime s off ns) else s

/-- The offset of a neighbour is kept for TIME_SKEW (R103, R299). -/
theorem exchange_time {s : State} (held : s.time.held = true) (l : Nat) (off : Int) (ns : Nat) : (exchange s l off ns).time =
    let t := (fromNeighbour s l off ns).time
    { t with nbrNow := max t.nbrNow off.natAbs, skew := t.skew || decide (500 < off.natAbs) } := by
  have raised (u : State) : (raiseCond u 72 14 (.link l)).time = u.time :=
    (raiseCond_follows (List.Subset.refl _) (State.follows_refl _ u)).frame .time (by decide)
  simp only [exchange, held, Bool.not_true, Bool.false_and, Bool.or_false, Bool.false_eq_true, if_false, apply_ite State.time,
    raised, ite_self]
  rfl

theorem fromNeighbour_spec {s : State} (held : s.time.held = true) (l : Nat) (off : Int) (ns : Nat) :
    let t := (fromNeighbour s l off ns).time
    t.now = s.time.now ∧ t.nbrNow = s.time.nbrNow ∧ t.skew = s.time.skew ∧
      (s.time.started = true → s.time.source = 2 → s.time.sourceArg = l →
        t.srcOffset = off ∧ t.slew = max (-100000) (min 100000 off)) := by
  obtain ⟨-, offset, -, now, slew, nbr, skew⟩ := sourceGiven_spec s off ns
  unfold fromNeighbour
  split
  · exact ⟨by rw [now, if_pos held], nbr, skew, fun _ _ _ => ⟨offset, slew held⟩⟩
  · next other => exact ⟨rfl, rfl, rfl, fun started link named => absurd (by simp [started, link, named]) other⟩

/-! ## Intervals -/

theorem updAt_id {α : Type} (xs : List α) (k : Nat) : updAt xs k id = xs := by
  induction xs generalizing k with
  | nil => rfl
  | cons x r ih => cases k <;> simp [updAt, ih]

/-- A change at one place that keeps what is read of it keeps what is read of the list. -/
theorem map_updAt {α β : Type} {f : α → α} {g : α → β} (keeps : ∀ x, g (f x) = g x) (xs : List α) (k : Nat) :
    (updAt xs k f).map g = xs.map g := by
  induction xs generalizing k with
  | nil => rfl
  | cons x r ih => cases k <;> simp [updAt, ih, keeps]

/-- A port at its written rate. -/
def Port.retimed (r : Port) : Port := { r with useRate := r.rate }

theorem Port.retimed_of_same {r : Port} (same : r.rate = r.useRate) : r.retimed = id r := by
  cases r
  simpa [Port.retimed] using same

/-- One port's part in the taking up of rates (R239). -/
def takeUpRate (t : State) (p : Nat) : State :=
  if (getPort t p).rate = (getPort t p).useRate then t
  else updPort (if (getPort t p).pcs then portDown t p else t) p Port.retimed

theorem takeUpRates_eq (s : State) : takeUpRates s = takeUpRate (takeUpRate s 0) 1 := rfl

/-- A port that is down, or at its written rate already, takes the rate up without going down (R239, R389). -/
theorem takeUpRate_quiet {t : State} {p : Nat}
    (quiet : (getPort t p).pcs = false ∨ (getPort t p).useRate = (getPort t p).rate) :
    takeUpRate t p = updPort t p Port.retimed := by
  unfold takeUpRate
  split
  · next same =>
    unfold updPort
    rw [updAt_congr Port.reset (Port.retimed_of_same same), updAt_id]
  · next other => simp [quiet.resolve_right fun same => other same.symm]

theorem takeUpRates_quiet {s : State}
    (quiet : ∀ p, p < 2 → (getPort s p).pcs = false ∨ (getPort s p).useRate = (getPort s p).rate) :
    takeUpRates s = updPort (updPort s 0 Port.retimed) 1 Port.retimed := by
  have other : getPort (updPort s 0 Port.retimed) 1 = getPort s 1 := updAt_getD_other _ _ _ _ _ (by decide)
  have second := quiet 1 (by decide)
  rw [← other] at second
  rw [takeUpRates_eq, takeUpRate_quiet (quiet 0 (by decide)), takeUpRate_quiet second]

/-- What a port keeps in force at the end of an interval. -/
def Port.inForce (p : Port) : Port :=
  { p with useVlan := BitVec.ofNat 13 (p.vlanId.toNat + (if p.vlanEn then 2 ^ 12 else 0))
           usePcp := BitVec.ofNat 6 (p.pcpMgmt.toNat + 8 * p.pcpData.toNat), useIpv4 := p.ipv4, useIpv6 := p.ipv6
           useIpv6ctl := p.ipv6ctl, rxMgmt := 0, rxData := 0 }

theorem takeUpPorts_ports (s : State) : (takeUpPorts s).host.ports = s.host.ports.map Port.inForce := rfl

theorem intervalActions_host (s : State) : (intervalActions s).host = (freeConns (takeUpPorts (takeUpRates s))).host :=
  (activateLinks_follows (List.Subset.refl _) (State.follows_refl _ _)).frame .host (by decide)

theorem intervalActions_time (s : State) : (intervalActions s).time = s.time :=
  (intervalActions_follows (List.Subset.refl _) (State.follows_refl _ s)).frame .time (by decide)

/-- After an interval no connection that ended or failed holds its id (R243). -/
theorem intervalActions_conns (s : State) : ∀ x ∈ (intervalActions s).host.conns, x.2.closed = false ∧ x.2.failed = false := by
  intro x hx
  rw [intervalActions_host] at hx
  simpa using (List.mem_filter.mp hx).2

/-- Written addresses and rates are in force after an interval in which no port goes down (R238, R239, R389). -/
theorem intervalActions_ports {s : State}
    (quiet : ∀ p, p < 2 → (getPort s p).pcs = false ∨ (getPort s p).useRate = (getPort s p).rate) :
    (intervalActions s).host.ports.map Port.useIpv6 = s.host.ports.map Port.ipv6 ∧
      ∀ p, p < 2 → p < s.host.ports.length → (getPort (intervalActions s) p).useRate = (getPort s p).rate := by
  have ports : (intervalActions s).host.ports =
      (updAt (updAt s.host.ports 0 Port.retimed) 1 Port.retimed).map Port.inForce := by
    rw [intervalActions_host, takeUpRates_quiet quiet]
    rfl
  refine ⟨?_, fun p few inside => ?_⟩
  · rw [ports, List.map_map]
    have kept (xs : List Port) (k : Nat) : (updAt xs k Port.retimed).map Port.ipv6 = xs.map Port.ipv6 :=
      map_updAt (f := Port.retimed) (fun _ => rfl) xs k
    show (updAt (updAt s.host.ports 0 Port.retimed) 1 Port.retimed).map Port.ipv6 = _
    rw [kept, kept]
  · have rate (x : Port) : x.inForce.useRate = x.useRate := rfl
    unfold getPort
    rw [ports, List.getD_eq_getElem _ _ (by simpa using inside), List.getElem_map, rate, ← List.getD_eq_getElem _ Port.reset]
    obtain rfl | rfl : p = 0 ∨ p = 1 := by omega
    · rw [updAt_getD_other _ _ _ _ _ (by decide), updAt_getD _ _ _ _ inside]
      rfl
    · rw [updAt_getD _ _ _ _ (by simpa using inside), updAt_getD_other _ _ _ _ _ (by decide)]
      rfl

/-! ## The obligation -/

/-- Settles O23: each source by its own rule, and the interval by what it shares with an edge. -/
theorem timeSources : Obligations.TimeSources := by
  unfold Obligations.TimeSources
  refine ⟨fun s p off ns up few linked started ptp named => ?_, fun s off w up started pps good => ?_,
    fun s off w up started pps bad => ?_, fun s up started held first => ?_,
    fun s l off ns up linked free started named => ?_, fun s l off ns up linked held => ?_, fun s up free => ?_⟩
  · obtain ⟨held, offset, holdover, now, slew, -, -⟩ := sourceGiven_spec s off ns
    exact ⟨_, exec_ptpMessage up few linked started ptp named off ns, held, offset, holdover, now, slew⟩
  · exact ⟨_, exec_ppsInEdge up started pps off w, takePps_good good⟩
  · exact ⟨_, exec_ppsInEdge up started pps off w, takePps_bad bad⟩
  · refine ⟨enterHoldover s, by simp [exec, execHoldover, isUp, up, started], ?_, enterHoldover_event held first⟩
    rw [enterHoldover_time, held, first]
    rfl
  · obtain ⟨held, offset, -, now, -, -, -⟩ := sourceGiven_spec s off ns
    have row := exchange_begins free started named off ns
    refine ⟨_, (exec_linkTimeExchange up linked off ns).trans (congrArg _ row), held, ?_, offset⟩
    rw [now, free]
    rfl
  · obtain ⟨now, nbr, skew, mine⟩ := fromNeighbour_spec held l off ns
    refine ⟨_, exec_linkTimeExchange up linked off ns, ?_⟩
    dsimp only
    rw [exchange_time held]
    exact ⟨now, congrArg (max · _) nbr, congrArg (· || _) skew, mine⟩
  · refine ⟨intervalActions (s.modTime fun t => { t with intervals := t.intervals + 1 }),
      by simp [exec, execBringUpInterval, isUp, up, free], intervalActions_time _, intervalActions_conns _,
      fun quiet => intervalActions_ports (s := s.modTime _) quiet⟩

end Sys2Proof.Machine

/-! Replies of SEARCH and READ_ITEM (O42): the reply that leaves first and what it leaves behind, what a READ_ITEM replies and
when, and the coverage (R111, R113, R115, R272, R273). -/

namespace Sys2Proof.Machine

/-! ## Coverage -/

/-- Coverage is a share in 65,536ths, rounded down but not to zero (R113). -/
theorem coverage_of_pos {i : Nat} (hi : 0 < i) (s : Nat) : coverage s i = if s = 0 then 0 else max 1 (65536 * s / i) := by
  simp only [coverage, Nat.ne_of_gt hi, if_false, Bool.and_eq_true, decide_eq_true_eq]
  by_cases none_ : s = 0
  · simp [none_]
  · have scanned : 0 < s := Nat.pos_of_ne_zero none_
    simp only [scanned, none_, true_and, if_false]
    generalize 65536 * s / i = v
    split <;> omega

/-! ## The reply that leaves first -/

theorem replyBefore_iff {a b : Query} :
    replyBefore a b = true ↔ a.deadline < b.deadline ∨ a.deadline = b.deadline ∧ a.qid ≤ b.qid := by
  simp [replyBefore]

theorem replyBefore_total (a b : Query) : replyBefore a b = true ∨ replyBefore b a = true := by
  simp only [replyBefore_iff]
  omega

theorem replyBefore_trans (a b c : Query) (ab : replyBefore a b = true) (bc : replyBefore b c = true) :
    replyBefore a c = true := by
  simp only [replyBefore_iff] at *
  omega

/-- The next reply may leave, and no other that may leave comes before it (R111). -/
theorem nextReply_spec {s : State} {q : Query} (next : nextReply s = some q) : q ∈ s.search.queries ∧ replyFree s q = true ∧
    ∀ x ∈ s.search.queries, replyFree s x = true → replyBefore q x = true := by
  have sorted := sortBy_pairwise replyBefore_total replyBefore_trans (s.search.queries.filter (replyFree s))
  have same := mem_sortBy replyBefore (s.search.queries.filter (replyFree s))
  obtain ⟨rest, list⟩ := List.head?_eq_some_iff.mp next
  rw [list] at sorted same
  obtain ⟨member, free⟩ := List.mem_filter.mp ((same q).mp (List.mem_cons_self ..))
  refine ⟨member, free, fun x hx hfree => ?_⟩
  rcases List.mem_cons.mp ((same x).mpr (List.mem_filter.mpr ⟨hx, hfree⟩)) with rfl | later
  · exact (replyBefore_total x x).elim id id
  · exact (List.pairwise_cons.mp sorted).1 x later

theorem replyFree_iff {s : State} {q : Query} : replyFree s q = true ↔ q.local_ = true ∧ q.stage = .done ∧
    (min (needsUntil q q.tier) q.deadline ≤ beadNow s ∨ isDetached s q.coll = true) := by
  simp only [replyFree, Bool.and_eq_true, Bool.or_eq_true, decide_eq_true_eq, beq_iff_eq, and_assoc]

/-! ## SEARCH_REPLY -/

theorem live_bumpN (s : State) (a n c : Nat) : (bumpN s a n).live c ↔ s.live c := by
  unfold State.live
  rw [bumpN_conn]

/-- The module once a search's reply is counted and its pair logged, before the reply is sent (R154). -/
def replyCounted (s : State) (q : Query) : State :=
  let b := q.folded.getD (ownList s q)
  let r := searchReplyOf s q b
  let s1 := bumpN s payloadMissCnt r.missing
  let s2 := if r.status = 1 then bump s1 partialCnt else if r.status = 0x0501 then bump s1 deadlineMissCnt else s1
  match loggedPair s q b with
  | some p => s2.modSearch fun x => { x with logged := x.logged ++ [(q.coll, p.1, p.2)] }
  | none => s2

theorem replySearch_eq (s : State) (q : Query) : replySearch s q =
    let r := searchReplyOf s q (q.folded.getD (ownList s q))
    removeQuery (answer (replyCounted s q) q.ref.queue q.ref.tag r.status 0 r.body) q := rfl

/-- Commands stand in their queues and connections are as live as before. -/
def State.keepsCommands (s t : State) : Prop := t.queues = s.queues ∧ ∀ c, t.live c ↔ s.live c

theorem State.keepsCommands.trans {s t u : State} (h : s.keepsCommands t) (g : t.keepsCommands u) : s.keepsCommands u :=
  ⟨g.1.trans h.1, fun c => (g.2 c).trans (h.2 c)⟩

theorem keepsCommands_bumpN (s : State) (a n : Nat) : s.keepsCommands (bumpN s a n) := ⟨by simp, live_bumpN s a n⟩

theorem keepsCommands_replyCounted (s : State) (q : Query) : s.keepsCommands (replyCounted s q) := by
  unfold replyCounted
  extract_lets b r s1 s2
  have h2 : s.keepsCommands s2 := by
    have h1 : s.keepsCommands s1 := keepsCommands_bumpN s _ _
    dsimp only [s2]
    split
    · exact h1.trans (keepsCommands_bumpN ..)
    · split
      · exact h1.trans (keepsCommands_bumpN ..)
      · exact h1
  split
  · exact h2
  · exact h2

/-- What was sent stays sent when a query leaves with its tasks. -/
theorem removeQuery_out (s : State) (q : Query) : ∃ xs, (removeQuery s q).out = xs ++ s.out := by
  have stops (u : State) (p : Stream → Bool) : ∃ xs, (stopStreams u p).out = xs ++ u.out := by
    unfold stopStreams
    extract_lets hit slots u1 u2
    obtain ⟨xs, voids⟩ : ∃ xs, u2.out = xs ++ u.out := bumpN_out u1 _ _
    obtain ⟨ys, withdraws⟩ := bumpN_out u2 withdrawnCnt (slots.countP Slot.withdrawCounts)
    exact ⟨ys ++ xs, by simp [withdraws, voids]⟩
  exact stops _ _

theorem removeQuery_answered {s : State} {r : CmdRef} {st : BitVec 16} {area : BitVec 320} {body : List Byte}
    (h : answered r st area body s) (q : Query) : answered r st area body (removeQuery s q) := by
  obtain ⟨sent, left, freed⟩ := h
  have queues : (removeQuery s q).queues = s.queues :=
    (removeQuery_follows (List.Subset.refl _) (State.follows_refl _ s)).frame .queues (by decide)
  obtain ⟨xs, out⟩ := removeQuery_out s q
  refine ⟨?_, (findCmd_congr (congrArg _ queues) ..).trans left, ?_⟩
  · rw [out]
    exact List.mem_append_right xs sent
  · rw [queues]
    exact freed

section
variable {s : State} {qid : Nat} {q : Query}

theorem exec_searchReply_waits (none_ : nextReply s = none) : exec (.searchReply qid) s = .next s := by
  simp [exec, execSearchReply, none_]

variable (next : nextReply s = some q)
include next

theorem exec_searchReply_other (other : q.qid ≠ qid) : exec (.searchReply qid) s = .next s := by
  simp [exec, execSearchReply, next, other]

/-- The first reply leaves, with its query and its tag (R111, R115). -/
theorem completes_searchReply (up : s.power.phase = .up) (named : q.qid = qid) {m : Cmd}
    (found : findCmd s q.ref.queue q.ref.tag = some m) (ref : m.ref = q.ref) (live : s.live q.ref.conn) :
    let r := searchReplyOf s q (q.folded.getD (ownList s q))
    completes (.searchReply qid) s fun t => answered q.ref r.status 0 r.body t ∧ findQuery t qid = none := by
  obtain ⟨queues, conns⟩ := keepsCommands_replyCounted s q
  have found1 : findCmd (replyCounted s q) q.ref.queue q.ref.tag = some m := (findCmd_congr (congrArg _ queues) ..).trans found
  refine ⟨replySearch s q, by simp [exec, execSearchReply, next, isUp, up, named], ?_, ?_⟩
  · rw [replySearch_eq, ← ref]
    exact removeQuery_answered (answer_answered _ _ _ (ref ▸ found1) (ref ▸ (conns _).mpr live)) q
  · rw [replySearch_eq, ← named]
    exact findQuery_removeQuery _ q

end

/-! ## READ_ITEM_REPLY -/

/-- The payload of a READ_ITEM that is answered with a status (R273). -/
def readBody (s : State) (r : ReadItem) (st : BitVec 16) : List Byte :=
  match (getColl s r.coll).bind fun c => (c.items.get r.slot).map fun it => (c, it) with
  | none => []
  | some (c, it) =>
    let e := (entryAt c r.snap r.slot).map Prod.fst
    if st = 0 then readPayload c r it e else if st = 0x0501 then fixedPart r it e else []

theorem answerRead_eq (s : State) (r : ReadItem) (st : BitVec 16) :
    answerRead s r st = answer (dropRead s r) r.ref.queue r.ref.tag st 0 (readBody s r st) := by
  unfold answerRead readBody
  cases (getColl s r.coll).bind fun c => (c.items.get r.slot).map fun it => (c, it) <;> rfl

theorem readBody_uncorrectable (s : State) (r : ReadItem) : readBody s r 0x0302 = [] := by
  unfold readBody
  split <;> rfl

theorem readBody_ok {s : State} {r : ReadItem} {c : Coll} {it : Item} (hc : getColl s r.coll = some c)
    (hit : c.items.get r.slot = some it) : readBody s r 0 = readPayload c r it ((entryAt c r.snap r.slot).map Prod.fst) := by
  simp [readBody, hc, hit]

/-- An answered read is a read no more; the others stand. -/
theorem answerRead_reads (s : State) (r : ReadItem) (st : BitVec 16) : (answerRead s r st).search.reads =
    s.search.reads.filter fun y => !(y.ref.queue == r.ref.queue && y.ref.tag == r.ref.tag) := by
  rw [answerRead_eq]
  simp [dropRead]

theorem answerRead_answered {s : State} {r : ReadItem} {m : Cmd} (found : findCmd s r.ref.queue r.ref.tag = some m)
    (ref : m.ref = r.ref) (live : s.live r.ref.conn) (st : BitVec 16) :
    answered r.ref st 0 (readBody s r st) (answerRead s r st) ∧ r ∉ (answerRead s r st).search.reads := by
  refine ⟨?_, by simp [answerRead_reads]⟩
  rw [answerRead_eq, ← ref]
  exact answer_answered (s := dropRead s r) _ _ _ (ref ▸ found) (ref ▸ live)

section
variable {s : State} {q g : Nat} {r : ReadItem} (up : s.power.phase = .up)
  (read : s.search.reads.find? (fun r => r.ref.queue == q && r.ref.tag == g) = some r)
include read

theorem findRead_ref : r.ref.queue = q ∧ r.ref.tag = g := by
  simpa using List.find?_some read

/-- A READ_ITEM replies neither before its schedule nor after its deadline's cut point (R273). -/
theorem exec_readItemReply_waits
    (waits : r.deadline < beadNow s ∨ (beadNow s = r.deadline ∧ s.time.cut = true) ∨ beadNow s < r.ready) (u : Bool) :
    exec (.readItemReply q g u) s = .next s := by
  simp only [exec, execReadItemReply, read]
  refine congrArg _ (if_pos ?_)
  rcases waits with late | ⟨last, cut⟩ | early
  · have past : ¬ beadNow s < r.deadline := Nat.not_lt.mpr late.le
    simp [past, late.ne']
  · simp [last, cut]
  · simp [early]

/-- A READ_ITEM whose reads have ended is answered, and is a read no more (R272, R273). -/
theorem readItemReply_answers {m : Cmd} (found : findCmd s q g = some m) (ref : m.ref = r.ref) (live : s.live r.ref.conn)
    (st : BitVec 16) : let t := answerRead (countItemReads s r) r st
    answered r.ref st 0 (readBody (countItemReads s r) r st) t ∧ r ∉ t.search.reads := by
  obtain ⟨queue, tag⟩ := findRead_ref read
  have counts : s.follows [.flash] (countItemReads s r) := countItemReads_follows (List.Subset.refl _) (State.follows_refl _ s)
  refine answerRead_answered ?_ ref ((live_congr (counts.frame .host (by decide))).mpr live) st
  rw [queue, tag, findCmd_congr (congrArg _ (counts.frame .queues (by decide))), found]

variable (open_ : beadNow s < r.deadline ∨ (beadNow s = r.deadline ∧ s.time.cut = false)) (ready : r.ready ≤ beadNow s)
include up open_ ready

theorem exec_readItemReply (u : Bool) : exec (.readItemReply q g u) s = .next
    (if u then answerRead (countItemReads s r) r 0x0302
    else match lostPart s r with
      | some (ch, off) => answerRead (lostRead s ch r.coll off) r 0x0302
      | none => answerRead (countItemReads s r) r 0) := by
  simp only [exec, execReadItemReply, read]
  refine congrArg _ (if_neg ?_)
  rcases open_ with before | ⟨last, uncut⟩
  · simp [isUp, up, before, ready]
  · simp [isUp, up, last, uncut, last ▸ ready]

end

/-! ## The obligation -/

/-- Settles O42: the first of the replies that may leave by its place in their order, a READ_ITEM by its time and its parts. -/
theorem searchReplies : Obligations.SearchReplies := by
  unfold Obligations.SearchReplies
  refine ⟨fun s qid q up next => ⟨?_, exec_searchReply_other next, fun m named => completes_searchReply next up named⟩,
    fun s qid => exec_searchReply_waits, fun s q g r up read => ⟨fun u waits => exec_readItemReply_waits read waits u,
      fun open_ ready => ⟨fun ch off lost => ?_, fun m found ref live => ⟨fun c it hc hit kept => ?_, ?_⟩⟩⟩,
    fun s i hi => coverage_of_pos hi s, fun s => rfl⟩
  · obtain ⟨member, free, first⟩ := nextReply_spec next
    obtain ⟨root, done, due⟩ := replyFree_iff.mp free
    exact ⟨member, root, done, due, fun x hx hfree => replyBefore_iff.mp (first x hx hfree)⟩
  · simp [exec_readItemReply up read open_ ready, lost]
  · have row := exec_readItemReply up read open_ ready false
    simp only [Bool.false_eq_true, if_false, kept] at row
    have coll : getColl (countItemReads s r) r.coll = some c :=
      (getColl_of_follows (countItemReads_follows (List.Subset.refl _) (State.follows_refl _ s)) (by decide) _).trans hc
    exact ⟨_, row, readBody_ok coll hit ▸ readItemReply_answers read found ref live 0⟩
  · exact ⟨_, exec_readItemReply up read open_ ready true,
      readBody_uncorrectable (countItemReads s r) r ▸ readItemReply_answers read found ref live 0x0302⟩

end Sys2Proof.Machine

/-! The moments of a bead (O22): the cut point, the admission gap, the multicast window and the edge (R101, R105, R108, R273,
R307, R308). -/

namespace Sys2Proof.Machine

/-! ## Time within a bead -/

theorem beadNow_of_time {s t : State} (h : t.time = s.time) : beadNow t = beadNow s := by
  unfold beadNow periodNs
  rw [h]

/-- Coming to a moment ahead of the bead's end stays within the bead (R101). -/
theorem beadNow_reach {n : Nat} (ahead : 0 < n) (s : State) : beadNow (reach s n) = beadNow s := by
  show max s.time.now ((s.time.now / periodNs s + 1) * periodNs s - n) / periodNs s = s.time.now / periodNs s
  generalize periodNs s = p
  rcases Nat.eq_zero_or_pos p with rfl | pos
  · simp
  · have below : s.time.now < (s.time.now / p + 1) * p := by
      rw [Nat.mul_comm]
      exact Nat.lt_mul_div_succ _ pos
    refine Nat.div_eq_of_lt_le ((Nat.div_mul_le_self _ _).trans (le_max_left _ _)) (max_lt below ?_)
    omega

/-! ## Reads at the cut point -/

theorem updQuery_reads (s : State) (id : Nat) (f : Query → Query) : (updQuery s id f).search.reads = s.search.reads := rfl

theorem onQuery_keeps {β : Type} {g : State → β} {f : State → Query → State} (step : ∀ s q, g (f s q) = g s)
    (s : State) (qid : Nat) : g (onQuery s qid f) = g s := by
  unfold onQuery
  split
  · rfl
  · exact step _ _

theorem ite_reads {a b : State} {xs : List ReadItem} {p : Prop} [Decidable p] (ha : a.search.reads = xs)
    (hb : b.search.reads = xs) : (if p then a else b).search.reads = xs := by
  split <;> assumption

theorem removeQuery_reads (s : State) (q : Query) : (removeQuery s q).search.reads = s.search.reads := by
  have same (u : State) : (dropIdleTasks u).search = u.search :=
    (dropIdleTasks_follows (List.Subset.refl _) (State.follows_refl _ u)).frame .search (by decide)
  unfold removeQuery
  rw [same]
  rfl

theorem finishStage_reads (s : State) (qid : Nat) (ties : List Nat) :
    (finishStage s qid ties).search.reads = s.search.reads := by
  have sent (u : State) (m : MsgHdr) (b : MsgBody) : (nextHop u m b).search = u.search :=
    (nextHop_follows (List.Subset.refl _) (State.follows_refl _ u)).frame .search (by decide)
  cases hq : findQuery s qid with
  | none => simp [finishStage, hq]
  | some q =>
    rw [finishStage_eq hq]
    dsimp only
    split
    · simp [updQuery_reads]
    · simp [removeQuery_reads, sent]

theorem dropVectors_reads (s : State) (why : Option Nat) (keep : List Nat) (q : Query) :
    (dropVectors s why keep q).search.reads = s.search.reads := by
  simp [dropVectors, updQuery_reads]

theorem dropBridges_reads (s : State) (q : Query) : (dropBridges s q).search.reads = s.search.reads := by
  simp [dropBridges, updQuery_reads]

theorem forceScore_reads (s : State) (q : Query) : (forceScore s q).search.reads = s.search.reads := by
  unfold forceScore
  split <;> simp [updQuery_reads]

theorem skipRerank_reads (why : Option Nat) (s : State) (q : Query) : (skipRerank why s q).search.reads = s.search.reads := by
  unfold skipRerank
  split
  · rfl
  · dsimp only
    split
    · exact dropVectors_reads ..
    · rfl

theorem forceList_reads (s : State) (qid : Nat) : (forceList s qid).search.reads = s.search.reads := by
  refine onQuery_keeps (g := fun t => t.search.reads) (fun t q => ?_) s qid
  split <;> rfl

/-- Ending the stages of a query leaves the reads (R108). -/
theorem endStages_reads (ladder : Bool) (why : Option Nat) (s : State) (qid : Nat) :
    (endStages ladder why s qid).search.reads = s.search.reads := by
  unfold endStages
  extract_lets b step1 step2 step3
  have first (t : State) (q : Query) : (step1 t q).search.reads = t.search.reads := by
    dsimp only [step1]
    split
    · rfl
    · rfl
    · exact dropBridges_reads ..
    · rfl
  have second (t : State) (q : Query) : (step2 t q).search.reads = t.search.reads := by
    have skipped (u : State) : (onQuery u qid (skipRerank why)).search.reads = u.search.reads :=
      onQuery_keeps (g := fun t => t.search.reads) (skipRerank_reads why) u qid
    dsimp only [step2]
    split
    · rw [skipped, forceScore_reads]
    · rw [skipped]
      simp [updQuery_reads]
    · simp [dropVectors_reads, dropFetched, updQuery_reads]
    · simp [dropVectors_reads, dropFetched, updQuery_reads]
    · rfl
  have third (t : State) (q : Query) : (step3 t q).search.reads = t.search.reads := by
    dsimp only [step3]
    split
    · exact finishStage_reads ..
    · rfl
  have on {f : State → Query → State} (h : ∀ t q, (f t q).search.reads = t.search.reads) (t : State) :
      (onQuery t qid f).search.reads = t.search.reads := onQuery_keeps (g := fun t => t.search.reads) h t qid
  rw [on third, forceList_reads, on second, on first]

theorem forceEnd_reads (ladder : Bool) (why : Option Nat) (s : State) (qid : Nat) :
    (forceEnd ladder why s qid).search.reads = s.search.reads := endStages_reads ladder why s qid

theorem cutQuery_reads (ladder : Bool) (s : State) (qid : Nat) : (cutQuery ladder s qid).search.reads = s.search.reads := by
  refine onQuery_keeps (g := fun t => t.search.reads) (fun t q => ?_) s qid
  dsimp only
  split
  · split
    · rfl
    · exact forceEnd_reads ..
  · split
    · exact endStages_reads ..
    · split
      · rfl
      · exact ite_reads (dropBridges_reads ..) rfl
      · exact dropVectors_reads ..
      · rfl

theorem detachQuery_reads (s : State) (qid : Nat) : (detachQuery s qid).search.reads = s.search.reads :=
  onQuery_keeps (g := fun t => t.search.reads) (f := fun t _ => forceEnd false (some 11) t qid)
    (fun t _ => forceEnd_reads false (some 11) t qid) s qid

/-- After answers to reads that are late, what is left was there before and none of them is left. -/
theorem mem_reads_of_answered {st : BitVec 16} {x : ReadItem} {late : List ReadItem} {s : State}
    (hx : x ∈ (late.foldl (fun t r => answerRead t r st) s).search.reads) : x ∈ s.search.reads ∧ x ∉ late := by
  induction late generalizing s with
  | nil => exact ⟨hx, List.not_mem_nil⟩
  | cons r rest ih =>
    obtain ⟨left, others⟩ := ih hx
    rw [answerRead_reads] at left
    obtain ⟨was, other⟩ := List.mem_filter.mp left
    refine ⟨was, fun member => ?_⟩
    rcases List.mem_cons.mp member with rfl | member
    · simp at other
    · exact others member

/-- The streams that the cut point ends (R76, R228, R232). -/
def streamsEnded (s : State) : State :=
  let s3 := endListStreams s
  let s4 := cancelStage s3 (· == .bridge) fun q => q.stage == .bridging && !q.bridgeTargets.isEmpty
  endVectorStreams (cancelStage s4 (· == .row) fun q => q.stage == .gathering)

/-- The module at a cut point before its reads are answered (R108). -/
def queriesCut (s : State) : State :=
  let d := drawBool s
  let ids := d.2.search.queries.map fun q => (q.qid, q.coll)
  streamsEnded (ids.foldl (fun t (id, c) => if isDetached t c then detachQuery t id else cutQuery d.1 t id) d.2)

/-- Reads that have come to their deadline in bead `b`, and those of detached collections (R30, R273). -/
def lateReads (b : Nat) (s : State) : List ReadItem :=
  s.search.reads.filter fun r => decide (r.deadline ≤ b) || isDetached s r.coll

theorem cutQueries_eq (s : State) : cutQueries s =
    (lateReads (beadNow s) (queriesCut s)).foldl (fun t r => answerRead t r 0x0501) (queriesCut s) := by
  simp only [cutQueries, queriesCut, lateReads, streamsEnded, drawBool]

theorem queriesCut_reads (s : State) : (queriesCut s).search.reads = s.search.reads := by
  have streams (u : State) : (streamsEnded u).search = u.search := by
    have ended : u.follows [.out, .host, .events, .counters, .streams] (streamsEnded u) :=
      endVectorStreams_follows (by decide) (cancelStage_follows (by decide) (cancelStage_follows (by decide)
        (endListStreams_follows (by decide) (State.follows_refl _ u))))
    exact ended.frame .search (by decide)
  unfold queriesCut
  dsimp only
  rw [streams]
  exact foldl_keeps (g := fun t => t.search.reads) (fun t x _ => ite_reads (detachQuery_reads ..) (cutQuery_reads ..)) _

/-- No READ_ITEM whose deadline is the bead outlives its cut point (R273). -/
theorem mem_reads_cutQueries {s : State} {x : ReadItem} (hx : x ∈ (cutQueries s).search.reads) :
    x ∈ s.search.reads ∧ beadNow s < x.deadline := by
  rw [cutQueries_eq] at hx
  obtain ⟨was, kept⟩ := mem_reads_of_answered hx
  refine ⟨queriesCut_reads s ▸ was, Nat.lt_of_not_le fun due => kept (List.mem_filter.mpr ⟨was, ?_⟩)⟩
  simp [due]

/-! ## Bundles -/

/-- The root and the bead of a bundle, and whether it is closed. -/
def Bundle.head (b : Bundle) : BitVec 20 × Nat × Bool := (b.root, b.bead, b.closed)

/-- The heads of the bundles held. -/
def bundleHeads (s : State) : List (BitVec 20 × Nat × Bool) := s.fabric.bundles.map Bundle.head

theorem bundleHeads_of_onlyLinks {s t : State} (h : s.onlyLinks t) : bundleHeads t = bundleHeads s := by
  unfold bundleHeads
  rw [h.bundles]

theorem bundleHeads_dropBundle (s : State) (b : Bundle) (child : BitVec 20) :
    bundleHeads (dropBundle s b child) = bundleHeads s := by
  unfold dropBundle
  rw [bundleHeads_of_onlyLinks (onlyLinks_bump ..), bundleHeads_of_onlyLinks (onlyLinks_sendBundle ..)]
  show (s.fabric.bundles.map _).map Bundle.head = _
  rw [List.map_map]
  refine List.map_congr_left fun x _ => ?_
  dsimp only [Function.comp]
  split <;> rfl

/-- A replay of a bundle neither adds nor closes one (R309). -/
theorem bundleHeads_replayBundle (child : BitVec 20) (s : State) (b : Bundle) :
    bundleHeads (replayBundle child s b) = bundleHeads s := by
  unfold replayBundle
  split
  · rw [bundleHeads_of_onlyLinks (onlyLinks_sendBundle ..)]
    exact foldl_keeps (g := bundleHeads) (fun t x _ => bundleHeads_of_onlyLinks (onlyLinks_nextHop ..)) s
  · exact bundleHeads_dropBundle s b child

/-- Closing bundles closes those it names, whatever their ends send (R307). -/
theorem bundleHeads_closeBundle (s : State) (p : Bundle → Bool) : bundleHeads (closeBundle s p) =
    s.fabric.bundles.map fun b => (if p b then { b with closed := true } else b).head := by
  unfold closeBundle
  dsimp only
  rw [foldl_keeps (g := bundleHeads) fun t b _ => ?_]
  · exact List.map_map
  · rw [foldl_keeps (g := bundleHeads) fun u k _ => bundleHeads_replayBundle k u b]
    exact bundleHeads_of_onlyLinks (onlyLinks_sendBundle ..)

/-- A bundle that is named to be closed by its root and its bead is closed (R307). -/
theorem closed_of_closeBundle {s : State} {root : BitVec 20} {bead : Nat} {b : Bundle}
    (hb : b ∈ (closeBundle s fun x => x.root == root && x.bead == bead).fabric.bundles) (ofRoot : b.root = root)
    (ofBead : b.bead = bead) : b.closed = true := by
  have head : b.head ∈ bundleHeads (closeBundle s fun x => x.root == root && x.bead == bead) := List.mem_map_of_mem hb
  rw [bundleHeads_closeBundle] at head
  obtain ⟨x, -, same⟩ := List.mem_map.mp head
  by_cases named : (x.root == root && x.bead == bead) = true
  · simp only [if_pos named, Bundle.head, Prod.mk.injEq] at same
    obtain ⟨-, -, closed⟩ := same
    exact closed.symm
  · simp only [if_neg named, Bundle.head, Prod.mk.injEq] at same
    obtain ⟨root1, bead1, -⟩ := same
    exact absurd (by simp [root1, bead1, ofRoot, ofBead]) named

/-! ## The cut point and the admission gap -/

theorem cutQueries_time (s : State) : (cutQueries s).time = s.time :=
  (cutQueries_follows (List.Subset.refl _) (State.follows_refl _ s)).frame .time (by decide)

theorem closeBundle_time (s : State) (p : Bundle → Bool) : (closeBundle s p).time = s.time :=
  (closeBundle_follows (List.Subset.refl _) (State.follows_refl _ s)).frame .time (by decide)

/-- The module as the cut point finds it, 2 µs before the end of the bead. -/
def atCut (s : State) : State := (reach s 2000).modTime fun t => { t with cut := true }

/-- The module as the admission gap finds it, 1 µs before the end of the bead. -/
def atGap (s : State) : State := (reach s 1000).modTime fun t => { t with gap := true }

theorem atCut_beadNow (s : State) : beadNow (atCut s) = beadNow s := beadNow_reach (n := 2000) (by decide) s
theorem atGap_beadNow (s : State) : beadNow (atGap s) = beadNow s := beadNow_reach (n := 1000) (by decide) s

theorem cutPoint_open {s : State} (uncut : s.time.cut = false) : cutPoint s = cutQueries (atCut s) := by
  simp [cutPoint, uncut, atCut]

theorem cutPoint_past {s : State} (cut : s.time.cut = true) : cutPoint s = s := by
  simp [cutPoint, cut]

theorem admissionGap_open {s : State} (ungapped : s.time.gap = false) : admissionGap s =
    let u := atGap (cutPoint s)
    closeBundle u fun b => b.root == u.fabric.addr && b.bead == beadNow u := by
  simp [admissionGap, ungapped, atGap]

theorem admissionGap_past {s : State} (gap : s.time.gap = true) : admissionGap s = s := by
  simp [admissionGap, gap]

/-- A cut point passes within its bead, whether it has come or not. -/
theorem cutPoint_spec (s : State) : beadNow (cutPoint s) = beadNow s ∧ (cutPoint s).time.cut = true ∧
    (cutPoint s).time = { s.time with now := (cutPoint s).time.now, cut := true } := by
  cases cut : s.time.cut with
  | true =>
    rw [cutPoint_past cut]
    exact ⟨rfl, cut, by rw [← cut]⟩
  | false =>
    rw [cutPoint_open cut, cutQueries_time]
    exact ⟨(beadNow_of_time (cutQueries_time _)).trans (atCut_beadNow s), rfl, rfl⟩

/-- An admission gap passes within its bead, whether it has come or not. -/
theorem admissionGap_spec (s : State) : beadNow (admissionGap s) = beadNow s ∧
    ∃ n c, (admissionGap s).time = { s.time with now := n, cut := c, gap := true } := by
  cases gap : s.time.gap with
  | true =>
    rw [admissionGap_past gap]
    exact ⟨rfl, _, _, by rw [← gap]⟩
  | false =>
    obtain ⟨bead, -, time⟩ := cutPoint_spec s
    rw [admissionGap_open gap]
    dsimp only
    have gapped (u : State) : (atGap u).time = { u.time with now := (atGap u).time.now, gap := true } := rfl
    refine ⟨(beadNow_of_time (closeBundle_time _ _)).trans ((atGap_beadNow _).trans bead),
      (atGap (cutPoint s)).time.now, true, ?_⟩
    rw [closeBundle_time, gapped, time]

/-! ## The multicast window -/

/-- A window closes once, at its moment or with its bundle full (R308). -/
theorem exec_multicastWindowClose {s : State} {tree : Nat} {r : TreeRec} (runs : beadsRun s = true)
    (hr : treeRec s tree = some r) (open_ : tree ∉ s.fabric.closed) : exec (.multicastWindowClose tree) s =
      .next ((if bundleBytes s tree < 1024 * r.mcBytes then reach s (1000 * r.mcClose) else s).modFabric fun f =>
        { f with closed := f.closed ++ [tree] }) := by
  have new : s.fabric.closed.contains tree = false := by simpa using open_
  have full : 1024 * r.mcBytes ≤ bundleBytes s tree ↔ ¬ bundleBytes s tree < 1024 * r.mcBytes := Nat.not_lt.symm
  simp only [exec, execMulticastWindowClose, hr, runs, new, Bool.not_false, Bool.and_self, if_true, decide_eq_true_eq,
    full, ite_not]

/-! ## The edge -/

/-- Of the locket at most measurement register 3 changes, which a partial setting extends (R334). -/
def State.onlyPartialMeas (s t : State) : Prop :=
  t.locket = { s.locket with meas := t.locket.meas } ∧ ∀ i, i ≠ 3 → t.locket.meas.getD i 0 = s.locket.meas.getD i 0

theorem onlyPartialMeas_of_locket {s t : State} (h : t.locket = s.locket) : s.onlyPartialMeas t := by
  unfold State.onlyPartialMeas
  rw [h]
  exact ⟨rfl, fun _ _ => rfl⟩

theorem onlyPartialMeas_congr {s s' t t' : State} (before : s'.locket = s.locket) (after : t'.locket = t.locket)
    (h : s.onlyPartialMeas t) : s'.onlyPartialMeas t' := by
  unfold State.onlyPartialMeas
  rwa [before, after]

theorem onlyPartialMeas_partialRelease (s : State) : s.onlyPartialMeas (partialRelease s) := by
  cases hp : s.loader.part with
  | none => exact onlyPartialMeas_of_locket (by simp only [partialRelease, hp])
  | some p =>
    by_cases loaded : p.step = .loaded
    · have released : (releasePartial s).locket = s.locket :=
        (releasePartial_follows (List.Subset.refl _) (State.follows_refl _ s)).frame .locket (by decide)
      have answered : (partialRelease s).locket = (partialReleased s p).locket := by
        rw [partialRelease_eq hp loaded]
        simp
      refine onlyPartialMeas_congr released.symm answered ⟨rfl, fun i other => updAt_getD_other _ _ _ _ _ other⟩
    · exact onlyPartialMeas_of_locket (by simp [partialRelease, hp, loaded])

theorem onlyPartialMeas_releases (s : State) : s.onlyPartialMeas (releases s) := by
  have after (u : State) : (mapEdge (hbmEdge u)).locket = u.locket :=
    State.follows.frame (T := [.hbm, .flash]) (mapEdge_follows (by decide)
      (hbmEdge_follows (by decide) (State.follows_refl _ u))) .locket (by decide)
  unfold releases
  extract_lets s1 s2 s3
  refine onlyPartialMeas_congr ?_ (after _) (onlyPartialMeas_partialRelease _)
  rfl

/-- The units' part of an edge measures the partial setting that it releases (R334). -/
theorem onlyPartialMeas_unitsEdge (s : State) : s.onlyPartialMeas (unitsEdge s) := by
  have before : (intervalActions s).locket = s.locket :=
    (intervalActions_follows (List.Subset.refl _) (State.follows_refl _ s)).frame .locket (by decide)
  have after (u : State) : (shedEdge (settingEdge u)).locket = u.locket :=
    State.follows.frame (T := [.out, .power, .host, .events, .counters, .loader, .facets]) (shedEdge_follows (by decide)
      (settingEdge_follows (by decide) (State.follows_refl _ u))) .locket (by decide)
  exact onlyPartialMeas_congr before.symm (after _) (onlyPartialMeas_releases _)

theorem newBead_time (s : State) (b : Nat) : (newBead s b).time =
    { s.time with now := b * periodNs s, cut := false, gap := false, nbrMax := s.time.nbrNow, nbrNow := 0,
                  skew := decide (skewLimit < s.time.nbrNow) } := by
  unfold newBead
  dsimp only
  split <;> rfl

/-- The bead that an edge begins, before its work (R21, R101). -/
def edgeBegun (s : State) : State := newBead (repliesDue (admissionGap s)) (beadNow (repliesDue (admissionGap s)) + 1)

/-- What of an edge follows on its units. -/
def edgeWork (pkgMw : Nat) (ord : List Nat) (b : Nat) (s : State) : State :=
  actEarly (launchEdge (packageEdge pkgMw (branchesEdge (applyDue (learnEdge (collsEdge s b)) b) b)) b ord)

theorem beadEdge_eq (pkgMw : Nat) (ord : List Nat) (s : State) : beadEdge pkgMw ord s =
    edgeWork pkgMw ord (beadNow (repliesDue (admissionGap s)) + 1) (unitsEdge (edgeBegun s)) := rfl

theorem edgeWork_follows (pkgMw : Nat) (ord : List Nat) (b : Nat) (s : State) :
    s.follows (Field.but [.time, .locket, .facetRam, .board]) (edgeWork pkgMw ord b s) :=
  actEarly_follows (by decide) (launchEdge_follows (by decide) (packageEdge_follows (by decide)
    (branchesEdge_follows (by decide) (applyDue_follows (by decide) (learnEdge_follows (by decide)
      (collsEdge_follows (by decide) (State.follows_refl _ s)))))))

theorem edgeBegun_follows (s : State) : s.follows (Field.but [.locket, .facetRam, .board]) (edgeBegun s) :=
  newBead_follows (by decide) (repliesDue_follows (by decide) (admissionGap_follows (by decide) (State.follows_refl _ s)))

/-- The bead that an edge begins is the next, at its moment (R101). -/
theorem edgeBegun_time {s : State} : ∃ sk, (edgeBegun s).time =
    { s.time with now := (beadNow s + 1) * periodNs s, cut := false, gap := false, nbrMax := s.time.nbrNow, nbrNow := 0,
                  skew := sk } := by
  have replied : (repliesDue (admissionGap s)).time = (admissionGap s).time :=
    (repliesDue_follows (List.Subset.refl _) (State.follows_refl _ _)).frame .time (by decide)
  obtain ⟨bead, n, c, time⟩ := admissionGap_spec s
  have period : periodNs (repliesDue (admissionGap s)) = periodNs s := by
    unfold periodNs
    rw [replied, time]
  refine ⟨decide (skewLimit < s.time.nbrNow), ?_⟩
  unfold edgeBegun
  rw [newBead_time, period, beadNow_of_time replied, bead, replied, time]

/-! ## The obligation -/

/-- Settles O22: each moment of the bead by its own rule. -/
theorem beadMoments : Obligations.BeadMoments := by
  unfold Obligations.BeadMoments
  refine ⟨fun s runs uncut => ?_, fun s runs cut ungapped => ?_, fun s runs uncut ungapped => ?_,
    fun s tree r runs hr open_ => ?_, fun s mw ord runs period => ?_⟩
  · have row : exec .cutPoint s = .next (cutQueries (atCut s)) := by simp [exec, execCutPoint, runs, cutPoint_open uncut]
    refine ⟨_, row, (cutQueries_time _).trans rfl, fun x hx => ?_⟩
    obtain ⟨was, later⟩ := mem_reads_cutQueries hx
    exact ⟨was, atCut_beadNow s ▸ later⟩
  · refine ⟨admissionGap s, by simp [exec, execAdmissionGap, runs], ?_⟩
    rw [admissionGap_open ungapped, cutPoint_past cut]
    refine ⟨(closeBundle_time _ _).trans rfl, fun b hb root bead => ?_⟩
    exact closed_of_closeBundle hb root (bead.trans (atGap_beadNow s).symm)
  · obtain ⟨-, cut, -⟩ := cutPoint_spec s
    refine ⟨admissionGap s, by simp [exec, execAdmissionGap, runs], ?_⟩
    rw [admissionGap_open ungapped]
    dsimp only
    rw [closeBundle_time]
    exact ⟨cut, rfl⟩
  · refine ⟨_, exec_multicastWindowClose runs hr open_, ?_, ?_⟩
    · split <;> rfl
    · split <;> rfl
  · obtain ⟨sk, time⟩ := edgeBegun_time (s := s)
    have begun := edgeBegun_follows s
    have units : (edgeBegun s).follows (Field.but [.free, .time, .facetRam, .board]) (unitsEdge (edgeBegun s)) :=
      unitsEdge_follows (List.Subset.refl _) (State.follows_refl _ _)
    have work := edgeWork_follows mw ord (beadNow (repliesDue (admissionGap s)) + 1) (unitsEdge (edgeBegun s))
    have after : (beadEdge mw ord s).time = (edgeBegun s).time := by
      rw [beadEdge_eq]
      exact (work.frame .time (by decide)).trans (units.frame .time (by decide))
    have board : (beadEdge mw ord s).board = s.board := by
      rw [beadEdge_eq]
      exact (work.frame .board (by decide)).trans ((units.frame .board (by decide)).trans (begun.frame .board (by decide)))
    have measured : s.onlyPartialMeas (beadEdge mw ord s) := by
      rw [beadEdge_eq]
      exact onlyPartialMeas_congr (begun.frame .locket (by decide)).symm (work.frame .locket (by decide))
        (onlyPartialMeas_unitsEdge _)
    refine ⟨beadEdge mw ord s, by simp [exec, execBeadEdge, runs], ?_, ?_, ?_, ?_, ?_, ?_, measured.1, measured.2, board⟩ <;>
      rw [after, time]

end Sys2Proof.Machine

/-! Memory-side adders (O38): what an operation makes of the bits of one element, what a request to a channel leaves in it, and
that nothing else of the memory moves (R121, R132, R182, R190). -/

namespace Sys2Proof.Machine

/-! ## Runs of bytes in a memory -/

@[simp] theorem length_leBytes (n v : Nat) : (leBytes n v).length = n := by
  induction n generalizing v with
  | zero => rfl
  | succ n ih => simp [leBytes, ih]

/-- A run of bytes leaves every address outside it as it was. -/
theorem Memory.read_writeBytes_other {m : Memory} (w : m.wf = true) {a x : Nat} {bs : List Byte}
    (out : x < a ∨ a + bs.length ≤ x) : (m.writeBytes a bs).read x = m.read x := by
  induction bs generalizing m a with
  | nil => rfl
  | cons b bs ih =>
    rw [List.length_cons] at out
    rw [Memory.writeBytes, ih (Memory.write_wf m a b w) (by omega), Memory.read_write_other m 0 a x b w (by omega)]

/-- A run of bytes reads back as written. -/
theorem Memory.readBytes_writeBytes {m : Memory} (w : m.wf = true) (a : Nat) (bs : List Byte) :
    (m.writeBytes a bs).readBytes a bs.length = bs := by
  induction bs generalizing m a with
  | nil => rfl
  | cons b bs ih =>
    have written := Memory.write_wf m a b w
    rw [Memory.writeBytes, List.length_cons, Memory.readBytes, ih written,
      Memory.read_writeBytes_other written (.inl (Nat.lt_succ_self a)), Memory.read_write_same m 0 a b w]

/-! ## Integer elements -/

theorem toSigned_toNat {w : Nat} (x : BitVec w) : toSigned w x.toNat = x.toInt := by
  have half : x.toNat < 2 ^ (w - 1) ↔ 2 * x.toNat < 2 ^ w := by
    cases w with
    | zero => simp [BitVec.of_length_zero]
    | succ w => rw [Nat.add_sub_cancel, Nat.pow_succ]; omega
  simp only [toSigned, half, BitVec.toInt_eq_toNat_cond, Nat.cast_pow, Nat.cast_ofNat]

/-- The adder's sum is that of two's complement, and it wraps where the signed sum leaves the width (R132). -/
theorem addWrap_toNat {w : Nat} (x y : BitVec w) : addWrap w x.toNat y.toNat = ((x + y).toNat, BitVec.saddOverflow x y) := by
  simp [addWrap, BitVec.saddOverflow, Nat.mod_eq_of_lt, BitVec.isLt, toSigned_toNat, Bool.or_comm]

section
variable {fmt : MsaFmt} (int : fmt = .int32 ∨ fmt = .int64) (d v : BitVec (8 * msaBytes fmt))
include int

/-- An integer element is taken at its own width (R182). -/
theorem msaElem_int (op : Nat) : msaElem op fmt d.toNat v.toNat =
    if op = 0 then ((d + v).toNat, BitVec.saddOverflow d v)
    else (if op = 1 then (if v.slt d then v else d).toNat else (if d.slt v then v else d).toNat, false) := by
  have taken (x : BitVec (8 * msaBytes fmt)) : x.toNat % 2 ^ (8 * msaBytes fmt) = x.toNat := Nat.mod_eq_of_lt x.isLt
  have less (x y : BitVec (8 * msaBytes fmt)) : decide (toSigned (8 * msaBytes fmt) x.toNat <
      toSigned (8 * msaBytes fmt) y.toNat) = x.slt y := by
    rw [toSigned_toNat, toSigned_toNat, BitVec.slt]
  have shape (d v : Nat) : msaElem op fmt d v =
      let n := 8 * msaBytes fmt
      if op = 0 then addWrap n (d % 2 ^ n) (v % 2 ^ n)
      else (if op = 1 then (if decide (toSigned n (v % 2 ^ n) < toSigned n (d % 2 ^ n)) then v % 2 ^ n else d % 2 ^ n)
        else (if decide (toSigned n (d % 2 ^ n) < toSigned n (v % 2 ^ n)) then v % 2 ^ n else d % 2 ^ n), false) := by
    rcases int with rfl | rfl <;> rfl
  simp only [shape, taken, less, addWrap_toNat, apply_ite BitVec.toNat]

/-- The sum, the smaller and the larger of two integer elements (R132). -/
theorem msaElem_int_ops : msaElem 0 fmt d.toNat v.toNat = ((d + v).toNat, BitVec.saddOverflow d v) ∧
    (msaElem 1 fmt d.toNat v.toNat).1 = (if v.slt d then v else d).toNat ∧
    (msaElem 2 fmt d.toNat v.toNat).1 = (if d.slt v then v else d).toNat := by
  simp [msaElem_int int]

end

/-! ## Floating elements -/

/-- A NaN on either side gives the format's NaN (R122). -/
theorem pickNum_nan {max : Bool} {x y : Num} {xBits yBits nan : Nat} (h : x.isNan = true ∨ y.isNan = true) :
    pickNum max x y xBits yBits nan = nan := by
  simp [pickNum, h]

/-- No zero is below another, whatever their signs (R81). -/
theorem Num.lt_zeros {x y : Num} (hx : x.isZero = true) (hy : y.isZero = true) : Num.lt x y = false := by
  cases x <;> cases y <;> simp_all [Num.isZero, Num.lt, Num.scaleTo]

/-- Of two zeros the destination stays. -/
theorem pickNum_zeros {max : Bool} {x y : Num} {xBits yBits nan : Nat} (hx : x.isZero = true) (hy : y.isZero = true) :
    pickNum max x y xBits yBits nan = xBits := by
  have number {z : Num} (h : z.isZero = true) : z.isNan = false := by cases z <;> simp_all [Num.isZero, Num.isNan]
  simp [pickNum, number hx, number hy, Num.lt_zeros hx hy, Num.lt_zeros hy hx]

/-- A pattern whose bits below the sign are clear is a zero (R122). -/
theorem decodeIeee_isZero {eb fb : Nat} (wide : 0 < eb) (bias : Int) {w : Nat} (clear : w % 2 ^ (fb + eb) = 0) :
    (decodeIeee eb fb bias w).isZero = true := by
  have exponent : (w >>> fb) % 2 ^ eb = 0 := by
    rw [Nat.shiftRight_eq_div_pow, ← Nat.mod_mul_right_div_self, ← Nat.pow_add, clear, Nat.zero_div]
  have fraction : w % 2 ^ fb = 0 := by
    rw [← Nat.mod_mod_of_dvd w (Nat.pow_dvd_pow 2 (Nat.le_add_right fb eb)), clear, Nat.zero_mod]
  have finite : (0 : Nat) ≠ 2 ^ eb - 1 := by
    have := Nat.one_lt_two_pow wide.ne'
    omega
  simp [decodeIeee, exponent, fraction, finite, Num.isZero]

theorem mod_of_extractLsb' {w n : Nat} {x : BitVec w} (h : x.extractLsb' 0 n = 0) : x.toNat % 2 ^ n = 0 := by
  simpa using congrArg BitVec.toNat h

theorem ofF32_isZero {x : BitVec 32} (clear : x.extractLsb' 0 31 = 0) : (Num.ofF32 x).isZero = true :=
  decodeIeee_isZero (by decide) _ (mod_of_extractLsb' clear)

theorem ofBf16_isZero {x : BitVec 16} (clear : x.extractLsb' 0 15 = 0) : (Num.ofBf16 x).isZero = true :=
  decodeIeee_isZero (by decide) _ (mod_of_extractLsb' clear)

theorem msaElem_fp32_add (d v : BitVec 32) : (msaElem 0 .fp32 d.toNat v.toNat).1 =
    (Num.toF32 (Num.add (Num.ofF32 d) (Num.ofF32 v))).toNat := by
  simp [msaElem]

theorem msaElem_bf16_add (d v : BitVec 16) : (msaElem 0 .bf16 d.toNat v.toNat).1 =
    (Num.toBf16 (Num.add (Num.ofBf16 d) (Num.ofBf16 v))).toNat := by
  simp [msaElem]

section
variable {op : Nat} (pick : op = 1 ∨ op = 2)
include pick

theorem msaElem_fp32_pick (d v : BitVec 32) : (msaElem op .fp32 d.toNat v.toNat).1 =
    pickNum (op == 2) (Num.ofF32 d) (Num.ofF32 v) d.toNat v.toNat 0x7FC00000 := by
  have other : op ≠ 0 := by omega
  simp only [msaElem, other, if_false, BitVec.ofNat_toNat, BitVec.setWidth_eq, Nat.mod_eq_of_lt d.isLt, Nat.mod_eq_of_lt v.isLt]

theorem msaElem_bf16_pick (d v : BitVec 16) : (msaElem op .bf16 d.toNat v.toNat).1 =
    pickNum (op == 2) (Num.ofBf16 d) (Num.ofBf16 v) d.toNat v.toNat 0x7FC0 := by
  have other : op ≠ 0 := by omega
  simp only [msaElem, other, if_false, BitVec.ofNat_toNat, BitVec.setWidth_eq, Nat.mod_eq_of_lt d.isLt, Nat.mod_eq_of_lt v.isLt]

end

/-! ## Requests -/

/-- What a request makes of the element at an address of a memory, and whether its sum wrapped. -/
def msaNew (m : Memory) (a : Nat) (r : MsaReq) : Nat × Bool :=
  msaElem r.op r.fmt (leNat (m.readBytes a (msaBytes r.fmt))) r.v.toNat

/-- The memory after a request at an address. -/
def msaStored (m : Memory) (a : Nat) (r : MsaReq) : Memory := m.writeBytes a (leBytes (msaBytes r.fmt) (msaNew m a r).1)

/-- A request puts its result in the bytes of the element and moves no other byte (R182). -/
theorem msaStored_spec {m : Memory} (w : m.wf = true) (a : Nat) (r : MsaReq) :
    (msaStored m a r).readBytes a (msaBytes r.fmt) = leBytes (msaBytes r.fmt) (msaNew m a r).1 ∧
      ∀ x, x < a ∨ a + msaBytes r.fmt ≤ x → (msaStored m a r).read x = m.read x := by
  have stored := Memory.readBytes_writeBytes w a (leBytes (msaBytes r.fmt) (msaNew m a r).1)
  rw [length_leBytes] at stored
  exact ⟨stored, fun x out => Memory.read_writeBytes_other w (by rwa [length_leBytes])⟩

section
variable (s : State) (ch : Nat) (r : MsaReq)

/-- The state in which a request has changed its element and not yet counted. -/
def scratchChanged : State := s.modHbm fun h => { h with scratch := msaStored h.scratch (scratchAddr ch r.addr) r }

theorem msaApply_eq : msaApply s ch r =
    if (msaNew s.hbm.scratch (scratchAddr ch r.addr) r).2 then bump (scratchChanged s ch r) (msaOvfCnt (ch / 32))
    else scratchChanged s ch r := rfl

/-- A count of wraps leaves the memories as the request made them. -/
theorem msaApply_memories : (msaApply s ch r).near = s.near ∧
    (msaApply s ch r).hbm = { s.hbm with scratch := msaStored s.hbm.scratch (scratchAddr ch r.addr) r } := by
  rw [msaApply_eq]
  split <;> simp [scratchChanged]

/-- A sum that wraps counts once in its stack, and nothing else counts (R182, R350). -/
theorem msaApply_counts : let e := msaNew s.hbm.scratch (scratchAddr ch r.addr) r
    (e.2 = false → (msaApply s ch r).counters = s.counters) ∧
    (e.2 = true → (counterAt (msaApply s ch r) (msaOvfCnt (ch / 32))).val =
      min (2 ^ 48 - 1) ((counterAt s (msaOvfCnt (ch / 32))).val + 1)) := by
  have loss : msaOvfCnt (ch / 32) ≠ eventDropCnt := by
    unfold msaOvfCnt stackBase eventDropCnt
    omega
  rw [msaApply_eq]
  refine ⟨fun whole => by simp [whole, scratchChanged], fun wraps => ?_⟩
  rw [if_pos wraps, bump, counterAt_bumpN _ _ _ Nat.one_ne_zero loss, if_pos rfl]
  exact (countUp_spec _ 1).1.trans (min_comm ..)

variable {s ch r}

/-- A channel that serves applies the request (R182). -/
theorem msaRequest_served (hbm : ch < 256) (serves : (getChan s ch).state = 0) : msaRequest s ch r = msaApply s ch r := by
  simp [msaRequest, hbm, serves]

/-- A channel that retrains keeps the request for its end (R190). -/
theorem msaRequest_waits (hbm : ch < 256) (retrains : (getChan s ch).state = 1) :
    msaRequest s ch r = updChan s ch fun c => { c with queued := c.queued ++ [.msa r] } := by
  simp [msaRequest, hbm, retrains]

/-- A channel that is out discards the request. -/
theorem msaRequest_discarded (hbm : ch < 256) (online : (getChan s ch).state ≠ 0) (trained : (getChan s ch).state ≠ 1) :
    msaRequest s ch r = s := by
  rw [msaRequest, if_pos hbm]
  split
  · exact absurd ‹_› online
  · exact absurd ‹_› trained
  · rfl

/-- A near-memory bank group applies the request and has no counter of wraps (log entry 49). -/
theorem msaRequest_near (near : 256 ≤ ch) : msaRequest s ch r =
    s.modNear fun m => { m with bytes := msaStored s.near.bytes ((ch - 256) * 2 ^ 32 + r.addr % 2 ^ 32) r } := by
  rw [msaRequest, if_neg (Nat.not_lt.mpr near)]
  rfl

end

theorem exec_msaRow {i : Instr} {op ch addr : Nat} {fmt : MsaFmt} {v : BitVec 64} {s : State} (up : s.power.phase = .up)
    (row : (i, op) ∈ [(.msaAdd ch addr fmt v, 0), (.msaMin ch addr fmt v, 1), (.msaMax ch addr fmt v, 2)]) :
    exec i s = .next (msaRequest s ch ⟨op, addr, fmt, v, none⟩) := by
  simp only [List.mem_cons, List.not_mem_nil, or_false, Prod.mk.injEq] at row
  obtain ⟨rfl, rfl⟩ | ⟨rfl, rfl⟩ | ⟨rfl, rfl⟩ := row
  · simp [exec, execMsaAdd, isUp, up]
  · simp [exec, execMsaMin, isUp, up]
  · simp [exec, execMsaMax, isUp, up]

/-! ## The obligation -/

/-- Settles O38: the elements of each format, then each place a request can go to. -/
theorem addersAct : Obligations.AddersAct := by
  unfold Obligations.AddersAct
  refine ⟨⟨msaElem_int_ops (.inl rfl), msaElem_int_ops (.inr rfl), fun d v => ?_, fun d v => ?_⟩,
    fun i op ch addr fmt v s up memOk row => ?_⟩
  · refine ⟨msaElem_fp32_add d v, fun nan op pick => ?_, fun op pick hd hv => ?_⟩
    · rw [msaElem_fp32_pick pick, pickNum_nan nan]
      decide
    · exact (msaElem_fp32_pick pick d v).trans (pickNum_zeros (ofF32_isZero hd) (ofF32_isZero hv))
  · refine ⟨msaElem_bf16_add d v, fun nan op pick => ?_, fun op pick hd hv => ?_⟩
    · rw [msaElem_bf16_pick pick, pickNum_nan nan]
      decide
    · exact (msaElem_bf16_pick pick d v).trans (pickNum_zeros (ofBf16_isZero hd) (ofBf16_isZero hv))
  · obtain ⟨⟨-, nearWf⟩, scratchWf⟩ : (s.facetRam.wf = true ∧ s.near.bytes.wf = true) ∧ s.hbm.scratch.wf = true := by
      simpa [State.memOk] using memOk
    have request := exec_msaRow up row
    refine ⟨fun hbm serves => ?_, fun hbm retrains => ?_, fun hbm online trained => ?_, fun near => ?_⟩
    · rw [msaRequest_served hbm serves] at request
      have ⟨near, chans⟩ := msaApply_memories s ch ⟨op, addr, fmt, v, none⟩
      obtain ⟨element, frame⟩ := msaStored_spec scratchWf (scratchAddr ch addr) ⟨op, addr, fmt, v, none⟩
      refine ⟨_, request, ?_, near, ?_, ?_, msaApply_counts s ch ⟨op, addr, fmt, v, none⟩⟩ <;> rw [chans]
      · exact element
      · exact frame
    · rw [request, msaRequest_waits hbm retrains]
    · rw [request, msaRequest_discarded hbm online trained]
    · rw [msaRequest_near near] at request
      obtain ⟨element, frame⟩ := msaStored_spec nearWf ((ch - 256) * 2 ^ 32 + addr % 2 ^ 32) ⟨op, addr, fmt, v, none⟩
      exact ⟨_, request, element, rfl, rfl, frame⟩

end Sys2Proof.Machine

/-! The state at reset (O3): every register at its reset value (R150, R338, R342, R397). -/

namespace Sys2Proof.Machine

/-- At reset the collectors of the dies and of the module run DETAIL, and every other reads as a facet's does (R342). -/
theorem getCol_reset (c : Nat) : getCol State.reset c = Collector.reset (decide (68 ≤ c) && decide (c < 73)) := by
  show (List.replicate 68 (Collector.reset false) ++ List.replicate 5 (Collector.reset true)).getD c (Collector.reset false) = _
  by_cases facet : c < 68
  · rw [List.getD_append _ _ _ _ (by simpa using facet), List.getD_replicate _ facet, decide_eq_false (Nat.not_le.mpr facet)]
    rfl
  · rw [List.getD_append_right _ _ _ _ (by simpa using facet), List.length_replicate]
    by_cases hub : c < 73
    · rw [List.getD_replicate _ (by omega), decide_eq_true (Nat.not_lt.mp facet), decide_eq_true hub]
      rfl
    · rw [List.getD_eq_default _ _ (by simp; omega), decide_eq_false hub, Bool.and_false]

/-- Settles O3: the collectors are read by `getCol_reset`; every other register is a reset value as it stands. -/
theorem resetLeaves : Obligations.ResetLeaves := by
  unfold Obligations.ResetLeaves
  refine ⟨⟨rfl, rfl, rfl, rfl, rfl, rfl, rfl, fun c facet => ?_, fun c low high => ?_, fun c => ?_, rfl, rfl, rfl, rfl, rfl, rfl⟩,
    rfl, rfl, Nat.zero_le _, Nat.zero_le _, List.forall_mem_nil _⟩
  · rw [getCol_reset, decide_eq_false (Nat.not_le.mpr facet)]
    rfl
  · rw [getCol_reset, decide_eq_true low, decide_eq_true high]
    rfl
  · rw [getCol_reset]
    rfl

end Sys2Proof.Machine

/-! Register access (O24): what IDENTIFY, ATTEST, MGMT_READ and MGMT_WRITE reply and leave, and the learning registers (R150,
R287, R379, R384, R391). -/

namespace Sys2Proof.Machine

/-! ## The state a management command is decided on -/

section
variable {op : BitVec 8} {c : Capsule} {s : State}

theorem queued_identifyBody : identifyBody (queued op c s) = identifyBody s := by
  obtain ⟨h, q, l, n, e, eq⟩ := queued_eq op c s
  rw [eq]
  rfl

theorem queued_quoteBody (mask : Nat) (nonce : List Byte) : quoteBody (queued op c s) mask nonce = quoteBody s mask nonce := by
  obtain ⟨h, q, l, n, e, eq⟩ := queued_eq op c s
  rw [eq]
  rfl

theorem queued_loader : (queued op c s).loader = s.loader := by
  obtain ⟨h, q, l, n, e, eq⟩ := queued_eq op c s
  rw [eq]

theorem queued_collectors : (queued op c s).collectors = s.collectors := by
  obtain ⟨h, q, l, n, e, eq⟩ := queued_eq op c s
  rw [eq]

theorem queued_facets : (queued op c s).facets = s.facets := by
  obtain ⟨h, q, l, n, e, eq⟩ := queued_eq op c s
  rw [eq]

end

/-! ## IDENTIFY, ATTEST, MGMT_READ and MGMT_WRITE -/

section
variable {s : State} {c : Cmd}

theorem lenBad_eq_false {n : Nat} (h : c.cap.body.length = n) : lenBad c n = false := by simp [lenBad, h]

theorem decideIdentify_replies (body : c.cap.body = []) : decideIdentify s c = replyOk s c 0 (identifyBody s) := by
  simp [decideIdentify, lenBad_eq_false, body]

theorem decideAttest_quotes {k : BitVec 256} (length : c.cap.body.length = 32) (lifecycle : s.locket.lifecycle ≠ 0)
    (key : s.locket.idKey = some k) : decideAttest s c =
      let q := quoteBody s (areaField c.cap.area 24 1) c.cap.body
      replyOk s c 0 (q ++ beBytes 64 (Config.sm2Sign k q).toNat) := by
  unfold decideAttest
  rw [lenBad_eq_false length, if_neg Bool.false_ne_true, if_neg lifecycle, key]

theorem decideMgmtRead_replies (body : c.cap.body = []) (range : rangeBad s c = none) : decideMgmtRead s c =
    replyOk s c 0 (((regAddrs c).map fun a => leBytes 8 ((readReg s c.ref.queue a).getD 0)).flatten) := by
  simp [decideMgmtRead, lenBad_eq_false, body, range]

theorem decideMgmtWrite_writes (idle : s.loader.part = none) (length : c.cap.body.length = 8 * areaField c.cap.area 28 2)
    (range : rangeBad s c = none) (core : stopsLastCore s c = false) : decideMgmtWrite s c =
      replyOk (((regAddrs c).zip (regValues c)).foldl (fun t (a, v) => writeReg t c.ref.queue a v) s) c 0 [] := by
  simp [decideMgmtWrite, idle, lenBad_eq_false length, range, core]

end

/-! ## The learning registers -/

/-- A write of the drift window is taken up at the end of the window where its value is within range (R150). -/
theorem writeDriftW_learn (s : State) (v : Nat) : (writeDriftW s v).learn =
    { s.learn with nextW := if 64 ≤ v % 2 ^ 17 ∧ v % 2 ^ 17 ≤ 65536 then some (v % 2 ^ 17) else s.learn.nextW } := by
  simp only [writeDriftW, bitsOf, pow_zero, Nat.div_one, Bool.and_eq_true, decide_eq_true_eq]
  split <;> rfl

/-- A write of the drift limit is taken up at the end of the window unless it is 0 (R150, log entry 120). -/
theorem writeDriftD_learn (s : State) (v : Nat) : (writeDriftD s v).learn =
    { s.learn with nextD := if 1 ≤ v % 2 ^ 16 then some (v % 2 ^ 16) else s.learn.nextD } := by
  simp only [writeDriftD, bitsOf, pow_zero, Nat.div_one]
  split <;> rfl

theorem writeReg_driftWindow (s : State) (q v : Nat) : writeReg s q 0x210000 v = writeDriftW s v := by
  have space : (spaceOf 0x210000).isSome = false := by decide +kernel
  have before : (spaceOf 0x20FFF8).isSome = false := by decide +kernel
  simp [writeReg, writeLearn, space, before]

theorem writeReg_settingSpare (s : State) (q v : Nat) :
    writeReg s q 0x20300 v = s.modLoader fun l => { l with holdNext := some (BitVec.ofNat 4 (v / 256)) } := by
  have space : (spaceOf 0x20300).isSome = false := by decide +kernel
  have before : (spaceOf 0x202F8).isSome = false := by decide +kernel
  simp [writeReg, space, before]

/-- A saturation counter that a clear names reads as none, every other as before. -/
theorem Tab.get_filter_key {α : Type} (p : Nat → Bool) (t : Tab α) (x : Nat) :
    Tab.get (t.filter fun y => p y.1) x = if p x then Tab.get t x else none := by
  induction t with
  | nil => simp [Tab.get]
  | cons y r ih =>
    obtain ⟨k, v⟩ := y
    by_cases hx : x = k
    · subst hx
      cases hp : p x <;> simp_all [Tab.get]
    · cases hp : p k <;> simp_all [Tab.get]

theorem delSat_get (s : State) (p : Nat → Bool) (x : Nat) :
    (delSat s p).counters.sat.get x = if p x then none else s.counters.sat.get x := by
  refine (Tab.get_filter_key (fun k => !p k) s.counters.sat x).trans ?_
  cases p x <;> rfl

/-! ## The obligation -/

/-- Settles O24: each management command by its decision, each learning register by what its write leaves. -/
theorem registerAccess : Obligations.RegisterAccess := by
  unfold Obligations.RegisterAccess
  refine ⟨⟨fun c s sub body => ?_, fun c s k sub length lifecycle key => ?_, fun c s sub body range => ?_⟩,
    fun c s sub length range core idle => ?_, fun s q v => ?_, writeReg_settingSpare, fun s v up => ?_, fun s v up => ?_,
    fun s q up => ?_, fun s q up => ?_⟩
  · refine completes_submits (d := decideIdentify) rfl sub ?_
    rw [decideIdentify_replies (c := arrival 0x80 c s) body, queued_identifyBody]
    exact ⟨(submits_answerable sub).ok _ _, by simp [queued_locket], by simp [queued_loader]⟩
  · refine completes_submits (d := decideAttest) rfl sub ?_
    rw [← queued_locket (op := 0x8A) (c := c)] at lifecycle key
    rw [decideAttest_quotes (c := arrival 0x8A c s) length lifecycle key, queued_quoteBody]
    exact ⟨(submits_answerable sub).ok _ _, by simp [queued_locket]⟩
  · refine completes_submits (d := decideMgmtRead) rfl sub ?_
    rw [decideMgmtRead_replies (c := arrival 0x8D c s) body range]
    exact ⟨by simp [queued_collectors], by simp [queued_facets], (submits_answerable sub).ok _ _⟩
  · show Host.Outcome.next _ = _
    rw [receive_submits decideMgmtWrite sub, decideMgmtWrite_writes idle length range core]
    rfl
  · rw [writeReg_driftWindow]
    simp [writeDriftW, bitsOf]
  · refine ⟨writeDriftW s v.toNat, by simp [exec, execLearnDriftWindowWrite, isUp, up], ?_⟩
    dsimp only
    rw [writeDriftW_learn]
    exact ⟨rfl, rfl⟩
  · refine ⟨writeDriftD s v.toNat, by simp [exec, execLearnDriftLimitWrite, isUp, up], ?_⟩
    dsimp only
    rw [writeDriftD_learn]
    exact ⟨rfl, rfl⟩
  · refine ⟨clearSatOne s q, by simp [exec, execLearnSatClearOne, isUp, up], ⟨?_, fun x other => ?_⟩, rfl⟩
    · exact (delSat_get ..).trans (if_pos (by simp))
    · exact (delSat_get ..).trans (if_neg (by simpa using other))
  · refine ⟨clearSatTensor s q, by simp [exec, execLearnSatClearTensor, isUp, up], fun x => ?_⟩
    rw [clearSatTensor, delSat_get]
    simp only [beq_iff_eq]

end Sys2Proof.Machine

/-! Learning commands (O29): the run that LEARN_START makes or resumes, the stop that LEARN_STOP asks for, and the version
that EPOCH_PROMOTE takes up (R153, R159, R162, R164, R281, R282). -/

namespace Sys2Proof.Machine

/-! ## Runs by their id -/

/-- A change of the element with a key, which keeps the key, is what the key finds. -/
theorem find?_map_same {α : Type} {key : α → Nat} {f : α → α} (keeps : ∀ x, key (f x) = key x) (xs : List α) (id : Nat) :
    (xs.map fun x => if key x = id then f x else x).find? (fun x => key x == id) = (xs.find? fun x => key x == id).map f := by
  induction xs with
  | nil => rfl
  | cons x r ih => by_cases hx : key x = id <;> simp [hx, keeps, ih]

/-- What another key finds stays. -/
theorem find?_map_other {α : Type} {key : α → Nat} {f : α → α} (keeps : ∀ x, key (f x) = key x) (xs : List α) {id k : Nat}
    (other : k ≠ id) : (xs.map fun x => if key x = id then f x else x).find? (fun x => key x == k) =
      xs.find? fun x => key x == k := by
  induction xs with
  | nil => rfl
  | cons x r ih =>
    by_cases hx : key x = id
    · simp [hx, keeps, ih, other.symm]
    · rw [List.map_cons, if_neg hx, List.find?_cons, List.find?_cons, ih]

theorem findRun_congr {s t : State} (h : t.learn.runs = s.learn.runs) (id : Nat) : findRun t id = findRun s id := by
  unfold findRun
  rw [h]

theorem findRun_id {s : State} {id : Nat} {r : Run} (h : findRun s id = some r) : r.id = id := by
  simpa using List.find?_some h

theorem findRun_updRun {f : Run → Run} (keeps : ∀ x, (f x).id = x.id) (s : State) (id : Nat) :
    findRun (updRun s id f) id = (findRun s id).map f := find?_map_same keeps s.learn.runs id

theorem findRun_replyOk (s : State) (c : Cmd) (area : BitVec 320) (body : List Byte) (id : Nat) :
    findRun (replyOk s c area body) id = findRun s id := findRun_congr (by simp) id

/-! ## What counting leaves -/

theorem bumpN_learn (s : State) (a n : Nat) : (bumpN s a n).learn = s.learn := by simp

theorem keepsCommands_refl (s : State) : s.keepsCommands s := ⟨rfl, fun _ => Iff.rfl⟩

theorem State.keepsCommands.answerable {s t : State} {c : Cmd} (h : s.keepsCommands t) (ask : s.answerable c) : t.answerable c :=
  ⟨(findCmd_congr (congrArg _ h.1) ..).trans ask.1, (h.2 _).mpr ask.2⟩

theorem keepsCommands_foldl {α : Type} {f : State → α → State} (step : ∀ t x, State.keepsCommands t (f t x)) (xs : List α)
    (s : State) : s.keepsCommands (xs.foldl f s) := by
  induction xs generalizing s with
  | nil => exact keepsCommands_refl s
  | cons x xs ih => exact (step s x).trans (ih _)

/-- Counting at a position keeps the commands and the runs: it adds to a window and to a saturation counter, whose event may
be sent (R145, R150). -/
theorem countAt_keeps (k : CountOf) (s : State) (x : PosCount) :
    s.keepsCommands (countAt k s x) ∧ (countAt k s x).learn.runs = s.learn.runs := by
  have window : s.keepsCommands (addWindow s k x) ∧ (addWindow s k x).learn.runs = s.learn.runs := by
    refine ⟨keepsCommands_refl s, ?_⟩
    unfold addWindow
    dsimp only [State.modLearn]
    split <;> rfl
  obtain ⟨kept, runs⟩ := window
  unfold countAt addSat
  split
  · exact ⟨kept, runs⟩
  · dsimp only
    split
    · exact ⟨kept.trans ⟨by simp, live_raiseEvent _ _ _⟩, by simpa using runs⟩
    · exact ⟨kept.trans ⟨rfl, fun _ => Iff.rfl⟩, runs⟩

theorem countAll_keeps (k : CountOf) (xs : List PosCount) (s : State) :
    s.keepsCommands (xs.foldl (countAt k) s) ∧ (xs.foldl (countAt k) s).learn.runs = s.learn.runs :=
  ⟨keepsCommands_foldl (fun t x => (countAt_keeps k t x).1) xs s,
    foldl_keeps (g := fun t => t.learn.runs) (fun t x _ => (countAt_keeps k t x).2) s⟩

/-! ## Pairs -/

section
variable {s : State} {id : Nat} {r : Run}

/-- The run with the pairs that its buffer has room for (R154). -/
def Run.withPairs (r : Run) (ps : List (List F32 × List F32)) : Run :=
  { r with pairs := r.pairs ++ ps.take (pairCapacity - r.pairs.length) }

/-- Pairs enter the buffer of the run that is named, as far as it has room, and the others are counted (R154). -/
theorem addPairs_enter (h : findRun s id = some r) (ps : List (List F32 × List F32)) :
    (addPairs s id ps).1 = ps.length - (pairCapacity - r.pairs.length) ∧
      findRun (addPairs s id ps).2 id = some (r.withPairs ps) ∧ s.keepsCommands (addPairs s id ps).2 := by
  unfold addPairs
  rw [h]
  refine ⟨rfl, ?_, ?_⟩
  · rw [findRun_congr (congrArg Learn.runs (bumpN_learn ..)), 
      findRun_updRun (f := fun x => { x with pairs := x.pairs ++ ps.take (pairCapacity - r.pairs.length) }) (fun _ => rfl), h]
    rfl
  · exact (show s.keepsCommands (updRun s id _) from keepsCommands_refl s).trans (keepsCommands_bumpN ..)

end

/-! ## LEARN_START -/

section
variable {s : State} {c : Cmd} {k : Coll}

/-- The pairs of a LEARN_START enter the buffer of its run, and the reply says how many did (R154, R281). -/
def pairsAnswered (s : State) (c : Cmd) (id : Nat) (ps : List (List F32 × List F32)) : State :=
  let (lost, t) := addPairs s id ps
  replyOk t c (learnArea id (ps.length - lost) lost) []

theorem pairsAnswered_spec {id : Nat} {r : Run} (ask : s.answerable c) (h : findRun s id = some r)
    (ps : List (List F32 × List F32)) :
    let room := pairCapacity - r.pairs.length
    findRun (pairsAnswered s c id ps) id = some (r.withPairs ps) ∧
      answered c.ref 0 (learnArea id (ps.length - (ps.length - room)) (ps.length - room)) [] (pairsAnswered s c id ps) := by
  obtain ⟨lost, entered, kept⟩ := addPairs_enter h ps
  unfold pairsAnswered
  dsimp only
  rw [lost]
  exact ⟨(findRun_replyOk ..).trans entered, (kept.answerable ask).ok _ []⟩

theorem collStatus_attached {id : Nat} (hk : getColl s id = some k) (attached : k.attached = true) : collStatus s id = 0 := by
  simp [collStatus, hk, attached]

/-- The module once the run that a collection had has left for a new one (R153). -/
def runReplaced (s : State) (coll : Nat) : State :=
  match runOf s coll with
  | some r => dropRun s r
  | none => s

theorem dropCounts_learn (s : State) (p : CountOf → Bool) : (dropCounts s p).learn.nextRun = s.learn.nextRun ∧
    (dropCounts s p).learn.runs = s.learn.runs := ⟨rfl, rfl⟩

theorem endTasks_learn (s : State) (p : Task → Bool) : (endTasks s p).learn = s.learn := rfl

/-- The run that leaves is the only one that does. -/
theorem dropRun_learn (s : State) (r : Run) : (dropRun s r).learn.nextRun = s.learn.nextRun ∧
    (dropRun s r).learn.runs = s.learn.runs.filter fun x => x.id != r.id := by
  unfold dropRun
  generalize runBytes s r = n
  refine ⟨?_, ?_⟩
  · rw [(dropCounts_learn ..).1, modLearn_learn, endTasks_learn, modPools_learn]
  · rw [(dropCounts_learn ..).2, modLearn_learn, endTasks_learn, modPools_learn]

theorem keepsCommands_of_follows {s t : State} {T : List Field} (h : s.follows T t) (queues : Field.queues ∉ T)
    (host : Field.host ∉ T) : s.keepsCommands t :=
  ⟨h.frame .queues queues, fun _ => live_congr (h.frame .host host)⟩

theorem runReplaced_keeps (s : State) (coll : Nat) : s.keepsCommands (runReplaced s coll) ∧
    (runReplaced s coll).learn.nextRun = s.learn.nextRun ∧ ∀ r ∈ (runReplaced s coll).learn.runs, r ∈ s.learn.runs := by
  unfold runReplaced
  split
  · next r _ =>
    obtain ⟨next, runs⟩ := dropRun_learn s r
    exact ⟨keepsCommands_of_follows (dropRun_follows (List.Subset.refl _) (State.follows_refl _ s)) (by decide) (by decide), next,
      fun x hx => List.mem_of_mem_filter (runs ▸ hx)⟩
  · exact ⟨keepsCommands_refl s, rfl, fun _ hr => hr⟩

/-- The run as LEARN_START makes it, among the runs of the module and with its reservation. -/
def runSeated (s : State) (r : Run) (n : Nat) : State :=
  (s.modLearn fun l => { l with runs := l.runs ++ [r], nextRun := l.nextRun + 1 }).modPools fun x => { x with learn := x.learn + n }

theorem findRun_runSeated {r : Run} (fresh : findRun s r.id = none) (n : Nat) : findRun (runSeated s r n) r.id = some r := by
  show (s.learn.runs ++ [r]).find? _ = _
  rw [List.find?_append, show s.learn.runs.find? _ = none from fresh]
  simp

theorem runSeated_keeps (s : State) (r : Run) (n : Nat) : s.keepsCommands (runSeated s r n) := ⟨rfl, fun _ => Iff.rfl⟩

/-- Counts of an image that a new run quantises, and of the pairs that hold a zero embedding (R145, R152, R405). -/
def runCounted (s : State) (coll zeros : Nat) (image : Bool) (enc : Encoder) (r : Run) : State :=
  (if image then (quantise { enc with wOff := [] } (freshWeights enc)).counts else []).foldl (countAt ⟨coll, true, 0⟩)
    (bumpN (bumpN s degenerateCnt (newFlags enc r.enc)) pairDropCnt zeros)

theorem runCounted_keeps (s : State) (coll zeros : Nat) (image : Bool) (enc : Encoder) (r : Run) :
    s.keepsCommands (runCounted s coll zeros image enc r) ∧ (runCounted s coll zeros image enc r).learn.runs = s.learn.runs := by
  obtain ⟨kept, runs⟩ := countAll_keeps ⟨coll, true, 0⟩ (if image then (quantise { enc with wOff := [] } (freshWeights enc)).counts
    else []) (bumpN (bumpN s degenerateCnt (newFlags enc r.enc)) pairDropCnt zeros)
  exact ⟨((keepsCommands_bumpN ..).trans (keepsCommands_bumpN ..)).trans kept, runs.trans (by simp)⟩

/-- The state in which a LEARN_START of MODE 0 adds its pairs: version 1 of the run stands, with its counts (R153, R162). -/
def runBegun (s : State) (coll : Nat) (a : BitVec 320) (k : Coll) (enc : Encoder) (zeros : Nat) : State :=
  let r := newRun (runReplaced s coll).learn.nextRun coll (runParams a) enc (byteOr a 29 0 == 1)
  runCounted (runSeated (runReplaced s coll) r (learnBytes enc (runParams a).n (runParams a).u (inputDim k))) coll zeros
    (byteOr a 29 0 == 1) enc r

theorem runBegun_spec {coll : Nat} {a : BitVec 320} {enc : Encoder} {zeros : Nat} (fresh : findRun s s.learn.nextRun = none) :
    findRun (runBegun s coll a k enc zeros) s.learn.nextRun =
      some (newRun s.learn.nextRun coll (runParams a) enc (byteOr a 29 0 == 1)) ∧
    s.keepsCommands (runBegun s coll a k enc zeros) := by
  obtain ⟨kept, next, runs⟩ := runReplaced_keeps s coll
  unfold runBegun
  rw [next]
  generalize learnBytes enc _ _ _ = n
  extract_lets r
  obtain ⟨counted, same⟩ := runCounted_keeps (runSeated (runReplaced s coll) r n) coll zeros (byteOr a 29 0 == 1) enc r
  refine ⟨(findRun_congr same _).trans (findRun_runSeated (r := r) ?_ _), (kept.trans (runSeated_keeps _ r n)).trans counted⟩
  exact List.find?_eq_none.mpr fun x hx => List.find?_eq_none.mp fresh x (runs x hx)

/-- A LEARN_START of MODE 0 that nothing refuses makes a run (R153, R281). -/
theorem decideNewRun_makes {enc : Encoder} {rest : List Byte} {ps : List (List F32 × List F32)} {zeros : Nat}
    (reserved : areaField c.cap.area 31 1 = 0 ∧ areaField c.cap.area 56 8 = 0)
    (range : runRangeBad c.cap.area (runParams c.cap.area) = false)
    (few : (s.learn.runs.filter fun r => r.coll != c.ref.coll).length < 4)
    (mine : ∀ r, runOf s c.ref.coll = some r → r.active = false)
    (start : startEncoder s k (byteOr c.cap.area 29 0 == 1) c.cap.body = .ok (enc, rest))
    (pairs : parsePairs k (areaField c.cap.area 30 1) rest = .ok (ps, zeros))
    (room : learnBytes enc (runParams c.cap.area).n (runParams c.cap.area).u (inputDim k) ≤ hbmScratchFree s) :
    decideNewRun s c k = pairsAnswered (runBegun s c.ref.coll c.cap.area k enc zeros) c s.learn.nextRun ps := by
  have busy : (decide (4 ≤ (s.learn.runs.filter fun r => r.coll != c.ref.coll).length) ||
      match runOf s c.ref.coll with | some r => r.active | none => false) = false := by
    rw [decide_eq_false (by omega), Bool.false_or]
    cases hr : runOf s c.ref.coll with
    | none => rfl
    | some r => exact mine r hr
  obtain ⟨low, high⟩ := reserved
  unfold decideNewRun
  extract_lets a p others own busy'
  have checks : firstBad [(areaField a 31 1 != 0 || areaField a 56 8 != 0, 0x0102), (runRangeBad a p, 0x0108), (busy', 0x0215)] = none := by
    rw [show busy' = false from busy, show runRangeBad a p = false from range, show areaField a 31 1 = 0 from low,
      show areaField a 56 8 = 0 from high]
    rfl
  rw [checks]
  dsimp only
  rw [start]
  dsimp only
  rw [pairs]
  dsimp only
  rw [if_neg (Nat.not_lt.mpr room), ← (runReplaced_keeps s c.ref.coll).2.1]
  rfl

theorem decideLearnStart_new (hk : getColl s c.ref.coll = some k) (attached : k.attached = true)
    (mode : areaField c.cap.area 24 1 = 0) : decideLearnStart s c = decideNewRun s c k := by
  simp [decideLearnStart, collStatus_attached hk attached, hk, mode]

theorem decideLearnStart_more (hk : getColl s c.ref.coll = some k) (attached : k.attached = true)
    (mode : areaField c.cap.area 24 1 = 1) : decideLearnStart s c = decideMorePairs s c k := by
  simp [decideLearnStart, collStatus_attached hk attached, hk, mode]

/-- The run as a LEARN_START of MODE 1 that names it finds it or lets it resume (R159, log entry 119). -/
def Run.resumed (r : Run) : Run := { r with active := true, held := false, stopCause := 0 }

/-- The module once a run has resumed, with the count of the pairs that hold a zero embedding (R159, R405). -/
def runResumed (s : State) (id zeros : Nat) : State := bumpN (updRun s id Run.resumed) pairDropCnt zeros

theorem runResumed_spec {id : Nat} {r : Run} (h : findRun s id = some r) (zeros : Nat) :
    findRun (runResumed s id zeros) id = some r.resumed ∧ s.keepsCommands (runResumed s id zeros) := by
  unfold runResumed
  refine ⟨?_, (show s.keepsCommands (updRun s id _) from keepsCommands_refl s).trans (keepsCommands_bumpN ..)⟩
  rw [findRun_congr (congrArg Learn.runs (bumpN_learn ..)), findRun_updRun (f := Run.resumed) (fun _ => rfl), h]
  rfl

/-- A LEARN_START of MODE 1 that nothing refuses gives its pairs to the run that it names (R154, R159, R281). -/
theorem decideMorePairs_adds {r : Run} {ps : List (List F32 × List F32)} {zeros : Nat}
    (reserved : areaField c.cap.area 25 5 = 0 ∧ areaField c.cap.area 31 25 = 0 ∧ areaField c.cap.area 60 4 = 0)
    (named : findRun s (areaField c.cap.area 56 4) = some r) (coll : r.coll = c.ref.coll)
    (takes : r.active = true ∨ canResume s r = true)
    (pairs : parsePairs k (areaField c.cap.area 30 1) c.cap.body = .ok (ps, zeros)) :
    decideMorePairs s c k = pairsAnswered (runResumed s r.id zeros) c r.id ps := by
  obtain ⟨low, middle, high⟩ := reserved
  unfold decideMorePairs
  extract_lets a zero id there
  have checks : firstBad [(!zero, 0x0102), (!there, 0x0209)] = none := by
    have found : there = (r.coll == c.ref.coll && (r.active || canResume s r)) := by
      show (match findRun s id with | some r => r.coll == c.ref.coll && (r.active || canResume s r) | none => false) = _
      rw [show findRun s id = some r from named]
    rw [found, show zero = true by simp [zero, a, low, middle, high], coll]
    rcases takes with h | h <;> simp [h, firstBad]
  rw [checks]
  dsimp only
  rw [pairs, findRun_id named]
  rfl

/-! ## LEARN_STOP and EPOCH_PROMOTE -/

theorem namedRun_eq {r : Run} (named : findRun s (areaField c.cap.area 24 4) = some r) (coll : r.coll = c.ref.coll) :
    namedRun s c = some r := by
  simp [namedRun, named, coll]

/-- The run as a LEARN_STOP leaves it: one that runs stops at the next edge, by the cause it has already (R159). -/
def Run.stopping (r : Run) : Run := if r.active then { r with stopAtEdge := some (r.stopAtEdge.getD 1) } else r

/-- A LEARN_STOP that nothing refuses marks the run it names and replies with its newest version (R159, R282). -/
theorem decideLearnStop_stops {r : Run} (ask : s.answerable c) (known : (getColl s c.ref.coll).isSome = true) (body : c.cap.body = [])
    (named : findRun s (areaField c.cap.area 24 4) = some r) (coll : r.coll = c.ref.coll) :
    let t := decideLearnStop s c
    findRun t r.id = some r.stopping ∧ answered c.ref 0 (areaPut 0 28 4 r.newest) [] t := by
  have hid : areaField c.cap.area 24 4 = r.id := (findRun_id named).symm
  have held : findRun s r.id = some r := hid ▸ named
  have known' : (getColl s c.ref.coll).isNone = false := by simpa using known
  have eq : decideLearnStop s c = replyOk (if r.active then updRun s r.id fun x =>
      { x with stopAtEdge := some (x.stopAtEdge.getD 1) } else s) c (areaPut 0 28 4 r.newest) [] := by
    simp [decideLearnStop, decideLearnStop.lenBad, known', body, namedRun_eq named coll]
  intro t
  show findRun (decideLearnStop s c) r.id = _ ∧ answered _ _ _ _ (decideLearnStop s c)
  rw [eq]
  refine ⟨(findRun_replyOk ..).trans ?_, State.answerable.ok ?_ _ _⟩
  · unfold Run.stopping
    split
    · rw [findRun_updRun (f := fun x => { x with stopAtEdge := some (x.stopAtEdge.getD 1) }) (fun _ => rfl), held]
      rfl
    · exact held
  · split
    · exact ask
    · exact ask

/-- An EPOCH_PROMOTE that nothing refuses takes up the version and waits for its signatures (R164). -/
theorem decidePromote_takes {r : Run} {enc : Encoder} (hk : getColl s c.ref.coll = some k) (body : c.cap.body = [])
    (named : findRun s (areaField c.cap.area 24 4) = some r) (coll : r.coll = c.ref.coll)
    (held : heldVersion r (areaField c.cap.area 28 4) = some enc) (room : k.epochs.length < 2) (idle : k.promo = none) :
    let t := decidePromote s c
    getColl t c.ref.coll = some { k with promo := some ⟨c.ref, enc, r.id, beadNow s, false⟩ } ∧ noReply s t := by
  have eq : ∃ facet, decidePromote s c = launchTensor (updColl (running s c) c.ref.coll fun k =>
      { k with promo := some ⟨c.ref, enc, r.id, beadNow s, false⟩ }) .promote c.ref.coll facet := by
    unfold decidePromote
    rw [hk]
    dsimp only
    rw [body, namedRun_eq named coll]
    dsimp only [List.isEmpty]
    rw [if_neg (by decide), held]
    dsimp only
    rw [idle, if_neg (by simp; omega)]
    exact ⟨_, rfl⟩
  obtain ⟨facet, eq⟩ := eq
  intro t
  have run : getColl (running s c) c.ref.coll = some k := (getColl_of_follows (running_frame s c) (by decide) _).trans hk
  have launched {u : State} : u.follows [.streams] (launchTensor u .promote c.ref.coll facet) :=
    launchTensor_follows (List.Subset.refl _) (State.follows_refl _ _)
  show getColl (decidePromote s c) _ = _ ∧ noReply s (decidePromote s c)
  rw [eq]
  refine ⟨?_, (noReply_running s c).trans (noReply_of_out (launched.frame .out (by decide)))⟩
  rw [getColl_of_follows launched (by decide), getColl_updColl, if_pos rfl, run]
  rfl

end

/-! ## The obligation -/

section
variable {op : BitVec 8} {c : Capsule} {s : State}

theorem queued_learn : (queued op c s).learn = s.learn := by
  obtain ⟨h, q, l, n, e, eq⟩ := queued_eq op c s
  rw [eq]

theorem queued_findRun (id : Nat) : findRun (queued op c s) id = findRun s id := findRun_congr (congrArg _ queued_learn) id

theorem queued_startEncoder (k : Coll) (image : Bool) (body : List Byte) :
    startEncoder (queued op c s) k image body = startEncoder s k image body := by
  obtain ⟨h, q, l, n, e, eq⟩ := queued_eq op c s
  rw [eq]
  rfl

theorem queued_hbmScratchFree : hbmScratchFree (queued op c s) = hbmScratchFree s := by
  obtain ⟨h, q, l, n, e, eq⟩ := queued_eq op c s
  rw [eq]
  rfl

theorem queued_canResume (r : Run) : canResume (queued op c s) r = canResume s r := by
  simp only [canResume, queued_effective]

theorem queued_runOf (coll : Nat) : runOf (queued op c s) coll = runOf s coll := by
  simp only [runOf, queued_learn]

end

/-- Settles O29: each command by its decision, on the run that its id finds. -/
theorem learningCommands : Obligations.LearningCommands := by
  unfold Obligations.LearningCommands
  refine ⟨fun c s k enc rest ps zeros sub hk attached mode low high range few mine fresh start pairs room => ?_,
    fun c s k r ps zeros sub hk attached mode low middle high named coll takes pairs => ?_,
    fun c s r sub known body named coll => ?_, fun c s k r enc sub hk body named coll held two idle => ?_⟩
  · have ask := submits_answerable sub
    refine completes_submits (d := decideLearnStart) rfl sub ?_
    have unused : findRun (queued 0x30 c s) (queued 0x30 c s).learn.nextRun = none := by rw [queued_findRun, queued_learn]; exact fresh
    rw [← queued_learn (op := 0x30) (c := c)] at few
    rw [← queued_startEncoder (op := 0x30) (c := c)] at start
    rw [← queued_hbmScratchFree (op := 0x30) (c := c)] at room
    rw [decideLearnStart_new ((queued_getColl _).trans hk) attached mode, decideNewRun_makes (c := arrival 0x30 c s) ⟨low, high⟩ range
      few (fun r hr => mine r (by rwa [queued_runOf] at hr)) start pairs room]
    obtain ⟨begun, kept⟩ := runBegun_spec (coll := c.coll.toNat) (a := c.area) (k := k) (enc := enc) (zeros := zeros) unused
    obtain ⟨found, replied⟩ := pairsAnswered_spec (kept.answerable ask) begun ps
    rw [← queued_learn (op := 0x30) (c := c) (s := s)]
    refine ⟨⟨_, List.mem_of_find?_eq_some found, rfl, rfl, rfl, rfl, rfl, rfl, rfl, fun given => ?_⟩, replied⟩
    show (if (byteOr c.area 29 0 == 1) = true then _ else enc) = enc
    exact if_neg (by simpa using given)
  · have ask := submits_answerable sub
    have named' := (queued_findRun (op := 0x30) (c := c) _).trans named
    refine completes_submits (d := decideLearnStart) rfl sub ?_
    rw [decideLearnStart_more ((queued_getColl _).trans hk) attached mode, decideMorePairs_adds (c := arrival 0x30 c s)
      ⟨low, middle, high⟩ named' coll (by rwa [queued_canResume]) pairs]
    obtain ⟨resumed, kept⟩ := runResumed_spec (findRun_id named ▸ named') zeros
    obtain ⟨found, replied⟩ := pairsAnswered_spec (kept.answerable ask) resumed ps
    exact ⟨congrArg (Option.map Run.pairs) found, congrArg (Option.map Run.active) found, congrArg (Option.map Run.newest) found, replied⟩
  · refine completes_submits (d := decideLearnStop) rfl sub ?_
    obtain ⟨found, replied⟩ := decideLearnStop_stops (c := arrival 0x31 c s) (submits_answerable sub) ((queued_isSome _).trans known)
      body ((queued_findRun _).trans named) coll
    refine ⟨by rw [found]; unfold Run.stopping; split <;> rfl, ?_, replied⟩
    rw [found]
    unfold Run.stopping
    cases r.active <;> rfl
  · refine completes_submits (d := decidePromote) rfl sub ?_
    obtain ⟨taken, quiet⟩ := decidePromote_takes (c := arrival 0x32 c s) ((queued_getColl _).trans hk) body
      ((queued_findRun _).trans named) coll held two idle
    rw [queued_beadNow] at taken
    refine ⟨congrArg (Option.map Coll.promo) taken, congrArg (Option.map Coll.epochs) taken, (noReply_of_out queued_out).trans quiet⟩

end Sys2Proof.Machine

/-! Slots of a stream's ring (O39): how a piece fills its slot or fails, what a prong leaves in it, and how the consumer takes it
and passes it (R149, R179, R184, R193, R195 to R197, R226 to R231, R331). -/

namespace Sys2Proof.Machine

/-! ## Streams by their id -/

theorem getStream_congr {s t : State} (h : t.streams = s.streams) (sid : Nat) : getStream t sid = getStream s sid := by
  unfold getStream
  rw [h]

theorem getStream_updStream {f : Stream → Stream} (keeps : ∀ x, (f x).sid = x.sid) (s : State) (sid k : Nat) :
    getStream (updStream s sid f) k = if k = sid then (getStream s k).map f else getStream s k := by
  split
  · next h => subst h; exact find?_map_same keeps s.streams.streams k
  · next other => exact find?_map_other keeps s.streams.streams other

theorem updAt_getElem? {α : Type} (xs : List α) (k : Nat) (f : α → α) : (updAt xs k f)[k]? = xs[k]?.map f := by
  induction xs generalizing k with
  | nil => rfl
  | cons x r ih =>
    cases k with
    | zero => rfl
    | succ k => simpa [updAt] using ih k

/-- The slot of a stream's ring. -/
def slotIn (s : State) (sid i : Nat) : Option Slot := (getStream s sid).bind fun r => slotAt r i

section
variable {s : State} {sid i : Nat} {r : Stream} {x : Slot}

theorem slotIn_updSlot (hr : getStream s sid = some r) (hx : slotAt r i = some x) (f : Slot → Slot) :
    slotIn (updSlot s sid i f) sid i = some (f x) := by
  unfold slotIn updSlot
  rw [getStream_updStream (f := fun r => { r with ring := updAt r.ring i f }) (fun _ => rfl), if_pos rfl, hr]
  show (updAt r.ring i f)[i]? = _
  rw [updAt_getElem?, show r.ring[i]? = some x from hx]
  rfl

theorem getStream_updSlot_other (s : State) (f : Slot → Slot) {k : Nat} (other : k ≠ sid) :
    getStream (updSlot s sid i f) k = getStream s k := by
  unfold updSlot
  rw [getStream_updStream (f := fun r => { r with ring := updAt r.ring i f }) (fun _ => rfl), if_neg other]

theorem countBlockRead_keeps (s : State) (coll page : Nat) :
    (countBlockRead s coll page).streams = s.streams ∧ (countBlockRead s coll page).colls = s.colls := by
  have h : s.follows [.flash] (countBlockRead s coll page) := countBlockRead_follows (List.Subset.refl _) (State.follows_refl _ s)
  exact ⟨h.frame .streams (by decide), h.frame .colls (by decide)⟩

theorem useCopy_keeps (s : State) (r : Stream) (x : Slot) :
    (useCopy s r x).streams = s.streams ∧ (useCopy s r x).flash = s.flash := by
  have h : s.follows [.colls] (useCopy s r x) := useCopy_follows (List.Subset.refl _) (State.follows_refl _ s)
  exact ⟨h.frame .streams (by decide), h.frame .flash (by decide)⟩

end

/-! ## PIECE_COMPLETE -/

/-- A slot once its piece is complete (R226). -/
def Slot.filled (d : SlotData) (x : Slot) : Slot := { x with st := .full, outstanding := false, atDevice := false, data := d }

/-- The module once a piece that is read counts: for its block of flash, or for the shallow copy it came from (R175, R202). -/
def pieceRead (s : State) (r : Stream) (x : Slot) : State :=
  if x.tier = 2 then countBlockRead s (r.coll.getD 0) (x.off / pageSize) else useCopy s r x

section
variable {s : State} {sid i : Nat} {r : Stream} {x : Slot} {tk : Task}
variable (up : s.power.phase = .up) (hr : getStream s sid = some r) (hx : slotAt r i = some x) (ht : getTask s r.tid = some tk)
include hr hx ht

/-- A piece waits while its device does not answer, while reads before it are not served, and where its slot expects nothing
(R184, R226). -/
theorem pieceComplete_waits (res : PieceResult) (waits : answers s r x = false ∨ (x.st = .issued ∧ served s r tk x = false) ∨
    (x.st ≠ .issued ∧ (x.st ≠ .void ∨ x.outstanding = false))) : exec (.pieceComplete sid i res) s = .next s := by
  simp only [exec, execPieceComplete, hr, hx, ht]
  split
  · rfl
  · next open_ =>
    obtain ⟨⟨-, device⟩, queue⟩ : (isUp s = true ∧ answers s r x = true) ∧ (x.st = .issued → served s r tk x = true) := by
      simpa [and_assoc] using open_
    rcases waits with h | ⟨issued, h⟩ | ⟨other, h⟩
    · simp [h] at device
    · simp [queue issued] at h
    · cases st : x.st <;> simp_all

include up

section
variable (device : answers s r x = true) (turn : served s r tk x = true) (issued : x.st = .issued)
include device turn issued

/-- A piece that can be read fills its slot, and counts as a read of its block or a use of its copy (R175, R184, R202). -/
theorem exec_pieceComplete_ok {d : SlotData} (readable : unreadable s r x = false) (data : arrived s r tk x = some d) :
    exec (.pieceComplete sid i .ok) s = .next (updSlot (pieceRead s r x) sid i (Slot.filled d)) := by
  simp only [exec, execPieceComplete, hr, hx, ht, isUp, up, device, turn, issued, readable, data]
  rfl

theorem pieceComplete_fills {d : SlotData} (readable : unreadable s r x = false) (data : arrived s r tk x = some d) :
    completes (.pieceComplete sid i .ok) s fun t => slotIn t sid i = some (x.filled d) ∧
      (x.tier = 2 → t.flash = (countBlockRead s (r.coll.getD 0) (x.off / pageSize)).flash ∧ t.colls = s.colls) ∧
      (x.tier ≠ 2 → t.flash = s.flash ∧ t.colls = (useCopy s r x).colls) := by
  refine ⟨_, exec_pieceComplete_ok up hr hx ht device turn issued readable data, ?_⟩
  obtain ⟨blockStreams, blockColls⟩ := countBlockRead_keeps s (r.coll.getD 0) (x.off / pageSize)
  obtain ⟨copyStreams, copyFlash⟩ := useCopy_keeps s r x
  unfold pieceRead
  by_cases deep : x.tier = 2
  · rw [if_pos deep]
    exact ⟨slotIn_updSlot ((getStream_congr blockStreams _).trans hr) hx _, fun _ => ⟨rfl, blockColls⟩, fun h => absurd deep h⟩
  · rw [if_neg deep]
    exact ⟨slotIn_updSlot ((getStream_congr copyStreams _).trans hr) hx _, fun h => absurd h deep, fun _ => ⟨copyFlash, rfl⟩⟩

/-- A piece that no channel can serve, or that a prong has yet to work on, is not complete. -/
theorem exec_pieceComplete_unread (unread : unreadable s r x = true ∨ arrived s r tk x = none) :
    exec (.pieceComplete sid i .ok) s = .next s := by
  have none_ : (if unreadable s r x then none else arrived s r tk x) = none := by rcases unread with h | h <;> simp [h]
  simp only [exec, execPieceComplete, hr, hx, ht, isUp, up, device, turn, issued, none_]
  rfl

theorem exec_pieceComplete_uncorrectable : exec (.pieceComplete sid i .uncorrectable) s = .next (pieceFails s r tk i x) := by
  simp only [exec, execPieceComplete, hr, hx, ht, isUp, up, device, turn, issued]
  rfl

end

/-- A VOID slot discards what arrives, and the tail may then pass it (R226, R233). -/
theorem pieceComplete_discards (device : answers s r x = true) (void : x.st = .void) (expected : x.outstanding = true)
    (res : PieceResult) : exec (.pieceComplete sid i res) s =
      .next (issueAll (settleRings (updSlot s sid i fun y => { y with outstanding := false, atDevice := false }))) := by
  simp [exec, execPieceComplete, hr, hx, ht, isUp, up, device, void, expected]

/-! ## Prongs -/

/-- A prong works on a raw flash piece that has been served in the mode it fits (R195, R331). -/
theorem onProng_works {cov : List Nat} (raw : x.data = .raw cov) (issued : x.st = .issued) (deep : x.tier = 2)
    (turn : served s r tk x = true) {mode : Nat} (fits : (if mode = 0 then x.mode == 0 || (getFlashCh s x.chan).prongFenced
      else x.mode == mode && !(getFlashCh s x.chan).prongFenced) = true) (f : Task → Slot → State) : onProng s sid i mode f = f tk x := by
  unfold onProng
  simp only [hr, hx, ht]
  exact if_pos (by simp [isUp, up, issued, deep, turn, raw, fits])

end

/-- What a change of one slot leaves: the tasks and the other streams. -/
theorem updSlot_becomes {s : State} {sid i : Nat} {r : Stream} {x : Slot} (hr : getStream s sid = some r) (hx : slotAt r i = some x)
    (f : Slot → Slot) : slotIn (updSlot s sid i f) sid i = some (f x) ∧ (updSlot s sid i f).streams.tasks = s.streams.tasks ∧
      ∀ k, k ≠ sid → getStream (updSlot s sid i f) k = getStream s k :=
  ⟨slotIn_updSlot hr hx f, rfl, fun _ other => getStream_updSlot_other s f other⟩

/-- The slot as each prong row leaves it: screened, gated, or passed as it is or to the facets (R195 to R197, R331). -/
def Slot.screened (s : State) (t : Task) (x y : Slot) : Slot :=
  { y with data := .survivors (rawOf x.data) (survivors s t (rawOf x.data)), atDevice := true }

def Slot.gatedOf (s : State) (t : Task) (x y : Slot) : Slot := { y with data := .entries (gated s t (rawOf x.data)), atDevice := true }

def Slot.passed (s : State) (t : Task) (x y : Slot) : Slot :=
  { y with data := if x.mode = 1 then .raw (rawOf x.data) else .entries (if x.mode = 2 then gated s t (rawOf x.data) else rawOf x.data)
           raw := y.mode == 1, atDevice := true }

section
variable {s : State} {sid i : Nat} {r : Stream} {x : Slot} {tk : Task} {cov : List Nat}
variable (up : s.power.phase = .up) (hr : getStream s sid = some r) (hx : slotAt r i = some x) (ht : getTask s r.tid = some tk)
variable (raw : x.data = .raw cov) (issued : x.st = .issued) (deep : x.tier = 2) (turn : served s r tk x = true)
include up hr hx ht raw issued deep turn

theorem exec_prongScreen (mode : x.mode = 1) (sound : (getFlashCh s x.chan).prongFenced = false) :
    exec (.prongScreen sid i) s = .next (updSlot s sid i (Slot.screened s tk x)) :=
  congrArg Host.Outcome.next (onProng_works up hr hx ht raw issued deep turn (mode := 1) (by simp [mode, sound]) _)

theorem exec_prongGate (mode : x.mode = 2) (sound : (getFlashCh s x.chan).prongFenced = false) :
    exec (.prongGate sid i) s = .next (updSlot s sid i (Slot.gatedOf s tk x)) :=
  congrArg Host.Outcome.next (onProng_works up hr hx ht raw issued deep turn (mode := 2) (by simp [mode, sound]) _)

theorem exec_prongPass (passes : x.mode = 0 ∨ (getFlashCh s x.chan).prongFenced = true) :
    exec (.prongPass sid i) s = .next (updSlot s sid i (Slot.passed s tk x)) :=
  congrArg Host.Outcome.next (onProng_works up hr hx ht raw issued deep turn (mode := 0) (by simpa using passes) _)

end

/-! ## SLOT_TAKE and SLOT_FINISH -/

section
variable {s : State} {sid : Nat} {r : Stream} {x : Slot} {tk : Task} {scale : Option (List Byte)} {ord : List Nat}
variable (hr : getStream s sid = some r)
include hr

theorem slotTake_idle (idle : tailFull r = none) : exec (.slotTake sid scale ord) s = .next s := by
  simp [exec, execSlotTake, hr, idle]

variable (ht : getTask s r.tid = some tk) (full : tailFull r = some x)
include ht full

/-- The consumer does not take a slot of a stream that stopped or before its stage, or without its scale block (R148, R227). -/
theorem slotTake_waits (waits : r.stopped = true ∨ stageOpen s tk = false ∨ (isDataStream s r = true ∧ scale = none)) :
    exec (.slotTake sid scale ord) s = .next s := by
  simp only [exec, execSlotTake, hr, full, ht]
  split
  · rfl
  · next open_ =>
    obtain ⟨data, none_⟩ : isDataStream s r = true ∧ scale = none := by
      refine (waits.resolve_left fun h => ?_).resolve_left fun h => ?_ <;> simp [h] at open_
    simp [data, none_]

variable (up : s.power.phase = .up) (runs : r.stopped = false) (stage : stageOpen s tk = true)
include up runs stage

theorem exec_slotTake (pairs : isDataStream s r = false ∨ ∃ b, scale = some b ∧ scaleMatches s tk x (scaleBlockOf b) = true) :
    exec (.slotTake sid scale ord) s =
      .next (updSlot s sid (r.tail % max 1 r.ring.length) fun y => { y with st := .taken, ord := ord }) := by
  simp only [exec, execSlotTake, hr, full, ht, isUp, up, runs, stage]
  rcases pairs with h | ⟨b, h, same⟩
  · rw [h]
    rfl
  · cases isDataStream s r <;> simp [h, same]

/-- A scale block that does not match its data block is STREAM_SKEW (R149). -/
theorem exec_slotTake_skew {b : List Byte} (data : isDataStream s r = true) (given : scale = some b)
    (skewed : scaleMatches s tk x (scaleBlockOf b) = false) : exec (.slotTake sid scale ord) s = .next (streamSkew s r) := by
  simp [exec, execSlotTake, hr, full, ht, isUp, up, runs, stage, data, given, skewed]

end

theorem tailFull_eq {r : Stream} {i : Nat} {x : Slot} (hx : slotAt r i = some x) (tail : i = r.tail % max 1 r.ring.length ∧ r.tail < r.head)
    (full : x.st = .full) : tailFull r = some x := by
  obtain ⟨rfl, more⟩ := tail
  unfold tailFull
  rw [if_pos more, show r.ring[_]? = some x from hx]
  simp [full]

section
variable {s : State} {sid i : Nat} {r : Stream} {x : Slot}
variable (up : s.power.phase = .up) (hr : getStream s sid = some r) (hx : slotAt r i = some x)
variable (tail : i = r.tail % max 1 r.ring.length ∧ r.tail < r.head) (taken : x.st = .taken)
include up hr hx tail taken

theorem exec_slotFinish : exec (.slotFinish sid) s =
    .next (reap (issueWaiting (updStream (finishSlot s r x) sid advanceTail) sid)) := by
  obtain ⟨rfl, more⟩ := tail
  simp [exec, execSlotFinish, hr, show r.ring[_]? = some x from hx, isUp, up, taken, more]

end

/-- Settles O39: each row by its own rule, on the slot that its stream and its number name. -/
theorem slotsFillAndPass : Obligations.SlotsFillAndPass := by
  unfold Obligations.SlotsFillAndPass
  intro s sid i r x tk up hr hx ht atTail slotOf
  refine ⟨fun device turn issued => ⟨fun d readable data => pieceComplete_fills up hr hx ht device turn issued readable data,
      exec_pieceComplete_unread up hr hx ht device turn issued, exec_pieceComplete_uncorrectable up hr hx ht device turn issued⟩,
    fun res => ⟨pieceComplete_waits hr hx ht res, fun device void expected => pieceComplete_discards up hr hx ht device void expected res⟩,
    fun cov raw issued deep turn => ?_, fun idle scale ord => slotTake_idle hr idle, fun scale ord tail full => ?_, fun tail taken => ?_⟩
  · have left {row : Instr} {f : Slot → Slot} {y : Slot} (run : exec row s = .next (updSlot s sid i f)) (hy : f x = y) :
        completes row s fun t => slotOf t = some y ∧ t.streams.tasks = s.streams.tasks ∧
          ∀ k, k ≠ sid → getStream t k = getStream s k := ⟨_, run, hy ▸ updSlot_becomes hr hx f⟩
    refine ⟨fun mode sound => left (exec_prongScreen up hr hx ht raw issued deep turn mode sound) (by rw [Slot.screened, raw]; rfl),
      fun mode sound => left (exec_prongGate up hr hx ht raw issued deep turn mode sound) (by rw [Slot.gatedOf, raw]; rfl),
      fun mode => left (exec_prongPass up hr hx ht raw issued deep turn (.inl mode)) ?_,
      fun mode fenced => left (exec_prongPass up hr hx ht raw issued deep turn (.inr fenced)) ?_,
      fun mode fenced => left (exec_prongPass up hr hx ht raw issued deep turn (.inr fenced)) ?_⟩
    all_goals simp [Slot.passed, raw, rawOf, mode]
  · have tailed := tailFull_eq hx tail full
    refine ⟨slotTake_waits hr ht tailed, fun runs stage => ⟨fun pairs => ?_, fun b data given skewed =>
      exec_slotTake_skew hr ht tailed up runs stage data given skewed⟩⟩
    obtain ⟨rfl, more⟩ := tail
    obtain ⟨slot, tasks, -⟩ := updSlot_becomes hr hx fun y => { y with st := .taken, ord := ord }
    exact ⟨_, exec_slotTake hr ht tailed up runs stage pairs, slot, tasks, rfl, rfl⟩
  · have finish := exec_slotFinish up hr hx tail taken
    unfold finishSlot at finish
    rw [ht] at finish
    refine ⟨fun aborted => ?_, fun stands => ?_⟩
    · simpa [aborted] using finish
    · simpa [stands] using finish

end Sys2Proof.Machine

/-! Learning steps (O54): micro-batches, optimiser updates and their aborts, versions, and the end of a drift window (R149 to
R152, R154, R155, R157, R160, R162, R391). -/

namespace Sys2Proof.Machine

/-! ## The launch of a task -/

theorem learn_of_follows {s t : State} {T : List Field} (h : s.follows T t) (learn : Field.learn ∉ T) : t.learn = s.learn :=
  h.frame .learn learn

theorem launchTensor_learn (s : State) (k : TaskKind) (coll facet : Nat) : (launchTensor s k coll facet).learn = s.learn :=
  learn_of_follows (launchTensor_follows (List.Subset.refl _) (State.follows_refl _ s)) (by decide)

theorem startStream_tasks (s : State) (tid : Nat) (st : Stage) (facet : Nat) (coll : Option Nat) (params : List Nat)
    (ext : List (Nat × Nat)) : (startStream s tid st facet coll params ext).streams.tasks = s.streams.tasks := by
  unfold startStream
  split
  · rfl
  · split <;> rfl

/-- A launch adds a task of its kind, whatever streams its library program gives it (R221). -/
theorem exists_launchTensor (s : State) (k : TaskKind) (coll facet : Nat) :
    ∃ t ∈ (launchTensor s k coll facet).streams.tasks, t.kind = k := by
  have tasks : (launchTensor s k coll facet).streams.tasks = (addTask s k coll 0 [] none).2.streams.tasks := by
    unfold launchTensor
    dsimp only
    split <;> simp only [startStream_tasks]
  rw [tasks]
  exact ⟨_, List.mem_append_right _ (List.mem_singleton_self _), rfl⟩

/-! ## Micro-batches -/

theorem countEncode_runs (s : State) (k : CountOf) (enc : Encoder) (ord : List Nat) (xs : List Num) :
    (countEncode s k enc ord xs).learn.runs = s.learn.runs := (countAll_keeps ..).2

/-- A run's own micro-batch enters it, whose input is its first waiting pairs through its newest version (R154, R155, R162). -/
def microBatchOf (r : Run) (c : Coll) (ord : List Nat) (group : Nat) : MicroBatch :=
  let ps := r.pairs.take r.p.n
  let enc := if r.fresh then firstScales r.enc c.params.metric ord ps else r.enc
  let copy := if r.fresh then refreshScales enc r.copy else r.copy
  ⟨r.nextMb, r.newest, .forward, ⟨ps, ord, enc, copy.map Trained.w, group % 2⟩⟩

/-- The run once a micro-batch of it has started: its scales are those of its first micro-batch from then on (R146). -/
def Run.started (r : Run) (c : Coll) (ord : List Nat) (group : Nat) : Run :=
  let m := microBatchOf r c ord group
  { r with enc := m.input.enc, fresh := false, copy := if r.fresh then refreshScales m.input.enc r.copy else r.copy
           pairs := r.pairs.drop r.p.n, mbs := r.mbs ++ [m], nextMb := r.nextMb + 1
           loss := lossOf (lossCtx r c m.input) m.input.pairs, lossVersion := r.newest }

section
variable {s : State} {id : Nat} {r : Run}

theorem startMicroBatch_spec (h : findRun s r.id = some r) (c : Coll) : ∃ ord group,
    findRun (startMicroBatch s r c) r.id = some (r.started c ord group) ∧
      ∃ k ∈ (startMicroBatch s r c).streams.tasks, k.kind = .microBatch r.id r.nextMb := by
  unfold startMicroBatch
  refine ⟨(drawOrd s).1, (drawNat (drawOrd s).2).1, ?_, exists_launchTensor ..⟩
  rw [findRun_congr (congrArg Learn.runs (launchTensor_learn ..)),
    findRun_congr (foldl_keeps (g := fun t => t.learn.runs) (fun t v _ => countEncode_runs ..) _), findRun_updRun,
    show findRun (drawNat (drawOrd s).2).2 r.id = some r from h]
  · rfl
  · exact fun _ => rfl

end

/-- A run that works in this bead: active, not stopping, and its work is not held (R158, R159, log entry 37). -/
def worksNow (s : State) (r : Run) : Prop := r.active = true ∧ r.stopAtEdge = none ∧ learningRuns s r = true

section
variable {s : State} {id : Nat} {r : Run} (h : findRun s id = some r)
include h

theorem microBatchStart_waits (waits : ¬ worksNow s r ∨ r.pairs.length < r.p.n ∨ s.time.held = false) :
    exec (.microBatchStart id) s = .next s := by
  simp only [exec, execMicroBatchStart, h]
  split
  · rfl
  · split
    · next open_ =>
      obtain ⟨⟨⟨⟨⟨-, held⟩, active⟩, stays⟩, runs⟩, pairs⟩ : ((((isUp s = true ∧ s.time.held = true) ∧ r.active = true) ∧
          r.stopAtEdge = none) ∧ learningRuns s r = true) ∧ r.p.n ≤ r.pairs.length := by simpa using open_
      rcases waits with idle | short | free
      · exact absurd ⟨active, stays, runs⟩ idle
      · omega
      · simp [held] at free
    · rfl

theorem exec_microBatchStart {c : Coll} (up : s.power.phase = .up) (works : worksNow s r) (hc : getColl s r.coll = some c)
    (held : s.time.held = true) (pairs : r.p.n ≤ r.pairs.length) :
    exec (.microBatchStart id) s = .next (startMicroBatch s r c) := by
  obtain ⟨active, stays, runs⟩ := works
  simp [exec, execMicroBatchStart, h, hc, isUp, up, held, active, stays, runs, pairs]

/-! ## Optimiser updates -/

theorem optimiserUpdate_waits (waits : ¬ worksNow s r ∨ updateTask s id = false ∨ r.pending ≠ none) (a : Bool) (sid : Nat) :
    exec (.optimiserUpdate id a sid) s = .next s := by
  simp only [exec, execOptimiserUpdate, h]
  split
  · rfl
  · next open_ =>
    obtain ⟨⟨⟨⟨⟨-, active⟩, stays⟩, idle⟩, runs⟩, task⟩ : ((((isUp s = true ∧ r.active = true) ∧ r.stopAtEdge = none) ∧
        r.pending = none) ∧ learningRuns s r = true) ∧ updateTask s id = true := by simpa [and_assoc] using open_
    rcases waits with held | none_ | some_
    · exact absurd ⟨active, stays, runs⟩ held
    · simp [task] at none_
    · exact absurd idle some_

end

/-- The training copy stepped by what the run accumulated (R157). -/
def steppedCopy (r : Run) : List Trained := (stepCopy r.p r.enc r.copy r.acc).1

/-- The run with a version that the next edge publishes, and an empty accumulator. -/
def Run.stepped (r : Run) : Run :=
  { r with pending := some ⟨(quantise r.enc ((steppedCopy r).map Trained.w)).enc, steppedCopy r⟩, accumulated := 0, acc := [] }

theorem countAll_streams (k : CountOf) (xs : List PosCount) (s : State) : (xs.foldl (countAt k) s).streams = s.streams :=
  (foldl_follows (countAt k) xs (fun _ _ ht => countAt_follows (List.Subset.refl _) ht) s (State.follows_refl _ s)).frame .streams
    (by decide)

theorem optimiserUpdate_steps {s : State} {id : Nat} {r : Run} (h : findRun s id = some r) (up : s.power.phase = .up)
    (works : worksNow s r) (idle : r.pending = none) (task : updateTask s id = true) (sid : Nat) :
    completes (.optimiserUpdate id false sid) s fun t => findRun t id = some r.stepped ∧
      ∀ k ∈ t.streams.tasks, k.kind ≠ .update id := by
  obtain ⟨active, stays, runs⟩ := works
  refine ⟨_, by simp only [exec, execOptimiserUpdate, h]; rw [if_neg (by simp [isUp, up, active, stays, runs, idle, task]),
    if_neg (by decide)], ?_, fun k hk => ?_⟩
  · rw [findRun_congr (countAll_keeps ..).2, findRun_congr (congrArg Learn.runs (endTasks_learn ..)),
      findRun_congr (congrArg Learn.runs (bumpN_learn ..)), findRun_updRun, h]
    · rfl
    · exact fun _ => rfl
  · rw [countAll_streams] at hk
    simpa using (List.mem_filter.mp hk).2

/-! ## An update that aborts -/

/-- Run `x` is `r` with its accumulator empty and nothing that awaits its edge: the copy, the encoder and the version stand. -/
def Run.discarded (r x : Run) : Prop :=
  x.accumulated = 0 ∧ x.acc = [] ∧ x.pending = none ∧ x.copy = r.copy ∧ x.enc = r.enc ∧ x.newest = r.newest

/-- The run that is named has discarded its accumulator. -/
def discards (id : Nat) (r : Run) (s : State) : Prop := ∃ x, findRun s id = some x ∧ r.discarded x

section
variable {id : Nat} {r : Run} {s : State}

theorem discards_of_learn {t : State} (learn : t.learn = s.learn) (h : discards id r s) : discards id r t := by
  obtain ⟨x, found, rest⟩ := h
  exact ⟨x, (findRun_congr (congrArg _ learn) id).trans found, rest⟩

theorem findRun_updRun_other {f : Run → Run} (keeps : ∀ x, (f x).id = x.id) {k : Nat} (other : k ≠ id) :
    findRun (updRun s id f) k = findRun s k := find?_map_other keeps s.learn.runs other

theorem discards_updRun {f : Run → Run} (keeps : ∀ x, (f x).id = x.id) (still : ∀ x, r.discarded x → r.discarded (f x)) (run : Nat)
    (h : discards id r s) : discards id r (updRun s run f) := by
  obtain ⟨x, found, rest⟩ := h
  by_cases same : id = run
  · subst same
    exact ⟨f x, by rw [findRun_updRun keeps, found]; rfl, still x rest⟩
  · exact ⟨x, (findRun_updRun_other keeps same).trans found, rest⟩

/-- The run without what an update would publish. -/
def Run.withoutUpdate (r : Run) : Run := { r with accumulated := 0, acc := [], pending := none }

theorem ownerAborted_update_learn {t : Task} {run : Nat} (kind : t.kind = .update run) (cause : Nat) (s : State) :
    (ownerAborted cause s t).learn = (updRun s run Run.withoutUpdate).learn := by
  unfold ownerAborted
  rw [kind]
  exact bumpN_learn ..

/-- The abort of a task changes the runs at most by dropping a micro-batch, or by discarding what an update would publish
(R149, R230). -/
theorem discards_ownerAborted (cause : Nat) (t : Task) (h : discards id r s) : discards id r (ownerAborted cause s t) := by
  cases kind : t.kind with
  | update run =>
    refine discards_of_learn (ownerAborted_update_learn kind cause s)
      (discards_updRun (f := Run.withoutUpdate) (fun _ => rfl) (fun x hx => ?_) run h)
    obtain ⟨-, -, -, kept⟩ := hx
    exact ⟨rfl, rfl, rfl, kept⟩
  | microBatch run mb =>
    unfold ownerAborted
    rw [kind]
    exact discards_of_learn (by simp) (discards_updRun (s := s) (f := fun x => { x with mbs := x.mbs.filter fun m => m.num != mb })
      (fun _ => rfl) (fun _ hx => hx) run h)
  | promote =>
    unfold ownerAborted
    rw [kind]
    dsimp only
    split
    · split <;> exact discards_of_learn (by simp) h
    · exact h
  | _ =>
    unfold ownerAborted
    rw [kind]
    exact discards_of_learn (by simp [mapQueries]) h

theorem discards_foldl {α : Type} {f : State → α → State} {xs : List α}
    (step : ∀ t, ∀ x ∈ xs, discards id r t → discards id r (f t x)) (h : discards id r s) : discards id r (xs.foldl f s) := by
  induction xs generalizing s with
  | nil => exact h
  | cons x xs ih => exact ih (fun t y hy => step t y (List.mem_cons_of_mem _ hy)) (step s x (List.mem_cons_self ..) h)

/-- A fence takes the work of its facet as an abort does (R22, log entry 101). -/
theorem discards_fenceFacet (f reason : Nat) (h : discards id r s) : discards id r (fenceFacet s f reason) := by
  have lost : discards id r (facetLost s f) := by
    unfold facetLost
    extract_lets l b s1 ts
    split
    · exact h
    · exact discards_of_learn (by simp) (discards_foldl (f := ownerAborted 2) (xs := ts)
        (fun t x _ ht => discards_ownerAborted 2 x ht) (discards_of_learn (t := s1) rfl h))
  unfold fenceFacet
  extract_lets isFault fault was known l s1 s2
  have fenced : discards id r s2 := by
    refine discards_of_learn (s := s1) rfl ?_
    dsimp only [s1]
    split
    · exact h
    · exact lost
  split
  · exact fenced
  · split
    · exact discards_of_learn rfl fenced
    · exact discards_of_learn rfl fenced

end

section
variable {P : State → Prop} (reads : ∀ s t : State, t.learn = s.learn → P s → P t)
variable (fence : ∀ {s : State} (f : Nat), P s → P (fenceFacet s f 1))
include reads fence

theorem fenceUnit_facet_keeps {s : State} {un : UnitName} (raise : State → Nat → Nat → State) (facet : ofFacet un = true) (h : P s) :
    P (startBlockReset (fenceUnit raise s un) un) ∧ P (fenceUnit raise s un) ∧ P (startBlockReset s un) := by
  cases un with
  | facet f => exact ⟨reads (fenceFacet s f 1) _ rfl (fence f h), fence f h, reads s _ rfl h⟩
  | nothing => exact ⟨h, h, h⟩
  | _ => cases facet

/-- Raising sources whose units are facets reaches the learning unit by the fences of those facets alone, whatever reactions the
setting gives the sources (R343, R344). -/
theorem raiseN_facet_keeps (n : Nat) : ∀ {s : State} {col : Nat} {mask : BitVec 64} {acc : Access} {un : UnitName},
    (∀ i, mask.getLsbD i = true → ofFacet (unitOf col i un) = true) → P s → P (raiseN n s col mask acc un) := by
  induction n with
  | zero => exact fun _ h => h
  | succ n ih =>
    intro s col mask acc un facets h
    have above {t : State} {k i : Nat} (summary : isSummary k i = true) (ht : P t) :
        P (raiseN n t k (bit64 i) (noAccess k i) .nothing) :=
      ih (fun j hj => by rw [bit64_getLsbD hj, unitOf_summary summary]; rfl) ht
    have foldP {α : Type} {f : State → α → State} (xs : List α) (step : ∀ t, ∀ x ∈ xs, P t → P (f t x)) {t : State} (ht : P t) :
        P (xs.foldl f t) := List.foldlRecOn xs f ht fun u hu x hx => step u x hx hu
    unfold raiseN
    extract_lets mask1 c srcs new s1 held s2 s3 acts reset
    have latched : P s2 := reads _ _ (show s1.learn = s.learn from bumpN_learn ..) h
    have summed : P s3 := by
      dsimp only [s3]
      split
      · exact latched
      · split
        · next facet => exact above (isSummary_die facet) latched
        · split
          · next die => exact above (isSummary_module die) latched
          · exact latched
    have unit (x : Nat × Nat × Bool) (hx : x ∈ acts) : ofFacet (unitOf col x.1 un) = true := by
      obtain ⟨i, hi, rfl⟩ := List.mem_map.mp hx
      have bit : mask1.getLsbD i = true := (List.mem_filter.mp (List.mem_filter.mp hi).1).2
      exact facets i (by simp only [mask1, BitVec.getLsbD_and, Bool.and_eq_true] at bit; exact bit.1)
    split
    · exact reads s3 _ rfl summed
    · next raise s4 _ =>
      have fenced : P s4 := foldP acts (fun t x hx ht => by
        obtain ⟨both, out, reset_⟩ := fenceUnit_facet_keeps reads fence raise (unit x hx) ht
        dsimp only
        split <;> split
        · exact both
        · exact reset_
        · exact out
        · exact ht) summed
      exact foldP acts (fun t x _ ht => by dsimp only; split <;> split <;> exact reads t _ rfl ht) fenced

end

section
variable {id : Nat} {r : Run} {s : State}

/-- A stream that is skewed aborts the task that owns it; the source that its facet raises changes the run no more (R149). -/
theorem discards_streamSkew {x : Stream} (h : discards id r (abortTask s x.tid)) : discards id r (streamSkew s x) := by
  unfold streamSkew
  extract_lets f
  refine raiseN_facet_keeps (fun _ _ => discards_of_learn) (fun f ht => discards_fenceFacet f 1 ht) 6 (fun i hi => ?_) h
  have facet : (if f < 68 then f else 0) < 68 := by split <;> omega
  simp only [unitOf, facet, if_true]
  rfl

/-- The abort of a run's update discards its accumulator (R149, R160). -/
theorem abortTask_discards {k : Task} (h : findRun s id = some r) (hk : getTask s k.tid = some k) (kind : k.kind = .update id)
    (stands : k.aborted = false) : discards id r (abortTask s k.tid) := by
  have owner {u : State} (learn : u.learn = s.learn) : discards id r (ownerAborted 6 u k) := by
    refine ⟨r.withoutUpdate, ?_, rfl, rfl, rfl, rfl, rfl, rfl⟩
    rw [findRun_congr (congrArg Learn.runs (ownerAborted_update_learn kind 6 u)), findRun_updRun,
      findRun_congr (congrArg Learn.runs learn), h]
    · rfl
    · exact fun _ => rfl
  unfold abortTask
  rw [hk]
  dsimp only
  rw [stands, if_neg Bool.false_ne_true]
  have own := owner (u := bump (updTask s k.tid fun x => { x with aborted := true }) streamAbortCnt) (by simp [updTask])
  split
  · exact discards_of_learn (by simp) own
  · exact discards_of_learn (by simp) own

/-- The streams of a skewed task: the one that is named is skewed, else the task itself is aborted (R149). -/
theorem skewOf_eq {p : Task → Bool} {k : Task} (h : s.streams.tasks.find? (fun t => p t && !t.aborted) = some k) (sid : Nat) :
    skewOf s p sid = (s.streams.streams.find? fun x => x.tid == k.tid && x.sid == sid).elim (abortTask s k.tid) (streamSkew s) := by
  unfold skewOf
  rw [h]
  dsimp only
  split <;> simp [*]

theorem exec_optimiserUpdate_aborts (h : findRun s id = some r) (up : s.power.phase = .up) (works : worksNow s r)
    (idle : r.pending = none) (task : updateTask s id = true) (sid : Nat) :
    exec (.optimiserUpdate id true sid) s = .next (skewOf s (fun t => t.kind == .update id) sid) := by
  obtain ⟨active, stays, runs⟩ := works
  simp only [exec, execOptimiserUpdate, h]
  rw [if_neg (by simp [isUp, up, active, stays, runs, idle, task])]
  rfl

theorem skewOf_update_discards {k : Task} (h : findRun s id = some r) (hk : getTask s k.tid = some k)
    (first : s.streams.tasks.find? (fun t => t.kind == .update id && !t.aborted) = some k) (sid : Nat) :
    discards id r (skewOf s (fun t => t.kind == .update id) sid) := by
  have ofUpdate := List.find?_some first
  simp only [Bool.and_eq_true, beq_iff_eq, Bool.not_eq_true'] at ofUpdate
  have aborts := abortTask_discards h hk ofUpdate.1 ofUpdate.2
  rw [skewOf_eq first]
  cases owned : s.streams.streams.find? fun x => x.tid == k.tid && x.sid == sid with
  | none => exact aborts
  | some x =>
    have tid := List.find?_some owned
    simp only [Bool.and_eq_true, beq_iff_eq] at tid
    refine discards_streamSkew ?_
    rw [tid.1]
    exact aborts

end

/-! ## The end of a stage, and a version at the edge -/

section
variable {s : State} {r : Run} (h : findRun s r.id = some r)
include h

/-- A micro-batch whose weight gradients are complete enters the accumulator as a whole (R155). -/
theorem endStage_weightGrads (c : Coll) {m : MicroBatch} (stage : m.stage = .weightGrads) :
    findRun (endStage s r c m) r.id = some { r with
      mbs := r.mbs.filter fun y => y.num != m.num
      accumulated := r.accumulated + 1
      acc := accumulate r.acc (backward (lossCtx r c m.input) (gradLen s c) m.input.copyW m.input.pairs).tensors } := by
  unfold endStage
  extract_lets g k moveTo s1
  rw [stage]
  rw [findRun_congr (countAll_keeps ..).2, findRun_congr (congrArg Learn.runs (endTasks_learn ..)), findRun_updRun, h]
  · rfl
  · exact fun _ => rfl

/-- The version of an update becomes the run's newest one; a micro-batch that began with another goes (R160). -/
theorem publishVersion_findRun {u : Update} (pending : r.pending = some u) :
    findRun (publishVersion s r) r.id = some { r with
      prevEnc := r.enc, enc := u.enc, copy := u.copy, previous := r.newest, newest := (r.newest + 1) % 2 ^ 32, pending := none
      mbs := r.mbs.filter fun m => !(decide (m.version < r.newest) && m.stage != .weightGrads) } := by
  unfold publishVersion
  rw [pending]
  dsimp only
  rw [bump, findRun_congr (congrArg Learn.runs (bumpN_learn ..)), findRun_congr (congrArg Learn.runs (bumpN_learn ..)),
    findRun_congr (congrArg Learn.runs (foldl_keeps (g := State.learn) (fun t v _ => endTasks_learn ..) _)), findRun_updRun, h]
  · rfl
  · exact fun _ => rfl

end

/-! ## The end of a drift window -/

theorem withLayers_actOff (enc : Encoder) (ls : List Layer) : (withLayers enc ls).actOff = enc.actOff := by
  unfold withLayers
  split <;> rfl

/-- A group that held nothing but zeros in its window is flagged, and one that held a value is not (R150, R152). -/
theorem settleGroup_actOff (enc : Encoder) {w : Window} (act : w.tensor % 16 = 1) (encoded : 0 < w.encoded) :
    (settleGroup enc w).actOff.contains (w.tensor / 16 * 65536 + w.pos) = !w.nonZero := by
  unfold settleGroup settled
  simp only [act, Nat.pos_iff_ne_zero.mp encoded]
  by_cases flagged : w.tensor / 16 * 65536 + w.pos ∈ enc.actOff
  · cases w.nonZero <;> simp [flagged, setActScales, withLayers_actOff]
  · cases w.nonZero <;> simp [flagged, setActScales, withLayers_actOff]

/-- Of the learning unit, at most the runs differ: what the settling of the groups keeps. -/
def sameWindows (s t : State) : Prop := ∃ runs, t.learn = { s.learn with runs := runs }

section
variable {s t : State}

theorem settleWindow_sameWindows (h : sameWindows s t) (w : Window) : sameWindows s (settleWindow t w) := by
  obtain ⟨runs, same⟩ := h
  unfold settleWindow
  extract_lets fresh
  split
  · split
    · exact ⟨runs, same⟩
    · exact ⟨_, (bumpN_learn ..).trans (by rw [updRun, State.modLearn, same])⟩
  · split
    · exact ⟨runs, same⟩
    · split
      · exact ⟨runs, same⟩
      · exact ⟨runs, (bumpN_learn ..).trans same⟩

theorem driftEvents_keep (d : Nat) (wss : List (List Window)) (s : State) :
    (wss.foldl (fun t x => driftEvent t d x) s).learn = s.learn ∧ (wss.foldl (fun t x => driftEvent t d x) s).colls = s.colls := by
  have follows := foldl_follows (T := [.out, .host, .events, .counters]) (fun t x => driftEvent t d x) wss
    (fun _ _ ht => driftEvent_follows (List.Subset.refl _) ht) s (State.follows_refl _ s)
  exact ⟨follows.frame .learn (by decide), follows.frame .colls (by decide)⟩

theorem getColl_bumpN (s : State) (a n id : Nat) : getColl (bumpN s a n) id = getColl s id := getColl_congr (by simp) id

theorem settleWindow_epoch {w : Window} {c : Coll} {ep : Epoch} (ofColl : w.run = false) (hc : getColl s w.coll = some c)
    (he : epochOf c w.epoch = some ep) :
    ((getColl (settleWindow s w) w.coll).bind fun k => epochOf k w.epoch) = some { ep with enc := settleGroup ep.enc w } := by
  have settles : (getColl (settleWindow s w) w.coll) = some { c with epochs := c.epochs.map fun x =>
      if x.num = w.epoch then { x with enc := settleGroup x.enc w } else x } := by
    unfold settleWindow
    simp only [ofColl, hc, he, Bool.false_eq_true, if_false]
    rw [getColl_bumpN, getColl_updColl, if_pos rfl, hc]
    rfl
  rw [settles]
  exact (find?_map_same (key := Epoch.num) (f := fun x => { x with enc := settleGroup x.enc w }) (fun _ => rfl) ..).trans (congrArg _ he)

theorem exec_driftWindowEnd_waits (early : beadNow s < s.learn.windowStart + s.learn.driftW) : exec .driftWindowEnd s = .next s := by
  simp [exec, execDriftWindowEnd, Nat.not_le.mpr early]

/-- The state at the end of a drift window once its events are raised. -/
def driftsRaised (s : State) : State := (tensorWindows s.learn.windows).foldl (fun t x => driftEvent t s.learn.driftD x) s

theorem exec_driftWindowEnd (up : s.power.phase = .up) (held : s.time.held = true)
    (ends : s.learn.windowStart + s.learn.driftW ≤ beadNow s) :
    exec .driftWindowEnd s = .next ((s.learn.windows.foldl settleWindow (driftsRaised s)).modLearn fun l =>
      { l with windows := l.windows.map Window.restart, windowStart := beadNow s, driftW := l.nextW.getD l.driftW
               driftD := l.nextD.getD l.driftD, nextW := none, nextD := none }) := by
  simp only [exec, execDriftWindowEnd]
  rw [if_pos (by simp [isUp, up, held, ends])]
  rfl

theorem settleWindows_sameWindows (s : State) : sameWindows s (s.learn.windows.foldl settleWindow (driftsRaised s)) :=
  List.foldlRecOn s.learn.windows settleWindow ⟨s.learn.runs, (driftEvents_keep ..).1⟩ fun _ ht w _ => settleWindow_sameWindows ht w

end

/-- Settles O54: each step of learning by its own lemmas, over the runs, the tasks and the windows. -/
theorem learningSteps : Obligations.LearningSteps := by
  unfold Obligations.LearningSteps
  refine ⟨fun s id r up h => ⟨fun idle => ⟨microBatchStart_waits h (.inl idle), fun a k => optimiserUpdate_waits h (.inl idle) a k⟩,
    fun works c hc held pairs => ?_, fun waits => microBatchStart_waits h (.inr waits),
    fun waits a k => optimiserUpdate_waits h (.inr waits) a k, fun works idle task => ⟨fun sid => ?_, fun k first sid => ?_⟩⟩,
    fun s r c m h _ stage => ⟨_, endStage_weightGrads h c stage, rfl, fun y hy => ?_, rfl⟩,
    fun s r u h pending => ⟨_, publishVersion_findRun h pending, rfl, rfl, rfl, rfl, rfl, rfl⟩,
    fun s up held => ⟨exec_driftWindowEnd_waits, fun ends => ?_⟩⟩
  · obtain rfl : r.id = id := findRun_id h
    obtain ⟨ord, group, run, task⟩ := startMicroBatch_spec h c
    refine ⟨_, exec_microBatchStart h up works hc held pairs, ⟨_, microBatchOf r c ord group, run, rfl, rfl, rfl, rfl, rfl, rfl, rfl,
      Nat.mod_lt _ (by decide), rfl, rfl, rfl, fun old => ?_⟩, task⟩
    simp [Run.started, microBatchOf, old]
  · obtain ⟨t, steps, run, tasks⟩ := optimiserUpdate_steps h up works idle task sid
    exact ⟨t, steps, ⟨_, run, rfl, rfl, rfl, rfl, rfl, rfl⟩, tasks⟩
  · have aborts := exec_optimiserUpdate_aborts h up works idle task sid
    refine ⟨fun x owned => ?_, fun none_ => ?_, fun hk => ⟨_, aborts, skewOf_update_discards h hk first sid⟩⟩
    · rw [aborts, skewOf_eq first, owned]
      rfl
    · rw [aborts, skewOf_eq first, none_]
      rfl
  · simpa using (List.mem_filter.mp hy).2
  · obtain ⟨runs, same⟩ := settleWindows_sameWindows s
    refine ⟨_, exec_driftWindowEnd up held ends, rfl, by rw [State.modLearn, same], by rw [State.modLearn, same],
      by rw [State.modLearn, same], rfl, rfl, fun w c ep one ofColl hc he => ⟨?_, fun act encoded zero => ?_, fun act encoded value => ?_⟩⟩
    · rw [one]
      exact settleWindow_epoch ofColl ((getColl_congr (driftEvents_keep ..).2 _).trans hc) he
    · rw [settleGroup_actOff _ act encoded, zero]
      rfl
    · rw [settleGroup_actOff _ act encoded, value]
      rfl

end Sys2Proof.Machine

/-! The order of the refusals of a search (O57): a check of class 0x01 that fails is answered first, then the reservations in
the order of R411, and a refused search leaves the queries, the pools and the collections as they were. -/

namespace Sys2Proof.Machine

/-! ## A refused search reserves nothing -/

/-- An answer gives back what its command reserved, and no more. -/
theorem answer_pools {s : State} {q g : Nat} {c : Cmd} (found : findCmd s q g = some c) (st : BitVec 16) (area : BitVec 320)
    (body : List Byte) : (answer s q g st area body).pools = { s.pools with relBuf := s.pools.relBuf + c.resv } := by
  have frame : s.follows [.out, .host, .queues, .events, .counters]
      (freeTag (closeOne (transmit (countReply s c st) c.ref st area body) c.ref.conn) q g) :=
    freeTag_follows (by decide) (closeOne_follows (by decide) (transmit_follows (by decide)
      (countReply_follows (by decide) (State.follows_refl _ s))))
  simp only [answer, found, show _ = s.pools from frame.frame .pools (by decide)]

/-- A submitted command that is refused leaves the module with no more than its reply. -/
theorem submits_refused {op : BitVec 8} {c : Capsule} {s : State} (sub : submits op c s) (st : BitVec 16) :
    let t := replyRefuse (queued op c s) (arrival op c s) st
    answered (refOf op c) st 0 [] t ∧ t.search = s.search ∧ t.pools = s.pools ∧ t.colls = s.colls := by
  refine ⟨(submits_answerable sub).refused st, ?_, ?_, ?_⟩
  · exact (replyRefuse_follows (List.Subset.refl _) (State.follows_refl _ _)).frame .search (by decide) |>.trans queued_search
  · exact (answer_pools (submits_found sub) st 0 []).trans queued_pools
  · exact (replyRefuse_follows (List.Subset.refl _) (State.follows_refl _ _)).frame .colls (by decide) |>.trans queued_colls

/-! ## The first reservation that fails -/

section
variable {s : State} {k : Coll} {q : Query}

theorem reserveBad_scan (scan : creditFits k q = false) : reserveBad s k q = some 0x0210 := by
  simp [reserveBad, firstBad, scan]

variable (scan : creditFits k q = true)
include scan

theorem reserveBad_ring (ring : ringFits s k.att.pipeline (ringPending s q) = false) : reserveBad s k q = some 0x0211 := by
  simp [reserveBad, firstBad, scan, ring]

variable (ring : ringFits s k.att.pipeline (ringPending s q) = true)
include ring

theorem reserveBad_select (sel : selectFits s k.att.pipeline (partitionOf q.p) = false) : reserveBad s k q = some 0x0212 := by
  simp [reserveBad, firstBad, scan, ring, sel]

variable (sel : selectFits s k.att.pipeline (partitionOf q.p) = true)
include sel

theorem reserveBad_candidates (room : hbmScratchFree s < q.candBytes) : reserveBad s k q = some 0x0213 := by
  simp [reserveBad, firstBad, scan, ring, sel, room]

theorem reserveBad_gather (cand : q.candBytes ≤ hbmScratchFree s) (room : hbmScratchFree s < q.candBytes + q.gatherBytes) :
    reserveBad s k q = some 0x0214 := by
  simp [reserveBad, firstBad, scan, ring, sel, Nat.not_lt.mpr cand, room]

end

/-! ## The decision -/

section
variable {s : State} {c : Cmd} {k : Coll} {range : Bool} {e : BitVec 16}
variable (open_ : admitStatus s = 0) (hk : getColl s c.ref.coll = some k) (attached : k.attached = true)
include open_ hk attached

theorem decideSearch_refuses_check (checks : searchChecks s k range c.cap = .error e) : decideSearch range s c = replyRefuse s c e := by
  simp [decideSearch, open_, collStatus_attached hk attached, hk, checks]

theorem decideSearch_refuses_space {b : QueryBody} (checks : searchChecks s k range c.cap = .ok b)
    (bad : reserveBad s k (buildQuery s k c.ref true (beadNow s) (beadNow s) c.cap.deadline.toNat s.fabric.addr s.search.serial
      (queryParams range (groupProbe s k.att.pipeline) c.cap (emptyQuery b)) b) = some e) :
    decideSearch range s c = replyRefuse s c e := by
  simp [decideSearch, open_, collStatus_attached hk attached, hk, checks, bad]

end

theorem exec_searchRow {i : Instr} {op : BitVec 8} {range : Bool} {c : Capsule} (s : State)
    (row : (op, i, range) ∈ [((0x01 : BitVec 8), Instr.search c, false), (0x02, .searchRange c, true)]) :
    exec i s = .next (receive op c (decideSearch range) s) := by
  simp only [List.mem_cons, Prod.mk.injEq, List.not_mem_nil, or_false] at row
  obtain ⟨rfl, rfl, rfl⟩ | ⟨rfl, rfl, rfl⟩ := row <;> rfl

/-- Settles O57: a search is refused with the check that fails, else with the first reservation that fails, and its refusal
leaves nothing but its reply. -/
theorem reservationOrder : Obligations.ReservationOrder := by
  intro range op i c s k row sub open_ hk attached refused
  have opened : admitStatus (queued op c s) = 0 := queued_admitStatus.trans open_
  have stands : getColl (queued op c s) c.coll.toNat = some k := (queued_getColl _).trans hk
  have refuses (st : BitVec 16) (decided : decideSearch range (queued op c s) (arrival op c s) =
      replyRefuse (queued op c s) (arrival op c s) st) : refused st :=
    completes_submits (exec_searchRow s row) sub (decided ▸ submits_refused sub st)
  refine ⟨fun st checks => refuses st (decideSearch_refuses_check opened stands attached ((queued_searchChecks k range).trans checks)),
    fun b checks => ?_⟩
  intro s1 q scan ring sel room
  have checked : searchChecks s1 k range c = .ok b := (queued_searchChecks k range).trans checks
  have first (st : BitVec 16) (bad : reserveBad s1 k q = some st) : refused st := by
    refine refuses st (decideSearch_refuses_space opened stands attached checked ?_)
    rwa [queued_beadNow, queued_groupProbe, queued_search, queued_fabric]
  exact ⟨fun hscan => first _ (reserveBad_scan hscan),
    fun hscan hring => first _ (reserveBad_ring hscan hring),
    fun hscan hring hsel => first _ (reserveBad_select hscan hring hsel),
    fun hscan hring hsel cand => first _ (reserveBad_candidates hscan hring hsel cand),
    fun hscan hring hsel cand gather => first _ (reserveBad_gather hscan hring hsel cand gather)⟩

end Sys2Proof.Machine

/-! Heat (O11): the steps of an HBM stack, the hysteresis of a flash package, THERM_N and the hardware trip (R189, R366). -/

namespace Sys2Proof.Machine

/-! ## Stacks -/

theorem getStack_setStack {s : State} {k : Nat} (j : Nat) (x d : HbmStack) (h : k < s.hbm.hbmStacks.length) :
    (setStack s k x).hbm.hbmStacks.getD j d = if j = k then x else s.hbm.hbmStacks.getD j d := by
  show (updAt s.hbm.hbmStacks k _).getD j d = _
  split
  · next same => rw [same, updAt_getD _ _ _ _ h]
  · next other => exact updAt_getD_other _ _ _ _ _ other

/-- The events of a stack that takes step 1, step 2 or both (R189). -/
def stackWarned (s : State) (k : Nat) (c : Int) (old new : Nat) : State :=
  let s1 := if old < 1 && 1 ≤ new then raiseEvent s 0x0301 (hotArgs k c) else s
  if old < 2 && 2 ≤ new then raiseEvent s1 0x0302 (hotArgs k c) else s1

theorem stackWarned_hbm (s : State) (k : Nat) (c : Int) (old new : Nat) : (stackWarned s k c old new).hbm = s.hbm := by
  simp only [stackWarned, apply_ite State.hbm, raiseEvent_frame, ite_self]

section
variable {s : State} {k : Nat} {c : Int} (up : s.power.phase = .up)
include up

/-- A rise that fences nothing takes the step that the temperature names and raises its events (R189). -/
theorem exec_hbmStackTempRise {old : HbmStack} (stands : s.hbm.hbmStacks.getD k ⟨0, 0, false⟩ = old)
    (noFence : c < 1680 ∨ old.fenced = true) : exec (.hbmStackTempRise k c) s =
      .next (stackWarned (setStack s k ⟨c, heatTaken old.heat c, old.fenced⟩) k c old.heat (heatTaken old.heat c)) := by
  have keeps : (old.fenced || decide (1680 ≤ c)) = old.fenced ∧ (!old.fenced && decide (1680 ≤ c)) = false := by
    rcases noFence with cool | fenced
    · simp [Int.not_le.mpr cool]
    · simp [fenced]
  simp only [exec, execHbmStackTempRise, isUp, up, beq_self_eq_true, if_true, stands, keeps, Bool.false_eq_true, if_false]
  rfl

theorem exec_hbmStackTempFall : let old := s.hbm.hbmStacks.getD k ⟨0, 0, false⟩
    exec (.hbmStackTempFall k c) s = .next (setStack s k ⟨c, min old.heat (heatTaken old.heat c), old.fenced⟩) := by
  simp [exec, execHbmStackTempFall, isUp, up]

/-! ## Flash packages and THERM_N -/

/-- A crossing of a flash package moves both its marks and its hold on THERM_N, each by its own hysteresis (R366). -/
theorem exec_thermalCrossing_flash (ch : Nat) (d : Int) : let hot80 := hyst (getFlashCh s ch).hot80 d 1280 1200
    let hot85 := hyst (getFlashCh s ch).hot85 d 1360 1280
    exec (.thermalCrossing (.flash ch) d) s =
      .next (holdTherm (updFlashCh s ch fun k => { k with hot80 := hot80, hot85 := hot85 }) (.flash ch) hot85) := by
  simp [exec, execThermalCrossing, isUp, up]

theorem exec_hardwareTrip (d : Nat) :
    exec (.hardwareTrip d) s = .next (shutDown (s.modPower fun p => { p with errTrip := true })) := by
  simp [exec, execHardwareTrip, isUp, up]

end

theorem getFlashCh_holdTherm (s : State) (x : Sensor) (on : Bool) (c : Nat) :
    getFlashCh (holdTherm s x on) c = getFlashCh s c := rfl

/-- THERM_N is asserted while the sensor that changed or any other holds it (R366). -/
theorem thermN_holdTherm (s : State) (x : Sensor) (on : Bool) :
    thermN (holdTherm s x on) = true ↔ on = true ∨ ∃ y ∈ s.power.thermHold, y ≠ x := by
  cases on <;> simp [thermN, holdTherm, State.modPower]

/-- Settles O11: a rise that fences nothing, a fall, a flash sensor and the trip, each by its own rule. -/
theorem heatSteps : Obligations.HeatSteps := by
  unfold Obligations.HeatSteps
  refine ⟨fun s k c up hk => ?_,
    fun s k c up _ => exec_hbmStackTempFall up,
    fun s c d up hc => ⟨_, exec_thermalCrossing_flash up c d, ?_⟩,
    fun s d up => ⟨_, exec_hardwareTrip up d, ?_⟩⟩
  · intro old noFence
    refine ⟨_, exec_hbmStackTempRise up rfl noFence, ?_⟩
    simp only [stackWarned_hbm, getStack_setStack _ _ _ hk]
    exact ⟨if_pos trivial, fun j other => if_neg other, rfl⟩
  · beta_reduce
    rw [getFlashCh_holdTherm, getFlashCh_updFlashCh s c c _ hc, if_pos rfl]
    exact ⟨rfl, rfl, thermN_holdTherm ..⟩
  · obtain ⟨phase, down, -, -, -, -, -, trip⟩ := shutDown_power (s.modPower fun p => { p with errTrip := true })
    exact ⟨trip, phase, down⟩

end Sys2Proof.Machine

/-! Service of the memories (O15): MBIST, retraining and the return of near-memory banks and HBM channels (R190, R191, R346,
R353). -/

namespace Sys2Proof.Machine

theorem getBank_congr {s t : State} (h : t.near = s.near) (b : Nat) : getBank t b = getBank s b := by
  unfold getBank
  rw [h]

theorem getChan_congr {s t : State} (h : t.hbm.chans = s.hbm.chans) (ch : Nat) : getChan t ch = getChan s ch := by
  unfold getChan
  rw [h]

/-! ## Banks -/

/-- A bank as a fence leaves it (R191). -/
def Bank.fence (x : Bank) : Bank := { x with state := 1, mbistPass := false, ret := false }

/-- A fence changes the bank it names; the pages and the slots that lose it are kept elsewhere. -/
theorem fenceBank_near (s : State) (b : Nat) : (fenceBank s b).near = (setBank s b (getBank s b).fence).near := by
  have rest : State.follows (setBank s b (getBank s b).fence) [.out, .host, .events, .counters, .colls, .streams] (fenceBank s b) :=
    settleRings_follows (by decide) (bumpN_follows (by decide) (mapSlots_follows (by decide) (mapColls_follows (by decide)
      (State.follows_refl _ _))))
  exact rest.frame .near (by decide)

theorem getBank_fenceBank (s : State) (b j : Nat) :
    getBank (fenceBank s b) j = if j = b then (getBank s b).fence else getBank s j :=
  (getBank_congr (fenceBank_near s b) j).trans (getBank_setBank ..)

/-- A bank as its MBIST finds it: fenced, its test running, its return withdrawn (R353). -/
def startBankTest (s : State) (b : Nat) : State :=
  let s1 := if (getBank s b).state = 0 then fenceBank s b else s
  setBank s1 b { getBank s1 b with state := 2, ret := false }

theorem startBankTest_spec (s : State) (b : Nat) : (getBank (startBankTest s b) b).state = 2 ∧
    ∀ j, j ≠ b → getBank (startBankTest s b) j = getBank s j := by
  refine ⟨by rw [startBankTest, getBank_setBank, if_pos rfl], fun j other => ?_⟩
  rw [startBankTest, getBank_setBank, if_neg other]
  split
  · rw [getBank_fenceBank, if_neg other]
  · rfl

/-- A test of a bank that ends records its result in the bank it names (R191). -/
theorem getBank_bankTested (s : State) (b j : Nat) (pass : Bool) :
    getBank (bankTested s b pass) j = if j = b then { getBank s b with state := 1, mbistPass := pass } else getBank s j := by
  rw [← getBank_setBank]
  refine getBank_congr ?_ j
  simp only [bankTested, apply_ite State.near, dropPins_frame, ite_self]

/-! ## Channels -/

/-- The pins that a test of HBM drops are those of the collectors. -/
theorem getChan_dropHbmPins (s : State) (ch : Nat) : getChan (dropHbmPins s) ch = getChan s ch :=
  getChan_congr (congrArg Hbm.chans ((dropHbmPins_follows (List.Subset.refl _) (State.follows_refl _ s)).frame .hbm (by decide))) ch

/-- A request that waited is applied to the scratch bytes of its channel (R190). -/
theorem waitApply_chans (s : State) (ch : Nat) (x : HbmWait) : (waitApply s ch x).hbm.chans = s.hbm.chans := by
  cases x with
  | msa r =>
    obtain ⟨-, hbm⟩ := msaApply_memories s ch r
    rw [waitApply, hbm]
  | write a bs t => rfl

/-- A channel that returns to service after a retrain: it serves again, its waiting requests are applied in their order, and
the retrain is counted (R190). -/
def retrained (s : State) (ch : Nat) : State :=
  bump ((getChan s ch).queued.foldl (fun t r => waitApply t ch r) (updChan s ch fun c => { c with state := 0, queued := [] }))
    (hbmRetrainCnt (ch / 32))

theorem getChan_retrained (s : State) (ch : Nat) : getChan (retrained s ch) ch = { getChan s ch with state := 0, queued := [] } := by
  have applied := List.foldlRecOn (getChan s ch).queued (fun t r => waitApply t ch r)
    (motive := fun t => t.hbm.chans = (updChan s ch fun c => { c with state := 0, queued := [] }).hbm.chans)
    rfl fun t ht x _ => (waitApply_chans t ch x).trans ht
  have counted : (retrained s ch).hbm.chans = (updChan s ch fun c => { c with state := 0, queued := [] }).hbm.chans := by
    rw [← applied]
    simp only [retrained, bump_frame]
  rw [getChan_congr counted, getChan_updChan, if_pos rfl]

/-! ## The commands of a module that runs -/

/-- In P0 and P1 the power state does not stop the HBM channels. -/
theorem unitStops_hbm {s : State} (h : s.power.pstate.toNat < 2) : unitStops s 1 = false := by
  unfold unitStops
  exact decide_eq_false (by omega)

section
variable {s : State} {b ch : Nat} (up : s.power.phase = .up)
include up

theorem exec_nearmemMbist (awake : s.power.pstate = 0) (idle : (getBank s b).state ≠ 2) :
    exec (.nearmemMbist b) s = .next (startBankTest s b) := by
  simp [exec, execNearmemMbist, isUp, up, unitStops_awake awake, idle, startBankTest]

theorem exec_nearmemMbistDone (pass : Bool) (runs : (getBank s b).state = 2) :
    exec (.nearmemMbistDone b pass) s = .next (bankTested s b pass) := by
  simp [exec, execNearmemMbistDone, isUp, up, runs]

theorem exec_nearmemReturn (awake : s.power.pstate = 0) (fenced : (getBank s b).state = 1) (passed : (getBank s b).mbistPass = true) :
    exec (.nearmemReturn b) s = .next (setBank s b { getBank s b with ret := true }) := by
  simp [exec, execNearmemReturn, isUp, up, unitStops_awake awake, fenced, passed]

theorem exec_hbmRetrainStart (online : (getChan s ch).state = 0) :
    exec (.hbmRetrainStart ch) s = .next (updChan s ch fun c => { c with state := 1 }) := by
  simp [exec, execHbmRetrainStart, startRetrain, isUp, up, online]

theorem exec_hbmRetrainEnd_passed (trains : (getChan s ch).state = 1) :
    exec (.hbmRetrainEnd ch true) s = .next (retrained s ch) := by
  simp [exec, execHbmRetrainEnd, retrained, isUp, up, trains]

theorem exec_hbmRetrainEnd_failed (trains : (getChan s ch).state = 1) :
    exec (.hbmRetrainEnd ch false) s = .next (mapOut s ch true) := by
  simp [exec, execHbmRetrainEnd, isUp, up, trains]

theorem exec_hbmRetrainTimeout (trains : (getChan s ch).state = 1) :
    exec (.hbmRetrainTimeout ch) s = .next (mapOut s ch true) := by
  simp [exec, execHbmRetrainTimeout, isUp, up, trains]

theorem exec_hbmMbistDone (pass : Bool) (runs : (getChan s ch).state = 3) : exec (.hbmMbistDone ch pass) s =
    .next (dropHbmPins (updChan s ch fun c => { c with state := 2, mbistPass := pass })) := by
  simp [exec, execHbmMbistDone, isUp, up, runs]

variable (works : s.power.pstate.toNat < 2)
include works

theorem exec_hbmChRetrain (online : (getChan s ch).state = 0) :
    exec (.hbmChRetrain ch) s = .next (updChan s ch fun c => { c with state := 1 }) := by
  simp [exec, execHbmChRetrain, startRetrain, isUp, up, unitStops_hbm works, online]

variable (unfenced : stackStep s (ch / 32) ≠ 3)
include unfenced

theorem exec_hbmMbist (out : chanOut s ch = true) :
    exec (.hbmMbist ch) s = .next (updChan s ch fun x => { x with state := 3, ret := false }) := by
  simp [exec, execHbmMbist, isUp, up, unitStops_hbm works, unfenced, out]

theorem exec_hbmReturn (tested : (getChan s ch).state = 2) (passed : (getChan s ch).mbistPass = true) :
    exec (.hbmReturn ch) s = .next (updChan s ch fun x => { x with ret := true }) := by
  simp [exec, execHbmReturn, isUp, up, unitStops_hbm works, unfenced, tested, passed]

end

/-- Settles O15: each clause is the command's own rule with what it leaves in the bank or the channel it names. -/
theorem memoryService : Obligations.MemoryService := by
  unfold Obligations.MemoryService
  refine ⟨fun s b up awake idle => ⟨_, exec_nearmemMbist up awake idle, startBankTest_spec s b⟩,
    fun s b ok up runs => ⟨_, exec_nearmemMbistDone up ok runs, ?_⟩,
    fun s b up awake fenced passed => ⟨_, exec_nearmemReturn up awake fenced passed, ?_⟩,
    fun s ch up online => ⟨_, exec_hbmRetrainStart up online, (getChan_updChan ..).trans (if_pos rfl)⟩,
    fun s ch up works online => ⟨_, exec_hbmChRetrain up works online, (getChan_updChan ..).trans (if_pos rfl)⟩,
    fun s ch up trains => ⟨_, exec_hbmRetrainEnd_passed up trains, ?_⟩,
    fun s ch up trains => ⟨exec_hbmRetrainEnd_failed up trains, exec_hbmRetrainTimeout up trains⟩,
    fun s ch up works unfenced out => ⟨_, exec_hbmMbist up works unfenced out, ?_, fun j other => ?_⟩,
    fun s ch ok up runs => ⟨_, exec_hbmMbistDone up ok runs, ?_⟩,
    fun s ch up works unfenced tested passed => ⟨_, exec_hbmReturn up works unfenced tested passed, ?_⟩⟩
  · simp only [getBank_bankTested, if_true]
    exact ⟨trivial, trivial, fun j other => if_neg other⟩
  · simp only [getBank_setBank, if_true]
    exact ⟨trivial, fenced⟩
  · beta_reduce
    rw [getChan_retrained]
    exact ⟨rfl, rfl⟩
  · rw [getChan_updChan, if_pos rfl]
  · rw [getChan_updChan, if_neg other]
  · simp only [getChan_dropHbmPins, getChan_updChan, if_true]
    exact ⟨trivial, trivial⟩
  · simp only [getChan_updChan, if_true]
    exact ⟨trivial, tested⟩

end Sys2Proof.Machine

/-! Copies of pages (O16): the copy of a pinned page that lost one, the next page to refill and a list page that is installed
for its use (R171, R175, R177, R181, R191). -/

namespace Sys2Proof.Machine

theorem Tab.put_of_get {α : Type} {t : Tab α} {k : Nat} {v : α} (h : t.get k = some v) (f : α → α) : t.upd k f = t.put k (f v) := by
  unfold Tab.upd
  rw [h]

/-- A change of a collection that is there puts the changed collection under its id. -/
theorem updColl_eq_setColl {s : State} {id : Nat} {c : Coll} (h : getColl s id = some c) (f : Coll → Coll) :
    updColl s id f = setColl s id (f c) :=
  congrArg (fun t => { s with colls := t }) (Tab.put_of_get h f)

/-- A read of a block counts in flash and moves no collection. -/
theorem getColl_countBlockRead (s : State) (coll page id : Nat) : getColl (countBlockRead s coll page) id = getColl s id :=
  getColl_congr (countBlockRead_keeps s coll page).2 id

/-- The stack that a second copy of a page avoids: that of its first copy, where it stands in HBM (R191). -/
def Page.firstStack (p : Page) : Option Nat := match p.locs with | .hbm a :: _ => some (a / 32) | _ => none

section
variable {s : State} {id page : Nat} {c : Coll} (up : s.power.phase = .up) (hc : getColl s id = some c)
include up hc

/-- The second copy of a pinned page begins on the channel that placement gives away from the first (R191). -/
theorem exec_pinnedCopyRestore {p : Page} {ch : Nat} (attached : c.attached = true) (hp : findPage c page = some p)
    (lost : p.copyLost = true) (free : p.incoming = none) (edge : p.lostAt < beadNow s)
    (place : hbmChannel s c.params.hbmSet id page 1 p.firstStack = some ch) : exec (.pinnedCopyRestore id page) s =
      .next (setColl s id (updPage c page fun p => { p with incoming := some (.hbm ch) })) := by
  have passes : (isUp s && c.attached && p.copyLost && p.incoming.isNone && decide (p.lostAt < beadNow s)) = true := by
    simp [isUp, up, attached, lost, free, edge]
  simp only [exec, execPinnedCopyRestore, hc, hp, passes, if_true]
  split
  · next chosen => rw [Option.some.inj (chosen.symm.trans place)]
  · next none_ => exact absurd (none_.symm.trans place) (by simp)

/-- The next page to refill begins its copy where placement puts it (R171, R191). -/
theorem exec_pageRefill {l : Loc} (next : nextRefill s = some (id, page)) (runs : refillPaused s id page = false)
    (place : placeLoc s id c page = some l) : exec (.pageRefill id page) s =
      .next (setColl (countBlockRead s id page) id (updPage c page fun p => { p with incoming := some l })) := by
  have stands : getColl (countBlockRead s id page) id = some c := (getColl_countBlockRead ..).trans hc
  have passes : (isUp s && nextRefill s == some (id, page) && !refillPaused s id page) = true := by simp [isUp, up, next, runs]
  simp only [exec, execPageRefill, passes, if_true, updColl_eq_setColl stands, place]

/-- A list page without a copy is installed where placement puts it, and used now (R171, R175). -/
theorem exec_installationComplete {p : Page} {l : Loc} (attached : c.attached = true) (runs : refillPaused s id page = false)
    (hp : findPage c page = some p) (list : p.kind.isList = true) (bare : p.locs = []) (free : p.incoming = none)
    (place : placeLoc s id c page = some l) : exec (.installationComplete id page) s =
      .next (countBlockRead (setColl s id (updPage c page fun p => { p with incoming := some l, lastUse := beadNow s })) id page) := by
  simp [exec, execInstallationComplete, installPage, isUp, up, hc, attached, runs, hp, list, bare, free, place]

end

/-- Settles O16: each copy begins at the place its placement rule gives. -/
theorem pageCopies : Obligations.PageCopies :=
  ⟨fun _ _ _ _ _ _ up hc attached hp lost free edge place => exec_pinnedCopyRestore up hc attached hp lost free edge place,
    fun _ _ _ _ _ up hc next runs place => exec_pageRefill up hc next runs place,
    fun _ _ _ _ _ _ up hc attached runs hp list bare free place =>
      exec_installationComplete up hc attached runs hp list bare free place⟩

end Sys2Proof.Machine

/-! The end of a flush, the hold-up measurement and MODULE_RESET (O9): what drains, what R338 loses and what step 2 of power-up
starts from (R216, R217, R336, R338, R344, R358, R399, R400). -/

namespace Sys2Proof.Machine

/-! ## Power-up and the flush -/

/-- Step 2 with fuses that pass brings the module up, and derives the locket's keys anew from its fuses (R336, R376). -/
theorem stepTwo_passes {s : State} (fuses : fusesOk s.locket = true) :
    (stepTwo s).power = { s.power with phase := .up, errBoot := false, errTrip := false, errReset := false, pllLocked := true,
                                       resetDue := false, powerGood := true } ∧
      (stepTwo s).locket.keys = [] ∧ (stepTwo s).locket.fuses = s.locket.fuses ∧ (stepTwo s).host.conns = s.host.conns := by
  simp only [stepTwo, fuses, if_true]
  exact ⟨rfl, rfl, rfl, rfl⟩

/-- A flush that ends leaves nothing in the write buffer, and touches flash alone (R217). -/
theorem drainAll_spec (s : State) :
    (drainAll s).flash.wbuf = [] ∧ (drainAll s).power = s.power ∧ (drainAll s).colls = s.colls := by
  have frame : s.follows [.free, .flash] (drainAll s) := drainAll_follows (List.Subset.refl _) (State.follows_refl _ s)
  exact ⟨rfl, frame.frame .power (by decide), frame.frame .colls (by decide)⟩

/-- A module that powers down keeps whether its records were all drained, and waits for power or starts again (R338, R400). -/
theorem powerDown_spec (s : State) : (powerDown s).flash.wbuf = [] ∧ (powerDown s).power.shutdownRecord = s.power.shutdownRecord ∧
    (powerDown s).power.phase = (if s.power.pwrEn then .starting else .off) ∧ (powerDown s).host.conns = [] ∧
    (powerDown s).locket.keys = [] := ⟨rfl, rfl, rfl, rfl, rfl⟩

/-- A reset that finds RESET_N released runs step 2 on what R338 leaves (R344, R398). -/
theorem moduleResetNow_released {s : State} (released : s.power.resetN = true) : moduleResetNow s =
    stepTwo (loseVolatile (s.modPower fun p => { p with resetDue := false, shutdownRecord := false, errReset := errN s })) :=
  if_pos released

/-! ## The commands -/

theorem exec_holdupFlushComplete {s : State} (flushing : s.power.flushing = true) :
    exec .holdupFlushComplete s = .next (flushDone s) := by
  simp [exec, execHoldupFlushComplete, flushing]

theorem flushDone_resumes {s : State} (stays : s.power.downAfter = false) (keeps : s.power.resetAfter = false) :
    flushDone s = (drainAll s).modPower fun p => { p with flushing := false } := by
  simp [flushDone, stays, keeps]

theorem flushDone_powersDown {s : State} (down : s.power.downAfter = true) : flushDone s =
    powerDown ((drainAll s).modPower fun p =>
      { p with flushing := false, downAfter := false, resetAfter := false, shutdownRecord := true }) := by
  simp [flushDone, down]

section
variable {s : State} (up : s.power.phase = .up)
include up

theorem exec_holdupMeasurement_long {n : Nat} (long : 400 ≤ n) : exec (.holdupMeasurement n) s =
    .next (dropPins { s with power := { s.power with holdup := min n 65535, holdupLow := false } } 72 (bit64 10)) := by
  simp [exec, execHoldupMeasurement, isUp, up, Nat.not_lt.mpr long, State.modPower]

theorem exec_holdupMeasurement_short {n : Nat} (short : n < 400) :
    let s1 : State := { s with power := { s.power with holdup := n, holdupLow := true } }
    exec (.holdupMeasurement n) s = .next (if s.power.holdupLow then s1 else raiseSrc s1 72 10 .nothing) := by
  have fits : min n 65535 = n := by omega
  simp [exec, execHoldupMeasurement, isUp, up, short, State.modPower, fits]

theorem exec_moduleReset (due : s.power.resetDue = true) : exec .moduleReset s = .next (moduleResetNow s) := by
  simp [exec, execModuleReset, isUp, up, due]

theorem exec_pllUnlock (refLost : Bool) : exec (.pllUnlock refLost) s =
    .next (raiseSrc (if refLost then (s.modPower fun p => { p with pllLocked := false }).modTime fun t => { t with held := false }
      else s.modPower fun p => { p with pllLocked := false }) 72 22 .nothing) := by
  simp [exec, execPllUnlock, isUp, up]

end

/-- Settles O9: the end of the flush by what follows it, the measurement by its threshold, and the reset by step 2 on what R338
leaves. -/
theorem flushAndResetEnd : Obligations.FlushAndResetEnd := by
  unfold Obligations.FlushAndResetEnd
  refine ⟨fun s flushing stays keeps => ⟨_, exec_holdupFlushComplete flushing, ?_⟩,
    fun s flushing down => ⟨_, exec_holdupFlushComplete flushing, ?_⟩,
    fun s n up long => exec_holdupMeasurement_long up long,
    fun s n up short => exec_holdupMeasurement_short up short,
    fun s up due released fuses => ⟨_, exec_moduleReset up due, ?_⟩,
    fun s up => exec_pllUnlock up false, fun s up => exec_pllUnlock up true⟩
  · obtain ⟨drained, -, colls⟩ := drainAll_spec s
    rw [flushDone_resumes stays keeps]
    exact ⟨rfl, drained, colls⟩
  · obtain ⟨-, power, -⟩ := drainAll_spec s
    obtain ⟨drained, record, phase, conns, keys⟩ := powerDown_spec ((drainAll s).modPower fun p =>
      { p with flushing := false, downAfter := false, resetAfter := false, shutdownRecord := true })
    rw [flushDone_powersDown down]
    exact ⟨drained, record, phase.trans (by rw [modPower_power, power]), conns, keys⟩
  · rw [moduleResetNow_released released]
    generalize hl : loseVolatile _ = left
    have passes : fusesOk left.locket = true := hl ▸ fuses
    obtain ⟨power, keys, kept, conns⟩ := stepTwo_passes passes
    have frame : left.follows [.free, .power, .locket, .host] (stepTwo left) :=
      stepTwo_follows (List.Subset.refl _) (State.follows_refl _ left)
    have flash : (stepTwo left).flash = left.flash := frame.frame .flash (by decide)
    have queues : (stepTwo left).queues = left.queues := frame.frame .queues (by decide)
    have loader : (stepTwo left).loader = left.loader := frame.frame .loader (by decide)
    have time : (stepTwo left).time = left.time := frame.frame .time (by decide)
    have board : (stepTwo left).board = left.board := frame.frame .board (by decide)
    rw [power, keys, kept, conns, flash, queues, loader, time, board, ← hl]
    exact ⟨rfl, rfl, rfl, rfl, rfl, rfl, rfl, rfl, rfl, rfl, rfl⟩

end Sys2Proof.Machine

/-! Service of flash channels and prongs (O17): retrain, scrub, bypass, return, and the test of a prong (R194, R208, R331, R353). -/

namespace Sys2Proof.Machine

theorem getFlashCh_congr {s t : State} (h : t.flash.chans = s.flash.chans) (c : Nat) : getFlashCh t c = getFlashCh s c := by
  unfold getFlashCh
  rw [h]

/-- Below P3 the power state does not stop the flash channels. -/
theorem unitStops_flash {s : State} (h : s.power.pstate.toNat < 3) : unitStops s 2 = false := by
  unfold unitStops
  exact decide_eq_false (by omega)

/-- A channel as a scrub starts on it: in SCRUB, and none of its blocks read yet (R208). -/
def scrubStarted (s : State) (c : Nat) : State :=
  (updFlashCh s c fun x => { x with state := 2 }).modFlash fun f =>
    { f with blocks := f.blocks.map fun b => if b.chan = c then { b with seen := false } else b }

theorem scrubStarted_spec {s : State} {c : Nat} (h : c < s.flash.chans.length) :
    (getFlashCh (scrubStarted s c) c).state = 2 ∧ ∀ b ∈ (scrubStarted s c).flash.blocks, b.chan = c → b.seen = false := by
  constructor
  · have chans : (scrubStarted s c).flash.chans = (updFlashCh s c fun x => { x with state := 2 }).flash.chans := rfl
    rw [getFlashCh_congr chans, getFlashCh_updFlashCh s c c _ h, if_pos rfl]
  · intro b hb here
    obtain ⟨x, -, rfl⟩ := List.mem_map.mp hb
    by_cases own : x.chan = c
    · rw [if_pos own]
    · rw [if_neg own] at here
      exact absurd here own

/-- A prong whose test passed: its fence clears at the next edge (R331). -/
theorem getFlashCh_prongPassed {s : State} {c : Nat} (h : c < s.flash.chans.length) : getFlashCh (prongTested s c true) c =
    { getFlashCh s c with prongTest := false, prongClear := (getFlashCh s c).prongFenced } := by
  have chans : (prongTested s c true).flash.chans =
      (updFlashCh s c fun x => { x with prongTest := false, prongClear := x.prongFenced }).flash.chans := by
    simp only [prongTested, if_true, apply_ite State.flash, dropPins_frame, ite_self]
  rw [getFlashCh_congr chans, getFlashCh_updFlashCh s c c _ h, if_pos rfl]

/-- At an edge a channel in BYPASS serves again where its return has trained, and stays out otherwise (R208, R353). -/
theorem FlashCh.edge_bypassed {x : FlashCh} (seen : Bool) (out : x.state = 3) :
    (x.edge seen).state = (if x.ret then 0 else 3) ∧ (x.edge seen).ret = false := by
  unfold FlashCh.edge
  cases clear : x.prongClear <;> cases ret : x.ret <;> simp [out, ret]

/-! ## The commands of a module that runs -/

section
variable {s : State} {c : Nat} (up : s.power.phase = .up)
include up

theorem exec_flashIfRetrainStart (online : (getFlashCh s c).state = 0) :
    exec (.flashIfRetrainStart c) s = .next (updFlashCh s c fun x => { x with state := 1 }) := by
  simp [exec, execFlashIfRetrainStart, startIfRetrain, isUp, up, online]

theorem exec_flashIfRetrainEnd (pass : Bool) (trains : (getFlashCh s c).state = 1) : exec (.flashIfRetrainEnd c pass) s =
    .next (if pass then updFlashCh s c fun x => { x with state := 0 } else bypassCore s c) := by
  simp [exec, execFlashIfRetrainEnd, isUp, up, trains]

theorem exec_flashIfRetrainTimeout (trains : (getFlashCh s c).state = 1) :
    exec (.flashIfRetrainTimeout c) s = .next (bypassCore s c) := by
  simp [exec, execFlashIfRetrainTimeout, isUp, up, trains]

theorem exec_flashProngTest (awake : s.power.pstate = 0) :
    exec (.flashProngTest c) s = .next (updFlashCh s c fun x => { x with prongTest := true }) := by
  simp [exec, execFlashProngTest, isUp, up, unitStops_awake awake]

theorem exec_prongTestDone (pass : Bool) (tests : (getFlashCh s c).prongTest = true) :
    exec (.prongTestDone c pass) s = .next (prongTested s c pass) := by
  simp [exec, execProngTestDone, isUp, up, tests]

variable (works : s.power.pstate.toNat < 3)
include works

theorem exec_flashChRetrain (online : (getFlashCh s c).state = 0) :
    exec (.flashChRetrain c) s = .next (updFlashCh s c fun x => { x with state := 1 }) := by
  simp [exec, execFlashChRetrain, startIfRetrain, isUp, up, unitStops_flash works, online]

theorem exec_flashScrub (online : (getFlashCh s c).state = 0) : exec (.flashScrub c) s = .next (scrubStarted s c) := by
  simp [exec, execFlashScrub, scrubStarted, isUp, up, unitStops_flash works, online]

theorem exec_flashBypass (serves : (getFlashCh s c).state ≠ 3) : exec (.flashBypass c) s = .next (bypassCore s c) := by
  simp [exec, execFlashBypass, isUp, up, unitStops_flash works, serves]

theorem exec_flashReturn {r : BitVec 2} (out : (getFlashCh s c).state = 3) (trained : r ≠ 3) : exec (.flashReturn c r) s =
    .next (dropPins (updFlashCh s c fun x => { x with ret := true, rate := r }) 72 (bit64 8)) := by
  simp [exec, execFlashReturn, isUp, up, unitStops_flash works, out, show r ≠ 3#2 from trained]

end

/-- Settles O17: each clause is the command's own rule with what it leaves in the channel it names. -/
theorem flashService : Obligations.FlashService := by
  unfold Obligations.FlashService
  refine ⟨fun s c up online => exec_flashIfRetrainStart up online,
    fun s c up works online => exec_flashChRetrain up works online,
    fun s c up trains =>
      ⟨exec_flashIfRetrainEnd up true trains, exec_flashIfRetrainEnd up false trains, exec_flashIfRetrainTimeout up trains⟩,
    fun s c up works online hc => ⟨_, exec_flashScrub up works online, scrubStarted_spec hc⟩,
    fun s c up works serves => exec_flashBypass up works serves,
    fun s c r up works out trained => exec_flashReturn up works out trained,
    fun x seen out => FlashCh.edge_bypassed seen out,
    fun s c up awake => exec_flashProngTest up awake,
    fun s c up tests hc => ⟨_, exec_prongTestDone up true tests, ?_⟩,
    fun s c up tests => exec_prongTestDone up false tests⟩
  beta_reduce
  rw [getFlashCh_prongPassed hc]
  exact ⟨rfl, rfl⟩

end Sys2Proof.Machine

/-! Queues, event arming and keys (O25): what QUEUE_CREATE, QUEUE_DELETE, EVENT_ARM and KEY_LOAD leave and reply (R219, R249, R251,
R263, R264, R380). -/

namespace Sys2Proof.Machine

/-! ## What sending leaves in the connections -/

/-- What a connection is apart from the messages and the commands in progress on it. -/
def Conn.standing (k : Conn) : Conn := { k with txNext := 0, store := [], open_ := 0 }

/-- Two states have the same connections, apart from the messages and the commands in progress on them. -/
def State.sameConns (s t : State) : Prop := ∀ j, (getConn t j).map Conn.standing = (getConn s j).map Conn.standing

theorem sameConns_of_host {s t : State} (h : t.host = s.host) : s.sameConns t := by
  intro j
  unfold getConn
  rw [h]

theorem State.sameConns.trans {s t u : State} (h : s.sameConns t) (g : t.sameConns u) : s.sameConns u := fun j => (g j).trans (h j)

theorem State.sameConns.armed {s t : State} (h : s.sameConns t) (j : Nat) :
    (getConn t j).map Conn.armed = (getConn s j).map Conn.armed := by
  have view (u : State) : (getConn u j).map Conn.armed = ((getConn u j).map Conn.standing).map Conn.armed := by
    rw [Option.map_map]
    rfl
  rw [view t, view s, h j]

theorem State.sameConns.live {s t : State} (h : s.sameConns t) {j : Nat} (live : s.live j) : t.live j := by
  have view (u : State) : (getConn u j).map (fun k => (k.failed, k.closed)) =
      ((getConn u j).map Conn.standing).map fun k => (k.failed, k.closed) := by
    rw [Option.map_map]
    rfl
  unfold State.live at *
  rw [view t, h j, ← view s, live]

/-- A connection that is put back with nothing but its messages changed is the same. -/
theorem sameConns_put {s t u : State} {id : Nat} {k v : Conn} (h : s.sameConns t) (hk : getConn s id = some k)
    (put : u.host.conns = t.host.conns.put id v) (same : v.standing = k.standing) : s.sameConns u := by
  intro j
  have reads : getConn u j = if j = id then some v else getConn t j :=
    (congrArg (fun x => Tab.get x j) put).trans (getConn_setConn t id j v)
  rw [reads]
  split
  · next here => rw [here, hk, Option.map_some, Option.map_some, same]
  · exact h j

theorem keepSent_sameConns {s : State} {id : Nat} {c : Conn} (mgmt : Bool) (bs : List Byte) (ev : Option (BitVec 32))
    (h : getConn s id = some c) : s.sameConns (keepSent s id c mgmt bs ev).2 := by
  have sent : s.sameConns (sendSegs s id c mgmt c.txNext (segsOf (segBytes s c) (if ev.isSome then 4 else 0) bs)) :=
    fun j => by rw [sendSegs_conn]
  unfold keepSent
  dsimp only
  split
  · exact sameConns_put sent h rfl rfl
  · exact sameConns_put sent h rfl rfl

theorem deliverTo_sameConns (bs : List Byte) (q : BitVec 32) (s : State) (id : Nat) : s.sameConns (deliverTo bs q s id) := by
  unfold deliverTo
  split
  · exact fun j => rfl
  · next c hc => exact (keepSent_sameConns _ bs (some q) hc).trans (sameConns_of_host rfl)

theorem sameConns_foldl {α : Type} {f : State → α → State} (step : ∀ t x, State.sameConns t (f t x)) (xs : List α) (s : State) :
    s.sameConns (xs.foldl f s) := by
  induction xs generalizing s with
  | nil => exact fun _ => rfl
  | cons x xs ih => exact (step s x).trans (ih _)

theorem raiseEvent_sameConns (s : State) (code : BitVec 16) (args : List Byte) : s.sameConns (raiseEvent s code args) := by
  have log : s.sameConns (logEvent s code args).2 := by
    unfold logEvent
    split
    · exact (sameConns_of_host rfl).trans (sameConns_foldl (deliverTo_sameConns _ _) _ _)
    · exact sameConns_of_host rfl
  unfold raiseEvent
  dsimp only
  split
  · exact log
  · exact log.trans (sameConns_of_host rfl)

theorem bumpN_sameConns (s : State) (a n : Nat) : s.sameConns (bumpN s a n) := by
  unfold bumpN
  split
  · exact fun _ => rfl
  · dsimp only
    split
    · exact (sameConns_of_host rfl).trans (raiseEvent_sameConns _ _ _)
    · exact sameConns_of_host rfl

theorem transmit_sameConns (s : State) (r : CmdRef) (st : BitVec 16) (area : BitVec 320) (body : List Byte) :
    s.sameConns (transmit s r st area body) := by
  unfold transmit
  split
  · exact fun _ => rfl
  · next c hc =>
    split
    · exact fun _ => rfl
    · have sent : s.sameConns (emit (keepSent s r.conn c c.admin (replyBytes r st area body) none).2 (.reply r st area body)) :=
        (keepSent_sameConns c.admin (replyBytes r st area body) none hc).trans (sameConns_of_host rfl)
      dsimp only
      split
      · exact sent
      · exact sent.trans (bumpN_sameConns _ _ _)

theorem countReply_sameConns (s : State) (c : Cmd) (st : BitVec 16) : s.sameConns (countReply s c st) := by
  unfold countReply
  split
  · exact bumpN_sameConns _ _ _
  · split
    · exact (bumpN_sameConns s queueAdmitCnt 1).trans (sameConns_of_host rfl)
    · exact fun _ => rfl

theorem closeOne_sameConns (s : State) (conn : Nat) : s.sameConns (closeOne s conn) := by
  intro j
  show ((Tab.upd s.host.conns conn _).get j).map _ = _
  rw [Tab.get_upd]
  split
  · next here => rw [here, Option.map_map]; rfl
  · rfl

theorem answer_sameConns (s : State) (q g : Nat) (st : BitVec 16) (area : BitVec 320) (body : List Byte) :
    s.sameConns (answer s q g st area body) := by
  unfold answer
  split
  · exact fun _ => rfl
  · next c _ =>
    exact ((countReply_sameConns s c st).trans (transmit_sameConns _ _ _ _ _)).trans
      ((closeOne_sameConns _ _).trans (sameConns_of_host rfl))

/-! ## Tables -/

theorem Tab.countP_put {α : Type} {p : Nat × α → Bool} {k : Nat} (skips : ∀ v, p (k, v) = false) (t : Tab α) (v : α) :
    (Tab.put t k v).countP p = t.countP p := by
  induction t with
  | nil => simp [Tab.put, skips]
  | cons e r ih =>
    obtain ⟨a, w⟩ := e
    unfold Tab.put
    split
    · rw [List.countP_cons, skips, if_neg Bool.false_ne_true]; rfl
    · split
      · next same => subst same; simp only [List.countP_cons, skips]
      · simp only [List.countP_cons, ih]

/-! ## The queues that a command is decided on, and after its answer -/

theorem countReply_queues (s : State) (c : Cmd) (st : BitVec 16) : (countReply s c st).queues.queues = s.queues.queues := by
  unfold countReply countAdmit
  split
  · simp
  · split <;> simp

/-- An answer frees a tag of its queue and leaves the others. -/
theorem answer_queues (s : State) {q x : Nat} (g : Nat) (st : BitVec 16) (area : BitVec 320) (body : List Byte) (other : x ≠ q) :
    (answer s q g st area body).queues.queues.get x = s.queues.queues.get x := by
  unfold answer
  split
  · rfl
  · next c _ =>
    show (Tab.upd (closeOne (transmit (countReply s c st) c.ref st area body) c.ref.conn).queues.queues q _).get x = _
    rw [Tab.get_upd, if_neg other]
    simp [countReply_queues]

section
variable {op : BitVec 8} {c : Capsule} {s : State}

theorem submits_live (h : submits op c s) : s.live c.conn := by
  obtain ⟨-, live, -⟩ := h
  exact live

/-- A submitted command holds its tag, and is counted on its connection. -/
theorem queued_tables (live : s.live c.conn) : ∃ k f, getConn s c.conn = some k ∧
    (queued op c s).host.conns = s.host.conns.put c.conn { k with open_ := k.open_ + 1 } ∧
    (queued op c s).queues.queues = s.queues.queues.upd c.queue.toNat f := by
  unfold State.live at live
  cases hk : getConn s c.conn with
  | none => rw [hk] at live; cases live
  | some k =>
    refine ⟨k, fun u => { u with tags := u.tags ||| BitVec.ofNat 32 (2 ^ c.tag.toNat) }, rfl, ?_⟩
    unfold queued
    rw [hk]
    dsimp only
    unfold wakeUp
    split <;> exact ⟨rfl, rfl⟩

theorem queued_queue {q : Nat} (live : s.live c.conn) (other : q ≠ c.queue.toNat) :
    (queued op c s).queues.queues.get q = s.queues.queues.get q := by
  obtain ⟨k, f, -, -, queues⟩ := queued_tables (op := op) live
  rw [queues, Tab.get_upd, if_neg other]

theorem queued_queues_wf (live : s.live c.conn) (w : Tab.wf s.queues.queues = true) :
    Tab.wf (queued op c s).queues.queues = true := by
  obtain ⟨k, f, -, -, queues⟩ := queued_tables (op := op) live
  rw [queues]
  exact Tab.wf_upd w _ f

/-- A submitted command finds every connection as open as it was. -/
theorem queued_conn {conn : Nat} {k : Conn} (live : s.live c.conn) (hk : getConn s conn = some k) :
    ∃ n, getConn (queued op c s) conn = some { k with open_ := n } := by
  obtain ⟨k₀, f, hc, conns, -⟩ := queued_tables (op := op) live
  have put : getConn (queued op c s) conn = if conn = c.conn then some { k₀ with open_ := k₀.open_ + 1 } else getConn s conn := by
    rw [← getConn_setConn]
    exact congrArg (fun t => Tab.get t conn) conns
  split at put
  · next own =>
    obtain rfl : k₀ = k := Option.some.inj (hc.symm.trans (own ▸ hk))
    exact ⟨_, put⟩
  · exact ⟨k.open_, put.trans hk⟩

/-- The other connections that are armed are counted alike. -/
theorem queued_countP (live : s.live c.conn) (p : Conn → Bool) :
    ((queued op c s).host.conns.countP fun (i, k) => i != c.conn && p k) =
      s.host.conns.countP fun (i, k) => i != c.conn && p k := by
  obtain ⟨k, f, -, conns, -⟩ := queued_tables (op := op) live
  rw [conns]
  exact Tab.countP_put (fun v => by simp) _ _

theorem queued_queuePermitted (q : Nat) : queuePermitted (queued op c s) q = queuePermitted s q := by
  unfold queuePermitted
  rw [queued_loader]

theorem queued_inUse (id : Nat) : inUse (queued op c s) id = inUse s id := by
  unfold inUse
  rw [queued_getColl]

theorem queued_events : (queued op c s).events = s.events := by
  obtain ⟨h, q, l, n, e, eq⟩ := queued_eq op c s
  rw [eq]

end

/-! ## The decisions -/

section
variable {s : State} {c : Cmd}

/-- A queue that is bound: to a connection, with no tag in use; queue 0 bound again waits for no other connection (R249). -/
def bindQueue (s : State) (q conn : Nat) : State :=
  let s1 := s.modQueues fun r => { r with queues := r.queues.put q ⟨some conn, false, 0⟩ }
  if q = 0 then s1.modHost fun h => { h with orphan0 := false, next0 := none } else s1

theorem bindQueue_queue (s : State) (q conn : Nat) : (bindQueue s q conn).queues.queues.get q = some ⟨some conn, false, 0⟩ := by
  have queues : (bindQueue s q conn).queues.queues = s.queues.queues.put q ⟨some conn, false, 0⟩ := by
    unfold bindQueue
    dsimp only
    split <;> rfl
  rw [queues]
  exact Tab.get_put_same ..

theorem bindQueue_answerable (ask : s.answerable c) (q conn : Nat) : (bindQueue s q conn).answerable c := by
  unfold bindQueue
  dsimp only
  split <;> exact ask

theorem decideQueueCreate_binds {k : Conn} (body : c.cap.body = []) (range : areaField c.cap.area 24 2 ≤ 32767)
    (hk : getConn s (areaField c.cap.area 26 2) = some k) (works : k.failed = false) (opened : k.closed = false)
    (stays : k.closing = false) (permitted : queuePermitted s (areaField c.cap.area 24 2) = true)
    (admin : areaField c.cap.area 24 2 < 16 → k.admin = true)
    (free : ∀ u, s.queues.queues.get (areaField c.cap.area 24 2) = some u → u.conn = none ∧ u.tags = 0) :
    decideQueueCreate s c = replyOk (bindQueue s (areaField c.cap.area 24 2) (areaField c.cap.area 26 2)) c 0 [] := by
  have mayAdmin : (decide (areaField c.cap.area 24 2 < 16) && !k.admin) = false := by
    by_cases low : areaField c.cap.area 24 2 < 16
    · simp [admin low]
    · simp [low]
  unfold decideQueueCreate
  cases hu : s.queues.queues.get (areaField c.cap.area 24 2) with
  | none =>
    simp [hu, firstBad, lenBad_eq_false, body, Nat.not_lt.mpr range, hk, works, opened, stays, permitted, mayAdmin, bindQueue]
  | some u =>
    obtain ⟨unbound, idle⟩ := free u hu
    simp [hu, unbound, idle, firstBad, lenBad_eq_false, body, Nat.not_lt.mpr range, hk, works, opened, stays, permitted, mayAdmin,
      bindQueue]

/-- A queue that is gone, and the objects that were open on it (R251). -/
def removeQueue (s : State) (q : Nat) : State :=
  (dropObjects s fun o => o.queue == q).modQueues fun r => { r with queues := r.queues.del q }

theorem removeQueue_answerable (ask : s.answerable c) (q : Nat) : (removeQueue s q).answerable c := ask

theorem removeQueue_objects (s : State) (q : Nat) : ∀ o ∈ (removeQueue s q).queues.objects, o.queue ≠ q := by
  intro o ho
  simpa using (List.mem_filter.mp ho).2

theorem decideQueueDelete_removes {u : Queue} (body : c.cap.body = []) (nonzero : areaField c.cap.area 24 2 ≠ 0)
    (hu : s.queues.queues.get (areaField c.cap.area 24 2) = some u) (idle : u.tags = 0) : decideQueueDelete s c =
      replyOk (removeQueue s (areaField c.cap.area 24 2)) c 0 [] := by
  simp [decideQueueDelete, removeQueue, hu, firstBad, lenBad_eq_false, body, nonzero, idle]

/-- A connection that arms itself for the groups of a mask (R264). -/
def armConn (s : State) (id mask : Nat) : State := updConn s id fun k => { k with armed := BitVec.ofNat 32 mask }

theorem decideEventArm_arms (body : c.cap.body = []) (room : areaField c.cap.area 24 4 = 0 ∨
      (s.host.conns.countP fun (i, k) => i != c.ref.conn && k.armed != 0) < 4) : decideEventArm s c =
    replyOk (deliverWaiting (armConn s c.ref.conn (areaField c.cap.area 24 4)) c.ref.conn (areaField c.cap.area 24 4)) c
      (areaPut 0 24 4 s.events.nextSeq.toNat) [] := by
  have fits : (areaField c.cap.area 24 4 != 0 &&
      decide (4 ≤ s.host.conns.countP fun (i, k) => i != c.ref.conn && k.armed != 0)) = false := by
    rcases room with zero | few
    · simp [zero]
    · rw [decide_eq_false (Nat.not_le.mpr few), Bool.and_false]
  unfold decideEventArm
  dsimp only
  rw [fits, lenBad_eq_false (List.length_eq_zero_iff.mpr body)]
  rfl

/-- A key that is loaded for a collection (R380). -/
def loadKey (s : State) (id : Nat) (k : BitVec 256) : State := s.modLocket fun l => { l with keys := l.keys.put id k }

theorem loadKey_answerable (ask : s.answerable c) (id : Nat) (k : BitVec 256) : (loadKey s id k).answerable c := ask

theorem loadKey_get (s : State) (id x : Nat) (k : BitVec 256) :
    (loadKey s id k).locket.keys.get x = if x = id then some k else s.locket.keys.get x := by
  split
  · next same => subst same; exact Tab.get_put_same ..
  · next other => exact Tab.get_put_other _ _ _ _ other

theorem decideKeyLoad_keeps (length : c.cap.body.length = 32) (lifecycle : s.locket.lifecycle ≠ 3) (idle : inUse s c.ref.coll = false)
    (halves : (keyHalves (BitVec.ofNat 256 (beNat c.cap.body))).1 ≠ (keyHalves (BitVec.ofNat 256 (beNat c.cap.body))).2) :
    decideKeyLoad s c = replyOk (loadKey s c.ref.coll (BitVec.ofNat 256 (beNat c.cap.body))) c 0 [] := by
  unfold decideKeyLoad
  simp only [firstBad, lenBad_eq_false length, beq_eq_false_iff_ne.mpr lifecycle, idle, beq_eq_false_iff_ne.mpr halves]
  rfl

/-- The events that waited are sent to the connection that armed itself. -/
theorem deliverWaiting_sameConns (s : State) (id mask : Nat) : s.sameConns (deliverWaiting s id mask) := by
  unfold deliverWaiting
  exact (sameConns_of_host rfl).trans (sameConns_foldl (fun t e => deliverTo_sameConns _ _ t id) _ _)

/-- An armed connection stands as it armed itself, whatever waited for it. -/
theorem armed_deliverWaiting {id : Nat} (live : s.live id) (mask : Nat) :
    let t := deliverWaiting (armConn s id mask) id mask
    (getConn t id).map Conn.armed = some (BitVec.ofNat 32 mask) ∧ t.live id := by
  obtain ⟨k, hk, status⟩ := Option.map_eq_some_iff.mp live
  have put : getConn (armConn s id mask) id = some { k with armed := BitVec.ofNat 32 mask } := by
    refine (Tab.get_upd ..).trans ((if_pos rfl).trans ?_)
    exact congrArg (Option.map fun k : Conn => { k with armed := BitVec.ofNat 32 mask }) hk
  have same := deliverWaiting_sameConns (armConn s id mask) id mask
  refine ⟨by rw [same.armed, put, Option.map_some], same.live ?_⟩
  unfold State.live
  rw [put, Option.map_some, ← status]

end

/-- Settles O25: each command by its decision on the state in which it holds its tag. -/
theorem administersQueues : Obligations.AdministersQueues := by
  unfold Obligations.AdministersQueues
  refine ⟨fun c s k sub body range other hk works opened stays permitted admin free => ?_,
    fun c s u sub body nonzero other hu idle wf => ?_, fun c s sub body room => ?_,
    fun c s sub length lifecycle idle halves => ?_⟩
  · have live := submits_live sub
    obtain ⟨n, hk'⟩ := queued_conn (op := 0x85) live hk
    refine completes_submits (d := decideQueueCreate) rfl sub ?_
    rw [decideQueueCreate_binds (c := arrival 0x85 c s) body range hk' works opened stays ((queued_queuePermitted _).trans permitted)
      admin fun u hu => free u ((queued_queue live other).symm.trans hu)]
    exact ⟨(answer_queues _ _ _ _ _ other).trans (bindQueue_queue ..), (bindQueue_answerable (submits_answerable sub) ..).ok _ _⟩
  · have live := submits_live sub
    refine completes_submits (d := decideQueueDelete) rfl sub ?_
    rw [decideQueueDelete_removes (c := arrival 0x86 c s) body nonzero ((queued_queue live other).trans hu) idle]
    refine ⟨(answer_queues _ _ _ _ _ other).trans (Tab.get_del_same (queued_queues_wf live wf) _), ?_,
      (removeQueue_answerable (submits_answerable sub) _).ok _ _⟩
    rw [replyOk, answer_objects]
    exact removeQueue_objects _ _
  · have live := submits_live sub
    refine completes_submits (d := decideEventArm) rfl sub ?_
    have fits := room.imp_right (queued_countP (op := 0x8F) live fun k => k.armed != 0).trans_lt
    rw [decideEventArm_arms (c := arrival 0x8F c s) body fits, queued_events]
    obtain ⟨armed, liveAfter⟩ := armed_deliverWaiting (queued_live (op := 0x8F) live) (areaField c.area 24 4)
    refine ⟨((answer_sameConns _ _ _ _ _ _).armed _).trans armed, State.answerable.ok ⟨?_, liveAfter⟩ _ _⟩
    have queues := (deliverWaiting_follows (List.Subset.refl _) (State.follows_refl _
      (armConn (queued 0x8F c s) c.conn (areaField c.area 24 4)))
      (id := c.conn) (mask := areaField c.area 24 4)).frame .queues (by decide)
    exact (findCmd_congr (congrArg Queues.cmds queues) _ _).trans (submits_found sub)
  · refine completes_submits (d := decideKeyLoad) rfl sub ?_
    rw [decideKeyLoad_keeps (c := arrival 0x8C c s) length (by rwa [queued_locket]) ((queued_inUse _).trans idle) halves]
    refine ⟨?_, fun x other => ?_, (loadKey_answerable (submits_answerable sub) _ _).ok _ _⟩
    · simp only [replyOk, answer_frame, loadKey_get]
      exact if_pos rfl
    · simp only [replyOk, answer_frame, loadKey_get, queued_locket]
      exact if_neg other

end Sys2Proof.Machine

/-! The recovery ladder (O53): what it counts, and what a read that took every step of it leaves of its unit (R205, R206, R208). -/

namespace Sys2Proof.Machine

/-! ## Mapping units by their page -/

/-- Change the mapping unit of a page. -/
def updUnit (s : State) (coll page : Nat) (f : Unit64 → Unit64) : State :=
  s.modFlash fun r => { r with units := r.units.map fun x => if x.coll == coll && x.page == page then f x else x }

/-- What a predicate finds after a change of the elements it holds for, when the change keeps it. -/
theorem find?_map_if_same {α : Type} {q : α → Bool} {f : α → α} (keeps : ∀ x, q x = true → q (f x) = true) (xs : List α) :
    (xs.map fun x => if q x then f x else x).find? q = (xs.find? q).map f := by
  induction xs with
  | nil => rfl
  | cons x r ih =>
    cases hx : q x
    · simp [hx, ih]
    · simp [hx, keeps x hx]

/-- A change of elements that a predicate does not hold for leaves what it finds. -/
theorem find?_map_if_other {α : Type} {p q : α → Bool} {f : α → α} (apart : ∀ x, p x = true → q x = false ∧ q (f x) = false)
    (xs : List α) : (xs.map fun x => if p x then f x else x).find? q = xs.find? q := by
  induction xs with
  | nil => rfl
  | cons x r ih =>
    cases hx : p x
    · simp [hx, List.find?_cons, ih]
    · simp [hx, apart x hx, ih]

/-- A unit is that of a page. -/
def Unit64.isAt (c p : Nat) (x : Unit64) : Bool := x.coll == c && x.page == p

theorem Unit64.isAt_iff {c p : Nat} {x : Unit64} : x.isAt c p = true ↔ (x.coll, x.page) = (c, p) := by simp [Unit64.isAt]

theorem Unit64.isAt_eq_false {c p : Nat} {x : Unit64} : x.isAt c p = false ↔ (x.coll, x.page) ≠ (c, p) := by
  rw [ne_eq, ← Unit64.isAt_iff, Bool.not_eq_true]

theorem findUnit_eq (s : State) (c p : Nat) : findUnit s c p = s.flash.units.find? (Unit64.isAt c p) := rfl

/-- A change of a unit that keeps its page reads back under it, and leaves the units of the other pages. -/
theorem findUnit_updUnit {f : Unit64 → Unit64} (keeps : ∀ x, ((f x).coll, (f x).page) = (x.coll, x.page)) (s : State)
    (coll page c p : Nat) : findUnit (updUnit s coll page f) c p =
      if (c, p) = (coll, page) then (findUnit s coll page).map f else findUnit s c p := by
  split
  · next own =>
    obtain ⟨rfl, rfl⟩ := Prod.mk.inj own
    exact find?_map_if_same (q := Unit64.isAt c p) (fun x hx => Unit64.isAt_iff.mpr ((keeps x).trans (Unit64.isAt_iff.mp hx)))
      s.flash.units
  · next other =>
    refine find?_map_if_other (p := Unit64.isAt coll page) (q := Unit64.isAt c p) (fun x hx => ?_) s.flash.units
    have away : (x.coll, x.page) ≠ (c, p) := fun own => other (own.symm.trans (Unit64.isAt_iff.mp hx))
    exact ⟨Unit64.isAt_eq_false.mpr away, Unit64.isAt_eq_false.mpr fun own => away ((keeps x).symm.trans own)⟩

theorem findUnit_congr {s t : State} (h : t.flash.units = s.flash.units) (coll page : Nat) :
    findUnit t coll page = findUnit s coll page := by
  unfold findUnit
  rw [h]

theorem stripePage_congr {s t : State} (h : t.colls = s.colls) (coll page : Nat) : stripePage t coll page = stripePage s coll page := by
  unfold stripePage
  rw [getColl_congr h]

theorem bypassed_congr {s t : State} (h : t.flash.chans = s.flash.chans) : bypassed t = bypassed s := by
  funext c
  unfold bypassed
  rw [h]

/-! ## A read that no step recovered -/

/-- A source of the module that names no unit is latched, counted and handed to a core, or asks for a reset (R344, R345). -/
theorem raiseN_module_follows (n : Nat) {mask : BitVec 64} (none_ : ∀ i, mask.getLsbD i = true → unitOf 72 i .nothing = .nothing)
    (s : State) (acc : Access) :
    s.follows [.out, .power, .cores, .host, .events, .counters, .collectors] (raiseN n s 72 mask acc .nothing) := by
  cases n with
  | zero => exact State.follows_refl _ s
  | succ n =>
    unfold raiseN
    extract_lets mask1 c srcs new s1 held s2 s3 acts reset
    have latched : s.follows [.out, .power, .cores, .host, .events, .counters, .collectors] s3 := by
      have h2 : s.follows [.out, .power, .cores, .host, .events, .counters, .collectors] s2 :=
        updCol_follows (by decide) (bumpN_follows (by decide) (State.follows_refl _ s))
      dsimp only [s3]
      split
      · exact h2
      · exact h2
    have unit (x : Nat × Nat × Bool) (hx : x ∈ acts) : unitOf 72 x.1 .nothing = .nothing := by
      obtain ⟨i, hi, rfl⟩ := List.mem_map.mp hx
      have bit : mask1.getLsbD i = true := (List.mem_filter.mp (List.mem_filter.mp hi).1).2
      exact none_ i (by simp only [mask1, BitVec.getLsbD_and, Bool.and_eq_true] at bit; exact bit.1)
    split
    · exact modPower_follows (by decide) latched
    · next raise s4 _ =>
      have fenced : s4 = s3 := by
        refine foldl_keeps (g := id) (fun t x hx => ?_) s3
        simp only [unit x hx]
        split <;> split <;> rfl
      rw [fenced]
      refine foldl_follows _ _ (fun t x ht => ?_) _ latched
      dsimp only
      split <;> split
      · exact interrupt_follows (by decide) (interrupt_follows (by decide) ht)
      · exact interrupt_follows (by decide) ht
      · exact interrupt_follows (by decide) ht
      · exact ht

/-- A read of a lost unit is reported and leaves flash as it is (R206). -/
theorem lostRead_flash (s : State) (c coll off : Nat) : (lostRead s c coll off).flash = s.flash := by
  have raised := raiseN_module_follows 6 (mask := bit64 8) (fun i hi => by rw [bit64_getLsbD hi]; rfl) (bump s (flashUncorrCnt c))
    (readAccess (0x200 + c) coll (off / pageSize * pageSize))
  exact (raised.frame .flash (by decide)).trans (by simp)

theorem lostRead_raises {s : State} (all : s.collectors.length = 73) (c coll off : Nat) :
    (getCol (lostRead s c coll off) 72).status.getLsbD 8 = true :=
  raiseMask_sets _ 72 _ _ _ (by simp [all]) 8 (by decide) (by decide)

/-- A unit whose read no step of the ladder recovered (R206). -/
def Unit64.asLost (x : Unit64) : Unit64 := { x with lost := true, moving := false }

/-- A stripe-class page whose fragment on a channel no step of the ladder recovered (R205). -/
def Unit64.withBad (c : Nat) (x : Unit64) : Unit64 := { x with bad := (x.bad ++ [c]).eraseDups }

section
variable (s : State) (c coll page : Nat)

/-- A unit that no step of the ladder recovered: marked lost, and reported (R206). -/
def unitLost : State :=
  lostRead (updUnit s coll page Unit64.asLost) c coll (page * pageSize)

/-- A fragment of a stripe-class page that no step of the ladder recovered (R205). -/
def fragmentBad : State := updUnit s coll page (Unit64.withBad c)

theorem ladderFails_eq : ladderFails s c coll page =
    if stripePage s coll page then
      if fragsGone (fragmentBad s c coll page) coll page < 2 then fragmentBad s c coll page
      else unitLost (fragmentBad s c coll page) c coll page
    else unitLost s c coll page := rfl

theorem findUnit_unitLost (k p : Nat) : findUnit (unitLost s c coll page) k p =
    if (k, p) = (coll, page) then (findUnit s coll page).map Unit64.asLost else findUnit s k p :=
  (findUnit_congr (congrArg Flash.units (lostRead_flash ..)) k p).trans
    (findUnit_updUnit (f := Unit64.asLost) (fun _ => rfl) s coll page k p)

theorem unitLost_raises (all : s.collectors.length = 73) : (getCol (unitLost s c coll page) 72).status.getLsbD 8 = true :=
  lostRead_raises (s := updUnit s coll page Unit64.asLost) all c coll (page * pageSize)

theorem findUnit_fragmentBad (k p : Nat) : findUnit (fragmentBad s c coll page) k p =
    if (k, p) = (coll, page) then (findUnit s coll page).map (Unit64.withBad c) else findUnit s k p :=
  findUnit_updUnit (f := Unit64.withBad c) (fun _ => rfl) s coll page k p

theorem getCol_fragmentBad (k : Nat) : getCol (fragmentBad s c coll page) k = getCol s k := rfl

end

/-- The fragments of a stripe-class page that are gone: of channels in BYPASS, never written, or bad (R205). -/
def Unit64.gone (s : State) (u : Unit64) (coll page : Nat) : Nat :=
  (stripeGroup coll page).countP fun k => bypassed s k || u.thin == some k || u.bad.contains k

theorem fragsGone_eq {s : State} {coll page : Nat} {u : Unit64} (h : findUnit s coll page = some u) :
    fragsGone s coll page = u.gone s coll page := by
  unfold findUnit at h
  simp only [fragsGone, h, Option.bind_some, Unit64.gone]

/-- What a failed ladder leaves: the unit is lost, or one more fragment is while the others serve the page (R205, R206). -/
theorem ladderFails_spec {s t : State} {coll page : Nat} {u : Unit64} (c : Nat) (hu : findUnit s coll page = some u)
    (all : s.collectors.length = 73) (ht : t = ladderFails s c coll page) :
    (stripePage s coll page = false → findUnit t coll page = some u.asLost ∧ (getCol t 72).status.getLsbD 8 = true) ∧
    (stripePage s coll page = true → (u.withBad c).gone s coll page < 2 → findUnit t coll page = some (u.withBad c) ∧
      (getCol t 72).status = (getCol s 72).status) ∧
    (stripePage s coll page = true → 2 ≤ (u.withBad c).gone s coll page → findUnit t coll page = some (u.withBad c).asLost ∧
      (getCol t 72).status.getLsbD 8 = true) ∧
    ∀ k p, (k, p) ≠ (coll, page) → findUnit t k p = findUnit s k p := by
  have bad : findUnit (fragmentBad s c coll page) coll page = some (u.withBad c) := by
    rw [findUnit_fragmentBad, if_pos rfl, hu, Option.map_some]
  have gone : fragsGone (fragmentBad s c coll page) coll page = (u.withBad c).gone s coll page := fragsGone_eq bad
  rw [ladderFails_eq, gone] at ht
  refine ⟨fun plain => ?_, fun stripe few => ?_, fun stripe many => ?_, fun k p other => ?_⟩
  · rw [ht, plain, if_neg Bool.false_ne_true, findUnit_unitLost, if_pos rfl, hu]
    exact ⟨rfl, unitLost_raises _ _ _ _ all⟩
  · rw [ht, if_pos stripe, if_pos few, getCol_fragmentBad]
    exact ⟨bad, rfl⟩
  · rw [ht, if_pos stripe, if_neg (Nat.not_lt.mpr many), findUnit_unitLost, if_pos rfl, bad]
    exact ⟨rfl, unitLost_raises _ _ _ _ all⟩
  · rw [ht]
    split
    · split
      · rw [findUnit_fragmentBad, if_neg other]
      · rw [findUnit_unitLost, if_neg other, findUnit_fragmentBad, if_neg other]
    · rw [findUnit_unitLost, if_neg other]

/-! ## The steps that are counted -/

/-- The steps of a ladder as they count: retries up to 8, the soft decode behind them, and the rebuild of a unit that is no
fragment; of a channel in BYPASS the rebuild alone (R205, R206, R208, log entry 69). -/
def ladderCounted (s : State) (c : Nat) (stripe : Bool) (r : LadderEnd) : State :=
  let out := (getFlashCh s c).state == 3
  let n := if out then 0 else if r.recovered then min 8 r.retries else 8
  let soft := n == 8 && (r.soft || !r.recovered)
  let reb := (soft || out) && (r.rebuilt || !r.recovered) && !stripe
  let s1 := bumpN s (flashRetryCnt c) n
  let s2 := if soft then bump s1 (flashSoftCnt c) else s1
  if reb then bump s2 (flashRebuildCnt c) else s2

theorem ladderCounted_follows (s : State) (c : Nat) (stripe : Bool) (r : LadderEnd) :
    s.follows [.out, .host, .events, .counters] (ladderCounted s c stripe r) := by
  have softened (n : Nat) (soft : Bool) : s.follows [.out, .host, .events, .counters]
      (if soft then bump (bumpN s (flashRetryCnt c) n) (flashSoftCnt c) else bumpN s (flashRetryCnt c) n) := by
    have retried : s.follows [.out, .host, .events, .counters] (bumpN s (flashRetryCnt c) n) :=
      bumpN_follows (List.Subset.refl _) (State.follows_refl _ s)
    split
    · exact bump_follows (List.Subset.refl _) retried
    · exact retried
  unfold ladderCounted
  extract_lets out n soft reb s1 s2
  split
  · exact bump_follows (List.Subset.refl _) (softened n soft)
  · exact softened n soft

section
variable {s : State} {c : Nat} {stripe : Bool} {r : LadderEnd} (recovered : r.recovered = true)
include recovered

theorem ladderCounted_bypassed (out : (getFlashCh s c).state = 3) :
    ladderCounted s c stripe r = if r.rebuilt && !stripe then bump s (flashRebuildCnt c) else s := by
  simp [ladderCounted, out, recovered, bumpN]

variable (serves : (getFlashCh s c).state ≠ 3)
include serves

theorem ladderCounted_retries (early : r.retries < 8 ∨ r.soft = false) :
    ladderCounted s c stripe r = bumpN s (flashRetryCnt c) (min 8 r.retries) := by
  have served : ((getFlashCh s c).state == 3) = false := beq_eq_false_iff_ne.mpr serves
  rcases early with few | hard
  · simp [ladderCounted, served, recovered, Nat.not_le.mpr few]
  · simp [ladderCounted, served, recovered, hard]

theorem ladderCounted_soft (late : 8 ≤ r.retries) (soft : r.soft = true) : ladderCounted s c stripe r =
    if r.rebuilt && !stripe then bump (bump (bumpN s (flashRetryCnt c) 8) (flashSoftCnt c)) (flashRebuildCnt c)
    else bump (bumpN s (flashRetryCnt c) 8) (flashSoftCnt c) := by
  have served : ((getFlashCh s c).state == 3) = false := beq_eq_false_iff_ne.mpr serves
  simp [ladderCounted, served, recovered, soft, Nat.min_eq_left late]

end

/-! ## RECOVERY_LADDER_END -/

/-- A channel that holds what a ladder reads: the unit, or a fragment of its stripe-class page (R205, R208). -/
def ladderHere (s : State) (c coll page : Nat) (u : Unit64) : Bool :=
  if stripePage s coll page then (stripeGroup coll page).contains c && !bypassed s c && !u.bad.contains c else u.chan == c

theorem ladderHere_iff (s : State) (c coll page : Nat) (u : Unit64) : ladderHere s c coll page u = true ↔
    (stripePage s coll page = false ∧ u.chan = c) ∨
      (stripePage s coll page = true ∧ c ∈ stripeGroup coll page ∧ bypassed s c = false ∧ c ∉ u.bad) := by
  unfold ladderHere
  cases stripePage s coll page <;> simp [and_assoc]

section
variable {s : State} {c coll page : Nat} {u : Unit64} (r : LadderEnd) (hu : findUnit s coll page = some u)
include hu

theorem exec_recoveryLadderEnd_none (none_ : u.lost = true ∨ ladderHere s c coll page u ≠ true) :
    exec (.recoveryLadderEnd c coll page r) s = .next s := by
  have stops : (!isUp s || u.lost || !ladderHere s c coll page u) = true := by
    rcases none_ with lost | away
    · simp [lost]
    · simp [away]
  simp only [exec, execRecoveryLadderEnd, hu]
  exact congrArg Host.Outcome.next (if_pos stops)

theorem exec_recoveryLadderEnd (up : s.power.phase = .up) (stands : u.lost = false) (here : ladderHere s c coll page u = true) :
    exec (.recoveryLadderEnd c coll page r) s = .next (if r.recovered then ladderCounted s c (stripePage s coll page) r
      else ladderFails (ladderCounted s c (stripePage s coll page) r) c coll page) := by
  have runs : ¬(!isUp s || u.lost || !ladderHere s c coll page u) = true := by simp [isUp, up, stands, here]
  simp only [exec, execRecoveryLadderEnd, hu]
  exact congrArg Host.Outcome.next (if_neg runs)

end

/-- Settles O53: a ladder counts its steps, and one that fails takes its unit or its fragment. -/
theorem recoveryLadder : Obligations.RecoveryLadder := by
  unfold Obligations.RecoveryLadder
  intro s c coll page u r up hu stripe here
  have holds : ladderHere s c coll page u = true ↔ here := ladderHere_iff s c coll page u
  refine ⟨fun none_ => exec_recoveryLadderEnd_none r hu (none_.imp_right (mt holds.mp)), fun stands at_ => ?_⟩
  have run := exec_recoveryLadderEnd r hu up stands (holds.mpr at_)
  refine ⟨fun recovered => ?_, fun failed all => ?_⟩
  · rw [run, recovered, if_pos rfl]
    refine ⟨fun out => by rw [ladderCounted_bypassed recovered out], fun serves =>
      ⟨fun early => by rw [ladderCounted_retries recovered serves early], fun late soft => ?_⟩⟩
    intro s1
    rw [ladderCounted_soft recovered serves late soft]
    refine ⟨fun none_ => ?_, fun rebuilt plain => ?_⟩
    · have noRebuild : ¬(r.rebuilt && !stripe) = true := by rcases none_ with h | h <;> simp [h]
      rw [if_neg noRebuild]
    · have rebuilds : (r.rebuilt && !stripe) = true := by simp [rebuilt, plain]
      rw [if_pos rebuilds]
  · intro u1 gone
    have frame := ladderCounted_follows s c stripe r
    have flash : (ladderCounted s c stripe r).flash = s.flash := frame.frame .flash (by decide)
    have colls : (ladderCounted s c stripe r).colls = s.colls := frame.frame .colls (by decide)
    have cols : (ladderCounted s c stripe r).collectors = s.collectors := frame.frame .collectors (by decide)
    have units := findUnit_congr (congrArg Flash.units flash)
    have gone_ : (u.withBad c).gone (ladderCounted s c stripe r) coll page = gone := by
      rw [Unit64.gone, bypassed_congr (congrArg Flash.chans flash)]
      rfl
    have status : getCol (ladderCounted s c stripe r) 72 = getCol s 72 := by unfold getCol; rw [cols]
    obtain ⟨plain, few, many, others⟩ := ladderFails_spec c ((units coll page).trans hu) (cols ▸ all) rfl
    rw [stripePage_congr colls] at plain few many
    rw [status, gone_] at few
    rw [gone_] at many
    refine ⟨_, run, ?_⟩
    rw [failed, if_neg Bool.false_ne_true]
    exact ⟨plain, few, many, fun k p other => (others k p other).trans (units k p)⟩

end Sys2Proof.Machine

/-! Background work on flash (O52): wear levelling, read disturb, the scrub and free-block collection (R202, R203, R208). -/

namespace Sys2Proof.Machine

/-! ## The spread of erase counts -/

theorem foldl_max_spec (xs : List Nat) (m : Nat) :
    (m ≤ xs.foldl max m ∧ ∀ x ∈ xs, x ≤ xs.foldl max m) ∧ (xs.foldl max m = m ∨ xs.foldl max m ∈ xs) := by
  induction xs generalizing m with
  | nil => simp
  | cons y r ih =>
    obtain ⟨⟨base, above⟩, reached⟩ := ih (max m y)
    simp only [List.foldl_cons, List.mem_cons, forall_eq_or_imp]
    refine ⟨⟨by omega, by omega, above⟩, ?_⟩
    rcases reached with eq | mem
    · omega
    · exact .inr (.inr mem)

theorem foldl_min_spec (xs : List Nat) (m : Nat) :
    (xs.foldl min m ≤ m ∧ ∀ x ∈ xs, xs.foldl min m ≤ x) ∧ (xs.foldl min m = m ∨ xs.foldl min m ∈ xs) := by
  induction xs generalizing m with
  | nil => simp
  | cons y r ih =>
    obtain ⟨⟨base, below⟩, reached⟩ := ih (min m y)
    simp only [List.foldl_cons, List.mem_cons, forall_eq_or_imp]
    refine ⟨⟨by omega, by omega, below⟩, ?_⟩
    rcases reached with eq | mem
    · omega
    · exact .inr (.inr mem)

/-- The spread of some counts, as wear levelling takes it. -/
def spread (es : List Nat) : Nat := es.foldl max 0 - es.foldl min (es.foldl max 0)

/-- Counts spread by more than a limit where two of them do. -/
theorem lt_spread_iff (es : List Nat) (n : Nat) : n < spread es ↔ ∃ x ∈ es, ∃ y ∈ es, x + n < y := by
  obtain ⟨⟨-, above⟩, top⟩ := foldl_max_spec es 0
  obtain ⟨⟨-, below⟩, bottom⟩ := foldl_min_spec es (es.foldl max 0)
  unfold spread
  constructor
  · intro h
    have highest : es.foldl max 0 ∈ es := top.resolve_left (by omega)
    have lowest : es.foldl min (es.foldl max 0) ∈ es := bottom.resolve_left (by omega)
    exact ⟨_, lowest, _, highest, by omega⟩
  · rintro ⟨x, hx, y, hy, apart⟩
    have low := below x hx
    have high := above y hy
    omega

/-- The erase counts of the blocks of a channel. -/
def eraseCounts (s : State) (c : Nat) : List Nat := (s.flash.blocks.filter fun b => b.chan == c).map Block.erase

theorem mem_eraseCounts {s : State} {c n : Nat} : n ∈ eraseCounts s c ↔ ∃ b ∈ s.flash.blocks, b.chan = c ∧ b.erase = n := by
  simp [eraseCounts, and_assoc]

/-! ## The least block -/

/-- The lesser of the least block so far and one more, the lowest number among equals. -/
def lesserBlock (f : Block → Nat) (m : Option Block) (b : Block) : Option Block :=
  match m with
  | none => some b
  | some x => if f b < f x || (f b == f x && b.num < x.num) then some b else m

theorem leastBlock_eq (f : Block → Nat) (bs : List Block) : leastBlock f bs = bs.foldl (lesserBlock f) none := rfl

/-- The least of a block and those that follow it. -/
theorem foldl_lesserBlock (f : Block → Nat) (bs : List Block) (a : Block) :
    ∃ b ∈ a :: bs, bs.foldl (lesserBlock f) (some a) = some b ∧
      ∀ x ∈ a :: bs, f b < f x ∨ (f b = f x ∧ b.num ≤ x.num) := by
  induction bs generalizing a with
  | nil => exact ⟨a, List.mem_singleton_self a, rfl, by simp⟩
  | cons y r ih =>
    have step : lesserBlock f (some a) y = some (if f y < f a ∨ (f y = f a ∧ y.num < a.num) then y else a) := by
      simp only [lesserBlock, Bool.or_eq_true, Bool.and_eq_true, decide_eq_true_eq, beq_iff_eq]
      split <;> rfl
    rw [List.foldl_cons, step]
    obtain ⟨b, mem, fold, least⟩ := ih (if f y < f a ∨ (f y = f a ∧ y.num < a.num) then y else a)
    have start := least _ (List.mem_cons_self ..)
    refine ⟨b, ?_, fold, ?_⟩
    · rcases List.mem_cons.mp mem with rfl | tail
      · split <;> simp
      · simp [tail]
    · simp only [List.mem_cons, forall_eq_or_imp]
      refine ⟨?_, ?_, fun x hx => least x (List.mem_cons_of_mem _ hx)⟩
      · split at start <;> omega
      · split at start <;> omega

theorem leastBlock_spec (f : Block → Nat) {bs : List Block} (h : bs ≠ []) : ∃ b ∈ bs, leastBlock f bs = some b ∧
    ∀ x ∈ bs, f b < f x ∨ (f b = f x ∧ b.num ≤ x.num) := by
  cases bs with
  | nil => exact absurd rfl h
  | cons a r => exact foldl_lesserBlock f r a

/-! ## Blocks and the units of a block -/

/-- A change of a block that keeps its place reads back under it. -/
theorem findBlock_updBlock {f : Block → Block} (keeps : ∀ b, ((f b).chan, (f b).num) = (b.chan, b.num)) (s : State) (c n : Nat) :
    findBlock (updBlock s c n f) c n = (findBlock s c n).map f := by
  refine find?_map_if_same (q := fun b : Block => b.chan == c && b.num == n) (fun b hb => ?_) s.flash.blocks
  obtain ⟨chan, num⟩ := Prod.mk.inj (keeps b)
  rw [chan, num]
  exact hb

theorem findBlock_congr {s t : State} (h : t.flash.blocks = s.flash.blocks) (c n : Nat) : findBlock t c n = findBlock s c n := by
  unfold findBlock
  rw [h]

/-- The wear of a channel is reported; its blocks and units stand (R202). -/
theorem wearEvents_flash (s : State) (c : Nat) : (wearEvents s c).flash.blocks = s.flash.blocks ∧
    (wearEvents s c).flash.units = s.flash.units ∧ (wearEvents s c).flash.journal = s.flash.journal := by
  unfold wearEvents
  dsimp only
  split <;> split <;> simp [updFlashCh]

/-- A block as its erase leaves it (R202). -/
def Block.erased (b : Block) : Block := { b with erase := b.erase + 1, reads := 0, full := false, collecting := false }

theorem eraseBlock_spec (s : State) (c n : Nat) : findBlock (eraseBlock s c n) c n = (findBlock s c n).map Block.erased ∧
    (eraseBlock s c n).flash.units = s.flash.units ∧ (eraseBlock s c n).flash.journal = s.flash.journal := by
  obtain ⟨blocks, units, journal⟩ := wearEvents_flash (updBlock s c n Block.erased) c
  exact ⟨(findBlock_congr blocks c n).trans (findBlock_updBlock (f := Block.erased) (fun _ => rfl) s c n), units, journal⟩

theorem moveUnits_units (s : State) (wear : Bool) (c n : Nat) : (moveUnits s wear (inBlock c n)).flash.units =
    s.flash.units.map fun u =>
      if u.chan = c ∧ u.block = n ∧ u.moving = false then { u with moving := true, worn := wear } else u := by
  simp [moveUnits, inBlock, State.modFlash, and_assoc]

theorem usedBlocks_full {s : State} {c : Nat} {b : Block} (h : b ∈ usedBlocks s c) : b.full = true := by
  simp only [usedBlocks, List.mem_filter, Bool.and_eq_true] at h
  exact h.2.2

/-! ## The commands -/

section
variable {s : State} {c : Nat}

/-- No background work runs on a channel that has none to do (R203). -/
theorem exec_background_idle (idle : background s c = false) (n : Nat) (weak : List Nat) :
    ∀ i ∈ [Instr.wearLevelling c, .readDisturbRefresh c n, .retentionScrub c n weak, .freeBlockCollection c], exec i s = .next s := by
  simp only [List.mem_cons, List.not_mem_nil, or_false]
  rintro i (rfl | rfl | rfl | rfl)
  · simp [exec, execWearLevelling, idle]
  · simp only [exec, execReadDisturbRefresh, idle]
    split <;> rfl
  · simp only [exec, execRetentionScrub, idle]
    split <;> rfl
  · simp [exec, execFreeBlockCollection, idle]

variable (works : background s c = true)
include works

/-- Erase counts that spread too far move the units of the least worn block that holds any (R202). -/
theorem exec_wearLevelling_moves {b : Block} (wide : 500 < spread (eraseCounts s c))
    (least : leastBlock Block.erase ((usedBlocks s c).filter fun b => 0 < validUnits s c b.num) = some b) :
    exec (.wearLevelling c) s = .next (moveUnits s true (inBlock c b.num)) := by
  simp only [exec, execWearLevelling, works, Bool.true_and, decide_eq_true_eq, least]
  exact congrArg Host.Outcome.next (if_pos wide)

omit works in
theorem exec_wearLevelling_even (even : ¬500 < spread (eraseCounts s c)) : exec (.wearLevelling c) s = .next s := by
  have stays : ¬(background s c && decide (500 < spread (eraseCounts s c))) = true := by simp [even]
  exact congrArg Host.Outcome.next (if_neg stays)

theorem exec_readDisturbRefresh {n : Nat} {b : Block} (hb : findBlock s c n = some b) (full : b.full = true) :
    exec (.readDisturbRefresh c n) s = .next (if disturbLimit s ≤ b.reads then moveUnits s false (inBlock c n) else s) := by
  simp [exec, execReadDisturbRefresh, hb, works, full]

/-- A block of a channel as the scrub has read it (R208). -/
def scrubbed (s : State) (c n : Nat) : State :=
  updBlock s c n fun b => { b with seen := true, reads := b.reads + validUnits s c n }

/-- The weak units that a scrub names by their places in the map. -/
def weakUnits (s : State) (weak : List Nat) : List Unit64 := weak.filterMap fun i => s.flash.units[i]?

theorem exec_retentionScrub {n : Nat} {b : Block} (hb : findBlock s c n = some b) (full : b.full = true) (weak : List Nat) :
    exec (.retentionScrub c n weak) s =
      .next (moveUnits (scrubbed s c n) false fun u => inBlock c n u && (weakUnits s weak).contains u) := by
  simp only [exec, execRetentionScrub, hb, works, full, Bool.and_self, if_true]
  rfl

theorem exec_freeBlockCollection_none (none_ : usedBlocks s c = []) : exec (.freeBlockCollection c) s = .next s := by
  simp [exec, execFreeBlockCollection, works, none_, leastBlock]

/-- The block with the fewest valid units is erased where it has none, and else its units are moved (R202). -/
theorem exec_freeBlockCollection {b : Block} (least : leastBlock (fun b => validUnits s c b.num) (usedBlocks s c) = some b) :
    exec (.freeBlockCollection c) s = .next (if validUnits s c b.num = 0 then eraseBlock s c b.num
      else moveUnits (updBlock s c b.num fun b => { b with collecting := true }) false (inBlock c b.num)) := by
  simp only [exec, execFreeBlockCollection, works, if_true, least]

omit works in
/-- A block that holds no units is neither refreshed nor scrubbed. -/
theorem exec_emptyBlock {n : Nat} (empty : ∀ b, findBlock s c n = some b → b.full = false) (weak : List Nat) :
    exec (.readDisturbRefresh c n) s = .next s ∧ exec (.retentionScrub c n weak) s = .next s := by
  cases hb : findBlock s c n with
  | none => simp [exec, execReadDisturbRefresh, execRetentionScrub, hb]
  | some b => simp [exec, execReadDisturbRefresh, execRetentionScrub, hb, empty b hb]

end

/-- What a scrub leaves: its block read, the weak units of the block on the move, and everything else in place (R208). -/
theorem scrub_spec {s : State} {c n : Nat} {b : Block} (hb : findBlock s c n = some b) (weak : List Nat) :
    let t := moveUnits (scrubbed s c n) false fun u => inBlock c n u && (weakUnits s weak).contains u
    findBlock t c n = some { b with seen := true, reads := b.reads + validUnits s c n } ∧
      (∀ i ∈ weak, ∀ u, s.flash.units[i]? = some u → u.chan = c → u.block = n → (t.flash.units[i]?).map Unit64.moving = some true) ∧
      (∀ u ∈ s.flash.units, u.chan ≠ c ∨ u.block ≠ n → u ∈ t.flash.units) ∧ t.flash.chans = s.flash.chans := by
  intro t
  have units : t.flash.units = s.flash.units.map fun u =>
      if inBlock c n u && (weakUnits s weak).contains u && !u.moving then { u with moving := true, worn := false } else u := rfl
  refine ⟨?_, fun i hi u hu here block => ?_, fun u hu away => ?_, rfl⟩
  · have read := findBlock_updBlock (f := fun b => { b with seen := true, reads := b.reads + validUnits s c n })
      (fun _ => rfl) s c n
    exact read.trans (by rw [hb]; rfl)
  · have named : u ∈ weakUnits s weak := List.mem_filterMap.mpr ⟨i, hi, hu⟩
    have mine : inBlock c n u = true := by simp [inBlock, here, block]
    rw [units, List.getElem?_map, hu, Option.map_some, Option.map_some]
    cases moving : u.moving <;> simp [mine, named, moving]
  · have notMine : inBlock c n u = false := by
      simp only [inBlock, Bool.and_eq_false_iff, beq_eq_false_iff_ne]
      exact away
    rw [units]
    exact List.mem_map.mpr ⟨u, hu, by simp [notMine]⟩

/-- Settles O52: each kind of background work by its own rule on a channel where it may run. -/
theorem backgroundWork : Obligations.BackgroundWork := by
  unfold Obligations.BackgroundWork
  refine ⟨fun s c n weak idle => exec_background_idle idle n weak, fun f bs h => leastBlock_spec f h, fun s c works => ?_⟩
  intro moved
  refine ⟨fun x hx y hy onC onC' apart b least => ?_, fun close => ?_, fun n b hb full => ⟨fun worn => ?_, fun fresh => ?_, fun weak => ?_⟩,
    fun n weak empty => exec_emptyBlock empty weak, fun none_ => ?_, fun b least hb => ⟨fun zero => ?_, fun some_ => ?_⟩⟩
  · have wide : 500 < spread (eraseCounts s c) := (lt_spread_iff ..).mpr
      ⟨_, mem_eraseCounts.mpr ⟨x, hx, onC, rfl⟩, _, mem_eraseCounts.mpr ⟨y, hy, onC', rfl⟩, apart⟩
    exact ⟨_, exec_wearLevelling_moves works wide least, moveUnits_units s true c b.num, rfl⟩
  · refine exec_wearLevelling_even fun wide => ?_
    obtain ⟨p, hp, q, hq, apart⟩ := (lt_spread_iff ..).mp wide
    obtain ⟨x, hx, onC, rfl⟩ := mem_eraseCounts.mp hp
    obtain ⟨y, hy, onC', rfl⟩ := mem_eraseCounts.mp hq
    exact absurd (close x hx y hy onC onC') (by omega)
  · refine ⟨_, exec_readDisturbRefresh works hb full, ?_⟩
    rw [if_pos worn]
    exact moveUnits_units s false c n
  · rw [exec_readDisturbRefresh works hb full, if_neg (Nat.not_le.mpr fresh)]
  · exact ⟨_, exec_retentionScrub works hb full weak, scrub_spec hb weak⟩
  · exact exec_freeBlockCollection_none works none_
  · obtain ⟨block, units, -⟩ := eraseBlock_spec s c b.num
    refine ⟨_, exec_freeBlockCollection works least, ?_⟩
    rw [if_pos zero]
    exact ⟨block.trans (by rw [hb]; rfl), units⟩
  · have block := findBlock_updBlock (f := fun b => { b with collecting := true }) (fun _ => rfl) s c b.num
    refine ⟨_, exec_freeBlockCollection works least, ?_⟩
    rw [if_neg (Nat.pos_iff_ne_zero.mp some_)]
    exact ⟨Eq.trans block (by rw [hb]; rfl), moveUnits_units _ false c b.num⟩

end Sys2Proof.Machine

/-! Programs of mapping units (O51): a drain, the journal record that switches its unit with the others of its records, and a
relocation (R199, R202, R203, R208, R211, R213). -/

namespace Sys2Proof.Machine

/-! ## The map entry of one unit -/

theorem mem_putUnit {u x : Unit64} {us : List Unit64} (h : x ∈ putUnit u us) :
    x = u ∨ (x ∈ us ∧ (x.coll, x.page) ≠ (u.coll, u.page)) := by
  unfold putUnit at h
  dsimp only at h
  split at h
  · obtain ⟨y, hy, rfl⟩ := List.mem_map.mp h
    split
    · exact .inl rfl
    · next other => exact .inr ⟨hy, fun same => other (Unit64.isAt_iff.mpr same)⟩
  · next fresh =>
    rcases List.mem_append.mp h with old | new
    · exact .inr ⟨old, fun same => fresh (List.any_eq_true.mpr ⟨x, old, Unit64.isAt_iff.mpr same⟩)⟩
    · exact .inl (List.mem_singleton.mp new)

theorem mem_putUnit_self (u : Unit64) (us : List Unit64) : u ∈ putUnit u us := by
  unfold putUnit
  dsimp only
  split
  · next present =>
    obtain ⟨x, hx, same⟩ := List.any_eq_true.mp present
    exact List.mem_map.mpr ⟨x, hx, if_pos same⟩
  · exact List.mem_append_right _ (List.mem_singleton_self u)

/-- The map entry of a unit switches, and no other does (R199). -/
theorem find?_putUnit (u : Unit64) (us : List Unit64) (c p : Nat) : (putUnit u us).find? (Unit64.isAt c p) =
    if (c, p) = (u.coll, u.page) then some u else us.find? (Unit64.isAt c p) := by
  have self : Unit64.isAt u.coll u.page u = true := Unit64.isAt_iff.mpr rfl
  by_cases own : (c, p) = (u.coll, u.page)
  · rw [if_pos own]
    obtain ⟨rfl, rfl⟩ := Prod.mk.inj own
    unfold putUnit
    dsimp only
    split
    · next present =>
      obtain ⟨x, hx⟩ := Option.isSome_iff_exists.mp (List.find?_isSome.mpr (List.any_eq_true.mp present))
      refine (find?_map_if_same (q := Unit64.isAt u.coll u.page) (f := fun _ => u) (fun _ _ => self) us).trans ?_
      exact congrArg (Option.map fun _ => u) hx
    · next fresh =>
      have none_ : us.find? (Unit64.isAt u.coll u.page) = none :=
        List.find?_eq_none.mpr fun x hx same => fresh (List.any_eq_true.mpr ⟨x, hx, same⟩)
      rw [List.find?_append, none_, List.find?_cons_of_pos self]
      rfl
  · rw [if_neg own]
    have away : Unit64.isAt c p u = false := Unit64.isAt_eq_false.mpr fun same => own same.symm
    unfold putUnit
    dsimp only
    split
    · refine find?_map_if_other (p := Unit64.isAt u.coll u.page) (f := fun _ => u) (fun x hx => ⟨?_, away⟩) us
      exact Unit64.isAt_eq_false.mpr fun same => own (same.symm.trans (Unit64.isAt_iff.mp hx))
    · rw [List.find?_append, List.find?_cons_of_neg (by simp [away])]
      simp

/-- Switching some units gives a page one of them, where one is of it, and leaves the map entries of the other pages. -/
theorem find?_foldl_putUnit (us xs : List Unit64) (c p : Nat) :
    (us.foldl (fun m u => putUnit u m) xs).find? (Unit64.isAt c p) = xs.find? (Unit64.isAt c p) ∨
      ∃ v ∈ us, (v.coll, v.page) = (c, p) ∧ (us.foldl (fun m u => putUnit u m) xs).find? (Unit64.isAt c p) = some v := by
  induction us generalizing xs with
  | nil => exact .inl rfl
  | cons u us ih =>
    rcases ih (putUnit u xs) with same | ⟨v, hv, at_, found⟩
    · rw [List.foldl_cons, same, find?_putUnit]
      split
      · next own => exact .inr ⟨u, List.mem_cons_self .., own.symm, rfl⟩
      · exact .inl rfl
    · exact .inr ⟨v, List.mem_cons_of_mem _ hv, at_, found⟩

/-! ## The journal record of a drain -/

/-- A unit of a page is among some. -/
def hasUnit (us : List Unit64) (coll page : Nat) : Bool := us.any fun v => v.coll == coll && v.page == page

theorem hasUnit_iff {us : List Unit64} {coll page : Nat} : hasUnit us coll page = true ↔ ∃ v ∈ us, v.coll = coll ∧ v.page = page := by
  simp [hasUnit]

/-- Every record merged into a unit has all its pages among some units, so that they may switch with it (R213). -/
def switchesWith (recs : List WriteRec) (us : List Unit64) (u : Unit64) : Bool :=
  recs.all fun r => r.coll != u.coll || !r.drained.contains u.page || r.pages.all (hasUnit us r.coll)

theorem switchesWith_iff {recs : List WriteRec} {us : List Unit64} {u : Unit64} : switchesWith recs us u = true ↔
    ∀ r ∈ recs, r.coll = u.coll → u.page ∈ r.drained → ∀ p ∈ r.pages, ∃ v ∈ us, v.coll = r.coll ∧ v.page = p := by
  simp only [switchesWith, List.all_eq_true, Bool.or_eq_true, bne_iff_ne, Bool.not_eq_true', List.contains_eq_mem,
    decide_eq_false_iff_not, hasUnit_iff]
  refine forall₂_congr fun r _ => ?_
  constructor
  · rintro ((other | undrained) | all) coll drained
    · exact absurd coll other
    · exact absurd drained undrained
    · exact all
  · intro h
    by_cases coll : r.coll = u.coll
    · by_cases drained : u.page ∈ r.drained
      · exact .inr (h coll drained)
      · exact .inl (.inr drained)
    · exact .inl (.inl coll)

theorem readyUnits_succ (recs : List WriteRec) (n : Nat) (us : List Unit64) :
    readyUnits recs (n + 1) us = readyUnits recs n (us.filter (switchesWith recs us)) := rfl

theorem readyUnits_subset (recs : List WriteRec) (n : Nat) (us : List Unit64) : readyUnits recs n us ⊆ us := by
  induction n generalizing us with
  | zero => exact List.Subset.refl us
  | succ n ih =>
    rw [readyUnits_succ]
    exact List.Subset.trans (ih _) List.filter_sublist.subset

/-- A unit that is ready has passed among those it is taken from. -/
theorem switchesWith_of_ready {recs : List WriteRec} {us : List Unit64} {u : Unit64} (h : u ∈ readyUnits recs us.length us) :
    switchesWith recs us u = true := by
  cases us with
  | nil => exact absurd (readyUnits_subset recs _ _ h) List.not_mem_nil
  | cons x xs =>
    rw [List.length_cons, readyUnits_succ] at h
    exact (List.mem_filter.mp (readyUnits_subset recs _ _ h)).2

/-- The units that the next journal record switches. -/
def readyNow (f : Flash) : List Unit64 := readyUnits f.wbuf f.fresh.length f.fresh

/-- A record all of whose pages are drained and switch now: it leaves the buffer (R211). -/
def leavesWith (us : List Unit64) (r : WriteRec) : Bool := r.pages.all fun p => r.drained.contains p && hasUnit us r.coll p

/-- What a journal record leaves: the units that were ready are in the map, the others stay fresh. -/
theorem journalUnits_spec (s : State) :
    (journalUnits s).flash.units = (readyNow s.flash).foldl (fun m u => putUnit u m) s.flash.units ∧
      (journalUnits s).flash.fresh = s.flash.fresh.filter (fun u => !(readyNow s.flash).contains u) ∧
      (journalUnits s).flash.wbuf ⊆ s.flash.wbuf := by
  unfold journalUnits
  extract_lets f us has out
  split
  · next empty =>
    have none_ : readyNow s.flash = [] := List.isEmpty_iff.mp empty
    rw [none_]
    exact ⟨rfl, by simp, List.Subset.refl _⟩
  · exact ⟨rfl, rfl, List.filter_sublist.subset⟩

theorem journalUnits_ready {s : State} (some_ : readyNow s.flash ≠ []) :
    (journalUnits s).flash.journal = s.flash.journal ++ [(readyNow s.flash).map fun u => (u.coll, u.page, u.chan, u.block)] ∧
      (journalUnits s).flash.wbuf = s.flash.wbuf.filter fun r => !leavesWith (readyNow s.flash) r := by
  unfold journalUnits
  extract_lets f us has out
  have nonempty : ¬us.isEmpty = true := fun empty => some_ (List.isEmpty_iff.mp empty)
  rw [if_neg nonempty]
  exact ⟨rfl, rfl⟩

/-! ## A drain -/

/-- A record as a drain of a page marks it (R211). -/
def drainMark (coll page : Nat) (r : WriteRec) : WriteRec :=
  if r.coll = coll && r.pages.contains page && !r.drained.contains page then { r with drained := r.drained ++ [page] } else r

section
variable (coll page : Nat) (r : WriteRec)

theorem drainMark_coll : (drainMark coll page r).coll = r.coll := by unfold drainMark; split <;> rfl

theorem drainMark_pages : (drainMark coll page r).pages = r.pages := by unfold drainMark; split <;> rfl

theorem mem_drainMark_drained {p : Nat} : p ∈ (drainMark coll page r).drained ↔
    p ∈ r.drained ∨ (p = page ∧ r.coll = coll ∧ page ∈ r.pages) := by
  unfold drainMark
  split
  · next marks =>
    simp only [Bool.and_eq_true, decide_eq_true_eq, List.contains_eq_mem] at marks
    obtain ⟨⟨own, touched⟩, -⟩ := marks
    simp [own, touched]
  · next keeps =>
    simp only [Bool.and_eq_true, decide_eq_true_eq, List.contains_eq_mem, Bool.not_eq_true', decide_eq_false_iff_not] at keeps
    refine ⟨.inl, ?_⟩
    rintro (drained | ⟨rfl, own, touched⟩)
    · exact drained
    · exact Decidable.not_not.mp fun undrained => keeps ⟨⟨own, touched⟩, undrained⟩

end

section
variable (s : State) (coll page chan block : Nat) (rs : List WriteRec)

/-- The module once the rest of a page that is drained has been read: of a lost unit as zeros, with a report (R206). -/
def drainSource : State :=
  if coversPage page rs then s
  else match findUnit s coll page with
    | some u =>
      if u.lost then raiseEvent (zeroFill s coll page rs) 0x0402 (leBytes 2 coll ++ [0, 0] ++ leBytes 4 page)
      else countBlockRead s coll page
    | none => s

/-- The module once the page is programmed, before the journal record. -/
def drainProgrammed : State :=
  (drainSource s coll page rs).modFlash fun f => { f with
    fresh := putUnit (newUnit s coll page chan block) f.fresh
    blocks := useBlock chan block f.blocks
    wbuf := f.wbuf.map (drainMark coll page) }

theorem drainUnit_eq : drainUnit s coll page chan block rs = journalUnits (drainProgrammed s coll page chan block rs) := rfl

/-- A read of a block counts in the block and nowhere else (R202). -/
theorem countBlockRead_flash : ∃ bs, (countBlockRead s coll page).flash = { s.flash with blocks := bs } := by
  unfold countBlockRead
  split
  · exact ⟨_, rfl⟩
  · exact ⟨s.flash.blocks, rfl⟩

theorem drainSource_flash : ∃ bs, (drainSource s coll page rs).flash = { s.flash with blocks := bs } := by
  unfold drainSource
  split
  · exact ⟨s.flash.blocks, rfl⟩
  · split
    · split
      · exact ⟨s.flash.blocks, by simp [zeroFill]⟩
      · exact countBlockRead_flash s coll page
    · exact ⟨s.flash.blocks, rfl⟩

theorem drainProgrammed_flash : ∃ bs, (drainProgrammed s coll page chan block rs).flash =
    { s.flash with fresh := putUnit (newUnit s coll page chan block) s.flash.fresh, blocks := bs,
                   wbuf := s.flash.wbuf.map (drainMark coll page) } := by
  obtain ⟨bs, flash⟩ := drainSource_flash s coll page rs
  refine ⟨useBlock chan block bs, ?_⟩
  show { (drainSource s coll page rs).flash with
    fresh := putUnit (newUnit s coll page chan block) (drainSource s coll page rs).flash.fresh
    blocks := useBlock chan block (drainSource s coll page rs).flash.blocks
    wbuf := (drainSource s coll page rs).flash.wbuf.map (drainMark coll page) } = _
  rw [flash]

end

section
variable {s t : State} {coll page chan block : Nat} {rs : List WriteRec} (ht : t = drainUnit s coll page chan block rs)
include ht

/-- A drain in terms of the units that the journal record switches. -/
theorem drainUnit_spec : ∃ us, us = readyUnits (s.flash.wbuf.map (drainMark coll page))
      (putUnit (newUnit s coll page chan block) s.flash.fresh).length (putUnit (newUnit s coll page chan block) s.flash.fresh) ∧
    t.flash.units = us.foldl (fun m u => putUnit u m) s.flash.units ∧
    t.flash.fresh = (putUnit (newUnit s coll page chan block) s.flash.fresh).filter (fun u => !us.contains u) ∧
    t.flash.wbuf ⊆ s.flash.wbuf.map (drainMark coll page) ∧
    (us ≠ [] → t.flash.journal = s.flash.journal ++ [us.map fun u => (u.coll, u.page, u.chan, u.block)] ∧
      t.flash.wbuf = (s.flash.wbuf.map (drainMark coll page)).filter fun r => !leavesWith us r) := by
  obtain ⟨bs, flash⟩ := drainProgrammed_flash s coll page chan block rs
  obtain ⟨units, fresh, wbuf⟩ := journalUnits_spec (drainProgrammed s coll page chan block rs)
  have ready := journalUnits_ready (s := drainProgrammed s coll page chan block rs)
  rw [← drainUnit_eq, ← ht, flash] at units fresh wbuf ready
  exact ⟨_, rfl, units, fresh, wbuf, ready⟩

/-- The records of the page that stay in the buffer are marked as drained (R211). -/
theorem drainUnit_marks : ∀ r ∈ t.flash.wbuf, r.coll = coll → page ∈ r.pages → page ∈ r.drained := by
  obtain ⟨us, -, -, -, wbuf, -⟩ := drainUnit_spec ht
  intro r hr own touched
  obtain ⟨x, -, rfl⟩ := List.mem_map.mp (wbuf hr)
  rw [drainMark_coll] at own
  rw [drainMark_pages] at touched
  exact (mem_drainMark_drained ..).mpr (.inr ⟨rfl, own, touched⟩)

/-- The unit of another page stands, or is one that was programmed before and switches now (R213). -/
theorem drainUnit_others {c p : Nat} (other : (c, p) ≠ (coll, page)) :
    findUnit t c p = findUnit s c p ∨ ∃ v ∈ s.flash.fresh, v.coll = c ∧ v.page = p ∧ findUnit t c p = some v := by
  obtain ⟨us, hus, units, -⟩ := drainUnit_spec ht
  rw [findUnit_eq, findUnit_eq, units]
  rcases find?_foldl_putUnit us s.flash.units c p with same | ⟨v, hv, at_, found⟩
  · exact .inl same
  · rcases mem_putUnit (readyUnits_subset _ _ _ (hus ▸ hv)) with rfl | ⟨old, -⟩
    · exact absurd at_.symm other
    · obtain ⟨coll_, page_⟩ := Prod.mk.inj at_
      exact .inr ⟨v, old, coll_, page_, found⟩

/-- A unit whose records touch no other page switches at once (R213). -/
theorem drainUnit_alone (none_ : s.flash.fresh = [])
    (alone : ∀ r ∈ s.flash.wbuf, r.coll = coll → page ∈ r.pages ∨ page ∈ r.drained → r.pages = [page]) :
    findUnit t coll page = some (newUnit s coll page chan block) ∧ t.flash.fresh = [] ∧
      t.flash.journal = s.flash.journal ++ [[(coll, page, chan, block)]] ∧ ∀ r ∈ t.flash.wbuf, r.coll = coll → page ∉ r.pages := by
  obtain ⟨us, hus, units, fresh, -, ready⟩ := drainUnit_spec ht
  have programmed : putUnit (newUnit s coll page chan block) s.flash.fresh = [newUnit s coll page chan block] := by
    rw [none_]
    rfl
  have only (x : WriteRec) (hx : x ∈ s.flash.wbuf) (own : x.coll = coll) (drained : page ∈ (drainMark coll page x).drained) :
      x.pages = [page] := by
    rcases (mem_drainMark_drained ..).mp drained with before | ⟨-, -, touched⟩
    · exact alone x hx own (.inr before)
    · exact alone x hx own (.inl touched)
  have passes : switchesWith (s.flash.wbuf.map (drainMark coll page)) [newUnit s coll page chan block]
      (newUnit s coll page chan block) = true := by
    refine switchesWith_iff.mpr fun r hr own drained p hp => ?_
    obtain ⟨x, hx, rfl⟩ := List.mem_map.mp hr
    rw [drainMark_coll] at own ⊢
    rw [drainMark_pages, only x hx own drained] at hp
    exact ⟨_, List.mem_singleton_self _, own.symm, (List.mem_singleton.mp hp).symm⟩
  have switched : us = [newUnit s coll page chan block] := by
    rw [hus, programmed, List.length_singleton, readyUnits_succ, List.filter_cons_of_pos passes]
    rfl
  subst switched
  obtain ⟨journal, wbuf⟩ := ready (List.cons_ne_nil _ _)
  refine ⟨?_, ?_, journal, fun r hr own touched => ?_⟩
  · rw [findUnit_eq, units]
    exact (find?_putUnit ..).trans (if_pos rfl)
  · rw [fresh, programmed]
    simp
  · rw [wbuf] at hr
    obtain ⟨marked, stays⟩ := List.mem_filter.mp hr
    obtain ⟨x, hx, rfl⟩ := List.mem_map.mp marked
    rw [drainMark_coll] at own
    rw [drainMark_pages] at touched
    have drained : page ∈ (drainMark coll page x).drained := (mem_drainMark_drained ..).mpr (.inr ⟨rfl, own, touched⟩)
    have has : hasUnit [newUnit s coll page chan block] coll page = true :=
      hasUnit_iff.mpr ⟨_, List.mem_singleton_self _, rfl, rfl⟩
    have leaves : leavesWith [newUnit s coll page chan block] (drainMark coll page x) = true := by
      simp [leavesWith, drainMark_coll, drainMark_pages, only x hx own drained, own, has, drained]
    rw [leaves] at stays
    cases stays

/-- A unit does not switch before the other pages that its records touch are programmed (R213). -/
theorem drainUnit_waits {r : WriteRec} (hr : r ∈ s.flash.wbuf) (own : r.coll = coll) (touched : page ∈ r.pages) {p : Nat}
    (hp : p ∈ r.pages) (another : p ≠ page) (missing : ∀ v ∈ s.flash.fresh, v.coll = coll → v.page ≠ p) :
    findUnit t coll page = findUnit s coll page ∧ newUnit s coll page chan block ∈ t.flash.fresh := by
  obtain ⟨us, hus, units, fresh, -⟩ := drainUnit_spec ht
  have waits (v : Unit64) (at_ : (v.coll, v.page) = (coll, page)) : v ∉ us := by
    intro hv
    obtain ⟨coll_, page_⟩ := Prod.mk.inj at_
    have drained : page ∈ (drainMark coll page r).drained := (mem_drainMark_drained ..).mpr (.inr ⟨rfl, own, touched⟩)
    obtain ⟨x, hx, here, there⟩ := switchesWith_iff.mp (switchesWith_of_ready (hus ▸ hv)) _ (List.mem_map_of_mem hr)
      ((drainMark_coll ..).trans (own.trans coll_.symm)) (by rwa [page_]) p (drainMark_pages coll page r ▸ hp)
    rw [drainMark_coll, own] at here
    rcases mem_putUnit hx with rfl | ⟨old, -⟩
    · exact another there.symm
    · exact missing x old here there
  constructor
  · rw [findUnit_eq, findUnit_eq, units]
    rcases find?_foldl_putUnit us s.flash.units coll page with same | ⟨v, hv, at_, -⟩
    · exact same
    · exact absurd hv (waits v at_)
  · rw [fresh]
    refine List.mem_filter.mpr ⟨mem_putUnit_self .., ?_⟩
    simpa using waits (newUnit s coll page chan block) rfl

end

section
variable {s : State} {coll page chan block : Nat}

theorem exec_unitDrain_ignored
    (waits : pendingRecs s coll page = [] ∨ channelFree s chan = false ∨ mayProgram s coll page chan block false = false) :
    exec (.unitDrain coll page chan block) s = .next s := by
  rcases waits with none_ | busy | barred
  · simp [exec, execUnitDrain, none_]
  · simp [exec, execUnitDrain, busy]
  · simp [exec, execUnitDrain, barred]

theorem exec_unitDrain (runs : s.power.phase = .up ∨ s.power.flushing = true) (pending : pendingRecs s coll page ≠ [])
    (free : channelFree s chan = true) (may : mayProgram s coll page chan block false = true) :
    exec (.unitDrain coll page chan block) s = .next (drainUnit s coll page chan block (pendingRecs s coll page)) := by
  have on : (isUp s || s.power.flushing) = true := by
    rcases runs with up | flushing
    · simp [isUp, up]
    · simp [flushing]
  simp [exec, execUnitDrain, on, List.isEmpty_eq_false_iff.mpr pending, free, may]

end

/-! ## A relocation -/

/-- A program takes its block, and leaves the others as they were (R202). -/
theorem find?_useBlock (chan num : Nat) (bs : List Block) {c n : Nat} (other : (c, n) ≠ (chan, num)) :
    (useBlock chan num bs).find? (fun b => b.chan == c && b.num == n) = bs.find? fun b => b.chan == c && b.num == n := by
  have away {b : Block} (h : (b.chan == chan && b.num == num) = true) : (b.chan == c && b.num == n) = false := by
    simp only [Bool.and_eq_true, beq_iff_eq] at h
    rw [← Bool.not_eq_true, Bool.and_eq_true, beq_iff_eq, beq_iff_eq]
    exact fun own => other (Prod.ext (own.1.symm.trans h.1) (own.2.symm.trans h.2))
  unfold useBlock
  extract_lets same
  split
  · refine find?_map_if_other (p := fun b => same b && !b.full) (fun b hb => ?_) bs
    have here : same b = true := (Bool.and_eq_true_iff.mp hb).1
    exact ⟨away here, away here⟩
  · rw [List.find?_append, List.find?_cons_of_neg]
    · simp
    · rw [away (by simp)]
      exact Bool.false_ne_true

section
variable {s : State} {c n : Nat}

/-- A read of a unit counts in its block, and changes nothing else of any (R202). -/
theorem findBlock_countBlockRead {b : Block} (coll page : Nat) (hb : findBlock s c n = some b) :
    ∃ k, findBlock (countBlockRead s coll page) c n = some { b with reads := k } := by
  unfold countBlockRead
  split
  · next u _ =>
    by_cases own : (c, n) = (u.chan, u.block)
    · obtain ⟨rfl, rfl⟩ := Prod.mk.inj own
      refine ⟨b.reads + 1, ?_⟩
      refine (findBlock_updBlock (f := fun b => { b with reads := b.reads + 1 }) (fun _ => rfl) s u.chan u.block).trans ?_
      rw [hb, Option.map_some]
    · refine ⟨b.reads, Eq.trans ?_ hb⟩
      refine find?_map_if_other (p := fun b : Block => b.chan == u.chan && b.num == u.block)
        (q := fun b : Block => b.chan == c && b.num == n) (fun x hx => ?_) s.flash.blocks
      simp only [Bool.and_eq_true, beq_iff_eq] at hx
      have away : (x.chan == c && x.num == n) = false := by
        rw [← Bool.not_eq_true, Bool.and_eq_true, beq_iff_eq, beq_iff_eq]
        exact fun same => own (Prod.ext (same.1.symm.trans hx.1) (same.2.symm.trans hx.2))
      exact ⟨away, away⟩
  · exact ⟨b.reads, hb⟩

end

theorem newUnit_countBlockRead (s : State) (c p coll page chan block : Nat) :
    newUnit (countBlockRead s c p) coll page chan block = newUnit s coll page chan block := by
  obtain ⟨bs, flash⟩ := countBlockRead_flash s c p
  have stripe := stripePage_congr (countBlockRead_keeps s c p).2 coll page
  have channels := bypassed_congr (t := countBlockRead s c p) (s := s) (by rw [flash])
  simp only [newUnit, thinOf, stripe, channels]

/-- A unit as its relocation programs it: read at its old place and switched to the new one (R203). -/
def relocated (s : State) (coll page chan block : Nat) : State := programUnit (countBlockRead s coll page) coll page chan block

theorem relocated_spec (s : State) (coll page chan block : Nat) :
    (relocated s coll page chan block).flash.units = putUnit (newUnit s coll page chan block) s.flash.units ∧
      (relocated s coll page chan block).flash.journal = s.flash.journal ++ [[(coll, page, chan, block)]] ∧
      (relocated s coll page chan block).flash.blocks = useBlock chan block (countBlockRead s coll page).flash.blocks := by
  obtain ⟨bs, flash⟩ := countBlockRead_flash s coll page
  refine ⟨?_, ?_, rfl⟩
  · show putUnit (newUnit (countBlockRead s coll page) coll page chan block) (countBlockRead s coll page).flash.units = _
    rw [newUnit_countBlockRead, flash]
  · show (countBlockRead s coll page).flash.journal ++ [[(coll, page, chan, block)]] = _
    rw [flash]

/-- A relocation that completes, with the erase of a collected block that it leaves empty (R202, R203). -/
def relocationDone (s : State) (u : Unit64) (chan block : Nat) : State :=
  let s1 := relocated s u.coll u.page chan block
  match findBlock s1 u.chan u.block with
  | some b => if b.collecting && validUnits s1 u.chan u.block = 0 then eraseBlock s1 u.chan u.block else s1
  | none => s1

/-- The erase of a block that is left empty touches neither the map nor the journal. -/
theorem relocationDone_map (s : State) (u : Unit64) (chan block : Nat) :
    (relocationDone s u chan block).flash.units = (relocated s u.coll u.page chan block).flash.units ∧
      (relocationDone s u chan block).flash.journal = (relocated s u.coll u.page chan block).flash.journal := by
  obtain ⟨-, units, journal⟩ := eraseBlock_spec (relocated s u.coll u.page chan block) u.chan u.block
  unfold relocationDone
  dsimp only
  split
  · split
    · exact ⟨units, journal⟩
    · exact ⟨rfl, rfl⟩
  · exact ⟨rfl, rfl⟩

theorem findUnit_relocationDone (s : State) (u : Unit64) (chan block c p : Nat) : findUnit (relocationDone s u chan block) c p =
    if (c, p) = (u.coll, u.page) then some (newUnit s u.coll u.page chan block) else findUnit s c p := by
  obtain ⟨units, -, -⟩ := relocated_spec s u.coll u.page chan block
  obtain ⟨kept, -⟩ := relocationDone_map s u chan block
  rw [findUnit_eq, kept, units]
  exact find?_putUnit (newUnit s u.coll u.page chan block) s.flash.units c p

section
variable {s : State} {u : Unit64} {chan block : Nat} (moves : (u.chan, u.block) ≠ (chan, block))
include moves

/-- The unit that was the last of its block leaves none behind. -/
theorem validUnits_relocated (last : ∀ x ∈ s.flash.units, x.chan = u.chan → x.block = u.block → (x.coll, x.page) = (u.coll, u.page)) :
    validUnits (relocated s u.coll u.page chan block) u.chan u.block = 0 := by
  obtain ⟨units, -, -⟩ := relocated_spec s u.coll u.page chan block
  rw [validUnits, units, List.countP_eq_zero]
  intro x hx here
  simp only [inBlock, Bool.and_eq_true, beq_iff_eq] at here
  obtain ⟨chan_, block_⟩ := here
  rcases mem_putUnit hx with rfl | ⟨old, other⟩
  · exact moves (Prod.ext chan_.symm block_.symm)
  · exact other (last x old chan_ block_)

/-- A collected block that a relocation leaves empty is erased (R202). -/
theorem findBlock_relocationDone {b : Block} (hb : findBlock s u.chan u.block = some b) (collecting : b.collecting = true)
    (last : ∀ x ∈ s.flash.units, x.chan = u.chan → x.block = u.block → (x.coll, x.page) = (u.coll, u.page)) :
    (findBlock (relocationDone s u chan block) u.chan u.block).map (fun b => (b.erase, b.full)) = some (b.erase + 1, false) := by
  obtain ⟨k, counted⟩ := findBlock_countBlockRead u.coll u.page hb
  obtain ⟨-, -, blocks⟩ := relocated_spec s u.coll u.page chan block
  have stands : findBlock (relocated s u.coll u.page chan block) u.chan u.block = some { b with reads := k } := by
    refine Eq.trans ?_ counted
    unfold findBlock
    rw [blocks]
    exact find?_useBlock chan block _ moves
  obtain ⟨erased, -, -⟩ := eraseBlock_spec (relocated s u.coll u.page chan block) u.chan u.block
  have done : relocationDone s u chan block = eraseBlock (relocated s u.coll u.page chan block) u.chan u.block := by
    simp [relocationDone, stands, collecting, validUnits_relocated moves last]
  rw [done, erased, stands]
  rfl

end

section
variable {s : State} {i : Nat} {u : Unit64}

/-- A relocation may complete: of a unit that moves, on channels that are neither paused nor behind a query read, to a place that
may be programmed (R203, log entry 68). -/
def mayRelocate (s : State) (u : Unit64) (chan block : Nat) : Bool :=
  mayMove s u && !relocPaused s u.chan && !relocPaused s chan && channelFree s u.chan && channelFree s chan &&
    mayProgram s u.coll u.page chan block u.worn

theorem exec_relocationComplete (hu : s.flash.units[i]? = some u) (chan block : Nat) :
    exec (.relocationComplete i chan block) s =
      .next (if isUp s && mayRelocate s u chan block then relocationDone s u chan block else s) := by
  have guard : (isUp s && mayMove s u && !relocPaused s u.chan && !relocPaused s chan && channelFree s u.chan && channelFree s chan &&
      mayProgram s u.coll u.page chan block u.worn) = (isUp s && mayRelocate s u chan block) := by
    simp only [mayRelocate, Bool.and_assoc]
  simp only [exec, execRelocationComplete, hu, guard]
  rfl

end

/-- Settles O51: a drain by the units that its journal record switches, a relocation by the one that it moves. -/
theorem unitsAreProgrammed : Obligations.UnitsAreProgrammed := by
  unfold Obligations.UnitsAreProgrammed
  refine ⟨fun s coll page chan block => ⟨exec_unitDrain_ignored, fun runs pending free may =>
    ⟨_, exec_unitDrain runs pending free may, drainUnit_marks rfl, fun c p other => drainUnit_others rfl other,
      fun none_ alone => drainUnit_alone rfl none_ alone, ?_⟩⟩, fun s i chan block u hu => ?_⟩
  · rintro ⟨r, hr, own, touched, p, hp, another, missing⟩
    exact drainUnit_waits rfl hr own touched hp another missing
  · intro may
    have run := exec_relocationComplete hu chan block
    refine ⟨fun no => ?_, fun up yes => ⟨_, run, ?_⟩⟩
    · rw [run, show mayRelocate s u chan block = false from no, Bool.and_false, if_neg Bool.false_ne_true]
    · have goes : (isUp s && mayRelocate s u chan block) = true := by
        rw [show mayRelocate s u chan block = true from yes]
        simp [isUp, up]
      obtain ⟨-, journal, -⟩ := relocated_spec s u.coll u.page chan block
      obtain ⟨-, kept⟩ := relocationDone_map s u chan block
      rw [if_pos goes]
      exact ⟨(findUnit_relocationDone ..).trans (if_pos rfl), kept.trans journal,
        fun c p other => (findUnit_relocationDone ..).trans (if_neg other),
        fun moves b hb collecting last => findBlock_relocationDone moves hb collecting last⟩

end Sys2Proof.Machine

/-! Pieces (O37): how a request is cut at pages and slots (R224). -/

namespace Sys2Proof.Machine

/-- The end of a request's cut: a piece takes no more than its request, its slot and its page hold (R224). -/
theorem mem_cutN {slot : Nat} (wide : 0 < slot) {fuel off len : Nat} {p : Nat × Nat} (hp : p ∈ cutN fuel slot off len) :
    0 < p.2 ∧ p.2 ≤ slot ∧ p.1 / pageSize = (p.1 + p.2 - 1) / pageSize := by
  induction fuel generalizing off len with
  | zero => simp [cutN] at hp
  | succ fuel ih =>
    unfold cutN at hp
    split at hp
    · simp at hp
    · rcases List.mem_cons.mp hp with rfl | later
      · unfold pageSize
        refine ⟨?_, ?_, ?_⟩ <;> dsimp only <;> omega
      · exact ih later

/-- Each piece begins where the ones before it end (R224). -/
theorem cutN_offset {slot fuel off len i : Nat} {p : Nat × Nat} (hp : (cutN fuel slot off len)[i]? = some p) :
    p.1 = off + (((cutN fuel slot off len).take i).map Prod.snd).sum := by
  induction fuel generalizing off len i with
  | zero => simp [cutN] at hp
  | succ fuel ih =>
    unfold cutN at hp ⊢
    split at hp
    · simp at hp
    · next more =>
      rw [if_neg more]
      cases i with
      | zero =>
        rw [← Option.some.inj hp]
        rfl
      | succ i => simp [ih hp, Nat.add_assoc]

/-- Cuts that a request may need: one for each slot it fills, one for its end, and one to the first page boundary where it does
not begin at a multiple of the slot size (R222, R224). -/
def cutsFor (slot off len : Nat) : Nat := len / slot + if off % slot = 0 then 1 else 2

theorem cutsFor_pos (slot off len : Nat) : 0 < cutsFor slot off len := by
  unfold cutsFor
  split <;> exact Nat.succ_pos _

/-- A cut that leaves bytes leaves a request that needs fewer cuts: a slot is passed, or a page ends and the rest is aligned. -/
theorem cutsFor_rest {slot : Nat} (size : slot ∈ [2048, 16384, 65536]) {off len n : Nat}
    (cut : n = min (min len slot) (pageSize - off % pageSize)) (rest : n < len) :
    cutsFor slot (off + n) (len - n) + 1 ≤ cutsFor slot off len := by
  unfold cutsFor
  unfold pageSize at cut
  simp only [List.mem_cons, List.not_mem_nil, or_false] at size
  rcases size with rfl | rfl | rfl <;> split <;> split <;> omega

/-- With the cuts it needs, a request is cut to its end (R224). -/
theorem cutN_sum {slot : Nat} (size : slot ∈ [2048, 16384, 65536]) {fuel off len : Nat} (enough : cutsFor slot off len ≤ fuel) :
    ((cutN fuel slot off len).map Prod.snd).sum = len := by
  induction fuel generalizing off len with
  | zero => exact absurd (cutsFor_pos slot off len) enough.not_gt
  | succ fuel ih =>
    unfold cutN
    split
    · next done => simp [done]
    · generalize cut : min (min len slot) (pageSize - off % pageSize) = n
      have within : n ≤ len := by omega
      simp only [List.map_cons, List.sum_cons]
      rcases Nat.lt_or_eq_of_le within with rest | rfl
      · have := cutsFor_rest size cut.symm rest
        rw [ih (by omega)]
        omega
      · cases fuel <;> simp [cutN]

theorem piecesOf_lens (r : Stream) (mode off len : Nat) :
    (piecesOf r mode off len).map Piece.len = (cutN (len / 2048 + 3) r.slotBytes off len).map Prod.snd := by
  rw [piecesOf, List.map_map]
  rfl

theorem piecesOf_getElem? (r : Stream) (mode off len i : Nat) : (piecesOf r mode off len)[i]? =
    (cutN (len / 2048 + 3) r.slotBytes off len)[i]?.map fun q => ⟨q.1, q.2, mode, r.bead⟩ := by
  rw [piecesOf, List.getElem?_map]

/-- Settles O37: each clause by what one cut does, the length by the cuts that the fuel allows. -/
theorem piecesStayInPages : Obligations.PiecesStayInPages := by
  unfold Obligations.PiecesStayInPages
  intro r mode off len size ps
  have fuel : cutsFor r.slotBytes off len ≤ len / 2048 + 3 := by
    unfold cutsFor
    simp only [List.mem_cons, List.not_mem_nil, or_false] at size
    rcases size with h | h | h <;> rw [h] <;> split <;> omega
  refine ⟨fun p hp => ?_, ?_, fun i hi => ?_⟩
  · obtain ⟨q, hq, rfl⟩ := List.mem_map.mp hp
    have wide : 0 < r.slotBytes := by
      simp only [List.mem_cons, List.not_mem_nil, or_false] at size
      omega
    obtain ⟨some_, fits, paged⟩ := mem_cutN wide hq
    exact ⟨some_, fits, paged, rfl, rfl⟩
  · rw [← List.sum_eq_foldl, piecesOf_lens, cutN_sum size fuel]
  · obtain ⟨q, hq, cut⟩ := Option.map_eq_some_iff.mp ((piecesOf_getElem? ..).symm.trans (List.getElem?_eq_getElem hi))
    rw [List.getD_eq_getElem _ _ hi, ← cut, ← List.sum_eq_foldl, List.map_take, piecesOf_lens, ← List.map_take]
    exact cutN_offset hq

end Sys2Proof.Machine

/-! Stream instructions that change their stream's registers (O35): one rule for an instruction whose word is next, and ENDL by
the innermost loop (R222, R223). -/

namespace Sys2Proof.Machine

/-! ## The word a stream executes next -/

theorem getStream_sid {s : State} {sid : Nat} {r : Stream} (hr : getStream s sid = some r) : r.sid = sid := by
  simpa using List.find?_some hr

/-- No instruction acts on a stream that executes no word now. -/
theorem onInsn_idle {s : State} {sid : Nat} (idle : (getStream s sid).bind (nextWord s) = none) (p : Nat → Bool)
    (f : Stream → State) : onInsn s sid p f = s := by
  unfold onInsn
  cases hr : getStream s sid with
  | none => rfl
  | some r => simp [show nextWord s r = none by simpa [hr] using idle]

section
variable {s : State} {sid w : Nat} {r : Stream} (hr : getStream s sid = some r) (hw : nextWord s r = some w)
include hr

theorem putStream_eq {r' : Stream} (same : r'.sid = r.sid) : putStream s r' = updStream s sid fun _ => r' := by
  rw [putStream, same, getStream_sid hr]

include hw

/-- An instruction acts on its stream where its word is next (R223). -/
theorem exec_insn {i : Instr} {p : Nat → Bool} {f : Stream → State} (form : exec i s = .next (onInsn s sid p f))
    (word : p w = true) : exec i s = .next (f r) := by
  rw [form]
  simp [onInsn, hr, hw, word]

/-- What an instruction makes of its stream's registers. -/
theorem exec_insn_puts {i : Instr} {p : Nat → Bool} {f : Stream → State} {r' : Stream}
    (form : exec i s = .next (onInsn s sid p f)) (puts : f r = putStream s r') (word : p w = true) (same : r'.sid = r.sid) :
    exec i s = .next (updStream s sid fun _ => r') :=
  (exec_insn hr hw form word).trans (congrArg Host.Outcome.next (puts.trans (putStream_eq hr same)))

variable {x : BitVec 3} (op : insnOp w = 5) (hx : insnX w = x.toNat)
include op hx

/-- ENDL of the innermost loop goes back while the counter is above zero, and else closes it (R223). -/
theorem exec_endl_innermost {back : Nat} {ls : List (Nat × Nat)} (loops : r.loops = (x.toNat, back) :: ls) :
    let v := r.c.getD x.toNat 0 - 1
    exec (.endl sid x) s = .next (updStream s sid fun _ =>
      { r with c := updAt r.c x.toNat (fun _ => v)
               loops := if v = 0 then ls else r.loops
               pc := if v = 0 then r.pc + 1 else back }) := by
  intro v
  refine (exec_insn hr hw rfl (by simp [op, hx])).trans (congrArg Host.Outcome.next ?_)
  have found : (r.loops.find? fun l => l.1 == x.toNat) = some (x.toNat, back) := by simp [loops]
  refine Eq.trans ?_ (putStream_eq hr (by rfl))
  simp only [found]
  by_cases last : v = 0
  · rw [if_pos last, if_pos last, if_pos last, loops]
    rfl
  · rw [if_neg last, if_neg last, if_neg last]

theorem exec_endl_unmatched (loops : r.loops = []) : exec (.endl sid x) s = .next (updStream s sid fun _ =>
    { r with c := updAt r.c x.toNat (fun _ => r.c.getD x.toNat 0 - 1), pc := r.pc + 1 }) := by
  refine (exec_insn hr hw rfl (by simp [op, hx])).trans (congrArg Host.Outcome.next ?_)
  simp only [show (r.loops.find? fun l => l.1 == x.toNat) = none by rw [loops]; rfl]
  exact putStream_eq hr rfl

end

theorem bitsOf_tag (imm : BitVec 48) : bitsOf imm.toNat 23 16 = (imm.extractLsb' 16 8).toNat := by
  simp [bitsOf, Nat.shiftRight_eq_div_pow]

/-- Settles O35: the rule of each instruction on the stream whose next word it is. -/
theorem streamRegisters : Obligations.StreamRegisters := by
  unfold Obligations.StreamRegisters
  refine ⟨fun s sid x y f imm idle i hi => ?_, fun s sid w r hr hw => ?_⟩
  · simp only [List.mem_cons, List.not_mem_nil, or_false] at hi
    rcases hi with rfl | rfl | rfl | rfl | rfl | rfl | rfl | rfl | rfl | rfl | rfl | rfl | rfl | rfl <;>
      exact congrArg Host.Outcome.next (onInsn_idle idle _ _)
  · refine ⟨fun op => ?_, fun x imm hx himm => ⟨fun op => ?_, fun op => ?_, fun op => ?_⟩,
      fun x y imm op hx hy himm => ?_, fun x op hx => ⟨fun back ls loops => exec_endl_innermost hr hw op hx loops,
        exec_endl_unmatched hr hw op hx⟩, fun y imm op hy himm => ?_, fun f imm op hf himm => ?_, fun imm op himm => ?_⟩
    · exact exec_insn_puts hr hw rfl rfl (by simp [op]) rfl
    · exact exec_insn_puts hr hw rfl rfl (by simp [op, hx, himm]) rfl
    · exact exec_insn_puts hr hw rfl rfl (by simp [op, hx, himm]) rfl
    · exact exec_insn_puts hr hw rfl rfl (by simp [op, hx, himm]) rfl
    · exact exec_insn_puts hr hw rfl rfl (by simp [op, hx, hy, himm]) rfl
    · exact exec_insn_puts hr hw rfl rfl (by simp [op, hy, himm]) rfl
    · rw [← bitsOf_tag]
      exact exec_insn_puts hr hw rfl rfl (by simp [op, hf, himm]) rfl
    · exact exec_insn_puts hr hw rfl rfl (by simp [op, himm]) rfl

end Sys2Proof.Machine

/-! Stream instructions that read, gather, write, add and halt (O36): what they read from the input ring and write to the task's
pages, and what a stream issues and leaves behind (R223 to R229). -/

namespace Sys2Proof.Machine

/-! ## A stream that is replaced, and one that is over -/

section
variable {s : State} {sid : Nat} {r r' : Stream}

theorem streams_updStream_const {x : Stream} (hx : x ∈ (updStream s sid fun _ => r').streams.streams) (named : x.sid = sid) :
    x = r' := by
  obtain ⟨y, -, rfl⟩ := List.mem_map.mp hx
  split
  · rfl
  · next other => exact absurd named (by rwa [if_neg other])

theorem getStream_updStream_const (same : r'.sid = sid) :
    getStream (updStream s sid fun _ => r') sid = (getStream s sid).map fun _ => r' := by
  have found := find?_map_if_same (q := fun x => x.sid == sid) (f := fun _ => r') (by simp [same]) s.streams.streams
  simp only [beq_iff_eq] at found
  exact found

/-- Of the streams with an id, all of them one, those that are over go (R227). -/
theorem getStream_reap (hr : getStream s sid = some r) (only : ∀ x ∈ s.streams.streams, x.sid = sid → x = r) :
    getStream (reap s) sid = if r.isOver then none else some r := by
  have kept {x : Stream} (hx : getStream (reap s) sid = some x) : x = r ∧ r.isOver = false := by
    obtain ⟨member, live⟩ := List.mem_filter.mp (List.mem_of_find?_eq_some hx)
    obtain rfl := only x member (getStream_sid hx)
    exact ⟨rfl, by simpa using live⟩
  cases hx : getStream (reap s) sid with
  | some x =>
    obtain ⟨rfl, live⟩ := kept hx
    simp [live]
  | none =>
    have gone := List.find?_eq_none.mp hx r
    have member : r ∈ s.streams.streams := List.mem_of_find?_eq_some hr
    cases live : r.isOver
    · exact absurd (beq_iff_eq.mpr (getStream_sid hr)) (gone (List.mem_filter.mpr ⟨member, by simp [live]⟩))
    · rfl

theorem issueWaiting_idle (idle : ∀ r, getStream s sid = some r → r.waiting = []) : issueWaiting s sid = s := by
  unfold issueWaiting
  cases hr : getStream s sid with
  | none => rfl
  | some r => simp [idle r hr, issueN]

/-- A stream with no piece left issues none. -/
theorem issueWaiting_updStream_const (idle : r'.waiting = []) :
    issueWaiting (updStream s sid fun _ => r') sid = updStream s sid fun _ => r' := by
  refine issueWaiting_idle fun x hx => ?_
  rw [streams_updStream_const (List.mem_of_find?_eq_some hx) (getStream_sid hx), idle]

end

/-! ## Input rings -/

theorem passVoidN_sid (n : Nat) (r : Stream) : (passVoidN n r).sid = r.sid := by
  induction n generalizing r with
  | zero => rfl
  | succ n ih =>
    unfold passVoidN
    dsimp only
    repeat' split
    · rw [ih]
    all_goals rfl

theorem advanceTail_sid (r : Stream) : (advanceTail r).sid = r.sid := passVoidN_sid ..

theorem putStream_advanceTail (s : State) (r : Stream) :
    putStream s (advanceTail r) = updStream s r.sid fun _ => advanceTail r := by
  rw [putStream, advanceTail_sid]

/-! ## Bytes to the scratch pages of a task -/

/-- Bytes within a page go to the place of their offset (R181, R229). -/
theorem streamWrite_page {s : State} {r : Stream} {off : Nat} {bs : List Byte} (scratch : r.coll = none)
    (within : off % 65536 + bs.length ≤ 65536) : streamWrite s r off (.bytes bs) =
      scratchWrite s r.tid (scratchPlace s r.tid off).1 (scratchPlace s r.tid off).2 bs := by
  have room : bs.length ≤ pageSize - off % pageSize := by
    unfold pageSize
    omega
  simp [streamWrite, scratch, scratchCuts, List.take_of_length_le room, List.drop_eq_nil_of_le room]

section
variable {s : State} {tid ch addr : Nat} {bs : List Byte}

theorem scratchWrite_waits (retrains : (getChan s ch).state = 1) : scratchWrite s tid ch addr bs =
    updChan s ch fun c => { c with queued := c.queued ++ [.write addr bs (some tid)] } := if_pos retrains

/-- A write at once puts its bytes at its address and moves no other (R190). -/
theorem scratchWrite_stores (wf : s.hbm.scratch.wf = true) (trained : (getChan s ch).state ≠ 1) :
    (scratchWrite s tid ch addr bs).hbm.scratch.readBytes (scratchAddr ch addr) bs.length = bs ∧
      ∀ y, y < scratchAddr ch addr ∨ scratchAddr ch addr + bs.length ≤ y →
        (scratchWrite s tid ch addr bs).hbm.scratch.read y = s.hbm.scratch.read y := by
  have stored : (scratchWrite s tid ch addr bs).hbm.scratch = s.hbm.scratch.writeBytes (scratchAddr ch addr) bs := by
    rw [scratchWrite, if_neg trained]
    rfl
  rw [stored]
  exact ⟨Memory.readBytes_writeBytes wf _ _, fun y out => Memory.read_writeBytes_other wf out⟩

end

theorem scratch_wf_of_memOk {s : State} (h : s.memOk = true) : s.hbm.scratch.wf = true := by
  simp only [State.memOk, Bool.and_eq_true] at h
  exact h.2

/-! ## A slot of the input ring -/

/-- What WRITE and MSAOP share: the stream waits for a FULL slot at the tail of its input ring, and stops where its offset is not
writable (R223, R229). -/
def onInput (s : State) (r : Stream) (x : Nat) (f : Stream → Slot → State) : State :=
  match inputOf s r with
  | none => s
  | some i => match tailFull i with
    | none => s
    | some sl => if !writable s r (regA r x).toNat sl.len then streamFault s r.sid else f i sl

theorem onInput_waits {s : State} {r : Stream} (empty : (inputOf s r).bind tailFull = none) (x : Nat)
    (f : Stream → Slot → State) : onInput s r x f = s := by
  unfold onInput
  cases input : inputOf s r with
  | none => rfl
  | some i => simp [show tailFull i = none by simpa [input] using empty]

section
variable {s : State} {r i : Stream} {sl : Slot} (input : inputOf s r = some i) (full : tailFull i = some sl) {x : Nat}
variable (f : Stream → Slot → State)
include input full

theorem onInput_takes (may : writable s r (regA r x).toNat sl.len = true) : onInput s r x f = f i sl := by
  simp [onInput, input, full, may]

theorem onInput_faults (unbacked : writable s r (regA r x).toNat sl.len = false) : onInput s r x f = streamFault s r.sid := by
  simp [onInput, input, full, unbacked]

end

/-- The tail of an input ring passes its slot, and the stream that took it becomes another; then every stream issues what it may
(R226). -/
def inputPassed (s : State) (i r' : Stream) : State :=
  issueAll (updStream (updStream s i.sid fun _ => advanceTail i) r'.sid fun _ => r')

/-- What a WRITE makes of the slot it takes (R223). -/
def writeSlot (s : State) (r : Stream) (x : Nat) (i : Stream) (sl : Slot) : State :=
  inputPassed (streamWrite s r (regA r x).toNat sl.data) i { setA r x (regA r x + regS r x) with pc := r.pc + 1 }

/-- What an MSAOP makes of the slot it takes: its elements go to the adders, and the slot passes unless a channel that is out
discards one (R223, R229). -/
def addSlot (s : State) (r : Stream) (x : Nat) (q : Nat × MsaFmt) (i : Stream) (sl : Slot) : State :=
  let t := match sl.data with | .bytes bs => msaBurst r q.1 q.2 (regA r x).toNat bs s | _ => s
  let lost := match sl.data with | .bytes bs => msaLost s r q.2 (regA r x).toNat bs | _ => false
  if lost then streamFault t r.sid else inputPassed t i { r with pc := r.pc + 1 }

section
variable {s : State} {q : Nat × MsaFmt} {r i : Stream} {sl : Slot} {x : Nat}

theorem addSlot_kept {bs : List Byte} (data : sl.data = .bytes bs) (kept : msaLost s r q.2 (regA r x).toNat bs = false) :
    addSlot s r x q i sl = inputPassed (msaBurst r q.1 q.2 (regA r x).toNat bs s) i { r with pc := r.pc + 1 } := by
  simp [addSlot, data, kept]

theorem addSlot_lost {bs : List Byte} (data : sl.data = .bytes bs) (lost : msaLost s r q.2 (regA r x).toNat bs = true) :
    addSlot s r x q i sl = streamFault (msaBurst r q.1 q.2 (regA r x).toNat bs s) r.sid := by
  simp [addSlot, data, lost]

theorem addSlot_other (data : ∀ bs, sl.data ≠ .bytes bs) :
    addSlot s r x q i sl = inputPassed s i { r with pc := r.pc + 1 } := by
  unfold addSlot
  cases given : sl.data with
  | bytes bs => exact absurd given (data bs)
  | _ => rfl

end

/-! ## The instructions -/

/-- A READ moves on, and the pieces of its request wait to be issued (R223, R224). -/
def Stream.reads (r : Stream) (x : Nat) (ps : List Piece) : Stream :=
  { r with a := updAt r.a x fun _ => r.a.getD x 0 + r.s.getD x 0
           skipLeft := r.skipLeft - 1
           skipJ := r.skipJ + 1
           pc := r.pc + 1
           waiting := ps }

theorem gatherList_eq (r : Stream) (x y : Nat) (wide : Bool) (imm : Nat) : gatherList r x y wide imm =
    if wide then (r.ext.drop (((regA r y).toNat - r.extAt) / 8)).take (imm % 2 ^ 24)
    else ((r.ext.drop (((regA r y).toNat - r.extAt) / 4)).take (imm % 2 ^ 24)).map fun e =>
      ((regA r x).toNat + e.1 * 2 ^ bitsOf imm 29 24, 2 ^ bitsOf imm 29 24) := by
  cases wide <;> rfl

/-- A stream at its end (R223). -/
def Stream.halts (r : Stream) : Stream := { r with halted := true, pc := r.pc + 1 }

theorem nextWord_waiting {s : State} {r : Stream} {w : Nat} (hw : nextWord s r = some w) : r.waiting = [] := by
  unfold nextWord at hw
  split at hw
  · simp_all
  · exact absurd hw nofun

section
variable {s : State} {sid w : Nat} {r : Stream} (hr : getStream s sid = some r) (hw : nextWord s r = some w)
include hr hw

section
variable {x : BitVec 3} {f : BitVec 4} {imm : BitVec 48} (op : insnOp w = 8) (hx : insnX w = x.toNat) (hf : insnF w = f.toNat)
variable (himm : insnImm w = imm.toNat)
include op hx hf himm

theorem exec_read : exec (.read sid x f imm) s =
    let b := if r.skipLeft = 0 then (true, s) else bitmapBit s r r.skipAt r.skipJ
    .next (issueWaiting (updStream b.2 sid fun _ =>
      r.reads x.toNat (if b.1 then piecesOf r (f.toNat % 4) (r.a.getD x.toNat 0).toNat (imm.toNat % 2 ^ 17) else [])) sid) := by
  refine (exec_insn hr hw rfl (by simp [op, hx, hf, himm])).trans ?_
  rw [← getStream_sid hr]
  rfl

theorem exec_read_issues (unmapped : r.skipLeft = 0) : exec (.read sid x f imm) s = .next (issueWaiting (updStream s sid fun _ =>
    r.reads x.toNat (piecesOf r (f.toNat % 4) (r.a.getD x.toNat 0).toNat (imm.toNat % 2 ^ 17))) sid) := by
  rw [exec_read hr hw op hx hf himm, if_pos unmapped]
  rfl

variable (mapped : 0 < r.skipLeft)
include mapped

/-- A READ that SKIPMAP skips requests nothing (R223). -/
theorem exec_read_skips (skipped : (bitmapBit s r r.skipAt r.skipJ).1 = false) : exec (.read sid x f imm) s =
    .next (updStream (bitmapBit s r r.skipAt r.skipJ).2 sid fun _ => r.reads x.toNat []) := by
  rw [exec_read hr hw op hx hf himm, if_neg mapped.ne']
  simp only [skipped, Bool.false_eq_true, if_false]
  rw [issueWaiting_updStream_const (r' := r.reads x.toNat []) rfl]

theorem exec_read_mapped (open_ : (bitmapBit s r r.skipAt r.skipJ).1 = true) : exec (.read sid x f imm) s =
    .next (issueWaiting (updStream (bitmapBit s r r.skipAt r.skipJ).2 sid fun _ =>
      r.reads x.toNat (piecesOf r (f.toNat % 4) (r.a.getD x.toNat 0).toNat (imm.toNat % 2 ^ 17))) sid) := by
  rw [exec_read hr hw op hx hf himm, if_neg mapped.ne']
  simp only [open_, if_true]

end

theorem exec_gather {x y : BitVec 3} {f : BitVec 4} {imm : BitVec 48} (op : insnOp w = 9) (hx : insnX w = x.toNat)
    (hy : insnY w = y.toNat) (hf : insnF w = f.toNat) (himm : insnImm w = imm.toNat) : exec (.gather sid x y f imm) s =
      .next (issueWaiting (updStream s sid fun _ =>
        { r with waiting := ((gatherList r x.toNat y.toNat (f.getLsbD 2) imm.toNat).map fun e =>
                   piecesOf r (f.toNat % 4) e.1 e.2).flatten
                 pc := r.pc + 1 }) sid) := by
  obtain rfl := getStream_sid hr
  exact (exec_insn hr hw rfl (by simp [op, hx, hy, hf, himm])).trans rfl

theorem exec_write {x : BitVec 3} (op : insnOp w = 16) (hx : insnX w = x.toNat) :
    exec (.write sid x) s = .next (onInput s r x.toNat (writeSlot s r x.toNat)) := by
  obtain rfl := getStream_sid hr
  refine (exec_insn hr hw rfl (by simp [op, hx])).trans ?_
  simp only [putStream_advanceTail]
  rfl

theorem exec_msaop {x : BitVec 3} {f : BitVec 4} (op : insnOp w = 17) (hx : insnX w = x.toNat) (hf : insnF w = f.toNat) :
    exec (.msaop sid x f) s = .next (onInput s r x.toNat (addSlot s r x.toNat (msaopOf f))) := by
  obtain rfl := getStream_sid hr
  refine (exec_insn hr hw rfl (by simp [op, hx, hf])).trans ?_
  simp only [putStream_advanceTail]
  rfl

theorem exec_halt (op : insnOp w = 63) : exec (.halt sid) s = .next (reap (updStream s sid fun _ => r.halts)) := by
  obtain rfl := getStream_sid hr
  exact (exec_insn hr hw rfl (by simp [op])).trans rfl

/-- A stream that halts goes once its ring is empty (R227). -/
theorem getStream_halted : getStream (reap (updStream s sid fun _ => r.halts)) sid =
    if r.head = r.tail then none else some r.halts := by
  have found : getStream (updStream s sid fun _ => r.halts) sid = some r.halts := by
    rw [getStream_updStream_const (r' := r.halts) (getStream_sid hr :), hr]
    rfl
  rw [getStream_reap found fun _ => streams_updStream_const]
  simp [Stream.isOver, Stream.halts, nextWord_waiting hw]

end

/-- Settles O36: each instruction by its own rule on the stream whose next word it is. -/
theorem streamRequests : Obligations.StreamRequests := by
  unfold Obligations.StreamRequests
  intro s sid w r hr hw
  obtain rfl := getStream_sid hr
  refine ⟨fun x f imm op hx hf himm => ⟨exec_read_issues hr hw op hx hf himm, exec_read_skips hr hw op hx hf himm,
      exec_read_mapped hr hw op hx hf himm⟩, fun x y f imm op hx hy hf himm => ?_,
    fun x f hx hf empty => ⟨fun op => ?_, fun op => ?_⟩,
    fun x i sl op hx input full => ?_, fun x f i sl op hx hf input full => ?_,
    fun op => ⟨exec_halt hr hw op, _, exec_halt hr hw op, getStream_halted hr hw⟩⟩
  · have run := exec_gather hr hw op hx hy hf himm
    rwa [gatherList_eq] at run
  · rw [exec_write hr hw op hx, onInput_waits empty]
  · rw [exec_msaop hr hw op hx hf, onInput_waits empty]
  · have run := exec_write hr hw op hx
    refine ⟨fun may => run.trans (congrArg Host.Outcome.next (onInput_takes input full _ may)),
      fun bs scratch memOk within => ?_,
      fun unbacked => run.trans (congrArg Host.Outcome.next (onInput_faults input full _ unbacked))⟩
    intro p t
    have written : t = scratchWrite s r.tid p.1 p.2 bs := streamWrite_page scratch within
    rw [written]
    exact ⟨scratchWrite_stores (scratch_wf_of_memOk memOk), scratchWrite_waits⟩
  · have run := exec_msaop hr hw op hx hf
    have takes (may) := run.trans (congrArg Host.Outcome.next (onInput_takes input full _ may))
    exact ⟨fun bs data may => ⟨fun kept => (takes may).trans (congrArg Host.Outcome.next (addSlot_kept data kept)),
        fun lost => (takes may).trans (congrArg Host.Outcome.next (addSlot_lost data lost))⟩,
      fun data may => (takes may).trans (congrArg Host.Outcome.next (addSlot_other data)),
      fun unbacked => run.trans (congrArg Host.Outcome.next (onInput_faults input full _ unbacked))⟩

end Sys2Proof.Machine

/-! What every step keeps (O4, O5): the canonical form of the memories, the bounds of the stores and the fuses, as `exec_follows`
gives them for each command. -/

namespace Sys2Proof.Machine

/-- A step answers a state that follows, in what does not name the queue, the one it is taken from. -/
theorem step_follows {s t : State} (e : step s = .next t) : ∃ q T, State.follows { s with pending := q } T t := by
  cases h : s.pending with
  | nil =>
    rw [step_of_empty h] at e
    injection e with e
    exact ⟨s.pending, [.time], e ▸ idleTick_follows (by decide) (State.follows_refl _ s)⟩
  | cons c rest =>
    rw [step_of_front h] at e
    exact ⟨rest, touched c, exec_follows e⟩

/-- Settles O4: `step_follows`, of which the memories and the bounds are two parts. -/
theorem stepKeepsForm : Obligations.StepKeepsForm := by
  unfold Obligations.StepKeepsForm
  intro s t memory bounds e
  obtain ⟨q, T, follows⟩ := step_follows e
  exact ⟨follows.memory memory, follows.bounds bounds⟩

/-- Settles O5: `step_follows`, of which the fuses and their copy are two parts. -/
theorem fusesOnlyBurn : Obligations.FusesOnlyBurn := by
  unfold Obligations.FusesOnlyBurn
  intro s t e
  obtain ⟨q, T, follows⟩ := step_follows e
  exact ⟨follows.fuses, follows.agree⟩

end Sys2Proof.Machine

/-! The power pins (O7): PWR_EN, power good and RESET_N through the phases of power-up and down (R336, R397 to R400). -/

namespace Sys2Proof.Machine

/-! ## Step 2 -/

/-- Step 2 with fuses that pass puts the burned lifecycle in force (R336, R368). -/
theorem stepTwo_lifecycle {s : State} (fuses : fusesOk s.locket = true) :
    (stepTwo s).locket.lifecycle = s.locket.fuses.lifecycle := by
  simp only [stepTwo, fuses, if_true]
  rfl

/-- Step 2 with fuses that fail ends the power-up with ERR_N asserted (R337). -/
theorem stepTwo_fails {s : State} (fuses : fusesOk s.locket = false) :
    (stepTwo s).power = { s.power with phase := .failed, errBoot := true, powerGood := true } ∧
      (stepTwo s).locket = s.locket := by
  simp only [stepTwo, fuses, Bool.false_eq_true, if_false]
  exact ⟨rfl, rfl⟩

/-! ## The commands -/

/-- The supply as power good finds it: the input is sampled and the shed step follows it (R336, R397). -/
def powered (s : State) (mv : Nat) : State :=
  let below := (shedTable s).map fun (_, rise) => decide (mv < rise)
  let s1 := s.modPower fun p => { p with powerGood := true, inputMv := mv, below := below, pllLocked := true }
  s1.modPower fun p => { p with effective := deepest p }

section
variable {s : State}

theorem exec_pwrEnRise (off : s.power.phase = .off) : exec .pwrEnRise s =
    .next { s with power := { s.power with pwrEn := true, phase := .starting, errBoot := true } } := by
  simp [exec, execPwrEnRise, off, State.modPower]

theorem exec_powerGood {mv : Nat} (starting : s.power.phase = .starting) (good : 40000 ≤ mv) : exec (.powerGood mv) s =
    .next (if s.power.resetN then stepTwo (powered s mv) else (powered s mv).modPower fun p => { p with phase := .inReset }) := by
  simp [exec, execPowerGood, starting, good, powered]

theorem exec_pwrEnFall_starting (starting : s.power.phase = .starting) :
    exec .pwrEnFall s = .next (powerDown (s.modPower fun p => { p with pwrEn := false })) := by
  simp [exec, execPwrEnFall, starting]

theorem exec_pwrEnFall_up (up : s.power.phase = .up) :
    exec .pwrEnFall s = .next (shutDown (s.modPower fun p => { p with pwrEn := false })) := by
  simp [exec, execPwrEnFall, up]

theorem exec_resetNLow_glitch {w : Nat} (short : w < 1000) : exec (.resetNLow w) s = .next s := by
  simp [exec, execResetNLow, short]

theorem exec_resetNLow_up {w : Nat} (long : 1000 ≤ w) (up : s.power.phase = .up) : exec (.resetNLow w) s =
    .next ((startFlush (s.modPower fun p => { p with resetN := false })).modPower fun p => { p with resetAfter := true }) := by
  simp [exec, execResetNLow, Nat.not_lt.mpr long, up]

theorem exec_resetNRelease_held (held : s.power.phase = .inReset) :
    exec .resetNRelease s = .next (stepTwo (s.modPower fun p => { p with resetN := true })) := by
  simp [exec, execResetNRelease, held]

end

/-- Settles O7: each pin by its own rule, and power good and RESET_N by step 2. -/
theorem powerPinsAct : Obligations.PowerPinsAct := by
  unfold Obligations.PowerPinsAct
  refine ⟨fun s off => exec_pwrEnRise off,
    fun s mv starting good released fuses => ⟨_, exec_powerGood starting good, ?_⟩,
    fun s mv starting good held => ⟨_, exec_powerGood starting good, ?_⟩,
    fun s mv starting good released fuses => ⟨_, exec_powerGood starting good, ?_⟩,
    fun s starting => ⟨_, exec_pwrEnFall_starting starting, rfl, rfl⟩,
    fun s up => ⟨_, exec_pwrEnFall_up up, ?_⟩,
    fun s w short => exec_resetNLow_glitch short,
    fun s w long up => ⟨_, exec_resetNLow_up long up, rfl⟩,
    fun s held fuses => ⟨_, exec_resetNRelease_held held, ?_⟩⟩
  · obtain ⟨power, keys, burned, -⟩ := stepTwo_passes (s := powered s mv) fuses
    rw [if_pos released, power]
    exact ⟨rfl, rfl, rfl, stepTwo_lifecycle (s := powered s mv) fuses, keys, burned⟩
  · rw [if_neg (Bool.not_eq_true _ ▸ held)]
    exact ⟨rfl, rfl⟩
  · obtain ⟨power, -⟩ := stepTwo_fails (s := powered s mv) fuses
    rw [if_pos released, power]
    exact ⟨rfl, rfl⟩
  · obtain ⟨phase, down, -⟩ := shutDown_power (s.modPower fun p => { p with pwrEn := false })
    exact ⟨phase, down⟩
  · obtain ⟨power, -⟩ := stepTwo_passes (s := s.modPower fun p => { p with resetN := true }) fuses
    rw [power]
    exact ⟨rfl, rfl⟩

end Sys2Proof.Machine

/-! Supply steps (O8): the input's thresholds, overvoltage and the droop of a rail, and the shed step that each brings into force
(R359 to R364). -/

namespace Sys2Proof.Machine

/-- The input's reading with every threshold marked that it has fallen below (R359). -/
def inputFallen (s : State) (mv : Nat) : State :=
  s.modPower fun p => { p with inputMv := mv,
                               below := ((shedTable s).zip s.power.below).map fun x => x.2 || decide (mv < x.1.1) }

section
variable {s : State} (up : s.power.phase = .up)
include up

theorem exec_inputStepFall (mv : Nat) : exec (.inputStepFall mv) s =
    .next (enterSteps (inputFallen s mv) (deepest (inputFallen s mv).power) 0) := by
  simp [exec, execInputStepFall, isUp, up, inputFallen]

theorem exec_inputStepRise (mv : Nat) : exec (.inputStepRise mv) s =
    let below := ((shedTable s).zip s.power.below).map fun x => x.2 && !(x.1.2 != 0 && decide (x.1.2 ≤ mv))
    .next { s with power := { s.power with inputMv := mv, below := below } } := by
  simp [exec, execInputStepRise, isUp, up, State.modPower]

theorem exec_overvoltage {mv : Nat} (high : 62000 < mv) : exec (.overvoltage mv) s =
    .next (enterSteps (s.modPower fun p => { p with inputMv := mv, overvolt := true }) 5 2) := by
  simp [exec, execOvervoltage, isUp, up, high]

theorem exec_railDroop (rail d : Nat) : exec (.railDroop rail d) s =
    let new := railStep (s.power.rails.getD rail 0) d
    let s1 : State := { s with power := { s.power with rails := updAt s.power.rails rail fun _ => new } }
    .next (if s.power.rails.getD rail 0 < new then
      enterSteps (raiseSrc s1 72 27 .nothing) (deepest (raiseSrc s1 72 27 .nothing).power) 0 else s1) := by
  simp [exec, execRailDroop, isUp, up, State.modPower]

end

/-- Settles O8: each reading by its own rule, and the step that it brings into force by `enterSteps_power`. -/
theorem supplyStepsAct : Obligations.SupplyStepsAct := by
  unfold Obligations.SupplyStepsAct
  refine ⟨fun s mv up => ⟨_, exec_inputStepFall up mv, ?_⟩, fun s mv up => exec_inputStepRise up mv,
    fun s mv up high lower => ⟨_, exec_overvoltage up high, ?_⟩,
    fun s rail d up same => (exec_railDroop up rail d).trans (congrArg _ (if_neg (Nat.not_lt.mpr same))),
    fun s rail d up deeper => (exec_railDroop up rail d).trans (congrArg _ (if_pos deeper))⟩
  · obtain ⟨effective, input, below, -, four, five⟩ := enterSteps_power (inputFallen s mv) (deepest (inputFallen s mv).power) 0
    exact ⟨input, below, effective, four, fun old new => (five old new).1⟩
  · obtain ⟨effective, -, -, overvolt, -, five⟩ := enterSteps_power (s.modPower fun p => { p with inputMv := mv, overvolt := true }) 5 2
    obtain ⟨phase, flushing⟩ := five lower (Nat.le_refl 5)
    exact ⟨overvolt, effective.trans (max_eq_right (Nat.le_of_lt lower)), phase, flushing⟩

end Sys2Proof.Machine

/-! Power states (O10): the moments of an entry and an exit, and HUB_HOT (R259 to R261, R366). -/

namespace Sys2Proof.Machine

/-- The power registers once the target is reached; a waiting capsule begins the exit at once (R259, R260, R386). -/
def entered (s : State) : State :=
  let wake := !s.fabric.asleep.isEmpty || s.queues.cmds.any fun c => c.stage == .held && !staysLow c.ref.op
  s.modPower fun p => { p with entering := false, pstate := p.target, psCmd := none, exiting := wake, frozen := some (freeze s) }

/-- The queries that waited for P0 join without a change of the fabric's registers or the power state (R261). -/
theorem joinAsleep_spec (s : State) : (joinAsleep s).power = s.power ∧ (joinAsleep s).fabric.asleep = [] ∧
    (s.fabric.asleep = [] → (joinAsleep s).search = s.search ∧ (joinAsleep s).colls = s.colls) := by
  have joins : State.follows (s.modFabric fun r => { r with asleep := [] }) [.colls, .pools, .search] (joinAsleep s) :=
    foldl_follows _ _ (fun _ _ h => joinQuery_follows (List.Subset.refl _) h) _ (State.follows_refl _ _)
  refine ⟨joins.frame .power (by decide), congrArg Fabric.asleep (joins.frame .fabric (by decide)), fun none_ => ?_⟩
  simp [joinAsleep, none_]

section
variable {s : State} (up : s.power.phase = .up)
include up

theorem exec_preparationEnd (preparing : s.power.preparing = true) (begun : s.power.prepBead < beadNow s)
    (idle : workInFlight s = false) (drained : s.power.target = 3 → s.flash.wbuf = []) :
    exec .preparationEnd s = .next { s with power := { s.power with preparing := false, entering := true } } := by
  have flushed : (s.power.target != 3 || s.flash.wbuf.isEmpty) = true := by
    by_cases p3 : s.power.target = 3
    · simp [drained p3]
    · exact Bool.or_eq_true_iff.mpr (Or.inl (bne_iff_ne.mpr p3))
  have runs : isUp s = true := beq_iff_eq.mpr up
  simp only [exec, execPreparationEnd, runs, preparing, begun, idle, flushed, decide_true, Bool.not_false, Bool.and_self, if_true]
  rfl

theorem exec_entryProperComplete (entering : s.power.entering = true) : exec .entryProperComplete s =
    .next (match s.power.psCmd with
      | some r => ok (entered s) r.queue r.tag (areaPut (areaPut 0 24 1 s.power.target.toNat) 32 8 (beadNow s))
      | none => entered s) := by
  simp only [exec, execEntryProperComplete, isUp, up, beq_self_eq_true, entering, Bool.and_self, if_true]
  rfl

theorem exec_exitComplete (exiting : s.power.exiting = true) : exec .exitComplete s =
    .next (joinAsleep (s.modPower fun p => { p with exiting := false, pstate := 0, target := 0, frozen := none })) := by
  simp [exec, execExitComplete, isUp, up, exiting]

theorem exec_hubHotClear : exec .hubHotClear s =
    .next (s.modPower fun p => if p.hubTemp < 1600 then { p with hubHot := false } else p) := by
  simp [exec, execHubHotClear, isUp, up, hubHotClear]

end

/-- Settles O10: each moment by its own rule, the answer by what it leaves in the queue. -/
theorem powerStatesMove : Obligations.PowerStatesMove := by
  unfold Obligations.PowerStatesMove
  refine ⟨fun s up preparing begun idle drained => exec_preparationEnd up preparing begun idle drained,
    fun s up entering nobody => ⟨_, exec_entryProperComplete up entering, ?_⟩,
    fun s r up entering waits => ⟨_, exec_entryProperComplete up entering, ?_⟩,
    fun s up exiting => ⟨_, exec_exitComplete up exiting, ?_⟩,
    fun s up cool => (exec_hubHotClear up).trans ?_, fun s up hot => (exec_hubHotClear up).trans ?_⟩
  · rw [nobody]
    exact ⟨rfl, rfl, rfl, rfl⟩
  · have power : ∀ area, (ok (entered s) r.queue r.tag area).power = (entered s).power := fun area => by simp
    rw [waits]
    dsimp only
    rw [power]
    refine ⟨rfl, rfl, rfl, fun c hc => ?_⟩
    rw [ok, answer_cmds] at hc
    simpa using (List.mem_filter.mp hc).2
  · obtain ⟨power, asleep, nobody⟩ :=
      joinAsleep_spec (s.modPower fun p => { p with exiting := false, pstate := 0, target := 0, frozen := none })
    exact ⟨power, asleep, nobody⟩
  · simp [State.modPower, cool]
  · simp [State.modPower, Int.not_lt.mpr hot]

end Sys2Proof.Machine

/-! First-error capture (O12): what latching leaves in a collector, and when its capture is armed anew (R341, R342). -/

namespace Sys2Proof.Machine

/-! ## The lowest source of a mask -/

/-- The source that a capture records of several (R342). -/
def lowestSource (m : BitVec 64) : Nat := ((List.range 64).find? fun i => m.getLsbD i).getD 0

theorem lowestSource_spec {m : BitVec 64} (some_ : m ≠ 0) :
    lowestSource m < 64 ∧ m.getLsbD (lowestSource m) = true ∧ ∀ j, j < lowestSource m → m.getLsbD j = false := by
  unfold lowestSource
  cases found : (List.range 64).find? fun i => m.getLsbD i with
  | none =>
    refine absurd (BitVec.eq_of_getLsbD_eq fun i hi => ?_) some_
    simpa using List.find?_eq_none.mp found i (List.mem_range.mpr hi)
  | some n =>
    obtain ⟨set, below, lower⟩ := List.find?_range_eq_some.mp found
    exact ⟨List.mem_range.mp below, set, fun j hj => by simpa using lower j hj⟩

theorem bit64_getLsbD_iff {n i : Nat} (h : n < 64) : (bit64 n).getLsbD i = decide (i = n) := by
  simp only [bit64, BitVec.getLsbD_ofNat, Nat.testBit_two_pow]
  by_cases same : n = i
  · simp [same ▸ h, same]
  · simp [same, Ne.symm same]

/-- Two sources leave one beside the lowest. -/
theorem beside_lowestSource {m : BitVec 64} {i j : Nat} (lt : i < j) (hi : m.getLsbD i = true) (hj : m.getLsbD j = true) :
    m &&& ~~~(bit64 (lowestSource m)) ≠ 0 := by
  have some_ : m ≠ 0 := fun none_ => by simp [none_] at hi
  obtain ⟨fits, -, lower⟩ := lowestSource_spec some_
  have other : j ≠ lowestSource m := fun same => by simp [lower i (same ▸ lt)] at hi
  have inside : j < 64 := BitVec.lt_of_getLsbD hj
  intro none_
  have kept : (m &&& ~~~(bit64 (lowestSource m))).getLsbD j = true := by
    rw [BitVec.getLsbD_and, BitVec.getLsbD_not, bit64_getLsbD_iff fits, hj, decide_eq_true inside, decide_eq_false other]
    rfl
  simp [none_] at kept

/-! ## Latching -/

theorem unset_source {mask status : BitVec 64} {i : Nat} (hi : mask.getLsbD i = true) (unset : status.getLsbD i = false) :
    mask &&& ~~~status ≠ 0 := by
  intro none_
  have kept : (mask &&& ~~~status).getLsbD i = true := by
    rw [BitVec.getLsbD_and, BitVec.getLsbD_not, hi, unset, decide_eq_true (BitVec.lt_of_getLsbD hi)]
    rfl
  simp [none_] at kept

section
variable {c : Collector} {mask : BitVec 64} {acc : Access} {time : Nat}

/-- Sources that are all set already change nothing. -/
theorem latch_known (known : mask &&& ~~~c.status = 0) : c.latch mask acc time = c := if_pos known

/-- The first sources are captured, with their access in DETAIL mode (R342). -/
theorem latch_first (clear : c.status = 0) (some_ : mask ≠ 0) : c.latch mask acc time =
    { c with status := mask, source := BitVec.ofNat 6 (lowestSource mask), valid := true,
             overflow := (mask &&& ~~~(bit64 (lowestSource mask))) != 0,
             access := if c.armedMode then acc.access else 0, master := if c.armedMode then acc.master else 0,
             capAddr := if c.armedMode then acc.addr else 0, capTime := if c.armedMode then BitVec.ofNat 64 time else 0 } := by
  have new : mask &&& ~~~c.status = mask := by
    rw [clear, show ~~~(0 : BitVec 64) = BitVec.allOnes 64 from rfl, BitVec.and_allOnes]
  have all : c.status ||| mask = mask := by rw [clear]; exact BitVec.zero_or
  unfold Collector.latch
  dsimp only
  rw [new, if_neg some_, if_pos clear, all]
  rfl

/-- A further source sets its bit and OVERFLOW, and leaves the capture (R342). -/
theorem latch_further (set : c.status ≠ 0) (new : mask &&& ~~~c.status ≠ 0) :
    c.latch mask acc time = { c with status := c.status ||| (mask &&& ~~~c.status), overflow := true } :=
  (if_neg new).trans (if_neg set)

theorem latch_modes : (c.latch mask acc time).armedMode = c.armedMode ∧ (c.latch mask acc time).mode = c.mode := by
  unfold Collector.latch
  dsimp only
  split
  · exact ⟨rfl, rfl⟩
  · split <;> exact ⟨rfl, rfl⟩

/-- A capture that stands is not changed by a further source. -/
theorem latch_frozen (set : c.status ≠ 0) : let d := c.latch mask acc time
    d.source = c.source ∧ d.valid = c.valid ∧ d.access = c.access ∧ d.master = c.master ∧ d.capAddr = c.capAddr ∧
      d.capTime = c.capTime := by
  by_cases new : mask &&& ~~~c.status = 0
  · rw [latch_known new]
    exact ⟨rfl, rfl, rfl, rfl, rfl, rfl⟩
  · rw [latch_further set new]
    exact ⟨rfl, rfl, rfl, rfl, rfl, rfl⟩

theorem rearm_set (set : c.status ≠ 0) : rearm c = c := if_neg set

theorem rearm_clear (clear : c.status = 0) : rearm c =
    { c with valid := false, overflow := false, armedMode := c.mode, access := if c.mode then c.access else 0,
             master := if c.mode then c.master else 0, capAddr := if c.mode then c.capAddr else 0,
             capTime := if c.mode then c.capTime else 0 } := if_pos clear

end

/-- A source without an access names a unit, never the master of a forced source (FCOL_CAPTURE). -/
theorem noAccess_master (col src : Nat) : (noAccess col src).master ≠ 0xFFFF := by
  intro forced
  have bound : Config.unitMaster col src % 65535 < 65535 := Nat.mod_lt _ (by decide)
  have value : (Config.unitMaster col src % 65535) % 2 ^ 16 = 65535 := congrArg BitVec.toNat forced
  omega

/-- Settles O12: the three cases of a latch, the arming of a clear collector, and the modes that its register holds. -/
theorem firstErrorCapture : Obligations.FirstErrorCapture := by
  unfold Obligations.FirstErrorCapture
  intro c mask acc time
  refine ⟨fun i => latch_status c mask acc time i, fun clear some_ => ?_, fun set => latch_frozen set,
    fun set ⟨i, hi, unset⟩ => ?_, fun clear ⟨i, j, lt, hi, hj⟩ => ?_, fun set => rearm_set set, fun clear => ?_,
    fun clear first => ?_, latch_modes.1, latch_modes.2, fun s col v present => ?_, fun s col src u => rfl,
    fun col src => ⟨rfl, rfl, noAccess_master col src⟩, fun n facet => ?_, fun n die module => ?_⟩
  · rw [latch_first clear some_]
    obtain ⟨fits, set, lower⟩ := lowestSource_spec some_
    exact ⟨rfl, ⟨_, fits, rfl, set, lower⟩, fun detail => by simp [detail], fun first => by simp [first]⟩
  · rw [latch_further set (unset_source hi unset)]
  · have some_ : mask ≠ 0 := fun none_ => by simp [none_] at hi
    rw [latch_first clear some_]
    exact bne_iff_ne.mpr (beside_lowestSource lt hi hj)
  · rw [rearm_clear clear]
    exact ⟨rfl, rfl, rfl⟩
  · rw [rearm_clear clear]
    simp [first]
  · have written : writeCollector s col 0x10 v = updCol s col fun k => { k with mode := bitOf v 0 } := rfl
    rw [written, getCol_updCol s col col _ present, if_pos rfl]
    exact ⟨rfl, rfl⟩
  · simp [getCol_reset, Collector.reset, Nat.not_le.mpr facet]
  · simp [getCol_reset, Collector.reset, die, module]

end Sys2Proof.Machine

/-! Sources (O13): what a latch, a force, a clear and a collector's own failure leave in the status words (R339, R341, R347,
R349, R408). -/

namespace Sys2Proof.Machine

theorem getCol_updCol_other {s : State} {c d : Nat} (u : Collector → Collector) (h : d ≠ c) : getCol (updCol s c u) d = getCol s d :=
  updAt_getD_other _ _ _ _ _ h

theorem raiseSrc_count (s : State) (col src : Nat) (u : UnitName) : (raiseSrc s col src u).collectors.length = s.collectors.length :=
  (raiseMask_latched ..).count

/-! ## Masks over the sources -/

/-- A fold over the sources that clears the marked ones of a mask. -/
theorem foldl_clear_bits (p : Nat → Bool) (n : Nat) (fits : n ≤ 64) (m : BitVec 64) (i : Nat) :
    ((List.range n).foldl (fun m i => if p i then m &&& ~~~(bit64 i) else m) m).getLsbD i =
      (m.getLsbD i && !(p i && decide (i < n))) := by
  induction n with
  | zero => simp
  | succ n ih =>
    rw [List.range_succ, List.foldl_append, List.foldl_cons, List.foldl_nil]
    by_cases marked : p n = true
    · rw [if_pos marked, BitVec.getLsbD_and, BitVec.getLsbD_not, ih (by omega), bit64_getLsbD_iff (by omega)]
      by_cases same : i = n
      · simp [same, marked]
      · by_cases inside : i < 64
        · simp [same, inside, show i < n + 1 ↔ i < n by omega]
        · simp [BitVec.getLsbD_of_ge m i (by omega)]
    · rw [if_neg marked, ih (by omega)]
      by_cases same : i = n
      · simp [same, marked]
      · simp [show i < n + 1 ↔ i < n by omega]

/-- A fold over the sources that sets the marked ones. -/
theorem foldl_set_bits (p : Nat → Bool) (n : Nat) (fits : n ≤ 64) (i : Nat) :
    ((List.range n).foldl (fun m i => if p i then m ||| bit64 i else m) (0 : BitVec 64)).getLsbD i = (p i && decide (i < n)) := by
  induction n with
  | zero => simp
  | succ n ih =>
    rw [List.range_succ, List.foldl_append, List.foldl_cons, List.foldl_nil]
    by_cases marked : p n = true
    · rw [if_pos marked, BitVec.getLsbD_or, ih (by omega), bit64_getLsbD_iff (by omega)]
      by_cases same : i = n
      · simp [same, marked]
      · simp [same, show i < n + 1 ↔ i < n by omega]
    · rw [if_neg marked, ih (by omega)]
      by_cases same : i = n
      · simp [same, marked]
      · simp [show i < n + 1 ↔ i < n by omega]

/-- What software may raise of a mask: the sources that are no summary (R341). -/
theorem ownSources_getLsbD (col : Nat) (mask : BitVec 64) (i : Nat) :
    (ownSources col mask).getLsbD i = (mask.getLsbD i && !isSummary col i) := by
  unfold ownSources
  rw [foldl_clear_bits (isSummary col) 64 (Nat.le_refl _) mask i]
  by_cases inside : i < 64
  · simp [inside]
  · simp [BitVec.getLsbD_of_ge mask i (by omega)]

/-! ## Clearing -/

@[simp] theorem rearm_status (c : Collector) : (rearm c).status = c.status := by
  unfold rearm
  split <;> rfl

/-- The status bits that a write of a mask clears (R349). -/
def clearedBits (s : State) (col : Nat) (mask : BitVec 64) : BitVec 64 :=
  mask &&& ~~~(pinsNow s col) &&&
    ~~~((List.range 64).foldl (fun m i => if isSummary col i then m ||| bit64 i else m) (0 : BitVec 64))

theorem clearedBits_getLsbD (s : State) (col : Nat) (mask : BitVec 64) {i : Nat} (inside : i < 64) :
    (clearedBits s col mask).getLsbD i = (mask.getLsbD i && !(pinsNow s col).getLsbD i && !isSummary col i) := by
  unfold clearedBits
  rw [BitVec.getLsbD_and, BitVec.getLsbD_and, BitVec.getLsbD_not, BitVec.getLsbD_not,
    foldl_set_bits (isSummary col) 64 (Nat.le_refl _)]
  simp [inside]

/-- The collector named loses the bits cleared; what follows above it is in other collectors. -/
theorem getCol_clearStatus {s : State} {col : Nat} (mask : BitVec 64) (known : col < 73) (all : s.collectors.length = 73) :
    getCol (clearStatus s col mask) col = rearm { getCol s col with status := (getCol s col).status &&& ~~~(clearedBits s col mask) } := by
  have own : getCol (updCol s col fun c => rearm { c with status := c.status &&& ~~~(clearedBits s col mask) }) col =
      rearm { getCol s col with status := (getCol s col).status &&& ~~~(clearedBits s col mask) } := by
    rw [getCol_updCol s col col _ (all ▸ known), if_pos rfl]
  refine Eq.trans ?_ own
  unfold clearStatus
  dsimp only
  split
  · rfl
  · split
    · next facet =>
      have above : col ≠ 68 + col / 17 := by omega
      split
      · exact (getCol_updCol_other _ (by omega)).trans (getCol_updCol_other _ above)
      · exact getCol_updCol_other _ above
    · split
      · exact getCol_updCol_other _ (by omega)
      · rfl

/-! ## The commands -/

section
variable {s : State} (up : s.power.phase = .up)
include up

theorem exec_sourceLatch (col : Nat) (mask : BitVec 64) (acc : Access) (u : UnitName) :
    exec (.sourceLatch col mask acc u) s = .next (raiseMask s col (ownSources col mask) acc u) := by
  simp [exec, execSourceLatch, isUp, up]

theorem exec_fcolForce (col : Nat) (mask : BitVec 64) :
    exec (.fcolForce col mask) s = .next (raiseMask s col (ownSources col mask) ⟨0, 0, 0xFFFF⟩ .nothing) := by
  simp [exec, execFcolForce, isUp, up, forceSources]

theorem exec_fcolStatusClear (col : Nat) (mask : BitVec 64) :
    exec (.fcolStatusClear col mask) s = .next (clearStatus s col mask) := by
  simp [exec, execFcolStatusClear, isUp, up]

theorem exec_collectorSelf_facet {f : Nat} (facet : f < 68) (b : Bool) : exec (.collectorSelf f b) s =
    .next (raiseSrc (updFacet (fenceFacet s f 4) f fun x => { x with safe := true, reason := 4 }) f 10 (.facet f)) := by
  simp [exec, execCollectorSelf, isUp, up, facet]

theorem exec_collectorSelf_above {col : Nat} (above : 68 ≤ col) (b : Bool) : exec (.collectorSelf col b) s =
    .next (if b then updCol (raiseSrc s col (if col < 72 then 25 else 28) .nothing) col fun c => { c with defaultsOnly := true }
      else raiseSrc s col (if col < 72 then 25 else 28) .nothing) := by
  simp [exec, execCollectorSelf, isUp, up, Nat.not_lt.mpr above]

end

/-- Settles O13: each command by its own rule, the sources by `ownSources_getLsbD` and the clear by `getCol_clearStatus`. -/
theorem sourceCommands : Obligations.SourceCommands := by
  unfold Obligations.SourceCommands
  refine ⟨fun s col mask acc u up known all => ⟨_, exec_sourceLatch up col mask acc u, rfl, fun i below set own => ?_⟩,
    fun s col mask up => exec_fcolForce up col mask, ownSources_getLsbD,
    fun s col mask up known all => ⟨_, exec_fcolStatusClear up col mask, fun i inside => ?_⟩,
    fun s f b up facet => exec_collectorSelf_facet up facet b,
    fun s col up above => exec_collectorSelf_above up above false,
    fun s col up above known all => ⟨_, exec_collectorSelf_above up above true, ?_⟩⟩
  · exact raiseMask_sets s col _ acc u (all ▸ known) i below (by rw [ownSources_getLsbD, set, own]; rfl)
  · rw [getCol_clearStatus mask known all, rearm_status, BitVec.getLsbD_and, BitVec.getLsbD_not, clearedBits_getLsbD s col mask inside,
      decide_eq_true inside, Bool.true_and]
  · rw [if_pos rfl]
    beta_reduce
    rw [getCol_updCol _ _ _ _ (lt_of_lt_of_eq known ((raiseSrc_count ..).trans all).symm), if_pos rfl]

end Sys2Proof.Machine

/-! Board access (O21): the test access port and the FRU memory (R355, R396, R398). -/

namespace Sys2Proof.Machine

theorem exec_boundaryScan (i : ScanInstr) (s : State) : exec (.boundaryScanInstruction i) s =
    .next (if scanEffective s i = .idcode then
        emit { s with board := { s.board with scan := scanEffective s i } } (.scan (idcodeOf s.locket.fuses))
      else { s with board := { s.board with scan := scanEffective s i } }) := rfl

theorem exec_fruRead (a : Nat) (s : State) :
    exec (.fruAccess (.read a)) s = .next (emit s (.fru (s.board.fru.getD a (Config.fruByte a)))) := rfl

theorem exec_fruWrite (a : Nat) (v : Byte) (s : State) : exec (.fruAccess (.write a v)) s =
    .next (if Config.fruProtected a then s else { s with board := { s.board with fru := s.board.fru.put a v } }) := rfl

/-- The port's register holds the instruction that takes effect, and the FRU memory stands. -/
theorem scanned_board (i : ScanInstr) (s : State) :
    (if scanEffective s i = .idcode then
        emit { s with board := { s.board with scan := scanEffective s i } } (.scan (idcodeOf s.locket.fuses))
      else { s with board := { s.board with scan := scanEffective s i } }).board = { s.board with scan := scanEffective s i } := by
  split <;> rfl

/-- Pin drivers act while RESET_N is held low, and the wrappers while the debug lock is open (R355, R398). -/
theorem scanEffective_spec (i : ScanInstr) (s : State) :
    (i ∈ [.bypass, .idcode, .samplePreload] → scanEffective s i = i) ∧
    (i ∈ [.extest, .extestPulse, .extestTrain] → scanEffective s i = if s.power.phase = .inReset then i else .bypass) ∧
    (i = .wrapper → scanEffective s i = if debugLockOpen s then i else .bypass) := by
  cases i <;> simp [scanEffective]

/-- Settles O21: the scan by the instruction that takes effect, the FRU memory by its table. -/
theorem boardAccess : Obligations.BoardAccess := by
  unfold Obligations.BoardAccess
  refine ⟨fun s i => ⟨_, exec_boundaryScan i s, ?_⟩, fun s a => ⟨_, exec_fruRead a s, rfl, List.mem_cons_self ..⟩,
    fun s a v => ⟨_, exec_fruWrite a v s, ?_⟩⟩
  · obtain ⟨plain, drives, wraps⟩ := scanEffective_spec i s
    rw [scanned_board]
    refine ⟨rfl, plain, drives, wraps, ?_⟩
    rintro rfl
    exact List.mem_cons_self ..
  · by_cases kept : Config.fruProtected a = true
    · rw [if_pos kept]
      exact ⟨rfl, fun _ => rfl, fun open_ => by simp [kept] at open_⟩
    · rw [if_neg kept]
      exact ⟨rfl, fun held => absurd held kept, fun _ => ⟨by simp [Tab.getD_put], fun x other => by simp [Tab.getD_put, other]⟩⟩

end Sys2Proof.Machine

/-! What traffic and a link that goes down leave in the links (R293 to R296, R303), shared by the service, the bring-up and the
replay of links. -/

namespace Sys2Proof.Machine

/-! ## Traffic keeps the state of every link -/

/-- A link without the registers that its traffic moves: its flits, its credits and the class whose turn it is. -/
def Link.control (k : Link) : Link := { k with txSeq := 0, replay := [], waitq := [], credit := [], turn := 0 }

/-- Every link is as it was, but for its traffic. -/
structure State.linksStay (s t : State) : Prop where
  count : t.fabric.links.length = s.fabric.links.length
  control : ∀ k, (getLink t k).control = (getLink s k).control

theorem State.linksStay.state {s t : State} (h : s.linksStay t) (k : Nat) : (getLink t k).state = (getLink s k).state := by
  have same := congrArg Link.state (h.control k)
  exact same

theorem State.linksStay.activate {s t : State} (h : s.linksStay t) (k : Nat) : (getLink t k).activate = (getLink s k).activate := by
  have same := congrArg Link.activate (h.control k)
  exact same

theorem linksStay_refl (s : State) : s.linksStay s := ⟨rfl, fun _ => rfl⟩

theorem State.linksStay.trans {s t u : State} (h : s.linksStay t) (g : t.linksStay u) : s.linksStay u :=
  ⟨g.count.trans h.count, fun k => (g.control k).trans (h.control k)⟩

theorem linksStay_of_links {s t : State} (h : t.fabric.links = s.fabric.links) : s.linksStay t :=
  ⟨congrArg List.length h, fun k => by unfold getLink; rw [h]⟩

theorem linksStay_of_follows {s t : State} {T : List Field} (h : s.follows T t) (fabric : Field.fabric ∉ T) : s.linksStay t :=
  linksStay_of_links (congrArg Fabric.links (h.frame .fabric fabric))

theorem getLink_updLink_other {s : State} {l k : Nat} (u : Link → Link) (h : k ≠ l) : getLink (updLink s l u) k = getLink s k :=
  updAt_getD_other _ _ _ _ _ h

/-- A link that the module does not have reads as one at reset, whatever is written. -/
theorem getLink_absent {s : State} {l : Nat} (h : s.fabric.links.length ≤ l) : getLink s l = Link.reset :=
  List.getD_eq_default _ _ h

theorem links_updLink (s : State) (l : Nat) (u : Link → Link) : (updLink s l u).fabric.links.length = s.fabric.links.length :=
  updAt_length ..

/-- A change of one link's traffic. -/
theorem linksStay_updLink {s : State} {l : Nat} {u : Link → Link} (h : (u (getLink s l)).control = (getLink s l).control) :
    s.linksStay (updLink s l u) := by
  refine ⟨links_updLink .., fun k => ?_⟩
  by_cases same : k = l
  · subst same
    by_cases present : k < s.fabric.links.length
    · rw [getLink_updLink s k k u present, if_pos rfl, h]
    · rw [getLink_absent (Nat.not_lt.mp present), getLink_absent ((links_updLink ..).trans_le (Nat.not_lt.mp present))]
  · rw [getLink_updLink_other u same]

theorem linksStay_sendFlit (s : State) (l : Nat) (f : Flit) : s.linksStay (sendFlit s l f) :=
  (linksStay_updLink (l := l) rfl).trans (linksStay_of_links (t := sendFlit s l f) rfl)

theorem linksStay_offerFlit (l : Nat) (s : State) (f : Flit) : s.linksStay (offerFlit l s f) := by
  unfold offerFlit
  dsimp only
  split
  · exact linksStay_sendFlit s l f
  · exact linksStay_updLink rfl

theorem linksStay_foldl {α : Type} {f : State → α → State} (step : ∀ (t : State) x, t.linksStay (f t x)) (xs : List α) (s : State) :
    s.linksStay (xs.foldl f s) := by
  induction xs generalizing s with
  | nil => exact linksStay_refl s
  | cons x xs ih => exact (step s x).trans (ih _)

theorem linksStay_sendOn (s : State) (l buf : Nat) (h : MsgHdr) (b : MsgBody) : s.linksStay (sendOn s l buf h b) :=
  (linksStay_of_links (s := s) (t := emit s (.msg l h b)) rfl).trans (linksStay_foldl (linksStay_offerFlit l) _ _)

theorem linksStay_flood (s : State) (n : Notice) (repair : Bool) (from_ : Option Nat) : s.linksStay (flood s n repair from_) :=
  linksStay_foldl (fun _ _ => linksStay_sendOn ..) _ s

/-! ## Traffic on the links that are up leaves the others as they stand -/

/-- Links that are not ACTIVE stand exactly as they did. -/
def State.downLinksStand (s t : State) : Prop := ∀ k, linkUp s k = false → getLink t k = getLink s k

theorem getLink_sendFlit_other {s : State} {l k : Nat} (f : Flit) (h : k ≠ l) : getLink (sendFlit s l f) k = getLink s k :=
  getLink_updLink_other (s := s) _ h

theorem getLink_offerFlit_other {s : State} {l k : Nat} (f : Flit) (h : k ≠ l) : getLink (offerFlit l s f) k = getLink s k := by
  unfold offerFlit
  dsimp only
  split
  · exact getLink_sendFlit_other f h
  · exact getLink_updLink_other _ h

theorem getLink_sendOn_other {s : State} {l k : Nat} (buf : Nat) (m : MsgHdr) (b : MsgBody) (h : k ≠ l) :
    getLink (sendOn s l buf m b) k = getLink s k :=
  foldl_keeps (g := fun t => getLink t k) (fun _ f _ => getLink_offerFlit_other f h) (emit s (.msg l m b))

theorem downLinksStand_flood (s : State) (n : Notice) (repair : Bool) (from_ : Option Nat) :
    s.downLinksStand (flood s n repair from_) := by
  intro k down
  refine foldl_keeps (g := fun t => getLink t k) (fun t l hl => ?_) s
  have up : linkUp s l = true := by
    have := (List.mem_filter.mp hl).2
    simp only [Bool.and_eq_true] at this
    exact this.1
  refine getLink_sendOn_other _ _ _ ?_
  rintro rfl
  simp [up] at down

/-! ## Notices of this module -/

/-- The notice that this module originates next of an element (R303). -/
def ownNotice (s : State) (e : Elem) : Notice := ⟨s.fabric.addr, s.fabric.noticeNum, e, beadNow s + 2⟩

/-- The module that holds its own notice, before it is sent. -/
def noticeHeld (s : State) (e : Elem) (repair : Bool) : State :=
  s.modFabric fun r => { r with noticeNum := r.noticeNum + 1, notices := r.notices ++ [⟨ownNotice s e, repair⟩],
                                seen := r.seen ++ [(s.fabric.addr, s.fabric.noticeNum, repair)] }

theorem originate_eq (s : State) (e : Elem) (repair : Bool) :
    originate s e repair = flood (noticeHeld s e repair) (ownNotice s e) repair none := rfl

theorem originate_links (s : State) (e : Elem) (repair : Bool) :
    s.linksStay (originate s e repair) ∧ s.downLinksStand (originate s e repair) :=
  ⟨(linksStay_of_links (s := s) (t := noticeHeld s e repair) rfl).trans (linksStay_flood ..),
    downLinksStand_flood (noticeHeld s e repair) _ _ _⟩

theorem reportFault_links (s : State) (e : Elem) : s.linksStay (reportFault s e) ∧ s.downLinksStand (reportFault s e) := by
  unfold reportFault
  split
  · exact ⟨linksStay_refl s, fun _ _ => rfl⟩
  · exact originate_links s e false

/-- What is known as failed stays known, and an element that is reported is known from then on (R303). -/
theorem knownFault_reportFault (s : State) (e x : Elem) :
    knownFault (reportFault s e) x = true ↔ x = e ∨ knownFault s x = true := by
  unfold reportFault
  split
  · next known =>
    constructor
    · exact Or.inr
    · rintro (rfl | h)
      · exact known
      · exact h
  · have fabric := onlyLinks_flood (noticeHeld s e false) (ownNotice s e) false none
    unfold knownFault
    rw [originate_eq, fabric]
    simp only [noticeHeld, modFabric_fabric, ownNotice, List.any_append, List.any_cons, List.any_nil, Bool.or_false, Bool.not_false,
      Bool.and_true,
      Bool.or_eq_true, beq_iff_eq]
    constructor
    · rintro (h | h | rfl)
      · exact Or.inr (Or.inl h)
      · exact Or.inr (Or.inr h)
      · exact Or.inl rfl
    · rintro (rfl | h | h)
      · exact Or.inr (Or.inr rfl)
      · exact Or.inl h
      · exact Or.inr (Or.inl h)

/-- A repair that is reported leaves what is known as failed, until its bead. -/
theorem knownFault_originate_repair (s : State) (e x : Elem) : knownFault (originate s e true) x = knownFault s x := by
  have fabric := onlyLinks_flood (noticeHeld s e true) (ownNotice s e) true none
  unfold knownFault
  rw [originate_eq, fabric]
  simp [noticeHeld]

/-- What the links keep while the module reports: their control registers, whatever carries no traffic, and the faults known. -/
def State.linksReported (s t : State) : Prop :=
  s.linksStay t ∧ s.downLinksStand t ∧ ∀ e, knownFault t e = knownFault s e

theorem linksReported_of_fabric {s t : State} (h : t.fabric = s.fabric) : s.linksReported t :=
  ⟨linksStay_of_links (congrArg Fabric.links h), fun _ _ => getLink_congr h _, fun e => by unfold knownFault; rw [h]⟩

theorem State.linksReported.trans {s t u : State} (h : s.linksReported t) (g : t.linksReported u) : s.linksReported u := by
  obtain ⟨stay, stand, known⟩ := h
  refine ⟨stay.trans g.1, fun k down => (g.2.1 k ?_).trans (stand k down), fun e => (g.2.2 e).trans (known e)⟩
  rwa [linkUp, stay.state k]

theorem linksReported_repair (s : State) (e : Elem) : s.linksReported (originate s e true) :=
  ⟨(originate_links s e true).1, (originate_links s e true).2, knownFault_originate_repair s e⟩

/-- Discovery that ends reports at most a repair of this module (R297). -/
theorem checkDiscovery_reports (s : State) : s.linksReported (checkDiscovery s) := by
  unfold checkDiscovery
  dsimp only
  split
  · split
    · refine State.linksReported.trans ?_ (linksReported_repair _ _)
      exact linksReported_of_fabric rfl
    · exact linksReported_of_fabric rfl
  · exact linksReported_of_fabric rfl

/-! ## A link that goes down -/

/-- The links once link `l` is down and its fault reported: the others keep their state, and none but the ACTIVE ones changes
in any way (R296, R303). -/
theorem linkDownCore_links (s : State) (l : Nat) :
    State.linksStay (updLink s l fun k => k.quiet linkIsDown 0) (linkDownCore s l) ∧
      State.downLinksStand (updLink s l fun k => k.quiet linkIsDown 0) (linkDownCore s l) := by
  have once := reportFault_links (updLink s l fun k => k.quiet linkIsDown 0) (.link s.fabric.addr l)
  unfold linkDownCore
  dsimp only
  split
  · split
    · next far _ _ =>
      have twice := reportFault_links (reportFault (updLink s l fun k => k.quiet linkIsDown 0) (.link s.fabric.addr l))
        (.module (BitVec.ofNat 20 far))
      refine ⟨once.1.trans twice.1, fun k down => (twice.2 k ?_).trans (once.2 k down)⟩
      simpa [linkUp, once.1.state k] using down
    · exact once
  · exact once

theorem linkDownCore_knownFault (s : State) (l : Nat) : knownFault (linkDownCore s l) (.link s.fabric.addr l) = true := by
  have once : knownFault (reportFault (updLink s l fun k => k.quiet linkIsDown 0) (.link s.fabric.addr l))
      (.link s.fabric.addr l) = true := (knownFault_reportFault ..).mpr (Or.inl rfl)
  unfold linkDownCore
  dsimp only
  split
  · split
    · exact (knownFault_reportFault ..).mpr (Or.inr once)
    · exact once
  · exact once

section
variable {s : State} {l : Nat} (present : l < s.fabric.links.length)
include present

theorem getLink_linkDownCore : getLink (linkDownCore s l) l = (getLink s l).quiet linkIsDown 0 := by
  have quiet : getLink (updLink s l fun k => k.quiet linkIsDown 0) l = (getLink s l).quiet linkIsDown 0 := by
    rw [getLink_updLink s l l _ present, if_pos rfl]
  refine ((linkDownCore_links s l).2 l ?_).trans quiet
  rw [linkUp, quiet]
  rfl

omit present in
theorem linkDownCore_count : (linkDownCore s l).fabric.links.length = s.fabric.links.length :=
  (linkDownCore_links s l).1.count.trans (links_updLink ..)

omit present in
theorem linkDownCore_others {k : Nat} (other : k ≠ l) : (getLink (linkDownCore s l) k).state = (getLink s k).state := by
  rw [(linkDownCore_links s l).1.state k, getLink_updLink_other _ other]

end

/-! ## A source of the module collector -/

/-- What raising one source of the module collector keeps: all that counting, the collectors, the cores and the power registers
keep, and that taking out the source's unit keeps (R339, R344, R345). -/
theorem raiseSrc_module_keeps {P : State → Prop} {src : Nat} {u : UnitName}
    (count : ∀ t a n, P t → P (bumpN t a n))
    (other : ∀ t t', State.follows t [.power, .cores, .collectors] t' → P t → P t')
    (fence : ∀ raise t, P t → P (fenceUnit raise t (unitOf 72 src u)))
    (reset : ∀ t, P t → P (startBlockReset t (unitOf 72 src u))) {s : State} (h : P s) : P (raiseSrc s 72 src u) := by
  have fold {α : Type} {f : State → α → State} {xs : List α} (step : ∀ t, ∀ x ∈ xs, P t → P (f t x)) {t : State} (ht : P t) :
      P (xs.foldl f t) := by
    induction xs generalizing t with
    | nil => exact ht
    | cons x xs ih => exact ih (fun t y hy => step t y (List.mem_cons_of_mem _ hy)) (step t x (List.mem_cons_self ..) ht)
  unfold raiseSrc raiseMask raiseN
  extract_lets mask c srcs new s1 held s2 s3 acts resets
  have h2 : P s2 := other s1 s2 (updCol_follows (by decide) (State.follows_refl _ s1)) (count s _ _ h)
  have h3 : P s3 := by
    dsimp only [s3]
    split <;> exact h2
  have single (x : Nat × Nat × Bool) (hx : x ∈ acts) : x.1 = src := by
    obtain ⟨i, hi, rfl⟩ := List.mem_map.mp hx
    have bit : mask.getLsbD i = true := (List.mem_filter.mp (List.mem_filter.mp hi).1).2
    simp only [mask, BitVec.getLsbD_and, Bool.and_eq_true] at bit
    exact bit64_getLsbD bit.1
  split
  · exact other s3 _ (modPower_follows (by decide) (State.follows_refl _ s3)) h3
  · next raise s4 _ =>
    have h4 : P s4 := by
      refine fold (fun t x hx ht => ?_) h3
      simp only [single x hx]
      split <;> split
      · exact reset _ (fence _ _ ht)
      · exact reset _ ht
      · exact fence _ _ ht
      · exact ht
    refine fold (fun t x _ ht => other t _ ?_ ht) h4
    dsimp only
    split <;> split
    · exact interrupt_follows (by decide) (interrupt_follows (by decide) (State.follows_refl _ t))
    · exact interrupt_follows (by decide) (State.follows_refl _ t)
    · exact interrupt_follows (by decide) (State.follows_refl _ t)
    · exact State.follows_refl _ t

/-- The source of a link that is down leaves the fabric as it stands: its fence finds nothing to take out (R345). -/
theorem raiseSrc_downLink_fabric {s : State} {l : Nat} (down : (getLink s l).state = linkIsDown) :
    (raiseSrc s 72 11 (.link l)).fabric = s.fabric := by
  have unit : unitOf 72 11 (.link l) = .link l := rfl
  refine raiseSrc_module_keeps (P := fun t => t.fabric = s.fabric)
    (fun t a n h => Eq.trans (by simp) h) (fun t t' follows h => (follows.frame .fabric (by decide)).trans h)
    (fun raise t h => ?_) (fun t h => unit ▸ h) rfl
  have still : (getLink t l).state = linkIsDown := by rw [getLink, h]; exact down
  rw [unit, fenceUnit, if_pos still]
  exact h

end Sys2Proof.Machine

/-! Service of links, ports and cores (O18): retraining, loopback, what a watchdog raises and which core may stop (R296, R352,
R353). -/

namespace Sys2Proof.Machine

section
variable {s : State} (up : s.power.phase = .up)
include up

/-! ## Links -/

theorem exec_fabricLinkRetrain {l : Nat} (enabled : linkEnabled s l = true) (idle : (getLink s l).retraining = false) :
    exec (.fabricLinkRetrain l) s = .next (updLink (if linkUp s l then linkDownCore s l else s) l fun k =>
      { k.quiet linkTraining 0 with retrain := true }) := by
  simp [exec, execFabricLinkRetrain, isUp, up, enabled, idle]

theorem exec_fabricLoopback {l : Nat} (enabled : linkEnabled s l = true) (down : linkUp s l = false)
    (plain : (getLink s l).state ≠ linkLoop) :
    exec (.fabricLoopback l) s = .next (updLink s l fun k => k.quiet linkLoop 0) := by
  simp [exec, execFabricLoopback, isUp, up, enabled, down, plain]

theorem exec_fabricSetDown {l : Nat} (enabled : linkEnabled s l = true) (standing : (getLink s l).state ≠ linkIsDown) :
    exec (.fabricSetDown l) s = .next (linkDown s l) := by
  simp [exec, execFabricSetDown, isUp, up, enabled, standing]

/-! ## Ports and cores -/

theorem exec_hostifLoopback {p : Nat} (host : p < 2) (down : (getPort s p).pcs = false) (plain : (getPort s p).state ≠ 4) :
    exec (.hostifLoopback p) s = .next (updPort s p fun r => { r with state := 4 }) := by
  simp [exec, execHostifLoopback, isUp, up, host, down, plain]

theorem exec_coreWatchdogExpiry_one : exec (.coreWatchdogExpiry true false) s = .next (raiseSrc s 72 16 (.core true)) ∧
    exec (.coreWatchdogExpiry false true) s = .next (raiseSrc s 72 17 (.core false)) := by
  simp [exec, execCoreWatchdogExpiry, isUp, up]

/-- Both cores together ask for a module reset (R352). -/
theorem completes_coreWatchdogExpiry_both :
    completes (.coreWatchdogExpiry true true) s fun t => t.power.resetDue = true ∧ t.power.errReset = true := by
  simp only [completes, exec, execCoreWatchdogExpiry, isUp, up, beq_self_eq_true, Bool.not_true, Bool.false_eq_true, if_false,
    Bool.and_self, if_true]
  exact ⟨_, rfl, rfl, rfl⟩

theorem exec_coreReady (isA : Bool) (out : (if isA then s.cores.aIn else s.cores.bIn) = false) : exec (.coreReady isA) s =
    .next (dropPins (s.modCores fun c => if isA then { c with aReady := true } else { c with bReady := true }) 72
      (if isA then bit64 16 ||| bit64 18 else bit64 17 ||| bit64 19)) := by
  simp [exec, execCoreReady, isUp, up, out]

theorem exec_coreStop (isA : Bool) : exec (.coreStop isA) s = .next (stopCore s isA) := by
  simp [exec, execCoreStop, isUp, up]

end

/-- A link that retrains is training, and its training counts as one that was asked for (R353). -/
theorem retrained_link {s : State} {l : Nat} (present : l < s.fabric.links.length) :
    let t := updLink (if linkUp s l then linkDownCore s l else s) l fun k => { k.quiet linkTraining 0 with retrain := true }
    (getLink t l).state = linkTraining ∧ (getLink t l).retraining = true := by
  have count : (if linkUp s l then linkDownCore s l else s).fabric.links.length = s.fabric.links.length := by
    split
    · exact linkDownCore_count
    · rfl
  dsimp only
  rw [getLink_updLink _ _ _ _ (count.symm ▸ present), if_pos rfl]
  exact ⟨rfl, rfl⟩

/-- Settles O18: each request by its own rule, and what is asked for already is ignored. -/
theorem linkAndCoreService : Obligations.LinkAndCoreService := by
  unfold Obligations.LinkAndCoreService
  refine ⟨fun s l up enabled idle present => ⟨_, exec_fabricLinkRetrain up enabled idle, retrained_link present⟩,
    fun s l up busy => by simp [exec, execFabricLinkRetrain, busy],
    fun s l up enabled down plain present => ⟨_, exec_fabricLoopback up enabled down plain, ?_⟩,
    fun s l up looped => by simp [exec, execFabricLoopback, looped],
    fun s l up enabled standing => exec_fabricSetDown up enabled standing,
    fun s p up host down plain => exec_hostifLoopback up host down plain,
    fun s p up host looped => by simp [exec, execHostifLoopback, looped],
    fun s up => completes_coreWatchdogExpiry_both up, fun s up => exec_coreWatchdogExpiry_one up,
    fun s up out => ⟨_, exec_coreReady up true out, rfl⟩, fun s up out => ⟨_, exec_coreReady up false out, rfl⟩,
    fun s up a b => ⟨(exec_coreStop up true).trans ?_, (exec_coreStop up false).trans ?_⟩,
    fun s isA up one => (exec_coreStop up isA).trans (congrArg _ (if_neg (ne_true_of_eq_false one)))⟩
  · beta_reduce
    rw [getLink_updLink s l l _ present, if_pos rfl]
    rfl
  · simp [stopCore, a, b, coreOut, State.modCores]
  · simp [stopCore, a, b, coreOut, State.modCores]

end Sys2Proof.Machine

/-! Links come up and go down (O44): training, the IDENT exchange, the edge at which a link becomes ACTIVE, the timeout and the
retrain timer (R296 to R299, R303). -/

namespace Sys2Proof.Machine

/-! ## One source of the module collector -/

/-- The units that a raised source takes out: those of a new source that asks for a fence or a block reset and no module reset
(R344). -/
def takesOut (s : State) (src : Nat) : Bool :=
  let a := (actionsOf s 72 src).1
  !(getCol s 72).status.getLsbD src && !hasAct a actModuleReset && (hasAct a actFence || hasAct a actBlockReset)

theorem filter_range_eq (n k : Nat) (h : k < n) : (List.range n).filter (fun i => decide (i = k)) = [k] := by
  have once : (List.range n).filter (· == k) = [k] := by
    rw [List.filter_beq, List.count_eq_one_of_mem List.nodup_range (List.mem_range.mpr h), List.replicate_one]
  exact once

/-- Raising one source of the module collector leaves the fabric as the fence of its unit does, where it takes the unit out, and
as it stands otherwise (R339, R344, R345). -/
theorem raiseN_module_fabric (n : Nat) (s : State) {src : Nat} (inside : src < 29) (acc : Access) (u : UnitName)
    {next : State → Nat → Nat → State} (isNext : next = fun t k i => raiseN n t k (bit64 i) (noAccess k i) .nothing) :
    ∃ v, State.follows s [.out, .host, .events, .counters, .collectors] v ∧
      (raiseN (n + 1) s 72 (bit64 src) acc u).fabric =
        if takesOut s src then (fenceUnit next v (unitOf 72 src u)).fabric else s.fabric := by
  have bits (i : Nat) : (bit64 src &&& BitVec.ofNat 64 (2 ^ sourceCount 72 - 1)).getLsbD i = decide (i = src) := by
    rw [BitVec.getLsbD_and, bit64_getLsbD_iff (by omega), BitVec.getLsbD_ofNat, Nat.testBit_two_pow_sub_one]
    by_cases same : i = src
    · have few : sourceCount 72 = 29 := rfl
      simp [same, few, inside, show src < 64 by omega]
    · simp [same]
  have srcsAre : (List.range 64).filter (fun i => (bit64 src &&& BitVec.ofNat 64 (2 ^ sourceCount 72 - 1)).getLsbD i) = [src] :=
    (List.filter_congr fun i _ => bits i).trans (filter_range_eq 64 src (by omega))
  unfold raiseN
  extract_lets mask c srcs new s1 held s2 s3 acts resets err raise s4
  obtain rfl : next = raise := isNext
  have newIs : new = [src].filter fun i => !c.status.getLsbD i := congrArg (List.filter _) srcsAre
  have follows : State.follows s [.out, .host, .events, .counters, .collectors] s3 := by
    have h2 : State.follows s [.out, .host, .events, .counters, .collectors] s2 :=
      updCol_follows (by decide) (bumpN_follows (by decide) (State.follows_refl _ s))
    dsimp only [s3]
    split <;> exact h2
  have same : s3.fabric = s.fabric := follows.frame .fabric (by decide)
  have interrupts (t : State) (x : Nat × Nat × Bool) (_ : x ∈ acts) :
      ((fun t (y : Nat × Nat × Bool) =>
        let t1 := if hasAct y.2.1 actInterrupt then interrupt t y.2.2 72 y.1 false else t
        if hasAct y.2.1 actNmi then interrupt t1 y.2.2 72 y.1 true else t1) t x).fabric = t.fabric := by
    dsimp only
    split <;> split <;> rfl
  refine ⟨s3, follows, ?_⟩
  by_cases known : c.status.getLsbD src = true
  · have none_ : acts = [] := by simp only [acts, newIs, List.filter_cons, known]; rfl
    have stays : takesOut s src = false := by
      simp only [takesOut, show (getCol s 72).status.getLsbD src = true from known]
      rfl
    have noResets : resets.isEmpty = true := by simp only [resets, none_]; rfl
    rw [stays, noResets]
    refine (foldl_keeps (g := State.fabric) interrupts s4).trans ?_
    simp only [s4, none_]
    exact same
  · have unknown : c.status.getLsbD src = false := eq_false_of_ne_true known
    have one : acts = [(src, actionsOf s 72 src)] := by simp only [acts, newIs, List.filter_cons, unknown]; rfl
    have out : takesOut s src = (!hasAct (actionsOf s 72 src).1 actModuleReset &&
        (hasAct (actionsOf s 72 src).1 actFence || hasAct (actionsOf s 72 src).1 actBlockReset)) := by
      simp only [takesOut, show (getCol s 72).status.getLsbD src = false from unknown]
      rfl
    have resetsAre : resets.isEmpty = !hasAct (actionsOf s 72 src).1 actModuleReset := by
      simp only [resets, one, List.filter_cons, List.filter_nil]
      cases hasAct (actionsOf s 72 src).1 actModuleReset <;> rfl
    rw [out, resetsAre]
    by_cases reset : hasAct (actionsOf s 72 src).1 actModuleReset = true
    · rw [reset]
      exact same
    · rw [eq_false_of_ne_true reset]
      refine (foldl_keeps (g := State.fabric) interrupts s4).trans ?_
      simp only [s4, one, List.foldl_cons, List.foldl_nil]
      have resetFabric (t : State) (n : UnitName) : (startBlockReset t n).fabric = t.fabric := by cases n <;> rfl
      cases hasAct (actionsOf s 72 src).1 actFence <;> cases hasAct (actionsOf s 72 src).1 actBlockReset
      · exact same
      · exact resetFabric _ _
      · rfl
      · exact resetFabric _ _

/-! ## A link goes down -/

/-- The source of a link leaves the fabric as taking the link down left it (R296, R345). -/
theorem linkDown_fabric {s : State} {l : Nat} (present : l < s.fabric.links.length) :
    (linkDown s l).fabric = (linkDownCore s l).fabric :=
  raiseSrc_downLink_fabric (by rw [getLink_linkDownCore present]; rfl)

section
variable {s : State} {l : Nat} (present : l < s.fabric.links.length)
include present

theorem getLink_linkDown : getLink (linkDown s l) l = (getLink s l).quiet linkIsDown 0 :=
  (getLink_congr (linkDown_fabric present) l).trans (getLink_linkDownCore present)

theorem linkDown_state (k : Nat) : (getLink (linkDown s l) k).state = if k = l then linkIsDown else (getLink s k).state := by
  split
  · next same => rw [same, getLink_linkDown present]; rfl
  · next other => rw [getLink_congr (linkDown_fabric present), linkDownCore_others other]

theorem linkDown_count : (linkDown s l).fabric.links.length = s.fabric.links.length := by
  rw [linkDown_fabric present, linkDownCore_count]

end

theorem linkDown_source {s : State} (l : Nat) (full : s.collectors.length = 73) :
    (getCol (linkDown s l) 72).status.getLsbD 11 = true :=
  raiseMask_sets _ 72 _ _ _ (by simp [full]) 11 (by decide) (by decide)

theorem getCol_checkDiscovery (s : State) (c : Nat) : getCol (checkDiscovery s) c = getCol s c := by
  unfold getCol
  rw [(checkDiscovery_follows (List.Subset.refl _) (State.follows_refl _ s)).frame .collectors (by decide)]

/-- Links that go down one after the other: these are DOWN, and every other keeps its state (R296, R297). -/
theorem foldl_linkDown_state (xs : List Nat) {s : State} (present : ∀ l ∈ xs, l < s.fabric.links.length) (k : Nat) :
    (getLink (xs.foldl linkDown s) k).state = if k ∈ xs then linkIsDown else (getLink s k).state := by
  induction xs generalizing s with
  | nil => simp
  | cons x xs ih =>
    have here := present x (List.mem_cons_self ..)
    rw [List.foldl_cons, ih fun l hl => (linkDown_count here).symm ▸ present l (List.mem_cons_of_mem _ hl), linkDown_state here]
    by_cases first : k = x <;> simp [first]

/-! ## A link identifies itself -/

/-- The nonce that the link sends next. -/
def nextNonce (s : State) : BitVec 128 := (Config.random256 (Config.freeNat s.free)).setWidth 128

/-- The module whose link has entered IDENT and sent its nonce. -/
def nonceSent (s : State) (l : Nat) : State :=
  emit (updLink (drawNat s).2 l fun k => { k with state := linkIdent, nonce := nextNonce s }) (.linkNonce l (nextNonce s))

theorem enterIdent_formed {s : State} {l : Nat} {peer : BitVec 128} {m : IdentMsg} (h : ownIdent s l peer = some m) :
    enterIdent s l peer = emit (nonceSent s l) (.identMsg l m) := by
  unfold enterIdent
  exact (congrArg (fun o => match o with | some m => emit (nonceSent s l) (.identMsg l m) | none => nonceSent s l) h).trans rfl

theorem enterIdent_unformed {s : State} {l : Nat} {peer : BitVec 128} (h : ownIdent s l peer = none) :
    enterIdent s l peer = nonceSent s l := by
  unfold enterIdent
  exact (congrArg (fun o => match o with | some m => emit (nonceSent s l) (.identMsg l m) | none => nonceSent s l) h).trans rfl

/-- A link that enters IDENT sends its nonce, and the IDENT message that it can form (R298). -/
theorem enterIdent_spec {s : State} {l : Nat} (present : l < s.fabric.links.length) (peer : BitVec 128) :
    (getLink (enterIdent s l peer) l).state = linkIdent ∧
      .linkNonce l (getLink (enterIdent s l peer) l).nonce ∈ (enterIdent s l peer).out ∧
      (∀ m, ownIdent s l peer = some m → .identMsg l m ∈ (enterIdent s l peer).out) ∧
      ∀ k, k ≠ l → getLink (enterIdent s l peer) k = getLink s k := by
  have entered : getLink (nonceSent s l) l = { getLink s l with state := linkIdent, nonce := nextNonce s } :=
    (getLink_updLink (drawNat s).2 l l _ present).trans (if_pos rfl)
  have others (k : Nat) (other : k ≠ l) : getLink (nonceSent s l) k = getLink s k := getLink_updLink_other (s := s) _ other
  have sent : Out.linkNonce l (getLink (nonceSent s l) l).nonce ∈ (nonceSent s l).out := by
    rw [entered]
    exact List.mem_cons_self ..
  have state : (getLink (nonceSent s l) l).state = linkIdent := by rw [entered]
  cases formed : ownIdent s l peer with
  | some m =>
    rw [enterIdent_formed formed]
    refine ⟨state, List.mem_cons_of_mem _ sent, fun m' same => ?_, others⟩
    rw [← Option.some.inj same]
    exact List.mem_cons_self ..
  | none =>
    rw [enterIdent_unformed formed]
    exact ⟨state, sent, fun m same => absurd same (Option.some_ne_none m).symm, others⟩

/-- The link that has taken an IDENT message, before what a mismatch raises. -/
def identTaken (s : State) (l : Nat) (m : IdentMsg) : State :=
  updLink s l fun k =>
    { k with state := if identCause s l m = 0 then linkIdent else linkMismatch, cause := identCause s l m, farAddr := m.addr,
             farLink := BitVec.ofNat 4 m.link, activate := decide (identCause s l m = 0) }

theorem takeIdent_agreed {s : State} {l : Nat} {m : IdentMsg} (agreed : identCause s l m = 0) :
    takeIdent s l m = identTaken s l m := if_pos agreed

theorem takeIdent_mismatch {s : State} {l : Nat} {m : IdentMsg} (mismatch : identCause s l m ≠ 0) :
    takeIdent s l m = checkDiscovery (raiseCond (identTaken s l m) 72 12 (.link l)) := if_neg mismatch

section
variable {s : State} {l : Nat} {m : IdentMsg} (present : l < s.fabric.links.length)
include present

theorem getLink_identTaken : getLink (identTaken s l m) l =
    { getLink s l with state := if identCause s l m = 0 then linkIdent else linkMismatch, cause := identCause s l m,
                       farAddr := m.addr, farLink := BitVec.ofNat 4 m.link, activate := decide (identCause s l m = 0) } :=
  (getLink_updLink s l l _ present).trans (if_pos rfl)

/-- A mismatch that fences takes the link down (R298, R345). -/
theorem mismatch_fenced (mismatch : identCause s l m ≠ 0) (clear : (getCol s 72).pins.getLsbD 12 = false)
    (fences : takesOut s 12 = true) : (getLink (takeIdent s l m) l).state = linkIsDown := by
  obtain ⟨v, follows, fabric⟩ := raiseN_module_fabric 5 (identTaken s l m) (src := 12) (by decide) (noAccess 72 12) (.link l) rfl
  rw [if_pos (show takesOut (identTaken s l m) 12 = true from fences)] at fabric
  have same : v.fabric = (identTaken s l m).fabric := follows.frame .fabric (by decide)
  have there : l < v.fabric.links.length := by rw [same, identTaken, links_updLink]; exact present
  have standing : (getLink v l).state = linkMismatch := by
    rw [getLink_congr same, getLink_identTaken present]
    exact if_neg mismatch
  have raised : raiseCond (identTaken s l m) 72 12 (.link l) =
      raiseN 6 (identTaken s l m) 72 (bit64 12) (noAccess 72 12) (.link l) := if_neg (ne_true_of_eq_false clear)
  rw [takeIdent_mismatch mismatch, (checkDiscovery_reports _).1.state, raised, getLink_congr fabric]
  show (getLink (if _ then _ else _) l).state = linkIsDown
  rw [if_neg (by rw [standing]; decide)]
  have kept := raiseN_fabric 5 (mask := bit64 11) (fun i hi => by rw [bit64_getLsbD hi]; rfl) (linkDownCore v l) (noAccess 72 11)
  rw [getLink_congr kept, getLink_linkDownCore there]
  rfl

/-- A mismatch that fences nothing leaves the link in MISMATCH with its cause (R298). -/
theorem mismatch_stands (mismatch : identCause s l m ≠ 0)
    (stands : (getCol s 72).pins.getLsbD 12 = true ∨ takesOut s 12 = false) :
    (getLink (takeIdent s l m) l).state = linkMismatch ∧ (getLink (takeIdent s l m) l).cause = identCause s l m := by
  have fabric : (raiseCond (identTaken s l m) 72 12 (.link l)).fabric = (identTaken s l m).fabric := by
    by_cases pin : (getCol s 72).pins.getLsbD 12 = true
    · rw [show raiseCond (identTaken s l m) 72 12 (.link l) = identTaken s l m from if_pos pin]
    · obtain ⟨_, _, kept⟩ := raiseN_module_fabric 5 (identTaken s l m) (src := 12) (by decide) (noAccess 72 12) (.link l) rfl
      have stays : takesOut (identTaken s l m) 12 = false := stands.resolve_left pin
      rw [stays, if_neg Bool.false_ne_true] at kept
      exact (congrArg State.fabric (if_neg pin)).trans kept
  have link := getLink_identTaken (m := m) present
  rw [if_neg mismatch] at link
  have state := (checkDiscovery_reports (raiseCond (identTaken s l m) 72 12 (.link l))).1.state l
  have cause := congrArg Link.cause ((checkDiscovery_reports (raiseCond (identTaken s l m) 72 12 (.link l))).1.control l)
  rw [takeIdent_mismatch mismatch]
  exact ⟨state.trans (by rw [getLink_congr fabric, link]), cause.trans (by rw [getLink_congr fabric, link]; rfl)⟩

end

/-- A mismatch raises its source, unless its pin is still high (R298, R339). -/
theorem mismatch_source {s : State} {l : Nat} {m : IdentMsg} (mismatch : identCause s l m ≠ 0) (full : s.collectors.length = 73)
    (clear : (getCol s 72).pins.getLsbD 12 = false) : (getCol (takeIdent s l m) 72).status.getLsbD 12 = true := by
  have raised : raiseCond (identTaken s l m) 72 12 (.link l) =
      raiseMask (identTaken s l m) 72 (bit64 12) (noAccess 72 12) (.link l) := if_neg (ne_true_of_eq_false clear)
  have inside : 72 < (identTaken s l m).collectors.length := show 72 < s.collectors.length by omega
  rw [takeIdent_mismatch mismatch, getCol_checkDiscovery, raised]
  exact raiseMask_sets _ _ _ _ _ inside 12 (by decide) (by decide)

/-! ## The edge at which links become ACTIVE -/

/-- A link as the edge makes it ACTIVE. -/
def Link.activated (k : Link) : Link := { k with state := linkActive, activate := false, out := false }

theorem foldl_activated (xs : List Nat) {s : State} {l : Nat} (present : l < s.fabric.links.length)
    (goes : l ∈ xs ∨ (getLink s l).state = linkActive ∧ (getLink s l).activate = false) :
    let t := xs.foldl (fun t k => updLink t k Link.activated) s
    (getLink t l).state = linkActive ∧ (getLink t l).activate = false := by
  induction xs generalizing s with
  | nil => exact goes.resolve_left (List.not_mem_nil)
  | cons x xs ih =>
    refine ih (by rw [links_updLink]; exact present) ?_
    by_cases same : x = l
    · subst same
      rw [getLink_updLink s x x _ present, if_pos rfl]
      exact Or.inr ⟨rfl, rfl⟩
    · rw [getLink_updLink_other _ (Ne.symm same)]
      exact goes.imp_left fun member => (List.mem_cons.mp member).resolve_left (Ne.symm same)

theorem foldl_endLoopback (xs : List Nat) {s : State} {l : Nat} (plain : (getLink s l).state ≠ linkLoop) :
    getLink (xs.foldl endLoopback s) l = getLink s l := by
  induction xs generalizing s with
  | nil => rfl
  | cons x xs ih =>
    have stays : getLink (endLoopback s x) l = getLink s l := by
      unfold endLoopback
      by_cases same : l = x
      · subst same
        by_cases present : l < s.fabric.links.length
        · rw [getLink_updLink s l l _ present, if_pos rfl, if_neg plain]
        · rw [getLink_absent (Nat.not_lt.mp present), getLink_absent ((links_updLink ..).trans_le (Nat.not_lt.mp present))]
      · exact getLink_updLink_other _ same
    exact (ih (stays ▸ plain)).trans stays

theorem foldl_endLoopback_count (xs : List Nat) (s : State) :
    (xs.foldl endLoopback s).fabric.links.length = s.fabric.links.length :=
  foldl_keeps (g := fun t => t.fabric.links.length) (fun _ _ _ => links_updLink ..) s

theorem linksStay_dropLinkPins (s : State) : s.linksStay (dropLinkPins s) :=
  linksStay_of_follows (dropLinkPins_follows (T := [.collectors]) (List.Subset.refl _) (State.follows_refl _ s)) (by decide)

/-- A link whose IDENT held becomes ACTIVE at the edge (R299). -/
theorem activateLinks_activates {s : State} {l : Nat} (inside : l < 12) (present : l < s.fabric.links.length)
    (ident : (getLink s l).state = linkIdent) (agreed : (getLink s l).activate = true) :
    (getLink (activateLinks s) l).state = linkActive ∧ (getLink (activateLinks s) l).activate = false := by
  unfold activateLinks
  extract_lets s0 go s1 s2
  have kept : getLink s0 l = getLink s l := foldl_endLoopback _ (by rw [ident]; decide)
  have count : s0.fabric.links.length = s.fabric.links.length := foldl_endLoopback_count _ s
  have goes : l ∈ go := List.mem_filter.mpr ⟨List.mem_range.mpr inside, (congrArg Link.activate kept).trans agreed⟩
  have active : (getLink s1 l).state = linkActive ∧ (getLink s1 l).activate = false :=
    foldl_activated go (present.trans_eq count.symm) (Or.inl goes)
  have repairs : s1.linksStay s2 := by
    refine linksStay_foldl (fun t x => ?_) go s1
    dsimp only
    split
    · exact (linksReported_repair t _).1
    · exact linksStay_refl t
  have pins : s2.linksStay (dropLinkPins s2) := linksStay_dropLinkPins s2
  have stay := (repairs.trans pins).trans (checkDiscovery_reports _).1
  exact ⟨(stay.state l).trans active.1, (stay.activate l).trans active.2⟩

/-! ## The obligation -/

section
variable {s : State} (up : s.power.phase = .up)
include up

theorem exec_linkTrainingComplete {l : Nat} (training : (getLink s l).state = linkTraining) :
    (∀ peer, exec (.linkTrainingComplete l (some peer)) s = .next (enterIdent s l peer)) ∧
      exec (.linkTrainingComplete l none) s = .next (checkDiscovery (linkDown s l)) := by
  simp [exec, execLinkTrainingComplete, isUp, up, training]

theorem exec_ident {l : Nat} (m : IdentMsg) (ident : (getLink s l).state = linkIdent) (fresh : (getLink s l).activate = false) :
    exec (.ident l m) s = .next (takeIdent s l m) := by
  simp [exec, execIdent, isUp, up, ident, fresh]

theorem exec_linkDown {l : Nat} (live : (getLink s l).state ∈ [linkTraining, linkIdent, linkActive]) :
    exec (.linkDown l) s = .next (checkDiscovery (linkDown s l)) := by
  simp [exec, execLinkDown, isUp, up, live]

theorem exec_linkRetrainTimer {l : Nat} (down : (getLink s l).state = linkIsDown) (enabled : linkEnabled s l = true)
    (free : (getLink s l).stay = false) :
    exec (.linkRetrainTimer l) s = .next (updLink s l fun k => k.quiet linkTraining 0) := by
  simp [exec, execLinkRetrainTimer, isUp, up, down, enabled, free]

theorem exec_discoveryTimeout (discovering : s.loader.discovering = true) : exec .discoveryTimeout s =
    .next (checkDiscovery (((List.range 12).filter fun l => (getLink s l).state == linkTraining).foldl linkDown s)) := by
  simp [exec, execDiscoveryTimeout, isUp, up, discovering]

end

/-- A link that goes down by itself: what it leaves in the link, in its source and in the notices (R296, R303). -/
theorem linkDown_spec {s : State} {l : Nat} (present : l < s.fabric.links.length) (full : s.collectors.length = 73) :
    let t := checkDiscovery (linkDown s l)
    (getLink t l).state = linkIsDown ∧ (getLink t l).replay = [] ∧ (getCol t 72).status.getLsbD 11 = true ∧
      knownFault t (.link s.fabric.addr l) = true ∧ ∀ k, k ≠ l → (getLink t k).state = (getLink s k).state := by
  obtain ⟨stay, stand, known⟩ := checkDiscovery_reports (linkDown s l)
  have link : getLink (checkDiscovery (linkDown s l)) l = (getLink s l).quiet linkIsDown 0 := by
    rw [stand l (by rw [linkUp, getLink_linkDown present]; rfl), getLink_linkDown present]
  refine ⟨congrArg Link.state link, congrArg Link.replay link, ?_, ?_, fun k other => ?_⟩
  · rw [getCol_checkDiscovery]
    exact linkDown_source l full
  · rw [known, knownFault, linkDown_fabric present]
    exact linkDownCore_knownFault s l
  · rw [stay.state, linkDown_state present, if_neg other]

/-- Settles O44: each message and each timer by its own rule, and nothing in any other state of the link. -/
theorem linkBringUp : Obligations.LinkBringUp := by
  unfold Obligations.LinkBringUp
  refine ⟨fun s l up inside count => ?_, fun s up => ⟨fun discovering count => ⟨_, exec_discoveryTimeout up discovering, ?_⟩, ?_⟩⟩
  · have present : l < s.fabric.links.length := count ▸ inside
    refine ⟨fun peer => ⟨fun training => ⟨⟨_, (exec_linkTrainingComplete up training).1 peer, enterIdent_spec present peer⟩,
        ⟨_, (exec_linkTrainingComplete up training).2, ?_⟩⟩, fun other end_ => ?_⟩, fun m => ⟨fun ident fresh full => ?_, ?_⟩,
      activateLinks_activates inside present, fun live full => ⟨_, exec_linkDown up live, linkDown_spec present full⟩,
      fun still => ?_, fun down enabled free => ⟨_, exec_linkRetrainTimer up down enabled free, ?_, fun k other => ?_⟩, ?_⟩
    · beta_reduce
      rw [(checkDiscovery_reports _).1.state, getLink_linkDown present]
      rfl
    · simp [exec, execLinkTrainingComplete, other]
    · refine ⟨_, exec_ident up m ident fresh, fun agreed => ?_, fun mismatch =>
        ⟨mismatch_source mismatch full, fun fences => ?_, fun stands => mismatch_stands present mismatch ?_⟩⟩
      · rw [takeIdent_agreed agreed, getLink_identTaken present]
        simp [agreed]
      · obtain ⟨clear, fresh, plain, asks⟩ := fences
        refine mismatch_fenced present mismatch clear ?_
        simp only [takesOut, fresh, plain, Bool.not_false, Bool.true_and, Bool.or_eq_true]
        exact asks
      · rw [or_iff_not_imp_left]
        refine fun clear => eq_false_of_ne_true fun out => stands ?_
        simp only [takesOut, Bool.and_eq_true, Bool.not_eq_true', Bool.or_eq_true] at out
        exact ⟨eq_false_of_ne_true clear, out.1.1, out.1.2, out.2⟩
    · rintro (other | waits)
      · simp [exec, execIdent, other]
      · simp [exec, execIdent, waits]
    · simp [exec, execLinkDown, still]
    · rw [getLink_updLink s l l _ present, if_pos rfl]
      rfl
    · exact getLink_updLink_other _ other
    · rintro (other | disabled | stays)
      · simp [exec, execLinkRetrainTimer, other]
      · simp [exec, execLinkRetrainTimer, disabled]
      · simp [exec, execLinkRetrainTimer, stays]
  · intro l inside
    rw [(checkDiscovery_reports _).1.state, foldl_linkDown_state _ (fun k hk => ?_) l]
    · simp [inside]
    · rw [count]
      exact List.mem_range.mp (List.mem_filter.mp hk).1
  · intro idle
    simp [exec, execDiscoveryTimeout, idle]

end Sys2Proof.Machine

/-! Credit and replay on a link (O45): what CREDIT frees and lets go, what RETRY replays and what a bad flit asks for (R294,
R295). -/

namespace Sys2Proof.Machine

/-! ## The replay buffer -/

theorem dropWhile_to {pre post : List Flit} {f : Flit} {seq : BitVec 16} (first : ∀ g ∈ pre, g.seq ≠ seq) (named : f.seq = seq) :
    (pre ++ f :: post).dropWhile (fun g => g.seq != seq) = f :: post := by
  rw [List.dropWhile_append_of_pos fun g hg => by simpa using first g hg, List.dropWhile_cons_of_neg (by simp [named])]

theorem dropWhile_none {fs : List Flit} {seq : BitVec 16} (absent : ∀ g ∈ fs, g.seq ≠ seq) :
    fs.dropWhile (fun g => g.seq != seq) = [] :=
  List.dropWhile_eq_nil_iff.mpr fun g hg => by simpa using absent g hg

theorem ackReplay_covered {pre left : List Flit} {f : Flit} {seq : BitVec 16} (first : ∀ g ∈ pre, g.seq ≠ seq)
    (named : f.seq = seq) : ackReplay seq (pre ++ f :: left) = left := by
  unfold ackReplay
  rw [if_pos (by simp [named]), dropWhile_to first named, List.drop_one, List.tail_cons]

theorem ackReplay_absent {fs : List Flit} {seq : BitVec 16} (absent : ∀ g ∈ fs, g.seq ≠ seq) : ackReplay seq fs = fs :=
  if_neg (by simpa using absent)

/-! ## The waiting flits -/

theorem nextFlit_mem {k : Link} {f : Flit} (h : nextFlit k = some f) : f ∈ k.waitq := by
  have inside {x : Flit} (hx : x ∈ k.waitq.filter fun g => k.canSend g.cls g.buf) : x ∈ k.waitq := (List.mem_filter.mp hx).1
  unfold nextFlit at h
  dsimp only at h
  split at h
  · next found => exact inside (Option.some.inj h ▸ List.mem_of_find?_eq_some found)
  · split at h
    · next found => exact inside (Option.some.inj h ▸ List.mem_of_find?_eq_some found)
    · exact inside (List.mem_of_mem_head? h)

theorem nextFlit_empty {k : Link} (h : k.waitq = []) : nextFlit k = none := by
  unfold nextFlit
  rw [h]
  rfl

/-- The one flit that waits goes when it may. -/
theorem nextFlit_single {k : Link} {w : Flit} (one : k.waitq = [w]) (may : k.canSend w.cls w.buf = true) :
    nextFlit k = some w := by
  have goes : k.waitq.filter (fun g => k.canSend g.cls g.buf) = [w] := by rw [one]; simp [may]
  unfold nextFlit
  dsimp only
  rw [goes]
  by_cases mgmt : w.cls = 0
  · simp [mgmt]
  · by_cases turn : w.cls = k.turn
    · rw [List.find?_cons_of_neg (by simpa using mgmt), List.find?_cons_of_neg (by simpa using turn)]
      rfl
    · simp [mgmt, turn]

/-- The module that has sent one waiting flit. -/
def waitSent (s : State) (l : Nat) (f : Flit) : State :=
  sendFlit (updLink s l fun k => { k with waitq := k.waitq.erase f }) l f

section
variable {s : State} {l : Nat} (present : l < s.fabric.links.length) (f : Flit)
include present

theorem getLink_waitSent : getLink (waitSent s l f) l = { getLink s l with
    waitq := (getLink s l).waitq.erase f, txSeq := (getLink s l).txSeq + 1,
    replay := (getLink s l).replay ++ [{ f with seq := (getLink s l).txSeq }],
    credit := updAt (getLink s l).credit (creditIx f.cls f.buf) (· - 1),
    turn := if f.cls = 0 then (getLink s l).turn else f.cls } := by
  have removed : getLink (updLink s l fun k => { k with waitq := k.waitq.erase f }) l =
      { getLink s l with waitq := (getLink s l).waitq.erase f } := (getLink_updLink s l l _ present).trans (if_pos rfl)
  refine (getLink_updLink _ l l _ ((links_updLink ..).symm ▸ present)).trans ((if_pos rfl).trans ?_)
  rw [removed]

theorem waitSent_out : (waitSent s l f).out = .flit l (getLink s l).txSeq f.cls f.buf :: s.out := by
  have removed : getLink (updLink s l fun k => { k with waitq := k.waitq.erase f }) l =
      { getLink s l with waitq := (getLink s l).waitq.erase f } := (getLink_updLink s l l _ present).trans (if_pos rfl)
  show Out.flit l (getLink (updLink s l fun k => { k with waitq := k.waitq.erase f }) l).txSeq f.cls f.buf :: s.out = _
  rw [removed]

omit present in
theorem waitSent_count : (waitSent s l f).fabric.links.length = s.fabric.links.length :=
  (links_updLink ..).trans (links_updLink ..)

end

theorem drainWaitN_next {s : State} {l n : Nat} {f : Flit} (h : nextFlit (getLink s l) = some f) :
    drainWaitN l (n + 1) s = drainWaitN l n (waitSent s l f) := by
  rw [drainWaitN, h]
  rfl

theorem drainWaitN_none {s : State} {l n : Nat} (h : nextFlit (getLink s l) = none) : drainWaitN l n s = s := by
  cases n with
  | zero => rfl
  | succ n => rw [drainWaitN, h]

/-- The waiting flits that may go have gone, each numbered and kept for replay (R294, R295). -/
theorem drainWaitN_spec (l n : Nat) {s : State} (present : l < s.fabric.links.length) (all : (getLink s l).waitq.length = n) :
    nextFlit (getLink (drainWaitN l n s) l) = none ∧
      ∃ gone : List Flit, (getLink (drainWaitN l n s) l).replay = (getLink s l).replay ++ gone ∧
        gone.length + (getLink (drainWaitN l n s) l).waitq.length = (getLink s l).waitq.length ∧
        (drainWaitN l n s).out = (gone.map fun g => Out.flit l g.seq g.cls g.buf).reverse ++ s.out := by
  induction n generalizing s with
  | zero => exact ⟨nextFlit_empty (List.length_eq_zero_iff.mp all), [], by simp [drainWaitN]⟩
  | succ n ih =>
    cases next : nextFlit (getLink s l) with
    | none => rw [drainWaitN_none next]; exact ⟨next, [], by simp⟩
    | some f =>
      have member := nextFlit_mem next
      have link := getLink_waitSent present f
      have left : (getLink (waitSent s l f) l).waitq.length = n := by
        rw [link, List.length_erase_of_mem member, all]
        rfl
      obtain ⟨done, gone, replay, length, out⟩ := ih ((waitSent_count f).symm ▸ present) left
      rw [drainWaitN_next next]
      refine ⟨done, { f with seq := (getLink s l).txSeq } :: gone, ?_, ?_, ?_⟩
      · rw [replay, link, List.append_assoc]
        rfl
      · rw [List.length_cons]
        omega
      · rw [out, waitSent_out present]
        simp

/-! ## CREDIT -/

/-- The credits of a link once `n` are returned to one buffer, up to the size of the far receive buffer. -/
def creditReturned (c : List Nat) (cls buf n : Nat) : List Nat :=
  if cls < 3 && buf < 3 then updAt c (creditIx cls buf) fun x => min (Link.reset.credit.getD (creditIx cls buf) 0) (x + n) else c

/-- The module that has taken a CREDIT, before its waiting flits go. -/
def creditTaken (s : State) (l : Nat) (ack : BitVec 16) (cls buf n : Nat) : State :=
  updLink s l fun k =>
    { k with replay := ackReplay ack (getLink s l).replay,
             retries := if (ackReplay ack (getLink s l).replay).length < k.replay.length then 0 else k.retries,
             credit := creditReturned k.credit cls buf n }

section
variable {s : State} (up : s.power.phase = .up) {l : Nat} (active : (getLink s l).state = linkActive)
include up active

theorem exec_credit (a : BitVec 16) (cls buf : BitVec 2) (n : BitVec 12) : exec (.credit l a cls buf n) s =
    .next (drainWaitN l (getLink s l).waitq.length (creditTaken s l a cls.toNat buf.toNat n.toNat)) := by
  have taken : exec (.credit l a cls buf n) s = .next (takeCredit s l a cls.toNat buf.toNat n.toNat) := by
    simp [exec, execCredit, isUp, up, linkUp, active]
  have waits : (getLink (creditTaken s l a cls.toNat buf.toNat n.toNat) l).waitq = (getLink s l).waitq := by
    by_cases present : l < s.fabric.links.length
    · rw [creditTaken, getLink_updLink s l l _ present, if_pos rfl]
    · rw [creditTaken, getLink_absent (Nat.not_lt.mp present), getLink_absent ((links_updLink ..).trans_le (Nat.not_lt.mp present))]
  rw [taken, ← waits]
  rfl

theorem exec_retry (a : BitVec 16) : exec (.retry l a) s = .next (takeRetry s l a) := by
  simp [exec, execRetry, isUp, up, linkUp, active]

theorem exec_flitError (u : Bool) : exec (.flitError l u) s =
    let s1 := if u then bump s (fecUncorrCnt l) else s
    .next (if (getLink s l).awaitRetry then s1
      else emit (updLink s1 l fun k => { k with awaitRetry := true }) (.retryFlit l (getLink s l).rxSeq)) := by
  have counted : getLink (if u then bump s (fecUncorrCnt l) else s) l = getLink s l := by
    split
    · exact getLink_congr (by simp) l
    · rfl
  simp only [exec, execFlitError, isUp, up, linkUp, active, counted, beq_self_eq_true, Bool.and_self, if_true]

end

section
variable {s : State} {l : Nat} (present : l < s.fabric.links.length)
include present

theorem getLink_creditTaken (ack : BitVec 16) (cls buf n : Nat) : getLink (creditTaken s l ack cls buf n) l =
    { getLink s l with
      replay := ackReplay ack (getLink s l).replay,
      retries := if (ackReplay ack (getLink s l).replay).length < (getLink s l).replay.length then 0 else (getLink s l).retries,
      credit := creditReturned (getLink s l).credit cls buf n } :=
  (getLink_updLink s l l _ present).trans (if_pos rfl)

end

theorem creditReturned_same {c : List Nat} {cls buf n : Nat} (full : c.length = 9) (hc : cls < 3) (hb : buf < 3) :
    (creditReturned c cls buf n).getD (creditIx cls buf) 0 =
      min (Link.reset.credit.getD (creditIx cls buf) 0) (c.getD (creditIx cls buf) 0 + n) := by
  rw [creditReturned, if_pos (by simp [hc, hb])]
  exact updAt_getD _ _ _ _ (by unfold creditIx; omega)

theorem creditReturned_other {c : List Nat} {cls buf n j : Nat} (other : j ≠ creditIx cls buf) :
    (creditReturned c cls buf n).getD j 0 = c.getD j 0 := by
  unfold creditReturned
  split
  · exact updAt_getD_other _ _ _ _ _ other
  · rfl

theorem creditReturned_none {c : List Nat} {cls buf n : Nat} (reserved : cls = 3 ∨ buf = 3) : creditReturned c cls buf n = c :=
  if_neg (by rcases reserved with rfl | rfl <;> simp)

theorem creditReturned_length (c : List Nat) (cls buf n : Nat) : (creditReturned c cls buf n).length = c.length := by
  unfold creditReturned
  split
  · exact updAt_length ..
  · rfl

/-- Every receive buffer holds a flit. -/
theorem resetCredit_pos {cls buf : Nat} (hc : cls < 3) (hb : buf < 3) : 0 < Link.reset.credit.getD (creditIx cls buf) 0 := by
  interval_cases cls <;> interval_cases buf <;> decide

/-! ## RETRY -/

theorem foldl_emit (fs : List Flit) (l : Nat) (s : State) :
    let t := fs.foldl (fun t f => emit t (.flit l f.seq f.cls f.buf)) s
    t.fabric = s.fabric ∧ t.out = (fs.map fun f => Out.flit l f.seq f.cls f.buf).reverse ++ s.out := by
  induction fs generalizing s with
  | nil => exact ⟨rfl, rfl⟩
  | cons f fs ih =>
    obtain ⟨fabric, out⟩ := ih (emit s (.flit l f.seq f.cls f.buf))
    refine ⟨fabric, out.trans ?_⟩
    simp [emit]

/-- The module that has found the flit that RETRY names, before its replay. -/
def retryFound (s : State) (l : Nat) (left : List Flit) (n : Nat) : State :=
  bump (updLink s l fun k => { k with replay := left, retries := n }) (flitRetryCnt l)

theorem getLink_retryFound {s : State} {l : Nat} (present : l < s.fabric.links.length) (left : List Flit) (n : Nat) :
    getLink (retryFound s l left n) l = { getLink s l with replay := left, retries := n } := by
  have same : (retryFound s l left n).fabric = (updLink s l fun k => { k with replay := left, retries := n }).fabric := by
    simp [retryFound]
  exact (getLink_congr same l).trans ((getLink_updLink s l l _ present).trans (if_pos rfl))

theorem retryFound_count (s : State) (l : Nat) (left : List Flit) (n : Nat) :
    (retryFound s l left n).fabric.links.length = s.fabric.links.length := by
  have same : (retryFound s l left n).fabric = (updLink s l fun k => { k with replay := left, retries := n }).fabric := by
    simp [retryFound]
  rw [same, links_updLink]

theorem takeRetry_absent {s : State} {l : Nat} {seq : BitVec 16} (absent : ∀ g ∈ (getLink s l).replay, g.seq ≠ seq) :
    takeRetry s l seq = s := by
  unfold takeRetry
  dsimp only
  rw [dropWhile_none absent, List.isEmpty_nil, if_pos rfl]

/-- What RETRY does with a flit of the replay buffer: the replay from there on, or the end of the link (R295). -/
theorem takeRetry_found {s : State} {l : Nat} {pre post : List Flit} {f : Flit} (kept : (getLink s l).replay = pre ++ f :: post)
    (first : ∀ g ∈ pre, g.seq ≠ f.seq) :
    let n := if pre = [] then (getLink s l).retries + 1 else 1
    takeRetry s l f.seq =
      if maxRetries ≤ n then checkDiscovery (linkDown (retryFound s l (f :: post) n) l)
      else (f :: post).foldl (fun t g => emit t (.flit l g.seq g.cls g.buf)) (retryFound s l (f :: post) n) := by
  have count : (if (f :: post).length < (getLink s l).replay.length then 1 else (getLink s l).retries + 1) =
      if pre = [] then (getLink s l).retries + 1 else 1 := by
    rw [kept]
    cases pre with
    | nil => simp
    | cons g pre => simp
  unfold takeRetry
  dsimp only
  rw [show (getLink s l).replay.dropWhile (fun g => g.seq != f.seq) = f :: post by rw [kept, dropWhile_to first rfl],
    List.isEmpty_cons, if_neg Bool.false_ne_true, count]
  rfl

/-! ## The obligation -/

/-- Settles O45: CREDIT by the drain of the waiting flits, RETRY by the place of the flit that it names, and a bad flit by whether
a RETRY is out already. -/
theorem flitsAreReplayed : Obligations.FlitsAreReplayed := by
  unfold Obligations.FlitsAreReplayed
  intro s l up inside count k
  have present : l < s.fabric.links.length := count ▸ inside
  refine ⟨fun a cls buf n u down => ?_, fun active => ⟨?_, ?_,
    fun a absent => (exec_retry up active a).trans (congrArg _ (takeRetry_absent absent)),
    ?_⟩⟩
  · have off : linkUp s l = false := by simpa [linkUp] using down
    simp [exec, execCredit, execRetry, execFlitError, off]
  · intro a left cls buf n full which ix c
    have acked : ackReplay a k.replay = left := by
      rcases which with ⟨pre, f, kept, named, first⟩ | ⟨rfl, absent⟩
      · rw [kept, ackReplay_covered first named]
      · exact ackReplay_absent absent
    have run := exec_credit up active a cls buf n
    have link := getLink_creditTaken present a cls.toNat buf.toNat n.toNat
    rw [show ackReplay a (getLink s l).replay = left from acked] at link
    have there : l < (creditTaken s l a cls.toNat buf.toNat n.toNat).fabric.links.length := (links_updLink ..).symm ▸ present
    refine ⟨⟨_, run, ?_⟩, fun empty => ?_, fun w one hc hb inCls inBuf given room => ?_⟩
    · have spec := drainWaitN_spec l (getLink s l).waitq.length there (by rw [link])
      rw [link] at spec
      exact spec
    · rw [show (getLink s l).waitq = [] from empty] at run
      refine ⟨_, run, ?_⟩
      show (getLink (creditTaken s l a cls.toNat buf.toNat n.toNat) l).replay = left ∧ _
      simp only [drainWaitN, List.length_nil, link]
      exact ⟨trivial, rfl, fun hc hb => ⟨creditReturned_same full hc hb, fun j other => creditReturned_other other⟩,
        creditReturned_none⟩
    · have returned := creditReturned_same (n := n.toNat) full inCls inBuf
      have may : (getLink (creditTaken s l a cls.toNat buf.toNat n.toNat) l).canSend w.cls w.buf = true := by
        have some_ : 0 < min (Link.reset.credit.getD (creditIx cls.toNat buf.toNat) 0)
            (k.credit.getD (creditIx cls.toNat buf.toNat) 0 + n.toNat) :=
          lt_min (resetCredit_pos inCls inBuf) (Nat.add_pos_right _ given)
        rw [link, hc, hb, Link.canSend, Bool.and_eq_true, decide_eq_true_iff, decide_eq_true_iff]
        exact ⟨returned.symm ▸ some_, room⟩
      have next := nextFlit_single (by rw [link]; exact one) may
      rw [show (getLink s l).waitq = [w] from one, List.length_singleton, drainWaitN_next next] at run
      refine ⟨_, run, ?_⟩
      show (waitSent _ l w).out = _ ∧ (getLink (waitSent _ l w) l).replay = _ ∧ _
      simp only [drainWaitN]
      rw [getLink_waitSent there, waitSent_out there, link]
      refine ⟨rfl, rfl, ?_, rfl, ?_⟩
      · rw [hc, hb]
        exact (updAt_getD _ _ _ _ (by rw [creditReturned_length, full]; unfold creditIx; omega)).trans (by rw [returned])
      · show (getLink s l).waitq.erase w = []
        rw [show (getLink s l).waitq = [w] from one, List.erase_cons_head]
  · intro pre post f kept first n
    have run := exec_retry up active f.seq
    have found := takeRetry_found kept first
    refine ⟨fun few => ⟨_, run, ?_⟩, fun many => ⟨_, run, ?_⟩⟩
    · rw [found.trans (if_neg (Nat.not_le.mpr few))]
      obtain ⟨fabric, out⟩ := foldl_emit (f :: post) l (retryFound s l (f :: post) n)
      have link := (getLink_congr fabric l).trans (getLink_retryFound present (f :: post) n)
      exact ⟨congrArg Link.replay link, congrArg Link.retries link, (congrArg Link.state link).trans active, _, out⟩
    · beta_reduce
      rw [found.trans (if_pos many), (checkDiscovery_reports _).1.state,
        getLink_linkDown ((retryFound_count ..).symm ▸ present)]
      rfl
  · intro u s1
    have run := exec_flitError up active u
    exact ⟨fun free => run.trans (congrArg Host.Outcome.next (if_neg (ne_true_of_eq_false free))),
      fun waits => run.trans (congrArg Host.Outcome.next (if_pos waits))⟩

end Sys2Proof.Machine

/-! Locket tokens (O20): what GO answers, what a permitted token burns and what a readback that differs leaves (R368, R372, R373,
R375). -/

namespace Sys2Proof.Machine

section
variable {s : State} {action arg : Nat}

theorem tokenDone_refused (refused : tokenResult s ≠ 1) : tokenDone s action arg = (tokenResult s, s) := by
  unfold tokenDone
  rw [if_pos (by simpa using refused)]

theorem tokenDone_debug (permitted : tokenResult s = 1) : tokenDone s 3 arg = (1, tokenAct s 3 arg) := by
  simp [tokenDone, permitted]

/-- A burn that is permitted reads back as asked, or LOCKET_ERR is raised (R373). -/
theorem tokenDone_burn (permitted : tokenResult s = 1) (burns : action ≠ 3) :
    tokenDone s action arg = (6, burnFails (drawBool s).2 action arg) ∨
      tokenDone s action arg = (1, burn (drawBool s).2 (tokenBurn action arg)) := by
  simp only [tokenDone, permitted, burns, tokenAct, bne_self_eq_false, Bool.false_eq_true, if_false]
  by_cases bad : (drawBool s).1 = true
  · exact Or.inl (if_pos bad)
  · exact Or.inr (if_neg bad)

end

/-- GO writes its result, its action and a fresh nonce on what the token did (R372). -/
theorem tokenGo_locket (s : State) :
    let done := tokenDone s (fieldB (tokenBytes s) 4 1) (fieldB (tokenBytes s) 6 1)
    (tokenGo s).locket = { done.2.locket with
      tokenResult := BitVec.ofNat 4 done.1, tokenAction := BitVec.ofNat 4 (fieldB (tokenBytes s) 4 1),
      nonce := Config.random256 (drawNat done.2).1 } := rfl

theorem burnFails_locket (s : State) (action arg : Nat) : (burnFails s action arg).locket =
    (burn s fun f => f.partly (tokenBurn action arg f) (drawNat s).1).locket := by
  unfold burnFails
  rw [(raiseSrc_frame _ _ _ _).2.2.1]
  rfl

theorem burnFails_source {s : State} (full : s.collectors.length = 73) (action arg : Nat) :
    (getCol (burnFails s action arg) 72).status.getLsbD 23 = true :=
  raiseMask_sets (burn (drawNat s).2 fun f => f.partly (tokenBurn action arg f) (drawNat s).1) 72 (bit64 23) _ _
    (show 72 < s.collectors.length by omega) 23 (by decide) (by decide)

/-- What a permitted token does to the fuses it does to their copy, and it changes nothing else of the locket (R367, R373). -/
theorem tokenDone_fuses {s : State} {action arg : Nat} (permitted : tokenResult s = 1) (burns : action ≠ 3)
    (full : s.collectors.length = 73) : ∃ g : Fuses → Fuses,
      (tokenDone s action arg).2.locket = { s.locket with fuses := g s.locket.fuses, copy := g s.locket.copy } ∧
      (((tokenDone s action arg).1 = 1 ∧ g s.locket.fuses = tokenBurn action arg s.locket.fuses) ∨
        ((tokenDone s action arg).1 = 6 ∧ (∃ m, g s.locket.fuses = s.locket.fuses.partly (tokenBurn action arg s.locket.fuses) m) ∧
          (getCol (tokenDone s action arg).2 72).status.getLsbD 23 = true)) := by
  rcases tokenDone_burn (arg := arg) permitted burns with done | done
  · rw [done]
    exact ⟨fun f => f.partly (tokenBurn action arg f) (drawNat (drawBool s).2).1, burnFails_locket _ action arg,
      Or.inr ⟨rfl, ⟨_, rfl⟩, burnFails_source (show (drawBool s).2.collectors.length = 73 from full) action arg⟩⟩
  · rw [done]
    exact ⟨tokenBurn action arg, rfl, Or.inl ⟨rfl, rfl⟩⟩

/-- What GO leaves whatever the token: its action, the lifecycle in force and a redundant copy that agreed (R367, R372). -/
def tokenKept (s t : State) : Prop :=
  t.locket.tokenAction = BitVec.ofNat 4 (fieldB (tokenBytes s) 4 1) ∧ t.locket.lifecycle = s.locket.lifecycle ∧
    (s.locket.copy = s.locket.fuses → t.locket.copy = t.locket.fuses)

/-- The readback of a burn agreed, or it differed and some of the bits have burned (R373). -/
def burned (s t : State) (g : Fuses) : Prop :=
  (t.locket.tokenResult = 1 ∧ t.locket.fuses = g) ∨
    (t.locket.tokenResult = 6 ∧ (∃ m, t.locket.fuses = s.locket.fuses.partly g m) ∧ (getCol t 72).status.getLsbD 23 = true)

/-- A refused token changes nothing but what GO writes (R372). -/
theorem tokenGo_refused {s : State} (refused : tokenResult s ≠ 1) : tokenKept s (tokenGo s) ∧
    (tokenGo s).locket.tokenResult = BitVec.ofNat 4 (tokenResult s) ∧ (tokenGo s).locket.fuses = s.locket.fuses ∧
    (tokenGo s).locket.meas = s.locket.meas ∧ (tokenGo s).locket.debugOpened = s.locket.debugOpened := by
  have locket := tokenGo_locket s
  dsimp only at locket
  rw [tokenDone_refused refused] at locket
  unfold tokenKept
  rw [locket]
  exact ⟨⟨rfl, rfl, fun agreed => agreed⟩, rfl, rfl, rfl, rfl⟩

/-- A permitted token that burns fuses burns the copy alike (R367, R373). -/
theorem tokenGo_burns {s : State} (permitted : tokenResult s = 1) (burns : fieldB (tokenBytes s) 4 1 ≠ 3)
    (full : s.collectors.length = 73) : tokenKept s (tokenGo s) ∧ (tokenGo s).locket.meas = s.locket.meas ∧
      burned s (tokenGo s) (tokenBurn (fieldB (tokenBytes s) 4 1) (fieldB (tokenBytes s) 6 1) s.locket.fuses) := by
  have locket := tokenGo_locket s
  obtain ⟨g, fuses, result⟩ := tokenDone_fuses (arg := fieldB (tokenBytes s) 6 1) permitted burns full
  have source : getCol (tokenGo s) 72 = getCol (tokenDone s (fieldB (tokenBytes s) 4 1) (fieldB (tokenBytes s) 6 1)).2 72 := rfl
  dsimp only at locket
  unfold tokenKept burned
  rw [source, locket, fuses]
  refine ⟨⟨rfl, rfl, fun agreed => congrArg g agreed⟩, rfl, result.imp ?_ ?_⟩
  · exact fun ⟨one, whole⟩ => ⟨congrArg (BitVec.ofNat 4) one, whole⟩
  · exact fun ⟨six, part, raised⟩ => ⟨congrArg (BitVec.ofNat 4) six, part, raised⟩

/-- A permitted token that opens the debug lock burns nothing (R375). -/
theorem tokenGo_opens {s : State} (permitted : tokenResult s = 1) (opens : fieldB (tokenBytes s) 4 1 = 3) :
    tokenKept s (tokenGo s) ∧ (tokenGo s).locket.tokenResult = 1 ∧ (tokenGo s).locket.fuses = s.locket.fuses ∧
      (tokenGo s).locket.debugOpened = true := by
  have locket := tokenGo_locket s
  dsimp only at locket
  rw [opens, tokenDone_debug permitted] at locket
  unfold tokenKept
  rw [locket, opens]
  exact ⟨⟨rfl, rfl, fun agreed => agreed⟩, rfl, rfl, rfl⟩

theorem tokenRow_go {s : State} (up : s.power.phase = .up) (live : s.locket.lifecycle ≠ 7) {action : Nat}
    (asked : fieldB (tokenBytes s) 4 1 = action) : tokenRow s action = tokenGo s :=
  if_pos (by simpa [isUp, up, asked] using live)

/-- Settles O20: a token is refused, opens the debug lock, or burns its fuses. -/
theorem locketTokens : Obligations.LocketTokens := by
  unfold Obligations.LocketTokens
  intro s up live full b f r kept burns
  have go {action : Nat} (asked : fieldB b 4 1 = action) (burning : action ≠ 3) :
      burns (tokenBurn action (fieldB b 6 1) f) (tokenRow s action) := by
    subst asked
    rw [tokenRow_go up live rfl]
    by_cases permitted : r = 1
    · obtain ⟨keeps, meas, burned⟩ := tokenGo_burns permitted burning full
      exact ⟨keeps, meas, fun refused => absurd permitted refused, fun _ => burned⟩
    · obtain ⟨keeps, result, fuses, meas, _⟩ := tokenGo_refused permitted
      exact ⟨keeps, meas, fun _ => ⟨result, fuses⟩, fun allowed => absurd allowed permitted⟩
  refine ⟨fun asked => ⟨_, rfl, go asked (by decide)⟩, fun asked => ⟨_, rfl, go asked (by decide)⟩, fun asked => ⟨_, rfl, ?_⟩,
    fun asked => ⟨_, rfl, go asked (by decide)⟩⟩
  beta_reduce
  rw [tokenRow_go up live asked]
  by_cases permitted : r = 1
  · obtain ⟨keeps, result, fuses, opened⟩ := tokenGo_opens permitted asked
    exact ⟨keeps, by rw [result, permitted]; rfl, fuses, by rw [opened, permitted]; simp⟩
  · obtain ⟨keeps, result, fuses, _, opened⟩ := tokenGo_refused permitted
    exact ⟨keeps, result, fuses, by rw [opened]; simp [permitted]⟩

end Sys2Proof.Machine

/-! Registers (O58, O59): the _SELECT registers of each administrative queue (R383), and the debug registers behind the debug
lock (R385). -/

namespace Sys2Proof.Machine

/-! ## What a register read takes from the queues (R383) -/

/-- The queue registers that a read in queue `p` takes: the queues, and the four values selected in `p`. -/
structure Queues.readAlike (p : Nat) (x y : Queues) : Prop where
  queues : y.queues = x.queues
  selQueue : y.selQueue.getD p 0 = x.selQueue.getD p 0
  selTier : y.selTier.getD p 0 = x.selTier.getD p 0
  selLearn : y.selLearn.getD p 0 = x.selLearn.getD p 0
  selSat : y.selSat.getD p 0 = x.selSat.getD p 0

section
variable {s : State} {p : Nat} {f : Queues → Queues}

/-- The blocks of registers that no queue register backs. -/
theorem blocks_modQueues (o : Nat) :
    readIdent (s.modQueues f) o = readIdent s o ∧ readLocket (s.modQueues f) o = readLocket s o ∧
    readSetting (s.modQueues f) o = readSetting s o ∧ readTime (s.modQueues f) o = readTime s o ∧
    readPower (s.modQueues f) o = readPower s o ∧ readHostWide (s.modQueues f) o = readHostWide s o ∧
    readFabricWide (s.modQueues f) o = readFabricWide s o ∧ readFlashWide (s.modQueues f) o = readFlashWide s o ∧
    readLoss (s.modQueues f) o = readLoss s o ∧ readNear (s.modQueues f) o = readNear s o := by
  have wide : readHostWide (s.modQueues f) o = readHostWide s o := by
    unfold readHostWide
    rw [modQueues_host]
  exact ⟨rfl, rfl, rfl, rfl, rfl, wide, rfl, rfl, rfl, rfl⟩

/-- The units whose registers no queue register backs. -/
theorem units_modQueues (k o : Nat) :
    readCollector (s.modQueues f) k o = readCollector s k o ∧ readPort (s.modQueues f) k o = readPort s k o ∧
    readLink (s.modQueues f) k o = readLink s k o ∧ readStack (s.modQueues f) k o = readStack s k o ∧
    readFlash (s.modQueues f) k o = readFlash s k o ∧ readFacet (s.modQueues f) k o = readFacet s k o :=
  ⟨rfl, rfl, rfl, rfl, rfl, rfl⟩

theorem entryView_modQueues : entryView (s.modQueues f) = (entryView s).modQueues f := by
  unfold entryView
  show (match s.power.frozen with | none => _ | some z => _) = _
  cases s.power.frozen with
  | none => rfl
  | some z =>
    dsimp only
    have stops (i : Nat) : unitStops (s.modQueues f) i = unitStops s i := rfl
    rw [stops 0, stops 1, stops 2]
    cases unitStops s 0 <;> cases unitStops s 1 <;> cases unitStops s 2 <;> rfl

variable (alike : (s.queues).readAlike p (f s.queues))
include alike

theorem readQueue_modQueues (o : Nat) : readQueue (s.modQueues f) p o = readQueue s p o := by
  obtain ⟨queues, selQueue, _, _, _⟩ := alike
  have q : (s.modQueues f).queues.queues = s.queues.queues := queues
  have sel : (s.modQueues f).queues.selQueue.getD p 0 = s.queues.selQueue.getD p 0 := selQueue
  unfold readQueue
  rw [q, sel]
  rfl

theorem readTier_modQueues (o : Nat) : readTier (s.modQueues f) p o = readTier s p o := by
  have sel : (s.modQueues f).queues.selTier.getD p 0 = s.queues.selTier.getD p 0 := alike.selTier
  unfold readTier
  rw [sel]
  rfl

theorem readLearn_modQueues (o : Nat) : readLearn (s.modQueues f) p o = readLearn s p o := by
  have learn : (s.modQueues f).queues.selLearn.getD p 0 = s.queues.selLearn.getD p 0 := alike.selLearn
  have sat : (s.modQueues f).queues.selSat.getD p 0 = s.queues.selSat.getD p 0 := alike.selSat
  unfold readLearn
  rw [learn, sat]
  rfl

/-- A register reads alike where the queues and what the reading queue has selected are alike. -/
theorem readReg_modQueues (a : Nat) : readReg (s.modQueues f) p a = readReg s p a := by
  unfold readReg
  simp only [readQueue_modQueues alike, readTier_modQueues alike, readLearn_modQueues alike, entryView_modQueues,
    blocks_modQueues, units_modQueues, modQueues_counters]

end

/-! ## The _SELECT registers -/

/-- A write of a _SELECT register leaves what every other queue has selected. -/
theorem writeSelect_readAlike (s : State) {q p : Nat} (other : p ≠ q) (a v : Nat) :
    s.queues.readAlike p (writeSelect s q a v).queues := by
  unfold writeSelect
  rw [modQueues_queues]
  split_ifs <;> constructor <;> simp [Tab.getD_put, other]

theorem writeReg_select (s : State) (q v : Nat) {a : Nat} (select : a ∈ [0x70000, 0x90000, 0x210010, 0x210030]) :
    writeReg s q a v = writeSelect s q a v := by
  have plain : (spaceOf a).isSome = false ∧ (spaceOf (a - 8)).isSome = false := by
    simp only [List.mem_cons, List.not_mem_nil, or_false] at select
    rcases select with rfl | rfl | rfl | rfl <;> decide +kernel
  unfold writeReg
  rw [plain.1, plain.2, if_neg Bool.false_ne_true, if_neg (by simp), if_pos (List.contains_iff_mem.mpr select)]

/-- What the low `n` bits of a word hold. -/
theorem mask_toNat (v n : Nat) (h : n ≤ 64) : (BitVec.ofNat 64 v &&& BitVec.ofNat 64 (2 ^ n - 1)).toNat = v % 2 ^ n := by
  have small : 2 ^ n ≤ 2 ^ 64 := Nat.pow_le_pow_right (by decide) h
  have fits : 2 ^ n - 1 < 2 ^ 64 := by have := Nat.two_pow_pos n; omega
  rw [BitVec.toNat_and, BitVec.toNat_ofNat, BitVec.toNat_ofNat, Nat.mod_eq_of_lt fits, Nat.and_two_pow_sub_one_eq_mod,
    Nat.mod_mod_of_dvd _ (Nat.pow_dvd_pow 2 h)]

section
variable (s : State) (q : Nat)

theorem readReg_selQueue : readReg s q 0x70000 = some (s.queues.selQueue.getD q 0).toNat := by
  have plain : isCounter 0x70000 = false ∧ isSnapOrClear 0x70000 = false := by decide +kernel
  simp [readReg, plain, readQueue]

theorem readReg_selTier : readReg s q 0x90000 = some ((s.queues.selTier.getD q 0).toNat % 4096) := by
  have plain : isCounter 0x90000 = false ∧ isSnapOrClear 0x90000 = false := by decide +kernel
  simp [readReg, plain, readTier]

theorem readReg_selLearn : readReg s q 0x210010 = some ((s.queues.selLearn.getD q 0).toNat % 4096) := by
  have plain : isCounter 0x210010 = false ∧ isSnapOrClear 0x210010 = false := by decide +kernel
  simp [readReg, plain, readLearn]

theorem readReg_selSat : readReg s q 0x210030 = some (s.queues.selSat.getD q 0).toNat := by
  have plain : isCounter 0x210030 = false ∧ isSnapOrClear 0x210030 = false := by decide +kernel
  simp [readReg, plain, readLearn]

end

/-- A _SELECT register reads back what was written in its queue, in its width (R383). -/
theorem readReg_writeSelect (s : State) (q v : Nat) {a : Nat} (select : a ∈ [0x70000, 0x90000, 0x210010, 0x210030]) :
    readReg (writeSelect s q a v) q a = some (v % 2 ^ (if a = 0x70000 then 15 else if a = 0x210030 then 53 else 12)) := by
  have tier := mask_toNat v 12 (by decide)
  simp only [List.mem_cons, List.not_mem_nil, or_false] at select
  rcases select with rfl | rfl | rfl | rfl
  · rw [readReg_selQueue, ← mask_toNat v _ (by decide)]
    simp [writeSelect, Tab.getD_put]
  · have tab : (writeSelect s q 0x90000 v).queues.selTier.getD q 0 = BitVec.ofNat 64 v &&& 0xFFF := by
      simp [writeSelect, Tab.getD_put]
    rw [readReg_selTier, tab]
    exact congrArg some ((congrArg (· % 4096) tier).trans (Nat.mod_mod _ _))
  · have tab : (writeSelect s q 0x210010 v).queues.selLearn.getD q 0 = BitVec.ofNat 64 v &&& 0xFFF := by
      simp [writeSelect, Tab.getD_put]
    rw [readReg_selLearn, tab]
    exact congrArg some ((congrArg (· % 4096) tier).trans (Nat.mod_mod _ _))
  · rw [readReg_selSat, ← mask_toNat v _ (by decide)]
    simp [writeSelect, Tab.getD_put]

/-- Settles O59: a write of a _SELECT register is seen in its own queue, and leaves all that another queue reads. -/
theorem selectPerQueue : Obligations.SelectPerQueue := by
  unfold Obligations.SelectPerQueue
  intro s q a v admin select
  rw [writeReg_select s q v select]
  exact ⟨readReg_writeSelect s q v select, fun p other b => readReg_modQueues (writeSelect_readAlike s other a v) b⟩

/-! ## The debug registers (R385) -/

/-- The addresses of the debug registers: the windows of the near memory and of each facet. -/
theorem isDebugReg_iff (a : Nat) : isDebugReg a = true ↔ a = 0xB4100 ∨ a = 0xB4108 ∨ ∃ f, f < 68 ∧
    (a = (if f < 64 then 0x100000 + f * 0x4000 else 0x240000 + (f - 64) * 0x4000) + 0x2000 ∨
     a = (if f < 64 then 0x100000 + f * 0x4000 else 0x240000 + (f - 64) * 0x4000) + 0x2008) := by
  unfold isDebugReg
  rw [Bool.or_eq_true, Bool.or_eq_true, beq_iff_eq, beq_iff_eq, or_assoc]
  refine or_congr_right (or_congr_right ?_)
  unfold facetAddr
  by_cases low : 0x100000 ≤ a ∧ a < 0x200000
  · rw [if_pos (by simpa using low)]
    simp only [Bool.or_eq_true, beq_iff_eq]
    constructor
    · intro window
      exact ⟨(a - 0x100000) / 0x4000, by omega, by rw [if_pos (by omega)]; omega⟩
    · rintro ⟨f, inside, place⟩
      split_ifs at place <;> omega
  · rw [if_neg (by simpa using low)]
    by_cases spare : 0x240000 ≤ a ∧ a < 0x250000
    · rw [if_pos (by simpa using spare)]
      simp only [Bool.or_eq_true, beq_iff_eq]
      constructor
      · intro window
        exact ⟨64 + (a - 0x240000) / 0x4000, by omega, by rw [if_neg (by omega)]; omega⟩
      · rintro ⟨f, inside, place⟩
        split_ifs at place <;> omega
    · rw [if_neg (by simpa using spare)]
      refine iff_of_false Bool.false_ne_true ?_
      rintro ⟨f, inside, place⟩
      split_ifs at place <;> omega

/-! ## The checks on a range with a debug register -/

section
variable {s : State} {c : Cmd} (some_ : regAddrs c ≠ []) (fits : (regAddrs c).length ≤ 512)
  (mapped : ∀ a ∈ regAddrs c, (readReg s c.ref.queue a).isSome = true)
include some_ fits mapped

/-- A range of mapped registers, not too long, is barred by the debug lock alone (R287, R385). -/
theorem rangeBad_mapped :
    rangeBad s c = if !debugLockOpen s && (regAddrs c).any isDebugReg then some 0x0407 else none := by
  have size : ((regAddrs c).length == 0 || decide (512 < (regAddrs c).length)) = false := by
    simpa [some_] using fits
  have unmapped : ((regAddrs c).any fun a => (readReg s c.ref.queue a).isNone) = false := by
    refine List.any_eq_false.mpr fun a ha => ?_
    rw [Option.isNone_iff_eq_none, ← Option.not_isSome_iff_eq_none, mapped a ha]
    simp
  simp only [rangeBad, firstBad, size, unmapped, Bool.false_eq_true, if_false]

end

theorem decideMgmtRead_refuses {s : State} {c : Cmd} {st : BitVec 16} (body : c.cap.body.length = 0) (range : rangeBad s c = some st) :
    decideMgmtRead s c = replyRefuse s c st := by
  simp only [decideMgmtRead, lenBad_eq_false body, range, Bool.false_eq_true, if_false]

theorem decideMgmtWrite_refuses {s : State} {c : Cmd} {st : BitVec 16} (idle : s.loader.part = none)
    (length : c.cap.body.length = 8 * areaField c.cap.area 28 2) (range : rangeBad s c = some st) :
    decideMgmtWrite s c = replyRefuse s c st := by
  simp only [decideMgmtWrite, idle, lenBad_eq_false length, range, Option.isSome_none, Bool.false_and, Bool.false_eq_true, if_false]

theorem writeReg_nearDebug (s : State) (q v : Nat) :
    writeReg s q 0xB4100 v = s.modNear fun n => { n with dbgAddr := BitVec.ofNat 36 v } := by
  have space : (spaceOf 0xB4100).isSome = false := by decide +kernel
  have before : (spaceOf 0xB40F8).isSome = false := by decide +kernel
  simp [writeReg, writeNear, space, before]

theorem queued_debugLock {op : BitVec 8} {c : Capsule} {s : State} : debugLockOpen (queued op c s) = debugLockOpen s := by
  unfold debugLockOpen
  rw [queued_locket]

/-- A refused command reaches no register of the near memory, of the facets or of the collectors. -/
theorem refused_reaches {op : BitVec 8} {c : Capsule} {s : State} (sub : submits op c s) (st : BitVec 16) :
    let t := replyRefuse (queued op c s) (arrival op c s) st
    answered (refOf op c) st 0 [] t ∧ t.near = s.near ∧ t.facets = s.facets ∧ t.facetRam = s.facetRam ∧
      t.collectors = s.collectors := by
  obtain ⟨_, _, _, _, _, _, _, _, facets, ram, collectors, near, _⟩ := queued_frame op c s
  have keeps : (queued op c s).follows _ (replyRefuse (queued op c s) (arrival op c s) st) :=
    replyRefuse_follows (List.Subset.refl _) (State.follows_refl _ _)
  exact ⟨(submits_answerable sub).refused st, (keeps.frame .near (by decide)).trans near,
    (keeps.frame .facets (by decide)).trans facets, (keeps.frame .facetRam (by decide)).trans ram,
    (keeps.frame .collectors (by decide)).trans collectors⟩

/-- Settles O58: the debug lock is the last check on the range of a MGMT_READ or MGMT_WRITE. -/
theorem debugRegisters : Obligations.DebugRegisters := by
  unfold Obligations.DebugRegisters
  refine ⟨isDebugReg_iff, fun i op c s row sub => ?_⟩
  intro length idle m s1 as some_ fits mapped debug
  have range := rangeBad_mapped (s := s1) (c := m) some_ fits mapped
  have barred : as.any isDebugReg = true := List.any_eq_true.mpr debug
  rw [show (regAddrs m).any isDebugReg = true from barred, queued_debugLock, Bool.and_true] at range
  have idle1 : s1.loader.part = none := by rw [queued_loader]; exact idle
  refine ⟨fun closed => ?_, fun opened => ?_⟩
  · rw [closed] at range
    simp only [List.mem_cons, List.not_mem_nil, or_false, Prod.mk.injEq] at row
    rcases row with ⟨rfl, rfl⟩ | ⟨rfl, rfl⟩
    · refine completes_submits (d := decideMgmtRead) rfl sub ?_
      rw [decideMgmtRead_refuses (c := arrival 0x8D c s) length range]
      exact refused_reaches sub _
    · refine completes_submits (d := decideMgmtWrite) rfl sub ?_
      rw [decideMgmtWrite_refuses (c := arrival 0x8E c s) idle1 length range]
      exact refused_reaches sub _
  · rw [opened] at range
    refine ⟨range, fun read => ?_, fun v write one value => ?_⟩
    · subst read
      simp only [List.mem_cons, List.not_mem_nil, or_false, Prod.mk.injEq] at row
      obtain ⟨rfl, -⟩ := row.resolve_right fun other => absurd other.2 (by decide)
      refine completes_submits (d := decideMgmtRead) rfl sub ?_
      rw [decideMgmtRead_replies (c := arrival 0x8D c s) (List.length_eq_zero_iff.mp length) range]
      exact ⟨_, (submits_answerable sub).ok _ _⟩
    · subst write
      simp only [List.mem_cons, List.not_mem_nil, or_false, Prod.mk.injEq] at row
      obtain ⟨rfl, -⟩ := row.resolve_left fun other => absurd other.2 (by decide)
      refine completes_submits (d := decideMgmtWrite) rfl sub ?_
      have core : stopsLastCore s1 m = false := by
        simp [stopsLastCore, show regAddrs m = [0xB4100] from one, value]
      rw [decideMgmtWrite_writes (c := arrival 0x8E c s) idle1 length range core,
        show regAddrs (arrival 0x8E c s) = [0xB4100] from one, show regValues (arrival 0x8E c s) = [v] from value,
        List.zip_cons_cons, List.zip_nil_right, List.foldl_cons, List.foldl_nil]
      dsimp only
      rw [writeReg_nearDebug]
      have ask : (s1.modNear fun n => { n with dbgAddr := BitVec.ofNat 36 v }).answerable m :=
        (submits_answerable sub).of_follows (modNear_follows (T := [.near]) (by decide) (State.follows_refl _ s1) id)
          (by decide) (by decide)
      exact ⟨ask.ok _ _, by simp⟩

end Sys2Proof.Machine

/-! The lifecycle (O60): what a command that the module takes while it is not up leaves, where the lifecycle in force is read, and
what keeps it while the module is up (R336, R368). -/

namespace Sys2Proof.Machine

/-! ## What faults keep

Raising a source may fence its unit, take ports and links down and ask for a reset. What the fences, the ports and that request
keep, the whole of it keeps (R339 to R346). -/

/-- A frame without the power registers and the loader. -/
def still : List Field := Field.but [.power, .loader]

/-- A part of the state that no raised source changes. -/
structure KeptByFaults {α : Type} (g : State → α) : Prop where
  frame : ∀ {s t : State}, s.follows still t → g t = g s
  facet : ∀ (s : State) (f reason : Nat), g (fenceFacet s f reason) = g s
  port : ∀ (s : State) (p : Nat), g (portDownCore s p) = g s
  reset : ∀ (s : State) (e : Bool), g (s.modPower fun p => { p with resetDue := true, errReset := p.errReset || e }) = g s

section
variable {α : Type} {g : State → α} (kept : KeptByFaults g)
include kept

theorem KeptByFaults.die (s : State) (d : Nat) : g (fenceDie s d) = g s := by
  refine foldl_keeps (fun t i _ => ?_) s
  dsimp only
  split
  · rfl
  · exact (kept.frame (updFacet_follows (by decide) (State.follows_refl _ _))).trans (kept.facet ..)

theorem KeptByFaults.fence {raise : State → Nat → Nat → State} (raises : ∀ t k i, g (raise t k i) = g t) (s : State) (u : UnitName) :
    g (fenceUnit raise s u) = g s := by
  have start := State.follows_refl still s
  cases u with
  | facet f => exact kept.facet ..
  | scanner b =>
    show g (if _ then _ else s) = g s
    split
    · exact kept.frame (fenceBank_follows (by decide) start)
    · rfl
  | dieClasp d => exact kept.die ..
  | dieCtrl d => exact kept.die ..
  | moduleClasp =>
    show g (s.modSearch fun r => { r with claspOut := true, claspRet := false }) = g s
    exact kept.frame (modSearch_follows (by decide) start)
  | core a => exact kept.frame (coreOut_follows (by decide) start)
  | flash c => exact kept.frame (bypassCore_follows (by decide) start)
  | prong c => exact kept.frame (updFlashCh_follows (by decide) start)
  | hbm ch =>
    show g (if _ then s else _) = g s
    split
    · rfl
    · refine (foldl_keeps (fun t d _ => ?_) _).trans ((raises ..).trans (kept.frame (mapOutCore_follows (by decide) start)))
      split
      · exact raises ..
      · exact raises ..
  | link l =>
    show g (if _ then s else _) = g s
    split
    · rfl
    · exact (raises ..).trans (kept.frame (linkDownCore_follows (by decide) start))
  | port p =>
    show g (if _ then _ else s) = g s
    split
    · exact (raises ..).trans (kept.port ..)
    · rfl
  | nothing => rfl

theorem KeptByFaults.raise (n : Nat) (s : State) (col : Nat) (mask : BitVec 64) (acc : Access) (u : UnitName) :
    g (raiseN n s col mask acc u) = g s := by
  induction n generalizing s col mask acc u with
  | zero => rfl
  | succ n ih =>
    unfold raiseN
    extract_lets m c srcs new s1 held s2 s3 acts resets
    have h2 : g s2 = g s := kept.frame (updCol_follows (by decide) (bumpN_follows (by decide) (State.follows_refl _ s)))
    have h3 : g s3 = g s := by
      dsimp only [s3]
      split_ifs
      · exact h2
      · exact (ih ..).trans h2
      · exact (ih ..).trans h2
      · exact h2
    split
    · exact (kept.reset ..).trans h3
    · next raise s4 _ =>
      have fences (t : State) (v : UnitName) : g (fenceUnit raise t v) = g t := kept.fence (fun _ _ _ => ih ..) t v
      have resets (t : State) (v : UnitName) : g (startBlockReset t v) = g t := by
        cases v with
        | facet f => exact kept.frame (updFacet_follows (by decide) (State.follows_refl _ t))
        | _ => rfl
      have h4 : g s4 = g s := by
        refine (foldl_keeps (fun t x _ => ?_) s3).trans h3
        dsimp only
        split <;> split
        · exact (resets ..).trans (fences ..)
        · exact resets ..
        · exact fences ..
        · rfl
      refine (foldl_keeps (fun t x _ => ?_) s4).trans h4
      dsimp only
      have interrupts (t : State) (a : Bool) (k i : Nat) (b : Bool) : g (interrupt t a k i b) = g t :=
        kept.frame (interrupt_follows (by decide) (State.follows_refl _ t))
      split <;> split
      · exact (interrupts ..).trans (interrupts ..)
      · exact interrupts ..
      · exact interrupts ..
      · rfl

end

/-! ## The phase while the module is not up -/

/-- The module stays in its phase. -/
def State.phaseStays (s t : State) : Prop := t.power.phase = s.power.phase

theorem State.phaseStays.trans {s t u : State} (h : s.phaseStays t) (g : t.phaseStays u) : s.phaseStays u := Eq.trans g h

theorem phaseStays_of_follows {s t : State} {T : List Field} (h : s.follows T t) (power : Field.power ∉ T) : s.phaseStays t :=
  congrArg Power.phase (h.frame .power power)

/-- A frame without the power registers, for what follows within it. -/
def calm : List Field := Field.but [.power]

theorem phaseStays_of_calm {s t : State} (h : s.follows calm t) : s.phaseStays t := phaseStays_of_follows h (by decide)

theorem phaseStays_foldl {α : Type} {f : State → α → State} (step : ∀ t x, State.phaseStays t (f t x)) (xs : List α)
    (s : State) : s.phaseStays (xs.foldl f s) :=
  foldl_keeps (g := fun t => t.power.phase) (fun t x _ => step t x) s

theorem phaseStays_ite {s a b : State} {p : Prop} [Decidable p] (ha : s.phaseStays a) (hb : s.phaseStays b) :
    s.phaseStays (if p then a else b) := by
  split <;> assumption

/-- A fault may ask for a reset; the module stays in its phase (R343). -/
theorem phase_keptByFaults : KeptByFaults fun s => s.power.phase where
  frame h := phaseStays_of_follows h (by decide)
  facet s _ _ := phaseStays_of_calm (fenceFacet_follows (by decide) (State.follows_refl _ s))
  port s _ := phaseStays_of_calm (portDownCore_follows (by decide) (State.follows_refl _ s))
  reset _ _ := rfl

theorem phaseStays_raiseN (n : Nat) (s : State) (col : Nat) (mask : BitVec 64) (acc : Access) (u : UnitName) :
    s.phaseStays (raiseN n s col mask acc u) := phase_keptByFaults.raise ..

theorem phaseStays_raiseSrc (s : State) (col src : Nat) (u : UnitName) : s.phaseStays (raiseSrc s col src u) :=
  phaseStays_raiseN ..

/-! ## Streams keep the phase -/

theorem phaseStays_streamFault (s : State) (sid : Nat) : s.phaseStays (streamFault s sid) := by
  unfold streamFault raiseStreamFaults
  split
  · rfl
  · refine (phaseStays_of_calm (abortTask_follows (by decide) (State.follows_refl _ s))).trans (phaseStays_foldl (fun t d => ?_) _ _)
    exact phaseStays_ite (phaseStays_raiseSrc ..) (phaseStays_raiseSrc ..)

theorem phaseStays_lostRead (s : State) (c coll off : Nat) : s.phaseStays (lostRead s c coll off) :=
  (phaseStays_of_calm (bump_follows (by decide) (State.follows_refl _ s))).trans (phaseStays_raiseN ..)

theorem phaseStays_issueOne (s : State) (r : Stream) (t : Task) (p : Piece) (rest : List Piece) :
    s.phaseStays (issueOne s r t p rest) := by
  have start := State.follows_refl calm s
  have slot {u : State} (x : Slot) (h : s.follows calm u) : s.follows calm (issueSlot u r p x rest) := issueSlot_follows (by decide) h
  have passed {u : State} (h : s.phaseStays u) : s.phaseStays (issueOne.passRings u) := h
  have gone {u : State} (cause : Nat) (h : s.phaseStays u) : s.phaseStays (pieceLost u r t p.off p.len cause) :=
    h.trans (phaseStays_of_calm (pieceLost_follows (by decide) (State.follows_refl _ u)))
  unfold issueOne
  extract_lets at_ dead
  refine phaseStays_ite (phaseStays_streamFault ..) ?_
  split
  · refine phaseStays_ite (phaseStays_streamFault ..) (phaseStays_ite (phaseStays_streamFault ..) ?_)
    exact phaseStays_of_calm (slot _ (drawBool_follows (by decide) start))
  · split
    · exact phaseStays_streamFault ..
    · dsimp only
      split
      · exact passed (gone _ (phaseStays_of_calm (slot _ start)))
      · have short (why : Option (Nat × Bool)) :
            s.follows calm (match why with | some (cause, _) => pieceShort s r t p.off p.len cause | none => s) := by
          split
          · exact pieceShort_follows (by decide) start
          · exact start
        split
        · exact (phaseStays_of_calm (short _)).trans (phaseStays_streamFault ..)
        · exact passed (gone _ ((phaseStays_of_calm (slot _ (short _))).trans (phaseStays_lostRead ..)))
        · exact passed (gone _ (phaseStays_of_calm (slot _ (short _))))
        · exact phaseStays_ite (phaseStays_of_calm (slot _ (short _))) (passed (gone _ (phaseStays_of_calm (slot _ (short _)))))
        · exact phaseStays_of_calm (slot _ (drawBool_follows (by decide) (short _)))
        · exact phaseStays_of_calm (slot _ (drawBool_follows (by decide) (short _)))
        · exact phaseStays_of_calm (slot _ (short _))

theorem phaseStays_issueN (n : Nat) (s : State) (sid : Nat) : s.phaseStays (issueN n s sid) := by
  induction n generalizing s with
  | zero => rfl
  | succ n ih =>
    unfold issueN
    split
    · rfl
    · split
      · refine phaseStays_ite rfl ?_
        split
        · next s1 prepared =>
          exact ((phaseStays_of_calm (prepareIssue_follows (by decide) (State.follows_refl _ s) prepared)).trans
            (phaseStays_issueOne ..)).trans (ih _)
        · rfl
      · rfl

theorem phaseStays_issueWaiting (s : State) (sid : Nat) : s.phaseStays (issueWaiting s sid) := by
  unfold issueWaiting
  split
  · rfl
  · exact phaseStays_issueN ..

theorem phaseStays_issueAll (s : State) : s.phaseStays (issueAll s) := phaseStays_foldl phaseStays_issueWaiting _ _

/-- An instruction that keeps the phase for the stream that it finds keeps it whatever it finds. -/
theorem phaseStays_onInsn {s : State} {sid : Nat} {p : Nat → Bool} {f : Stream → State} (keeps : ∀ r, s.phaseStays (f r)) :
    s.phaseStays (onInsn s sid p f) := by
  unfold onInsn
  split
  · rfl
  · split
    · exact phaseStays_ite (keeps _) rfl
    · rfl

section
variable {s t : State}

theorem execRead_phase {sid : Nat} {x : BitVec 3} {f : BitVec 4} {imm : BitVec 48} (e : execRead sid x f imm s = .next t) :
    s.phaseStays t := by
  injection e with e
  subst e
  refine phaseStays_onInsn fun r => ?_
  have go : s.follows calm (if r.skipLeft = 0 then (true, s) else bitmapBit s r r.skipAt r.skipJ).2 := by
    split
    · exact State.follows_refl _ s
    · exact bitmapBit_follows (by decide) (State.follows_refl _ s)
  exact (phaseStays_of_calm (putStream_follows (by decide) go)).trans (phaseStays_issueWaiting ..)

theorem execGather_phase {sid : Nat} {x y : BitVec 3} {f : BitVec 4} {imm : BitVec 48} (e : execGather sid x y f imm s = .next t) :
    s.phaseStays t := by
  injection e with e
  subst e
  refine phaseStays_onInsn fun r => ?_
  exact (phaseStays_of_calm (putStream_follows (by decide) (State.follows_refl _ s))).trans (phaseStays_issueWaiting ..)

theorem execWrite_phase {sid : Nat} {x : BitVec 3} (e : execWrite sid x s = .next t) : s.phaseStays t := by
  injection e with e
  subst e
  refine phaseStays_onInsn fun r => ?_
  split
  · rfl
  · split
    · rfl
    · refine phaseStays_ite (phaseStays_streamFault ..) (State.phaseStays.trans (phaseStays_of_calm ?_) (phaseStays_issueAll _))
      exact putStream_follows (by decide) (putStream_follows (by decide)
        (streamWrite_follows (by decide) (State.follows_refl _ s)))

theorem execMsaop_phase {sid : Nat} {x : BitVec 3} {f : BitVec 4} (e : execMsaop sid x f s = .next t) : s.phaseStays t := by
  injection e with e
  subst e
  refine phaseStays_onInsn fun r => ?_
  split
  · rfl
  · split
    · rfl
    · refine phaseStays_ite (phaseStays_streamFault ..) ?_
      dsimp only
      have burst (d : SlotData) (op : Nat) (fmt : MsaFmt) (off : Nat) : s.follows calm
          (match d with | .bytes bs => msaBurst r op fmt off bs s | _ => s) := by
        split
        · exact msaBurst_follows (by decide) (State.follows_refl _ s)
        · exact State.follows_refl _ s
      refine phaseStays_ite ((phaseStays_of_calm (burst ..)).trans (phaseStays_streamFault ..)) ?_
      exact (phaseStays_of_calm (putStream_follows (by decide) (putStream_follows (by decide) (burst ..)))).trans
        (phaseStays_issueAll _)

end

/-! ## The power-up reads the lifecycle (R336, R368) -/

/-- A module that comes up has read the lifecycle fuses into the lifecycle in force. -/
def State.readsLifecycle (t : State) : Prop := t.power.phase = .up → t.locket.lifecycle = t.locket.fuses.lifecycle

theorem stepTwo_reads (s : State) : (stepTwo s).readsLifecycle := by
  intro up
  by_cases fuses : fusesOk s.locket = true
  · have kept : (stepTwo s).locket.fuses = s.locket.fuses := by
      simp only [stepTwo, fuses, if_true]
      rfl
    rw [stepTwo_lifecycle fuses, kept]
  · obtain ⟨power, -⟩ := stepTwo_fails (eq_false_of_ne_true fuses)
    rw [power] at up
    exact absurd up nofun

theorem restart_reads (s : State) : (restart s).readsLifecycle := by
  unfold restart
  dsimp only
  split
  · exact stepTwo_reads _
  · exact fun up => absurd up nofun

/-- A module that powers down is not up. -/
theorem powerDown_reads (s : State) : (powerDown s).readsLifecycle := by
  intro up
  have phase : (powerDown s).power.phase = if (loseVolatile s).power.pwrEn then .starting else .off := rfl
  rw [phase] at up
  split at up <;> exact absurd up (by decide)

theorem flushDone_reads {s : State} (off : s.power.phase ≠ .up) : (flushDone s).readsLifecycle := by
  unfold flushDone
  dsimp only
  split
  · exact powerDown_reads _
  · split
    · exact restart_reads _
    · have drained : s.phaseStays (drainAll s) :=
        phaseStays_of_calm (drainAll_follows (by decide) (State.follows_refl _ s))
      exact fun up => absurd (drained.symm.trans up) off

theorem receive_off {s : State} (off : isUp s = false) (op : BitVec 8) (c : Capsule) (d : State → Cmd → State) :
    receive op c d s = s := by
  unfold receive
  split
  · rfl
  · rw [if_pos (by simp [off])]

/-- A command that a module takes while it is not up leaves it so, or brings it up through step 2, which reads the lifecycle
(R336, R368). -/
theorem exec_reads {i : Instr} {s t : State} (e : exec i s = .next t) (asleep : s.power.phase ≠ .up) : t.readsLifecycle := by
  have off : isUp s = false := by simpa [isUp] using asleep
  have stays (h : s.phaseStays t) : t.readsLifecycle := fun up => absurd (h.symm.trans up) asleep
  have idle (h : exec i s = .next s) : t.readsLifecycle :=
    stays (congrArg (fun x : State => x.power.phase) (Host.Outcome.next.inj (e.symm.trans h)))
  by_cases moved : Field.power ∈ touched i
  case neg => exact stays (phaseStays_of_follows (exec_follows e) moved)
  cases i
  case search | searchRange | readItem | insert | delete | upsert | flush | filterPut | filterDrop | learnStart
      | learnStop | epochPromote | mergeHint | identify | collectionCreate | collectionDelete | collectionAttach
      | collectionDetach | queueCreate | queueDelete | settingLoad | firmwareLoad | attest | powerState | keyLoad
      | mgmtRead | mgmtWrite | eventArm =>
    exact idle (congrArg Host.Outcome.next (receive_off off ..))
  case data | hostPortDown | osfpCageOvercurrent | hostifLoopback | linkTimeExchange | bringUpInterval | overvoltage
      | railDroop | holdupMeasurement | moduleReset | pllUnlock | preparationEnd | entryProperComplete | exitComplete
      | hbmStackTempRise | hardwareTrip | sourceLatch | fcolForce | facetBistDone | hbmRetrainEnd | hbmRetrainTimeout
      | prongTestDone | linkTrainingComplete | ident | discoveryTimeout | linkDown | retry | faultNotice | repairNotice
      | fabricLoopback | fabricSetDown | revokeSlot | advanceLifecycle | debugOpen | setDebugLock | hubHotClear
      | osfpModuleRemoved =>
    exact idle (congrArg Host.Outcome.next (if_neg (by simp [off])))
  case beadEdge =>
    exact idle (congrArg Host.Outcome.next (if_neg (by simp [beadsRun, off])))
  case commandReady | recoveryLadderEnd | pieceComplete | slotTake | slotFinish | readItemReply | optimiserUpdate
      | partialSettingFence =>
    refine idle (congrArg Host.Outcome.next ?_)
    simp only [off, Bool.not_false, Bool.true_or, Bool.false_and, Bool.false_eq_true, if_true, if_false]
    repeat' split
    all_goals rfl
  case ethernetFrame | collectorSelf | blockResetComplete | coreWatchdogExpiry | hbmMbist | mgmtAccess | query | bundleEnd
      | bundleAck | bundleDrop | list | gatherReq | gatherRows =>
    exact idle (congrArg Host.Outcome.next (if_pos (by simp [off])))
  case read => exact stays (execRead_phase e)
  case gather => exact stays (execGather_phase e)
  case write => exact stays (execWrite_phase e)
  case msaop => exact stays (execMsaop_phase e)
  case inputStepFall | inputStepRise =>
    injection (Eq.trans (congrArg Host.Outcome.next (if_neg (by simp [off]))).symm e) with left
    exact stays (left ▸ rfl)
  case thermalCrossing x v =>
    injection (Eq.trans (congrArg Host.Outcome.next (if_neg (by simp [off]))).symm e) with left
    subst left
    refine stays ?_
    unfold coolTherm
    cases x with
    | facet f => rfl
    | die d => exact phaseStays_ite rfl rfl
    | hub => exact phaseStays_ite rfl rfl
    | flash c => exact phaseStays_ite rfl rfl
  case pwrEnRise =>
    injection e with left
    subst left
    intro up
    rw [modPower_power] at up
    split at up
    · exact absurd up nofun
    · exact absurd up asleep
  case powerGood =>
    injection e with left
    subst left
    split
    · dsimp only
      split
      · exact stepTwo_reads _
      · exact fun up => absurd up nofun
    · exact fun up => absurd up asleep
  case resetNRelease =>
    injection e with left
    subst left
    split
    · exact stepTwo_reads _
    · exact fun up => absurd up asleep
  case resetNLow =>
    injection e with left
    subst left
    split
    · exact fun up => absurd up asleep
    · dsimp only
      split
      · next awake => exact absurd awake asleep
      · exact fun up => absurd up nofun
      · exact fun up => absurd up asleep
  case pwrEnFall =>
    injection e with left
    subst left
    split
    · next awake => exact absurd awake asleep
    · exact fun up => absurd up asleep
    · exact fun up => absurd up asleep
    · exact powerDown_reads _
    · exact powerDown_reads _
    · exact powerDown_reads _
  case holdupFlushComplete =>
    injection e with left
    subst left
    split
    · exact flushDone_reads asleep
    · exact fun up => absurd up asleep
  all_goals exact absurd moved (by dsimp only [touched]; decide)

end Sys2Proof.Machine

/-! The lifecycle in force while the module is up (O60): no load, no token, no register and no edge changes it (R368). -/

namespace Sys2Proof.Machine

/-- The lifecycle in force stays. -/
def State.lifecycleStays (s t : State) : Prop := t.locket.lifecycle = s.locket.lifecycle

theorem State.lifecycleStays.trans {s t u : State} (h : s.lifecycleStays t) (g : t.lifecycleStays u) : s.lifecycleStays u :=
  Eq.trans g h

theorem lifecycleStays_of_follows {s t : State} {T : List Field} (h : s.follows T t) (locket : Field.locket ∉ T) :
    s.lifecycleStays t :=
  congrArg Locket.lifecycle (h.frame .locket locket)

/-- A frame without the locket, for what follows within it. -/
def lockedIn : List Field := Field.but [.locket]

theorem lifecycleStays_of_locked {s t : State} (h : s.follows lockedIn t) : s.lifecycleStays t :=
  lifecycleStays_of_follows h (by decide)

theorem lifecycleStays_ite {s a b : State} {p : Prop} [Decidable p] (ha : s.lifecycleStays a) (hb : s.lifecycleStays b) :
    s.lifecycleStays (if p then a else b) := by
  split <;> assumption

theorem lifecycleStays_foldl {α : Type} {f : State → α → State} (step : ∀ t x, State.lifecycleStays t (f t x)) (xs : List α)
    (s : State) : s.lifecycleStays (xs.foldl f s) :=
  foldl_keeps (g := fun t => t.locket.lifecycle) (fun t x _ => step t x) s

/-- Extending a measurement register leaves the lifecycle. -/
theorem lifecycleStays_extendMeas (s : State) (i : Nat) (d : BitVec 256) : s.lifecycleStays (extendMeas s i d) := rfl

/-- A token burns the lifecycle fuses at most: the lifecycle in force stays until the next power-up (R368, R373). -/
theorem lifecycleStays_tokenGo (s : State) : s.lifecycleStays (tokenGo s) := by
  have go := congrArg Locket.lifecycle (tokenGo_locket s)
  refine go.trans ?_
  by_cases refused : tokenResult s ≠ 1
  · rw [tokenDone_refused refused]
  · by_cases opens : fieldB (tokenBytes s) 4 1 = 3
    · rw [opens, tokenDone_debug (not_ne_iff.mp refused)]
      rfl
    · rcases tokenDone_burn (arg := fieldB (tokenBytes s) 6 1) (not_ne_iff.mp refused) opens with done | done
      · have kept := congrArg Locket.lifecycle
          (burnFails_locket (drawBool s).2 (fieldB (tokenBytes s) 4 1) (fieldB (tokenBytes s) 6 1))
        rw [done]
        exact kept
      · rw [done]
        rfl

theorem lifecycleStays_tokenRow (s : State) (action : Nat) : s.lifecycleStays (tokenRow s action) :=
  lifecycleStays_ite (lifecycleStays_tokenGo s) rfl

theorem lifecycleStays_replyOk (s : State) (c : Cmd) (area : BitVec 320) (body : List Byte) :
    s.lifecycleStays (replyOk s c area body) :=
  lifecycleStays_of_locked (replyOk_follows (by decide) (State.follows_refl _ s))

theorem lifecycleStays_refusePart (s : State) (c : Cmd) (st : BitVec 16) : s.lifecycleStays (refusePart s c st) :=
  lifecycleStays_of_locked (refusePart_follows (by decide) (State.follows_refl _ s))

theorem lifecycleStays_replyRefuse (s : State) (c : Cmd) (st : BitVec 16) : s.lifecycleStays (replyRefuse s c st) :=
  lifecycleStays_of_locked (replyRefuse_follows (by decide) (State.follows_refl _ s))

theorem lifecycleStays_writeReg (s : State) (sel a v : Nat) : s.lifecycleStays (writeReg s sel a v) := by
  have start := State.follows_refl lockedIn s
  unfold writeReg
  refine lifecycleStays_ite (lifecycleStays_ite (lifecycleStays_of_locked (snapSpace_follows (by decide) start)) rfl) ?_
  refine lifecycleStays_ite (lifecycleStays_of_locked (clearSpace_follows (by decide) start)) ?_
  refine lifecycleStays_ite (lifecycleStays_of_locked (writeSelect_follows (by decide) start)) ?_
  refine lifecycleStays_ite (lifecycleStays_ite rfl (lifecycleStays_ite (lifecycleStays_tokenGo s) rfl)) ?_
  refine lifecycleStays_ite rfl ?_
  refine lifecycleStays_ite (lifecycleStays_of_locked (writePower_follows (by decide) start)) ?_
  refine lifecycleStays_ite (lifecycleStays_of_locked (writeCollector_follows (by decide) start)) ?_
  refine lifecycleStays_ite (lifecycleStays_of_locked (writePort_follows (by decide) start)) ?_
  refine lifecycleStays_ite (lifecycleStays_of_locked (writeMgmtAddr_follows (by decide) start)) ?_
  refine lifecycleStays_ite (lifecycleStays_of_locked (writeLink_follows (by decide) start)) ?_
  refine lifecycleStays_ite (lifecycleStays_of_locked (writeStack_follows (by decide) start)) ?_
  refine lifecycleStays_ite (lifecycleStays_of_locked (writeNear_follows (by decide) start)) ?_
  refine lifecycleStays_ite (lifecycleStays_of_locked (writeFlash_follows (by decide) start)) ?_
  refine lifecycleStays_ite (lifecycleStays_of_locked (writeLearn_follows (by decide) start)) ?_
  split
  · exact lifecycleStays_ite (lifecycleStays_of_locked (writeCollector_follows (by decide) start))
      (lifecycleStays_of_locked (writeFacet_follows (by decide) start))
  · rfl

/-! ## Commands -/

section
variable {s : State} {c : Cmd}

theorem lifecycleStays_applyFirmware (s : State) (v : BitVec 32) (d : BitVec 256) : s.lifecycleStays (applyFirmware s v d) := by
  have trained (t : State) : t.lifecycleStays ((List.range 64).foldl trainFlash
      ((List.range 2048).foldl testBank ((List.range 256).foldl trainHbm t))) :=
    lifecycleStays_of_locked (foldl_follows _ _ (fun t x h => trainFlash_follows (by decide) h) _
      (foldl_follows _ _ (fun t x h => testBank_follows (by decide) h) _
        (foldl_follows _ _ (fun t x h => trainHbm_follows (by decide) h) _ (State.follows_refl _ _))))
  exact trained (extendMeas (s.modLoader fun l => { l with firmware := true, fwVersion := v, fwDigest := d }) 1 d)

theorem lifecycleStays_completeFirmware (bs : List Byte) : s.lifecycleStays (completeFirmware s c bs) := by
  unfold completeFirmware
  split
  · exact lifecycleStays_replyRefuse ..
  · refine lifecycleStays_ite (lifecycleStays_replyRefuse ..) (State.lifecycleStays.trans ?_ (lifecycleStays_replyOk ..))
    exact lifecycleStays_applyFirmware ..

theorem lifecycleStays_applySetting (t : Setting) (d : BitVec 256) : s.lifecycleStays (applySetting s t d) := by
  unfold applySetting
  refine State.lifecycleStays.trans (lifecycleStays_of_locked ?_) (lifecycleStays_extendMeas _ 2 _)
  have sections := applySections_follows (T := lockedIn) (t := t) (d := d) (by decide)
    (modQueues_follows (f := fun u => { u with queues := u.queues.filter fun (q, _) => q < 16 }) (by decide) (State.follows_refl _ s))
  exact checkDiscovery_follows (by decide) (applyFabric_follows (by decide) (applyBead_follows (by decide)
    (foldl_follows _ _ (fun t x h => loadProngTest_follows (by decide) h) _
      (foldl_follows _ _ (fun t x h => loadBist_follows (by decide) h) _ sections))))

theorem lifecycleStays_completeSetting (group : Nat) (bs : List Byte) : s.lifecycleStays (completeSetting s c group bs) := by
  unfold completeSetting
  split
  · exact lifecycleStays_replyRefuse ..
  · refine lifecycleStays_ite (lifecycleStays_replyRefuse ..) (lifecycleStays_ite (lifecycleStays_replyRefuse ..)
      (lifecycleStays_ite ?_ ?_))
    · split
      · exact lifecycleStays_replyRefuse ..
      · exact lifecycleStays_ite (lifecycleStays_replyRefuse ..)
          ((lifecycleStays_applySetting _ _).trans (lifecycleStays_replyOk ..))
    · split
      · exact lifecycleStays_replyRefuse ..
      · split
        · exact lifecycleStays_replyRefuse ..
        · exact lifecycleStays_of_locked (modLoader_follows (by decide) (running_follows (by decide) (State.follows_refl _ s)))

theorem lifecycleStays_stagePart (o : OpenObj) (n : Nat) : s.lifecycleStays (stagePart s o n) :=
  lifecycleStays_of_locked (stagePart_follows (by decide) (State.follows_refl _ s))

theorem lifecycleStays_closeObject : s.lifecycleStays (closeObject s c) :=
  lifecycleStays_of_locked (closeObject_follows (by decide) (State.follows_refl _ s))

theorem lifecycleStays_decideFirmwareLoad : s.lifecycleStays (decideFirmwareLoad s c) := by
  unfold decideFirmwareLoad
  refine lifecycleStays_ite (lifecycleStays_refusePart ..) (lifecycleStays_ite (lifecycleStays_refusePart ..) ?_)
  split
  · exact lifecycleStays_refusePart ..
  · exact lifecycleStays_ite (lifecycleStays_closeObject.trans (lifecycleStays_completeFirmware _))
      ((lifecycleStays_stagePart ..).trans (lifecycleStays_replyOk ..))

theorem lifecycleStays_decideSettingLoad : s.lifecycleStays (decideSettingLoad s c) := by
  unfold decideSettingLoad
  refine lifecycleStays_ite (lifecycleStays_refusePart ..) ?_
  split
  · exact lifecycleStays_refusePart ..
  · exact lifecycleStays_ite (lifecycleStays_closeObject.trans (lifecycleStays_completeSetting _ _))
      ((lifecycleStays_stagePart ..).trans (lifecycleStays_replyOk ..))

theorem lifecycleStays_decideKeyLoad : s.lifecycleStays (decideKeyLoad s c) := by
  unfold decideKeyLoad
  dsimp only
  split
  · exact lifecycleStays_replyRefuse ..
  · exact lifecycleStays_replyOk (s.modLocket _) c 0 []

theorem lifecycleStays_decideMgmtWrite : s.lifecycleStays (decideMgmtWrite s c) := by
  unfold decideMgmtWrite
  refine lifecycleStays_ite rfl (lifecycleStays_ite (lifecycleStays_replyRefuse ..) ?_)
  split
  · exact lifecycleStays_replyRefuse ..
  · refine lifecycleStays_ite (lifecycleStays_replyRefuse ..) (State.lifecycleStays.trans ?_ (lifecycleStays_replyOk ..))
    exact lifecycleStays_foldl (fun t x => lifecycleStays_writeReg ..) _ _

/-- The decision of every opcode leaves the lifecycle in force. -/
theorem lifecycleStays_decideOp (s : State) (c : Cmd) : s.lifecycleStays (decideOp s c) := by
  have start := State.follows_refl lockedIn s
  unfold decideOp
  split
  · exact lifecycleStays_of_locked (decideSearch_follows (by decide) start)
  · exact lifecycleStays_of_locked (decideSearch_follows (by decide) start)
  · exact lifecycleStays_of_locked (decideReadItem_follows (by decide) start)
  · exact lifecycleStays_of_locked (decideItem_follows (by decide) start)
  · exact lifecycleStays_of_locked (decideItem_follows (by decide) start)
  · exact lifecycleStays_of_locked (decideDelete_follows (by decide) start)
  · exact lifecycleStays_of_locked (decideFlush_follows (by decide) start)
  · exact lifecycleStays_of_locked (decideFilterPut_follows (by decide) start)
  · exact lifecycleStays_of_locked (decideFilterDrop_follows (by decide) start)
  · exact lifecycleStays_of_locked (decideLearnStart_follows (by decide) start)
  · exact lifecycleStays_of_locked (decideLearnStop_follows (by decide) start)
  · exact lifecycleStays_of_locked (decidePromote_follows (by decide) start)
  · exact lifecycleStays_of_locked (decideMergeHint_follows (by decide) start)
  · exact lifecycleStays_of_locked (decideIdentify_follows (by decide) start)
  · exact lifecycleStays_of_locked (decideCreate_follows (by decide) start)
  · exact lifecycleStays_of_locked (decideDetach_follows (by decide) start)
  · exact lifecycleStays_of_locked (decideAttach_follows (by decide) start)
  · exact lifecycleStays_of_locked (decideDetach_follows (by decide) start)
  · exact lifecycleStays_of_locked (decideQueueCreate_follows (by decide) start)
  · exact lifecycleStays_of_locked (decideQueueDelete_follows (by decide) start)
  · exact lifecycleStays_decideSettingLoad
  · exact lifecycleStays_decideFirmwareLoad
  · exact lifecycleStays_of_locked (decideAttest_follows (by decide) start)
  · exact lifecycleStays_of_locked (decidePowerState_follows (by decide) start)
  · exact lifecycleStays_decideKeyLoad
  · exact lifecycleStays_of_locked (decideMgmtRead_follows (by decide) start)
  · exact lifecycleStays_decideMgmtWrite
  · exact lifecycleStays_of_locked (decideEventArm_follows (by decide) start)
  · exact lifecycleStays_replyRefuse ..

end

/-- A capsule leaves the lifecycle in force where its decision does. -/
theorem lifecycleStays_receive {d : State → Cmd → State} (keeps : ∀ t k, State.lifecycleStays t (d t k)) (s : State) (op : BitVec 8)
    (c : Capsule) : s.lifecycleStays (receive op c d s) := by
  unfold receive
  split
  · rfl
  · next k _ =>
    have start : s.follows lockedIn (setConn s c.conn { k with open_ := k.open_ + 1 }) :=
      setConn_follows (by decide) (State.follows_refl _ s)
    have taken {q t : Nat} {f : Queues → Queues} : s.follows lockedIn
        ((takeTag (setConn s c.conn { k with open_ := k.open_ + 1 }) q t).modQueues f) :=
      modQueues_follows (by decide) (takeTag_follows (by decide) start)
    refine lifecycleStays_ite rfl (lifecycleStays_ite (lifecycleStays_of_locked (refuseRaw_follows (by decide) start)) ?_)
    refine lifecycleStays_ite (lifecycleStays_of_locked (dropObjects_follows (by decide) (refuse_follows (by decide) taken))) ?_
    exact lifecycleStays_ite ((lifecycleStays_of_locked (wakeUp_follows (by decide) taken)).trans (keeps _ _))
      (lifecycleStays_of_locked (wakeUp_follows (by decide) taken))

/-! ## Datagrams and frames -/

section
variable {s : State}

theorem lifecycleStays_sendAck (id : Nat) (seq : BitVec 32) : s.lifecycleStays (sendAck s id seq) :=
  lifecycleStays_of_locked (sendAck_follows (by decide) (State.follows_refl _ s))

theorem lifecycleStays_takeCapsule (port conn : Nat) (seq : BitVec 32) (bs : List Byte) :
    s.lifecycleStays (takeCapsule s port conn seq bs) := by
  unfold takeCapsule
  exact lifecycleStays_ite (lifecycleStays_sendAck ..)
    ((lifecycleStays_sendAck ..).trans (lifecycleStays_receive lifecycleStays_decideOp _ _ _))

theorem lifecycleStays_takeSegment (d : DataDg) (c : Conn) : s.lifecycleStays (takeSegment s d c) := by
  unfold takeSegment
  extract_lets asm s1
  have first : s.lifecycleStays s1 :=
    lifecycleStays_of_locked (setConn_follows (by decide) (updPort_follows (by decide) (State.follows_refl _ s)))
  refine lifecycleStays_ite ?_ first
  clear_value s1 asm
  split
  · exact first.trans (lifecycleStays_takeCapsule ..)
  · exact first.trans (lifecycleStays_sendAck ..)

theorem lifecycleStays_takeData (d : DataDg) : s.lifecycleStays (takeData s d) := by
  have start := State.follows_refl lockedIn s
  unfold takeData
  split
  · exact lifecycleStays_of_locked (emit_follows (by decide) (sendLoose_follows (by decide) start))
  · have heard : s.follows lockedIn (ackUpTo (heardOn s d.conn d.port) d.conn d.ackSeq) :=
      ackUpTo_follows (by decide) (heardOn_follows (by decide) start)
    dsimp only
    split
    · exact lifecycleStays_of_locked heard
    · exact lifecycleStays_ite
        (lifecycleStays_ite (lifecycleStays_of_locked (sendNak_follows (by decide) heard))
          ((lifecycleStays_of_locked heard).trans (lifecycleStays_takeSegment _ _)))
        (lifecycleStays_ite (lifecycleStays_of_locked (sendAck_follows (by decide) (bump_follows (by decide) heard)))
          (lifecycleStays_of_locked (sendNak_follows (by decide) heard)))

theorem lifecycleStays_takeReune (f : Frame) (src : BitVec 128) (srcPort : Nat) (bs : List Byte) :
    s.lifecycleStays (takeReune s f src srcPort bs) := by
  have start := State.follows_refl lockedIn s
  unfold takeReune
  refine lifecycleStays_ite rfl ?_
  split
  · exact lifecycleStays_of_locked (acceptConn_follows (by decide) start)
  · exact lifecycleStays_takeData _
  · exact lifecycleStays_of_locked (takeAck_follows (by decide) start)
  · exact lifecycleStays_of_locked (takeClose_follows (by decide) start)
  · rfl

theorem lifecycleStays_takeFrame (f : Frame) : s.lifecycleStays (takeFrame s f) := by
  have start := State.follows_refl lockedIn s
  unfold takeFrame
  split
  · exact lifecycleStays_of_locked (emit_follows (by decide) (sendFrame_follows (by decide) start))
  · exact lifecycleStays_of_locked (emit_follows (by decide) (sendFrame_follows (by decide) start))
  · exact lifecycleStays_of_locked (emit_follows (by decide) (sendFrame_follows (by decide) start))
  · exact lifecycleStays_of_locked (takePtp_follows (by decide) start)
  · exact lifecycleStays_ite (lifecycleStays_of_locked (bump_follows (by decide) start))
      (lifecycleStays_ite (lifecycleStays_takeReune ..) rfl)
  · exact lifecycleStays_ite (lifecycleStays_of_locked (bump_follows (by decide) start)) rfl
  · rfl
  · rfl

/-! ## The work of a collection, and the edge -/

theorem lifecycleStays_dropKey (s : State) (id : Nat) : s.lifecycleStays (dropKey s id) := rfl

theorem lifecycleStays_removeColl (id : Nat) (c : Coll) : s.lifecycleStays (removeColl s id c) := by
  unfold removeColl
  extract_lets s1 s2 s3
  have objects : s.lifecycleStays s3 := lifecycleStays_of_locked (dropObjects_follows (by decide)
    (modFlash_follows (by decide) (modPools_follows (by decide) (State.follows_refl _ s))))
  have counts := lifecycleStays_of_locked (dropCounts_follows (s := { s3 with colls := s3.colls.del id })
    (p := fun k => k.coll == id) (by decide) (State.follows_refl _ _))
  have bare : s3.lifecycleStays { s3 with colls := s3.colls.del id } := rfl
  exact objects.trans (bare.trans (counts.trans (lifecycleStays_dropKey _ id)))

theorem lifecycleStays_endWork (id : Nat) (c : Coll) (r : CmdRef) (isDelete : Bool) :
    s.lifecycleStays (endWork s id c r isDelete) := by
  unfold endWork
  extract_lets s1 s2 done s3 s4
  have h1 : s.lifecycleStays s1 :=
    lifecycleStays_ite rfl (lifecycleStays_of_locked (releaseTiers_follows (by decide) (State.follows_refl _ s)))
  have h3 : s.lifecycleStays s3 := lifecycleStays_ite (h1.trans (lifecycleStays_removeColl (s := s2) _ _)) h1
  have h4 : s.lifecycleStays s4 :=
    h3.trans (lifecycleStays_of_locked (answer_follows (by decide) (State.follows_refl _ s3)))
  split
  · exact h4.trans (lifecycleStays_of_locked (answer_follows (by decide) (State.follows_refl _ s4)))
  · exact h4

theorem lifecycleStays_partialRelease : s.lifecycleStays (partialRelease s) := by
  unfold partialRelease
  split
  · next p _ =>
    refine lifecycleStays_ite ?_ rfl
    have released : s.lifecycleStays ((releasePartial s).modLoader fun l => { l with part := none, partialCnt := l.partialCnt + 1 }) :=
      rfl
    exact (released.trans (lifecycleStays_extendMeas _ 3 p.digest)).trans
      (lifecycleStays_of_locked (answer_follows (by decide) (State.follows_refl _ _)))
  · rfl

theorem lifecycleStays_unitsEdge : s.lifecycleStays (unitsEdge s) := by
  have actions := lifecycleStays_of_locked (intervalActions_follows (by decide) (State.follows_refl lockedIn s))
  have edge (t : State) : t.lifecycleStays (mapEdge (hbmEdge (partialRelease t))) :=
    lifecycleStays_partialRelease.trans
      (lifecycleStays_of_locked (mapEdge_follows (by decide) (hbmEdge_follows (by decide) (State.follows_refl _ _))))
  have released (t : State) : t.lifecycleStays (releases t) := edge _
  exact (actions.trans (released _)).trans
    (lifecycleStays_of_locked (shedEdge_follows (by decide) (settingEdge_follows (by decide) (State.follows_refl _ _))))

theorem lifecycleStays_beadEdge (pkgMw : Nat) (ord : List Nat) : s.lifecycleStays (beadEdge pkgMw ord s) := by
  unfold beadEdge
  extract_lets s0 b s1 s2 s3
  have h1 : s.lifecycleStays s1 :=
    (lifecycleStays_of_locked (newBead_follows (by decide) (repliesDue_follows (by decide)
      (admissionGap_follows (by decide) (State.follows_refl _ s))))).trans lifecycleStays_unitsEdge
  have h2 : s1.follows lockedIn s2 := learnEdge_follows (by decide) (collsEdge_follows (by decide) (State.follows_refl _ s1))
  have h3 : s1.follows lockedIn s3 :=
    packageEdge_follows (by decide) (branchesEdge_follows (by decide) (applyDue_follows (by decide) h2))
  exact h1.trans (lifecycleStays_of_locked (actEarly_follows (by decide) (launchEdge_follows (by decide) h3)))

end

/-! ## The obligation -/

/-- A module that stays up, without a reset and without the end of a flush, keeps its lifecycle in force (R368). -/
theorem exec_lifecycle {i : Instr} {s t : State} (e : exec i s = .next t) (up : s.power.phase = .up) (still : t.power.phase = .up)
    (noReset : i ≠ .moduleReset) (noFlush : i ≠ .holdupFlushComplete) : s.lifecycleStays t := by
  by_cases moved : Field.locket ∈ touched i
  case neg => exact lifecycleStays_of_follows (exec_follows e) moved
  cases i
  case settingLoad c =>
    injection e with left
    exact left ▸ lifecycleStays_receive (fun _ _ => lifecycleStays_decideSettingLoad) s _ c
  case firmwareLoad c =>
    injection e with left
    exact left ▸ lifecycleStays_receive (fun _ _ => lifecycleStays_decideFirmwareLoad) s _ c
  case keyLoad c =>
    injection e with left
    exact left ▸ lifecycleStays_receive (fun _ _ => lifecycleStays_decideKeyLoad) s _ c
  case mgmtWrite c =>
    injection e with left
    exact left ▸ lifecycleStays_receive (fun _ _ => lifecycleStays_decideMgmtWrite) s _ c
  case revokeSlot | advanceLifecycle | debugOpen | setDebugLock =>
    injection e with left
    exact left ▸ lifecycleStays_tokenRow s _
  case commandReady =>
    injection e with left
    subst left
    split
    · rfl
    · exact lifecycleStays_ite (lifecycleStays_decideOp ..) rfl
  case data d =>
    injection e with left
    exact left ▸ lifecycleStays_ite (lifecycleStays_takeData d) rfl
  case ethernetFrame f =>
    injection e with left
    subst left
    have counted (a : Nat) : s.lifecycleStays (bump s a) :=
      lifecycleStays_of_locked (bump_follows (by decide) (State.follows_refl _ s))
    exact lifecycleStays_ite rfl (lifecycleStays_ite (counted _) (lifecycleStays_ite (counted _) (lifecycleStays_ite (counted _)
      (lifecycleStays_ite (lifecycleStays_takeFrame f) rfl))))
  case collectionWorkEnd =>
    injection e with left
    subst left
    split
    · rfl
    · split
      · rfl
      · exact lifecycleStays_ite (lifecycleStays_endWork ..) rfl
  case beadEdge pkgMw ord =>
    injection e with left
    exact left ▸ lifecycleStays_ite (lifecycleStays_beadEdge pkgMw ord) rfl
  case powerGood =>
    injection e with left
    rw [if_neg (by simp [up])] at left
    exact left ▸ rfl
  case resetNRelease =>
    injection e with left
    rw [if_neg (by simp [up])] at left
    exact left ▸ rfl
  case pwrEnFall =>
    rw [exec_pwrEnFall_up up] at e
    injection e with left
    rw [← left, (shutDown_power _).1] at still
    exact absurd still nofun
  case moduleReset => exact absurd rfl noReset
  case holdupFlushComplete => exact absurd rfl noFlush
  all_goals exact absurd moved (by dsimp only [touched]; decide)

/-- The fuse codes in use, and their order of bits: a later code sets every bit of an earlier one. -/
theorem lifecycle_or {x y : BitVec 4} (known : x ∈ [0, 1, 3, 7]) (later : y ∈ [0, 1, 3, 7]) (above : x.toNat < y.toNat) :
    x ||| y = y := by
  revert known later above
  revert x y
  decide

/-- A token may ask for any later code in use, and for none other (R368). -/
theorem tokenPermitted_lifecycle (s : State) (code slot : Nat) : tokenPermitted s 2 code slot = true ↔
    code ∈ [0, 1, 3, 7] ∧ s.locket.fuses.lifecycle.toNat < code := by
  simp only [tokenPermitted, Bool.and_eq_true, decide_eq_true_iff]
  refine and_congr_left fun _ => ?_
  constructor
  · rintro ⟨small, known⟩
    interval_cases code <;> revert known <;> decide
  · intro known
    simp only [List.mem_cons, List.not_mem_nil, or_false] at known
    rcases known with rfl | rfl | rfl | rfl <;> decide

theorem permitted_of_result {s : State} (one : tokenResult s = 1) :
    tokenPermitted s (fieldB (tokenBytes s) 4 1) (fieldB (tokenBytes s) 6 1) (fieldB (tokenBytes s) 5 1) = true := by
  unfold tokenResult at one
  dsimp only at one
  by_contra refused
  split_ifs at one <;> omega

/-- A token that advances the lifecycle burns the code asked for, or some of its bits (R368, R373). -/
theorem tokenGo_lifecycle {s : State} (known : s.locket.fuses.lifecycle ∈ [0, 1, 3, 7]) (asked : fieldB (tokenBytes s) 4 1 = 2)
    (one : tokenResult s = 1) :
    (tokenGo s).locket.tokenResult = 1 ∧ (tokenGo s).locket.fuses.lifecycle = BitVec.ofNat 4 (fieldB (tokenBytes s) 6 1) ∨
      (tokenGo s).locket.tokenResult = 6 ∧ s.locket.fuses.burnsTo (tokenGo s).locket.fuses := by
  have may := permitted_of_result one
  rw [asked, tokenPermitted_lifecycle] at may
  obtain ⟨code, later⟩ := may
  have go := tokenGo_locket s
  dsimp only at go
  rw [asked] at go
  rcases tokenDone_burn (arg := fieldB (tokenBytes s) 6 1) one (show 2 ≠ 3 by decide) with done | done
  · have burns : s.locket.fuses.burnsTo (burnFails (drawBool s).2 2 (fieldB (tokenBytes s) 6 1)).locket.fuses := by
      rw [burnFails_locket]
      exact partly_burns _ _ _
    rw [done] at go
    rw [go]
    exact Or.inr ⟨rfl, burns⟩
  · rw [done] at go
    rw [go]
    refine Or.inl ⟨rfl, ?_⟩
    have asks : BitVec.ofNat 4 (fieldB (tokenBytes s) 6 1) ∈ [(0 : BitVec 4), 1, 3, 7] ∧
        (BitVec.ofNat 4 (fieldB (tokenBytes s) 6 1)).toNat = fieldB (tokenBytes s) 6 1 := by
      generalize fieldB (tokenBytes s) 6 1 = n at code
      simp only [List.mem_cons, List.not_mem_nil, or_false] at code
      rcases code with rfl | rfl | rfl | rfl <;> decide
    exact lifecycle_or known asks.1 (asks.2.symm ▸ later)

/-- Settles O60: every command burns fuses or leaves them, a token burns a later code, and the lifecycle in force is read at step 2
and stays while the module is up. -/
theorem lifecycleForward : Obligations.LifecycleForward := by
  unfold Obligations.LifecycleForward
  refine ⟨fun i s t e => ?_, tokenPermitted_lifecycle, fun s up live known asked one => ⟨_, rfl, ?_⟩,
    fun i s t e up still noReset noFlush => exec_lifecycle e up still noReset noFlush, fun i s t e off => exec_reads e off⟩
  · obtain ⟨-, -, -, -, -, forward, -⟩ := (exec_follows e).fuses
    exact forward
  · beta_reduce
    rw [tokenRow_go up live asked]
    exact ⟨lifecycleStays_tokenGo s, tokenGo_lifecycle known asked one⟩

end Sys2Proof.Machine

/-! Loads (O48, O49): the parts of an image and of a setting, the order of the checks on the whole, and what a load that passes them
leaves (R278, R280, R329, R330, R333, R369, R370). -/

namespace Sys2Proof.Machine

/-! ## What the loader has loaded -/

/-- The loader without what faults, discovery and the parts under way move: the map with its pending substitutions, the state of
discovery and the bytes staged. -/
def Loader.image (l : Loader) : Loader :=
  { l with map := [], pending := [], staging := 0, discovering := false, discovered := false }

theorem fenceFacet_image (s : State) (f reason : Nat) : (fenceFacet s f reason).loader.image = s.loader.image := by
  unfold fenceFacet
  extract_lets isFault fault was known l s1 s2
  have lost : (facetLost s f).loader = s.loader :=
    (facetLost_follows (List.Subset.refl _) (State.follows_refl _ s)).frame .loader (by decide)
  have h2 : s2.loader.image = s.loader.image := by
    show s1.loader.image = _
    dsimp only [s1]
    split
    · rfl
    · rw [lost]
  split
  · exact h2
  · split
    · exact h2
    · exact h2

theorem dropObjects_image (s : State) (p : OpenObj → Bool) : (dropObjects s p).loader.image = s.loader.image := rfl

theorem orphan_image (s : State) (conn : Nat) : (orphan s conn).loader.image = s.loader.image := by
  unfold orphan
  extract_lets qs f g s1 s2 s3
  have h2 : s2.loader = s.loader := by
    dsimp only [s2]
    split <;> rfl
  have h3 : s3.loader = s.loader := by
    dsimp only [s3]
    split
    · exact h2
    · exact h2
  exact (dropObjects_image ..).trans (congrArg Loader.image h3)

theorem failConn_image (s : State) (id cause : Nat) : (failConn s id cause).loader.image = s.loader.image := by
  unfold failConn
  split
  · rfl
  · next c _ =>
    split
    · rfl
    · extract_lets s1 s2 s3
      have h3 : s3.loader.image = s.loader.image :=
        (congrArg Loader.image ((ackEvents_follows (T := [.host, .events]) (by decide) (State.follows_refl _ _)).frame .loader
          (by decide))).trans (orphan_image s2 id)
      have counted : (bump (raiseEvent s3 0x0602 (leBytes 2 id ++ [BitVec.ofNat 8 cause])) connFailCnt).loader = s3.loader := by
        simp
      exact (congrArg Loader.image counted).trans h3

theorem portDownCore_image (s : State) (p : Nat) : (portDownCore s p).loader.image = s.loader.image := by
  unfold portDownCore
  extract_lets hit moved s1 s2
  have h2 : s2.loader.image = s.loader.image := by
    refine foldl_keeps (g := fun t : State => t.loader.image) (fun t x _ => ?_) s1
    dsimp only
    split
    · exact congrArg Loader.image ((moveConn_follows (T := [.out, .host, .events, .counters]) (by decide)
        (State.follows_refl _ t)).frame .loader (by decide))
    · exact failConn_image ..
  split
  · exact h2
  · exact (congrArg Loader.image (by simp)).trans h2

/-- No fault undoes a load. -/
theorem image_keptByFaults : KeptByFaults fun s => s.loader.image where
  frame h := congrArg Loader.image (h.frame .loader (by decide))
  facet := fenceFacet_image
  port := portDownCore_image
  reset _ _ := rfl

/-! ## The tests of a load -/

/-- The training and the tests that follow a firmware load (R336 step 4). -/
def firmwareTests (s : State) : State :=
  (List.range 64).foldl trainFlash ((List.range 2048).foldl testBank ((List.range 256).foldl trainHbm s))

theorem firmwareTests_locket (s : State) : (firmwareTests s).locket = s.locket := by
  refine State.follows.frame (T := Field.but [.time, .locket, .facetRam, .board]) ?_ .locket (by decide)
  unfold firmwareTests
  exact foldl_follows trainFlash _ (fun t _ h => trainFlash_follows (by decide) h) _ (foldl_follows testBank _
    (fun t _ h => testBank_follows (by decide) h) _ (foldl_follows trainHbm _
      (fun t _ h => trainHbm_follows (by decide) h) _ (State.follows_refl _ s)))

section
variable {α : Type} {g : State → α} (kept : KeptByFaults g)
include kept

theorem KeptByFaults.loadBist (s : State) (f : Nat) : g (loadBist s f) = g s := by
  have drawn : g (drawBool s).2 = g s := kept.frame (drawBool_follows (by decide) (State.follows_refl _ s))
  show g (if _ then _ else _) = g s
  split
  · exact (kept.raise ..).trans ((kept.facet ..).trans drawn)
  · exact (kept.frame (updFacet_follows (by decide) (State.follows_refl _ _))).trans drawn

theorem KeptByFaults.loadProngTest (s : State) (c : Nat) : g (loadProngTest s c) = g s := by
  have tested : g (updFlashCh (drawBool s).2 c fun x =>
      { x with prongFenced := (drawBool s).1, prongTest := false, prongClear := false }) = g s := kept.frame (updFlashCh_follows (by decide) (drawBool_follows (by decide) (State.follows_refl _ s)))
  show g (if _ then _ else _) = g s
  split
  · exact (kept.raise ..).trans tested
  · exact tested

theorem KeptByFaults.mapOut (s : State) (ch : Nat) (fault : Bool) : g (mapOut s ch fault) = g s := by
  unfold Machine.mapOut raiseStreamFaults
  split
  · rfl
  · refine (foldl_keeps (fun t d _ => ?_) _).trans
      ((kept.raise ..).trans (kept.frame (mapOutCore_follows (by decide) (State.follows_refl _ s))))
    split
    · exact kept.raise ..
    · exact kept.raise ..

theorem KeptByFaults.trainHbm (s : State) (ch : Nat) : g (trainHbm s ch) = g s := by
  have drawn : g (drawBool s).2 = g s := kept.frame (drawBool_follows (by decide) (State.follows_refl _ s))
  show g (if _ then _ else _) = g s
  split
  · exact (kept.mapOut ..).trans drawn
  · exact (kept.frame (updChan_follows (by decide) (State.follows_refl _ _))).trans drawn

theorem KeptByFaults.firmwareTests (s : State) : g (firmwareTests s) = g s := by
  unfold Machine.firmwareTests
  refine (foldl_keeps (fun t c _ => kept.frame (trainFlash_follows (by decide) (State.follows_refl _ t))) _).trans ?_
  refine (foldl_keeps (fun t b _ => kept.frame (testBank_follows (by decide) (State.follows_refl _ t))) _).trans ?_
  exact foldl_keeps (fun t ch _ => kept.trainHbm t ch) s

end

/-! ## Parts of a load -/

section
variable {op : BitVec 8} {c : Capsule} {s : State}

theorem queued_objects : (queued op c s).queues.objects = s.queues.objects := by
  obtain ⟨h, q, l, n, e, eq⟩ := queued_eq op c s
  rw [eq]

end

section
variable {s : State} {c : Cmd}

theorem closeObject_answerable (ask : s.answerable c) : (closeObject s c).answerable c := ask

/-- A part that is refused: the command has its status, and what was staged of its object is discarded (R278). -/
theorem refusePart_discards (ask : s.answerable c) (st : BitVec 16) :
    let t := refusePart s c st
    answered c.ref st 0 [] t ∧ t.locket = s.locket ∧ t.loader.setting = s.loader.setting ∧
      t.queues.objects = s.queues.objects.filter fun o => !o.openIn c.ref.queue c.ref.op := by
  refine ⟨(closeObject_answerable ask).refused st, ?_, ?_, ?_⟩
  · simp [refusePart, refuse]
  · simp [refusePart, refuse, dropObjects]
  · exact answer_objects ..

/-- A part before the last of an object that is staged in HBM (R215, R278). -/
theorem stagePart_answers {o : OpenObj} {n : Nat} (ask : s.answerable c) (op : o.op ≠ 0x20) :
    let t := replyOk (stagePart s o n) c 0 []
    answered c.ref 0 0 [] t ∧ o ∈ t.queues.objects ∧ t.loader.staging = s.loader.staging + n ∧
      t.loader.setting = s.loader.setting := by
  have staged : stagePart s o n = (s.modQueues fun u =>
      { u with objects := (u.objects.filter fun x => !x.openIn o.queue o.op) ++ [o] }).modLoader
        fun l => { l with staging := l.staging + n } := if_neg op
  have asked : (stagePart s o n).answerable c := by rw [staged]; exact ask
  refine ⟨asked.ok 0 [], ?_, ?_, ?_⟩
  · show o ∈ (answer _ _ _ _ _ _).queues.objects
    rw [answer_objects, staged]
    exact List.mem_append_right _ (List.mem_singleton_self o)
  · simp [replyOk, staged]
  · simp [replyOk, staged]

end

theorem signatureStatus_congr {s t : State} (h : t.locket = s.locket) (slot : Nat) (key bs : List Byte) :
    signatureStatus t slot key bs = signatureStatus s slot key bs := by
  unfold signatureStatus verifySigned
  rw [h]

theorem extendMeas_meas_congr {s t : State} (h : t.locket = s.locket) (i : Nat) (d : BitVec 256) :
    (extendMeas t i d).locket.meas = (extendMeas s i d).locket.meas := by
  unfold extendMeas
  rw [h]

/-! ## FIRMWARE_LOAD -/

/-- A verified image in force, before its tests. -/
def firmwareInForce (s : State) (v : BitVec 32) (d : BitVec 256) : State :=
  extendMeas (s.modLoader fun l => { l with firmware := true, fwVersion := v, fwDigest := d }) 1 d

theorem applyFirmware_eq (s : State) (v : BitVec 32) (d : BitVec 256) :
    applyFirmware s v d = firmwareTests (firmwareInForce s v d) := rfl

/-- A verified image is in force: the tests that follow it undo nothing of it (R336, R370). -/
theorem applyFirmware_loads (s : State) (v : BitVec 32) (d : BitVec 256) :
    let t := applyFirmware s v d
    t.loader.firmware = true ∧ t.loader.fwVersion = v ∧ t.loader.fwDigest = d ∧ t.locket.meas = (extendMeas s 1 d).locket.meas := by
  rw [applyFirmware_eq]
  have image := image_keptByFaults.firmwareTests (firmwareInForce s v d)
  exact ⟨congrArg Loader.firmware image, congrArg Loader.fwVersion image, congrArg Loader.fwDigest image,
    congrArg Locket.meas (firmwareTests_locket _)⟩

section
variable {s : State} {c : Cmd} {bs : List Byte}

theorem completeFirmware_unparsed (parsed : parseFirmware bs = none) : completeFirmware s c bs = replyRefuse s c 0x0108 := by
  unfold completeFirmware
  rw [parsed]

section
variable {slot : Nat} {v : BitVec 32} (parsed : parseFirmware bs = some (slot, v))
include parsed

theorem completeFirmware_unsigned (bad : signatureStatus s slot (sliceB bs 64 64) bs ≠ 0) :
    completeFirmware s c bs = replyRefuse s c (signatureStatus s slot (sliceB bs 64 64) bs) := by
  unfold completeFirmware
  rw [parsed]
  exact if_pos (bne_iff_ne.mpr bad)

theorem completeFirmware_loads (good : signatureStatus s slot (sliceB bs 64 64) bs = 0) :
    completeFirmware s c bs = replyOk (applyFirmware s v (Config.sm3 bs)) c (loadArea 1 (Config.sm3 bs)) [] := by
  unfold completeFirmware
  rw [parsed]
  exact if_neg (by simp [good])

end

section
variable (new : s.loader.firmware = false) (size : areaField c.cap.area 32 8 ≤ 16777216)
include new size

theorem decideFirmwareLoad_misplaced (taken : takePart s c 0 = none) : decideFirmwareLoad s c = refusePart s c 0x0117 := by
  unfold decideFirmwareLoad
  rw [new, if_neg Bool.false_ne_true, if_neg (Nat.not_lt.mpr size), taken]

theorem decideFirmwareLoad_takes {o : OpenObj} (taken : takePart s c 0 = some o) : decideFirmwareLoad s c =
    if isFinal c.ref.flags then completeFirmware (closeObject s c) c o.bytes
    else replyOk (stagePart s o c.cap.body.length) c 0 [] := by
  unfold decideFirmwareLoad
  rw [new, if_neg Bool.false_ne_true, if_neg (Nat.not_lt.mpr size), taken]

end

end

/-- Settles O48: a load is decided on the state in which it holds its tag; what the tests after it leave is `applyFirmware_loads`. -/
theorem firmwareLoads : Obligations.FirmwareLoads := by
  unfold Obligations.FirmwareLoads
  intro c s sub dropped
  have ask := submits_answerable sub
  have loader : (queued 0x89 c s).loader = s.loader := queued_loader
  have locket : (queued 0x89 c s).locket = s.locket := queued_locket
  have drops {st : BitVec 16} (h : decideFirmwareLoad (queued 0x89 c s) (arrival 0x89 c s) =
      refusePart (queued 0x89 c s) (arrival 0x89 c s) st) : dropped st := by
    refine completes_submits (d := decideFirmwareLoad) rfl sub ?_
    obtain ⟨reply, keys, -, objects⟩ := refusePart_discards ask st
    rw [h]
    exact ⟨reply, keys.trans locket, objects.trans (congrArg _ queued_objects)⟩
  refine ⟨fun old => drops (if_pos (by rw [loader, old])), fun new long => drops ?_,
    fun new size taken => drops (decideFirmwareLoad_misplaced (by rw [loader, new]) size taken),
    fun o new size taken => ?_⟩
  · exact (if_neg (by rw [loader, new]; exact Bool.false_ne_true)).trans (if_pos long)
  have new' : (queued 0x89 c s).loader.firmware = false := by rw [loader, new]
  have decided := decideFirmwareLoad_takes new' size taken
  refine ⟨fun part => completes_submits (d := decideFirmwareLoad) rfl sub ?_, fun last => ?_⟩
  · obtain ⟨reply, stored, staging, -⟩ := stagePart_answers (n := c.body.length) (o := o) ask
      ((takePart_op taken).trans_ne (show (0x89 : BitVec 8) ≠ 0x20 by decide))
    rw [decided, if_neg (by rw [Bool.not_eq_true]; exact part)]
    exact ⟨reply, stored, by rw [← loader]; exact staging⟩
  · rw [if_pos (show isFinal (arrival 0x89 c s).ref.flags = true from last)] at decided
    have asked := closeObject_answerable ask
    have keys : (closeObject (queued 0x89 c s) (arrival 0x89 c s)).locket = s.locket := locket
    have refused (st : BitVec 16) :
        (replyRefuse (closeObject (queued 0x89 c s) (arrival 0x89 c s)) (arrival 0x89 c s) st).loader.firmware = false := by
      rw [replyRefuse, refuse, (answer_frame ..).2.2.2.2.2.1]
      exact new'
    refine ⟨fun parsed => ?_, fun slot v parsed => ⟨fun bad => ?_, fun good => ?_⟩⟩
    · refine completes_submits (d := decideFirmwareLoad) rfl sub ?_
      rw [decided, completeFirmware_unparsed parsed]
      exact ⟨asked.refused _, refused _⟩
    · refine completes_submits (d := decideFirmwareLoad) rfl sub ?_
      have same := signatureStatus_congr keys slot (sliceB o.bytes 64 64) o.bytes
      rw [decided, completeFirmware_unsigned parsed (same ▸ bad), same]
      exact ⟨asked.refused _, refused _⟩
    · refine completes_submits (d := decideFirmwareLoad) rfl sub ?_
      have same := signatureStatus_congr keys slot (sliceB o.bytes 64 64) o.bytes
      obtain ⟨firmware, version, digest, meas⟩ :=
        applyFirmware_loads (closeObject (queued 0x89 c s) (arrival 0x89 c s)) v (Config.sm3 o.bytes)
      rw [decided, completeFirmware_loads parsed (same.trans good)]
      simp only [replyOk, answer_frame]
      exact ⟨firmware, version, digest, findCmd_answer .., meas.trans (extendMeas_meas_congr keys ..)⟩

/-! ## What a setting puts in force -/

/-- The sections of a setting in force (R330 steps 1, 2 and 4). -/
theorem applySections_loader (s : State) (t : Setting) (d : BitVec 256) :
    (applySections s t d).loader = { s.loader with
      setting := some t, digest := d, partialCnt := 0, map := t.grouping.map, groups := t.grouping.groups,
      hold := t.grouping.hold, holdNext := none, pending := [], part := none, discovering := true, discovered := false } := by
  unfold applySections
  extract_lets s1 s2 bad s3 s4
  split
  · rfl
  · split
    · simp only [raiseEvent_frame]
      rfl
    · rfl

/-- The links take their states from the setting, and the rest of the fabric its coordinates. -/
theorem applyFabric_addr (s : State) (f : FabricSec) : (applyFabric s f).fabric.addr = f.addr := by
  unfold applyFabric
  extract_lets s1
  refine (foldl_keeps (g := fun t : State => t.fabric.addr) (fun t l _ => ?_) s1).trans rfl
  rfl

theorem originate_addr (s : State) (e : Elem) (repair : Bool) : (originate s e repair).fabric.addr = s.fabric.addr := by
  rw [originate_eq]
  exact (onlyLinks_flood (noticeHeld s e repair) (ownNotice s e) repair none).addr

theorem checkDiscovery_addr (s : State) : (checkDiscovery s).fabric.addr = s.fabric.addr := by
  unfold checkDiscovery
  split
  · extract_lets s1
    split
    · exact originate_addr ..
    · rfl
  · rfl

theorem checkDiscovery_image (s : State) : (checkDiscovery s).loader.image = s.loader.image := by
  unfold checkDiscovery
  split
  · extract_lets s1
    split
    · show _ = s1.loader.image
      exact congrArg Loader.image ((originate_follows (List.Subset.refl _) (State.follows_refl _ s1)).frame .loader (by decide))
    · rfl
  · rfl

/-- A full setting in force: the tests and the discovery that follow it undo nothing of it (R330, R332). -/
theorem applySetting_loads (s : State) (t0 : Setting) (d : BitVec 256) :
    let t := applySetting s t0 d
    t.loader.setting = some t0 ∧ t.loader.digest = d ∧ t.loader.partialCnt = 0 ∧ t.loader.groups = t0.grouping.groups ∧
      t.fabric.addr = t0.fabric.addr ∧ t.time.periodUs = t0.periodUs ∧ t.time.started = true ∧
      t.locket.meas = (extendMeas s 2 d).locket.meas := by
  unfold applySetting
  extract_lets s1 s2 s3 s4 s5 t
  have loaded := applySections_loader s1 t0 d
  have tested : s4.loader.image = s2.loader.image :=
    (foldl_keeps (g := fun u : State => u.loader.image) (fun u c _ => image_keptByFaults.loadProngTest u c) s3).trans
      (foldl_keeps (g := fun u : State => u.loader.image) (fun u f _ => image_keptByFaults.loadBist u f) s2)
  have fabric : s5.loader = s4.loader :=
    (applyFabric_follows (T := [.time, .fabric]) (by decide)
      (applyBead_follows (by decide) (State.follows_refl _ s4))).frame .loader (by decide)
  have image : t.loader.image = (applySections s1 t0 d).loader.image :=
    (checkDiscovery_image s5).trans ((congrArg Loader.image fabric).trans tested)
  rw [loaded] at image
  have beads : (checkDiscovery s5).time = s5.time :=
    (checkDiscovery_follows (List.Subset.refl _) (State.follows_refl _ s5)).frame .time (by decide)
  have links : s5.time = (applyBead s4 t0).time :=
    (applyFabric_follows (List.Subset.refl _) (State.follows_refl _ (applyBead s4 t0))).frame .time (by decide)
  have time : t.time = (applyBead s4 t0).time := beads.trans links
  have locket : (checkDiscovery s5).locket = s.locket := by
    have quiet : s.follows (Field.but [.locket]) (checkDiscovery s5) :=
      checkDiscovery_follows (by decide) (applyFabric_follows (by decide) (applyBead_follows (by decide)
        (foldl_follows _ _ (fun _ _ h => loadProngTest_follows (by decide) h) _
          (foldl_follows _ _ (fun _ _ h => loadBist_follows (by decide) h) _ (applySections_follows (by decide)
            (modQueues_follows (by decide) (State.follows_refl _ s)))))))
    exact quiet.frame .locket (by decide)
  exact ⟨congrArg Loader.setting image, congrArg Loader.digest image, congrArg Loader.partialCnt image,
    congrArg Loader.groups image,
    (checkDiscovery_addr s5).trans (applyFabric_addr ..), congrArg TimeBase.periodUs time, congrArg TimeBase.started time,
    extendMeas_meas_congr locket ..⟩

/-! ## SETTING_LOAD -/

/-- What checks 5 and 6 of R329 decide on a setting that has passed the earlier ones, and its application or its wait for the edge. -/
def checkedSetting (s : State) (c : Cmd) (h : SettingHead) (bs : List Byte) : State :=
  if h.kind = 0 then
    match parseSetting s.locket.copy.maxFabricLog2.toNat h with
    | none => replyRefuse s c 0x0108
    | some t => if settingBusy s then replyRefuse s c 0x021B
        else replyOk (applySetting s t (Config.sm3 bs)) c (loadArea 2 (Config.sm3 bs)) []
  else match parseGrouping ((sectionOf h 1).getD []) with
    | none => replyRefuse s c 0x0108
    | some g => match partialOk s h g with
      | none => replyRefuse s c 0x0108
      | some n => (running s c).modLoader fun l =>
          { l with part := some ⟨c.ref, n, g.map, Config.sm3 bs, .waitEdge, beadNow s + 1⟩ }

section
variable {s : State} {c : Cmd} {group : Nat} {bs : List Byte}

theorem completeSetting_unparsed (parsed : parseHead bs = none) : completeSetting s c group bs = replyRefuse s c 0x0108 := by
  unfold completeSetting
  rw [parsed]

section
variable {h : SettingHead} (parsed : parseHead bs = some h)
include parsed

theorem completeSetting_unsigned (bad : signatureStatus s h.slot h.key bs ≠ 0) :
    completeSetting s c group bs = replyRefuse s c (signatureStatus s h.slot h.key bs) := by
  unfold completeSetting
  rw [parsed]
  exact if_pos (bne_iff_ne.mpr bad)

variable (good : signatureStatus s h.slot h.key bs = 0)
include good

theorem completeSetting_unsuited (unsuited : h.group ≠ group ∨ presenceOk h = false) :
    completeSetting s c group bs = replyRefuse s c 0x0108 := by
  unfold completeSetting
  rw [parsed]
  dsimp only
  rw [good, if_neg (by simp), if_pos]
  rcases unsuited with other | absent
  · simp [other]
  · simp [absent]

variable (target : h.group = group) (present : presenceOk h = true)
include target present

theorem completeSetting_checked : completeSetting s c group bs = checkedSetting s c h bs := by
  unfold completeSetting
  rw [parsed]
  dsimp only
  rw [good, if_neg (by simp), if_neg (by simp [target, present])]
  rfl

section
variable (full : h.kind = 0)
include full

theorem completeSetting_unread (unread : parseSetting s.locket.copy.maxFabricLog2.toNat h = none) :
    completeSetting s c group bs = replyRefuse s c 0x0108 := by
  rw [completeSetting_checked parsed good target present, checkedSetting, if_pos full, unread]

variable {t : Setting} (read : parseSetting s.locket.copy.maxFabricLog2.toNat h = some t)
include read

theorem completeSetting_busy (busy : settingBusy s = true) : completeSetting s c group bs = replyRefuse s c 0x021B := by
  rw [completeSetting_checked parsed good target present, checkedSetting, if_pos full, read]
  exact if_pos busy

theorem completeSetting_full (idle : settingBusy s = false) : completeSetting s c group bs =
    replyOk (applySetting s t (Config.sm3 bs)) c (loadArea 2 (Config.sm3 bs)) [] := by
  rw [completeSetting_checked parsed good target present, checkedSetting, if_pos full, read]
  exact if_neg (by simp [idle])

end

section
variable (part : h.kind ≠ 0)
include part

theorem completeSetting_ungrouped (unread : parseGrouping ((sectionOf h 1).getD []) = none) :
    completeSetting s c group bs = replyRefuse s c 0x0108 := by
  rw [completeSetting_checked parsed good target present, checkedSetting, if_neg part, unread]

variable {g : FacetGrouping} (read : parseGrouping ((sectionOf h 1).getD []) = some g)
include read

theorem completeSetting_disallowed (disallowed : partialOk s h g = none) :
    completeSetting s c group bs = replyRefuse s c 0x0108 := by
  rw [completeSetting_checked parsed good target present, checkedSetting, if_neg part, read]
  dsimp only
  rw [disallowed]

theorem completeSetting_partial {n : GroupRec} (allowed : partialOk s h g = some n) : completeSetting s c group bs =
    (running s c).modLoader fun l => { l with part := some ⟨c.ref, n, g.map, Config.sm3 bs, .waitEdge, beadNow s + 1⟩ } := by
  rw [completeSetting_checked parsed good target present, checkedSetting, if_neg part, read]
  dsimp only
  rw [allowed]

end

end

section
variable (size : areaField c.cap.area 32 8 ≤ 67108864)
include size

theorem decideSettingLoad_misplaced (taken : takePart s c (areaField c.cap.area 40 2) = none) :
    decideSettingLoad s c = refusePart s c 0x0117 := by
  unfold decideSettingLoad
  dsimp only
  rw [if_neg (Nat.not_lt.mpr size), taken]

theorem decideSettingLoad_takes {o : OpenObj} (taken : takePart s c (areaField c.cap.area 40 2) = some o) :
    decideSettingLoad s c =
      if isFinal c.ref.flags then completeSetting (closeObject s c) c (areaField c.cap.area 40 2) o.bytes
      else replyOk (stagePart s o c.cap.body.length) c 0 [] := by
  unfold decideSettingLoad
  dsimp only
  rw [if_neg (Nat.not_lt.mpr size), taken]

end

end

/-- A command refused after its object was closed: the setting in force and its measurement stay. -/
theorem replyRefuse_closed {s : State} {c : Cmd} (ask : s.answerable c) (st : BitVec 16) :
    let t := replyRefuse (closeObject s c) c st
    answered c.ref st 0 [] t ∧ t.loader.setting = s.loader.setting ∧ t.loader.digest = s.loader.digest ∧
      t.locket.meas = s.locket.meas := by
  refine ⟨(closeObject_answerable ask).refused st, ?_⟩
  simp [replyRefuse, refuse, closeObject, dropObjects]

/-- Settles O49: a load is decided on the state in which it holds its tag; what a full setting leaves is `applySetting_loads`. -/
theorem settingLoads : Obligations.SettingLoads := by
  unfold Obligations.SettingLoads
  refine ⟨fun c s st sub bad => ?_, ?_⟩
  · refine completes_submits (d := decideSettingLoad) rfl sub ?_
    have refused : decideSettingLoad (queued 0x88 c s) (arrival 0x88 c s) = refusePart (queued 0x88 c s) (arrival 0x88 c s) st := by
      rcases bad with ⟨long, rfl⟩ | ⟨size, rfl, taken⟩
      · exact if_pos long
      · exact decideSettingLoad_misplaced size taken
    obtain ⟨reply, -, setting, objects⟩ := refusePart_discards (submits_answerable sub) st
    rw [refused]
    exact ⟨reply, setting.trans (congrArg _ queued_loader), objects.trans (congrArg _ queued_objects)⟩
  intro c s o sub size s1 group taken
  have ask : s1.answerable (arrival 0x88 c s) := submits_answerable sub
  have loader : s1.loader = s.loader := queued_loader
  have locket : s1.locket = s.locket := queued_locket
  have decided : decideSettingLoad s1 (arrival 0x88 c s) = if isFinal c.flags then
      completeSetting (closeObject s1 (arrival 0x88 c s)) (arrival 0x88 c s) group o.bytes
    else replyOk (stagePart s1 o c.body.length) (arrival 0x88 c s) 0 [] := decideSettingLoad_takes size taken
  refine ⟨fun part => completes_submits (d := decideSettingLoad) rfl sub ?_, fun last => ?_⟩
  · obtain ⟨reply, stored, -, setting⟩ := stagePart_answers (n := c.body.length) (o := o) ask
      ((takePart_op taken).trans_ne (show (0x88 : BitVec 8) ≠ 0x20 by decide))
    rw [decided, if_neg (by rw [part]; exact Bool.false_ne_true)]
    exact ⟨reply, stored, by rw [← loader]; exact setting⟩
  rw [if_pos last] at decided
  have keys : (closeObject s1 (arrival 0x88 c s)).locket = s.locket := locket
  intro refused
  have refuses {st : BitVec 16} (h : completeSetting (closeObject s1 (arrival 0x88 c s)) (arrival 0x88 c s) group o.bytes =
      replyRefuse (closeObject s1 (arrival 0x88 c s)) (arrival 0x88 c s) st) : refused st := by
    obtain ⟨reply, setting, digest, meas⟩ := replyRefuse_closed ask st
    refine completes_submits (d := decideSettingLoad) rfl sub ?_
    rw [decided, h]
    exact ⟨reply, by rw [setting, loader], by rw [digest, loader], by rw [meas, locket]⟩
  refine ⟨fun parsed => refuses (completeSetting_unparsed parsed), fun h parsed => ?_⟩
  have same := signatureStatus_congr keys h.slot h.key o.bytes
  refine ⟨fun bad => refuses ?_, fun other good => refuses (completeSetting_unsuited parsed (same.trans good) (.inl other)),
    fun target good => ?_⟩
  · rw [← same] at bad ⊢
    exact completeSetting_unsigned parsed bad
  replace good := same.trans good
  have limit : (closeObject s1 (arrival 0x88 c s)).locket.copy = s.locket.copy := congrArg Locket.copy keys
  refine ⟨fun absent => refuses (completeSetting_unsuited parsed good (.inr absent)), fun present full => ?_,
    fun present part => ?_⟩
  · intro p
    refine ⟨fun unread => refuses (completeSetting_unread parsed good target present full (by rw [limit]; exact unread)),
      fun t0 read => ?_⟩
    have read' : parseSetting (closeObject s1 (arrival 0x88 c s)).locket.copy.maxFabricLog2.toNat h = some t0 := by
      rw [limit]
      exact read
    refine ⟨fun busy => refuses (completeSetting_busy parsed good target present full read' busy), fun idle => ?_⟩
    refine completes_submits (d := decideSettingLoad) rfl sub ?_
    obtain ⟨setting, digest, count, groups, addr, period, started, meas⟩ :=
      applySetting_loads (closeObject s1 (arrival 0x88 c s)) t0 (Config.sm3 o.bytes)
    rw [decided, completeSetting_full parsed good target present full read' idle]
    simp only [replyOk, answer_frame]
    exact ⟨setting, digest, count, groups, addr, period, started, findCmd_answer .., meas.trans (extendMeas_meas_congr keys ..)⟩
  · intro g
    refine ⟨fun unread => refuses (completeSetting_ungrouped parsed good target present part unread), fun g0 read => ?_⟩
    refine ⟨fun disallowed => refuses (completeSetting_disallowed parsed good target present part read disallowed),
      fun n allowed => ?_⟩
    refine completes_submits (d := decideSettingLoad) rfl sub ?_
    rw [decided, completeSetting_partial parsed good target present part read allowed]
    have kept : (running (closeObject s1 (arrival 0x88 c s)) (arrival 0x88 c s)).loader =
        (closeObject s1 (arrival 0x88 c s)).loader := (running_frame ..).frame .loader (by decide)
    have bead : beadNow (closeObject s1 (arrival 0x88 c s)) = beadNow s := queued_beadNow
    refine ⟨by rw [bead]; rfl, (congrArg Loader.setting kept).trans (show s1.loader.setting = _ from congrArg _ loader),
      (congrArg Loader.map kept).trans (show s1.loader.map = _ from congrArg _ loader), ?_⟩
    exact congrArg (Option.map Cmd.stage) (findCmd_running (closeObject_answerable ask).1)

end Sys2Proof.Machine

/-! Frames (O34): the checks in their order, and what a frame for this port carries (R237, R240, R241, R242). -/

namespace Sys2Proof.Machine

section
variable {s : State} {f : Frame}

theorem exec_frame_unfit (unfit : (getPort s f.port).pcs = false ∨ f.bytes < 64 ∨ 9216 < f.bytes) :
    exec (.ethernetFrame f) s = .next s := by
  refine congrArg Host.Outcome.next (if_pos ?_)
  rcases unfit with h | h | h <;> simp [h]

variable (up : s.power.phase = .up) (linked : (getPort s f.port).pcs = true) (long : 64 ≤ f.bytes) (short : f.bytes ≤ 9216)
include up linked long short

/-- The checks of a frame of a length that a port takes. -/
theorem exec_frame_checked : exec (.ethernetFrame f) s = .next (
    if !f.fcsOk then bump s (rxErrCnt f.port)
    else if (getPort s f.port).maxIp.toNat < f.ipLen then bump s (oversizeCnt f.port)
    else if f.fragment then bump s (fragCnt f.port)
    else if frameToUs (getPort s f.port) f then takeFrame s f else s) :=
  congrArg Host.Outcome.next (if_neg (by simp [isUp, up, linked, long, short]))

theorem exec_frame_corrupt (bad : f.fcsOk = false) : exec (.ethernetFrame f) s = .next (bump s (rxErrCnt f.port)) := by
  rw [exec_frame_checked up linked long short, if_pos (by simp [bad])]

variable (good : f.fcsOk = true)
include good

theorem exec_frame_oversize (large : (getPort s f.port).maxIp.toNat < f.ipLen) :
    exec (.ethernetFrame f) s = .next (bump s (oversizeCnt f.port)) := by
  rw [exec_frame_checked up linked long short, if_neg (by simp [good]), if_pos large]

variable (fits : f.ipLen ≤ (getPort s f.port).maxIp.toNat)
include fits

theorem exec_frame_fragment (fragment : f.fragment = true) :
    exec (.ethernetFrame f) s = .next (bump s (fragCnt f.port)) := by
  rw [exec_frame_checked up linked long short, if_neg (by simp [good]), if_neg (Nat.not_lt.mpr fits), if_pos fragment]

variable (whole : f.fragment = false)
include whole

/-- What a whole frame does, once its length and its check sequence pass. -/
theorem exec_frame_whole : exec (.ethernetFrame f) s =
    .next (if frameToUs (getPort s f.port) f then takeFrame s f else s) := by
  rw [exec_frame_checked up linked long short, if_neg (by simp [good]), if_neg (Nat.not_lt.mpr fits), if_neg (by simp [whole])]

theorem exec_frame_elsewhere (other : frameToUs (getPort s f.port) f = false) : exec (.ethernetFrame f) s = .next s := by
  rw [exec_frame_whole up linked long short good fits whole, if_neg (by simp [other])]

theorem exec_frame_toUs (ours : frameToUs (getPort s f.port) f = true) : exec (.ethernetFrame f) s = .next (takeFrame s f) := by
  rw [exec_frame_whole up linked long short good fits whole, if_pos ours]

end

/-! ## What a frame carries -/

/-- A frame that is answered sends its reply and changes nothing else of the connections and the queues. -/
theorem emit_sendFrame (s : State) (port : Nat) (mgmt : Bool) (k : SentKind) (o : Out) :
    let t := emit (sendFrame s port mgmt k) o
    t.out = o :: s.out ∧ t.host.conns = s.host.conns ∧ t.queues = s.queues := ⟨rfl, rfl, rfl⟩

section
variable {s : State} {f : Frame} {src : BitVec 128} {dst sp : Nat} {bs : List Byte} {v4 ok sumZero : Bool}

theorem takeFrame_arp (kind : f.kind = .arp) : takeFrame s f = emit (sendFrame s f.port true .arp) (.arpReply f.port) := by
  unfold takeFrame
  rw [kind]

theorem takeFrame_neighbour (kind : f.kind = .neighbour) :
    takeFrame s f = emit (sendFrame s f.port true .neighbour) (.neighbourReply f.port) := by
  unfold takeFrame
  rw [kind]

theorem takeFrame_echo (kind : f.kind = .echo) : takeFrame s f = emit (sendFrame s f.port false .echo) (.echoReply f.port) := by
  unfold takeFrame
  rw [kind]

theorem takeFrame_ptp {o : Int} {n : Nat} (kind : f.kind = .ptp o n) : takeFrame s f = takePtp s f.port o n := by
  unfold takeFrame
  rw [kind]

theorem takeFrame_pause {mgmt : Bool} {ns : Nat} (kind : f.kind = .pause mgmt ns) : takeFrame s f =
    if (getPort s f.port).pfc && mgmt && decide (100000 < ns) then bump s (mgmtPauseCnt f.port) else s := by
  unfold takeFrame
  rw [kind]

theorem takeFrame_other (kind : f.kind = .otherIp ∨ f.kind = .nonIp) : takeFrame s f = s := by
  unfold takeFrame
  rcases kind with kind | kind <;> rw [kind]

theorem takeFrame_udp (kind : f.kind = .udp v4 ok sumZero dst src sp bs) : takeFrame s f =
    if !(ok || (v4 && sumZero)) then bump s (rxErrCnt f.port)
    else if dst = reunePort then takeReune s f src sp bs else s := by
  unfold takeFrame
  rw [kind]

/-- A UDP frame for this port was sent to an address at which the port answers. -/
theorem frameToUs_udp (kind : f.kind = .udp v4 ok sumZero dst src sp bs) {p : Port} (ours : frameToUs p f = true) :
    p.answersAt f.dst = true := by
  unfold frameToUs at ours
  rw [kind] at ours
  exact (Bool.and_eq_true_iff.mp ours).2

section
variable (len : 16 ≤ bs.length) (conn : fieldB bs 0 2 < 2 ^ 13) (flags : fieldB bs 3 1 < 16)
include len conn flags

theorem reune_whole : (decide (bs.length < 16) || decide (2 ^ 13 ≤ fieldB bs 0 2) || decide (16 ≤ fieldB bs 3 1)) = false := by
  simp only [Bool.or_eq_false_iff, decide_eq_false_iff_not, not_lt, not_le]
  exact ⟨⟨len, conn⟩, flags⟩

theorem takeReune_connect (type : fieldB bs 2 1 = 1) : takeReune s f src sp bs =
    acceptConn s ⟨f.port, f.dst, src, sp, bitOf (fieldB bs 3 1) 3, fieldB (bs.drop 16) 18 1 == 1,
      BitVec.ofNat 128 (beNat ((bs.drop 16).take 16)), fieldB (bs.drop 16) 16 2⟩ := by
  unfold takeReune
  dsimp only
  rw [reune_whole len conn flags, if_neg Bool.false_ne_true, type]
  rfl

theorem takeReune_data (type : fieldB bs 2 1 = 3) : takeReune s f src sp bs =
    takeData s ⟨f.port, src, sp, fieldB bs 0 2, bitOf (fieldB bs 3 1) 0, bitOf (fieldB bs 3 1) 1,
      BitVec.ofNat 32 (fieldB bs 4 4), BitVec.ofNat 32 (fieldB bs 8 4), bs.drop 16⟩ := by
  unfold takeReune
  dsimp only
  rw [reune_whole len conn flags, if_neg Bool.false_ne_true, type, Nat.mod_eq_of_lt conn]
  rfl

theorem takeReune_ack (type : fieldB bs 2 1 = 4) :
    takeReune s f src sp bs = takeAck s f.port (fieldB bs 0 2) (BitVec.ofNat 32 (fieldB bs 8 4)) := by
  unfold takeReune
  dsimp only
  rw [reune_whole len conn flags, if_neg Bool.false_ne_true, type, Nat.mod_eq_of_lt conn]
  rfl

theorem takeReune_close (type : fieldB bs 2 1 = 6) : takeReune s f src sp bs = takeClose s f.port (fieldB bs 0 2) := by
  unfold takeReune
  dsimp only
  rw [reune_whole len conn flags, if_neg Bool.false_ne_true, type, Nat.mod_eq_of_lt conn]
  rfl

theorem takeReune_other (type : fieldB bs 2 1 ∉ [1, 3, 4, 6]) : takeReune s f src sp bs = s := by
  unfold takeReune
  dsimp only
  rw [reune_whole len conn flags, if_neg Bool.false_ne_true]
  split
  case h_5 => rfl
  all_goals simp_all

end

end

/-- Settles O34: each check by its lemma, and what a frame carries by the kind of the frame and the type of the datagram. -/
theorem framesAreSorted : Obligations.FramesAreSorted := by
  unfold Obligations.FramesAreSorted
  intro s f up drops counts answers
  refine ⟨exec_frame_unfit, fun linked long short => ⟨exec_frame_corrupt up linked long short,
    exec_frame_oversize up linked long short, fun good fits => ⟨exec_frame_fragment up linked long short good fits,
      exec_frame_elsewhere up linked long short good fits, fun whole ours => ?_⟩⟩⟩
  have taken : exec (.ethernetFrame f) s = .next (takeFrame s f) := exec_frame_toUs up linked long short good fits whole ours
  have replies {mgmt : Bool} {k : SentKind} {o : Out} (h : takeFrame s f = emit (sendFrame s f.port mgmt k) o) : answers o :=
    ⟨_, taken, by rw [h]; exact emit_sendFrame ..⟩
  refine ⟨fun kind => replies (takeFrame_arp kind), fun kind => replies (takeFrame_neighbour kind),
    fun kind => replies (takeFrame_echo kind), fun o n kind => ?_, fun mgmt ns kind => ⟨fun paused => ?_, fun calm => ?_⟩,
    fun kind => ?_, fun v4 sumZero dst sp src bs kind bad => ?_, fun v4 ok sumZero dst sp src bs kind sum other => ?_,
    fun v4 ok sumZero sp src bs kind sum len conn flags => ?_⟩
  · rw [taken, takeFrame_ptp kind]
    exact (congrArg Host.Outcome.next (if_pos (by simp [isUp, up, linked]))).symm
  · obtain ⟨enabled, management, long⟩ := paused
    refine taken.trans (congrArg Host.Outcome.next ?_)
    rw [takeFrame_pause kind, if_pos (by simp [enabled, management, long])]
  · refine taken.trans (congrArg Host.Outcome.next ?_)
    rw [takeFrame_pause kind, if_neg]
    rcases calm with h | h | h <;> simp [h]
  · exact taken.trans (congrArg Host.Outcome.next (takeFrame_other kind))
  · refine taken.trans (congrArg Host.Outcome.next ?_)
    rw [takeFrame_udp kind, if_pos (by rw [bad]; rfl)]
  · refine taken.trans (congrArg Host.Outcome.next ?_)
    rw [takeFrame_udp kind, if_neg (by rw [sum]; decide)]
    exact if_neg other
  · have reune : exec (.ethernetFrame f) s = .next (takeReune s f src sp bs) := by
      rw [taken, takeFrame_udp kind, if_neg (by rw [sum]; decide)]
      exact congrArg Host.Outcome.next (if_pos rfl)
    have alive : isUp s = true := by simp [isUp, up]
    have here : (getPort s f.port).answersAt f.dst = true := frameToUs_udp kind ours
    intro c b
    refine ⟨fun type => ?_, fun type => ?_, fun type => ?_, fun type => ?_, fun type => ?_⟩
    · rw [reune, takeReune_connect len conn flags type]
      exact (congrArg Host.Outcome.next (if_pos (by rw [alive, here]; rfl))).symm
    · rw [reune, takeReune_data len conn flags type]
      exact (congrArg Host.Outcome.next (if_pos alive)).symm
    · rw [reune, takeReune_ack len conn flags type]
      exact (congrArg Host.Outcome.next (if_pos alive)).symm
    · rw [reune, takeReune_close len conn flags type]
      exact (congrArg Host.Outcome.next (if_pos alive)).symm
    · exact reune.trans (congrArg Host.Outcome.next (takeReune_other len conn flags type))

end Sys2Proof.Machine

/-! POWER_STATE and the decision of a command that waited (O26): R252 to R257, R259, R260. -/

namespace Sys2Proof.Machine

section
variable {op : BitVec 8} {c : Capsule} {s : State}

theorem queued_pstate : (queued op c s).power.pstate = s.power.pstate := by
  obtain ⟨h, q, l, n, e, eq⟩ := queued_eq op c s
  rw [eq]

theorem queued_preparing : (queued op c s).power.preparing = s.power.preparing := by
  obtain ⟨h, q, l, n, e, eq⟩ := queued_eq op c s
  rw [eq]

end

section
variable {s : State} {c : Cmd}

/-- The state in which a POWER_STATE for P0 or for the state in force is answered: P0 begins the exit from any other (R259). -/
def powerStateMet (s : State) (n : Nat) : State :=
  if n = 0 && s.power.pstate != 0 then s.modPower fun p => { p with exiting := true } else s

theorem powerStateMet_frame (s : State) (n : Nat) : s.follows [.power] (powerStateMet s n) := by
  unfold powerStateMet
  split
  · exact modPower_follows (List.Subset.refl _) (State.follows_refl _ s)
  · exact State.follows_refl _ s

theorem powerStateMet_exiting {n : Nat} (zero : n = 0) (low : s.power.pstate ≠ 0) : (powerStateMet s n).power.exiting = true := by
  unfold powerStateMet
  rw [if_pos (by simpa [zero] using low)]
  rfl

theorem powerStateMet_preparing (s : State) (n : Nat) : (powerStateMet s n).power.preparing = s.power.preparing := by
  unfold powerStateMet
  split <;> rfl

theorem decidePowerState_met (body : c.cap.body = []) (met : areaField c.cap.area 24 1 = 0 ∨
      areaField c.cap.area 24 1 = s.power.pstate.toNat) : decidePowerState s c =
    replyOk (powerStateMet s (areaField c.cap.area 24 1)) c
      (areaPut (areaPut 0 24 1 (areaField c.cap.area 24 1)) 32 8 (beadNow s)) [] := by
  have known : ¬ 3 < areaField c.cap.area 24 1 := by omega
  unfold decidePowerState
  dsimp only
  rw [lenBad_eq_false (List.length_eq_zero_iff.mpr body), if_neg Bool.false_ne_true, if_neg known, if_pos (by simpa using met)]
  rfl

theorem decidePowerState_prepares (body : c.cap.body = []) (known : areaField c.cap.area 24 1 ≤ 3)
    (low : areaField c.cap.area 24 1 ≠ 0) (other : areaField c.cap.area 24 1 ≠ s.power.pstate.toNat) : decidePowerState s c =
    (running s c).modPower fun p => { p with
      target := BitVec.ofNat 2 (areaField c.cap.area 24 1), preparing := true, prepBead := beadNow s, psCmd := some c.ref } := by
  unfold decidePowerState
  dsimp only
  rw [lenBad_eq_false (List.length_eq_zero_iff.mpr body), if_neg Bool.false_ne_true, if_neg (Nat.not_lt.mpr known),
    if_neg (by simp [low, other])]

end

/-- A command that waits to be decided is decided by its opcode once it is ready. -/
theorem exec_commandReady {s : State} {q g : Nat} {c : Cmd} (found : findCmd s q g = some c) :
    exec (.commandReady q g) s = .next (if isUp s && c.stage == .held && cmdReady s c then decideOp s c else s) := by
  simp only [exec, execCommandReady, found]

/-- Settles O26: the state power asked for is met or prepared for; a command that waited is decided once it is ready. -/
theorem powerStateAndHeldCommands : Obligations.PowerStateAndHeldCommands := by
  unfold Obligations.PowerStateAndHeldCommands
  refine ⟨fun c s sub body => ?_, fun s q g c up found => ⟨fun waits => ?_, fun held ready => ?_⟩⟩
  · intro n
    have ask := submits_answerable sub
    have pstate : (queued 0x8B c s).power.pstate = s.power.pstate := queued_pstate
    refine ⟨fun met => completes_submits (d := decidePowerState) rfl sub ?_, fun low known other =>
      completes_submits (d := decidePowerState) rfl sub ?_⟩
    · rw [decidePowerState_met (c := arrival 0x8B c s) body (by rw [pstate]; exact met), queued_beadNow]
      have asked := ask.of_follows (powerStateMet_frame (queued 0x8B c s) n) (by decide) (by decide)
      refine ⟨asked.ok _ _, fun zero unlike => ?_, ?_⟩
      · simp only [replyOk, answer_frame]
        exact powerStateMet_exiting zero (by rw [pstate]; exact unlike)
      · simp only [replyOk, answer_frame]
        exact (powerStateMet_preparing ..).trans queued_preparing
    · rw [decidePowerState_prepares (c := arrival 0x8B c s) body known low (by rw [pstate]; exact other)]
      refine ⟨rfl, rfl, queued_beadNow, rfl, ?_⟩
      exact ((noReply_of_out queued_out).trans (noReply_running _ (arrival 0x8B c s))).trans (noReply_of_out rfl)
  · refine (exec_commandReady found).trans (congrArg Host.Outcome.next (if_neg ?_))
    rcases waits with running | early
    · simp [running]
    · simp [early]
  · have decided : exec (.commandReady q g) s = .next (decideOp s c) :=
      (exec_commandReady found).trans (congrArg Host.Outcome.next (if_pos (by simp [isUp, up, held, ready])))
    refine ⟨decided, fun identify body queue tag live => ⟨_, decided, ?_⟩⟩
    have chosen : decideOp s c = decideIdentify s c := by
      unfold decideOp
      rw [identify]
      rfl
    rw [chosen, decideIdentify_replies body]
    exact State.answerable.ok ⟨by rw [queue, tag]; exact found, live⟩ _ _

end Sys2Proof.Machine

/-! Host ports (O33): what the connections and the ports keep while events are raised, where the connections of a port that goes down
stand, and what the registers of a port take up (R236, R238, R250, R389, R393). -/

namespace Sys2Proof.Machine

/-! ## What raising an event leaves of the ports -/

theorem sendSegs_ports (s : State) (id : Nat) (c : Conn) (mgmt : Bool) (first : BitVec 32) (segs : List Seg) :
    (sendSegs s id c mgmt first segs).host.ports = s.host.ports := by
  refine foldl_keeps (g := fun t : State => t.host.ports) (fun t x _ => ?_) s
  rfl

theorem keepSent_ports (s : State) (id : Nat) (c : Conn) (mgmt : Bool) (bs : List Byte) (ev : Option (BitVec 32)) :
    (keepSent s id c mgmt bs ev).2.host.ports = s.host.ports := by
  unfold keepSent
  dsimp only
  split
  · exact sendSegs_ports ..
  · exact sendSegs_ports ..

theorem deliverTo_ports (bs : List Byte) (q : BitVec 32) (s : State) (id : Nat) : (deliverTo bs q s id).host.ports = s.host.ports := by
  unfold deliverTo
  split
  · rfl
  · exact keepSent_ports ..

theorem raiseEvent_ports (s : State) (code : BitVec 16) (args : List Byte) : (raiseEvent s code args).host.ports = s.host.ports := by
  have log : (logEvent s code args).2.host.ports = s.host.ports := by
    unfold logEvent
    split
    · exact foldl_keeps (g := fun t : State => t.host.ports) (fun t x _ => deliverTo_ports _ _ t x) _
    · rfl
  unfold raiseEvent
  dsimp only
  split
  · exact log
  · exact log

theorem bumpN_ports (s : State) (a n : Nat) : (bumpN s a n).host.ports = s.host.ports := by
  unfold bumpN
  split
  · rfl
  · dsimp only
    split
    · exact raiseEvent_ports ..
    · rfl

/-! ## Connections that move and that fail -/

theorem resendAll_conn (s : State) (id : Nat) (c : Conn) (j : Nat) : getConn (resendAll s id c) j = getConn s j := by
  refine foldl_keeps (g := fun t : State => getConn t j) (fun t k _ => ?_) s
  exact sendSegs_conn ..

theorem resendAll_ports (s : State) (id : Nat) (c : Conn) : (resendAll s id c).host.ports = s.host.ports := by
  refine foldl_keeps (g := fun t : State => t.host.ports) (fun t k _ => ?_) s
  exact sendSegs_ports ..

/-- Orphaning queues leaves every connection and every port; queue 0 may be orphaned with them (R249, R251). -/
theorem orphan_host (s : State) (id : Nat) : ∃ o n, (orphan s id).host = { s.host with orphan0 := o, next0 := n } := by
  unfold orphan
  extract_lets qs f g s1 s2 s3
  show ∃ o n, s3.host = _
  have h2 : ∃ o, s2.host = { s.host with orphan0 := o } := by
    dsimp only [s2]
    split
    · exact ⟨true, rfl⟩
    · exact ⟨s.host.orphan0, rfl⟩
  obtain ⟨o, h2⟩ := h2
  dsimp only [s3]
  split
  · exact ⟨o, none, congrArg (fun h : HostIf => { h with next0 := none }) h2⟩
  · exact ⟨o, s.host.next0, h2⟩

/-- A connection that a port takes with it when it goes down: moved to its alternate on the other port, or failed (R250). -/
def Conn.offPort (c : Conn) : Conn :=
  match c.alt with
  | some (a, u) => { c with port := 1 - c.port, addr := a, udp := u }
  | none => { c with failed := true, armed := 0 }

theorem Conn.offPort_fails {c : Conn} (alone : c.alt = none) : c.offPort = { c with failed := true, armed := 0 } := by
  unfold Conn.offPort
  rw [alone]

theorem Conn.offPort_moves {c : Conn} {a : BitVec 128} {u : Nat} (alt : c.alt = some (a, u)) :
    c.offPort = { c with port := 1 - c.port, addr := a, udp := u } := by
  unfold Conn.offPort
  rw [alt]

theorem Conn.standing_offPort (c : Conn) : c.standing.offPort.standing = c.offPort.standing := by
  unfold Conn.offPort
  rw [show c.standing.alt = c.alt from rfl]
  cases c.alt <;> rfl

/-- A connection that has failed, before the event that says so: its replies are discarded and its queues orphaned (R249). -/
def connFailed (s : State) (id : Nat) (k : Conn) : State :=
  ackEvents (orphan ((setConn s id { k with failed := true, armed := 0, store := [] }).modHost fun h =>
    { h with storeUsed := h.storeUsed - storeBytes k.store }) id) id fun _ => true

theorem connFailed_conn (s : State) (id : Nat) (k : Conn) (j : Nat) : getConn (connFailed s id k) j =
    if j = id then some { k with failed := true, armed := 0, store := [] } else getConn s j := by
  unfold connFailed
  generalize hv : State.modHost _ _ = v
  obtain ⟨o, n, orphaned⟩ := orphan_host v id
  show Tab.get (orphan v id).host.conns j = _
  rw [orphaned, ← hv]
  exact getConn_setConn s id j _

theorem connFailed_ports (s : State) (id : Nat) (k : Conn) : (connFailed s id k).host.ports = s.host.ports := by
  unfold connFailed
  generalize hv : State.modHost _ _ = v
  obtain ⟨o, n, orphaned⟩ := orphan_host v id
  show (orphan v id).host.ports = _
  rw [orphaned, ← hv]
  rfl

section
variable {s : State} {id : Nat} {k : Conn} (hk : getConn s id = some k)
include hk

theorem moveConn_conn (a : BitVec 128) (u : Nat) (j : Nat) : (getConn (moveConn s id a u) j).map Conn.standing =
    if j = id then some { k with port := 1 - k.port, addr := a, udp := u }.standing else (getConn s j).map Conn.standing := by
  unfold moveConn
  rw [hk]
  refine (bumpN_sameConns _ failoverCnt 1 j).trans ?_
  rw [resendAll_conn, getConn_setConn]
  split <;> rfl

theorem failConn_eq (works : k.failed = false) (opened : k.closed = false) (cause : Nat) : failConn s id cause =
    bump (raiseEvent (connFailed s id k) 0x0602 (leBytes 2 id ++ [BitVec.ofNat 8 cause])) connFailCnt := by
  unfold failConn
  rw [hk]
  exact if_neg (by simp [works, opened])

theorem failConn_conn (works : k.failed = false) (opened : k.closed = false) (cause : Nat) (j : Nat) :
    (getConn (failConn s id cause) j).map Conn.standing =
      if j = id then some { k with failed := true, armed := 0 }.standing else (getConn s j).map Conn.standing := by
  rw [failConn_eq hk works opened]
  refine (bumpN_sameConns _ connFailCnt 1 j).trans ((raiseEvent_sameConns _ _ _ j).trans ?_)
  rw [connFailed_conn]
  split <;> rfl

end

theorem moveConn_ports (s : State) (id : Nat) (a : BitVec 128) (u : Nat) : (moveConn s id a u).host.ports = s.host.ports := by
  unfold moveConn
  split
  · rfl
  · exact (bumpN_ports ..).trans (resendAll_ports ..)

theorem failConn_ports (s : State) (id cause : Nat) : (failConn s id cause).host.ports = s.host.ports := by
  cases hk : getConn s id with
  | none => simp [failConn, hk]
  | some k =>
    by_cases gone : (k.failed || k.closed) = true
    · simp [failConn, hk, gone]
    · obtain ⟨works, opened⟩ : k.failed = false ∧ k.closed = false := by simpa using gone
      rw [failConn_eq hk works opened]
      exact (bumpN_ports ..).trans ((raiseEvent_ports ..).trans (connFailed_ports ..))

/-! ## A port that goes down -/

/-- What becomes of a connection whose port goes down (R250). -/
def leavePort (s : State) (x : Nat × Conn) : State :=
  match x.2.alt with
  | some (a, u) => moveConn s x.1 a u
  | none => failConn s x.1 3

theorem leavePort_ports (s : State) (x : Nat × Conn) : (leavePort s x).host.ports = s.host.ports := by
  unfold leavePort
  split
  · exact moveConn_ports ..
  · exact failConn_ports ..

/-- A connection leaves its port as it stood on it; no other connection moves. -/
theorem leavePort_conn {s : State} {id : Nat} {c : Conn} (stands : (getConn s id).map Conn.standing = some c.standing)
    (works : c.failed = false) (opened : c.closed = false) (j : Nat) : (getConn (leavePort s (id, c)) j).map Conn.standing =
      if j = id then some c.offPort.standing else (getConn s j).map Conn.standing := by
  obtain ⟨k, hk, same⟩ := Option.map_eq_some_iff.mp stands
  have off : k.offPort.standing = c.offPort.standing := by rw [← k.standing_offPort, same, c.standing_offPort]
  have works' : k.failed = false := by rw [show k.failed = k.standing.failed from rfl, same]; exact works
  have opened' : k.closed = false := by rw [show k.closed = k.standing.closed from rfl, same]; exact opened
  have sameAlt : k.alt = c.alt := by rw [show k.alt = k.standing.alt from rfl, same]; rfl
  rw [← off]
  cases alt : c.alt with
  | none =>
    have leaves : leavePort s (id, c) = failConn s id 3 := by simp [leavePort, alt]
    rw [leaves, Conn.offPort_fails (sameAlt.trans alt)]
    exact failConn_conn hk works' opened' 3 j
  | some x =>
    have leaves : leavePort s (id, c) = moveConn s id x.1 x.2 := by simp [leavePort, alt]
    rw [leaves, Conn.offPort_moves (sameAlt.trans alt)]
    exact moveConn_conn hk x.1 x.2 j

/-- Every connection of a list leaves its port, and no other one moves. -/
theorem foldl_leavePort {xs : Tab Conn} {lo : Nat} (w : Tab.risingFrom lo xs = true) (s : State)
    (stands : ∀ id c, Tab.get xs id = some c →
      (getConn s id).map Conn.standing = some c.standing ∧ c.failed = false ∧ c.closed = false) (j : Nat) :
    (getConn (xs.foldl leavePort s) j).map Conn.standing =
      ((Tab.get xs j).map fun c => some c.offPort.standing).getD ((getConn s j).map Conn.standing) := by
  induction xs generalizing s lo with
  | nil => rfl
  | cons x r ih =>
    obtain ⟨id, c⟩ := x
    simp only [Tab.risingFrom, Bool.and_eq_true, decide_eq_true_eq] at w
    obtain ⟨-, rest⟩ := w
    obtain ⟨here, works, opened⟩ := stands id c (if_pos rfl)
    have moved := leavePort_conn here works opened
    have later (i : Nat) (d : Conn) (h : Tab.get r i = some d) : i ≠ id := by
      rintro rfl
      rw [Tab.get_below rest (Nat.lt_succ_self i)] at h
      cases h
    have next := ih rest (leavePort s (id, c)) fun i d h => by
      have other := later i d h
      rw [moved i, if_neg other]
      exact stands i d ((if_neg other).trans h)
    refine next.trans ?_
    rw [moved j, Tab.get]
    by_cases same : j = id
    · subst same
      rw [Tab.get_below rest (Nat.lt_succ_self j), if_pos rfl, if_pos rfl]
      rfl
    · rw [if_neg same, if_neg same]

theorem Tab.get_filter {α : Type} {t : Tab α} {lo : Nat} (w : Tab.risingFrom lo t = true) (p : α → Bool) (x : Nat) :
    Tab.get (t.filter fun y => p y.2) x = (Tab.get t x).filter p := by
  induction t generalizing lo with
  | nil => rfl
  | cons y r ih =>
    obtain ⟨k, v⟩ := y
    simp only [Tab.risingFrom, Bool.and_eq_true, decide_eq_true_eq] at w
    obtain ⟨-, rest⟩ := w
    have next := ih rest
    by_cases here : x = k
    · subst here
      rw [show Tab.get ((x, v) :: r) x = some v from if_pos rfl, Option.filter_some]
      split
      · next keep =>
        rw [List.filter_cons_of_pos (p := fun y : Nat × α => p y.2) keep]
        exact if_pos rfl
      · next drop =>
        rw [List.filter_cons_of_neg (p := fun y : Nat × α => p y.2) drop, next, Tab.get_below rest (Nat.lt_succ_self x)]
        rfl
    · rw [show Tab.get ((k, v) :: r) x = Tab.get r x from if_neg here, ← next]
      by_cases keep : p v = true
      · rw [List.filter_cons_of_pos (p := fun y : Nat × α => p y.2) keep]
        exact if_neg here
      · rw [List.filter_cons_of_neg (p := fun y : Nat × α => p y.2) keep]

/-- A port that is down (R236). -/
def Port.down (r : Port) : Port := { r with state := 0, pcs := false, rxMgmt := 0, rxData := 0 }

theorem portDownCore_eq (s : State) (p : Nat) : portDownCore s p =
    let left := (connsOn s p).foldl leavePort (updPort s p Port.down)
    if ((connsOn s p).countP fun x => x.2.alt.isSome) = 0 then left
    else raiseEvent left 0x0601 ([BitVec.ofNat 8 p, 0, 0, 0] ++ leBytes 4 ((connsOn s p).countP fun x => x.2.alt.isSome)) := rfl

theorem portDownCore_ports (s : State) (p : Nat) : (portDownCore s p).host.ports = updAt s.host.ports p Port.down := by
  have left : ((connsOn s p).foldl leavePort (updPort s p Port.down)).host.ports = updAt s.host.ports p Port.down :=
    foldl_keeps (g := fun t : State => t.host.ports) (fun t x _ => leavePort_ports t x) _
  rw [portDownCore_eq]
  dsimp only
  split
  · exact left
  · exact (raiseEvent_ports ..).trans left

/-- The connections of a port that goes down leave it, and the others stay (R250). -/
theorem portDownCore_conn {s : State} {p id : Nat} {c : Conn} (w : Tab.wf s.host.conns = true) (hc : getConn s id = some c)
    (works : c.failed = false) (opened : c.closed = false) : (getConn (portDownCore s p) id).map Conn.standing =
      some (if c.port = p then c.offPort else c).standing := by
  have reads (i : Nat) : Tab.get (connsOn s p) i = (getConn s i).filter fun c => c.port == p && !c.failed && !c.closed :=
    Tab.get_filter w (fun c : Conn => c.port == p && !c.failed && !c.closed) i
  have left := foldl_leavePort (Tab.risingFrom_filter _ w) (updPort s p Port.down) (xs := connsOn s p) (fun i d h => by
    rw [reads] at h
    obtain ⟨hd, on⟩ := Option.filter_eq_some_iff.mp h
    simp only [Bool.and_eq_true, beq_iff_eq, Bool.not_eq_true'] at on
    obtain ⟨⟨-, works⟩, opened⟩ := on
    exact ⟨congrArg (Option.map Conn.standing) hd, works, opened⟩) id
  have here : getConn (updPort s p Port.down) id = some c := hc
  rw [reads, hc, here] at left
  have standing : (getConn (portDownCore s p) id).map Conn.standing =
      (getConn ((connsOn s p).foldl leavePort (updPort s p Port.down)) id).map Conn.standing := by
    rw [portDownCore_eq]
    dsimp only
    split
    · rfl
    · exact raiseEvent_sameConns _ _ _ id
  rw [standing, left]
  by_cases on : c.port = p
  · simp [Option.filter_some, on, works, opened]
  · simp [Option.filter_some, on]

end Sys2Proof.Machine

/-! The ports' own part of O33: a port that goes down or comes up, its cage, and its registers
(R236, R238, R250, R389, R393, R408). -/

namespace Sys2Proof.Machine

/-! ## A port that goes down, with its source -/

/-- The ports of a state, and its connections as they stand. -/
def State.sameHost (s t : State) : Prop := t.host.ports = s.host.ports ∧ s.sameConns t

theorem State.sameHost.trans {s t u : State} (h : s.sameHost t) (g : t.sameHost u) : s.sameHost u :=
  ⟨g.1.trans h.1, h.2.trans g.2⟩

theorem sameHost_of_host {s t : State} (h : t.host = s.host) : s.sameHost t := ⟨congrArg HostIf.ports h, sameConns_of_host h⟩

theorem getPort_congr {s t : State} (h : t.host.ports = s.host.ports) (p : Nat) : getPort t p = getPort s p := by
  unfold getPort
  rw [h]

theorem getPort_portDownCore {s : State} {p : Nat} (inside : p < s.host.ports.length) (q : Nat) :
    getPort (portDownCore s p) q = if q = p then (getPort s p).down else getPort s q :=
  (getPort_congr (t := portDownCore s p) (s := updPort s p Port.down) (portDownCore_ports s p) q).trans
    (getPort_updPort s p q Port.down inside)

/-- The source of a port that is down takes nothing with it: the port is out already (R345, R408). -/
theorem portDown_host {s : State} {p : Nat} (inside : p < s.host.ports.length) : (portDownCore s p).sameHost (portDown s p) := by
  have out : (getPort (portDownCore s p) p).pcs = false := by
    rw [getPort_portDownCore inside, if_pos rfl]
    rfl
  have unit : unitOf 72 15 (.port p) = .port p := rfl
  refine raiseSrc_module_keeps (P := (portDownCore s p).sameHost) (fun t a n h => h.trans ⟨bumpN_ports .., bumpN_sameConns t a n⟩)
    (fun t t' follows h => h.trans (sameHost_of_host (follows.frame .host (by decide)))) (fun raise t h => ?_) (fun t h => ?_)
    ⟨rfl, fun _ => rfl⟩
  · rw [unit, fenceUnit, if_neg]
    · exact h
    · rw [getPort_congr h.1, out]
      decide
  · rw [unit]
    exact h

/-- A port that goes down, and the others as they were (R250). -/
theorem getPort_portDown {s : State} {p : Nat} (inside : p < s.host.ports.length) (q : Nat) :
    getPort (portDown s p) q = if q = p then (getPort s p).down else getPort s q :=
  (getPort_congr (portDown_host inside).1 q).trans (getPort_portDownCore inside q)

theorem portDown_conn {s : State} {p id : Nat} {c : Conn} (inside : p < s.host.ports.length) (w : Tab.wf s.host.conns = true)
    (hc : getConn s id = some c) (works : c.failed = false) (opened : c.closed = false) :
    (getConn (portDown s p) id).map Conn.standing = some (if c.port = p then c.offPort else c).standing :=
  ((portDown_host inside).2 id).trans (portDownCore_conn w hc works opened)

/-- What is read of a connection as it stands is read of it (R249, R250). -/
theorem getConn_view {s : State} {id : Nat} {c : Conn} (h : (getConn s id).map Conn.standing = some c.standing) {α : Type}
    {f : Conn → α} (view : ∀ k : Conn, f k.standing = f k) : (getConn s id).map f = some (f c) := by
  obtain ⟨k, hk, same⟩ := Option.map_eq_some_iff.mp h
  rw [hk, Option.map_some, ← view k, same, view c]

theorem length_portDown {s : State} {p : Nat} (inside : p < s.host.ports.length) :
    (portDown s p).host.ports.length = s.host.ports.length := by
  rw [(portDown_host inside).1, portDownCore_ports]
  simp

/-! ## The rows -/

section
variable {s : State} {p : Nat} (up : s.power.phase = .up)
include up

theorem exec_hostPortDown (few : p < 2) (linked : (getPort s p).pcs = true) : exec (.hostPortDown p) s = .next (portDown s p) := by
  simp only [exec, execHostPortDown, isUp, up, linked, few]
  rfl

theorem exec_hostPortDown_mgmt (linked : (getPort s 2).pcs = true) : exec (.hostPortDown 2) s = .next (updPort s 2 Port.down) := by
  simp only [exec, execHostPortDown, isUp, up, linked]
  rfl

theorem exec_hostPortUp (out : (getPort s p).pcs = false) (state : (getPort s p).state = 0 ∨ (getPort s p).state = 4) :
    exec (.hostPortUp p) s = .next (
      if portsOut (updPort s p fun r => { r with pcs := true, state := 1 }) then
        updPort s p fun r => { r with pcs := true, state := 1 }
      else dropPins (updPort s p fun r => { r with pcs := true, state := 1 }) 72 (bit64 15)) :=
  congrArg Host.Outcome.next (if_pos (by simpa [isUp, up, out] using state))

theorem exec_moduleInserted (few : p < 2) (out : (getPort s p).pcs = false) (b : Bool) : exec (.osfpModuleInserted p b) s =
    .next (updPort s p fun r => { r with state := if b then 0 else 2 }) :=
  congrArg Host.Outcome.next (if_pos (by simp [isUp, up, few, out]))

end

/-- A port whose cage is out is down, in state 3 (R236, R393). -/
theorem getPort_cageOut {s : State} {p : Nat} (inside : p < s.host.ports.length) :
    (getPort (cageOut s p) p).state = 3 ∧ (getPort (cageOut s p) p).pcs = false := by
  unfold cageOut
  by_cases linked : (getPort s p).pcs = true
  · rw [if_pos linked, getPort_updPort _ _ _ _ (by rw [length_portDown inside]; exact inside), if_pos rfl, getPort_portDown inside,
      if_pos rfl]
    exact ⟨rfl, rfl⟩
  · rw [if_neg linked, getPort_updPort _ _ _ _ inside, if_pos rfl]
    exact ⟨rfl, Bool.eq_false_iff.mpr linked⟩

/-! ## Rates taken up -/

/-- A port that takes up its rate: at the written rate, and down where that is a new one (R239, R389). -/
theorem getPort_takeUpRate {s : State} {p : Nat} (inside : p < s.host.ports.length) :
    (getPort (takeUpRate s p) p).useRate = (getPort s p).rate ∧
    ((getPort s p).rate ≠ (getPort s p).useRate → (getPort (takeUpRate s p) p).pcs = false) := by
  unfold takeUpRate
  by_cases same : (getPort s p).rate = (getPort s p).useRate
  · rw [if_pos same]
    exact ⟨same.symm, fun other => absurd same other⟩
  rw [if_neg same]
  by_cases linked : (getPort s p).pcs = true
  · rw [if_pos linked, getPort_updPort _ _ _ _ (by rw [length_portDown inside]; exact inside), if_pos rfl, getPort_portDown inside,
      if_pos rfl]
    exact ⟨rfl, fun _ => rfl⟩
  · rw [if_neg linked, getPort_updPort _ _ _ _ inside, if_pos rfl]
    exact ⟨rfl, fun _ => Bool.eq_false_iff.mpr linked⟩

/-- Another port is not touched by it. -/
theorem getPort_takeUpRate_other {s : State} {p q : Nat} (inside : p < s.host.ports.length) (other : q ≠ p) :
    getPort (takeUpRate s p) q = getPort s q ∧ (takeUpRate s p).host.ports.length = s.host.ports.length := by
  unfold takeUpRate
  split
  · exact ⟨rfl, rfl⟩
  split
  · refine ⟨?_, by rw [updPort]; simpa using length_portDown inside⟩
    rw [getPort_updPort _ _ _ _ (by rw [length_portDown inside]; exact inside), if_neg other, getPort_portDown inside, if_neg other]
  · refine ⟨?_, by simp [updPort]⟩
    rw [getPort_updPort _ _ _ _ inside, if_neg other]

theorem getPort_takeUpRates {s : State} {p : Nat} (few : p < 2) (count : s.host.ports.length = 3) :
    (getPort (takeUpRates s) p).useRate = (getPort s p).rate ∧
    ((getPort s p).rate ≠ (getPort s p).useRate → (getPort (takeUpRates s) p).pcs = false) := by
  obtain ⟨second, length⟩ := getPort_takeUpRate_other (s := s) (p := 0) (q := 1) (by omega) (by decide)
  have inside : 1 < (takeUpRate s 0).host.ports.length := by rw [length]; omega
  rw [takeUpRates_eq]
  obtain rfl | rfl : p = 0 ∨ p = 1 := by omega
  · rw [(getPort_takeUpRate_other inside (q := 0) (by decide)).1]
    exact getPort_takeUpRate (by omega)
  · rw [← second]
    exact getPort_takeUpRate inside

/-! ## The address registers -/

theorem bitOf_toNat (v : BitVec 64) (i : Nat) : bitOf v.toNat i = v.getLsbD i := by
  rw [bitOf, BitVec.getLsbD, Nat.testBit_eq_decide_div_mod_eq]
  rfl

theorem vlanId_eq (v : BitVec 64) : BitVec.ofNat 12 (bitsOf v.toNat 28 17) = v.extractLsb' 17 12 := by
  refine BitVec.eq_of_toNat_eq ?_
  rw [BitVec.extractLsb'_toNat, BitVec.toNat_ofNat, bitsOf, Nat.mod_mod, Nat.shiftRight_eq_div_pow]

/-- The low bits of a word with its top bit, as its register keeps them. -/
theorem keepTop_eq (v : BitVec 64) {n : Nat} (low : n < 63) :
    BitVec.ofNat 64 (bitsOf v.toNat n 0 + fld (bitsOf v.toNat 63 63) 63) = v &&& BitVec.ofNat 64 (2 ^ 63 + (2 ^ (n + 1) - 1)) := by
  refine BitVec.eq_of_getLsbD_eq fun i inside => ?_
  have small : bitsOf v.toNat n 0 < 2 ^ 63 :=
    (Nat.mod_lt _ (Nat.two_pow_pos _)).trans_le (Nat.pow_le_pow_right (by decide) (by omega))
  have mask : 2 ^ (n + 1) - 1 < 2 ^ 63 :=
    (Nat.sub_lt (Nat.two_pow_pos _) Nat.one_pos).trans_le (Nat.pow_le_pow_right (by decide) (by omega))
  rw [BitVec.getLsbD_and, BitVec.getLsbD_ofNat, BitVec.getLsbD_ofNat, fld, Nat.add_comm, Nat.mul_comm,
    Nat.testBit_two_pow_mul_add _ small, show 2 ^ 63 + (2 ^ (n + 1) - 1) = 2 ^ 63 * 1 + (2 ^ (n + 1) - 1) by omega,
    Nat.testBit_two_pow_mul_add _ mask, BitVec.getLsbD]
  by_cases below : i < 63
  · rw [if_pos below, if_pos below, Nat.testBit_two_pow_sub_one, bitsOf, Nat.testBit_mod_two_pow]
    simp [inside, Bool.and_comm]
  · obtain rfl : i = 63 := by omega
    simp [bitsOf, Nat.testBit_eq_decide_div_mod_eq]

theorem ipv4_eq (v : BitVec 64) :
    BitVec.ofNat 64 (bitsOf v.toNat 37 0 + fld (bitsOf v.toNat 63 63) 63) = v &&& 0x8000003FFFFFFFFF := by
  rw [keepTop_eq v (by decide)]
  rfl

theorem ipv6ctl_eq (v : BitVec 64) :
    BitVec.ofNat 64 (bitsOf v.toNat 7 0 + fld (bitsOf v.toNat 63 63) 63) = v &&& 0x80000000000000FF := by
  rw [keepTop_eq v (by decide)]
  rfl

theorem leBytes_leNat (bs : List Byte) : leBytes bs.length (leNat bs) = bs := by
  induction bs with
  | nil => rfl
  | cons b bs ih =>
    have byte : b.toNat < 256 := b.isLt
    have rest : (b.toNat + 256 * leNat bs) / 256 = leNat bs := by omega
    have first : BitVec.ofNat 8 (b.toNat + 256 * leNat bs) = b := by
      refine BitVec.eq_of_toNat_eq ?_
      rw [BitVec.toNat_ofNat]
      omega
    show BitVec.ofNat 8 (b.toNat + 256 * leNat bs) :: leBytes bs.length ((b.toNat + 256 * leNat bs) / 256) = b :: bs
    rw [first, rest, ih]

theorem leNat_lt (bs : List Byte) : leNat bs < 256 ^ bs.length := by
  induction bs with
  | nil => decide
  | cons b bs ih =>
    have byte : b.toNat < 256 := b.isLt
    rw [leNat, List.length_cons, Nat.pow_succ]
    omega

/-- The bytes of an IPv6 address in transmission order spell it. -/
theorem beBytes_address {bs : List Byte} (whole : bs.length = 16) : beBytes 16 (BitVec.ofNat 128 (beNat bs)).toNat = bs := by
  have fits : beNat bs < 2 ^ 128 := by
    have := leNat_lt bs.reverse
    rw [List.length_reverse, whole] at this
    exact this
  have bytes := leBytes_leNat bs.reverse
  rw [List.length_reverse, whole] at bytes
  rw [BitVec.toNat_ofNat, Nat.mod_eq_of_lt fits, beBytes, beNat, bytes, List.reverse_reverse]

theorem length_beBytes (n v : Nat) : (beBytes n v).length = n := by rw [beBytes, List.length_reverse, length_leBytes]

theorem putHalf_first (a : BitVec 128) (v : Nat) :
    beBytes 16 (putHalf a 0 v).toNat = leBytes 8 v ++ (beBytes 16 a.toNat).drop 8 :=
  beBytes_address (by simp [length_beBytes])

theorem putHalf_second (a : BitVec 128) (v : Nat) :
    beBytes 16 (putHalf a 1 v).toNat = (beBytes 16 a.toNat).take 8 ++ leBytes 8 v :=
  beBytes_address (by simp [length_beBytes])

section
variable (s : State) (p v : Nat)

theorem writeAddress_vlan : writeAddress s p 0x00 v =
    updPort s p fun r => { r with vlanId := BitVec.ofNat 12 (bitsOf v 28 17), vlanEn := bitOf v 29 } := rfl

theorem writeAddress_ipv4 : writeAddress s p 0x10 v =
    updPort s p fun r => { r with ipv4 := BitVec.ofNat 64 (bitsOf v 37 0 + fld (bitsOf v 63 63) 63) } := rfl

theorem writeAddress_first : writeAddress s p 0x18 v = updPort s p fun r => { r with ipv6 := putHalf r.ipv6 0 v } := rfl

theorem writeAddress_second : writeAddress s p 0x20 v = updPort s p fun r => { r with ipv6 := putHalf r.ipv6 1 v } := rfl

theorem writeAddress_ipv6ctl : writeAddress s p 0x28 v =
    updPort s p fun r => { r with ipv6ctl := BitVec.ofNat 64 (bitsOf v 7 0 + fld (bitsOf v 63 63) 63) } := rfl

end

section
variable {s : State} {p : Nat} (up : s.power.phase = .up) (inside : p < s.host.ports.length)
include up inside

/-- A write of an address register changes its port as the register says. -/
theorem exec_addressWrite (off : Nat) (v : BitVec 64) {f : Port → Port} (written : writeAddress s p off v.toNat = updPort s p f) :
    ∃ t, exec (.hostifAddressWrite p off v) s = .next t ∧ getPort t p = f (getPort s p) := by
  refine ⟨updPort s p f, ?_, ?_⟩
  · exact (congrArg Host.Outcome.next (if_pos (by simp [isUp, up]))).trans (congrArg Host.Outcome.next written)
  · rw [getPort_updPort _ _ _ _ inside, if_pos rfl]

theorem addressWrites (v : BitVec 64) :
    (completes (.hostifAddressWrite p 0x00 v) s fun t => (getPort t p).vlanId = v.extractLsb' 17 12 ∧
      (getPort t p).vlanEn = v.getLsbD 29 ∧ (getPort t p).useVlan = (getPort s p).useVlan) ∧
    (completes (.hostifAddressWrite p 0x10 v) s fun t => (getPort t p).ipv4 = v &&& 0x8000003FFFFFFFFF ∧
      (getPort t p).useIpv4 = (getPort s p).useIpv4) ∧
    (completes (.hostifAddressWrite p 0x28 v) s fun t => (getPort t p).ipv6ctl = v &&& 0x80000000000000FF ∧
      (getPort t p).useIpv6ctl = (getPort s p).useIpv6ctl) ∧
    (completes (.hostifAddressWrite p 0x18 v) s fun t => (getPort t p).useIpv6 = (getPort s p).useIpv6 ∧
      beBytes 16 (getPort t p).ipv6.toNat = leBytes 8 v.toNat ++ (beBytes 16 (getPort s p).ipv6.toNat).drop 8) ∧
    (completes (.hostifAddressWrite p 0x20 v) s fun t => (getPort t p).useIpv6 = (getPort s p).useIpv6 ∧
      beBytes 16 (getPort t p).ipv6.toNat = (beBytes 16 (getPort s p).ipv6.toNat).take 8 ++ leBytes 8 v.toNat) := by
  have writes {off : Nat} {f : Port → Port} (written : writeAddress s p off v.toNat = updPort s p f) {P : Port → Prop}
      (post : P (f (getPort s p))) : completes (.hostifAddressWrite p off v) s fun t => P (getPort t p) := by
    obtain ⟨t, row, port⟩ := exec_addressWrite up inside off v written
    exact ⟨t, row, by beta_reduce; rw [port]; exact post⟩
  refine ⟨writes (P := fun r => r.vlanId = _ ∧ r.vlanEn = _ ∧ r.useVlan = _) (writeAddress_vlan ..)
      ⟨vlanId_eq v, bitOf_toNat v 29, rfl⟩,
    writes (P := fun r => r.ipv4 = _ ∧ r.useIpv4 = _) (writeAddress_ipv4 ..) ⟨ipv4_eq v, rfl⟩,
    writes (P := fun r => r.ipv6ctl = _ ∧ r.useIpv6ctl = _) (writeAddress_ipv6ctl ..) ⟨ipv6ctl_eq v, rfl⟩,
    writes (P := fun r => r.useIpv6 = _ ∧ beBytes 16 r.ipv6.toNat = _) (writeAddress_first ..) ⟨rfl, putHalf_first ..⟩,
    writes (P := fun r => r.useIpv6 = _ ∧ beBytes 16 r.ipv6.toNat = _) (writeAddress_second ..) ⟨rfl, putHalf_second ..⟩⟩

end

/-- Settles O33: each row by its lemma; where the connections of a port stand once it is down is `portDown_conn`. -/
theorem hostPortsChange : Obligations.HostPortsChange := by
  unfold Obligations.HostPortsChange
  refine ⟨fun s p up few count linked w => ?_, fun s up count linked => ?_, fun s p up out => ?_, fun s p up linked => ?_,
    fun s p up few count out state => ?_, fun s p b up few count out => ?_, fun s p b up linked => ?_, fun s p up few count => ?_,
    fun s p r up few count rate => ?_, fun s p r up none_ => ?_, fun s p few count => getPort_takeUpRates few count,
    fun s p v up few count => addressWrites up (by omega) v⟩
  · have inside : p < s.host.ports.length := by omega
    have port := getPort_portDown inside
    refine ⟨_, exec_hostPortDown up few linked, by rw [port, if_pos rfl]; rfl, by rw [port, if_pos rfl]; rfl,
      fun q other => by rw [port, if_neg other], fun id c hc works opened => ?_⟩
    have stands := portDown_conn inside w hc works opened
    refine ⟨fun other => ?_, fun on alone => ?_, fun a u on alt => ?_⟩
    · rw [if_neg other] at stands
      refine ⟨(getConn_view stands (f := fun k => (k.failed, k.closed)) fun _ => rfl).trans ?_,
        getConn_view stands (f := Conn.port) fun _ => rfl⟩
      rw [works, opened]
    · rw [if_pos on, Conn.offPort_fails alone] at stands
      exact getConn_view stands (f := Conn.failed) fun _ => rfl
    · rw [if_pos on, Conn.offPort_moves alt] at stands
      refine ⟨(getConn_view stands (f := fun k => (k.failed, k.closed)) fun _ => rfl).trans ?_,
        (getConn_view stands (f := fun k => (k.port, k.addr, k.udp)) fun _ => rfl).trans ?_⟩
      · dsimp only
        rw [works, opened]
      · rw [on]
  · have inside : 2 < s.host.ports.length := by omega
    refine ⟨_, exec_hostPortDown_mgmt up linked, ?_, ?_, rfl, fun q other => ?_⟩
    · rw [getPort_updPort _ _ _ _ inside, if_pos rfl]
      rfl
    · rw [getPort_updPort _ _ _ _ inside, if_pos rfl]
      rfl
    · rw [getPort_updPort _ _ _ _ inside, if_neg other]
  · exact congrArg Host.Outcome.next (if_neg (by simp [out]))
  · exact congrArg Host.Outcome.next (if_neg (by simp [linked]))
  · have inside : p < s.host.ports.length := by omega
    have port (q : Nat) := getPort_updPort s p q (fun r => { r with pcs := true, state := 1 }) inside
    by_cases still : portsOut (updPort s p fun r => { r with pcs := true, state := 1 }) = true
    · refine ⟨_, (exec_hostPortUp up out state).trans (congrArg Host.Outcome.next (if_pos still)), by rw [port, if_pos rfl],
        by rw [port, if_pos rfl], rfl, fun q other => by rw [port, if_neg other], fun _ => rfl,
        fun last => absurd still (by simp [last])⟩
    · refine ⟨_, (exec_hostPortUp up out state).trans (congrArg Host.Outcome.next (if_neg still)),
        (congrArg Port.pcs (port p)).trans (by rw [if_pos rfl]), (congrArg Port.state (port p)).trans (by rw [if_pos rfl]), rfl,
        fun q other => (port q).trans (if_neg other), fun more => absurd more still, fun _ => rfl⟩
  · have inside : p < s.host.ports.length := by omega
    refine ⟨_, exec_moduleInserted up few out b, ?_, rfl⟩
    rw [getPort_updPort _ _ _ _ inside, if_pos rfl]
  · exact congrArg Host.Outcome.next (if_neg (by simp [linked]))
  · have inside : p < s.host.ports.length := by omega
    have taken : (isUp s && decide (p < 2)) = true := by simp [isUp, up, few]
    exact ⟨⟨_, congrArg Host.Outcome.next (if_pos taken), getPort_cageOut inside⟩,
      ⟨_, congrArg Host.Outcome.next (if_pos taken), getPort_cageOut inside⟩⟩
  · have inside : p < s.host.ports.length := by omega
    have port (q : Nat) := getPort_updPort s p q (fun x => { x with rate := r }) inside
    have written : writeRate s p r = updPort s p fun x => { x with rate := r } := if_neg (by simpa [show p ≠ 2 by omega] using rate)
    refine ⟨updPort s p fun x => { x with rate := r }, ?_, by rw [port, if_pos rfl], by rw [port, if_pos rfl],
      by rw [port, if_pos rfl],
      rfl, fun q other => by rw [port, if_neg other]⟩
    exact (congrArg Host.Outcome.next (if_pos (by simp [isUp, up]))).trans (congrArg Host.Outcome.next written)
  · have ignored : writeRate s p r = s := if_pos (by simpa using none_)
    exact (congrArg Host.Outcome.next (if_pos (by simp [isUp, up]))).trans (congrArg Host.Outcome.next ignored)

end Sys2Proof.Machine

/-! The transport (O32): a table in which an id stands twice, where a connection that fails keeps an event (R248, R249). -/

namespace Sys2Proof.Machine

/-- A connection on port 0 with the groups it is armed for and what is kept of it. -/
def connWith (armed : BitVec 32) (store : List Kept) : Conn :=
  { admin := false, port := 0, openPort := 0, addr := 5, udp := 4000, home := (5, 4000), alt := none, rxNext := 1
    txNext := 1, asm := none, open_ := 0, closing := false, failed := false, closed := false, armed := armed, store := store }

/-- A reply whose third failure is the next one (R248). -/
def unanswered : Kept := { first := 5, count := 1, bytes := 200, failures := 2, event := none, segs := [⟨3, [7]⟩] }

/-- A table that holds the id 1 twice: a connection whose reply fails next, and behind it one armed for the events of group 6, to
which the failure of a connection belongs. -/
def twiceHeld : State :=
  { State.reset with
    power := { Power.reset with phase := .up }
    host := { HostIf.reset with conns := [(1, connWith 0 [unanswered]), (1, connWith 64 [])] } }

theorem exec_retransmit_twiceHeld : exec (.replyRetransmit 1) twiceHeld = .next (failConn twiceHeld 1 2) := rfl

/-- The event of the failure is sent to every armed entry under its id, and the first entry of that id, the failed connection, keeps
it. -/
theorem twiceHeld_keeps : (getConn (failConn twiceHeld 1 2) 1).map (fun k => k.store.length) = some 1 := by decide +kernel

/-- Refutes O32: nothing in it asks that an id stands once in the table of connections. Where it stands twice, a connection that
fails after its third failure keeps the event of its own failure. -/
theorem not_transportActs : ¬ Obligations.TransportActs := by
  unfold Obligations.TransportActs
  rintro ⟨⟨-, -, -, -, -, -, retransmits, -⟩, -⟩
  obtain ⟨-, fails⟩ := retransmits twiceHeld 1 (connWith 0 [unanswered]) unanswered [] rfl rfl rfl rfl rfl
  obtain ⟨t, row, -, empty, -⟩ := fails (by decide)
  obtain rfl : failConn twiceHeld 1 2 = t := Host.Outcome.next.inj (exec_retransmit_twiceHeld.symm.trans row)
  obtain ⟨k, hk, none_⟩ := Option.map_eq_some_iff.mp empty
  have keeps := twiceHeld_keeps
  rw [hk, Option.map_some, none_] at keeps
  exact absurd keeps (by decide)

end Sys2Proof.Machine
